-- ==== Sys2Proof/Word.lean ====
section
/-! DEFINITION. The plain data types of the model: words, byte cells, sparse maps, core numbers. -/

namespace Sys2Proof

/-- A 64-bit register or CSR word (R75, R515). -/
abbrev Word := BitVec 64

/-- One byte. -/
abbrev Byte := BitVec 8

/-- A global core number, 0 to 359 (R19). -/
abbrev CoreId := Fin 360

/-- A stream slot number, 0 to 63 (R52). -/
abbrev SlotId := Fin 64

/-- A sparse map from numbers to values, ascending by key. What an absent key reads as is given at the read. -/
abbrev FMap (α : Type) := List (Nat × α)

/-- Read key `k`; an absent key reads as `d`. -/
def FMap.get {α : Type} (d : α) : FMap α → Nat → α
  | [], _ => d
  | (j, v) :: m, k => if j = k then v else FMap.get d m k

/-- Write key `k`, keeping the keys ascending. -/
def FMap.set {α : Type} : FMap α → Nat → α → FMap α
  | [], k, v => [(k, v)]
  | (j, u) :: m, k, v =>
    if k < j then (k, v) :: (j, u) :: m
    else if j = k then (k, v) :: m
    else (j, u) :: FMap.set m k v

/-- Forget key `k`. -/
def FMap.erase {α : Type} (m : FMap α) (k : Nat) : FMap α := m.filter (fun e => e.1 ≠ k)

/-- The value at key `k`, when the key is present. -/
def FMap.find? {α : Type} : FMap α → Nat → Option α
  | [], _ => none
  | (j, v) :: m, k => if j = k then some v else FMap.find? m k

/-- Bits [lo + len − 1 : lo] of a bit vector, as a number. -/
def fld {n : Nat} (w : BitVec n) (lo len : Nat) : Nat := (w.toNat >>> lo) % 2 ^ len

/-- One bit of a bit vector. -/
def bit {n : Nat} (w : BitVec n) (i : Nat) : Bool := fld w i 1 = 1

/-- Bits [lo + len − 1 : lo] replaced by `v` modulo 2^len, the other bits kept. -/
def setFld {n : Nat} (w : BitVec n) (lo len v : Nat) : BitVec n :=
  BitVec.ofNat n (w.toNat - (fld w lo len) * 2 ^ lo + (v % 2 ^ len) * 2 ^ lo)

/-- Two's complement reading of the low `n` bits of a number. -/
def toSigned (n v : Nat) : Int :=
  let u := v % 2 ^ n
  if u < 2 ^ (n - 1) then (u : Int) else (u : Int) - 2 ^ n

/-- The low `n` bits of the two's complement form of an integer, as a number. -/
def ofSigned (n : Nat) (v : Int) : Nat := (v % (2 ^ n : Int)).toNat

/-- One for true, zero for false. -/
def b2n (b : Bool) : Nat := if b then 1 else 0

/-- A counter of `n` bits that stops at its largest value. -/
def satAdd (n v k : Nat) : Nat := min (2 ^ n - 1) (v + k)

/-- Rounded-up quotient. -/
def cdiv (a b : Nat) : Nat := (a + b - 1) / b

end Sys2Proof
end

