-- ==== Sys2Proof/Syntax.lean ====
section
/-! DEFINITION. The commands of the block: one constructor of `Instr` per row of spec/opcode_table.json, with the row's
operands. A sequencer instruction carries the fields of Table 3.3; a stream row names the core and the slot; an event row
carries what arrives from outside the package or is measured there. -/

namespace Sys2Proof

/-- Second operand of formats A and T (Table 3.3): IMMF = 0 names a register, IMMF = 1 gives IMM32. -/
inductive Op2 where
  | reg (rb : BitVec 5)
  | imm (v : BitVec 32)
  deriving DecidableEq, Repr

/-- A reference to a stream: its core and slot. -/
structure StreamRef where
  core : CoreId
  slot : SlotId
  deriving DecidableEq, Repr

/-- A package norm total exchanged between Cinch units (R262). -/
structure NormTotal where
  v : Int
  count : Nat
  state : Nat
  trunc : Bool
  nf : Bool
  deriving DecidableEq, Repr

/-- The decision of a step as its members apply it (R263, R267, R269): UPDATE or SKIP, whether a READY carried NF_UPD, the
DECIDE values. -/
structure DecideVals where
  update : Bool
  nf : Bool
  normsq : BitVec 32
  gscale : BitVec 32
  nextLs : BitVec 8
  deriving DecidableEq, Repr

/-- A survivor's view of the interrupted step n (R392): its committed step, whether its class D slots of step n have closed,
the packages for which it had sent MIRROR_HELD in step n, those whose complete generation of step n − 1 it holds, the
decision of the step it has committed last (R271), the packages it takes as lost, its latest complete store generation (R399),
and the elements it owned before the new epoch (R395). -/
structure StepView where
  pkg : Nat
  committed : Nat
  slotsClosed : Bool
  mirrors : List Nat
  partner : List Nat
  last : Option DecideVals
  lost : List Nat
  store : Nat
  base : Nat
  len : Nat
  deriving DecidableEq, Repr

/-- The digest of a member table and the epoch that its message names (R270, R391). -/
structure TableHash where
  epoch : BitVec 16
  value : Word
  deriving DecidableEq, Repr

/-- A chunk of a fill as it lands: its number, its bytes, and the step record that comes before the first (R396). -/
structure ChunkIn where
  chunk : BitVec 17
  data : List Byte
  record : List Byte
  deriving DecidableEq, Repr

/-- The training record a peer sends at the end of training (Table 10.2). -/
structure TrainRec where
  pkg : BitVec 12
  port : BitVec 4
  kind : BitVec 2
  gen : Bool
  rates : BitVec 3
  txCount : Word
  deriving DecidableEq, Repr

/-- A link frame as the receiver's decoder gives it (R278, R281): whether the eight codewords decoded, how many symbols were
corrected, slot 0 (Table 10.3) and slots 1 to 29. -/
structure FrameIn where
  decoded : Bool
  corrected : Nat
  hdr : BitVec 256
  slots : List (BitVec 256)
  deriving DecidableEq, Repr

/-- A packet header slot (Table 10.4). -/
structure Packet where
  pkind : BitVec 4
  vc : BitVec 3
  hops : BitVec 2
  dpkg : BitVec 12
  spkg : BitVec 12
  dcore : BitVec 9
  score : BitVec 9
  chan : BitVec 5
  nslot : BitVec 7
  line : BitVec 32
  epoch : BitVec 32
  pcrc : BitVec 32
  deriving DecidableEq, Repr

/-- A packet of one data slot whose content its row names, at the port by which it arrives. -/
structure PacketAt where
  pkt : Packet
  port : Fin 16
  deriving DecidableEq, Repr

/-- A packet with its data slots, at the port by which it arrives. -/
structure PacketIn where
  pkt : Packet
  port : Fin 16
  data : List Byte
  deriving DecidableEq, Repr

/-- A NOTICE at the port by which it arrives: its data slot is the header of the packet it answers (log entry 74). -/
structure NoticeIn where
  pkt : Packet
  port : Fin 16
  about : Packet
  deriving DecidableEq, Repr

/-- A bucket header as it arrives (Table 11.1). -/
structure BktHeader where
  bucket : BitVec 32
  step : BitVec 32
  epoch : BitVec 32
  kind : BitVec 8
  srcPkg : BitVec 12
  count : BitVec 32
  expv : BitVec 32
  elems : BitVec 32
  deriving DecidableEq, Repr

/-- A bucket header in its DATA packet, with the port by which it arrives; the port counts for a header of another package only. -/
structure HeaderIn where
  port : Fin 16
  hdr : BktHeader
  deriving DecidableEq, Repr

/-- A join record (Table 12.6) with the header of Table 15.5. -/
structure JoinRec where
  req : Word
  model : Nat
  be : Bool
  seed : Word
  rt : BitVec 32
  topk : Nat
  topp : BitVec 32
  minp : BitVec 32
  kMax : Nat
  prompt : Nat
  maxNew : Nat
  chunk : Nat
  adapter : Nat
  gen : Nat
  preUse : Word
  preSave : Word
  preLen : Nat
  ringAddr : Word
  ttl : Nat
  retry : Nat
  resume : Bool
  /-- the class indices of the prompt that follow the record (R418) -/
  toks : List (BitVec 32)
  deriving DecidableEq, Repr

/-- A model table entry (Table 12.1). -/
structure ModelRec where
  field : Bool
  classes : Nat
  maxctx : Nat
  pageBytes : Nat
  kvPages : Nat
  eos : List Nat
  draftEn : Bool
  draft : Nat
  sdies : List Nat
  feedTCore : Nat
  feedTChan : Nat
  feedDCore : Nat
  feedDChan : Nat
  fallback : Option Nat
  deriving DecidableEq, Repr

/-- The header of an LC_QUERY and its input (Table 15.7). -/
structure LcQuery where
  req : Word
  part : Nat
  model : Nat
  deadlineUs : Nat
  inLen : Nat
  outMax : Nat
  zeroOk : Bool
  input : List Byte
  deriving DecidableEq, Repr

/-- An RHT datagram as it arrives: the source address and port, the 32-byte header (Table 15.2), the payload, and whether N1 can
buffer it (R405 to R407). -/
structure Datagram where
  addr : Nat
  port : Nat
  hdr : BitVec 256
  payload : List Byte
  buffered : Bool
  /-- the body of its message has zero where Tables 15.4 to 15.7 have zero, and no reserved OP or KIND -/
  bodyOk : Bool := true
  deriving DecidableEq, Repr

/-- One entry of a DOORBELL message: the datagram of its last fragment and the number of the entry (R414). -/
structure DoorbellIn where
  d : Datagram
  entry : Fin 256
  deriving DecidableEq, Repr

/-- Where RDMA READ data belongs: the local QPN it arrives for, and its offset in the part (R428, R429). -/
structure ReadAt where
  qpn : BitVec 24
  offset : Nat
  deriving DecidableEq, Repr

/-- Who makes a memory request (R436, R438). -/
inductive Requester where
  | core (c : CoreId)
  | saveRestore (c : CoreId)
  | n1
  | flash
  | saddle
  deriving DecidableEq, Repr

/-- A memory request: a sector read, or a sector write of 64 bytes (R437). -/
structure HbmReq where
  who : Requester
  addr : BitVec 41
  write : Option (List Byte)
  deriving DecidableEq, Repr

/-- What patrol scrub reads (R442). -/
inductive ScrubTarget where
  | sector (stack : Fin 24) (sector : Nat)
  | line (c : CoreId) (n : BitVec 17)
  | row (c : CoreId) (n : BitVec 10)
  deriving DecidableEq, Repr

/-- A service rail (Table 18.5). -/
inductive Rail where
  | fab | ctl | link | hbm (pair : Fin 12) | flash
  deriving DecidableEq, Repr

/-- The clock a clock-monitor window found out of range (R456). -/
inductive ClockName where
  | mash (bay : Fin 12) | fabric (site : Fin 100) | control
  deriving DecidableEq, Repr

/-- What a debug access does (R496). -/
inductive DebugOp where
  | halt (c : CoreId)
  | step (c : CoreId)
  | readS (c : CoreId) (r : BitVec 5)
  | writeS (c : CoreId) (r : BitVec 5) (v : Word)
  | scan (site : Fin 100) (data : Nat)
  deriving DecidableEq, Repr

/-- The commands of the VGX-1100. -/
inductive Instr where
  -- Chapter 3: sequencer instructions (Table 3.4)
  | add (c : CoreId) (rd ra : BitVec 5) (y : Op2)
  | sub (c : CoreId) (rd ra : BitVec 5) (y : Op2)
  | mul (c : CoreId) (rd ra : BitVec 5) (y : Op2)
  | and (c : CoreId) (rd ra : BitVec 5) (y : Op2)
  | or (c : CoreId) (rd ra : BitVec 5) (y : Op2)
  | xor (c : CoreId) (rd ra : BitVec 5) (y : Op2)
  | shl (c : CoreId) (rd ra : BitVec 5) (y : Op2)
  | shr (c : CoreId) (rd ra : BitVec 5) (y : Op2)
  | sra (c : CoreId) (rd ra : BitVec 5) (y : Op2)
  | min (c : CoreId) (rd ra : BitVec 5) (y : Op2)
  | max (c : CoreId) (rd ra : BitVec 5) (y : Op2)
  | minu (c : CoreId) (rd ra : BitVec 5) (y : Op2)
  | maxu (c : CoreId) (rd ra : BitVec 5) (y : Op2)
  | slt (c : CoreId) (rd ra : BitVec 5) (y : Op2)
  | sltu (c : CoreId) (rd ra : BitVec 5) (y : Op2)
  | aadd (c : CoreId) (rd ra : BitVec 5) (y : Op2)
  | mova (c : CoreId) (rd ra : BitVec 5)
  | movs (c : CoreId) (rd ra : BitVec 5)
  | lim (c : CoreId) (rd : BitVec 5) (rda : Bool) (imm : BitVec 48)
  | lih (c : CoreId) (rd : BitVec 5) (rda : Bool) (imm : BitVec 16)
  | br (c : CoreId) (ra rb : BitVec 5) (cond : BitVec 3) (off : BitVec 32)
  | jal (c : CoreId) (rd : BitVec 5) (off : BitVec 32)
  | jr (c : CoreId) (ra : BitVec 5)
  | lds (c : CoreId) (rd : BitVec 5) (an : BitVec 4) (imm : BitVec 32)
  | sts (c : CoreId) (rd : BitVec 5) (an : BitVec 4) (imm : BitVec 32)
  | ldd (c : CoreId) (rd : BitVec 5) (an : BitVec 4) (imm : BitVec 32)
  | std (c : CoreId) (rd : BitVec 5) (an : BitVec 4) (imm : BitVec 32)
  | mboxr (c : CoreId) (rd : BitVec 5)
  | waitt (c : CoreId) (tc : BitVec 3) (y : Op2)
  | sett (c : CoreId) (tc : BitVec 3) (y : Op2)
  | addt (c : CoreId) (tc : BitVec 3) (y : Op2)
  | rdt (c : CoreId) (rd : BitVec 5) (tc : BitVec 3)
  | fence (c : CoreId) (mask : BitVec 8)
  | slotq (c : CoreId) (rd ra : BitVec 5)
  | yield (c : CoreId)
  | rdcyc (c : CoreId) (rd : BitVec 5)
  | stream (c : CoreId) (rs rd : BitVec 5) (ax ay az : BitVec 4)
  | nop (c : CoreId)
  | raise (c : CoreId) (code : BitVec 16)
  | kend (c : CoreId)
  | csrr (c : CoreId) (rd : BitVec 5) (off : BitVec 32)
  | csrw (c : CoreId) (ra : BitVec 5) (off : BitVec 32)
  | msg (c : CoreId) (rs : BitVec 5) (sel : BitVec 4)
  | sigchk (c : CoreId) (expect : BitVec 32)
  -- Chapters 2 and 3: sequencer and slot events
  | illegalOp (c : CoreId) (w : Word)
  | icacheFill (c : CoreId)
  | stallCycle (c : CoreId)
  | waittPark (c : CoreId)
  | yieldOverdue (c : CoreId)
  | gateOpen (r : StreamRef)
  | slotFreed (r : StreamRef)
  | streamTileWritten (r : StreamRef)
  | streamComplete (r : StreamRef)
  -- Chapters 2, 4, 5, 8: streams taken by their stations
  | loadStream (r : StreamRef)
  | stationaryFeed (r : StreamRef)
  | movingFeed (r : StreamRef)
  | gather (r : StreamRef)
  | drain (r : StreamRef)
  | narrow (r : StreamRef)
  | stash (r : StreamRef)
  | unstash (r : StreamRef)
  | store (r : StreamRef)
  | send (r : StreamRef)
  | recv (r : StreamRef)
  | sample (r : StreamRef)
  -- Chapter 6: Kettle operations
  | kettleAdd (r : StreamRef)
  | kettleSub (r : StreamRef)
  | kettleMul (r : StreamRef)
  | fma (r : StreamRef)
  | axpby (r : StreamRef)
  | kettleMin (r : StreamRef)
  | kettleMax (r : StreamRef)
  | abs (r : StreamRef)
  | neg (r : StreamRef)
  | cvt (r : StreamRef)
  | poly (r : StreamRef)
  | cmplt (r : StreamRef)
  | cmple (r : StreamRef)
  | cmpeq (r : StreamRef)
  | sel (r : StreamRef)
  | exp (r : StreamRef)
  | log (r : StreamRef)
  | rcp (r : StreamRef)
  | rsqrt (r : StreamRef)
  | iadd (r : StreamRef)
  | imax (r : StreamRef)
  | i64acc (r : StreamRef)
  | scalei (r : StreamRef)
  | maxexp (r : StreamRef)
  | lrclr (r : StreamRef)
  | sum (r : StreamRef)
  | sumsq (r : StreamRef)
  | dot (r : StreamRef)
  | lradd (r : StreamRef)
  | lrstore (r : StreamRef)
  | lrread (r : StreamRef)
  | lwiden (r : StreamRef)
  | lnarrow (r : StreamRef)
  | randb (r : StreamRef)
  | randu (r : StreamRef)
  | dropout (r : StreamRef)
  | adamw (r : StreamRef)
  | lion (r : StreamRef)
  | sgdm (r : StreamRef)
  -- Chapter 7: Hopback passes
  | passOne (r : StreamRef)
  | emit (r : StreamRef)
  | passTwo (r : StreamRef)
  | gatePass (r : StreamRef)
  -- Arrivals on the package fabric
  | flitArrive (hdr : BitVec 32) (sender : Option StreamRef)
  | weltFlitArrive (dst src : CoreId)
  | softDataFlit (dst src : CoreId)
  | creditFlit (dst src : CoreId)
  | flushFlit (dst src : CoreId)
  | mailboxMessage (c : CoreId)
  | launchRecord (c : CoreId)
  | preemptRequest (c : CoreId)
  | coreParked (c : CoreId)
  -- Core register writes with a row of their own
  | histClr (c : CoreId)
  | groupAbort (c : CoreId) (g : Fin 16)
  | channelEnable (c : CoreId) (ch : Fin 4) (v : Word)
  | channelDisable (c : CoreId) (ch : Fin 4)
  | dwqPush (c : CoreId)
  | dwqEntryStart (c : CoreId)
  | dwqForcedStart (c : CoreId)
  | dwqDescIssue (c : CoreId)
  | caskNew (c : CoreId) (v : Word)
  -- Chapter 9: Cinch
  | norm (c : CoreId)
  | cinchTotalExchange (pkg : BitVec 12) (step epoch : BitVec 32) (tot : NormTotal)
  | ready (c : CoreId)
  | mirrorIn (c : CoreId)
  | mirrorHeld (pkg : BitVec 12) (step epoch : BitVec 32)
  | prepared (pkg : BitVec 12) (step epoch : BitVec 32) (nfUpd flash store : Bool)
  | cinchMboxRetry (c : CoreId)
  | roundTimeout (pkg : BitVec 12)
  | linkFailureNotice (pkg : BitVec 12)
  | outcomeExchange (epoch : BitVec 32) (view : StepView)
  | epochDigest (pkg : BitVec 12) (digest : TableHash)
  | epochGo (epoch : BitVec 16)
  -- Chapter 10: links
  | linkEnable (p : Fin 16)
  | retrain (p : Fin 16)
  | trainingAttemptEnd (p : Fin 16) (pass : BitVec 17) (peer : TrainRec)
  | linkFrame (p : Fin 16) (f : FrameIn)
  | replayTimeout (p : Fin 16)
  | packetRoute (k : PacketIn)
  | dataPacket (k : Packet) (port : Fin 16) (lines : List (List Byte))
  | grant (k : PacketIn)
  | msgPacket (k : PacketAt) (payload : BitVec 256)
  | notice (k : NoticeIn) (slot : SlotId)
  | lanectl (p : Fin 16) (lane : Fin 17)
  | laneLockLoss (p : Fin 16) (lane : Fin 17)
  | laneErrorWindow (p : Fin 16) (lane : Fin 17) (corrected : BitVec 32)
  | spareTrained (p : Fin 16)
  | routeSwap
  | linkVcarbWrite (p : Fin 16) (v : Word)
  | linkPkgWrite (v : Word)
  -- Chapter 11: buckets
  | bucketHeader (c : CoreId) (vc : BitVec 3) (score : BitVec 9) (h : HeaderIn)
  | holdMaxExpiry (c : CoreId)
  | bktArm (c : CoreId) (v : Word)
  | bktRel (c : CoreId) (v : Word)
  | slotDeadline (c : CoreId) (vc : BitVec 3) (slot : Fin 64)
  -- Chapter 12: serving
  | join (d : Datagram) (part : Fin 12) (step : BitVec 32) (j : JoinRec)
  | leave (d : Datagram) (part : Fin 12) (step : BitVec 32) (req : Word)
  | pause (d : Datagram) (part : Fin 12) (step : BitVec 32) (req : Word)
  | rebind (d : Datagram) (part : Fin 12) (step : BitVec 32) (req : Word) (adapter : BitVec 32) (gen : BitVec 16)
  | resume (d : Datagram) (part : Fin 12) (step : BitVec 32) (j : JoinRec)
  | prefixDrop (d : Datagram) (part : Fin 12) (handle : Word)
  | cancel (d : Datagram) (part : Fin 12) (req : Word)
  | cancelNotice (part : Fin 12) (req : Word)
  | cancelHoldExpiry (part : Fin 12) (req : Word)
  | admissionDecision (part : Fin 12)
  | stepTail (part : Fin 12)
  | modelLoad (sess : Fin 16) (part : Fin 12) (model : Fin 16) (m : ModelRec)
  | adapterLoad (sess : Fin 16) (part : Fin 12) (handle : BitVec 32) (gen : BitVec 16) (rank : Nat) (addr : BitVec 41) (bytes : Nat)
  | tapTile (r : StreamRef)
  | draftRecord (part : Fin 12) (req : Word)
  | tokenLine (c : CoreId) (chan : BitVec 5)
  | tapToken (part : Fin 12) (req : Word)
  | ringWriteTimer (part : Fin 12) (req : Word)
  | pauseCopyDone (part : Fin 12) (req : Word)
  | pausedCacheExpiry (part : Fin 12) (req : Word)
  | resumeLoadDone (part : Fin 12) (req : Word)
  -- Chapter 13: scheduling
  | doorbellSubmit (e : DoorbellIn) (part : Fin 12) (addr : BitVec 41)
  | ringConsumed (e : DoorbellIn) (part : Fin 12) (req : Word) (consumed : Nat)
  | submit (c : CoreId)
  | prefetch (c : CoreId)
  | kernelEndReport (c : CoreId)
  | parkedNotice (c : CoreId)
  | parkOverdue (c : CoreId)
  | saveStart (c : CoreId)
  | saveDone (c : CoreId)
  | restoreDone (c : CoreId)
  | accountInterval (bays : List Nat) (link host other : Nat)
  | clientW (part : Fin 12) (v : Word)
  -- Chapter 14: survival
  | tierReadDone (step : BitVec 32)
  | tierPartWritten (pkg : BitVec 12) (step : BitVec 32) (store ok : Bool)
  | tierComplete (step : BitVec 32) (store : Bool)
  | fillChunkLanded (chunk : ChunkIn)
  | fillTimeout
  -- Chapter 15: host port and transport
  | rhtFragment (d : Datagram)
  | ack (d : Datagram)
  | ackTimer (sess : Fin 16) (lane : Fin 4)
  | rhtRtoExpiry (sess : Fin 16) (lane : Fin 4)
  | rhtOpen (d : Datagram) (fault telem gate : Bool)
  | rhtClose (d : Datagram)
  | csrRead (d : Datagram) (addr : Word) (count : BitVec 32)
  | csrWrite (d : Datagram) (addr : Word) (data : List Word)
  | registerWrite (addr v : Word)
  | load (d : Datagram) (addr : BitVec 41) (flags : BitVec 8) (data : List Byte)
  | ingest (d : Datagram) (queue : BitVec 8) (sampleId : Word) (data : List Byte)
  | ingestNoteRetry (queue : Fin 16)
  | ingestFree (c : CoreId)
  | toHost (c : CoreId)
  | lcQuery (d : Datagram) (q : LcQuery)
  | lcOutputArrive (part : Fin 12) (req : Word) (core : CoreId) (dcrc : BitVec 32) (out : List Byte)
  | release (part : Fin 12) (req : Word)
  | latePoint (part : Fin 12) (req : Word)
  | gateRecord (c : CoreId)
  | gateFlush
  | faultReport
  | telemPeriod
  | roceAck (qpn : BitVec 24) (stripes : Nat) (err : Bool)
  | cnp (qpn : BitVec 24)
  | roceRateRaise (target : BitVec 6)
  | neighborSolicitation (addr : BitVec 128)
  | arp (addr : BitVec 32)
  | icmpEcho (v6 : Bool) (addr : BitVec 128) (data : List Byte)
  | pauseFrame
  | hpEnable
  | hostLinkUp
  -- Chapter 16: HBM and flash
  | hbmRequest (q : HbmReq)
  | hbmRegionValidate (r : Fin 64) (v : Word)
  | hbmRegionInvalidate (r : Fin 64) (v : Word)
  | hbmArbWrite (bay : Fin 12) (v : Word)
  | patrolScrub (t : ScrubTarget)
  | ckptGbWrite (v : Word)
  | flashTransferDone (ckpt : Bool) (step : BitVec 32) (part : Fin 12) (req : Word) (digest : BitVec 512) (uncorr : Bool)
  -- Chapter 17: functional safety
  | stiPeriodic (c : CoreId)
  | closingTestDone (c : CoreId) (failStn : BitVec 8) (failSeq : Bool)
  | cfsigOverdue (c : CoreId)
  | clockMonitorWindow (clock : ClockName) (measuredKHz : Nat)
  | saddleHeartbeat
  | saddleSilent
  | saddleLockstep
  | lcEngineLockstep
  | saddleFaultReport
  -- Chapters 18 and 20: power and reset
  | powerUp (imageSvn : BitVec 8) (imageOk : Bool) (imageDigest : BitVec 512) (failedCores : List Nat) (failedBays : BitVec 12)
  | pkgResetAssert
  | powerLoss
  | dipStart (bay : Fin 12) (mv : Nat)
  | railAboveRestore (bay : Fin 12)
  | railBelowRestore (bay : Fin 12)
  | dipRestore (bay : Fin 12)
  | baySupplyReset (bay : Fin 12) (mv : Nat)
  | supplyWarn (rail : Rail) (mv : Nat)
  | serviceRailReset (rail : Rail) (mv : Nat)
  | setpointAck (bay : Fin 12) (mv : Nat)
  | pllStep (bay : Fin 12)
  | thermalStep (bay : Fin 12) (hottest : BitVec 8)
  | thermalTrip (site : Fin 100) (celsius : BitVec 8)
  | powerMeasure (watts : BitVec 16)
  | marginReplan (bay : Fin 12) (slackPs : BitVec 16) (offsetMv bins : Nat) (afterDip : Bool)
  | bayPwrOn (bay : Fin 12)
  | bayPwrRetention (bay : Fin 12)
  | bayPwrGated (bay : Fin 12)
  | bayOnComplete (bay : Fin 12)
  -- Chapter 19: security commands
  | attest (buf : BitVec 41)
  | logRead (buf : BitVec 41)
  | identity (buf : BitVec 41)
  | fwInstall (buf : BitVec 41) (flashOk : Bool)
  | svnAdvance (buf : BitVec 41)
  | ownerProvision (buf : BitVec 41)
  | ownerRevoke (buf : BitVec 41)
  | debugChallenge (buf : BitVec 41)
  | debugOpen (buf : BitVec 41)
  | seal (buf : BitVec 41)
  | presenceSample (high : Bool)
  | presenceTimeout
  | nonceExpiry
  -- Chapter 20: re-initialisation and resets
  | reinitCore (c : CoreId)
  | reinitTap (die : Fin 60)
  | reinitHopback (c : CoreId)
  | reinitHbmChannel (ch : Fin 768)
  | reinitLinkPort (p : Fin 16)
  | reinitHostPort
  | reinitBay (bay : Fin 12)
  | reinitDone (func : Fin 7) (target : Nat) (ok : Bool)
  | retestDone (c : CoreId) (pass : Bool)
  | warmReset (retain : Bool)
  -- Chapter 21: the global blocks
  | faultSnap
  | partSet (bays : BitVec 12) (part : BitVec 4)
  | fabShareWrite (v : Word)
  | fabWeightWrite (v : Word)
  | fabPendingTimeout
  -- Rows added at the end of the table
  | pfcFrame (classes : BitVec 8) (quanta : List Nat)
  | otherProtocolFrame
  | hostPortDown
  | flashStackFailure (f : Fin 4)
  | modelUnload (sess : Fin 16) (part : Fin 12) (model : Fin 16)
  | rdmaReadResponse (offset : ReadAt) (data : List Byte)
  | testInjectionDone (c : CoreId) (signature : Word) (failStn : BitVec 8) (failSeq : Bool)
  | debugAccess (op : DebugOp)
  deriving DecidableEq, Repr

end Sys2Proof
end

