-- ==== Sys2Proof/WellFormed.lean ====
section
/-! DEFINITION. Which commands are well formed: the operand values that the spec's encodings admit. An ill-formed
sequencer instruction still has a meaning (it faults with ILLEGAL_OP); an ill-formed packet or message list is one that no
sender of the spec can form. -/

namespace Sys2Proof

/-- A 5-bit field that names an a register holds 0 to 15 (R82). -/
def aRegOk (r : BitVec 5) : Bool := r.toNat < 16

/-- Word formats admit the operands (Table 3.3, R82, R92); message and record lists have the lengths of their layouts. -/
def Instr.wf : Instr → Bool
  | .aadd _ rd ra _ => aRegOk rd && aRegOk ra
  | .mova _ rd _ => aRegOk rd
  | .movs _ _ ra => aRegOk ra
  | .lim _ rd rda _ => !rda || aRegOk rd
  | .lih _ rd rda _ => !rda || aRegOk rd
  | .br _ _ _ cond _ => cond.toNat ≠ 7
  | .msg _ _ dest => dest.toNat < 3
  | .dataPacket k _ lines => 1 ≤ lines.length && lines.length ≤ 16 && lines.all (fun l => l.length = 256) && k.pkind.toNat = 0 &&
      k.nslot.toNat + 1 = 8 * lines.length
  | .packetRoute k => k.data.length = 32 * (k.pkt.nslot.toNat + 1)
  | .grant k => k.data.length = 32
  | .csrWrite _ _ data => 1 ≤ data.length && data.length ≤ 64
  | .csrRead _ _ n => 1 ≤ n.toNat && n.toNat ≤ 64
  | .pfcFrame _ q => q.length = 8
  | .hbmRequest q => q.addr.toNat % 64 = 0 && (match q.write with | some b => b.length = 64 | none => true)
  | .linkFrame _ f => f.corrected ≤ 32 && f.slots.length = 29
  | _ => true

end Sys2Proof
end

