-- ==== Sys2Proof/Decode.lean ====
section
/-! DEFINITION. The decoder of the block, and the decoder and encoder of the 64-bit Aelium instruction word (R82 to R84,
Tables 3.3 and 3.4). The opcode table gives no row any bits, so `decodeTableWord` answers none for every word. -/

namespace Sys2Proof

/-- The command that a word spells by the table's bits: the table gives bits to no row. -/
def decodeTableWord (_nbits _w : Nat) : Option Instr := none

/-- Format A: second operand from IMMF, RB, IMM32; the bits that IMMF leaves unused must be zero (R82). -/
def opA (w : BitVec 64) : Option Op2 :=
  if w.extractLsb' 32 8 ≠ 0 then none
  else if w.extractLsb' 45 1 = 1 then
    (if w.extractLsb' 40 5 = 0 then some (.imm (w.extractLsb' 0 32)) else none)
  else if w.extractLsb' 0 32 = 0 then some (.reg (w.extractLsb' 40 5)) else none

/-- Format T: value from IMMF, RA, IMM32; RD and the unused field must be zero (R82). -/
def opT (w : BitVec 64) : Option Op2 :=
  if w.extractLsb' 51 5 ≠ 0 ∨ w.extractLsb' 43 2 ≠ 0 ∨ w.extractLsb' 32 8 ≠ 0 then none
  else if w.extractLsb' 45 1 = 1 then
    (if w.extractLsb' 46 5 = 0 then some (.imm (w.extractLsb' 0 32)) else none)
  else if w.extractLsb' 0 32 = 0 then some (.reg (w.extractLsb' 46 5)) else none

/-- Keep an instruction when its fields satisfy a condition. -/
def keepIf (p : Bool) (i : Instr) : Option Instr := if p then some i else none

/-- Decode one Aelium word for core `c`; none is an illegal instruction (R82). -/
def decodeWord (c : CoreId) (w : BitVec 64) : Option Instr :=
  let rd := w.extractLsb' 51 5
  let ra := w.extractLsb' 46 5
  let imm := w.extractLsb' 0 32
  let aForm := fun (f : BitVec 5 → BitVec 5 → Op2 → Instr) => (opA w).map (f rd ra)
  let tForm := fun (f : BitVec 3 → Op2 → Instr) => (opT w).map (f (w.extractLsb' 40 3))
  let low46 := w.extractLsb' 0 46
  let an := w.extractLsb' 47 4
  let midM := w.extractLsb' 32 15
  let midC := w.extractLsb' 36 10
  let sel := w.extractLsb' 32 4
  match (w.extractLsb' 56 8).toNat with
  | 0x01 => aForm (.add c)
  | 0x02 => aForm (.sub c)
  | 0x03 => aForm (.mul c)
  | 0x04 => aForm (.and c)
  | 0x05 => aForm (.or c)
  | 0x06 => aForm (.xor c)
  | 0x07 => aForm (.shl c)
  | 0x08 => aForm (.shr c)
  | 0x09 => aForm (.sra c)
  | 0x0A => aForm (.min c)
  | 0x0B => aForm (.max c)
  | 0x0C => aForm (.minu c)
  | 0x0D => aForm (.maxu c)
  | 0x0E => aForm (.slt c)
  | 0x0F => aForm (.sltu c)
  | 0x10 => (opA w).bind (fun y => keepIf (aRegOk rd && aRegOk ra) (.aadd c rd ra y))
  | 0x11 => keepIf (low46 = 0 && aRegOk rd) (.mova c rd ra)
  | 0x12 => keepIf (low46 = 0 && aRegOk ra) (.movs c rd ra)
  | 0x18 => keepIf (w.extractLsb' 48 2 = 0 && (w.extractLsb' 50 1 = 0 || aRegOk rd))
      (.lim c rd (w.extractLsb' 50 1 = 1) (w.extractLsb' 0 48))
  | 0x19 => keepIf (w.extractLsb' 16 34 = 0 && (w.extractLsb' 50 1 = 0 || aRegOk rd))
      (.lih c rd (w.extractLsb' 50 1 = 1) (w.extractLsb' 0 16))
  | 0x20 => keepIf (w.extractLsb' 32 11 = 0 && w.extractLsb' 43 3 ≠ 7) (.br c rd ra (w.extractLsb' 43 3) imm)
  | 0x21 => keepIf (w.extractLsb' 32 19 = 0) (.jal c rd imm)
  | 0x22 => keepIf (w.extractLsb' 0 51 = 0) (.jr c rd)
  | 0x28 => keepIf (midM = 0) (.lds c rd an imm)
  | 0x29 => keepIf (midM = 0) (.sts c rd an imm)
  | 0x2A => keepIf (midM = 0) (.ldd c rd an imm)
  | 0x2B => keepIf (midM = 0) (.std c rd an imm)
  | 0x2C => keepIf (w.extractLsb' 0 51 = 0) (.mboxr c rd)
  | 0x30 => tForm (.waitt c)
  | 0x31 => tForm (.sett c)
  | 0x32 => tForm (.addt c)
  | 0x33 => keepIf (w.extractLsb' 43 8 = 0 && w.extractLsb' 0 40 = 0) (.rdt c rd (w.extractLsb' 40 3))
  | 0x34 => keepIf (w.extractLsb' 8 48 = 0) (.fence c (w.extractLsb' 0 8))
  | 0x35 => keepIf (low46 = 0) (.slotq c rd ra)
  | 0x36 => keepIf (w.extractLsb' 0 56 = 0) (.yield c)
  | 0x37 => keepIf (w.extractLsb' 0 51 = 0) (.rdcyc c rd)
  | 0x38 => keepIf (w.extractLsb' 0 34 = 0)
      (.stream c rd ra (w.extractLsb' 42 4) (w.extractLsb' 38 4) (w.extractLsb' 34 4))
  | 0x39 => keepIf (w.extractLsb' 0 56 = 0) (.nop c)
  | 0x3A => keepIf (w.extractLsb' 16 40 = 0) (.raise c (w.extractLsb' 0 16))
  | 0x3B => keepIf (w.extractLsb' 0 56 = 0) (.kend c)
  | 0x3C => keepIf (ra = 0 && midC = 0 && sel = 0) (.csrr c rd imm)
  | 0x3D => keepIf (rd = 0 && midC = 0 && sel = 0) (.csrw c ra imm)
  | 0x3E => keepIf (ra = 0 && midC = 0 && imm = 0 && sel.toNat < 3) (.msg c rd sel)
  | 0x3F => keepIf (w.extractLsb' 32 24 = 0) (.sigchk c imm)
  | _ => none

/-- A word from its opcode and its low 56 bits. -/
def wordOf (opc : BitVec 8) (low : BitVec 56) : BitVec 64 := opc ++ low

/-- Format A. -/
def encA (opc : BitVec 8) (rd ra : BitVec 5) (y : Op2) : BitVec 64 :=
  match y with
  | .reg rb => wordOf opc (rd ++ ra ++ (0 : BitVec 1) ++ rb ++ (0 : BitVec 8) ++ (0 : BitVec 32))
  | .imm v => wordOf opc (rd ++ ra ++ (1 : BitVec 1) ++ (0 : BitVec 5) ++ (0 : BitVec 8) ++ v)
/-- Format T. -/
def encT (opc : BitVec 8) (tc : BitVec 3) (y : Op2) : BitVec 64 :=
  match y with
  | .reg ra => wordOf opc ((0 : BitVec 5) ++ ra ++ (0 : BitVec 1) ++ (0 : BitVec 2) ++ tc ++ (0 : BitVec 8) ++ (0 : BitVec 32))
  | .imm v => wordOf opc ((0 : BitVec 5) ++ (0 : BitVec 5) ++ (1 : BitVec 1) ++ (0 : BitVec 2) ++ tc ++ (0 : BitVec 8) ++ v)
/-- Format M. -/
def encM (opc : BitVec 8) (rd : BitVec 5) (an : BitVec 4) (imm : BitVec 32) : BitVec 64 :=
  wordOf opc (rd ++ an ++ (0 : BitVec 15) ++ imm)
/-- Format B. -/
def encB (opc : BitVec 8) (ra rb : BitVec 5) (cond : BitVec 3) (off : BitVec 32) : BitVec 64 :=
  wordOf opc (ra ++ rb ++ cond ++ (0 : BitVec 11) ++ off)
/-- Format C. -/
def encC (opc : BitVec 8) (rd ra : BitVec 5) (sel : BitVec 4) (imm : BitVec 32) : BitVec 64 :=
  wordOf opc (rd ++ ra ++ (0 : BitVec 10) ++ sel ++ imm)
/-- Format L. -/
def encL (opc : BitVec 8) (rd : BitVec 5) (rda : Bool) (imm : BitVec 48) : BitVec 64 :=
  wordOf opc (rd ++ BitVec.ofBool rda ++ (0 : BitVec 2) ++ imm)

/-- The Aelium word of a sequencer instruction (Tables 3.3 and 3.4); none for a command that is no instruction word. -/
def encodeWord : Instr → Option (BitVec 64)
  | .add _ rd ra y => some (encA 0x01 rd ra y)
  | .sub _ rd ra y => some (encA 0x02 rd ra y)
  | .mul _ rd ra y => some (encA 0x03 rd ra y)
  | .and _ rd ra y => some (encA 0x04 rd ra y)
  | .or _ rd ra y => some (encA 0x05 rd ra y)
  | .xor _ rd ra y => some (encA 0x06 rd ra y)
  | .shl _ rd ra y => some (encA 0x07 rd ra y)
  | .shr _ rd ra y => some (encA 0x08 rd ra y)
  | .sra _ rd ra y => some (encA 0x09 rd ra y)
  | .min _ rd ra y => some (encA 0x0A rd ra y)
  | .max _ rd ra y => some (encA 0x0B rd ra y)
  | .minu _ rd ra y => some (encA 0x0C rd ra y)
  | .maxu _ rd ra y => some (encA 0x0D rd ra y)
  | .slt _ rd ra y => some (encA 0x0E rd ra y)
  | .sltu _ rd ra y => some (encA 0x0F rd ra y)
  | .aadd _ rd ra y => some (encA 0x10 rd ra y)
  | .mova _ rd ra => some (encA 0x11 rd ra (.reg 0))
  | .movs _ rd ra => some (encA 0x12 rd ra (.reg 0))
  | .lim _ rd rda imm => some (encL 0x18 rd rda imm)
  | .lih _ rd rda imm => some (encL 0x19 rd rda ((0 : BitVec 32) ++ imm))
  | .br _ ra rb cond off => some (encB 0x20 ra rb cond off)
  | .jal _ rd off => some (encB 0x21 rd 0 0 off)
  | .jr _ ra => some (encB 0x22 ra 0 0 0)
  | .lds _ rd an imm => some (encM 0x28 rd an imm)
  | .sts _ rd an imm => some (encM 0x29 rd an imm)
  | .ldd _ rd an imm => some (encM 0x2A rd an imm)
  | .std _ rd an imm => some (encM 0x2B rd an imm)
  | .mboxr _ rd => some (encC 0x2C rd 0 0 0)
  | .waitt _ tc y => some (encT 0x30 tc y)
  | .sett _ tc y => some (encT 0x31 tc y)
  | .addt _ tc y => some (encT 0x32 tc y)
  | .rdt _ rd tc => some (wordOf 0x33 (rd ++ (0 : BitVec 8) ++ tc ++ (0 : BitVec 40)))
  | .fence _ mask => some (encC 0x34 0 0 0 ((0 : BitVec 24) ++ mask))
  | .slotq _ rd ra => some (encC 0x35 rd ra 0 0)
  | .yield _ => some (encC 0x36 0 0 0 0)
  | .rdcyc _ rd => some (encC 0x37 rd 0 0 0)
  | .stream _ rs rd ax ay az => some (wordOf 0x38 (rs ++ rd ++ ax ++ ay ++ az ++ (0 : BitVec 34)))
  | .nop _ => some (encC 0x39 0 0 0 0)
  | .raise _ code => some (encC 0x3A 0 0 0 ((0 : BitVec 16) ++ code))
  | .kend _ => some (encC 0x3B 0 0 0 0)
  | .csrr _ rd off => some (encC 0x3C rd 0 0 off)
  | .csrw _ ra off => some (encC 0x3D 0 ra 0 off)
  | .msg _ rs sel => some (encC 0x3E rs 0 sel 0)
  | .sigchk _ expect => some (encC 0x3F 0 0 0 expect)
  | _ => none

end Sys2Proof
end

