-- ==== Sys2Proof/Config.lean ====
section
/-! DEFINITION. What one implementation fixes and the manual leaves open: free values without a body, and the external
algorithms (ML-DSA-87) that the manual names but does not define. Nothing in Lean can evaluate these constants. -/

namespace Sys2Proof.Config

/-- Free bits: the n-th open value of a run, `w` bits wide (log entry 2). -/
opaque freeValue (w : Nat) : Nat → BitVec w

/-- R178: which of the two bracketing FP32 values EXP returns for an input whose exact result is not representable. -/
opaque expUp : BitVec 32 → Bool
/-- R178: the same choice for LOG. -/
opaque logUp : BitVec 32 → Bool
/-- R178: the same choice for RCP. -/
opaque rcpUp : BitVec 32 → Bool
/-- R178: the same choice for RSQRT. -/
opaque rsqrtUp : BitVec 32 → Bool
/-- R210: which of the two bracketing 24-bit values hop_exp returns where e^y is no normal FP32 value. -/
opaque hopExpUp : BitVec 32 → Bool
/-- R164: which of the FP32 values within 2 ulp of the exact function an activation returns; the first argument is the
ACT code, the second the FP32 input; the result is read modulo 4. -/
opaque actPick : Nat → BitVec 32 → Nat

/-- R454: the signature value held in ROM for a test injection. -/
opaque romSignature : BitVec 64

/-- R486: the 256-bit unique device secret in fuses, as 32 bytes packed little-endian. -/
opaque deviceSecret : BitVec 256
/-- FIPS 204 ML-DSA-87 key generation: the 2,592-byte public key of a 32-byte seed (R486). -/
opaque mldsaPublic : List Byte → List Byte
/-- FIPS 204 ML-DSA-87 signing: the 4,627-byte signature under the key of a seed over a message (R500). -/
opaque mldsaSign : List Byte → List Byte → List Byte
/-- FIPS 204 ML-DSA-87 verification of (public key, message, signature) (R488, R495). -/
opaque mldsaVerify : List Byte → List Byte → List Byte → Bool
/-- R488: the vendor key hash fused at manufacture. -/
opaque vendorKeyHash : BitVec 512
/-- R488: the VKEY of the image in the flash firmware region. -/
opaque vendorKey : List Byte
/-- R495: the public key whose SHA3-512 an owner slot holds; the slot itself keeps the hash only. -/
opaque ownerKey : BitVec 512 → List Byte
/-- R487: the certificate kept in the records area of the flash firmware region. -/
opaque certificate : List Byte
/-- R495: the Saddle random source; the argument counts the nonces drawn. -/
opaque nonceSource : Nat → List Byte

/-- R266: the cores listed as mirror receivers for a package (package, core); no register of the manual holds the list. -/
opaque mirrorReceiver : Nat → Nat → Bool

/-- R383, R385: lines of a partner generation beyond the shard's 12 bytes an element (package, step): its step record, class L error
tiles and warm-start factors; the manual gives none of them a size. -/
opaque partnerExtra : Nat → Nat → Nat
/-- R256, R257: HBM address of each of the two copies of the package's shard; the manual gives the copies no address. -/
opaque shardBase : Bool → Nat
/-- R257: HBM address of element 0 in each of the two BF16 weight copies. -/
opaque weightBase : Bool → Nat
/-- R256: the FP32 master value of an element in the bytes of a shard; the manual does not state how a shard lays out its 12 bytes an
element. -/
opaque masterOf : List Byte → Nat → BitVec 32
/-- R388, R429: the digest, and the step record proper, in the bytes that carry a step record; their layout is not stated. -/
opaque recordDigest : List Byte → BitVec 512
opaque recordBody : List Byte → List Byte
/-- R388: HBM address of the 64-byte cursor block of the step record; the manual gives the block no address. -/
opaque cursorAddr : Nat

/-- R390: the generation of a step in the store is in the VGX-700 checkpoint format (step); no register or row names the format
of a generation. -/
opaque format700 : Nat → Bool
/-- R390: the SHA3-512 of the shard that another package converted from that generation equals this package's (step); the
conversion is not stated. -/
opaque compatAgrees : Nat → Bool

/-- R322, R355, R358: HBM address of a byte of the pages that a request holds (partition, request, byte); the manual states no
placement of pages. -/
opaque pageAddr : Nat → Nat → Nat → Nat

/-- R369: first line, lines and HBM address of a hot set (partition, id), and the cores that a PREFETCH loads it on; the manual
gives the entries these fields and no table that holds them. -/
opaque hotLine : Nat → Nat → Nat
opaque hotLines : Nat → Nat → Nat
opaque hotAddr : Nat → Nat → Nat
opaque hotCore : Nat → Nat → Nat → Bool

/-- R520: DEV_ID.STEPPING, fused. -/
opaque stepping : BitVec 4
/-- R542: DEV_ID.ORDER, fused: 1 or 2. -/
opaque orderIsL2 : Bool

end Sys2Proof.Config
end

