-- ==== Sys2Proof/Machine/State.lean ====
section
/-! DEFINITION. The state of one VGX-1100 package, as plain data, and the state right after reset. Every field cites the
rule of spec/ that names it; INVENTORY.md lists each with its width and its reset value. -/

namespace Sys2Proof.Machine

/-- Byte memory in canonical form: addresses strictly rising, no listed byte equal to zero; an unlisted byte reads zero
(scratchpad: R503; HBM: Table 20.1 step 5). -/
abbrev Memory := List Host.Cell

/-! ## Core: sequencer, slots, scratchpad -/

/-- The state of a stream slot (R53). -/
inductive SlotState where
  | free | gated | queued | active | faulted
  deriving DecidableEq, Repr

/-- Who issued a stream: the sequencer's STREAM, or the deferred issuer for entry `n` (R232, R237). -/
inductive Origin where
  | seq | dwq (entry : Nat)
  deriving DecidableEq, Repr

/-- One of the 64 stream slots of a core (R52, R53, R87). -/
structure Slot where
  state : SlotState := .free
  /-- the 256-bit descriptor captured at issue (R101) -/
  desc : BitVec 256 := 0
  srcBase : Nat := 0
  dstBase : Nat := 0
  auxBase : Nat := 0
  /-- place in the core's order of issue (R54) -/
  order : Nat := 0
  origin : Origin := .seq
  /-- lines moved by a SEND or filled in a RECV (R60, R373) -/
  moved : Nat := 0
  /-- position of a RECV's first line among the lines posted on its channel (R60, R285); sequence number of the tile that a
  SOFT SEND has started (R198) -/
  start : Nat := 0
  /-- WELT_SOFT_STEP as a SOFT SEND was accepted (Table 7.2) -/
  softStep : BitVec 32 := 0
  /-- SR_SEED as Mash accepted a moving FEED, or KETTLE_SEED as Kettle accepted a VECTOR (R94, R147, R189) -/
  seed : Word := 0
  /-- KETTLE_STEP as Kettle accepted a VECTOR (R189) -/
  kStep : BitVec 32 := 0
  /-- window base of the histogram as Skive accepted a NARROW (R131) -/
  expBase : BitVec 8 := 0
  /-- Cask discards what this STASH delivers: its class as it was accepted (R244) -/
  discard : Bool := false
  /-- whole tiles written and counted on the token counter (R58) -/
  tiles : Nat := 0
  /-- the station has read its last input and its writes are done (R55, R57) -/
  done : Bool := false
  /-- blocked on a remote event (R65) -/
  blocked : Bool := false
  /-- mash count at which it last moved a line (R373) -/
  movedAt : Nat := 0
  /-- mash count at which its station accepted it (R381) -/
  acceptedAt : Nat := 0
  /-- mash count at which the stream stopped being ACTIVE with a fault, its engine time not yet charged (R381) -/
  endedAt : Option Nat := none
  /-- withdrawn at a park, holding an always-open gate (R373) -/
  withdrawn : Bool := false
  /-- a withdrawn RECV has received the flush flit of its source (R374) -/
  flushed : Bool := false
  /-- N1 has taken the slot's fault report (R53) -/
  taken : Bool := false
  deriving DecidableEq, Repr

/-- What a stalled sequencer instruction waits for (R87). -/
inductive Stall where
  | stream (rs rd : BitVec 5) (ax ay az : BitVec 4)
  | waitt (tc : BitVec 3) (v : BitVec 32) (waited : BitVec 32)
  | fence (mask : BitVec 8)
  | kend
  | msg (rs : BitVec 5) (sel : BitVec 4)
  | dwqPush
  deriving DecidableEq, Repr

/-- The kernel instance a core runs (R361, R363). -/
structure KernelRef where
  part : Nat
  kid : Nat
  inst : Nat
  width : Nat
  resv : Bool
  enforced : Bool
  client : Nat
  deriving DecidableEq, Repr

/-- The sequencer (Table 3.1). -/
structure Sequencer where
  s : FMap Word := []
  a : FMap Word := []
  t : FMap (BitVec 32) := []
  pc : Word := 0
  sig : BitVec 32 := 0
  regionBase : Word := 0
  regionLen : Word := 0
  mbox : List (BitVec 256) := []
  /-- outbound messages, oldest first, with their SEL (R92) -/
  outbound : List (Nat × BitVec 256) := []
  stall : Option Stall := none
  /-- the code of the fault that stopped the sequencer (R95) -/
  faulted : Option Nat := none
  kernel : Option KernelRef := none
  preempt : Bool := false
  /-- the core has taken a pre-emption and waits for its streams to finish (R64) -/
  parking : Bool := false
  parked : Bool := false
  /-- halted by a debug access, and allowed one instruction by a step (R496) -/
  halted : Bool := false
  stepOne : Bool := false
  /-- mash count of the last yield point (R66) -/
  yieldMark : Nat := 0
  /-- YIELD_OVERDUE already counted since the last yield point (R66) -/
  overdueSeen : Bool := false
  /-- mash count of the last SIGCHK (R455) -/
  sigMark : Nat := 0
  /-- instruction cache: 256-byte lines by line address, at most 256 (R79) -/
  icache : FMap (List Byte) := []
  deriving DecidableEq, Repr

/-- The scratchpad with its liveness bitmap and its error marks (R42, R48, R440). -/
structure Scratch where
  mem : Memory := []
  live : List Nat := []
  liveRows : List Nat := []
  /-- errors now present in 64-bit words: 1 correctable, 2 uncorrectable (R440) -/
  err : FMap Nat := []
  deriving DecidableEq, Repr

/-! ## Core: Mash -/

/-- An accumulator entry (Table 5.3); its ECC is the error mark of `Mash.err`. -/
structure AccEntry where
  value : BitVec 96 := 0
  st : BitVec 4 := 0
  res : BitVec 20 := 0
  deriving DecidableEq, Repr

/-- A stationary or shadow tile: element codes and MX scales by delivered row (R134). -/
structure StatTile where
  fmt : Nat
  accm : Nat
  k : Nat
  rows : List (List Nat)
  scales : List (List Nat)
  deferred : Bool
  deriving DecidableEq, Repr

/-- The recorded ROLE 0 FEED of one origin (R237). -/
structure Role0 where
  desc : BitVec 256
  srcBase : Nat
  auxBase : Nat
  deriving DecidableEq, Repr

/-- One accumulation group (R153, Table 5.8). -/
structure Group where
  base : Nat := 0
  count : Nat := 0
  mode : Nat := 0
  mx : Bool := false
  chk : Bool := false
  isOpen : Bool := false
  kcount : Nat := 0
  rowOrg : BitVec 32 := 0
  colOrg : BitVec 32 := 0
  /-- operand format of the opening FEED (the F16 sum format, R148) -/
  fmt : Nat := 0
  released : List Nat := []
  abortReq : Bool := false
  deriving DecidableEq, Repr

/-- An exact dyadic sum m × 2^e with the state of Table 5.4. -/
structure ExSum where
  m : Int := 0
  e : Int := 0
  st : Nat := 0
  deriving DecidableEq, Repr

/-- Mash and its accumulator memory (chapter 5). -/
structure Mash where
  acc : FMap AccEntry := []
  /-- errors now present in entries: 1 single-bit, 2 double-bit (R140) -/
  err : FMap Nat := []
  stat : Option StatTile := none
  shadow : Option StatTile := none
  groups : FMap Group := []
  org : FMap Word := []
  lastKblk : FMap Nat := []
  cc : FMap ExSum := []
  mb : FMap ExSum := []
  cr : FMap ExSum := []
  /-- rounded additions per entry (R168) -/
  adds : FMap Nat := []
  role0 : FMap Role0 := []
  srSeed : Word := 0
  accCe : Nat := 0
  chkSkip : Nat := 0
  chkFail : Nat := 0
  resFail : Nat := 0
  resChk : Bool := true
  deriving DecidableEq, Repr

/-! ## Core: Skive, Kettle, Hopback, Welt -/

/-- A long register (R179). -/
structure LongReg where
  v : Int := 0
  e : Int := -160
  st : Nat := 0
  trunc : Bool := false
  count : Nat := 0
  deriving DecidableEq, Repr

/-- Elements waiting on a direct path into a station: the format they are delivered in and their codes (R99, R546). -/
structure Direct where
  fmt : Nat
  elems : List Nat
  deriving DecidableEq, Repr

/-- Skive and Kettle (chapters 4 and 6). -/
structure Vec where
  hist : FMap Nat := []
  expBase : BitVec 8 := 0xE8
  /-- the operand block that Kettle read as it accepted its VECTOR (R174) -/
  block : List Byte := []
  lr : FMap LongReg := []
  seed : Word := 0
  step : BitVec 32 := 0
  elems : Nat := 0
  transSub : Nat := 0
  lrTrunc : Nat := 0
  deriving DecidableEq, Repr

/-- A ring slot of a soft-target channel (R195, R199). -/
structure RingTile where
  step : BitVec 32 := 0
  rows : Nat := 0
  cols : Nat := 0
  got : List Nat := []
  bad : Bool := false
  deriving DecidableEq, Repr

/-- A soft-target channel of a Hopback (R195 to R203, Table 7.13). -/
structure HopChan where
  cfg : Word := 0x0000100000000000
  received : Nat := 0
  released : Nat := 0
  onePtr : Nat := 0
  twoPtr : Nat := 0
  ring : FMap RingTile := []
  /-- tiles freed since the last credit flit (R200) -/
  freed : Nat := 0
  deriving DecidableEq, Repr

/-- What a LOSS stream in progress has formed for one token row: the references of student and teacher, whether a row has
met a finite or +∞ value, and the images in the order of Table 7.5 (R211). -/
structure HopRow where
  qs : Int := -2147483648
  qt : Int := -2147483648
  anyS : Bool := false
  anyT : Bool := false
  ims : List LongReg := []
  deriving DecidableEq, Repr

/-- Hopback (chapter 7). -/
structure Hop where
  chans : FMap HopChan := []
  guardCnt : Nat := 0
  gatePush : Nat := 0
  gateDrop : Nat := 0
  discarded : Nat := 0
  softStep : BitVec 32 := 0
  /-- gate records on their way to N1, oldest first (R225) -/
  gates : List (BitVec 256) := []
  /-- rows of the LOSS stream that has begun and waits for teacher tiles (R207) -/
  work : List HopRow := []
  /-- the parameter block read at acceptance of that stream (R205) -/
  block : List Byte := []
  /-- REF entries that each EMIT has read, by token row: student and teacher; a pass TWO checks against the oldest (R214) -/
  refs : List (List (Int × Int)) := []
  deriving DecidableEq, Repr

/-- A credit entry of a Welt endpoint (R198). -/
structure Credit where
  core : Nat
  chan : Nat
  grant : Nat
  sent : Nat
  deriving DecidableEq, Repr

/-- A remote-grant entry of a Welt endpoint (R285). -/
structure RemoteGrant where
  pkg : Nat
  core : Nat
  chan : Nat
  granted : Nat
  sent : Nat
  deriving DecidableEq, Repr

/-- The Welt endpoint (R60, R198, R285). -/
structure Welt where
  credits : List Credit := []
  grants : List RemoteGrant := []
  /-- flush flits, as channel and source, that came before their RECV was withdrawn (R373, R374) -/
  flushes : List (Nat × Nat) := []
  softSent : Bool := false
  /-- lines posted on each channel since kernel launch (R285) -/
  posted : FMap Nat := []
  /-- position below which every line of a channel has been filled (R60, R286) -/
  next : FMap Nat := []
  /-- positions filled beyond it, by channel (R286) -/
  ahead : List (Nat × Nat) := []
  /-- position at which the remote SEND now arriving on each channel began (R286) -/
  base : FMap Nat := []
  /-- GRANT packets not yet delivered, as (package, core of the SEND, channel) (R547) -/
  undelivered : List (Nat × Nat × Nat) := []
  /-- query input discarded by its CRC (R457) -/
  inputBad : List Nat := []
  /-- CRC-32C over the input lines written so far, by channel (R457) -/
  inputCrc : FMap (BitVec 32) := []
  /-- DEST_RESET answers received: destination core and slot of the SEND (R41) -/
  destReset : List (Nat × Nat) := []
  deriving DecidableEq, Repr

/-! ## Core: Cask, deferred queue, buckets, phase -/

/-- A stash epoch (R240, Table 8.9). -/
structure Epoch where
  mbase : Nat := 0
  mlen : Nat := 0
  rbase : Nat := 0
  rlen : Nat := 0
  spill : Bool := false
  spillLayer : Nat := 0
  spillAddr : Nat := 0
  deriving DecidableEq, Repr

/-- Cask (R240 to R246). -/
structure Cask where
  epoch : Nat := 0
  layer : BitVec 16 := 0
  epochs : FMap Epoch := []
  spills : Nat := 0
  discStreams : Nat := 0
  discUnits : Nat := 0
  deriving DecidableEq, Repr

/-- A started deferred entry (R232, R236). -/
structure DwqEntry where
  n : Nat
  line : Nat
  count : Nat
  idx : Nat
  tken : Bool
  tc : Nat
  ax : Word
  ay : Word
  az : Word
  forced : Bool
  /-- slots of the entry's streams that have not completed -/
  open_ : List Nat
  bad : Bool
  deriving DecidableEq, Repr

/-- The deferred queue and its issuer (R231 to R239, Table 8.10). -/
structure Dwq where
  ctl : Word := 0x0000000040400000
  force : BitVec 32 := 0
  pushed : Nat := 0
  /-- sequence number of the entry at the head -/
  head : Nat := 0
  /-- the entry being issued, if one is started -/
  started : Option DwqEntry := none
  /-- entries issued whole whose streams have not all completed (R236) -/
  running : List DwqEntry := []
  /-- an entry forced because the queue was full (R235) -/
  fullForce : Option Nat := none
  fullStall : Nat := 0
  refill : Nat := 0
  discarded : Nat := 0
  entryFault : Nat := 0
  mcyc : Nat := 0
  /-- mash count since which Mash has had no FEED and an empty shadow (R233) -/
  idleSince : Nat := 0
  deriving DecidableEq, Repr

/-- A landing of a bucket slot (R304). -/
structure Landing where
  src : Nat
  carried : Bool
  count : Nat
  expv : Int
  need : Nat
  got : List Nat
  counted : Bool
  /-- its source was lost before the landing was complete (R307) -/
  lost : Bool
  deriving DecidableEq, Repr

/-- An armed bucket slot (R298, R299, R304). -/
structure BktSlot where
  line : Nat
  /-- bytes 0 to 63 of the slot line, read at the arm -/
  cfg : List Byte
  armedAt : Nat
  state : Nat := 0
  landings : List Landing := []
  counted : Nat := 0
  released : Nat := 0
  byDeadline : Bool := false
  sourceLost : Bool := false
  closeAt : Nat := 0
  /-- control count of the latest landing or line (R306) -/
  touchedAt : Nat := 0
  deriving DecidableEq, Repr

/-- A held bucket header (R303). -/
structure HeldHdr where
  vc : Nat
  score : Nat
  /-- slot of the SEND, for a header of this package -/
  slot : Nat
  hdr : BktHeader
  /-- lines behind the header in its packet -/
  lines : List (Nat × List Byte)
  /-- the port whose link die holds its packet; none for a header of this package, which waits at its sender (R303) -/
  via : Option (Nat × Packet)
  since : Nat
  deriving DecidableEq, Repr

/-- Where the later lines of a bucket SEND land: a slot and landing, or nowhere after a drop. -/
structure BktFlow where
  vc : Nat
  pkg : Nat
  score : Nat
  land : Option (Nat × Nat)
  deriving DecidableEq, Repr

/-- The bucket slots of a core (chapter 11). -/
structure Bkt where
  slots : FMap BktSlot := []
  held : List HeldHdr := []
  flows : List BktFlow := []
  armErr : Nat := 0
  relErr : Bool := false
  cfg : Word := 0x0000000100989680
  carriedCnt : Nat := 0
  lateDrop : Nat := 0
  holdDrop : Nat := 0
  dupDrop : Nat := 0
  epochDrop : Nat := 0
  sizeDrop : Nat := 0
  emptyClose : Nat := 0
  deriving DecidableEq, Repr

/-- Phase counters and segment control (R254, Table 8.11). -/
structure Phase where
  ctl : Word := 0
  segCtl : Word := 0x20
  cyc : FMap Nat := []
  /-- a best-effort kernel has run since the last STEP record (R427; log entry 98) -/
  ran : Bool := false
  /-- mash count up to which `cyc` is counted -/
  mark : Nat := 0
  deriving DecidableEq, Repr

/-- The scheduler's view of a core (Table 13.7). -/
inductive SchedState where
  | free | running | parking | parked | saving | restoring
  deriving DecidableEq, Repr

/-- The safety registers of a core (Table 17.7) and its test state (R454). -/
structure SafeCore where
  pass : Nat := 0
  fail : Nat := 0
  failStn : BitVec 8 := 0
  failSeq : Bool := false
  /-- a test has failed: no kernel until re-initialised (R454) -/
  barred : Bool := false
  /-- the core waits for its closing test (R454) -/
  closing : Bool := false
  /-- control count of the last test (R454) -/
  lastTest : Nat := 0
  testing : Bool := false
  /-- re-initialised and not yet tested (R507) -/
  retest : Bool := false
  deriving DecidableEq, Repr

/-- One core. -/
structure Core where
  seq : Sequencer := {}
  slots : FMap Slot := []
  /-- order number of the next stream (R54) -/
  nextOrder : Nat := 0
  sp : Scratch := {}
  mash : Mash := {}
  vec : Vec := {}
  hop : Hop := {}
  welt : Welt := {}
  cask : Cask := {}
  dwq : Dwq := {}
  bkt : Bkt := {}
  phase : Phase := {}
  safe : SafeCore := {}
  /-- elements waiting on the direct path of a station, by its bit number in the FENCE mask (R99) -/
  direct : FMap Direct := []
  fpflags : Word := 0
  /-- CINCH_CORE (Table 9.8): LIVE, NFMASK, TC -/
  cinch : Word := 0x6
  yieldOverdue : Bool := false
  overdueCnt : Nat := 0
  slotStall : Nat := 0
  gatherRange : Nat := 0
  retired : Bool := false
  sched : SchedState := .free
  /-- mash count at which pre-emption was requested (R372) -/
  preemptAt : Nat := 0
  spCe : Nat := 0
  spUe : Nat := 0
  passes : Nat := 0
  deriving DecidableEq, Repr

/-! ## Bays and dies -/

/-- The state of a bay (R467). -/
inductive BayState where
  | on | retention | gated | reset
  deriving DecidableEq, Repr

/-- An entry of a bay's clock record (R475, Table 18.6). -/
structure ClkEntry where
  seq : Nat
  ctl : Nat
  mash : Nat
  freq : Nat
  cause : Nat
  deriving DecidableEq, Repr

/-- One bay. -/
structure Bay where
  part : Nat := 0
  state : BayState := .on
  /-- BAY_PWR.REQ and the target of a return or power-down under way (R467) -/
  req : Nat := 0
  err : Nat := 0
  dip : Bool := false
  /-- control count at which the restore timer started (R470) -/
  restoreAt : Option Nat := none
  /-- lowest rail reading of the dip, mV (R472, R483) -/
  lowMv : Nat := 0
  planBin : Nat := 0
  thrBin : Nat := 0
  offset : Nat := 0
  /-- bins the PLL has reached (R466) -/
  pllBin : Nat := 0
  /-- setpoint the regulator has acknowledged, mV (R469) -/
  acked : Nat := 700
  dipCnt : Nat := 0
  resets : Nat := 0
  overrun : Nat := 0
  clk : List ClkEntry := [⟨0, 0, 0, 104, 1⟩]
  nextClk : Nat := 1
  /-- clock-record entries sent in telemetry (R475, R485) -/
  clkSent : Nat := 0
  mash : Nat := 0
  mashFrac : Nat := 0
  /-- hottest sensor at the last thermal interval, °C, and the count since which every sensor has read low (R478) -/
  temp : Nat := 0
  coolSince : Nat := 0
  /-- control counts of the last thermal rise and of the last change of THR_BIN (R478, R480), and the cause of the bin change
  under way (R475) -/
  lastRise : Nat := 0
  lastBin : Nat := 0
  binCause : Nat := 4
  horizon : BitVec 16 := 0xFFFF
  slack : BitVec 16 := 0
  replans : Nat := 0
  dipStress : Bool := false
  dayDips : Nat := 0
  /-- samples taken after dips, newest first: slack, and the dip's lowest rail reading (R483) -/
  dipSamples : List (Nat × Nat) := []
  lastPlan : Nat := 0
  /-- daily re-plan samples of slack, newest first, at most 30 (R484) -/
  slacks : List Nat := []
  /-- a re-plan is due at the RESTORE entry (R482) -/
  planDue : Bool := false
  /-- energy of the bay since the last telemetry record (R485) -/
  energy : Nat := 0
  deriving DecidableEq, Repr

/-- A row being received by a Tap (R337). -/
structure TapRow where
  vals : List (Nat × BitVec 32) := []
  sampled : Bool := false
  token : Option Nat := none
  masked : Bool := false
  deriving DecidableEq, Repr

/-- One compute die: its Tap and its router (Tables 12.12, 21.10). -/
structure Die where
  /-- rows by pass key and packed row (R336, R337) -/
  rows : FMap TapRow := []
  suppressed : Nat := 0
  nonfinite : Nat := 0
  rowFaults : Nat := 0
  /-- draft store reserved, bytes (R343) -/
  storeBytes : Nat := 0
  addrDiscard : Nat := 0
  partDiscard : Nat := 0
  fc4Discard : Nat := 0
  destReset : Nat := 0
  deriving DecidableEq, Repr

/-! ## Fabric -/

/-- What a flit in flight carries beside its header. -/
inductive FlitBody where
  /-- a Welt data line for a channel (R60) -/
  | data (chan : Nat) (line : List Byte)
  /-- the line of a soft-target data flit, whose fields stand in the header (Table 7.2) -/
  | soft (line : List Byte)
  /-- a credit flit, whose fields stand in the header (Table 7.2) -/
  | credit
  /-- the flush flit of a withdrawn SEND (R373) -/
  | flush (chan : Nat)
  deriving DecidableEq, Repr

/-- A flit on its way between two cores of the package: its 32-byte header (R26, Tables 1.3 and 7.2), the SEND that sent it as
core, slot and order of issue, and how many places of its path it has left behind (R27). -/
structure Flit where
  hdr : BitVec 256
  src : Nat
  slot : Nat
  order : Nat
  dst : Nat
  hops : Nat
  body : FlitBody
  deriving DecidableEq, Repr

/-- Counts of the on-package fabric: bytes sent by each partition (R40), flits presented at each non-compute site (R22, R23). -/
structure Fabric where
  bytes : FMap Nat := []
  presented : FMap Nat := []
  deriving DecidableEq, Repr

/-- An inbound mailbox message on its way to a core (R93): who sent it decides what a refusal does. -/
inductive MsgSource where
  | cinch | ingest (q : Nat)
  deriving DecidableEq, Repr

structure MboxMsg where
  core : Nat
  payload : BitVec 256
  tc : Nat
  source : MsgSource
  /-- refused once with MBOX_FULL; offered again at this control count (R268, R417) -/
  retryAt : Option Nat
  deriving DecidableEq, Repr

/-- A fault report (Table 20.3). -/
structure Report where
  code : Nat
  rung : Nat
  cause : Nat
  site : Nat
  unit : Nat
  core : Nat
  domain : Nat
  slot : Nat
  kind : Nat
  stn : Nat
  step : Nat
  count : Nat
  pc : Nat
  addr : Nat
  detail : Nat
  tag : Nat
  deriving DecidableEq, Repr

/-! ## Memory and flash -/

/-- HBM, its region table and its controllers (chapter 16). -/
structure Hbm where
  /-- bytes by stack × 64 × 10⁹ + stack offset (R431, R433) -/
  mem : Memory := []
  rgn : FMap Word := []
  rgn2 : FMap Word := []
  err : Nat := 0
  unmapped : Nat := 0
  denied : Nat := 0
  arb : FMap Word := []
  scrub : Word := 0x40108
  /-- errors now present in sectors: 1 correctable, 2 uncorrectable (R439) -/
  bad : FMap Nat := []
  /-- the package sector whose address the code of a written sector covers (R439) -/
  home : FMap Nat := []
  /-- written sectors that the region table no longer maps at that address: their code fails (R439) -/
  moved : List Nat := []
  ce : FMap Nat := []
  ue : FMap Nat := []
  /-- control counts of the uncorrectable sectors of each channel within the last second (R441) -/
  chanUe : FMap (List Nat) := []
  /-- stacks stopped by an HBM rail (Table 18.5) -/
  stopped : List Nat := []
  /-- channels under re-initialisation (Table 20.2) -/
  down : List Nat := []
  /-- stacks in self-refresh or off with their bay (R468) -/
  dark : List Nat := []
  deriving DecidableEq, Repr

/-- A paused cache on flash (R355, R356). -/
structure PausedCache where
  part : Nat
  req : Nat
  bytes : Nat
  /-- the copy to flash has completed, at this count (R356) -/
  done : Option Nat
  loading : Bool
  /-- what the copy holds -/
  data : List Byte := []
  deriving DecidableEq, Repr

/-- Local flash (R443 to R447). -/
structure Flash where
  cfg : Word := 0xBB8
  /-- per stack: STATE, and bytes written since manufacture (R447) -/
  st : FMap Nat := []
  written : FMap Nat := []
  lost : Nat := 0
  ue : Nat := 0
  /-- VDD_FLASH fell below its reset level: every stack counts as FAILED until the next package reset (R473) -/
  railDown : Bool := false
  paused : List PausedCache := []
  /-- HALF and LATEST of the store tier, kept with its flash record (R429) -/
  half : Bool := false
  latest : Bool := false
  deriving DecidableEq, Repr

/-! ## Cinch and survival -/

/-- The state of a Cinch round (Table 9.9). -/
inductive CinchPhase where
  | idle | collect | decided | prepared | resolve
  deriving DecidableEq, Repr

/-- A member of the step group (Table 14.3). -/
structure Member where
  pkg : Nat
  spare : Bool
  partnerA : Nat
  partnerB : Nat
  shardBase : Nat
  shardLen : Nat
  deriving DecidableEq, Repr

/-- The generations that a partner keeps for a package it serves: the latest complete one, and the one being received (R385). -/
structure PartnerGen where
  complete : Option Nat := none
  receiving : Option Nat := none
  /-- lines of the generation being received that have landed -/
  landed : Nat := 0
  deriving DecidableEq, Repr

/-- The Cinch unit of the package (chapter 9). -/
structure Cinch where
  cfg : Word := 0x0001FFC07F800000
  tmo : BitVec 32 := 0x000F4240
  ls : Word := 0x00000007D0180010
  nextLs : BitVec 8 := 0x10
  committed : BitVec 32 := 0
  epoch : BitVec 16 := 0
  state : CinchPhase := .idle
  mboxWait : Nat := 0
  skips : Nat := 0
  aborts : Nat := 0
  updateNf : Nat := 0
  staleMsg : Nat := 0
  cores : FMap Word := []
  members : List Member := []
  /-- the member table of the epoch before (R392, R393) -/
  oldMembers : List Member := []
  /-- the package's own norm so far (R262) -/
  own : NormTotal := ⟨0, 0, 0, false, false⟩
  /-- the exact step norm so far, of the packages of `totals` (R262) -/
  total : NormTotal := ⟨0, 0, 0, false, false⟩
  /-- parts received: core × 4 + part (R262) -/
  parts : List Nat := []
  /-- packages whose totals have been added (R262) -/
  totals : List Nat := []
  decision : Option Bool := none
  gscale : BitVec 32 := 0
  normsq : BitVec 32 := 0
  ready : List Nat := []
  nfUpd : Bool := false
  nfCore : Nat := 0xFFFF
  /-- MIRROR_IN received: core, owning package (R266) -/
  mirrorIn : List (Nat × Nat) := []
  /-- partners that have sent MIRROR_HELD for this package (R266) -/
  mirrorHeld : List Nat := []
  /-- mirrors that this package holds: owning package and step (R266) -/
  mirrors : List (Nat × Nat) := []
  /-- the decision of the step committed last (R271) -/
  last : Option DecideVals := none
  preparedBy : List Nat := []
  groupNf : Bool := false
  /-- control count at which the current round's last phase began (R270) -/
  roundAt : Nat := 0
  deriving DecidableEq, Repr

/-- A fill in progress (R396, Table 14.8). -/
structure Fill where
  state : Nat := 0
  done : Nat := 0
  total : Nat := 0
  source : Nat := 0
  switches : Nat := 0
  target : BitVec 32 := 0
  fromStore : Bool := false
  partnerA : Nat := 0
  partnerB : Nat := 0
  /-- control count at which the chunk in flight began -/
  chunkAt : Nat := 0
  /-- position kept at a roll-back: the next chunk is (redo + done) modulo total (R399) -/
  redo : Nat := 0
  /-- the step record that came before the first chunk (R396) -/
  record : Option (List Byte) := none
  /-- the elements that the fill brings -/
  base : Nat := 0
  len : Nat := 0
  deriving DecidableEq, Repr

/-- A fill that is due: elements, the packages that can serve it, the target step, whether it comes from the store, and whether a
COMPAT_VERIFY setting has been counted for its restore (R390, R393, R396, R399). -/
structure FillJob where
  base : Nat
  len : Nat
  partnerA : Nat
  partnerB : Nat
  target : Nat
  store : Bool
  noted : Bool := false
  deriving DecidableEq, Repr

/-- Checkpoint tiers and epochs (chapter 14). -/
structure Ckpt where
  ctl : Word := 0x0007D00258007801
  partnerStep : BitVec 32 := 0
  flashStep : BitVec 32 := 0
  storeStep : BitVec 32 := 0
  stalls : Nat := 0
  tierFail : Nat := 0
  epochAddr : Nat := 0
  epochErr : Nat := 0
  mismatch : Bool := false
  ownDigest : Word := 0
  digests : List Nat := []
  fill : Fill := {}
  /-- fills that wait for the one under way (R397) -/
  fills : List FillJob := []
  /-- digests of member tables that this package has not loaded yet (R391) -/
  early : List (Nat × TableHash) := []
  /-- the committed step that the owner of a lost shard rebuilds once it is filled, and its decision (R271) -/
  rebuild : Option (Nat × DecideVals) := none
  /-- the 4 KiB block of a part read back from the store, as it has come so far (R429) -/
  block : Memory := []
  /-- generations kept for each package served as a partner (R385) -/
  partnerGens : FMap PartnerGen := []
  /-- steps whose tier reads have not finished (R386) -/
  reads : List Nat := []
  /-- a DECIDE waits for tier reads (R386) -/
  waiting : Bool := false
  /-- last FLASH and STORE marks, in control counts (R384) -/
  lastFlash : Nat := 0
  lastStore : Nat := 0
  markFlash : Bool := false
  markStore : Bool := false
  /-- packages that have reported their flash or store part of a step (R387) -/
  parts : List (Nat × Nat × Bool) := []
  /-- views of the interrupted step (R392) -/
  views : List StepView := []
  /-- packages reported lost in the current RESOLVE (R270) -/
  lost : List Nat := []
  /-- the outcome chosen, row of Table 14.4 -/
  outcome : Nat := 0
  /-- the step that a restore from local flash is reading (R389, R399) -/
  restore : Option Nat := none
  /-- own parts still to be written: step, store tier, and stripes still unacknowledged for the store (R387, R429) -/
  writes : List (Nat × Bool × Nat) := []
  deriving DecidableEq, Repr

/-! ## Links -/

/-- The state of a link port (Table 10.9). -/
inductive LinkState where
  | down | training | up | sparing
  deriving DecidableEq, Repr

/-- A frame in the replay buffer: times resent, its header and slots 1 to 29, and the packets whose last slot it carries, each
with the slot of its SEND (R279, R281, R293). -/
structure ReplayFrame where
  fseq : BitVec 12
  resent : Nat
  hdr : BitVec 256
  slots : List (BitVec 256)
  pkts : List (Packet × Nat)
  deriving DecidableEq, Repr

/-- A packet that waits at a port for credit, arbitration or the replay buffer, with its data, the slot of its SEND, and, on its way
through, the port whose receive buffer holds it and as what it came (R283, R284). -/
structure OutPkt where
  k : Packet
  data : List Byte
  slot : Nat
  via : Option (Nat × Packet)
  deriving DecidableEq, Repr

/-- One chip-to-chip port. -/
structure Port where
  ctl : Word := 0x000100000000001E
  state : LinkState := .down
  rate : Nat := 0
  wide : Bool := false
  /-- rate being tried in training: 3, 2 or 1 -/
  trying : Nat := 0
  /-- a rate allowed in a retraining beside LINK_CTL.RATES (R282) -/
  alsoRate : Nat := 0
  forceMinw0 : Bool := false
  active : BitVec 17 := 0
  spare : Option Nat := none
  spareUsed : Bool := false
  spareFor : Nat := 0
  /-- the failing lane of a swap in progress (Table 10.7) -/
  swapLane : Nat := 0
  /-- lanes found failing during the swap (R292) -/
  failing : List Nat := []
  corrSym : Nat := 0
  naks : Nat := 0
  swaps : Nat := 0
  retrains : Nat := 0
  routeDrop : Nat := 0
  routeHops : Nat := 0
  vcRefused : Nat := 0
  e2eFail : Nat := 0
  vcarb : Word := 0x78A143CA1E
  trec : FMap Word := []
  trecPkg : Option Nat := none
  gen1 : Bool := true
  /-- latest frame received in order (R281) -/
  rxAck : BitVec 12 := 0xFFF
  /-- a frame was discarded, and frames are discarded until the next in order (R281) -/
  nakSent : Bool := false
  /-- the next outbound header carries NAK (R281) -/
  nakDue : Bool := false
  /-- ACKSEQ of the last frame sent -/
  ackTold : BitVec 12 := 0xFFF
  txNext : BitVec 12 := 0
  /-- packets that wait to be sent, oldest first (R283, R284) -/
  outq : List OutPkt := []
  /-- slots of the frame being filled, each with the packet that ends in it (R279) -/
  tx : List (BitVec 256 × Option (Packet × Nat)) := []
  /-- slots served per channel since packets began to wait (R284) -/
  served : FMap Nat := []
  /-- buffer slots freed for the peer per VC and hop class, cumulative modulo 256, and as last sent (R278, R283) -/
  freed : FMap Nat := []
  freedTold : FMap Nat := []
  /-- packets received that wait behind a held bucket header of their channel, oldest first (R303) -/
  behind : List (Packet × List Byte) := []
  /-- unacknowledged frames held for replay, oldest first (R281, R282) -/
  replay : List ReplayFrame := []
  replayFullAt : Option Nat := none
  /-- credits returned by the peer per VC and hop class, cumulative modulo 256 (R278) -/
  credit : FMap Nat := []
  /-- slots sent per VC and hop class -/
  used : FMap Nat := []
  deriving DecidableEq, Repr

/-- The link dies and the routes (chapter 10). -/
structure Links where
  ports : FMap Port := []
  pkg : BitVec 12 := 0
  pkgSet : Bool := false
  bankB : Bool := false
  swapErr : Bool := false
  lastSwap : Option Nat := none
  routeA : FMap Word := []
  routeB : FMap Word := []
  /-- peer packages of link-failure notices on their way to Cinch (R293) -/
  notices : List Nat := []
  deriving DecidableEq, Repr

/-! ## Scheduler -/

/-- A submission record as read (Table 13.1). -/
structure KernelRec where
  kid : Nat
  client : Nat
  be : Bool
  resv : Bool
  width : Nat
  part : Nat
  hotset : Nat
  entry : Word
  regionBase : Word
  regionLen : Word
  args : List Word
  srSeed : Word
  kSeed : Word
  kStep : BitVec 32
  est : Nat
  restEst : Nat
  req : Word
  addr : Nat
  deriving DecidableEq, Repr

/-- A waiting kernel. -/
structure Waiting where
  krec : KernelRec
  order : Nat
  at_ : Nat
  deriving DecidableEq, Repr

/-- The state of a placed kernel. -/
inductive PlacedState where
  | running | parking | saving | saved | restoring
  deriving DecidableEq, Repr

/-- A placed kernel (R361). -/
structure Placed where
  krec : KernelRec
  cores : List Nat
  ended : List Nat
  order : Nat
  at_ : Nat
  state : PlacedState
  /-- cores whose save or restore has completed -/
  moved : List Nat
  /-- ended with status KILLED (R375, R505) -/
  killed : Bool
  /-- sequence number of the launch (R369, R370) -/
  placeNo : Nat
  /-- per core, the mash count up to which its cycles are charged (R366, R378, R381) -/
  marks : FMap Nat
  /-- cores whose PARK_OVERDUE has been raised (R372) -/
  late : List Nat
  deriving DecidableEq, Repr

/-- A saved context of one core (Table 13.2). -/
structure SavedCtx where
  part : Nat
  kid : Nat
  seq : Sequencer
  slots : FMap Slot
  sp : Scratch
  mash : Mash
  vec : Vec
  cask : Cask
  dwq : Dwq
  phaseCtl : Word
  segCtl : Word
  fpflags : Word
  cinch : Word
  /-- lines posted on each channel since kernel launch (R285) -/
  posted : FMap Nat
  deriving DecidableEq, Repr

/-- A client of a partition's scheduler (R366). -/
structure Client where
  weight : Nat := 1
  /-- virtual time: core-cycles held × 1,000, in units of 1 ÷ weight: whole part and remainder -/
  vt : Nat := 0
  vtRem : Nat := 0
  deriving DecidableEq, Repr

/-- A hot-set cache entry (R369). -/
structure HotSet where
  id : Nat
  cores : List Nat
  line : Nat
  len : Nat
  lastUse : Nat
  pins : Nat
  deriving DecidableEq, Repr

/-- A launch record in flight to a core (R363). -/
structure Launch where
  krec : KernelRec
  inst : Nat
  enforced : Bool
  deriving DecidableEq, Repr

/-- A kernel-end report (R87, R89, R239). -/
structure EndReport where
  core : Nat
  gated : Nat
  sig : BitVec 32
  dwqDiscarded : Nat
  spill : Bool
  mashAt : Nat
  killed : Bool
  /-- the instance belonged to a kernel of an enforced model as it was launched (R451, R454) -/
  enforced : Bool
  deriving DecidableEq, Repr

/-- The scheduler of one partition (chapter 13). -/
structure Sched where
  ctl : Word := 0xCB2000030D400000
  waiting : List Waiting := []
  placed : List Placed := []
  clients : FMap Client := []
  hot : List HotSet := []
  /-- LC hot sets in the reserve region, by model (R368) -/
  lcHot : List Nat := []
  saveBase : FMap Nat := []
  acctSel : Nat := 0
  /-- sequence number of the next launch (R369, R370) -/
  launchNo : Nat := 1
  deriving DecidableEq, Repr

/-! ## Serving -/

/-- A resident model (Table 12.1) and its pages (Table 12.11). -/
structure Model where
  mrec : ModelRec
  free : Nat
  pending : Nat
  prefPages : Nat
  /-- token lines sent in this step, as pass × 1,024 + group (R341) -/
  lines : List Nat
  /-- the lowest ROW0 that a SAMPLE of a pass has named in this step (R341) -/
  row0 : FMap Nat := []
  deriving DecidableEq, Repr

/-- What a line of a query's input from N1 carries: its bytes, whether it is the first, and with the last the CRC of the input (R457). -/
structure InputLine where
  req : Nat
  part : Nat
  bytes : List Byte
  first : Bool
  crc : Option (BitVec 32)
  deriving DecidableEq, Repr

/-- A token line on its way from a Tap to a core (R341), or a line of a query's input on its way from N1 (R457). -/
structure TokenLine where
  core : Nat
  chan : Nat
  group : Nat
  /-- ROW0 of its pass -/
  row0 : Nat
  /-- the die whose Tap sent it -/
  die : Nat
  entries : List (BitVec 32)
  /-- a line of a query's input, sent by N1, in place of a Tap's token line (R457) -/
  input : Option InputLine := none
  deriving DecidableEq, Repr

/-- A token held for a ring (R349). -/
structure Token where
  cls : Nat
  pos : Nat
  flags : Nat
  /-- the serving step it was emitted in -/
  step : Nat
  /-- the die whose Tap emitted it; none for an entry without a Tap (R358) -/
  die : Option Nat := none
  deriving DecidableEq, Repr

/-- A running or paused request (R326 to R349). -/
structure Request where
  jrec : JoinRec
  sess : Nat
  /-- MSGID of its JOIN or RESUME (Table 15.6) -/
  msgid : Nat
  slot : Option Nat
  order : Nat
  /-- pages it holds of those reserved for it -/
  pages : Nat
  /-- tokens of a prefill chunk -/
  chunk : Nat
  /-- the adapter generation it is pinned to: handle 0 for none (R353, R354) -/
  adapter : Nat
  gen : Nat
  /-- position at which its prompt starts: the length of the prefix handle it uses (R351) -/
  start : Nat
  promptLeft : Nat
  emitted : Nat
  k : Nat
  zeros : Nat
  /-- why it leaves: 0 no, 1 end, 2 LEAVE, 3 cancelled, 4 paused, 5 nonfinite; and the step it leaves in (R329) -/
  leaving : Nat
  leaveStep : Nat
  /-- sits out this step with a full ring (R349) -/
  sitOut : Bool
  /-- work of this step: drafts, prefill tokens, target rows (R332, R336) -/
  kNow : Nat
  chunkNow : Nat
  rowsNow : Nat
  /-- entries started, and the host's CONSUMED (R347) -/
  ringS : Nat
  consumed : Nat
  /-- tokens on their way from Tap to N1, and tokens N1 holds for the ring (R348, R349) -/
  fly : List Token
  queue : List Token
  coalesceAt : Option Nat
  /-- its FINAL entry has been started (R359) -/
  finalSent : Bool
  /-- the cancel notice has reached the Taps and cores (R358) -/
  noticed : Bool
  paused : Bool
  /-- the copy of a paused cache to flash has completed (R355) -/
  copied : Bool
  /-- a resumed request whose cache is loading (R357) -/
  loading : Bool
  /-- its cache could not be read again (R445, R446) -/
  lost : Bool := false
  /-- drafted tokens by draft pass, with their candidates and weights in units of 2⁻¹⁴⁹ (R342) -/
  drafts : FMap (Nat × List (Nat × Nat))
  /-- the draft record has reached the target Tap -/
  draftHere : Bool
  /-- draft store reserved in each sampling die, bytes (R343) -/
  store : Nat
  /-- positions given to the prefix handle of the join (R350) -/
  given : Nat
  deriving DecidableEq, Repr

/-- A join waiting for a decision (R326, R330). -/
structure PendJoin where
  jrec : JoinRec
  sess : Nat
  msgid : Nat
  step : Nat
  order : Nat
  deferrals : Nat
  /-- it stood before an earlier decision and was not admitted (R326, R327) -/
  held : Bool := false
  deriving DecidableEq, Repr

/-- Who asked: the session of a message and its MSGID, which a STATUS answers (Table 15.6); MSGID zero where none is answered. -/
structure Asker where
  sess : Nat
  msgid : Nat
  deriving DecidableEq, Repr

/-- A roster operation waiting for its decision (R325). -/
inductive RosterOp where
  | leave (req : Word) | pause (req : Word) | rebind (req : Word) (h : Nat) (g : Nat)
  deriving DecidableEq, Repr

/-- A KV handle (R350). -/
structure Handle where
  h : Nat
  model : Nat
  adapter : Nat
  gen : Nat
  len : Nat
  pages : Nat
  dropped : Bool
  users : Nat
  held : Bool
  deriving DecidableEq, Repr

/-- Slot, pages and draft store of a paused sequence that a RESUME has taken up again before the tail of the step it left in (R329,
R355, R357). -/
structure TailOwed where
  model : Nat
  slot : Option Nat
  pages : Nat
  store : Nat
  step : Nat
  deriving DecidableEq, Repr

/-- An adapter generation (R352, R353). -/
structure Adapter where
  h : Nat
  gen : Nat
  rank : Nat
  current : Bool
  pins : Nat
  deriving DecidableEq, Repr

/-- The serving unit of one partition (chapter 12). -/
structure Serve where
  ctl : Word := 0x0C910080
  /-- PSTATE in force, taken at the last decision (R334) -/
  pstate : Nat := 0
  step : BitVec 32 := 0
  /-- a step is in progress: its body runs, or only its tail is open -/
  tailOpen : Bool := false
  models : FMap Model := []
  reqs : List Request := []
  joins : List PendJoin := []
  ops : List (Nat × Asker × RosterOp) := []
  cancels : List (Nat × Asker × Nat) := []
  handles : List Handle := []
  adapters : List Adapter := []
  nextOrder : Nat := 0
  deferred : Nat := 0
  memRefused : Nat := 0
  cancelCnt : Nat := 0
  pauses : Nat := 0
  lateRoster : Nat := 0
  expired : Nat := 0
  ringFull : Nat := 0
  adapterFreed : Nat := 0
  /-- queries to FIELD models that take a slot at the next decision, and that hold one in this step (R324) -/
  fieldNew : Nat := 0
  fieldNow : Nat := 0
  /-- sites of the prefill dies chosen at the last decision (R333) -/
  prefillDies : List Nat := []
  /-- what requests resumed before their tail still give back at it (R355) -/
  owed : List TailOwed := []
  deriving DecidableEq, Repr

/-! ## Outputs -/

/-- An RDMA request of N1: its store target, what the target's entry gives for it, and its PSN, remote address and bytes (R428,
R429). -/
structure Rdma where
  target : Nat
  /-- local QPN, 802.1Q priority and DSCP (R408, R428) -/
  lqpn : Nat
  pcp : Nat
  dscp : Nat
  gid : Nat
  qpn : Nat
  rkey : Nat
  mac : Nat
  psn : Nat
  addr : Nat
  bytes : Nat
  deriving DecidableEq, Repr

/-- What the block has sent out of the package or drives on its pins, oldest first: the model's own record of its
outputs (log entry 6). -/
inductive Out where
  | openAck (sess mac pkg : Nat)
  | csrResp (sess status : Nat) (data : List Word)
  | status (sess msgid code detail ref step : Nat)
  | loadDone (sess status bytes : Nat)
  | fault (sess fseq lost : Nat) (r : Report)
  | hostMsg (sess core : Nat) (payload : BitVec 256)
  | gate (sess : Nat) (records : List (BitVec 256))
  | ringWrite (sess addr : Nat) (entries : List (BitVec 128))
  | lcResponse (sess req verdict notes model arrive sent : Nat) (dcrc : BitVec 32) (out : List Byte)
  /-- a record with its header KIND, DOMAIN, LEN, STEP, COUNT (R427) -/
  | telemetry (sess kind domain len step count : Nat) (data : List Nat)
  /-- a datagram of a session: its UDP source port, 802.1Q priority and DSCP (R405, R408), and header bytes 0 to 27 (Table 15.2); the
  body of its message is the row that follows FRAG 0 -/
  | rht (sess udp pcp dscp : Nat) (hdr : BitVec 224)
  | neighborAdvert (addr : BitVec 128)
  | arpReply (addr : BitVec 32)
  | echoReply (addr : BitVec 128) (data : List Byte)
  | packet (port : Nat) (k : Packet) (data : List Byte)
  | frame (port : Nat) (hdr : BitVec 256) (slots : List (BitVec 256))
  | trainRec (port : Nat) (r : TrainRec)
  | cinchMsg (pkg : Nat) (kind step : Nat) (nf flash store : Bool)
  | cinchTotal (pkg step : Nat) (t : NormTotal)
  | epochDigest (pkg epoch : Nat) (d : Word)
  | tierReport (pkg step : Nat) (store ok : Bool)
  | tierDone (pkg step : Nat) (store : Bool)
  | cinchView (pkg : Nat) (v : StepView)
  | storeWrite (r : Rdma)
  | storeRead (r : Rdma)
  | linkNotice (pkg : Nat)
  | kernelEnd (part kid : Nat) (killed : Bool) (solo meas : Nat)
  | pmbus (bay mv : Nat)
  | pin (name : Nat) (high : Bool)
  | scan (site : Nat)
  | debugRead (c : Nat) (v : Word)
  deriving DecidableEq, Repr

/-! ## Host port, safety, security, reset -/

/-- A datagram that has been sent: the times it has been sent, and what of its header it keeps when it is sent again. -/
structure Gram where
  sent : Nat := 1
  type : Nat
  msgid : Nat
  frag : Nat
  nfrag : Nat
  plen : Nat
  deriving DecidableEq, Repr

/-- A message that waits for the send window: its MSGID, its body's bytes, its fragments, and the next FRAG (R406). -/
structure OutMsg where
  msg : Out
  msgid : Nat
  bytes : Nat
  nfrag : Nat
  next : Nat := 0
  deriving DecidableEq, Repr

/-- A message whose fragments are arriving: MSGID, TYPE and NFRAG, the FRAG that comes next, and the bytes taken (R406). -/
structure RxPart where
  msgid : Nat
  type : Nat
  nfrag : Nat
  next : Nat
  bytes : Nat
  deriving DecidableEq, Repr

/-- One lane of a session, both directions (R407). -/
structure Lane where
  /-- SEQ that the receiver takes next -/
  rxSeq : BitVec 32 := 0
  /-- datagrams accepted and not yet acknowledged, and the control count of the oldest -/
  rxPend : Nat := 0
  rxAt : Nat := 0
  nakSent : Bool := false
  /-- an acknowledgement that its paused lane could not send: none, or whether it is a NAK (R402, R407) -/
  ackDue : Option Bool := none
  /-- SEQ of the next datagram sent -/
  txNext : BitVec 32 := 0
  /-- the unacknowledged datagrams, oldest first -/
  flight : List Gram := []
  /-- control count of the last progress of the acknowledgement -/
  progressAt : Nat := 0
  /-- messages that wait for the send window, oldest first -/
  waiting : List OutMsg := []
  /-- the message of the other direction whose fragments are arriving (R406) -/
  part : Option RxPart := none
  deriving DecidableEq, Repr

/-- An RHT session (R410). -/
structure Session where
  isOpen : Bool := false
  addr : Nat := 0
  port : Nat := 0
  subs : BitVec 8 := 0
  lanes : FMap Lane := []
  /-- MSGID of the next message the device sends (Table 15.2) -/
  msgNo : Nat := 0
  /-- entries of the DOORBELL message just taken, and the one that comes next (R414) -/
  bells : Nat := 0
  bellNext : Nat := 0
  loadBytes : Nat := 0
  /-- the MCLASS, the first address and the data of the loads since the last FINAL (R498) -/
  loadClass : Nat := 0
  loadAddr : Nat := 0
  loadLog : List Byte := []
  deriving DecidableEq, Repr

/-- A record N1 holds for its subscribers: the pairs (session, SEQ) that have not acknowledged it. -/
structure Held (α : Type) where
  item : α
  sent : Bool
  /-- some session has acknowledged it -/
  acked : Bool
  wait : List (Nat × Nat)
  deriving DecidableEq, Repr

/-- An open LC query at N1 (R422, R458). -/
structure Query where
  req : Nat
  part : Nat
  model : Nat
  answering : Nat
  sess : Nat
  arrive : Nat
  deadline : Nat
  outMax : Nat
  launched : Bool
  fault : Bool
  schedLate : Bool
  released : Bool
  output : Option (List Byte)
  input : List Byte
  /-- CRC-32C of the input, carried with its last flit (R457) -/
  inCrc : BitVec 32
  dcrc : BitVec 32
  cores : List Nat
  /-- core numbers whose closing tests have passed for the current kernel (R462) -/
  passed : List Nat
  /-- REST_EST of the kernel last launched: zero with the last one (R363, R462) -/
  rest : Nat
  fallback : Bool
  dip : Bool
  orphan : Bool
  deriving DecidableEq, Repr

/-- An ingest queue's counts (R416). -/
structure Ingest where
  produced : Nat := 0
  freed : Nat := 0
  deriving DecidableEq, Repr

/-- A RoCEv2 queue pair (R428 to R430). -/
structure Qp where
  /-- rate in units of 2⁻⁴⁰ of the line rate -/
  rate : Nat := 1099511627776
  lastCut : Option Nat := none
  lastCnp : Nat := 0
  error : Bool := false
  /-- packets requested since the queue pair's initial PSN (R428) -/
  psn : Nat := 0
  deriving DecidableEq, Repr

/-- The host port and N1 (chapter 15). -/
structure HostPort where
  ctl : Word := 1
  up : Bool := false
  mode : Nat := 0
  pauseRx : Nat := 0
  rxOther : Nat := 0
  fecUncorr : Nat := 0
  mac : BitVec 48 := 0
  ip4 : Word := 0
  ip6 : FMap Word := []
  ip6cfg : Word := 0x40
  rhtCfg : Word := 0x20004C52
  rto : Word := 0x0064006400320064
  qos : Word := 0x0000D30000006F2
  hold : Word := 0x000000640064_2710
  rxBad : Nat := 0
  rxNobuf : Nat := 0
  retx : Nat := 0
  sessLost : Nat := 0
  lcOrphan : Nat := 0
  telemDrop : Nat := 0
  badDb : Nat := 0
  ingTbl : Nat := 0
  storeCtl : Word := 0
  gen : Nat := 0
  cnp : Nat := 0
  roceDrop : Nat := 0
  /-- control count until which each 802.1Qbb priority is paused (R402) -/
  pfc : FMap Nat := []
  sessions : FMap Session := []
  ingest : FMap Ingest := []
  /-- held gate records, each with the control count of its arrival (R425) -/
  gates : List (Held (Nat × BitVec 256)) := []
  faults : List (Held (Nat × Nat × Report)) := []
  nextFseq : Nat := 0
  faultLost : Nat := 0
  lostSince : Nat := 0
  hostMsgs : List (Held (Nat × BitVec 256)) := []
  queries : List Query := []
  qps : FMap Qp := []
  /-- RoCEv2 requests that wait for their paused priority (R402, R408) -/
  rdmaQ : List Out := []
  /-- bytes read back from the store during a restore (R429) -/
  restoreBytes : Nat := 0
  telemAt : Nat := 0
  /-- LC lane stopped by an LC-engine lockstep mismatch (R460) -/
  lcStopped : Bool := false
  deriving DecidableEq, Repr

/-- Functional-safety registers and monitors (chapter 17). -/
structure SafetyRegs where
  model : FMap Word := []
  faults : Nat := 0
  lates : Nat := 0
  clock : Nat := 0
  /-- RELEASE messages sent, all of them (the register counts in units of 2⁸) -/
  releases : Nat := 0
  ctl : Word := 0x00000032_000186A0
  lcFaults : Nat := 0
  lcLates : Nat := 0
  dcrcFail : Nat := 0
  icrcFail : Nat := 0
  lastBeat : Nat := 0
  saddleSilent : Bool := false
  /-- S0 and S1 have stopped driving the fabric (R23) -/
  saddleStopped : Bool := false
  deriving DecidableEq, Repr

/-- An event log entry (Table 19.3). -/
structure LogEntry where
  cls : Nat
  handle : Nat
  gen : Nat
  addr : Nat
  bytes : Nat
  digest : BitVec 512
  deriving DecidableEq, Repr

/-- The security unit (chapter 19). -/
structure Security where
  /-- 0 IDLE, 1 PENDING, 2 RUNNING, 3 DONE -/
  state : Nat := 0
  result : Nat := 0
  runMs : Nat := 0
  /-- the pending presence command: opcode, buffer, control count of acceptance, a high sample seen (R493) -/
  pendOp : Nat := 0
  pendBuf : Nat := 0
  pendAt : Nat := 0
  seenHigh : Bool := false
  /-- samples of PRESENCE_N taken since the acceptance, one each millisecond (R493) -/
  samples : Nat := 0
  sealed_ : Bool := false
  dbgOpen : Bool := false
  scope : Nat := 0
  recovery : Bool := false
  logOverflow : Bool := false
  ownerSet : Nat := 0
  ownerRev : Nat := 0
  ownerHash : FMap (BitVec 512) := []
  svnFuse : Nat := 0
  imageSvn : Nat := 0
  presence : Bool := true
  faults : Nat := 0
  presTmo : Nat := 0
  sigFail : Nat := 0
  cfg : Word := 0x1E
  mr : FMap (BitVec 512) := []
  log : List LogEntry := []
  logCount : Nat := 0
  ident : BitVec 512 := 0
  identValid : Bool := false
  nonce : Option (List Byte) := none
  nonceAt : Nat := 0
  nonces : Nat := 0
  /-- VKEY of the running image -/
  vkey : List Byte := []
  /-- the firmware region holds a valid image (R489), and the header of the image a FW_INSTALL has written there (R490) -/
  imageGood : Bool := true
  imageHdr : Option (List Byte) := none
  deriving DecidableEq, Repr

/-- The reset block (chapter 20). -/
structure Reset where
  state : Nat := 0
  err : Nat := 0
  count : Nat := 0
  /-- the functions under re-initialisation, FUNC and TARGET (R504, R506) -/
  running : List (Nat × Nat) := []
  retainAuto : Bool := false
  phase : Nat := 0
  retained : Bool := false
  last : Nat := 0
  bayFail : BitVec 12 := 0
  ready : Bool := false
  /-- THERM_ALERT_N stays low after a thermal trip (R535) -/
  thermAlert : Bool := false
  deriving DecidableEq, Repr

/-- The global registers of chapter 21. -/
structure Global where
  snapSeq : Nat := 0
  snapValid : Bool := false
  snap : BitVec 512 := 0
  newest : Option (Nat × Report) := none
  causeCnt : FMap Nat := []
  acctHbm : Nat := 0
  acctLink : Nat := 0
  acctHost : Nat := 0
  acctFlash : Nat := 0
  acctSave : Nat := 0
  acctEnergy : Nat := 0
  /-- client account records: client × 16 + word (Table 13.4); link, host, flash and save fields have keys above 16,384 -/
  acct : FMap Nat := []
  /-- core-cycles held since the last apportionment, by bay × 1,024 + client (R381) -/
  heldInt : FMap Nat := []
  /-- link and host bytes moved since the last apportionment, by client × 2 + kind (R381) -/
  bytesInt : FMap Nat := []
  partErr : Nat := 0
  partRefused : BitVec 12 := 0
  partChanges : Nat := 0
  fabShare : Word := 0x28A326478F
  fabWeight : Word := 0x111111
  fabErr : Bool := false
  fabPending : Bool := false
  /-- control count of the write of the pending values, and whether Cinch was IDLE then (R526) -/
  fabAt : Nat := 0
  fabIdle : Bool := false
  fabCur : Word := 0x28A326478F
  fabCurW : Word := 0x111111
  pkgCap : Word := 0x2EE0
  thermCtl : Word := 0x00146E64
  clkrecSel : Word := 0
  /-- the last ten power measurements, newest first, and the count of the newest (R480) -/
  watts : List Nat := []
  wattsAt : Nat := 0
  /-- the mean has exceeded CAP_W and has not been below it since (R480) -/
  capping : Bool := false
  deriving DecidableEq, Repr

/-- A step record (Table 14.2), with the parts of the state it restores. -/
structure StepRec where
  step : Nat
  epoch : Nat
  ls : Word
  sched : FMap Sched
  acct : FMap Nat
  adapters : FMap (List Adapter)
  /-- per core: bucket slots with the carried lines of their scratchpad, deferred queue with its ring, stash epochs -/
  bkt : FMap Bkt
  dwq : FMap Dwq
  cask : FMap Cask
  lines : FMap Memory
  /-- seed and position of each request of Tap, by partition and request: seed, tokens emitted, prompt left -/
  taps : List ((Nat × Nat) × (Word × Nat × Nat)) := []
  /-- the program's data cursor block -/
  cursor : List Byte := []
  /-- launch records on their way -/
  launches : FMap Launch := []
  deriving DecidableEq, Repr, Inhabited

/-- R388: the bytes that stand for a step record, and the record that bytes stand for; the manual states no layout. -/
opaque stepRecBytes : StepRec → List Byte
opaque stepRecOf : List Byte → StepRec

/-- A checkpoint generation on local flash (R387). -/
structure Gen where
  step : Nat
  /-- complete on every member -/
  done : Bool
  /-- complete in the store tier as well -/
  store : Bool
  digest : BitVec 512
  srec : StepRec
  /-- the shard as the tier write reads it (R386) -/
  shard : List Byte := []
  deriving DecidableEq, Repr

/-- The state of one VGX-1100 package. -/
structure State where
  cores : FMap Core
  bays : FMap Bay
  dies : FMap Die
  flits : List Flit
  fab : Fabric
  /-- token lines on their way from a Tap (R341) -/
  tapLines : List TokenLine
  mboxes : List MboxMsg
  launches : FMap Launch
  ends : FMap EndReport
  /-- cores whose parked notice is on its way to the scheduler (R64) -/
  parkedMsgs : List Nat
  /-- fault reports on their way to N1, oldest first (R510) -/
  reports : List Report
  /-- fault reports on their way to Saddle, oldest first (R461) -/
  saddleReports : List Report
  hbm : Hbm
  flash : Flash
  /-- generations of the checkpoint region (R387) -/
  gens : List Gen
  /-- the step record of the last commit, and that of the latest complete store generation (R388) -/
  lastRec : Option StepRec
  storeRec : Option StepRec
  cinch : Cinch
  ckpt : Ckpt
  links : Links
  sched : FMap Sched
  saved : FMap SavedCtx
  serve : FMap Serve
  host : HostPort
  safety : SafetyRegs
  sec : Security
  rst : Reset
  glob : Global
  /-- CTL_COUNT (R474) -/
  now : Nat
  /-- count of the free values drawn so far: the model's own field (log entry 2) -/
  free : Nat
  out : List Out
  /-- commands waiting, first in, first out: the model's own field -/
  pending : List Instr
  deriving DecidableEq, Repr

/-- Why the machine stops. -/
inductive Fault where
  /-- Raised by nothing: the package reports every error as a fault report and goes on (R95, R74, R510). Safe. -/
  | none_
  deriving DecidableEq, Repr

/-- Why a command has no meaning. -/
inductive Refusal where
  /-- A command whose meaning has not been written: raised by an arm of exec only. Safe: the machine stops. -/
  | notModelled (mnemonic : String)
  deriving DecidableEq, Repr

/-- The machine right after reset: every register at the reset value its table gives, every queue empty. -/
def State.reset : State where
  cores := []
  bays := []
  dies := []
  flits := []
  fab := {}
  tapLines := []
  mboxes := []
  launches := []
  ends := []
  parkedMsgs := []
  reports := []
  saddleReports := []
  hbm := {}
  flash := {}
  gens := []
  lastRec := none
  storeRec := none
  cinch := {}
  ckpt := {}
  links := {}
  sched := []
  saved := []
  serve := []
  host := {}
  safety := {}
  sec := {}
  rst := {}
  glob := {}
  now := 0
  free := 0
  out := []
  pending := []

end Sys2Proof.Machine
end

