-- ==== Sys2Proof/Machine/Ops.lean ====
section
/-! DEFINITION. The named operations over the state: geography of the package, access to cores, bays and memory, fault
reports, token counters, stream slots, sequencer faults. Every meaning is written over these. -/

namespace Sys2Proof.Machine

/-! ## Geography (R18 to R20) -/

/-- Compute die, which is also the site number, of a global core (R18, R19). -/
def dieOf (c : Nat) : Nat := c / 6
/-- Bay of a global core (R19). -/
def bayOf (c : Nat) : Nat := c / 30
/-- Grid column of a compute die (R19). -/
def dieCol (d : Nat) : Nat := (d / 5) % 6
/-- Grid row of a compute die (R19). -/
def dieRow (d : Nat) : Nat := 5 * ((d / 5) / 6) + d % 5
/-- The compute die that owns an HBM stack (R20). -/
def stackDie (h : Nat) : Nat := 5 * (h / 2) + (if h % 2 = 0 then 1 else 3)
/-- The global cores of a bay (R19). -/
def bayCores (b : Nat) : List Nat := (List.range 30).map (fun i => 30 * b + i)
/-- All global cores. -/
def allCores : List Nat := List.range 360

/-! ## Access to the parts of the state -/

def State.core (s : State) (c : Nat) : Core := s.cores.get {} c
def State.setCore (s : State) (c : Nat) (k : Core) : State := { s with cores := s.cores.set c k }
def State.modCore (s : State) (c : Nat) (f : Core → Core) : State := s.setCore c (f (s.core c))
def State.bay (s : State) (b : Nat) : Bay := s.bays.get {} b
def State.setBay (s : State) (b : Nat) (k : Bay) : State := { s with bays := s.bays.set b k }
def State.modBay (s : State) (b : Nat) (f : Bay → Bay) : State := s.setBay b (f (s.bay b))
def State.die (s : State) (d : Nat) : Die := s.dies.get {} d
def State.setDie (s : State) (d : Nat) (k : Die) : State := { s with dies := s.dies.set d k }
def State.modDie (s : State) (d : Nat) (f : Die → Die) : State := s.setDie d (f (s.die d))
def State.schedOf (s : State) (p : Nat) : Sched := s.sched.get {} p
def State.setSched (s : State) (p : Nat) (k : Sched) : State := { s with sched := s.sched.set p k }
def State.modSched (s : State) (p : Nat) (f : Sched → Sched) : State := s.setSched p (f (s.schedOf p))
def State.serveOf (s : State) (p : Nat) : Serve := s.serve.get {} p
def State.setServe (s : State) (p : Nat) (k : Serve) : State := { s with serve := s.serve.set p k }
def State.modServe (s : State) (p : Nat) (f : Serve → Serve) : State := s.setServe p (f (s.serveOf p))
def State.port (s : State) (p : Nat) : Port := s.links.ports.get {} p
def State.setPort (s : State) (p : Nat) (k : Port) : State :=
  { s with links := { s.links with ports := s.links.ports.set p k } }
def State.modPort (s : State) (p : Nat) (f : Port → Port) : State := s.setPort p (f (s.port p))
def State.sess (s : State) (i : Nat) : Session := s.host.sessions.get {} i
def State.setSess (s : State) (i : Nat) (k : Session) : State :=
  { s with host := { s.host with sessions := s.host.sessions.set i k } }
def State.modSess (s : State) (i : Nat) (f : Session → Session) : State := s.setSess i (f (s.sess i))
/-- Record an output of the package. -/
def State.emit (s : State) (o : Out) : State := { s with out := s.out ++ [o] }
/-- Draw a free value of `w` bits (log entry 2). -/
def State.draw (s : State) (w : Nat) : BitVec w × State := (Config.freeValue w s.free, { s with free := s.free + 1 })

/-- Partition of a bay, and of a core (R37). -/
def State.partOfBay (s : State) (b : Nat) : Nat := (s.bay b).part
def State.partOf (s : State) (c : Nat) : Nat := s.partOfBay (bayOf c)
/-- Mash count of the bay of a core (R86, R474). -/
def State.mashOf (s : State) (c : Nat) : Nat := (s.bay (bayOf c)).mash
/-- The bays of a partition (R37). -/
def State.baysOf (s : State) (p : Nat) : List Nat := (List.range 12).filter (fun b => s.partOfBay b = p)
/-- The cores of a partition (R37). -/
def State.coresOf (s : State) (p : Nat) : List Nat := allCores.filter (fun c => s.partOf c = p)
/-- KERNEL_ID of the kernel a core runs; zero for none (Table 20.3). -/
def Core.kid (k : Core) : Nat := match k.seq.kernel with | some r => r.kid | none => 0

/-! ## Byte memory -/

/-- One byte of memory; an unlisted address reads zero. -/
def memByte (m : Memory) (a : Nat) : Byte := FMap.get 0 m a
/-- `n` bytes from address `a`. -/
def memRead (m : Memory) (a n : Nat) : List Byte := (List.range n).map (fun i => memByte m (a + i))
/-- The nonzero cells of a run of bytes. -/
def cellsOf : Nat → List Byte → Memory
  | _, [] => []
  | a, b :: bs => if b = 0 then cellsOf (a + 1) bs else (a, b) :: cellsOf (a + 1) bs
/-- Write bytes at address `a`, keeping the canonical form. -/
def memWrite (m : Memory) (a : Nat) (bs : List Byte) : Memory :=
  m.filter (fun c => c.1 < a) ++ cellsOf a bs ++ m.filter (fun c => a + bs.length ≤ c.1)
/-- The canonical form: addresses strictly rising and no zero byte listed. -/
def Memory.wf : Memory → Bool
  | [] => true
  | [c] => c.2 ≠ 0
  | c :: d :: m => (c.2 ≠ 0 && c.1 < d.1) && Memory.wf (d :: m)

/-- A little-endian number as `n` bytes. -/
def natBytes : Nat → Nat → List Byte
  | 0, _ => []
  | n + 1, v => BitVec.ofNat 8 v :: natBytes n (v / 256)
/-- A little-endian number from bytes. -/
def bytesNat : List Byte → Nat
  | [] => 0
  | b :: bs => b.toNat + 256 * bytesNat bs

/-- Insert a number in an ascending list without repeats. -/
def insertSet : Nat → List Nat → List Nat
  | k, [] => [k]
  | k, j :: l => if k < j then k :: j :: l else if k = j then j :: l else j :: insertSet k l

/-! ## CRC-32C (R90) -/

/-- One bit of the reflected Castagnoli shift register. -/
def crcBit (r : Nat) : Nat := if r % 2 = 1 then (r / 2) ^^^ 0x82F63B78 else r / 2
/-- One byte shifted in, least significant bit first. -/
def crcByte (r : Nat) (b : Byte) : Nat :=
  let x := r ^^^ b.toNat
  crcBit (crcBit (crcBit (crcBit (crcBit (crcBit (crcBit (crcBit x)))))))
/-- The chained CRC-32C of R90. -/
def crc32c (c : BitVec 32) (m : List Byte) : BitVec 32 :=
  BitVec.ofNat 32 ((m.foldl crcByte (c.toNat ^^^ 0xFFFFFFFF)) ^^^ 0xFFFFFFFF)

/-! ## Fault codes (R511) and reports (Tables 20.3 and 20.4) -/

def codeStreamRange : Nat := 0x0201
def codeStreamKind : Nat := 0x0202
def codeStreamFormat : Nat := 0x0203
def codeTokenOvf : Nat := 0x0204
def codeWeltSource : Nat := 0x0205
def codeMemUncorr : Nat := 0x0206
def codePartRefused : Nat := 0x0207
def codeIllegalOp : Nat := 0x0301
def codeRegAlign : Nat := 0x0302
def codeFetchRange : Nat := 0x0303
def codeSpRange : Nat := 0x0305
def codeCsrDenied : Nat := 0x0306
def codeMboxEmpty : Nat := 0x0308
def codeCfsig : Nat := 0x0309
def codeSwRaise : Nat := 0x030A
def codeMashMode : Nat := 0x0501
def codeGroupOpen : Nat := 0x0502
def codeGroupOverlap : Nat := 0x0503
def codeGroupClosed : Nat := 0x0504
def codeGroupRange : Nat := 0x0505
def codeGroupLength : Nat := 0x0506
def codeKblkOrder : Nat := 0x0507
def codeAccCheck : Nat := 0x0508
def codeMashChecksum : Nat := 0x050A
def codeKettleOpnd : Nat := 0x0601
def codeLrLength : Nat := 0x0602
def codeLrScale : Nat := 0x0603
def codeHopParam : Nat := 0x0701
def codeHopChanOff : Nat := 0x0702
def codeHopRingSmall : Nat := 0x0703
def codeHopShape : Nat := 0x0704
def codeHopStep : Nat := 0x0705
def codeHopOrder : Nat := 0x0706
def codeHopRef : Nat := 0x0707
def codeHopRecord : Nat := 0x0708
def codeHopGuard : Nat := 0x0709
def codeHopTileSize : Nat := 0x070A
def codeCaskRange : Nat := 0x0801
def codeCaskReserve : Nat := 0x0802
def codeCaskSpilled : Nat := 0x0803
def codeDwqEntry : Nat := 0x0804
def codeCinchMsg : Nat := 0x0901
def codeUpdateNonfinite : Nat := 0x0902
def codeMemberLost : Nat := 0x0903
def codeStepUnrecoverable : Nat := 0x0904
def codeDescField : Nat := 0x0B01
def codeBktRefused : Nat := 0x0B02
def codeTapRow : Nat := 0x0C01
def codeHotGuard : Nat := 0x0D01
def codeSubmitBad : Nat := 0x0D02
def codeParkOverdue : Nat := 0x0D03
def codeCkptDigest : Nat := 0x0E01
def codeCompatMismatch : Nat := 0x0E02
def codeEpochMismatch : Nat := 0x0E03
def codeFillSourceLost : Nat := 0x0E04
def codeSafetyMode : Nat := 0x1101
def codeSafetySti : Nat := 0x1102
def codeCfsigOverdue : Nat := 0x1103
def codeClockRange : Nat := 0x1104
def codeLcInputCrc : Nat := 0x1105
def codeLcOutputCrc : Nat := 0x1106
def codeSaddleSilent : Nat := 0x1107
def codeLinkDown : Nat := 0x1401
def codeE2eFail : Nat := 0x1402
def codeLinkE2e : Nat := 0x1403
def codeLinkUnreach : Nat := 0x1404
def codeBktDrop : Nat := 0x1405
def codeGrantTable : Nat := 0x1406
def codeCreditTable : Nat := 0x1407
def codeFabricDiscard : Nat := 0x1408
def codeHbmUnmapped : Nat := 0x1409
def codeHbmDenied : Nat := 0x140A
def codeMsgType : Nat := 0x140B
def codeHbmChannelUe : Nat := 0x140C
def codeFlashStack : Nat := 0x140D
def codeTierWrite : Nat := 0x140E
def codeSessionLost : Nat := 0x140F
def codeBaySupplyReset : Nat := 0x1410
def codeThermalTrip : Nat := 0x1411
def codeSupplyWarn : Nat := 0x1412
def codeSaddleLockstep : Nat := 0x1413
def codeHostPortDown : Nat := 0x1414
def codeKernelKilled : Nat := 0x1415
def codeReinitFail : Nat := 0x1416
def codeCoreRetired : Nat := 0x1417
def codeBayBootFail : Nat := 0x1418
def codeResetCause : Nat := 0x1419

/-- CAUSE and RUNG of a code (Table 20.4; R514 for the rest: PROGRAM, rung 1). CLOCK_RANGE takes its rung from the report. -/
def causeRung : List (Nat × Nat × Nat) :=
  [(0x0206, 1, 2), (0x0508, 1, 1), (0x050A, 1, 1), (0x0309, 1, 2), (0x1103, 1, 2), (0x1102, 2, 2), (0x1104, 2, 3),
   (0x1105, 1, 1), (0x1106, 1, 1), (0x1107, 2, 3), (0x0903, 4, 1), (0x0904, 4, 1), (0x0E01, 1, 1), (0x0E03, 1, 1),
   (0x0E04, 4, 2), (0x0D03, 1, 1), (0x1401, 1, 2), (0x1402, 1, 1), (0x1403, 1, 1), (0x1404, 4, 1), (0x1405, 4, 1)] ++
  [(0x140C, 2, 2), (0x140D, 2, 4), (0x140E, 1, 1), (0x140F, 1, 1), (0x1410, 3, 2), (0x1411, 3, 2), (0x1412, 3, 1),
   (0x1413, 1, 3), (0x1414, 1, 2), (0x1415, 4, 1), (0x1416, 2, 3), (0x1417, 2, 4), (0x1418, 2, 4), (0x1419, 3, 1)]

/-- CAUSE and RUNG of a code, with PROGRAM and rung 1 for a code Table 20.4 does not list (R514). -/
def causeOf (code : Nat) : Nat × Nat := FMap.get (0, 1) causeRung code

/-- A report about the package as a whole, counted on the control clock. -/
def State.pkgReport (s : State) (code : Nat) : Report :=
  { code := code, rung := (causeOf code).2, cause := (causeOf code).1, site := 0x7F, unit := 0xFF, core := 0xFFFF,
    domain := 0, slot := 0xFF, kind := 0xFF, stn := 0, step := s.cinch.committed.toNat, count := s.now, pc := 0,
    addr := 0, detail := 0, tag := 0 }
/-- A report about a core, counted on its bay's mash clock (R427, Table 20.3). -/
def State.coreReport (s : State) (c code : Nat) : Report :=
  { s.pkgReport code with
    site := dieOf c, unit := c % 6, core := c, domain := 0x10 + bayOf c, count := s.mashOf c, tag := (s.core c).kid }

/-- A function under re-initialisation covers the report's place: it raises no report until its end (R506). -/
def reinitHides (f t : Nat) (r : Report) : Bool :=
  match f with
  | 0 => r.core = t
  | 1 => r.site = t && r.core = 0xFFFF && r.code = codeTapRow
  | 2 => r.core = t && r.stn = 0x20
  | 3 => r.site = 60 + t / 32 && r.unit = t % 32 && r.core = 0xFFFF
  | 4 => r.site = 84 + t / 2 && r.unit = t
  | 5 => r.code = codeHostPortDown
  | _ => r.core ≠ 0xFFFF && bayOf r.core = t
def State.reinitCovers (s : State) (r : Report) : Bool := s.rst.running.any (fun e => reinitHides e.1 e.2 r)

/-- Raise a fault report: it goes to N1 and to Saddle (R510, R461). -/
def State.report (s : State) (r : Report) : State :=
  if s.reinitCovers r then s else { s with reports := s.reports ++ [r], saddleReports := s.saddleReports ++ [r] }

/-! ## Token counters (R58, R59) -/

def Core.tok (k : Core) (t : Nat) : BitVec 32 := k.seq.t.get 0 t
def Core.setTok (k : Core) (t : Nat) (v : BitVec 32) : Core := { k with seq := { k.seq with t := k.seq.t.set t v } }
/-- Increment by one, staying at the largest value (R58). -/
def Core.incTok (k : Core) (t : Nat) : Core := k.setTok t (BitVec.ofNat 32 (satAdd 32 (k.tok t).toNat 1))
/-- The counter is at its largest value, so an increment overflows (R58). -/
def Core.tokFull (k : Core) (t : Nat) : Bool := (k.tok t).toNat = 0xFFFFFFFF

/-! ## Sequencer registers (R75) -/

def Core.s (k : Core) (r : Nat) : Word := if r = 0 then 0 else k.seq.s.get 0 r
def Core.a (k : Core) (r : Nat) : Word := if r = 0 then 0 else k.seq.a.get 0 r
def Core.setS (k : Core) (r : Nat) (v : Word) : Core :=
  if r = 0 then k else { k with seq := { k.seq with s := k.seq.s.set r v } }
def Core.setA (k : Core) (r : Nat) (v : Word) : Core :=
  if r = 0 then k else { k with seq := { k.seq with a := k.seq.a.set r v } }
def Core.setPc (k : Core) (v : Word) : Core := { k with seq := { k.seq with pc := v } }
/-- The next instruction word. -/
def Core.step8 (k : Core) : Core := k.setPc (k.seq.pc + 8)
def Core.setStall (k : Core) (w : Option Stall) : Core := { k with seq := { k.seq with stall := w } }

/-- The sequencer stops with a fault: PC stays, nothing further is issued, the core reports at once; ADDR names a line or an
HBM address where the code does (R95, Table 20.3). -/
def State.seqFaultAt (s : State) (c code detail addr : Nat) : State :=
  let k := s.core c
  let r := { s.coreReport c code with pc := k.seq.pc.toNat, detail := detail, addr := addr }
  (s.setCore c { k with seq := { k.seq with faulted := some code, stall := none } }).report r
/-- A sequencer fault that names no address. -/
def State.seqFault (s : State) (c code detail : Nat) : State := s.seqFaultAt c code detail 0

/-- The sequencer may take an instruction: a kernel runs, and it is neither faulted, parking, parked, halted nor stalled. -/
def Core.canIssue (k : Core) : Bool :=
  k.seq.kernel.isSome && k.seq.faulted.isNone && !k.seq.parking && !k.seq.parked && (!k.seq.halted || k.seq.stepOne) &&
    k.seq.stall.isNone

/-- PC is a multiple of 8 inside the program region of the running kernel (R79). -/
def Core.pcOk (k : Core) : Bool :=
  k.seq.pc.toNat % 8 = 0 && k.seq.regionBase.toNat ≤ k.seq.pc.toNat &&
  k.seq.pc.toNat + 8 ≤ k.seq.regionBase.toNat + k.seq.regionLen.toNat

/-- Act for the running sequencer of core `c`: without one nothing happens; a PC the fetch refuses faults with FETCH_RANGE
(R79); otherwise the effect. -/
def State.seqTry (s : State) (c : Nat) (f : State → State) : State :=
  if (s.core c).canIssue then
    if (s.core c).pcOk then f s else s.seqFault c codeFetchRange 0
  else s
/-- A debug step is used up (R496). -/
def Core.stepUsed (k : Core) : Core := { k with seq := { k.seq with stepOne := false } }
/-- Use up the debug step of core `c` (R496). -/
def State.stepDone (s : State) (c : Nat) : State := s.modCore c (·.stepUsed)
/-- Run an instruction of core `c`; a debug step is used up by one instruction (R496). -/
def State.seqRun (s : State) (c : Nat) (f : State → State) : State :=
  s.seqTry c (fun s => f (s.stepDone c))

/-! ## Stream slots (R52 to R54) -/

def Core.slot (k : Core) (n : Nat) : Slot := k.slots.get {} n
def Core.setSlot (k : Core) (n : Nat) (x : Slot) : Core := { k with slots := k.slots.set n x }
def Core.modSlot (k : Core) (n : Nat) (f : Slot → Slot) : Core := k.setSlot n (f (k.slot n))
def Core.slotNums : List Nat := List.range 64
/-- The lowest-numbered slot in state FREE (R87). -/
def Core.lowestFree (k : Core) : Option Nat := Core.slotNums.find? (fun n => (k.slot n).state = .free)
def Core.freeSlots (k : Core) : Nat := (Core.slotNums.filter (fun n => (k.slot n).state = .free)).length
def SlotState.code : SlotState → Nat
  | .free => 0 | .gated => 1 | .queued => 2 | .active => 3 | .faulted => 4
/-- KIND of a descriptor (Table 3.6). -/
def kindOf (d : BitVec 256) : Nat := fld d 0 4
/-- First station of a stream kind, as its bit number in the FENCE mask (Table 2.3, R87). -/
def stationOf (kind : Nat) : Nat :=
  match kind with
  | 0 | 1 | 2 => 0
  | 3 => 2
  | 4 => 3
  | 5 => 4
  | 6 => 5
  | 7 | 8 | 9 => 6
  | _ => 7
/-- Stations involved in a stream, in the bit order of the FENCE mask (Table 20.3, Table 2.3). -/
def stationMask (kind : Nat) : Nat := if kind = 1 then 3 else 2 ^ stationOf kind
/-- A stream that is QUEUED or ACTIVE. -/
def Slot.live (x : Slot) : Bool := x.state = .queued || x.state = .active
/-- The streams that are QUEUED or ACTIVE, of any station. -/
def Core.anyLive (k : Core) : Bool := Core.slotNums.any (fun n => (k.slot n).live)
/-- A stream whose station still reads input for it (R55): an ACTIVE stream that is not done, except a posted RECV, which
reads no input line. -/
def Slot.reading (x : Slot) : Bool := x.state = .active && !x.done && kindOf x.desc ≠ 11
/-- The station of slot `n` can accept it now: it is QUEUED, no earlier stream of the station is QUEUED, no stream of the
station is still reading, and no test injection is due (R53 to R55, R454). -/
def Core.acceptable (k : Core) (n : Nat) : Bool :=
  let x := k.slot n
  x.state = .queued && !k.safe.testing &&
  Core.slotNums.all (fun m =>
    let y := k.slot m
    m = n || stationOf (kindOf y.desc) ≠ stationOf (kindOf x.desc) ||
      !((y.state = .queued && y.order < x.order) || y.reading))

/-- A FEED stops being QUEUED or ACTIVE: the idle time of Mash counts from here (R233). -/
def Core.feedEnds (k : Core) (n mash : Nat) : Core :=
  let x := k.slot n
  if (x.state = .queued || x.state = .active) && kindOf x.desc = 1 then { k with dwq := { k.dwq with idleSince := mash } } else k
/-- A stream fault (R74): the slot becomes FAULTED, its counter is not incremented, and a report names core, slot, kind,
code and the line or index; for a deferred stream it also names the entry's sequence number (R232), and a MASH_CHECKSUM names
the group (R170; log entry 67). -/
def State.streamFault (s : State) (c n code addr : Nat) : State :=
  let x := (s.core c).slot n
  let r := { s.coreReport c code with
    slot := n, kind := kindOf x.desc, stn := stationMask (kindOf x.desc), addr := addr,
    detail := (match x.origin with | .seq => 0 | .dwq e => e) +
      (if code = codeMashChecksum then 2 ^ 32 * fld x.desc 216 4 else 0) }
  (s.modCore c (fun k =>
    (k.feedEnds n (s.mashOf c)).setSlot n { x with
      state := .faulted
      done := false
      blocked := false
      endedAt := if x.state = .active then some (s.mashOf c) else x.endedAt })).report r

/-- Mark a slot ACTIVE with its whole movement done. -/
def Core.doneSlot (k : Core) (n : Nat) : Core := k.modSlot n (fun x => { x with state := .active, done := true, blocked := false })
def State.doneSlot (s : State) (c n : Nat) : State := s.modCore c (fun k => k.doneSlot n)

/-! ## Scratchpad (R42, R48, R440) -/

def spBytes : Nat := 33554432
def spLines : Nat := 131072

/-- 64-bit words that a run of bytes touches. -/
def wordsOf (a n : Nat) : List Nat := if n = 0 then [] else (List.range ((a + n - 1) / 8 - a / 8 + 1)).map (fun i => a / 8 + i)
/-- A run of scratchpad bytes holds an uncorrectable word (Table 16.1). -/
def Core.spBad (k : Core) (a n : Nat) : Bool := k.sp.err.any (fun e => e.2 = 2 && a / 8 ≤ e.1 && e.1 * 8 < a + n)
/-- The first line of a run that holds an uncorrectable word of it. -/
def Core.spBadLine (k : Core) (a n : Nat) : Nat :=
  (((List.range ((a + n - 1) / 256 + 1 - a / 256)).map (a / 256 + ·)).find? (fun l => k.sp.err.any (fun e => e.2 = 2 && a / 8 ≤ e.1 && e.1 * 8 < a + n && e.1 / 32 = l))).getD (a / 256)
/-- Correctable words of a run are corrected, rewritten and counted (Table 16.1). -/
def Core.spFix (k : Core) (a n : Nat) : Core :=
  let hit := k.sp.err.filter (fun e => e.2 = 1 && a / 8 ≤ e.1 && e.1 * 8 < a + n)
  if hit.isEmpty then k
  else { k with
    spCe := satAdd 16 k.spCe hit.length
    sp := { k.sp with err := k.sp.err.filter (fun e => !(e.2 = 1 && a / 8 ≤ e.1 && e.1 * 8 < a + n)) } }
/-- The uncorrectable words of a run, counted in SP_UE (Table 16.1). -/
def Core.spUeCount (k : Core) (a n : Nat) : Core :=
  let hit := k.sp.err.filter (fun e => e.2 = 2 && a / 8 ≤ e.1 && e.1 * 8 < a + n)
  { k with spUe := satAdd 16 k.spUe hit.length }
def Core.spRead (k : Core) (a n : Nat) : List Byte := memRead k.sp.mem a n
/-- Write scratchpad bytes; a rewritten word loses its error mark (R441). -/
def Core.spWrite (k : Core) (a : Nat) (bs : List Byte) : Core :=
  { k with sp := { k.sp with
      mem := memWrite k.sp.mem a bs
      err := k.sp.err.filter (fun e => !(a ≤ e.1 * 8 && e.1 * 8 + 8 ≤ a + bs.length)) } }
/-- Lines a run of bytes touches. -/
def linesOf (a n : Nat) : List Nat := if n = 0 then [] else (List.range ((a + n - 1) / 256 - a / 256 + 1)).map (fun i => a / 256 + i)
/-- Set the liveness bits of lines a stream has written (R48). -/
def Core.setLive (k : Core) (ls : List Nat) : Core :=
  { k with sp := { k.sp with live := ls.foldl (fun l x => insertSet x l) k.sp.live } }
/-- Clear the liveness bits of lines read for the last time (R48). -/
def Core.clearLive (k : Core) (ls : List Nat) : Core :=
  { k with sp := { k.sp with live := k.sp.live.filter (fun x => !ls.contains x) } }

/-! ## HBM (R431 to R441) -/

/-- A valid entry of the region table, as fields. -/
structure Region where
  base : Nat
  spread : Bool
  bay : Nat
  part : Nat
  shared : Bool
  len4k : Nat
  phys4k : Nat
  deriving DecidableEq, Repr

/-- Fields of region entry words (Table 16.3). -/
def regionOf (w w2 : Word) : Region :=
  { base := fld w 0 41, spread := bit w 42, bay := fld w 43 4, part := fld w 47 4, shared := bit w 51,
    len4k := fld w2 0 29, phys4k := fld w2 29 24 }
def Hbm.region (h : Hbm) (r : Nat) : Region := regionOf (h.rgn.get 0 r) (h.rgn2.get 0 r)
def Hbm.valid (h : Hbm) (r : Nat) : Bool := bit (h.rgn.get 0 r) 41
/-- The region of a package address, if a valid entry maps it (R433). -/
def Hbm.find (h : Hbm) (a : Nat) : Option Region :=
  ((List.range 64).find? (fun r => h.valid r && (h.region r).base ≤ a && a < (h.region r).base + (h.region r).len4k * 4096)).map
    h.region
def stackBytes : Nat := 64000000000
/-- Stack and stack byte offset of a package address in a region (R433). -/
def Region.place (r : Region) (a : Nat) : Nat × Nat :=
  let o := a - r.base
  let u := o / 4096
  if r.spread then (u % 24, (r.phys4k + u / 24) * 4096 + o % 4096)
  else (2 * r.bay + u % 2, (r.phys4k + u / 2) * 4096 + o % 4096)
/-- A stack is in self-refresh or off: a request to it is refused with HBM_DENIED (R468, Table 20.2). -/
def Hbm.asleep (h : Hbm) (st : Nat) : Bool := h.dark.contains st || h.down.any (fun ch => ch / 32 = st)
/-- The key of a package address in `Hbm.mem`, when it is mapped. -/
def Hbm.key (h : Hbm) (a : Nat) : Option Nat := (h.find a).map (fun r => (r.place a).1 * stackBytes + (r.place a).2)
/-- Channel of a stack offset (R432). -/
def channelOf (off : Nat) : Nat := ((off % 4096) / 64) / 2
def Hbm.byte (h : Hbm) (a : Nat) : Byte := match h.key a with | some k => memByte h.mem k | none => 0
def Hbm.read (h : Hbm) (a n : Nat) : List Byte := (List.range n).map (fun i => h.byte (a + i))
/-- A stack takes writes: it is neither asleep nor stopped. -/
def Hbm.takes (h : Hbm) (st : Nat) : Bool := !h.asleep st && !h.stopped.contains st
/-- Write bytes at package addresses, each through the region table. -/
def Hbm.writeBytes : Hbm → Nat → List Byte → Hbm
  | h, _, [] => h
  | h, a, b :: bs =>
    match h.key a with
    | some k => Hbm.writeBytes (if h.takes (k / stackBytes) then { h with mem := memWrite h.mem k [b] } else h) (a + 1) bs
    | none => Hbm.writeBytes h (a + 1) bs
/-- 64-byte sectors of a run of package addresses, by their first address. -/
def sectorsOf (a n : Nat) : List Nat := if n = 0 then [] else (List.range ((a + n - 1) / 64 - a / 64 + 1)).map (fun i => (a / 64 + i) * 64)
/-- The requester forms the code of a sector over its data and its package address: a sector written whole is free of error, one
written in part keeps the code it fails (R439, R441). -/
def Hbm.sealOne (a n : Nat) (h : Hbm) (x : Nat) : Hbm :=
  match h.key x with
  | some k =>
    if !h.takes (k / stackBytes) then h
    else if a ≤ x ∧ x + 64 ≤ a + n then
      { h with bad := h.bad.erase (k / 64), moved := h.moved.filter (· ≠ k / 64), home := h.home.set (k / 64) (x / 64) }
    else if (h.home.find? (k / 64)).isSome then h
    else { h with home := h.home.set (k / 64) (x / 64) }
  | none => h
/-- Write bytes at package addresses through the region table; a stack that is asleep or stopped takes none. -/
def Hbm.write (h : Hbm) (a : Nat) (bs : List Byte) : Hbm := (sectorsOf a bs.length).foldl (Hbm.sealOne a bs.length) (h.writeBytes a bs)
/-- After a change of the region table: the written sectors whose code no longer covers the address that maps them (R439). -/
def Hbm.rehome (h : Hbm) : Hbm :=
  { h with moved := (h.home.filter (fun e => h.key (64 * e.2) ≠ some (64 * e.1))).map (·.1) }

/-- What the region table says of a request (R433, R436). -/
inductive HbmCheck where
  | ok | unmapped | denied
  deriving DecidableEq, Repr

/-- Check one sector address for a core's partition (R433, R436, R468). -/
def Hbm.check (h : Hbm) (part : Nat) (write : Bool) (a : Nat) : HbmCheck :=
  match h.find a with
  | none => .unmapped
  | some r => if (r.part = part || (r.shared && !write)) && !h.asleep (r.place a).1 then .ok else .denied
/-- Check a run of bytes: unmapped before denied (R98). -/
def Hbm.checkRun (h : Hbm) (part : Nat) (write : Bool) (a n : Nat) : HbmCheck :=
  let cs := (sectorsOf a n).map (h.check part write)
  if cs.contains .unmapped then .unmapped else if cs.contains .denied then .denied else .ok
def Hbm.countUnmapped (h : Hbm) : Hbm := { h with unmapped := satAdd 16 h.unmapped 1 }
def Hbm.countDenied (h : Hbm) : Hbm := { h with denied := satAdd 16 h.denied 1 }
def State.modHbm (s : State) (f : Hbm → Hbm) : State := { s with hbm := f s.hbm }
/-- Error mark of the sector at a package address: 0 none, 1 correctable, 2 uncorrectable; a sector written at another address
fails its code, and every request to a stopped stack fails as an uncorrectable one does (R439, R473). -/
def Hbm.mark (h : Hbm) (a : Nat) : Nat :=
  match h.key a with
  | some k => if h.stopped.contains (k / stackBytes) || h.moved.contains (k / 64) then 2 else h.bad.get 0 (k / 64)
  | none => 0
/-- The first sector of a run that lies in a stopped stack: a write there fails (R473). -/
def Hbm.stoppedIn (h : Hbm) (a n : Nat) : Option Nat :=
  (sectorsOf a n).find? (fun x => match h.key x with | some k => h.stopped.contains (k / stackBytes) | none => false)
/-- The first sector of a run that holds an uncorrectable error. -/
def Hbm.badIn (h : Hbm) (a n : Nat) : Option Nat := (sectorsOf a n).find? (fun x => h.mark x = 2)
/-- Correctable sectors of a run are corrected, rewritten and counted per stack (Table 16.1). -/
def Hbm.fix (h : Hbm) (a n : Nat) : Hbm :=
  (sectorsOf a n).foldl (fun h x =>
    match h.key x with
    | some k => if h.bad.get 0 (k / 64) = 1 then
        { h with bad := h.bad.erase (k / 64), ce := h.ce.set (k / stackBytes) (satAdd 32 (h.ce.get 0 (k / stackBytes)) 1) }
      else h
    | none => h) h

/-- An uncorrectable sector at place `k` of the stacks is read: it is counted per stack and channel, the report given names stack
and channel, and a further report names the channel when it has counted more than UE_THR within 1 s (R441). -/
def State.hbmUeAt (s : State) (base : Report) (k : Nat) : State :=
  let st := k / stackBytes
  let ch := 32 * st + channelOf (k % stackBytes)
  let named := { base with code := codeMemUncorr, cause := 1, rung := 2, site := 60 + st, unit := ch % 32, detail := ch }
  if s.hbm.stopped.contains st then s.report named
  else
    let recent := s.now :: (s.hbm.chanUe.get [] ch).filter (fun t => s.now < t + 1000000000)
    let s := s.modHbm (fun h => { h with
      ue := h.ue.set st (satAdd 16 (h.ue.get 0 st) 1)
      chanUe := h.chanUe.set ch recent })
    let s := s.report named
    if fld s.hbm.scrub 16 8 < recent.length then
      s.report { s.pkgReport codeHbmChannelUe with site := 60 + st, unit := channelOf (k % stackBytes) }
    else s
/-- An uncorrectable sector is read at a package address, which the report names (R441). -/
def State.hbmUe (s : State) (base : Report) (a : Nat) : State :=
  match s.hbm.key a with
  | none => s
  | some k => s.hbmUeAt { base with addr := a } k

/-- What the region table says of the sectors of a run for a requester that may address every region (R433, R436, R468). -/
def Hbm.sysCheck (h : Hbm) (a n : Nat) : HbmCheck :=
  if (sectorsOf a n).any (fun x => (h.find x).isNone) then .unmapped
  else if (sectorsOf a n).any (fun x => match h.key x with | some k => h.asleep (k / stackBytes) | none => false) then .denied
  else .ok
/-- A request of N1, Saddle or a loader that no region maps, or that meets a sleeping stack, is counted and reported (R433, R468);
`rep` forms its report from a code. -/
def State.sysRefused (s : State) (rep : Nat → Report) (a : Nat) : HbmCheck → State
  | .unmapped => (s.modHbm (·.countUnmapped)).report { rep codeHbmUnmapped with addr := a }
  | .denied => (s.modHbm (·.countDenied)).report { rep codeHbmDenied with addr := a }
  | .ok => s
/-- Bytes read from HBM by such a requester: none where the request is refused or meets an uncorrectable sector, which is counted
and reported; a correctable one is corrected (R440, R441). -/
def State.sysRead (s : State) (rep : Nat → Report) (a n : Nat) : State × Option (List Byte) :=
  match s.hbm.sysCheck a n with
  | .ok =>
    match s.hbm.badIn a n with
    | some x => (s.hbmUe (rep codeMemUncorr) x, none)
    | none => (s.modHbm (fun h => h.fix a n), some (s.hbm.read a n))
  | c => (s.sysRefused rep a c, none)
/-- Bytes that N1 or Saddle reads for itself: where the request is refused or meets an uncorrectable sector they are free values, for
no rule names what it then works on (log entry 93). -/
def State.n1Read (s : State) (a n : Nat) : State × List Byte :=
  let q := s.sysRead s.pkgReport a n
  match q.2 with
  | some bs => (q.1, bs)
  | none =>
    let v := q.1.draw (8 * n)
    (v.2, natBytes n v.1.toNat)
/-- A write of such a requester: every sector that a region maps is written, the others are counted and reported. -/
def State.sysWrite (s : State) (rep : Nat → Report) (a : Nat) (bs : List Byte) : State :=
  let s1 := (s.modHbm (fun h => h.write a bs)).sysRefused rep a (s.hbm.sysCheck a bs.length)
  match s.hbm.stoppedIn a bs.length with
  | some x => s1.hbmUe (rep codeMemUncorr) x
  | none => s1

/-! ## Messages to a core (R93) -/

/-- Deliver an inbound message: it joins the mailbox and increments its counter, or is refused. -/
def Core.deliver (k : Core) (payload : BitVec 256) (tc : Nat) : Option Core :=
  if k.seq.mbox.length < 4 then
    some ({ k with seq := { k.seq with mbox := k.seq.mbox ++ [payload] } }.incTok tc)
  else none

end Sys2Proof.Machine
end

