-- ==== Sys2Proof/Machine/Fabric.lean ====
section
/-! DEFINITION. The on-package fabric (R21 to R29): the torus of compute dies and its service ports, the headers of flits, the
path of a flit from buffer to buffer with its DATELINE, and the credits that hold a flit where it waits. -/

namespace Sys2Proof.Machine

/-! ## Topology (R19, R21, R22) -/

/-- A direction along the grid: columns grow to the east, rows to the south. -/
inductive Dir where
  | north | south | east | west
  deriving DecidableEq, Repr

/-- Compute die at a column and a row of the torus (R19, R21). -/
def dieAt (col row : Nat) : Nat := 5 * (col % 6 + 6 * (row % 10 / 5)) + row % 5
/-- The neighbour of a compute die across one edge; row 9 wraps to row 0 and column 5 to column 0 (R21). -/
def neighbour (d : Nat) : Dir → Nat
  | .north => dieAt (dieCol d) (dieRow d + 9)
  | .south => dieAt (dieCol d) (dieRow d + 1)
  | .east => dieAt (dieCol d + 1) (dieRow d)
  | .west => dieAt (dieCol d + 5) (dieRow d)
/-- The compute dies with a service port and the sites behind it; C45 presents every flit to S0 and to S1 (R22, R23,
Table 1.2). -/
def servicePorts : List (Nat × List Nat) :=
  [(0, [92]), (5, [84]), (10, [85]), (15, [86]), (20, [87]), (25, [93]), (34, [94]), (39, [88]), (44, [89]), (45, [96, 97]),
   (49, [90]), (52, [99]), (54, [91]), (59, [95])]
/-- The compute die through which a site attaches: itself, the owner of an HBM stack (R20), or the die of its service port;
none for N0, which has no fabric attachment (R22). -/
def attachDie (site : Nat) : Option Nat :=
  if site < 60 then some site
  else if site < 84 then some (stackDie (site - 60))
  else (servicePorts.find? (fun e => e.2.contains site)).map (·.1)
/-- The sites that a flit delivered to the service port of a site is presented to (R23). -/
def portSites (site : Nat) : List Nat :=
  match servicePorts.find? (fun e => e.2.contains site) with
  | some e => e.2
  | none => []

/-! ## Routes (R27, R28) -/

/-- The positions visited on a ring of `n` from `a` to `b`, the shorter way round and towards increasing numbers when both are
equally long, each with whether a wraparound edge has been crossed. -/
def ringSteps (n a b : Nat) : List (Nat × Bool) :=
  let up := (b + n - a) % n
  if 2 * up ≤ n then (List.range up).map (fun i => ((a + i + 1) % n, decide (n ≤ a + i + 1)))
  else (List.range (n - up)).map (fun i => ((a + n - (i + 1)) % n, decide (a < i + 1)))
/-- The direction of travel on a ring. -/
def ringUp (n a b : Nat) : Bool := 2 * ((b + n - a) % n) ≤ n
/-- A place of a flit: the endpoint logic that forms it, the queue of its sender's endpoint, the buffers of an edge into a die for
flits with DATELINE clear or set, the service port of a site, and the queue of its receiver's endpoint (R22, R28, Table 1.6). -/
inductive Place where
  | source (core : Nat)
  | queue (core : Nat)
  | edge (die : Nat) (dir : Dir) (dateline : Bool)
  | port (site : Nat)
  | endpoint (core : Nat)
  deriving DecidableEq, Repr
/-- The edges from die `a` to die `b`: along the row first, then along the column; DATELINE is clear at the start of each
dimension (R27, R28). -/
def route (a b : Nat) : List Place :=
  (ringSteps 6 (dieCol a) (dieCol b)).map (fun p =>
    .edge (dieAt p.1 (dieRow a)) (if ringUp 6 (dieCol a) (dieCol b) then .east else .west) p.2) ++
  (ringSteps 10 (dieRow a) (dieRow b)).map (fun p =>
    .edge (dieAt (dieCol b) p.1) (if ringUp 10 (dieRow a) (dieRow b) then .south else .north) p.2)
/-- The way from one site to another: the service port of the source comes first, then the edges between the dies, and the service
port of the destination last; empty within a site (R22, R27). -/
def sitePath (a b : Nat) : List Place :=
  match attachDie a, attachDie b with
  | some x, some y =>
    if a = b then [] else (if 84 ≤ a then [.port a] else []) ++ route x y ++ (if 84 ≤ b then [.port b] else [])
  | _, _ => []
/-- Hops between two sites (R24, R27). -/
def siteHops (a b : Nat) : Option Nat :=
  if (attachDie a).isSome && (attachDie b).isSome then some (sitePath a b).length else none

/-! ## Headers (Tables 1.3 and 7.2) -/

/-- A header from its fields; `more` holds the class-specific bits [255:32]. -/
def flitHdr (src dst cls part more : Nat) : BitVec 256 :=
  BitVec.ofNat 256 (dieOf dst + dieOf src * 2 ^ 7 + dst % 6 * 2 ^ 14 + cls * 2 ^ 19 + part * 2 ^ 23 + more * 2 ^ 32)
def Flit.cls (f : Flit) : Nat := fld f.hdr 19 3
def Flit.dateline (f : Flit) : Bool := bit f.hdr 22
def Flit.part (f : Flit) : Nat := fld f.hdr 23 4
def Flit.schan (f : Flit) : Nat := fld f.hdr 33 2
def Flit.seq (f : Flit) : Nat := fld f.hdr 35 32
def Flit.grant (f : Flit) : Nat := fld f.hdr 35 32
def Flit.isFirst (f : Flit) : Bool := bit f.hdr 67
def Flit.step (f : Flit) : BitVec 32 := BitVec.ofNat 32 (fld f.hdr 67 32)
def Flit.trows (f : Flit) : Nat := fld f.hdr 99 8
def Flit.tcols (f : Flit) : Nat := fld f.hdr 107 8
def Flit.tline (f : Flit) : Nat := fld f.hdr 115 10

/-! ## Buffers and credits (R28, R29, R31) -/

/-- Flits that each buffer of an edge holds, by class (Table 1.4). -/
def classDepth (cls : Nat) : Nat := [8, 16, 32, 32, 32, 64, 64, 16].getD cls 0
/-- Depth of the queue of a Welt endpoint in each direction (Table 1.6); each class has its own (log entry 65). -/
def endpointDepth : Nat := 64
/-- The flit stays on its die and takes the crossbar (R62). -/
def Flit.isLocal (f : Flit) : Bool := dieOf f.src = dieOf f.dst
/-- The places of a flit from its sender's endpoint to its receiver's. -/
def Flit.path (f : Flit) : List Place :=
  if f.isLocal then [.endpoint f.dst]
  else .source f.src :: .queue f.src :: (sitePath (dieOf f.src) (dieOf f.dst) ++ [.endpoint f.dst])
def Flit.place (f : Flit) : Place := f.path.getD f.hops (.endpoint f.dst)
/-- The flit has reached its receiver's endpoint. -/
def Flit.arrived (f : Flit) : Bool := f.place = .endpoint f.dst
/-- Flits a place holds for one class; the crossbar of a die has no stated bound. -/
def Place.depth (p : Place) (cls : Nat) : Nat := match p with | .edge .. => classDepth cls | _ => endpointDepth
/-- A place has room for one more flit of a class: a hop-by-hop credit (R29). -/
def roomAt (fs : List Flit) (cls : Nat) (p : Place) : Bool :=
  (fs.filter (fun g => g.cls = cls && !g.isLocal && g.place = p)).length < p.depth cls
/-- A flit in its next place: DATELINE is set across a wraparound edge and clear as the column begins (R28). -/
def Flit.hop (f : Flit) (p : Place) : Flit :=
  { f with
    hops := f.hops + 1
    hdr := match p with | .edge _ _ w => setFld f.hdr 22 1 (b2n w) | _ => f.hdr }
/-- Move a flit on while the next place has a credit, among the other flits. -/
def Flit.advance (others : List Flit) : Nat → Flit → Flit
  | 0, f => f
  | n + 1, f =>
    match f.path[f.hops + 1]? with
    | none => f
    | some p => if roomAt others f.cls p then Flit.advance others n (f.hop p) else f
/-- A path has at most 11 places between two cores. -/
def pathMost : Nat := 10
/-- Move every flit on once, the oldest first. -/
def carryPass : List Flit → List Flit → List Flit
  | before, [] => before
  | before, f :: fs => carryPass (before ++ [f.advance (before ++ fs) pathMost]) fs
/-- Move flits until none can go on. -/
def carryAll : Nat → List Flit → List Flit
  | 0, fs => fs
  | n + 1, fs => let gs := carryPass [] fs; if gs = fs then fs else carryAll n gs
/-- The fabric after a flit has left it: those behind go on. -/
def settleFlits (fs : List Flit) : List Flit := carryAll (fs.length + 1) fs

/-- Bytes that a partition has sent over the fabric (R40). -/
def State.fabBytes (s : State) (part n : Nat) : State :=
  if n = 0 then s
  else { s with fab := { s.fab with bytes := s.fab.bytes.set part (satAdd 64 (s.fab.bytes.get 0 part) n) } }
/-- The sender's endpoint can take another flit to `dst` on a class. -/
def State.queueRoom (s : State) (src dst cls : Nat) : Bool := dieOf src = dieOf dst || roomAt s.flits cls (.queue src)
/-- Of at most `n` flits like `f`, how many its sender's endpoint takes one after the other. -/
def injectable (f : Flit) : Nat → List Flit → Nat
  | 0, _ => 0
  | n + 1, fs => if f.isLocal || roomAt fs f.cls (.queue f.src) then 1 + injectable f n (fs ++ [f.advance fs pathMost]) else 0
/-- Put a flit on the fabric: it goes as far as credits allow; a flit that finds its endpoint's queue full waits in the endpoint. -/
def State.inject (s : State) (f : Flit) : State :=
  { s.fabBytes f.part (if f.isLocal then 0 else 256) with flits := s.flits ++ [f.advance s.flits pathMost] }
/-- A flit from a core at the first place of its path, with its sender's partition in PART (R39). -/
def State.newFlit (s : State) (src dst cls more slot order : Nat) (body : FlitBody) : Flit :=
  { hdr := flitHdr src dst cls (s.partOf src) more, src := src, slot := slot, order := order, dst := dst, hops := 0, body := body }

/-- The first flit from `src` to `dst` that has arrived, carries what the predicate takes, and has no earlier flit of its class
between the same endpoints before it (R36); with it the flits that stay. -/
def takeFlit (src dst : Nat) (p : FlitBody → Bool) : List Nat → List Flit → Option (Flit × List Flit)
  | _, [] => none
  | seen, f :: fs =>
    if f.src = src ∧ f.dst = dst then
      if f.arrived && p f.body && !seen.contains f.cls then some (f, fs)
      else (takeFlit src dst p (f.cls :: seen) fs).map (fun r => (r.1, f :: r.2))
    else (takeFlit src dst p seen fs).map (fun r => (r.1, f :: r.2))
/-- A flit arrives: it leaves the fabric, those behind it go on, and it has its effect. -/
def State.arrive (s : State) (src dst : Nat) (p : FlitBody → Bool) (f : State → Flit → State) : State :=
  match takeFlit src dst p [] s.flits with
  | some r => f { s with flits := settleFlits r.2 } r.1
  | none => s

/-! ## Service ports (R22, R23) -/

/-- Flits delivered to a service port are presented to every site behind it. -/
def Fabric.present (f : Fabric) (site n : Nat) : Fabric :=
  { f with presented := (portSites site).foldl (fun m x => m.set x (satAdd 64 (m.get 0 x) n)) f.presented }
def State.present (s : State) (site : Nat) : State := { s with fab := s.fab.present site 1 }

/-! ## Flits that arrive in the step that sends them (R29, R39 to R41; log entry 65) -/

/-- The sites of a flit, its destination endpoint, its class, and its sender's partition, 15 where it has none (Table 1.3). -/
structure Ends where
  src : Nat
  dst : Nat
  ep : Nat
  cls : Nat
  part : Nat
  deriving DecidableEq, Repr
/-- Site of an endpoint: the die of a core, else the Saddle pair, on which the Cinch unit runs (Table 10.4). -/
def coreSite (c : Nat) : Nat := if c < 360 then dieOf c else 96
/-- The header with which such a flit arrives: DATELINE as its last edge left it (R28, Table 1.3). -/
def Ends.hdr (e : Ends) : BitVec 256 :=
  let last := (sitePath e.src e.dst).foldl (fun b p => match p with | .edge _ _ w => w | _ => b) false
  BitVec.ofNat 256 (e.dst + e.src * 2 ^ 7 + e.ep * 2 ^ 14 + e.cls * 2 ^ 19 + b2n last * 2 ^ 22 + e.part * 2 ^ 23)
/-- `n` flits travel between two sites: their bytes count for their sender's partition (R40). -/
def State.across (s : State) (e : Ends) (n : Nat) : State :=
  if (sitePath e.src e.dst).isEmpty || 12 ≤ e.part then s else s.fabBytes e.part (256 * n)
/-- Flits travel between two sites, and a service port at their end presents them (R22, R23, R40). -/
def State.carried (s : State) (e : Ends) (n : Nat) : State :=
  let s1 := s.across e n
  { s1 with fab := if e.dst < 84 || (sitePath e.src e.dst).isEmpty then s1.fab else s1.fab.present e.dst n }
/-- What the router of a flit's destination does with it. -/
inductive AtRouter where
  | pass | reset | part
  deriving DecidableEq, Repr
/-- The bay of an endpoint is looked at before its partition; the endpoints 0 to 6 of a die lie in its bay, and the HBM port serves
every partition (R39, R41, R436; log entry 70). -/
def State.atRouter (s : State) (e : Ends) : AtRouter :=
  if e.src = e.dst || 60 ≤ e.dst || 7 ≤ e.ep then .pass
  else if (s.bay (e.dst / 5)).state ≠ .on then .reset
  else if e.src < 60 && e.part ≠ 15 && e.part ≠ s.partOfBay (e.dst / 5) then .part
  else .pass

/-! ## Memory over the fabric (R20) -/

/-- The owning dies, other than that of core `c`, of the sectors of a run of package addresses. -/
def State.farDies (s : State) (c a n : Nat) : List Nat :=
  (sectorsOf a n).filterMap (fun x =>
    match s.hbm.find x with
    | some r => if stackDie (r.place x).1 = dieOf c then none else some (stackDie (r.place x).1)
    | none => none)
/-- An access of core `c` to sectors of other dies: a request flit of FC2 to the HBM port of the owning die and a response flit of
FC3 back for each sector (R20; log entry 65). -/
def State.farAccess (s : State) (c a n : Nat) : State :=
  let far := s.farDies c a n
  let p := s.partOf c
  (far.eraseDups).foldl (fun s d =>
    let k := far.countP (fun x => x = d)
    (s.across { src := dieOf c, dst := d, ep := 7, cls := 2, part := p } k).across
      { src := d, dst := dieOf c, ep := c % 6, cls := 3, part := p } k) s

end Sys2Proof.Machine
end

