-- ==== Sys2Proof/Machine/Numbers.lean ====
section
/-! DEFINITION. Number formats (chapter 4): the value of a code in every format of Table 3.7, rounding to nearest with
ties to even, narrowing into every format with its flags, and MX blocks. A value is an exact dyadic number. -/

namespace Sys2Proof.Machine

/-- A value as the stations see it: NaN, a signed infinity, or an exact dyadic number ±m × 2^e with a signed zero. -/
inductive XVal where
  | nan
  | inf (neg : Bool)
  | fin (neg : Bool) (m : Nat) (e : Int)
  deriving DecidableEq, Repr

/-- The four exception flags of a result (R127). -/
structure Flags where
  nv : Bool := false
  ovf : Bool := false
  uf : Bool := false
  nx : Bool := false
  deriving DecidableEq, Repr

/-- Sticky combination (R128). -/
def Flags.or (f g : Flags) : Flags := ⟨f.nv || g.nv, f.ovf || g.ovf, f.uf || g.uf, f.nx || g.nx⟩

/-- Parameters of a floating-point format (Table 4.1): exponent bits, mantissa bits, bias, and how an all-ones exponent
reads: 0 infinity and NaN, 1 E4M3, 2 normal. -/
structure FloatFmt where
  e : Nat
  m : Nat
  bias : Nat
  ones : Nat
  deriving DecidableEq, Repr

/-- Table 4.1 by format code (Table 3.7); other codes are not floating-point formats. -/
def floatFmt : Nat → Option FloatFmt
  | 0 => some ⟨8, 23, 127, 0⟩
  | 1 => some ⟨8, 7, 127, 0⟩
  | 2 => some ⟨5, 10, 15, 0⟩
  | 3 => some ⟨4, 3, 7, 1⟩
  | 4 => some ⟨5, 2, 15, 0⟩
  | 5 => some ⟨3, 2, 3, 2⟩
  | 6 => some ⟨2, 3, 1, 2⟩
  | 7 => some ⟨2, 1, 1, 2⟩
  | _ => none

def fmtF32 : FloatFmt := ⟨8, 23, 127, 0⟩

/-- Width in bits of an element of a format code, MX marking ignored (Table 3.7, Table 4.1, R113, R115, R116). -/
def fmtBits (f : Nat) : Nat :=
  match f % 16 with
  | 0 => 32 | 1 => 16 | 2 => 16 | 3 => 8 | 4 => 8 | 5 => 6 | 6 => 6 | 7 => 4
  | 8 => 32 | 9 => 8 | 10 => 4 | 11 => 8 | 12 => 4 | _ => 8

/-- The MX form of a format code (bit 4, Table 3.7). -/
def isMx (f : Nat) : Bool := (f / 16) % 2 = 1
/-- A format code that Table 3.7 defines. -/
def fmtDefined (f : Nat) : Bool := f ≤ 13 || (19 ≤ f && f ≤ 23) || f = 25
def isIntFmt (f : Nat) : Bool := f = 8 || f = 9 || f = 10
def isLnsFmt (f : Nat) : Bool := f = 11 || f = 12
def isFloatFmt (f : Nat) : Bool := f ≤ 7

/-! ## Exact arithmetic on values -/

def XVal.neg : XVal → XVal
  | .nan => .nan
  | .inf n => .inf (!n)
  | .fin n m e => .fin (!n) m e
def XVal.abs : XVal → XVal
  | .nan => .nan
  | .inf _ => .inf false
  | .fin _ m e => .fin false m e
def XVal.isNan : XVal → Bool
  | .nan => true | _ => false
def XVal.isInf : XVal → Bool
  | .inf _ => true | _ => false
def XVal.isZero : XVal → Bool
  | .fin _ 0 _ => true | _ => false
def XVal.isFin : XVal → Bool
  | .fin _ _ _ => true | _ => false
def XVal.isNeg : XVal → Bool
  | .nan => false | .inf n => n | .fin n _ _ => n
def XVal.zero : XVal := .fin false 0 0
def XVal.one : XVal := .fin false 1 0
/-- An integer as a value. -/
def XVal.ofInt (i : Int) : XVal := .fin (i < 0) i.natAbs 0
/-- The signed dyadic i × 2^e. -/
def XVal.ofDy (i e : Int) : XVal := .fin (i < 0) i.natAbs e
/-- Multiply by 2^k. -/
def XVal.scale (k : Int) : XVal → XVal
  | .fin n m e => .fin n m (e + k) | x => x
/-- Signed integer of a finite value at exponent `q` ≤ its own exponent. -/
def alignTo (n : Bool) (m : Nat) (e q : Int) : Int :=
  let v : Int := (m * 2 ^ (e - q).toNat : Nat)
  if n then -v else v
/-- Exact product; 0 × ∞ is NaN (R127). -/
def XVal.mul : XVal → XVal → XVal
  | .nan, _ => .nan
  | _, .nan => .nan
  | .inf a, .inf b => .inf (a != b)
  | .inf a, .fin b m _ => if m = 0 then .nan else .inf (a != b)
  | .fin a m _, .inf b => if m = 0 then .nan else .inf (a != b)
  | .fin a m e, .fin b k f => .fin (a != b) (m * k) (e + f)
/-- Exact sum; ∞ − ∞ is NaN; an exact zero sum of opposite signs is +0. -/
def XVal.add : XVal → XVal → XVal
  | .nan, _ => .nan
  | _, .nan => .nan
  | .inf a, .inf b => if a = b then .inf a else .nan
  | .inf a, .fin _ _ _ => .inf a
  | .fin _ _ _, .inf b => .inf b
  | .fin a m e, .fin b k f =>
    if m = 0 ∧ k = 0 then .fin (a && b) 0 0
    else if m = 0 then .fin b k f
    else if k = 0 then .fin a m e
    else
      let q := min e f
      XVal.ofDy (alignTo a m e q + alignTo b k f q) q
def XVal.sub (x y : XVal) : XVal := x.add y.neg
/-- Exact comparison of two values that are not NaN: −1, 0 or 1. The two zeros compare equal (R106). -/
def XVal.cmp : XVal → XVal → Int
  | .inf a, .inf b => if a = b then 0 else if a then -1 else 1
  | .inf a, _ => if a then -1 else 1
  | _, .inf b => if b then 1 else -1
  | .fin a m e, .fin b k f =>
    let q := min e f
    let x := alignTo a m e q
    let y := alignTo b k f q
    if x < y then -1 else if x = y then 0 else 1
  | _, _ => 0
def XVal.lt (x y : XVal) : Bool := !x.isNan && !y.isNan && x.cmp y < 0
def XVal.le (x y : XVal) : Bool := !x.isNan && !y.isNan && x.cmp y ≤ 0
/-- Equal values, NaN equal to nothing. -/
def XVal.eqv (x y : XVal) : Bool := !x.isNan && !y.isNan && x.cmp y = 0
/-- floor(log₂ |x|) of a finite non-zero m × 2^e. -/
def flog2 (m : Nat) (e : Int) : Int := (Nat.log2 m : Int) + e

/-! ## Rounding (R120) -/

/-- m ÷ 2^k to nearest, ties to even. -/
def rneShift (m k : Nat) : Nat :=
  let q := m / 2 ^ k
  let r := m % 2 ^ k
  if 2 * r > 2 ^ k ∨ (2 * r = 2 ^ k ∧ q % 2 = 1) then q + 1 else q
/-- m × 2^e as a multiple of 2^q, to nearest, ties to even. -/
def rneAt (m : Nat) (e q : Int) : Nat :=
  if q ≤ e then m * 2 ^ (e - q).toNat else rneShift m (q - e).toNat
/-- m × 2^e is a multiple of 2^q. -/
def exactAt (m : Nat) (e q : Int) : Bool := q ≤ e || m % 2 ^ (q - e).toNat = 0

/-! ## Values of codes -/

/-- Value of a floating-point code (R105, R106). -/
def FloatFmt.val (f : FloatFmt) (c : Nat) : XVal :=
  let s := (c / 2 ^ (f.e + f.m)) % 2 = 1
  let x := (c / 2 ^ f.m) % 2 ^ f.e
  let m := c % 2 ^ f.m
  if x = 2 ^ f.e - 1 ∧ f.ones = 0 then (if m = 0 then .inf s else .nan)
  else if x = 2 ^ f.e - 1 ∧ f.ones = 1 ∧ m = 2 ^ f.m - 1 then .nan
  else if x = 0 then .fin s m (1 - (f.bias : Int) - f.m)
  else .fin s (2 ^ f.m + m) ((x : Int) - f.bias - f.m)

/-- Table T (Table 4.6). -/
def lnsTable (j : Nat) : Nat :=
  match j with
  | 0 => 0x8000 | 1 => 0x8B96 | 2 => 0x9838 | 3 => 0xA5FF | 4 => 0xB505 | 5 => 0xC567 | 6 => 0xD745 | _ => 0xEAC1
/-- The magnitude of a log K in eighths (R117). -/
def lnsMag (neg : Bool) (k : Int) : XVal := .fin neg (lnsTable (k % 8).toNat) (k / 8 - 15)
/-- Log in eighths of a non-zero, non-NaN LNS code (R115 to R117). -/
def lnsLog (f c : Nat) : Int := if f = 11 then toSigned 7 c else 4 * toSigned 3 c
def lnsNeg (f c : Nat) : Bool := if f = 11 then (c / 128) % 2 = 1 else (c / 8) % 2 = 1
def lnsZero (f c : Nat) : Bool := if f = 11 then c % 256 = 0x40 else c % 16 = 0x4
def lnsNan (f c : Nat) : Bool := if f = 11 then c % 256 = 0xC0 else c % 16 = 0xC

/-- Value of an element code in a format, MX marking ignored (R105 to R117). -/
def elemVal (f c : Nat) : XVal :=
  match floatFmt (f % 16) with
  | some ff => ff.val c
  | none =>
    if f % 16 = 8 then .ofInt (toSigned 32 c)
    else if f % 16 = 9 then .ofInt (toSigned 8 c)
    else if f % 16 = 10 then .ofInt (toSigned 4 c)
    else if f % 16 = 13 then (if c % 256 = 0xFF then .nan else .fin false 1 ((c % 256 : Nat) - 127))
    else if lnsNan (f % 16) c then .nan
    else if lnsZero (f % 16) c then .zero
    else lnsMag (lnsNeg (f % 16) c) (lnsLog (f % 16) c)

/-- Value of an MX element under its scale code (R109). -/
def mxVal (f c scale : Nat) : XVal :=
  if scale = 0xFF then .nan
  else ((elemVal f c).scale (if f % 16 = 9 then -6 else 0)).scale ((scale : Int) - 127)

/-- The code is subnormal in its own format (R130). -/
def elemSubnormal (f c : Nat) : Bool :=
  match floatFmt (f % 16) with
  | some ff => (c / 2 ^ ff.m) % 2 ^ ff.e = 0 && c % 2 ^ ff.m ≠ 0
  | none => false

/-! ## Narrowing -/

def FloatFmt.signBit (f : FloatFmt) (n : Bool) : Nat := if n then 2 ^ (f.e + f.m) else 0
/-- Largest finite code (Table 4.1). -/
def FloatFmt.maxCode (f : FloatFmt) : Nat :=
  if f.ones = 0 then (2 ^ f.e - 1) * 2 ^ f.m - 1 else if f.ones = 1 then 2 ^ (f.e + f.m) - 2 else 2 ^ (f.e + f.m) - 1
/-- Canonical NaN (Table 4.3); a format without NaN gives +0 (R123). -/
def FloatFmt.nanCode (f : FloatFmt) : Nat :=
  if f.ones = 0 then (2 ^ f.e - 1) * 2 ^ f.m + 2 ^ (f.m - 1) else if f.ones = 1 then 2 ^ (f.e + f.m) - 1 else 0
/-- Exponent of the smallest subnormal. -/
def FloatFmt.qmin (f : FloatFmt) : Int := 1 - (f.bias : Int) - f.m
/-- Magnitude code of m × 2^e rounded once, with the exponent unbounded above (R120, R121). -/
def FloatFmt.roundMag (f : FloatFmt) (m : Nat) (e : Int) : Nat × Bool :=
  let q := max (flog2 m e - f.m) f.qmin
  ((q - f.qmin).toNat * 2 ^ f.m + rneAt m e q, exactAt m e q)
/-- The magnitude, rounded with the exponent unbounded, is below the smallest normal value (R124). -/
def FloatFmt.tiny (f : FloatFmt) (m : Nat) (e : Int) : Bool :=
  let q := flog2 m e - f.m
  let r := rneAt m e q
  flog2 r q < 1 - (f.bias : Int)

/-- Narrowing into a plain floating-point format (R121 to R125). -/
def FloatFmt.narrow (f : FloatFmt) (sat : Bool) (x : XVal) : Nat × Flags :=
  match x with
  | .nan => (f.nanCode, { nv := true })
  | .inf n =>
    if f.ones = 0 then ((2 ^ f.e - 1) * 2 ^ f.m + f.signBit n, {})
    else if f.ones = 1 && !sat then (f.nanCode, { nv := true })
    else (f.maxCode + f.signBit n, { ovf := true, nx := true })
  | .fin n m e =>
    if m = 0 then (f.signBit n, {})
    else
      let r := f.roundMag m e
      if f.maxCode < r.1 then
        if f.ones = 0 then ((2 ^ f.e - 1) * 2 ^ f.m + f.signBit n, { ovf := true, nx := true })
        else if f.ones = 1 && !sat then (f.nanCode, { nv := true, ovf := true, nx := true })
        else (f.maxCode + f.signBit n, { ovf := true, nx := true })
      else (r.1 + f.signBit n, { uf := f.tiny m e && !r.2, nx := !r.2 })

/-- Narrowing of an integer into `w` bits (Table 4.5, last row). -/
def narrowIntInt (w : Nat) (satw : Bool) (i : Int) : Nat × Flags :=
  if -(2 ^ (w - 1) : Int) ≤ i ∧ i < 2 ^ (w - 1) then (ofSigned w i, {})
  else if satw then (ofSigned w i, { ovf := true })
  else (ofSigned w (if i < 0 then -(2 ^ (w - 1) : Int) else 2 ^ (w - 1) - 1), { ovf := true })

/-- Narrowing of a value into a `w`-bit integer format (Table 4.5, first three rows). -/
def narrowInt (w : Nat) (satw : Bool) (x : XVal) : Nat × Flags :=
  match x with
  | .nan => (0, { nv := true })
  | .inf n => (if satw then 0 else ofSigned w (if n then -(2 ^ (w - 1) : Int) else 2 ^ (w - 1) - 1), { nv := true })
  | .fin n m e =>
    let r : Int := rneAt m e 0
    let i := if n then -r else r
    if -(2 ^ (w - 1) : Int) ≤ i ∧ i < 2 ^ (w - 1) then (ofSigned w i, { nx := !exactAt m e 0 })
    else if satw then (ofSigned w i, { nv := true })
    else (ofSigned w (if i < 0 then -(2 ^ (w - 1) : Int) else 2 ^ (w - 1) - 1), { nv := true })

/-- Narrowing into LNS8 (11) or LNS4 (12) (R119). -/
def narrowLns (f : Nat) (x : XVal) : Nat × Flags :=
  let top : Int := if f = 11 then 63 else 3
  let sgn := fun (n : Bool) => if n then (if f = 11 then 128 else 8) else 0
  let zcode : Nat := if f = 11 then 0x40 else 0x4
  match x with
  | .nan => (if f = 11 then 0xC0 else 0xC, { nv := true })
  | .inf n => (top.toNat + sgn n, { ovf := true, nx := true })
  | .fin n m e =>
    if m = 0 then (zcode, {})
    else
      let k : Nat := if f = 11 then 16 else 4
      let l : Int := (flog2 (m ^ k) ((k : Int) * e) + 1) / 2
      if top < l then (top.toNat + sgn n, { ovf := true, nx := true })
      else if l < -top then (zcode, { uf := true, nx := true })
      else
        let c := ofSigned (if f = 11 then 7 else 3) l + sgn n
        (c, { nx := !(elemVal f c).eqv x })

/-- Narrowing of a floating-point or LNS value into a plain format (R120 to R125). -/
def narrowVal (f : Nat) (sat satw : Bool) (x : XVal) : Nat × Flags :=
  match floatFmt f with
  | some ff => ff.narrow sat x
  | none => if isIntFmt f then narrowInt (fmtBits f) satw x else narrowLns f x

/-- Conversion of an element of format `g` into a plain format `f` (Table 4.5 tells integers from values). -/
def convert (g f : Nat) (sat satw : Bool) (x : XVal) : Nat × Flags :=
  if isIntFmt g && isIntFmt f then
    match x with
    | .fin n m e => narrowIntInt (fmtBits f) satw (alignTo n m e 0)
    | y => narrowInt (fmtBits f) satw y
  else narrowVal f sat satw x

/-- FP32 code and flags of a value. -/
def f32 (x : XVal) : Nat × Flags := fmtF32.narrow false x
/-- Value of an FP32 code. -/
def f32v (c : Nat) : XVal := fmtF32.val c

/-! ## MX blocks (R110 to R112) -/

/-- emax of an MX element format (Table 4.4). -/
def mxEmax (f : Nat) : Int :=
  match f % 16 with
  | 3 => 8 | 4 => 15 | 5 => 4 | 6 => 2 | 7 => 2 | _ => 0

/-- Largest floor(log₂ |x|) among finite non-zero values. -/
def blockLog : List XVal → Option Int
  | [] => none
  | .fin _ m e :: xs => if m = 0 then blockLog xs else some (match blockLog xs with | some y => max (flog2 m e) y | none => flog2 m e)
  | _ :: xs => blockLog xs

/-- One element of an MX block under scale exponent `x` (R111). -/
def mxElem (f : Nat) (x : Int) (v : XVal) : Nat × Flags :=
  match floatFmt (f % 16) with
  | some ff =>
    match v.scale (-x) with
    | .fin n m e =>
      if m = 0 then (ff.signBit n, {})
      else
        let r := ff.roundMag m e
        if ff.maxCode < r.1 then (ff.maxCode + ff.signBit n, { nx := true })
        else (r.1 + ff.signBit n, { uf := ff.tiny m e && !r.2, nx := !r.2 })
    | _ => (0, { nv := true })
  | none =>
    match v.scale (6 - x) with
    | .fin n m e =>
      let r := rneAt m e 0
      if 127 < r then (ofSigned 8 (if n then -127 else 127), { nx := true })
      else (ofSigned 8 (if n then -(r : Int) else r), { nx := !exactAt m e 0 })
    | _ => (0, { nv := true })

/-- Narrow one block into an MX format: scale code, element codes, flags; the elements are scaled by the written code, clamped or
not (R110, R111; log entry 84). -/
def mxBlock (f : Nat) (xs : List XVal) : Nat × List Nat × Flags :=
  if xs.any (fun x => !x.isFin) then (0xFF, xs.map (fun _ => 0), { nv := true })
  else
    let code : Nat := match blockLog xs with
      | none => 0
      | some l => (min 0xFE (max 0 (l - mxEmax f + 127))).toNat
    let rs := xs.map (mxElem f ((code : Int) - 127))
    (code, rs.map (·.1), rs.foldl (fun a r => a.or r.2) {})

/-- Blocks of 32 consecutive elements of a row, the last possibly short (R47). -/
def blocksOf {α : Type} : Nat → List α → List (List α)
  | 0, _ => []
  | n + 1, xs => xs.take 32 :: blocksOf n (xs.drop 32)

/-- Narrow a whole row into an MX format: codes and scale codes, with the flags. -/
def mxRow (f : Nat) (xs : List XVal) : List Nat × List Nat × Flags :=
  let bs := (blocksOf (cdiv xs.length 32) xs).map (mxBlock f)
  (bs.flatMap (·.2.1), bs.map (·.1), bs.foldl (fun a r => a.or r.2.2) {})

end Sys2Proof.Machine
end

