-- ==== Sys2Proof/Machine/Flags.lean ====
section
/-! DEFINITION. The exception flags of a core (FPFLAGS, R127 and R128) and the exponent histogram of Skive (R129 to R131). -/

namespace Sys2Proof.Machine

/-- OR bit `i` and the station's bit of its source field into FPFLAGS when the flag is raised (Table 4.10). -/
def orFlag (w : Word) (i stn : Nat) (on : Bool) : Word :=
  if on then w ||| (BitVec.ofNat 64 (2 ^ i)) ||| (BitVec.ofNat 64 (2 ^ (8 + 8 * i + stn))) else w
/-- FPFLAGS after a station has raised flags (R128). -/
def fpOr (w : Word) (stn : Nat) (f : Flags) : Word :=
  orFlag (orFlag (orFlag (orFlag w 0 stn f.nv) 1 stn f.ovf) 2 stn f.uf) 3 stn f.nx
/-- A station ORs the flags of its results into the core's FPFLAGS (R128). -/
def Core.raise (k : Core) (stn : Nat) (f : Flags) : Core := { k with fpflags := fpOr k.fpflags stn f }
def State.raise (s : State) (c stn : Nat) (f : Flags) : State := s.modCore c (fun k => k.raise stn f)

/-- The histogram bin of an element value (Table 4.11, R130). -/
def histBin (expBase : Int) (sub : Bool) (x : XVal) : Nat :=
  match x with
  | .nan => 53
  | .inf _ => 52
  | .fin _ m e =>
    if m = 0 then 50
    else if sub then 51
    else
      let l := flog2 m e
      if l < expBase then 48 else if expBase + 47 < l then 49 else (l - expBase).toNat
/-- Count one element; a bin stops at its largest value (R131). -/
def histCount (h : FMap Nat) (b : Nat) : FMap Nat := h.set b (satAdd 32 (h.get 0 b) 1)

end Sys2Proof.Machine
end

