-- ==== Sys2Proof/Machine/Operands.lean ====
section
/-! DEFINITION. Operand forms: the second operand of an instruction, the fields of a stream descriptor (Tables 3.6 to 3.9),
the layout of tiles in scratchpad and HBM (R44 to R47, R97), and reading and writing rows with every guard. -/

namespace Sys2Proof.Machine

/-! ## Sequencer operands (Table 3.3) -/

/-- op2 of Table 3.4: s[RB], or IMM32 sign-extended. -/
def Core.op2 (k : Core) (y : Op2) : Word := match y with | .reg rb => k.s rb.toNat | .imm v => v.signExtend 64
/-- "value" of format T: s[RA][31:0], or IMM32. -/
def Core.tval (k : Core) (y : Op2) : BitVec 32 := match y with | .reg ra => (k.s ra.toNat).setWidth 32 | .imm v => v
/-- A group of four registers: s4, s8, … s28 (R85). -/
def groupOk (r : BitVec 5) : Bool := r.toNat % 4 = 0 && 4 ≤ r.toNat
/-- s[RS] to s[RS + 3] as 256 bits, s[RS] lowest. -/
def Core.quad (k : Core) (r : Nat) : BitVec 256 := k.s (r + 3) ++ k.s (r + 2) ++ k.s (r + 1) ++ k.s r
/-- Write a group of four registers. -/
def Core.setQuad (k : Core) (r : Nat) (v : BitVec 256) : Core :=
  (((k.setS r (v.setWidth 64)).setS (r + 1) ((v >>> 64).setWidth 64)).setS (r + 2) ((v >>> 128).setWidth 64)).setS (r + 3)
    ((v >>> 192).setWidth 64)

/-! ## Descriptor fields (Table 3.6) -/

def dGaten (d : BitVec 256) : Bool := bit d 4
def dGatet (d : BitVec 256) : Nat := fld d 5 3
def dTken (d : BitVec 256) : Bool := bit d 8
def dTokt (d : BitVec 256) : Nat := fld d 9 3
def dTkev (d : BitVec 256) : Bool := bit d 12
def dLast (d : BitVec 256) : Bool := bit d 13
def dTrans (d : BitVec 256) : Bool := bit d 14
def dOutt (d : BitVec 256) : Bool := bit d 15
def dSat (d : BitVec 256) : Bool := bit d 16
def dSatw (d : BitVec 256) : Bool := bit d 17
def dSfmt (d : BitVec 256) : Nat := fld d 18 5
def dDfmt (d : BitVec 256) : Nat := fld d 23 5
/-- Rows of a tile: ROWS + 1. -/
def dRows (d : BitVec 256) : Nat := fld d 28 8 + 1
def dCols (d : BitVec 256) : Nat := fld d 36 8 + 1
/-- Tiles: TCOUNT + 1. -/
def dTiles (d : BitVec 256) : Nat := fld d 44 16 + 1
def dSspace (d : BitVec 256) : Nat := fld d 64 2
def dSbase (d : BitVec 256) : Nat := fld d 66 41
def dSstr (d : BitVec 256) : Nat := fld d 107 16
def dDspace (d : BitVec 256) : Nat := fld d 128 2
def dDbase (d : BitVec 256) : Nat := fld d 130 41
def dDstr (d : BitVec 256) : Nat := fld d 171 16
def dGatev (d : BitVec 256) : Nat := fld d 192 24
/-- Elements of a whole stream. -/
def dElems (d : BitVec 256) : Nat := dRows d * dCols d * dTiles d

/-! ## Layout of rows (R44, R45) -/

/-- Bytes that a row of `n` elements occupies. -/
def rowBytes (fmt n : Nat) : Nat := cdiv (n * fmtBits fmt) 8
/-- Lines that a row of `n` elements occupies (R44). -/
def rowLines (fmt n : Nat) : Nat := cdiv (n * fmtBits fmt) 2048
/-- Codes of a row's bit string (R45). -/
def codesOf (fmt n : Nat) (bs : List Byte) : List Nat :=
  let v := bytesNat bs
  let w := fmtBits fmt
  (List.range n).map (fun j => (v >>> (w * j)) % 2 ^ w)
/-- The bit string of a row of codes, low element first. -/
def packCodes (w : Nat) : List Nat → Nat
  | [] => 0
  | c :: cs => c % 2 ^ w + 2 ^ w * packCodes w cs
/-- The bytes of a row of codes over the bytes it replaces: bits beyond the last element are kept (R46). -/
def bytesOf (fmt : Nat) (cs : List Nat) (old : List Byte) : List Byte :=
  let w := fmtBits fmt
  let n := rowBytes fmt cs.length
  let used := cs.length * w
  natBytes n (packCodes w cs + (bytesNat (old.take n) >>> used) * 2 ^ used)

/-! ## Movement of rows

A station moves a stream row by row. A row that meets a range, mapping, guard or integrity fault stops the stream there;
what it has written stays written (R74). -/

/-- A movement: the state so far, the fault code and line or address at which it stopped, the whole tiles it has written (R58),
and the rows whose writing has begun (R175). -/
structure Mv where
  s : State
  stop : Option (Nat × Nat) := none
  tiles : Nat := 0
  rows : Nat := 0
  deriving DecidableEq, Repr

def Mv.halt (m : Mv) (code addr : Nat) : Mv := match m.stop with | some _ => m | none => { m with stop := some (code, addr) }
/-- Go on only while the movement has not stopped. -/
def Mv.andThen (m : Mv) (f : State → Mv) : Mv :=
  match m.stop with
  | some _ => m
  | none => { f m.s with tiles := m.tiles + (f m.s).tiles, rows := m.rows + (f m.s).rows }
def Mv.mod (m : Mv) (f : State → State) : Mv := match m.stop with | some _ => m | none => { m with s := f m.s }
/-- A fold that stops at the first fault. -/
def Mv.each {α : Type} (m : Mv) (l : List α) (f : State → α → Mv) : Mv :=
  l.foldl (fun m x => m.andThen (fun s => f s x)) m

/-- One more whole tile has been written. -/
def Mv.tile (m : Mv) : Mv := match m.stop with | some _ => m | none => { m with tiles := m.tiles + 1 }
/-- Row `i`, counted over all tiles, has been written; with its last row the tile is whole. -/
def Mv.rowDone (m : Mv) (d : BitVec 256) (i : Nat) : Mv := if (i + 1) % dRows d = 0 then m.tile else m

/-- RESV_LINES of a partition (R368). -/
def State.resvLines (s : State) (p : Nat) : Nat := fld (s.schedOf p).ctl 0 17
/-- A line of the reserve region, for a kernel launched without RESV (R368). -/
def State.hotLine (s : State) (c line : Nat) : Bool :=
  match (s.core c).seq.kernel with
  | some r => !r.resv && spLines - s.resvLines (s.partOf c) ≤ line
  | none => false
def Core.hopChan (k : Core) (ch : Nat) : HopChan := k.hop.chans.get {} ch
def HopChan.base (h : HopChan) : Nat := fld h.cfg 0 17
def HopChan.tiles (h : HopChan) : Nat := fld h.cfg 17 7
def HopChan.lines (h : HopChan) : Nat := fld h.cfg 24 11
def HopChan.sender (h : HopChan) : Nat := fld h.cfg 35 9
def HopChan.batch (h : HopChan) : Nat := max 1 (fld h.cfg 44 4)
def HopChan.on (h : HopChan) : Bool := bit h.cfg 48
/-- The line lies in the ring of channel `ch`. -/
def HopChan.has (h : HopChan) (line : Nat) : Bool := h.base ≤ line && line < h.base + h.tiles * h.lines
/-- A guarded line, for an access that does not name its channel (R201). -/
def Core.guarded (k : Core) (own : List Nat) (line : Nat) : Bool :=
  (List.range 4).any (fun ch => !own.contains ch && (k.hopChan ch).on && (k.hopChan ch).has line)
/-- The fault of a stream's access to a line, if any (R42, R368, R201). -/
def State.lineFault (s : State) (c : Nat) (own : List Nat) (line : Nat) : Option Nat :=
  if spLines ≤ line then some codeStreamRange
  else if s.hotLine c line then some codeHotGuard
  else if (s.core c).guarded own line then some codeHopGuard
  else none
/-- First faulting line of a run of bytes. -/
def State.runFault (s : State) (c : Nat) (own : List Nat) (a n : Nat) : Option (Nat × Nat) :=
  (linesOf a n).findSome? (fun l => (s.lineFault c own l).map (fun code => (code, l)))

/-- HBM bytes moved by a stream, charged to the kernel's client and to the package (R381, R523). -/
def State.acctHbm (s : State) (c bytes : Nat) : State :=
  let cl := match (s.core c).seq.kernel with | some r => r.client | none => 0
  { s with glob := { s.glob with
      acctHbm := satAdd 64 s.glob.acctHbm bytes
      acct := s.glob.acct.set (cl * 16 + 10) (satAdd 64 (s.glob.acct.get 0 (cl * 16 + 10)) bytes) } }

/-- Read scratchpad bytes for a stream. `last` clears the liveness bits of the lines (R48). -/
def Mv.readSp (m : Mv) (c : Nat) (own : List Nat) (last : Bool) (a n : Nat) : Mv × List Byte :=
  match m.stop with
  | some _ => (m, [])
  | none =>
    match m.s.runFault c own a n with
    | some (code, l) => (m.halt code l, [])
    | none =>
      if (m.s.core c).spBad a n then
        ({ m with s := m.s.modCore c (fun k => k.spUeCount a n) }.halt codeMemUncorr ((m.s.core c).spBadLine a n), [])
      else
        ({ m with s := m.s.modCore c (fun k => (if last then (k.spFix a n).clearLive (linesOf a n) else k.spFix a n)) },
          (m.s.core c).spRead a n)

/-- Read HBM bytes for a stream of core `c`, not yet counted as moved (R433, R436, R441). -/
def Mv.readHbmRaw (m : Mv) (c a n : Nat) : Mv × List Byte :=
  match m.stop with
  | some _ => (m, [])
  | none =>
    match m.s.hbm.checkRun (m.s.partOf c) false a n with
    | .unmapped => ({ m with s := m.s.modHbm (·.countUnmapped) }.halt codeHbmUnmapped a, [])
    | .denied => ({ m with s := m.s.modHbm (·.countDenied) }.halt codeHbmDenied a, [])
    | .ok =>
      match m.s.hbm.badIn a n with
      | some x => ({ m with s := m.s.hbmUe (m.s.coreReport c codeMemUncorr) x }.halt codeMemUncorr x, [])
      | none => ({ m with s := m.s.modHbm (fun h => h.fix a n) }, m.s.hbm.read a n)
/-- Read HBM bytes for a stream of core `c` and count them (R381). -/
def Mv.readHbm (m : Mv) (c a n : Nat) : Mv × List Byte :=
  let r := m.readHbmRaw c a n
  (r.1.mod (fun s => (s.acctHbm c n).farAccess c a n), r.2)

/-- Read bytes from the scratchpad (space 0) or HBM (space 1). -/
def Mv.read (m : Mv) (c space : Nat) (own : List Nat) (last : Bool) (a n : Nat) : Mv × List Byte :=
  if space = 0 then m.readSp c own last a n else m.readHbm c a n

/-- Write scratchpad bytes for a stream, setting the liveness bits (R48). -/
def Mv.writeSp (m : Mv) (c : Nat) (own : List Nat) (a : Nat) (bs : List Byte) : Mv :=
  m.andThen (fun s =>
    match s.runFault c own a bs.length with
    | some (code, l) => { m with s := s }.halt code l
    | none => { s := s.modCore c (fun k => (k.spWrite a bs).setLive (linesOf a bs.length)) })

/-- A byte lies in a page that a request holds whose cancel notice has reached the cores (R358). -/
def State.cancelledPage (s : State) (p a : Nat) : Bool :=
  let v := s.serveOf p
  v.reqs.any (fun r => r.noticed && (match v.models.find? r.jrec.model with
    | some m => (List.range (r.pages * m.mrec.pageBytes)).any (fun i => Config.pageAddr p r.jrec.req.toNat i = a)
    | none => false))
/-- Write HBM bytes for a stream of core `c`; those that lie in pages of a cancelled request are discarded (R358, R433, R436). -/
def Mv.writeHbm (m : Mv) (c a : Nat) (bs : List Byte) : Mv :=
  m.andThen (fun s =>
    match s.hbm.checkRun (s.partOf c) true a bs.length with
    | .unmapped => { s := s.modHbm (·.countUnmapped), stop := some (codeHbmUnmapped, a) }
    | .denied => { s := s.modHbm (·.countDenied), stop := some (codeHbmDenied, a) }
    | .ok =>
      match s.hbm.stoppedIn a bs.length with
      | some x => { s := s.hbmUe (s.coreReport c codeMemUncorr) x, stop := some (codeMemUncorr, x) }
      | none =>
        let gone := fun (i : Nat) => s.cancelledPage (s.partOf c) (a + i)
        if (List.range bs.length).any gone then
          let kept := bs.zipIdx.filter (fun e => !gone e.2)
          { s := ((s.modHbm (fun h => kept.foldl (fun h e => h.write (a + e.2) [e.1]) h)).acctHbm c kept.length).farAccess c a kept.length }
        else { s := ((s.modHbm (fun h => h.write a bs)).acctHbm c bs.length).farAccess c a bs.length })

def Mv.write (m : Mv) (c space : Nat) (own : List Nat) (a : Nat) (bs : List Byte) : Mv :=
  if space = 0 then m.writeSp c own a bs else m.writeHbm c a bs

/-- Byte address of a base in the unit of its space (Table 3.7). -/
def unitAddr (space base : Nat) : Nat := if space = 0 then 256 * base else base
/-- Byte distance of a row stride in the unit of its space. -/
def unitStride (space str : Nat) : Nat := if space = 0 then 256 * str else 64 * str

/-- Read the codes of one row. -/
def Mv.readRow (m : Mv) (c space : Nat) (own : List Nat) (last : Bool) (a fmt n : Nat) : Mv × List Nat :=
  let r := m.read c space own last a (rowBytes fmt n)
  (r.1, codesOf fmt n r.2)

/-- Bytes as they stand, for the bits of a last byte that a row does not fill (R46). -/
def State.peek (s : State) (c space a n : Nat) : List Byte :=
  if space = 0 then (s.core c).spRead a n else s.hbm.read a n

/-- Write one row of codes. -/
def Mv.writeRow (m : Mv) (c space : Nat) (own : List Nat) (a fmt : Nat) (cs : List Nat) : Mv :=
  m.write c space own a (bytesOf fmt cs (m.s.peek c space a (rowBytes fmt cs.length)))

/-- Values of a row of codes with the scale bytes of its blocks (R109). -/
def rowVals (fmt : Nat) (cs scales : List Nat) : List XVal :=
  if isMx fmt then (List.range cs.length).map (fun j => mxVal fmt (cs.getD j 0) (scales.getD (j / 32) 0xFF))
  else cs.map (elemVal fmt)

/-- Read one row with its scale bytes, when the format is MX: row `i` counted over all tiles. -/
def Mv.readRowMx (m : Mv) (c space : Nat) (own : List Nat) (last : Bool) (a fmt n sa : Nat) : Mv × List Nat × List Nat :=
  let r := m.readRow c space own last a fmt n
  if isMx fmt then
    let q := r.1.read c space own last sa (cdiv n 32)
    (q.1, r.2, q.2.map (·.toNat))
  else (r.1, r.2, [])

/-- Write one row with its scale bytes, when the format is MX. -/
def Mv.writeRowMx (m : Mv) (c space : Nat) (own : List Nat) (a fmt : Nat) (cs : List Nat) (sa : Nat) (scales : List Nat) : Mv :=
  let m1 := m.writeRow c space own a fmt cs
  if isMx fmt then m1.write c space own sa (scales.map (BitVec.ofNat 8)) else m1

/-! ## Direct paths (R50, R99, R546)

A feeding stream leaves its elements on the direct path into the receiving station, only as far as the consumer there can
take them; the consumer takes them in arrival order. For an MX format each element carries its block's scale above its code:
code + 256 × scale. -/

def Core.path (k : Core) (stn : Nat) : Direct := k.direct.get ⟨0, []⟩ stn
/-- No element waits on the path into a station. -/
def Core.pathFree (k : Core) (stn : Nat) : Bool := (k.path stn).elems.isEmpty
/-- A consumer with source space 3 finds the next `n` elements on the path (R99). -/
def Core.pathHas (k : Core) (stn n : Nat) : Bool := n ≤ (k.path stn).elems.length
def Core.feed (k : Core) (stn fmt : Nat) (es : List Nat) : Core :=
  { k with direct := k.direct.set stn ⟨fmt, (k.path stn).elems ++ es⟩ }
/-- Take the next `n` elements. -/
def Core.takePath (k : Core) (stn n : Nat) : Core × List Nat :=
  ({ k with direct := k.direct.set stn ⟨(k.path stn).fmt, (k.path stn).elems.drop n⟩ }, (k.path stn).elems.take n)
/-- A stream that takes its input from the path into a station, and is not done. -/
def Slot.takesPath (x : Slot) (stn : Nat) : Bool :=
  x.live && !x.done && stationOf (kindOf x.desc) = stn && dSspace x.desc = 3
/-- The streams of a station that take their input from its path. -/
def Core.consumers (k : Core) (stn : Nat) : List Nat :=
  Core.slotNums.filter (fun n => (k.slot n).takesPath stn)
/-- The stream that a path feeds now: the earliest of its consumers, once its station accepts it (R54, R99). -/
def Core.consumer (k : Core) (stn : Nat) : Option Nat :=
  match (k.consumers stn).foldl (fun (b : Option Nat) n =>
      match b with
      | some m => if (k.slot m).order ≤ (k.slot n).order then b else some n
      | none => some n) none with
  | none => none
  | some n => if (k.slot n).state = .active || k.acceptable n then some n else none
/-- The path holds elements of another format than the SFMT of a stream that takes them (R546). -/
def Core.pathMismatch (k : Core) (stn : Nat) (d : BitVec 256) : Bool :=
  dSspace d = 3 && !k.pathFree stn && (k.path stn).fmt ≠ dSfmt d
/-- STASH and VECTOR check the format of their feeder at its first element (R546). -/
def checksFeeder (d : BitVec 256) : Bool := kindOf d = 5 || kindOf d = 7
/-- The next element for a station comes in format `fmt`: a consumer that its station has accepted, that still needs elements and
that has another SFMT faults and consumes nothing; what an earlier feeder left for the consumers behind it stays on the path (R174,
R546; log entry 66). -/
def State.pathOffer (s : State) (c stn fmt : Nat) : Nat → State
  | 0 => s
  | fuel + 1 =>
    let k := s.core c
    match k.consumer stn with
    | none => s
    | some n =>
      let d := (k.slot n).desc
      if !checksFeeder d || (k.slot n).state ≠ .active then s
      else if k.pathMismatch stn d then State.pathOffer (s.streamFault c n codeStreamFormat 0) c stn fmt fuel
      else if k.pathHas stn (dElems d) then s
      else if fmt ≠ dSfmt d then
        State.pathOffer ((s.setCore c (k.takePath stn (k.path stn).elems.length).1).streamFault c n codeStreamFormat 0) c stn fmt fuel
      else s
/-- Scale tile address of row `i` over all tiles: rows lie a stride in bytes apart from the scale base (R47, Table 3.7). -/
def scaleAddr (space base str i : Nat) : Nat := unitAddr space base + i * str
/-- Byte address of row `i`, counted over all tiles, of an operand with a base and row stride in the unit of its space (R97). -/
def rowAddr (space base str i : Nat) : Nat := unitAddr space base + i * unitStride space str
/-- Cut a list into rows of `n`. -/
def chunks {α : Type} (n : Nat) : Nat → List α → List (List α)
  | 0, _ => []
  | r + 1, xs => xs.take n :: chunks n r (xs.drop n)

/-- The slot's stream counts its tiles on a token counter (Table 3.6). -/
def Slot.countsTiles (x : Slot) : Bool := dTken x.desc && dTkev x.desc
/-- Whole tiles that a stream has written so far, by the lines, rows or tiles it has moved (R58). -/
def Slot.tilesWritten (x : Slot) : Nat :=
  let d := x.desc
  if x.done then dTiles d
  else match kindOf d with
    | 1 => x.moved / max 1 (if dTrans d then dCols d else dRows d)
    | 2 => 64 * x.moved / (dRows d * dCols d)
    | 3 | 4 => x.moved / dRows d
    | 10 | 11 => x.moved / max 1 (dRows d * rowLines (dSfmt d) (dCols d))
    | 6 | 12 => x.moved
    | _ => 0
/-- Count the whole tiles that a stream had written, at least `k`, and had not yet counted when it faulted (R58, R74). -/
def State.tilesAtFault (s : State) (c n k : Nat) : State :=
  let x := (s.core c).slot n
  if x.countsTiles then
    s.modCore c (fun q => (List.range (max k x.tilesWritten - x.tiles)).foldl (fun q _ => q.incTok (dTokt x.desc)) q)
  else s

/-! ## The destination router (R18, R32, R39, R41) -/

/-- A fault notice for the SEND of a flit: slot `n` of core `c` faults while it still holds that SEND, named by its order of
issue where that is known (R39, R61, R199, R203). -/
def State.sendNotice (s : State) (c n : Nat) (order : Option Nat) (code line : Nat) : State :=
  let x := (s.core c).slot n
  if kindOf x.desc = 10 && x.live && (match order with | some o => decide (x.order = o) | none => true) then
    (s.tilesAtFault c n 0).streamFault c n code line
  else s
/-- A flit of another partition is discarded, counted and reported with the destination in SITE and the source in DETAIL; its
SEND faults (R39; log entry 70). -/
def State.partDiscard (s : State) (dstSite srcSite : Nat) (sender : Option (Nat × Nat × Option Nat)) : State :=
  let s1 := s.modDie dstSite (fun d => { d with partDiscard := satAdd 16 d.partDiscard 1 })
  let s2 := s1.report { s1.pkgReport codeFabricDiscard with site := dstSite, detail := srcSite }
  match sender with
  | some (c, n, o) => s2.sendNotice c n o codePartRefused ((s2.core c).slot n).moved
  | none => s2
/-- A flit for an endpoint in a bay that is not ON is discarded and its sender's endpoint answered DEST_RESET (R41). -/
def State.resetDiscard (s : State) (dst : Nat) (sender : Option (Nat × Nat)) : State :=
  let s1 := s.modDie (dieOf dst) (fun d => { d with destReset := satAdd 16 d.destReset 1 })
  match sender with
  | some (c, n) => s1.modCore c (fun k => { k with welt := { k.welt with destReset := k.welt.destReset ++ [(dst, n)] } })
  | none => s1
/-- `n` flits cross the fabric in the step that sends them: they have their effect unless the router of their destination discards
them, which their sending slot, if any, is told (R39, R41; log entry 65). -/
def State.cross (s : State) (e : Ends) (n : Nat) (sender : Option (Nat × Nat × Option Nat)) (g : State → State) : State :=
  let s1 := s.carried e n
  match s1.atRouter e with
  | .pass => g s1
  | .reset => s1.resetDiscard (6 * e.dst + e.ep % 6) (sender.map (fun x => (x.1, x.2.1)))
  | .part => s1.partDiscard e.dst e.src sender
/-- The ends of a flit of FC0 from a site outside the compute dies to a core. -/
def toCoreEnd (src c : Nat) : Ends := { src := src, dst := dieOf c, ep := c % 6, cls := 0, part := 15 }

/-! ## The end of a movement -/

/-- The end of a movement: a fault stops the stream, its whole tiles counted; otherwise it is done (R58, R74, R55). -/
def Mv.finish (m : Mv) (c n : Nat) : State :=
  match m.stop with
  | some (code, addr) => (m.s.tilesAtFault c n m.tiles).streamFault c n code addr
  | none => m.s.doneSlot c n

/-- Run a station's acceptance of slot `n` of core `c`: nothing happens unless the slot holds a stream the row is about and
its station can accept it now (R53 to R55); the acceptance time is noted (R381). -/
def State.accept (s : State) (c n : Nat) (mine : BitVec 256 → Bool) (f : State → Slot → State) : State :=
  let x := (s.core c).slot n
  if mine x.desc && (s.core c).acceptable n then
    f (s.modCore c (fun k => k.setSlot n { x with acceptedAt := s.mashOf c })) x
  else s
/-- A stream whose station accepts it before its first element and takes its whole input at once: `start` is what acceptance does;
with source space 3 the stream then waits, ACTIVE, until the path into station `stn` holds its input, and faults where what waits
there has another format (R54, R99, R174, R546). -/
def State.pathRun (s : State) (c n stn : Nat) (mine : BitVec 256 → Bool) (start : State → Slot → Mv) (body : State → Slot → State) :
    State :=
  let go := fun (s : State) =>
    let x := (s.core c).slot n
    if (s.core c).pathMismatch stn x.desc then s.streamFault c n codeStreamFormat 0
    else if dSspace x.desc ≠ 3 || (s.core c).pathHas stn (dElems x.desc) then body s x
    else s.modCore c (fun k => k.modSlot n (fun y => { y with state := .active }))
  let x := (s.core c).slot n
  if mine x.desc && x.state = .active && !x.done && dSspace x.desc = 3 then go s
  else
    s.accept c n mine (fun s x =>
      let m := start s x
      match m.stop with
      | some _ => m.finish c n
      | none => go m.s)

end Sys2Proof.Machine
end

