-- ==== Sys2Proof/Machine/Lauter.lean ====
section
/-! DEFINITION. Lauter: LOAD, the delivery of FEED tiles with the transposer (R67, R69), and GATHER (R70 to R73, R545). -/

namespace Sys2Proof.Machine

/-- A tile as its station takes it: rows of codes and, for MX, rows of scale codes. -/
structure Tile where
  rows : List (List Nat) := []
  scales : List (List Nat) := []
  deriving DecidableEq, Repr

/-- Rows and columns exchanged. -/
def transposeRows (n : Nat) (rows : List (List Nat)) : List (List Nat) :=
  (List.range n).map (fun j => rows.map (fun r => r.getD j 0))
/-- The scale that governs element (row, col) of a source tile. -/
def srcScale (scales : List (List Nat)) (row col : Nat) : Nat := (scales.getD row []).getD (col / 32) 0xFF
/-- Scales regrouped for a transposed tile: one per 32 source rows of each source column; none where a group is not uniform (R69). -/
def regroup (nRows nCols : Nat) (scales : List (List Nat)) : Option (List (List Nat)) :=
  (List.range nCols).mapM (fun j =>
    (List.range (cdiv nRows 32)).mapM (fun b =>
      let g := (List.range (min 32 (nRows - 32 * b))).map (fun i => srcScale scales (32 * b + i) j)
      if g.all (fun x => x = g.headD 0) then some (g.headD 0) else none))
/-- The tile Lauter delivers from a source tile (R67, R69). -/
def deliverTile (trans : Bool) (fmt nRows nCols : Nat) (t : Tile) : Option Tile :=
  if trans then
    if isMx fmt then (regroup nRows nCols t.scales).map (fun sc => ⟨transposeRows nCols t.rows, sc⟩)
    else some ⟨transposeRows nCols t.rows, []⟩
  else some t

/-- Read source tile `i` of a stream from scratchpad or HBM: row `i·(ROWS + 1) + r` lies at its row stride, its scales at
the scale stride (R97, Table 3.7). -/
def Mv.readTile (m : Mv) (c : Nat) (own : List Nat) (last : Bool) (d : BitVec 256) (base aux scStr i : Nat) : Mv × Tile :=
  (List.range (dRows d)).foldl (fun (acc : Mv × Tile) r =>
    let row := i * dRows d + r
    let q := acc.1.readRowMx c (dSspace d) own last (rowAddr (dSspace d) base (dSstr d) row) (dSfmt d) (dCols d)
      (scaleAddr (dSspace d) aux scStr row)
    (q.1, ⟨acc.2.rows ++ [q.2.1], if isMx (dSfmt d) then acc.2.scales ++ [q.2.2] else []⟩)) (m, {})

/-- Write tile `i`, of `n` rows, at the destination base and stride; its scale rows from byte `sa` on. -/
def Mv.writeTile (m : Mv) (c : Nat) (d : BitVec 256) (base sa scStr n i : Nat) (t : Tile) : Mv :=
  m.each (List.range n) (fun s r =>
    let row := i * n + r
    ({ s := s } : Mv).writeRowMx c (dDspace d) [] (rowAddr (dDspace d) base (dDstr d) row) (dDfmt d) (t.rows.getD r [])
      (sa + row * scStr) (t.scales.getD r []))

/-- Lines of a region of rows in scratchpad. -/
def regionLines (base str fmt n rows : Nat) : List Nat :=
  (List.range rows).flatMap (fun i => linesOf (256 * (base + i * str)) (rowBytes fmt n))

/-- Fill lines with unspecified data: free values (Table 3.10, R175). -/
def State.scramble (s : State) (c : Nat) (lines : List Nat) : State :=
  lines.foldl (fun s l =>
    let v := s.draw 2048
    v.2.modCore c (fun k => k.spWrite (256 * l) (natBytes 256 v.1.toNat))) s

/-- Destination rows per tile of a LOAD (R67). -/
def loadRows (d : BitVec 256) : Nat := if dTrans d then dCols d else dRows d
def loadCols (d : BitVec 256) : Nat := if dTrans d then dRows d else dCols d
/-- First byte of the scale tile of a LOAD: the line after the last element line written (R543). -/
def loadScaleBase (d : BitVec 256) (base : Nat) : Nat :=
  256 * (base + (dTiles d * loadRows d - 1) * dDstr d + rowLines (dDfmt d) (loadCols d))

/-- Lines of a transposed scratchpad LOAD that are both source and destination (Table 3.10). -/
def loadOverlap (d : BitVec 256) (src dst : Nat) : List Nat :=
  if dTrans d && dSspace d = 0 then
    let a := regionLines src (dSstr d) (dSfmt d) (dCols d) (dRows d * dTiles d)
    (regionLines dst (dDstr d) (dDfmt d) (loadCols d) (loadRows d * dTiles d)).filter (fun l => a.contains l)
  else []

/-- Tile `i` of a LOAD as it is delivered: read and, with TRANS, transposed (R67). -/
def Mv.loadTile (m : Mv) (c : Nat) (x : Slot) (i : Nat) : Mv × Tile :=
  let d := x.desc
  let r := m.readTile c [] (dLast d) d x.srcBase x.auxBase (fld d 216 10) i
  match deliverTile (dTrans d) (dSfmt d) (dRows d) (dCols d) r.2 with
  | none => (r.1.halt codeStreamFormat x.srcBase, {})
  | some t => (r.1, t)
/-- Write delivered tile `i` of a LOAD. -/
def Mv.putTile (m : Mv) (c : Nat) (x : Slot) (i : Nat) (t : Tile) : Mv :=
  let d := x.desc
  (m.writeTile c d x.dstBase (loadScaleBase d x.dstBase) (fld d 226 10) (loadRows d) i t).tile
/-- The movement of a LOAD: tile by tile; a transposed LOAD whose destination meets its source delivers every tile from the source
as it stood, so that lines outside the overlap are right, and the tiles before a fault are written (R67, R74, R103, R543). -/
def State.loadMove (s : State) (c : Nat) (x : Slot) : Mv :=
  let d := x.desc
  let both := loadOverlap d x.srcBase x.dstBase
  let m : Mv :=
    if both.isEmpty then
      ({ s := s } : Mv).each (List.range (dTiles d)) (fun s i =>
        let r := ({ s := s } : Mv).loadTile c x i
        if r.1.stop.isSome then r.1 else r.1.putTile c x i r.2)
    else
      let q := (List.range (dTiles d)).foldl (fun (a : Mv × List Tile) i =>
        let r := a.1.loadTile c x i
        if r.1.stop.isSome then (r.1, a.2) else (r.1, a.2 ++ [r.2])) (({ s := s } : Mv), [])
      let w := (q.2.zipIdx).foldl (fun m p => m.putTile c x p.2 p.1) { q.1 with stop := none }
      match w.stop with | some _ => w | none => { w with stop := q.1.stop }
  { m with s := m.s.scramble c (both.filter (fun l =>
      m.stop.isNone || (regionLines x.dstBase (dDstr d) (dDfmt d) (loadCols d) (loadRows d * m.tiles)).contains l)) }

/-- LOAD_STREAM: Lauter accepts a LOAD and moves its tiles (R55, R67, R97). -/
def execLoadStream (r : StreamRef) (s : State) : Host.Outcome State Fault Refusal :=
  .next (s.accept r.core.val r.slot.val (fun d => kindOf d = 0) (fun s x =>
    (s.loadMove r.core.val x).finish r.core.val r.slot.val))

/-! ## GATHER -/

/-- Zero code of a format (R73). -/
def zeroCode (f : Nat) : Nat := if f = 11 then 0x40 else if f = 12 then 0x4 else 0
def gSlim (d : BitVec 256) : Nat := fld d 216 32
def gDst (d : BitVec 256) : Nat := fld d 248 2
/-- The 64-byte sectors that an index line addresses, each once; an element may lie in two of them (R72). -/
def gatherSectors (base w : Nat) (idx : List Int) (slim : Nat) : List Nat :=
  ((idx.filter (fun (x : Int) => 0 ≤ x && x < (slim : Int))).flatMap (fun (x : Int) =>
    sectorsOf ((base * 8 + w * x.toNat) / 8) ((w * x.toNat % 8 + w + 7) / 8))).dedup
/-- Count an index outside the source region (R73). -/
def Core.gatherMiss (k : Core) : Core := { k with gatherRange := satAdd 32 k.gatherRange 1 }
/-- One element at a signed index: bits [w·(x + 1) − 1 : w·x] of the source string, or the zero code (R545, R73). -/
def Mv.gatherOne (m : Mv) (c : Nat) (x : Slot) (idx : Int) : Mv × Nat :=
  let d := x.desc
  let w := fmtBits (dSfmt d)
  if 0 ≤ idx ∧ idx < gSlim d then
    let bit0 := w * idx.toNat
    let a := unitAddr (dSspace d) x.srcBase + bit0 / 8
    let n := (bit0 % 8 + w + 7) / 8
    let q := if dSspace d = 0 then m.readSp c [] (dLast d) a n else m.readHbmRaw c a n
    (q.1, (bytesNat q.2 >>> (bit0 % 8)) % 2 ^ w)
  else (m.mod (fun s => s.modCore c (·.gatherMiss)), zeroCode (dSfmt d))

/-- One index line: its indices, then their elements, then the sector bytes they moved (R70, R72). -/
def Mv.gatherLine (m : Mv) (c : Nat) (x : Slot) (line n : Nat) : Mv × List Nat :=
  let d := x.desc
  let q := m.readSp c [] false (256 * (x.auxBase + line)) (4 * n)
  let idx := (codesOf 8 n q.2).map (toSigned 32)
  let r := idx.foldl (fun (a : Mv × List Nat) i => let e := a.1.gatherOne c x i; (e.1, a.2 ++ [e.2])) (q.1, [])
  let sec := gatherSectors x.srcBase (fmtBits (dSfmt d)) idx (gSlim d)
  (r.1.mod (fun s => if dSspace d = 1 then
    sec.foldl (fun s a => s.farAccess c a 64) (s.acctHbm c (64 * sec.length)) else s), r.2)
/-- Index lines of a GATHER, and indices of line `l`. -/
def gatherLines (d : BitVec 256) : Nat := cdiv (dElems d) 64
def gatherCount (d : BitVec 256) (l : Nat) : Nat := min 64 (dElems d - 64 * l)

/-- All elements of a GATHER in delivery order. -/
def Mv.gatherAll (m : Mv) (c : Nat) (x : Slot) : Mv × List Nat :=
  (List.range (gatherLines x.desc)).foldl (fun (a : Mv × List Nat) l =>
    let e := a.1.gatherLine c x l (gatherCount x.desc l); (e.1, a.2 ++ e.2)) (m, [])

/-- The movement of a GATHER to scratchpad rows (R545). -/
def State.gatherMove (s : State) (c : Nat) (x : Slot) : Mv :=
  let d := x.desc
  let g := ({ s := s } : Mv).gatherAll c x
  g.1.each (List.range (dTiles d * dRows d)) (fun s i =>
    (({ s := s } : Mv).writeRow c 0 [] (rowAddr 0 x.dstBase (dDstr d) i) (dDfmt d) ((g.2.drop (i * dCols d)).take (dCols d))).rowDone d i)
/-- Station that a GATHER feeds: Mash (1) or Kettle (4). No stream has Mash as the station of its source space 3, so a GATHER
with GDST 1 finds no consumer and stalls (R99; log entry 66). -/
def gatherStation (d : BitVec 256) : Nat := if gDst d = 1 then 1 else 4
/-- One index line of a GATHER onto the direct path (R545). -/
def Mv.gatherFeed (m : Mv) (c : Nat) (x : Slot) (l : Nat) : Mv :=
  let e := m.gatherLine c x l (gatherCount x.desc l)
  e.1.mod (fun s => s.modCore c (fun k => k.feed (gatherStation x.desc) (dSfmt x.desc) e.2))

end Sys2Proof.Machine
end

