-- ==== Sys2Proof/Machine/Random.lean ====
section
/-! DEFINITION. Philox-4×32-10 and its counter layout (R186, R187). -/

namespace Sys2Proof.Machine

/-- One round of Philox on the counter words c0 to c3 with round key k0, k1 (R186). -/
def philoxRound (k0 k1 : Nat) (c : Nat × Nat × Nat × Nat) : Nat × Nat × Nat × Nat :=
  let p0 := 0xD2511F53 * c.1
  let p1 := 0xCD9E8D57 * c.2.2.1
  (((p1 / 2 ^ 32) ^^^ c.2.1) ^^^ k0, p1 % 2 ^ 32, ((p0 / 2 ^ 32) ^^^ c.2.2.2) ^^^ k1, p0 % 2 ^ 32)

/-- Rounds with the key schedule: `n` rounds left. -/
def philoxRounds : Nat → Nat → Nat → Nat × Nat × Nat × Nat → Nat × Nat × Nat × Nat
  | 0, _, _, c => c
  | n + 1, k0, k1, c =>
    philoxRounds n ((k0 + 0x9E3779B9) % 2 ^ 32) ((k1 + 0xBB67AE85) % 2 ^ 32) (philoxRound k0 k1 c)

/-- Word 0 of the output for seed, stream id, step and element index (R186, R187, Table 6.6). -/
def philoxWord0 (seed stream step index : Nat) : Nat :=
  (philoxRounds 10 (seed % 2 ^ 32) ((seed / 2 ^ 32) % 2 ^ 32)
    (index % 2 ^ 32, (index / 2 ^ 32) % 2 ^ 32, step % 2 ^ 32, stream % 2 ^ 16)).1

end Sys2Proof.Machine
end

