-- ==== Sys2Proof/Machine/Mash.lean ====
section
/-! DEFINITION. Mash (chapter 5): stationary and moving FEEDs, the accumulation modes, special values, groups and the
checksums that a FEED maintains. -/

namespace Sys2Proof.Machine

/-! ## Entries and outcomes (Tables 5.3 and 5.4) -/

/-- RES is taken modulo this prime (Table 5.3). -/
def resMod : Int := 1048573
/-- Class of an outcome: 0 finite, 1 +∞, 2 −∞, 3 NaN. -/
def XVal.cls : XVal → Nat
  | .nan => 3
  | .inf n => if n then 2 else 1
  | .fin _ _ _ => 0
/-- The special-value state machine (Table 5.4). -/
def stMove (st o : Nat) : Nat := if o = 0 then st else if st = 0 then o else if st = o then st else 3
/-- A finite dyadic as an integer multiple of 2^q, rounded towards zero. -/
def XVal.toUnits (q : Int) : XVal → Int
  | .fin n m e =>
    let v : Int := if q ≤ e then (m * 2 ^ (e - q).toNat : Nat) else (m / 2 ^ (q - e).toNat : Nat)
    if n then -v else v
  | _ => 0

/-- An exact sum with state takes one outcome (R166, Table 5.4). -/
def ExSum.take (a : ExSum) (v : XVal) : ExSum :=
  let st := stMove a.st v.cls
  if st ≠ 0 then { m := 0, e := 0, st := st }
  else
    match v with
    | .fin n m e =>
      let q := min a.e e
      { m := a.m * 2 ^ (a.e - q).toNat + alignTo n m e q, e := q, st := 0 }
    | _ => a

/-- VALUE as a signed integer (Table 5.3). -/
def AccEntry.int (x : AccEntry) : Int := toSigned 96 x.value.toNat
/-- The residue check of an EXACT96 entry holds (R141). -/
def AccEntry.resOk (x : AccEntry) : Bool := x.int % resMod = (x.res.toNat : Int)
/-- An entry that is not FINITE has zero value bits (R139). -/
def AccEntry.special (st : Nat) : AccEntry := { value := 0, st := BitVec.ofNat 4 st, res := 0 }
/-- Flags of an update that leaves state `st` (R127, R152). -/
def stFlags (st : Nat) : Flags := { nv := st = 3 }

/-- EXACT96: add a finite outcome into V and its residue, or move STATE (R143, R141, R152). -/
def AccEntry.exact (x : AccEntry) (o : XVal) : AccEntry × Flags :=
  let st := stMove x.st.toNat o.cls
  if st ≠ 0 then (.special st, stFlags st)
  else
    let d := o.toUnits (-32)
    ({ x with value := BitVec.ofInt 96 (x.int + d), res := BitVec.ofNat 20 ((((x.res.toNat : Int) + d) % resMod).toNat) }, {})

/-- m × 2^e, rounded by the random word `u` with the exponent unbounded, is below the smallest normal FP32 value (R124). -/
def srTiny (m : Nat) (e : Int) (u : Nat) : Bool :=
  let q := flog2 m e - 23
  if q ≤ e then flog2 m e < -126
  else
    let d := 2 ^ (q - e).toNat
    flog2 (m / d + (if m % d ≠ 0 ∧ 2 ^ 32 ≤ m % d * 2 ^ 32 / d + u then 1 else 0)) q < -126
/-- `mash_f32sr_add` of R146: stochastic rounding of acc + blk with random word `u`. -/
def srAdd (acc blk : XVal) (u : Nat) : XVal × Flags :=
  match acc.add blk with
  | .fin n m e =>
    if m = 0 then (.zero, {})
    else
      let q := max (flog2 m e - 23) (-149)
      let lo := if q ≤ e then m * 2 ^ (e - q).toNat else m / 2 ^ (q - e).toNat
      let rest := if q ≤ e then 0 else m % 2 ^ (q - e).toNat
      let f := if q ≤ e then 0 else rest * 2 ^ 32 / 2 ^ (q - e).toNat
      let r := if rest ≠ 0 ∧ 2 ^ 32 ≤ f + u then lo + 1 else lo
      let code := (q + 149).toNat * 2 ^ 23 + r
      if 0x7F7FFFFF < code then (.inf n, { ovf := true, nx := true })
      else (.fin n r q, { nx := rest ≠ 0, uf := rest ≠ 0 && srTiny m e u })
  | y => (y, {})

/-- One rounding to nearest into a format (R148, R149). -/
def rneAdd (f : FloatFmt) (acc blk : XVal) : XVal × Flags :=
  let r := f.narrow false (acc.add blk)
  (f.val r.1, r.2)

/-- A running sum in format `f` takes one outcome, with the addition that the mode defines (Table 5.4). -/
def AccEntry.rounded (f : FloatFmt) (add : XVal → XVal → XVal × Flags) (x : AccEntry) (o : XVal) : AccEntry × Flags :=
  let st := stMove x.st.toNat o.cls
  if st ≠ 0 then (.special st, stFlags st)
  else
    let r := add (f.val x.value.toNat) o
    match r.1 with
    | .fin _ _ _ => ({ x with value := BitVec.ofNat 96 (f.narrow false r.1).1 }, r.2)
    | y => (.special y.cls, r.2)

/-! ## Products -/

/-- An operand element: its format, code and value under its scale. -/
structure Opnd where
  fmt : Nat
  code : Nat
  v : XVal
  deriving DecidableEq, Repr

/-- Operands of a delivered row. -/
def opnds (fmt : Nat) (codes scales : List Nat) : List Opnd :=
  (codes.zip (rowVals fmt codes scales)).map (fun x => ⟨fmt, x.1, x.2⟩)

/-- Product of two operands; LNS operands multiply in the log domain (R118), others exactly (R151). -/
def Opnd.mul (a b : Opnd) : XVal :=
  if isLnsFmt a.fmt then
    if a.v.isNan || b.v.isNan then .nan
    else if a.v.isZero || b.v.isZero then .zero
    else lnsMag (a.v.isNeg != b.v.isNeg) (lnsLog a.fmt a.code + lnsLog b.fmt b.code)
  else a.v.mul b.v

/-- Leading, middle and remaining significant bits of an FP32 operand (R149). -/
def split3 : XVal → XVal × XVal × XVal
  | .fin n m e =>
    let k := Nat.log2 m + 1 - 8
    let h := m >>> k <<< k
    let r := m - h
    let j := k - 8
    let mid := r >>> j <<< j
    (.fin n h e, .fin n mid e, .fin n (r - mid) e)
  | x => (x, x, x)
/-- The six part products of F32X3 (R149). -/
def parts6 (a b : XVal) : List XVal :=
  let x := split3 a
  let y := split3 b
  [x.1.mul y.1, x.1.mul y.2.1, x.2.1.mul y.1, x.1.mul y.2.2, x.2.2.mul y.1, x.2.1.mul y.2.1]

/-- A finite product of a rounded plain mode whose magnitude is 2^128 or more becomes infinite (R146, R151). -/
def bigProduct (mode : Nat) (p : XVal) : Bool :=
  match p with
  | .fin _ m e => mode ≠ 0 && m ≠ 0 && 128 ≤ flog2 m e
  | _ => false
/-- The terms one operand pair contributes to the sum. -/
def sumTerms (mode : Nat) (a b : Opnd) : List XVal :=
  let p := a.mul b
  if bigProduct mode p then [.inf p.isNeg] else if mode = 3 && p.isFin then parts6 a.v b.v else [p]
/-- The terms one operand pair contributes to the checks (R166). -/
def checkTerms (mode : Nat) (a b : Opnd) : List XVal :=
  let p := a.mul b
  if mode = 3 && p.isFin then parts6 a.v b.v else [p]
/-- Exact sum of terms, NaN and infinities by R151; a sum of negative zeros alone is −0 (R120). -/
def xsum : List XVal → XVal
  | [] => .zero
  | x :: l => l.foldl XVal.add x

/-- Round m × 2^e up to `p` significant bits (R166). -/
def roundUpBits (p : Nat) (x : ExSum) : ExSum :=
  let m := x.m.toNat
  let k := Nat.log2 m + 1 - p
  if m = 0 ∨ k = 0 then x else { x with m := (cdiv m (2 ^ k) : Nat), e := x.e + k }

/-! ## The modes (R143 to R149) -/

/-- Precision of the running sum and the constant of the tolerance (Table 5.6). -/
def sumPrec (mode fmt : Nat) : Nat := if mode = 2 then (if fmt = 1 then 8 else 11) else 24
def sumConst (mode : Nat) : Nat := if mode = 3 then 16 else 1
/-- Format of the running sum (R148, Table 5.3). -/
def sumFmt (mode fmt : Nat) : FloatFmt := if mode = 2 then (if fmt = 1 then ⟨8, 7, 127, 0⟩ else ⟨5, 10, 15, 0⟩) else fmtF32

/-- The key of R147 and the seed with which one entry is rounded. -/
structure SrKey where
  seed : Nat
  row : Nat
  col : Nat
  kblk : Nat
  deriving DecidableEq, Repr

/-- Random word of an addition (R146, R147). -/
def SrKey.word (k : SrKey) : Nat := philoxWord0 k.seed 0xFFFF k.kblk (k.row * 2 ^ 32 + k.col)

/-- One entry takes the products of one k-block (R143 to R149). -/
def entryUpdate (g : Group) (key : SrKey) (x : AccEntry) (pairs : List (Opnd × Opnd)) : AccEntry × Flags :=
  let ovfl : Flags := if pairs.any (fun p => bigProduct g.mode (p.1.mul p.2)) then { ovf := true, nx := true } else {}
  let terms := pairs.map (fun p => sumTerms g.mode p.1 p.2)
  if g.mode = 2 then
    terms.foldl (fun a t =>
      let r := a.1.rounded (sumFmt 2 g.fmt) (rneAdd (sumFmt 2 g.fmt)) (xsum t)
      (r.1, a.2.or r.2)) (x, ovfl)
  else
    let o := xsum terms.flatten
    let r :=
      if g.mode = 0 && !g.mx then x.exact o
      else if g.mode = 3 then x.rounded fmtF32 (rneAdd fmtF32) o
      else x.rounded fmtF32 (fun a b => srAdd a b key.word) o
    (r.1, ovfl.or r.2)

/-- `mash_sr_key` of R146. -/
def srKeyOf (g : Group) (seed kblk row col : Nat) (outt : Bool) : SrKey :=
  let p := (g.rowOrg.toNat + (row - g.base)) % 2 ^ 32
  let q := (g.colOrg.toNat + col) % 2 ^ 32
  if outt then ⟨seed, q, p, kblk⟩ else ⟨seed, p, q, kblk⟩

/-! ## Accumulator rows -/

def Core.acc (k : Core) (row col : Nat) : AccEntry := k.mash.acc.get {} (row * 256 + col)
def Core.accErr (k : Core) (row col : Nat) : Nat := k.mash.err.get 0 (row * 256 + col)
def Core.modMash (k : Core) (f : Mash → Mash) : Core := { k with mash := f k.mash }
def Core.group (k : Core) (g : Nat) : Group := k.mash.groups.get {} g
def Core.setGroup (k : Core) (g : Nat) (x : Group) : Core := k.modMash (fun m => { m with groups := m.groups.set g x })

/-- The checks of R140 and R141 on reading `n` entries of a row: single-bit errors are corrected, written back and counted;
residue mismatches are counted; the answer is the fault, if any. -/
def Core.readCheck (k : Core) (exact : Bool) (row n : Nat) : Core × Option Nat :=
  let cols := List.range n
  let ce := (cols.filter (fun j => k.accErr row j = 1)).length
  let bad := cols.any (fun j => k.accErr row j = 2 || 4 ≤ (k.acc row j).st.toNat)
  let res := (cols.filter (fun j => exact && !(k.acc row j).resOk)).length
  let k1 := k.modMash (fun m => { m with
    accCe := satAdd 16 m.accCe ce
    err := if ce = 0 then m.err else cols.foldl (fun e j => if e.get 0 (row * 256 + j) = 1 then e.erase (row * 256 + j) else e) m.err
    resFail := satAdd 16 m.resFail res })
  if bad then (k1, some codeMemUncorr)
  else if res ≠ 0 && k.mash.resChk then (k1, some codeAccCheck)
  else (k1, none)

/-- The single-bit errors of a row are corrected, written back and counted (R140, R440). -/
def Core.accFix (k : Core) (row : Nat) : Core :=
  k.modMash (fun m => { m with
    accCe := satAdd 16 m.accCe (m.err.filter (fun e => e.1 / 256 = row && e.2 = 1)).length
    err := m.err.filter (fun e => !(e.1 / 256 = row && e.2 = 1)) })
/-- Write an entry; a written entry has a fresh ECC. -/
def Core.setAcc (k : Core) (row col : Nat) (x : AccEntry) : Core :=
  k.modMash (fun m => { m with acc := m.acc.set (row * 256 + col) x, err := m.err.erase (row * 256 + col) })

/-- Clear the liveness bits of accumulator rows, or set one (R48). -/
def Core.setRowLive (k : Core) (row : Nat) : Core := { k with sp := { k.sp with liveRows := insertSet row k.sp.liveRows } }
def Core.clearRowLive (k : Core) (p : Nat → Bool) : Core := { k with sp := { k.sp with liveRows := k.sp.liveRows.filter (fun r => !p r) } }

/-- The checks a row keeps: CC_i, the bound MB_i, CR_j and the count of rounded additions (R166, R168). -/
def Core.rowChecks (k : Core) (gi : Nat) (g : Group) (row : Nat) (pairs : List (List (Opnd × Opnd))) : Core :=
  if g.chk then
    let terms := pairs.map (fun ps => ps.flatMap (fun p => checkTerms g.mode p.1 p.2))
    k.modMash (fun m =>
      let cc := terms.flatten.foldl ExSum.take (m.cc.get {} row)
      let exact := g.mode = 0 && !g.mx
      let mb := if exact then m.mb.get {} row
        else terms.flatten.foldl (fun a v => roundUpBits (sumPrec g.mode g.fmt) (a.take v.abs)) (m.mb.get {} row)
      let cr := if exact then
          (terms.zipIdx).foldl (fun cr t => cr.set (gi * 256 + t.2) (t.1.foldl ExSum.take (cr.get {} (gi * 256 + t.2)))) m.cr
        else m.cr
      { m with cc := m.cc.set row cc, mb := m.mb.set row mb, cr := cr })
  else k

/-- One moving row into one accumulator row (R134, R150): every column of the stationary tile takes its k-block. -/
def Core.feedRow (k : Core) (gi : Nat) (g : Group) (stat : StatTile) (mv : List Opnd) (seed kblk : Nat) (outt : Bool)
    (row : Nat) : Core × Option Nat :=
  let exact := g.mode = 0 && !g.mx
  let late := !exact && (match k.mash.lastKblk.find? row with | some l => kblk ≤ l | none => false)
  if late then (k, some codeKblkOrder)
  else
    let q := k.readCheck exact row stat.rows.length
    match q.2 with
    | some code => (q.1, some code)
    | none =>
      let pairs := (List.range stat.rows.length).map (fun j =>
        (opnds stat.fmt (stat.rows.getD j []) (stat.scales.getD j [])).zip mv)
      let k1 := pairs.zipIdx.foldl (fun k p =>
        let r := entryUpdate g (srKeyOf g seed kblk row p.2 outt) (k.acc row p.2) p.1
        (k.setAcc row p.2 r.1).raise 1 r.2) q.1
      let k2 := k1.rowChecks gi g row pairs
      (k2.modMash (fun m => { m with
          lastKblk := if exact then m.lastKblk else m.lastKblk.set row kblk
          adds := m.adds.set row (m.adds.get 0 row + (if g.mode = 2 then mv.length else 1)) }) |>.setRowLive row, none)

/-! ## FEED -/

def fRole (d : BitVec 256) : Nat := fld d 216 1
def fAccm (d : BitVec 256) : Nat := fld d 217 3
def fGroup (d : BitVec 256) : Nat := fld d 220 4
def fOpen (d : BitVec 256) : Bool := bit d 224
def fChk (d : BitVec 256) : Bool := bit d 225
def fKblk (d : BitVec 256) : Nat := fld d 226 12
def fScstr (d : BitVec 256) : Nat := fld d 238 10
/-- Delivered rows per tile and their length (R134). -/
def feedM (d : BitVec 256) : Nat := if dTrans d then dCols d else dRows d
def feedK (d : BitVec 256) : Nat := if dTrans d then dRows d else dCols d
/-- Last destination row of a moving FEED with first row `b`. -/
def feedLast (d : BitVec 256) (b : Nat) : Nat := b + (dTiles d * feedM d - 1) * dDstr d

/-- Operand pairs of Table 5.1 by mode: stationary and moving format codes. -/
def pairOk (accm f g : Nat) : Bool :=
  match accm with
  | 0 =>
    if isMx f || isMx g then
      isMx f && isMx g &&
        (((f % 16 = 3 || f % 16 = 4) && (g % 16 = 3 || g % 16 = 4)) ||
          (f = g && (f % 16 = 5 || f % 16 = 6 || f % 16 = 7 || f % 16 = 9)))
    else
      ((f = 3 || f = 4) && (g = 3 || g = 4)) ||
        (f = g && (f = 5 || f = 6 || f = 7 || f = 9 || f = 10 || f = 11 || f = 12))
  | 1 => f = g && (f = 1 || f = 2)
  | 2 => (f = g && (f = 1 || f = 2)) || ((f = 3 || f = 4) && (g = 3 || g = 4))
  | _ => f = 0 && g = 0

/-- Read the one tile of a stationary FEED (R134, R138). -/
def Mv.readStat (m : Mv) (c : Nat) (last : Bool) (d : BitVec 256) (base aux : Nat) (deferred : Bool) : Mv × Option StatTile :=
  let r := m.readTile c [] last d base aux (fScstr d) 0
  match deliverTile (dTrans d) (dSfmt d) (dRows d) (dCols d) r.2 with
  | none => (r.1.halt codeStreamFormat base, none)
  | some t => (r.1, some { fmt := dSfmt d, accm := fAccm d, k := feedK d, rows := t.rows, scales := t.scales, deferred := deferred })

/-- The stream was issued by the deferred issuer (R237). -/
def Slot.deferred (x : Slot) : Bool := match x.origin with | .dwq _ => true | .seq => false
/-- Put a tile into the shadow. -/
def Core.setShadow (k : Core) (t : Option StatTile) : Core := k.modMash (fun m => { m with shadow := t })

/-- The core runs a kernel of an enforced model (R451). -/
def Core.enforced (k : Core) : Bool := match k.seq.kernel with | some r => r.enforced | none => false
/-- Residue checking is off in a kernel of an enforced model: Mash faults every stream it accepts (R452). -/
def Core.unchecked (k : Core) : Bool := k.enforced && !k.mash.resChk

/-- STATIONARY_FEED: a ROLE 0 FEED fills the shadow tile and is recorded for its origin (R134, R237); Mash accepts none of an enforced
kernel with RESCHK 0 (R452). -/
def execStationaryFeed (r : StreamRef) (s : State) : Host.Outcome State Fault Refusal :=
  let c := r.core.val
  .next (s.accept c r.slot.val (fun d => kindOf d = 1 && fRole d = 0) (fun s x =>
    if (s.core c).unchecked then ({ s := s, stop := some (codeSafetyMode, x.srcBase) } : Mv).finish c r.slot.val
    else
      let q := ({ s := s } : Mv).readStat c (dLast x.desc) x.desc x.srcBase x.auxBase x.deferred
      (q.1.mod (fun s => s.modCore c (fun k =>
        (k.setShadow q.2).modMash (fun m => { m with
          role0 := m.role0.set (b2n x.deferred) { desc := x.desc, srcBase := x.srcBase, auxBase := x.auxBase } })))).finish
        c r.slot.val))

/-- Refill the shadow from the recorded ROLE 0 FEED of the moving FEED's origin when the tile that would be stationary has
another origin, or when a restore left none (R237, R377). False: that origin has no record. -/
def Mv.refill (m : Mv) (c : Nat) (x : Slot) : Mv × Bool :=
  let k := m.s.core c
  let same : Bool := match k.mash.shadow.or k.mash.stat with | some t => t.deferred == x.deferred | none => false
  if same then (m, true)
  else
    match k.mash.role0.find? (b2n x.deferred) with
    | none => (m, false)
    | some rec0 =>
      let q := m.readStat c false rec0.desc rec0.srcBase rec0.auxBase x.deferred
      (q.1.mod (fun s => s.modCore c (fun k =>
        { (k.setShadow q.2) with dwq := { k.dwq with refill := satAdd 16 k.dwq.refill 1 } })), true)

/-- The range a moving FEED would open meets a row of another open group (R154). -/
def Core.overlaps (k : Core) (g lo hi : Nat) : Bool :=
  (List.range 16).any (fun j => j ≠ g && (k.group j).isOpen && (k.group j).base ≤ hi && lo < (k.group j).base + (k.group j).count)

/-- Faults at Mash acceptance of a moving FEED, in the order of R154. -/
def Core.feedFault (k : Core) (x : Slot) (recorded : Bool) : Option Nat :=
  let d := x.desc
  let g := k.group (fGroup d)
  let lo := x.dstBase
  let hi := feedLast d x.dstBase
  let cand := k.mash.shadow.or k.mash.stat
  let chk := if fOpen d then fChk d else g.chk
  if fOpen d && g.isOpen then some codeGroupOpen
  else if fOpen d && k.overlaps (fGroup d) lo hi then some codeGroupOverlap
  else if !fOpen d && !g.isOpen then some codeGroupClosed
  else if !fOpen d && (lo < g.base || g.base + g.count ≤ hi) then some codeGroupRange
  else if !fOpen d && (fAccm d ≠ g.mode || isMx (dSfmt d) != g.mx || fChk d != g.chk) then some codeMashMode
  else if !recorded || !(match cand with
      | some t => t.k = feedK d && pairOk (fAccm d) t.fmt (dSfmt d) && t.accm = fAccm d
      | none => false) then some codeMashMode
  else if k.unchecked || (k.enforced && (fAccm d ≠ 0 || isMx (dSfmt d) || !chk)) then some codeSafetyMode
  else if !fOpen d && g.mode = 0 && !g.mx && 2 ^ 23 ≤ g.kcount then some codeGroupLength
  else none

/-- Open the group of a moving FEED: the rows of its range start at +0 FINITE with clear records and checks (R153). -/
def Core.openGroup (k : Core) (x : Slot) : Core :=
  let d := x.desc
  let lo := x.dstBase
  let n := feedLast d x.dstBase + 1 - lo
  let inR := fun (row : Nat) => lo ≤ row && row < lo + n
  let org := k.mash.org.get 0 (fGroup d)
  (k.modMash (fun m => { m with
    acc := m.acc.filter (fun e => !inR (e.1 / 256))
    err := m.err.filter (fun e => !inR (e.1 / 256))
    lastKblk := m.lastKblk.filter (fun e => !inR e.1)
    cc := m.cc.filter (fun e => !inR e.1)
    mb := m.mb.filter (fun e => !inR e.1)
    adds := m.adds.filter (fun e => !inR e.1)
    cr := m.cr.filter (fun e => e.1 / 256 ≠ fGroup d) })).setGroup (fGroup d)
    { base := lo, count := n, mode := fAccm d, mx := isMx (dSfmt d), chk := fChk d, isOpen := true, kcount := 0,
      rowOrg := BitVec.ofNat 32 (fld org 0 32), colOrg := BitVec.ofNat 32 (fld org 32 32), fmt := dSfmt d,
      released := [], abortReq := false }

/-- Mash cycles of a moving FEED (Table 5.1): rows × cycles per row, in half cycles rounded up. -/
def feedCycles (d : BitVec 256) : Nat :=
  let rows := dTiles d * feedM d
  match fAccm d with
  | 1 => 2 * rows
  | 3 => 6 * rows
  | 2 => if dSfmt d = 3 || dSfmt d = 4 then cdiv rows 2 else rows
  | _ => if dSfmt d % 16 = 7 || dSfmt d = 10 || dSfmt d = 12 then cdiv rows 2 else rows

/-- Bookkeeping of an accepted moving FEED: the shadow becomes stationary, the group opens, KCOUNT counts, deferred Mash
cycles are counted (R135, R153, Table 8.10). -/
def Core.feedAccept (k : Core) (x : Slot) : Core :=
  let d := x.desc
  let k1 := k.modMash (fun m => match m.shadow with | some t => { m with stat := some t, shadow := none } | none => m)
  let k2 := if fOpen d then k1.openGroup x else k1
  let g := k2.group (fGroup d)
  let k3 := k2.setGroup (fGroup d) { g with kcount := min (2 ^ 24 - 1) (g.kcount + 1) }
  if x.deferred then { k3 with dwq := { k3.dwq with mcyc := satAdd 64 k3.dwq.mcyc (feedCycles d) } } else k3

/-- Row `i` of tile `t` of a moving FEED into the accumulator (R134). -/
def State.feedRowMove (s : State) (c : Nat) (x : Slot) (tile : Tile) (t i : Nat) : Mv :=
  let d := x.desc
  let k := s.core c
  let row := x.dstBase + (t * feedM d + i) * dDstr d
  match k.mash.stat with
  | none => { s := s, stop := some (codeMashMode, row) }
  | some st =>
    let u := k.feedRow (fGroup d) (k.group (fGroup d)) st
      (opnds (dSfmt d) (tile.rows.getD i []) (tile.scales.getD i [])) x.seed.toNat (fKblk d) (dOutt d) row
    { s := s.setCore c u.1, stop := u.2.map (fun code => (code, row)) }
/-- The moving rows from `lo` up to `hi`, counted over all tiles, into the accumulator (R134); a tile is read as its first row of
them moves. -/
def State.feedMove (s : State) (c : Nat) (x : Slot) (lo hi : Nat) : Mv :=
  let d := x.desc
  ({ s := s, tiles := lo / feedM d } : Mv).each (List.range (dTiles d)) (fun s t =>
    let rows := (List.range (feedM d)).filter (fun i => lo ≤ t * feedM d + i && t * feedM d + i < hi)
    if rows.isEmpty then { s := s }
    else
      let q := ({ s := s } : Mv).readTile c [] (dLast d) d x.srcBase x.auxBase (fScstr d) t
      match deliverTile (dTrans d) (dSfmt d) (dRows d) (dCols d) q.2 with
      | none => q.1.halt codeStreamFormat x.srcBase
      | some tile =>
        let m := q.1.each rows (fun s i => s.feedRowMove c x tile t i)
        if (t + 1) * feedM d ≤ hi then m.tile else m)
/-- A DRAIN of the group is QUEUED or ACTIVE: its rows and those of a FEED are unordered (Table 3.10). -/
def Core.drainBeside (k : Core) (g : Nat) : Bool :=
  Core.slotNums.any (fun n => (k.slot n).live && !(k.slot n).done && kindOf (k.slot n).desc = 3 && fld (k.slot n).desc 216 4 = g)
/-- Rows that a moving FEED moves before other streams go on: all of them, or an open number of them while a DRAIN of its group
is unordered with it (R103, Table 3.10; log entry 2). -/
def State.feedStop (s : State) (c : Nat) (x : Slot) : Nat × State :=
  let rows := dTiles x.desc * feedM x.desc
  if (s.core c).drainBeside (fGroup x.desc) then
    let v := s.draw 32
    (x.moved + v.1.toNat % (rows - x.moved + 1), v.2)
  else (rows, s)
/-- A moving FEED moves rows from its place on: it is done, has faulted, or stays ACTIVE with the rows that are left. -/
def State.feedGo (s : State) (c n : Nat) (x : Slot) : State :=
  let b := s.feedStop c x
  let m := b.2.feedMove c x x.moved b.1
  if m.stop.isSome || dTiles x.desc * feedM x.desc ≤ b.1 then m.finish c n
  else m.s.modCore c (fun k => k.modSlot n (fun y => { y with state := .active, moved := b.1, seed := x.seed }))

/-- A group closes: OPEN and COUNT read zero and its rows' liveness bits are clear (R155, R156, Table 5.8). -/
def Core.closeGroup (k : Core) (g : Nat) : Core :=
  let x := k.group g
  (k.clearRowLive (fun r => x.base ≤ r && r < x.base + x.count)).setGroup g
    { x with isOpen := false, count := 0, abortReq := false }
/-- A FEED or DRAIN that names the group is ACTIVE (R156). -/
def Core.groupBusy (k : Core) (g : Nat) : Bool :=
  Core.slotNums.any (fun n =>
    let x := k.slot n
    x.state = .active &&
      ((kindOf x.desc = 1 && fRole x.desc = 1 && fGroup x.desc = g) || (kindOf x.desc = 3 && fld x.desc 216 4 = g)))
/-- Writing 1 to ABORT: at once, or as the ACTIVE stream that names the group completes (R156). -/
def Core.abortGroup (k : Core) (g : Nat) : Core :=
  if k.groupBusy g then k.setGroup g { k.group g with abortReq := true } else k.closeGroup g

/-- Groups whose abort waited for the stream that named them close once none is ACTIVE, which a fault ends as completion does (R156;
log entry 88). -/
def Core.settleAborts (k : Core) : Core :=
  (List.range 16).foldl (fun k g => if (k.group g).abortReq && !k.groupBusy g then k.closeGroup g else k) k

/-- What a FEED or DRAIN leaves where it has faulted: the aborts that waited for it take effect (R156). -/
def State.abortsDue (s : State) (c n : Nat) : State :=
  if ((s.core c).slot n).state = .faulted && (List.range 16).any (fun g => ((s.core c).group g).abortReq) then
    s.modCore c (·.settleAborts) else s

/-- MOVING_FEED: Mash accepts a ROLE 1 FEED after its checks and streams its rows into the accumulator, or goes on with one
(R134 to R154). -/
def execMovingFeed (r : StreamRef) (s : State) : Host.Outcome State Fault Refusal :=
  let c := r.core.val
  let n := r.slot.val
  let x := (s.core c).slot n
  let t :=
    if kindOf x.desc = 1 && fRole x.desc = 1 && x.state = .active && !x.done then s.feedGo c n x
    else
      s.accept c n (fun d => kindOf d = 1 && fRole d = 1) (fun s x =>
        let q := ({ s := s } : Mv).refill c x
        let m := q.1.andThen (fun s =>
          match (s.core c).feedFault x q.2 with
          | some code => { s := s, stop := some (code, x.dstBase) }
          | none => { s := s.modCore c (fun k => k.feedAccept x) })
        match m.stop with
        | some _ => m.finish c n
        | none => m.s.feedGo c n { x with moved := 0, seed := (s.core c).mash.srSeed })
  .next (t.abortsDue c n)

/-- GROUP_ABORT: a write of 1 to MASH_GROUP_g.ABORT (R156). -/
def execGroupAbort (c : CoreId) (g : Fin 16) (s : State) : Host.Outcome State Fault Refusal :=
  .next (s.modCore c.val (fun k => k.abortGroup g.val))

end Sys2Proof.Machine
end

