-- ==== Sys2Proof/Machine/Trans.lean ====
section
/-! DEFINITION. The transcendental unit (R178) and the activation functions of Sparge (R164). The spec bounds the result:
it is one of two bracketing values (EXP, LOG, RCP, RSQRT) or lies within 2 ulp (activations). The bracket is computed
here by exact rational enclosures; which value inside the bound is returned is an open choice of Config. -/

namespace Sys2Proof.Machine

/-- The value of an FP32 magnitude code that lies at or below num ÷ den (den > 0): the code, and whether it is equal. The
exponent is unbounded above: a code beyond the largest finite one means overflow. -/
def floorF32 (num den : Nat) : Nat × Bool :=
  if num = 0 then (0, true)
  else
    -- 2^l ≤ num ÷ den < 2^(l+1)
    let l0 : Int := (Nat.log2 num : Int) - Nat.log2 den
    let atLeast := fun (l : Int) => if 0 ≤ l then den * 2 ^ l.toNat ≤ num else den ≤ num * 2 ^ (-l).toNat
    let l := if atLeast l0 then l0 else l0 - 1
    let q := max (l - 23) (-149)
    let n := if 0 ≤ q then num else num * 2 ^ (-q).toNat
    let d := if 0 ≤ q then den * 2 ^ q.toNat else den
    ((q + 149).toNat * 2 ^ 23 + n / d, n % d = 0)

/-! ## Enclosures of e^x and ln x by rationals with a fixed denominator -/

/-- Working precision in bits. -/
def transBits : Nat := 200
/-- One at working precision. -/
def transOne : Nat := 2 ^ transBits

/-- Lower sum of the series of e^r for 0 ≤ r < 1 at working precision: `n` terms left, term index `i`, current term. -/
def expSeries : Nat → Nat → Nat → Nat → Nat
  | 0, _, _, _ => 0
  | n + 1, i, r, t => t + expSeries n (i + 1) r (t * r / transOne / (i + 1))

/-- Lower and upper bound of e^r × 2^200 for r ÷ 2^200 in [0, 1): sixty terms, each truncated by less than two units. -/
def expUnit (r : Nat) : Nat × Nat :=
  let s := expSeries 60 0 r transOne
  (s, s + 240)

/-- Series of 2·artanh(z) for 0 ≤ z ≤ 1/3 at working precision. -/
def lnSeries : Nat → Nat → Nat → Nat → Nat
  | 0, _, _, _ => 0
  | n + 1, i, z2, t => 2 * t / (2 * i + 1) + lnSeries n (i + 1) z2 (t * z2 / transOne)

/-- ln 2 × 2^200, lower bound: 2·artanh(1/3). -/
def ln2Lo : Nat := lnSeries 70 0 (transOne / 9) (transOne / 3)
/-- ln 2 × 2^200, upper bound. -/
def ln2Hi : Nat := ln2Lo + 1000

/-- Bounds of e^(m × 2^e) for a positive argument, as a pair of rationals with a power-of-two denominator 2^200, scaled by
2^k: e^y = 2^k × e^r. The argument is below 200, so 300 multiples of ln 2 suffice. -/
def expPos (m : Nat) (e : Int) : (Nat × Nat) × Nat :=
  let y := if 0 ≤ e + transBits then m * 2 ^ (e + transBits).toNat else m / 2 ^ (-(e + transBits)).toNat
  let k := y / ln2Hi
  let rHi := min (y + 1 - k * ln2Lo) (transOne - 1)
  let rLo := y - k * ln2Hi
  (((expUnit rLo).1, (expUnit rHi).2), k)

/-- Bounds of e^y for a finite y, as (lower numerator, lower denominator, upper numerator, upper denominator). -/
def expBounds (neg : Bool) (m : Nat) (e : Int) : (Nat × Nat) × (Nat × Nat) :=
  if m = 0 then ((1, 1), (1, 1))
  else if 8 ≤ flog2 m e then
    (if neg then ((0, 1), (1, 2 ^ 300)) else ((2 ^ 300, 1), (2 ^ 300, 1)))
  else
    let b := expPos m e
    if neg then ((transOne, b.1.2 * 2 ^ b.2), (transOne, b.1.1 * 2 ^ b.2))
    else ((b.1.1 * 2 ^ b.2, transOne), (b.1.2 * 2 ^ b.2, transOne))

/-- Two adjacent FP32 magnitude codes that bracket a value known by bounds: the lower one. -/
def bracketLow (b : (Nat × Nat) × (Nat × Nat)) : Nat := (floorF32 b.1.1 b.1.2).1

/-- num ÷ den, rounded to 24 bits with the exponent unbounded, is below the smallest normal FP32 value (R124). -/
def tinyRat (b : Nat × Nat) : Bool := b.1 * 2 ^ 151 < b.2 * (2 ^ 25 - 1)
/-- Deliver a bracketed magnitude: the lower code or the next one, as the open choice says; overflow gives infinity (R178).
Flags: NX, with UF when the exact result is tiny (R124). -/
def pickUp (neg : Bool) (low : Nat) (tiny up : Bool) : XVal × Flags :=
  if 0x7F7FFFFF < low ∨ (low = 0x7F7FFFFF ∧ up) then (.inf neg, { ovf := true, nx := true })
  else ((f32v (if up then low + 1 else low)).mul (.fin neg 1 0), { nx := true, uf := tiny })

/-- A subnormal FP32 input is replaced by zero of the same sign (R132). -/
def flushSub (c : Nat) : Nat := if (c / 2 ^ 23) % 256 = 0 then (c / 2 ^ 31) % 2 * 2 ^ 31 else c
/-- The input is subnormal. -/
def isSub32 (c : Nat) : Bool := (c / 2 ^ 23) % 256 = 0 && c % 2 ^ 23 ≠ 0

/-- EXP of an FP32 code after subnormal replacement (R178, Table 6.4). -/
def transExp (c : Nat) (up : Bool) : XVal × Flags :=
  match f32v c with
  | .nan => (.nan, { nv := true })
  | .inf n => (if n then .zero else .inf false, {})
  | .fin n m e =>
    if m = 0 then (.one, {}) else pickUp false (bracketLow (expBounds n m e)) (tinyRat (expBounds n m e).1) up

/-- LOG of an FP32 code: ln(m × 2^e) = ln(1 + f) + l·ln 2 with 1 ≤ 1 + f < 2, by 2·artanh(f ÷ (2 + f)). -/
def lnBounds (m : Nat) (e : Int) : Bool × (Nat × Nat) × (Nat × Nat) :=
  let l := flog2 m e
  let p := 2 ^ (Nat.log2 m)
  let z := (m - p) * transOne / (m + p)
  let s := lnSeries 140 0 (z * z / transOne) z
  let fLo : Int := s
  let fHi : Int := s + 2000
  let lo : Int := if 0 ≤ l then fLo + l * ln2Lo else fLo + l * ln2Hi
  let hi : Int := if 0 ≤ l then fHi + l * ln2Hi else fHi + l * ln2Lo
  if 0 ≤ lo then (false, (lo.toNat, transOne), (hi.toNat, transOne))
  else (true, ((-hi).toNat, transOne), ((-lo).toNat, transOne))

def transLog (c : Nat) (up : Bool) : XVal × Flags :=
  match f32v c with
  | .nan => (.nan, { nv := true })
  | .inf n => if n then (.nan, { nv := true }) else (.inf false, {})
  | .fin n m e =>
    if m = 0 then (.inf true, { ovf := true })
    else if n then (.nan, { nv := true })
    else if m = 2 ^ (Nat.log2 m) ∧ flog2 m e = 0 then (.zero, {})
    else
      let b := lnBounds m e
      pickUp b.1 (bracketLow b.2) false up

/-- A positive rational delivered as FP32: exact where representable, else one of the bracketing values. -/
def pickRat (neg : Bool) (num den : Nat) (up : Bool) : XVal × Flags :=
  let r := floorF32 num den
  if r.2 && r.1 ≤ 0x7F7FFFFF then ((f32v r.1).mul (.fin neg 1 0), {}) else pickUp neg r.1 (tinyRat (num, den)) up

/-- RCP of an FP32 code (R178, Table 6.4). -/
def transRcp (c : Nat) (up : Bool) : XVal × Flags :=
  match f32v c with
  | .nan => (.nan, { nv := true })
  | .inf n => (.fin n 0 0, {})
  | .fin n m e =>
    if m = 0 then (.inf n, { ovf := true })
    else if 0 ≤ e then pickRat n 1 (m * 2 ^ e.toNat) up else pickRat n (2 ^ (-e).toNat) m up

/-- RSQRT of an FP32 code (R178, Table 6.4): 1 ÷ √(m × 2^e), with e made even and the root taken at 2^128 precision. -/
def transRsqrt (c : Nat) (up : Bool) : XVal × Flags :=
  match f32v c with
  | .nan => (.nan, { nv := true })
  | .inf n => if n then (.nan, { nv := true }) else (.zero, {})
  | .fin n m e =>
    if m = 0 then (.inf n, { ovf := true })
    else if n then (.nan, { nv := true })
    else
      let m2 := if e % 2 = 0 then m else 2 * m
      let e2 := if e % 2 = 0 then e else e - 1
      let root := Nat.sqrt (m2 * 2 ^ 256)
      let exact := root * root = m2 * 2 ^ 256
      -- 1 ÷ √x = 2^128 ÷ root × 2^(−e2 ÷ 2)
      let h := e2 / 2
      let num := if 0 ≤ h then 2 ^ 128 else 2 ^ 128 * 2 ^ (-h).toNat
      let den := if 0 ≤ h then root * 2 ^ h.toNat else root
      if exact then pickRat false num den up
      else pickUp false (floorF32 num (den + (if 0 ≤ h then 2 ^ h.toNat else 1))).1 false up

/-! ## Activations (R164) -/

/-- Bounds of the logistic function of ±m × 2^e as rationals. -/
def sigmoidBounds (neg : Bool) (m : Nat) (e : Int) : (Nat × Nat) × (Nat × Nat) :=
  -- σ(u) = 1 ÷ (1 + e^−u)
  let b := expBounds (!neg) m e
  ((b.2.2, b.2.2 + b.2.1), (b.1.2, b.1.2 + b.1.1))

/-- Neighbouring codes from `hi − 1` on that lie within 2 ulp of a value between the codes `lo` and `hi + 1`; the ulp doubles
past a power of two. -/
def nearCount (lo hi : Nat) : Nat :=
  if lo = hi then (if (hi + 1) % 2 ^ 23 = 0 then 3 else 4) else if hi % 2 ^ 23 = 0 then 2 else 3
/-- Deliver a magnitude known by bounds within 2 ulp: one of at most four neighbouring finite codes, as the open choice says; a
result that rounds to zero is a zero of its sign, and one equal to the exact value raises nothing (R124, R127, R164). -/
def pickNear (act code : Nat) (neg : Bool) (b : (Nat × Nat) × (Nat × Nat)) : XVal × Flags :=
  let l := floorF32 b.1.1 b.1.2
  let hi := (floorF32 b.2.1 b.2.2).1
  if b.2.1 * 2 ^ 150 ≤ b.2.2 then (.fin neg 0 0, { nx := true, uf := true })
  else
    let c := min 0x7F7FFFFF (hi + Config.actPick act (BitVec.ofNat 32 code) % nearCount l.1 hi - 1)
    let exact := decide (b.1.1 * b.2.2 = b.2.1 * b.1.2) && l.2 && c = l.1
    ((f32v c).mul (.fin neg 1 0), { nx := !exact, uf := !exact && tinyRat b.1 })

/-- √(2 ÷ π) × 2 as bounds at working precision 2^64, for the tanh form of GELU (R164). -/
def geluLo : Nat := 29436744586989209808
def geluHi : Nat := 29436744586989209809

/-- A rational (num ÷ den)·2^… argument as a dyadic rounded down at 2^-300, for the bounds of σ. -/
def ratDown (num den : Nat) : Nat × Int := (num * 2 ^ 300 / den, -300)

/-- ACT codes 1 to 5 applied to an FP32 code y (Table 3.9, R164). -/
def activation (act y : Nat) : XVal × Flags :=
  match act, f32v y with
  | _, .nan => (.nan, { nv := true })
  | 1, .inf n => (if n then .zero else .inf false, {})
  | 1, .fin n m e => (if n || m = 0 then .zero else .fin false m e, {})
  | 4, .inf n => (if n then .zero else .one, {})
  | 4, .fin n m e => pickNear 4 y false (sigmoidBounds n m e)
  | 5, .inf n => (.fin n 1 0, {})
  | 5, .fin n m e =>
    if m = 0 then (.fin n 0 0, {})
    else
      -- tanh |x| = (e^2x − 1) ÷ (e^2x + 1) = x·(…); for |x| < 2^-12 the result is bracketed by x − x³/3 and x
      if flog2 m e < -12 then
        let num := m
        let den : Nat := 2 ^ (-e).toNat
        pickNear 5 y n ((num * (3 * den * den - num * num), 3 * den * den * den), (num, den))
      else
        let b := expBounds false m (e + 1)
        pickNear 5 y n ((b.1.1 - b.1.2, b.1.1 + b.1.2), (b.2.1 - b.2.2, b.2.1 + b.2.2))
  | 3, .inf n => (if n then .fin true 0 0 else .inf false, {})
  | 3, .fin n m e =>
    if m = 0 then (.fin n 0 0, {})
    else
      let b := sigmoidBounds n m e
      let xn := if 0 ≤ e then m * 2 ^ e.toNat else m
      let xd := if 0 ≤ e then 1 else 2 ^ (-e).toNat
      pickNear 3 y n ((xn * b.1.1, xd * b.1.2), (xn * b.2.1, xd * b.2.2))
  | 2, .inf n => (if n then .fin true 0 0 else .inf false, {})
  | 2, .fin n m e =>
    if m = 0 then (.fin n 0 0, {})
    else
      let xn := if 0 ≤ e then m * 2 ^ e.toNat else m
      let xd := if 0 ≤ e then 1 else 2 ^ (-e).toNat
      -- u = 2√(2/π)·(x + 0.044715 x³), |u| bounded below and above
      let pn := xn * (1000000 * xd * xd + 44715 * xn * xn)
      let pd := 1000000 * xd * xd * xd
      let uLo := ratDown (pn * geluLo) (pd * 2 ^ 64)
      let uHi0 := ratDown (pn * geluHi) (pd * 2 ^ 64)
      let uHi := (uHi0.1 + 1, uHi0.2)
      let bA := sigmoidBounds n uLo.1 uLo.2
      let bB := sigmoidBounds n uHi.1 uHi.2
      let low := if n then bB.1 else bA.1
      let high := if n then bA.2 else bB.2
      pickNear 2 y n ((xn * low.1, xd * low.2), (xn * high.1, xd * high.2))
  | _, v => (v, {})

end Sys2Proof.Machine
end

