-- ==== Sys2Proof/Machine/Sparge.lean ====
section
/-! DEFINITION. Sparge: DRAIN through the epilogue (R162 to R165) with the checksum comparisons (R166 to R170). Skive:
NARROW with the exponent histogram (R129 to R131). -/

namespace Sys2Proof.Machine

/-! ## DRAIN -/

def drGroup (d : BitVec 256) : Nat := fld d 216 4
def drRelease (d : BitVec 256) : Bool := bit d 220
def drBias (d : BitVec 256) : Bool := bit d 221
def drAct (d : BitVec 256) : Nat := fld d 222 4
def drScale (d : BitVec 256) : Nat := fld d 226 16
def drDirect (d : BitVec 256) : Nat := fld d 242 2
/-- Station that a direct DRAIN feeds (Table 3.9). -/
def drStation (d : BitVec 256) : Nat := match drDirect d with | 1 => 3 | 2 => 5 | _ => 7

/-- x of R162: the exact value, the running sum, ±∞ or NaN. -/
def entryVal (g : Group) (x : AccEntry) : XVal :=
  match x.st.toNat with
  | 0 => if g.mode = 0 && !g.mx then .ofDy x.int (-32) else (sumFmt g.mode g.fmt).val x.value.toNat
  | 1 => .inf false
  | 2 => .inf true
  | _ => .nan

/-- The epilogue of one entry: code in DFMT and flags (R162 to R164); `ex96` tells an EXACT96 value, which alone takes the
wider-integer row of Table 4.5 (R163). The bias is +0 when BIAS is clear. -/
def epilogue (d : BitVec 256) (ex96 : Bool) (x bias : XVal) : Nat × Flags :=
  let f := dDfmt d
  if (f = 8 || f = 9) && drScale d = 0x3F80 && !drBias d && drAct d = 0 then
    match x with
    | .fin n m e => if ex96 && exactAt m e 0 then
        narrowIntInt (fmtBits f) (dSatw d) (let v : Int := rneAt m e 0; if n then -v else v)
      else narrowInt (fmtBits f) (dSatw d) x
    | _ => narrowInt (fmtBits f) (dSatw d) x
  else
    let scaled := x.mul (elemVal 1 (drScale d))
    let y := f32 (scaled.add bias)
    let z := if drAct d = 0 then (f32v y.1, ({} : Flags)) else activation (drAct d) y.1
    let r := narrowVal f (dSat d) (dSatw d) z.1
    (r.1, (y.2.or z.2).or r.2)

/-- Exact sum of the values of entries. -/
def sumVals (l : List XVal) : XVal := xsum l

/-- CC_i or CR_j compared with an exact sum (R167 to R169): none is not compared, some tells whether it passes. -/
def ExSum.check (c : ExSum) (vals : List XVal) (tol : XVal) : Option Bool :=
  if c.st ≠ 0 || vals.any (fun v => !v.isFin) then none
  else some ((((sumVals vals).sub (.ofDy c.m c.e)).abs).le tol)

/-- Tolerance of a rounded row: (n + c) × 2^(1 − p) × MB_i; zero in EXACT96 (R167, R168). -/
def Core.rowTol (k : Core) (g : Group) (row : Nat) : XVal :=
  if g.mode = 0 && !g.mx then .zero
  else
    let mb := k.mash.mb.get {} row
    .ofDy ((k.mash.adds.get 0 row + sumConst g.mode : Nat) * mb.m) (mb.e + 1 - sumPrec g.mode g.fmt)

def Core.chkSkip (k : Core) : Core := k.modMash (fun m => { m with chkSkip := satAdd 16 m.chkSkip 1 })
def Core.chkFail (k : Core) : Core := k.modMash (fun m => { m with chkFail := satAdd 16 m.chkFail 1 })

/-- The row comparison of R167 and R168 over all 256 columns, each entry read checked (R140, R141): counters, and the fault. -/
def Core.compareRow (k : Core) (g : Group) (row : Nat) : Core × Option Nat :=
  if g.chk then
    let q := k.readCheck (g.mode = 0 && !g.mx) row 256
    match q.2 with
    | some code => (q.1, some code)
    | none =>
      match (q.1.mash.cc.get {} row).check ((List.range 256).map (fun j => entryVal g (q.1.acc row j))) (q.1.rowTol g row) with
      | none => (q.1.chkSkip, none)
      | some ok => if ok then (q.1, none) else (q.1.chkFail, some codeMashChecksum)
  else (k, none)

/-- The comparison of one column over the rows of its group (R167). -/
def Core.compareCol (k : Core) (gi : Nat) (g : Group) (j : Nat) : Option Bool :=
  (k.mash.cr.get {} (gi * 256 + j)).check ((List.range g.count).map (fun i => entryVal g (k.acc (g.base + i) j))) .zero
/-- Read every entry of the rows of a group with its checks (R140, R141): the first fault with its row. -/
def Core.readRows (k : Core) (g : Group) : Core × Option (Nat × Nat) :=
  (List.range g.count).foldl (fun (a : Core × Option (Nat × Nat)) i =>
    let q := a.1.readCheck (g.mode = 0 && !g.mx) (g.base + i) 256
    (q.1, a.2.or (q.2.map (fun code => (code, g.base + i))))) (k, none)
/-- The column comparisons as the last row of an EXACT96 group is released (R167): every column is compared and counted; the
fault with the first failing column, if any. -/
def Core.compareCols (k : Core) (gi : Nat) (g : Group) : Core × Option (Nat × Nat) :=
  if g.chk && g.mode = 0 && !g.mx then
    let q := k.readRows g
    match q.2 with
    | some f => (q.1, some f)
    | none =>
      (List.range 256).foldl (fun (a : Core × Option (Nat × Nat)) j =>
        match q.1.compareCol gi g j with
        | none => (a.1.chkSkip, a.2)
        | some ok => if ok then a else (a.1.chkFail, a.2.or (some (codeMashChecksum, j)))) (q.1, none)
  else (k, none)

/-- Release one drained row; with the last row of the range the columns are compared and the group closes (R155, R167,
R170). The answer is the fault with its row or column, if any. -/
def Core.releaseRow (k : Core) (gi row : Nat) : Core × Option (Nat × Nat) :=
  let g := k.group gi
  let rel := insertSet row g.released
  if rel.length = g.count then
    let q := k.compareCols gi g
    match q.2 with
    | some f => (q.1, some f)
    | none => ((q.1.setGroup gi { g with released := rel }).closeGroup gi, none)
  else ((k.clearRowLive (fun r => r = row)).setGroup gi { g with released := rel }, none)

/-- Drain one row: checks, epilogue, the write or the direct path, the comparison, the release (R140, R141, R155 to R170). -/
def Mv.drainRow (m : Mv) (c : Nat) (x : Slot) (bias : List Nat) (i : Nat) : Mv :=
  m.andThen (fun s =>
    let d := x.desc
    let row := x.srcBase + i * dSstr d
    let k := s.core c
    let gi := drGroup d
    let g := k.group gi
    let q := k.readCheck (g.mode = 0 && !g.mx) row (dCols d)
    match q.2 with
    | some code => { s := s.setCore c q.1, stop := some (code, row) }
    | none =>
      let rs := (List.range (dCols d)).map (fun j => epilogue d (g.mode = 0 && !g.mx) (entryVal g (q.1.acc row j)) (f32v (bias.getD j 0)))
      let s1 := s.setCore c (q.1.raise 2 (rs.foldl (fun a r => a.or r.2) {}))
      let m1 : Mv := if dDspace d = 0 then
          ({ s := s1 } : Mv).writeRow c 0 [] (rowAddr 0 x.dstBase (dDstr d) i) (dDfmt d) (rs.map (·.1))
        else { s := s1.modCore c (fun k => k.feed (drStation d) 0 (rs.map (·.1))) }
      m1.andThen (fun s =>
        let u := (s.core c).compareRow g row
        match u.2 with
        | some code => { s := s.setCore c u.1, stop := some (code, row) }
        | none =>
          if drRelease d then
            let v := u.1.releaseRow gi row
            { s := s.setCore c v.1, stop := v.2 }
          else { s := s.setCore c u.1 }))

/-- Faults at acceptance of a DRAIN (R155). -/
def Core.drainFault (k : Core) (x : Slot) : Option Nat :=
  let g := k.group (drGroup x.desc)
  let n := dTiles x.desc * dRows x.desc
  if !g.isOpen then some codeGroupClosed
  else if x.srcBase < g.base || g.base + g.count ≤ x.srcBase + (n - 1) * dSstr x.desc then some codeGroupRange
  else none

/-- The bias row of a DRAIN (Table 3.9). -/
def Mv.drainBias (m : Mv) (c : Nat) (x : Slot) : Mv × List Nat :=
  if drBias x.desc then m.readRow c 0 [] false (256 * x.auxBase) 0 (dCols x.desc) else (m, [])

/-! ## NARROW -/

/-- Clear the histogram and load the window base (R131). -/
def Vec.histStart (v : Vec) (d : BitVec 256) : Vec :=
  if bit d 216 && bit d 225 then { v with hist := [], expBase := BitVec.ofNat 8 (fld d 217 8) } else v
/-- Count a presented row in the window with base `base` (R129, R130). -/
def Vec.histRow (v : Vec) (base : BitVec 8) (fmt : Nat) (cs : List Nat) (xs : List XVal) : Vec :=
  { v with hist := (cs.zip xs).foldl (fun h p => histCount h (histBin base.toInt (elemSubnormal fmt p.1) p.2)) v.hist }

/-- Codes, scales and flags of a row narrowed to DFMT (R110 to R124). -/
def narrowRow (d : BitVec 256) (xs : List XVal) : List Nat × List Nat × Flags :=
  let f := dDfmt d
  if isMx f then mxRow f xs
  else
    let rs := xs.map (convert (dSfmt d) f (dSat d) (dSatw d))
    (rs.map (·.1), [], rs.foldl (fun a r => a.or r.2) {})

/-- Elements of an MX row with their scales, for a direct path. -/
def withScales (fmt : Nat) (cs scales : List Nat) : List Nat :=
  if isMx fmt then cs.zipIdx.map (fun p => p.1 + 256 * scales.getD (p.2 / 32) 0xFF) else cs

/-- One row of a NARROW. -/
def Mv.narrowOne (m : Mv) (c : Nat) (x : Slot) (i : Nat) : Mv :=
  let d := x.desc
  let q : Mv × List Nat := if dSspace d = 3 then
      (m.mod (fun s => s.setCore c ((s.core c).takePath 3 (dCols d)).1), ((m.s.core c).takePath 3 (dCols d)).2)
    else m.readRow c 0 [] (dLast d) (rowAddr 0 x.srcBase (dSstr d) i) (dSfmt d) (dCols d)
  let xs := q.2.map (elemVal (dSfmt d))
  let r := narrowRow d xs
  let m1 := q.1.mod (fun s => s.modCore c (fun k =>
    ({ k with vec := if bit d 216 then k.vec.histRow x.expBase (dSfmt d) q.2 xs else k.vec }).raise 3 r.2.2))
  if dDspace d = 0 then
    m1.writeRowMx c 0 [] (rowAddr 0 x.dstBase (dDstr d) i) (dDfmt d) r.1 (scaleAddr 0 x.auxBase (fld d 226 10) i) r.2.1
  else m1.mod (fun s => s.modCore c (fun k => k.feed 6 (dDfmt d) (withScales (dDfmt d) r.1 r.2.1)))

/-- HIST_CLR: a write of HIST_CTL.CLR clears the bins at once (R131). -/
def execHistClr (c : CoreId) (s : State) : Host.Outcome State Fault Refusal :=
  .next (s.modCore c.val (fun k => { k with vec := { k.vec with hist := [] } }))

end Sys2Proof.Machine
end

