-- ==== Sys2Proof/Machine/Kettle.lean ====
section
/-! DEFINITION. Kettle (chapter 6): the operand block, the element-wise operations of Table 6.3, the transcendental unit,
long registers and long tiles, the random operations, and the update kernels of R258 and R259. -/

namespace Sys2Proof.Machine

def vKop (d : BitVec 256) : Nat := fld d 216 16
def vLreg (d : BitVec 256) : Nat := fld d 232 5
def vPsid (d : BitVec 256) : Nat := fld d 237 16

/-! ## The operand block (Table 6.2) -/

/-- An O entry. -/
structure OEntry where
  line : Nat
  str : Nat
  fmt : Nat
  out : Bool
  used : Bool
  zeroOk : Bool
  deriving DecidableEq, Repr

/-- The operand block as fields. -/
structure KBlock where
  o : List OEntry := []
  p : List Nat := []
  idxBase : Nat := 0
  idxRstr : Nat := 0
  deg : Nat := 0
  lre : Int := 0
  zeroOk : Bool := true
  deriving DecidableEq, Repr

def oEntryOf (w : Nat) : OEntry :=
  { line := w % 2 ^ 17, str := (w >>> 17) % 2 ^ 16, fmt := (w >>> 33) % 32, out := (w >>> 38) % 2 = 1,
    used := (w >>> 39) % 2 = 1, zeroOk := w >>> 40 = 0 }
def blockOf (bs : List Byte) : KBlock :=
  let at_ := fun (a n : Nat) => bytesNat ((bs.drop a).take n)
  { o := (List.range 4).map (fun i => oEntryOf (at_ (8 * i) 8))
    p := (List.range 16).map (fun i => at_ (32 + 4 * i) 4)
    idxBase := at_ 96 8, idxRstr := at_ 104 8, deg := at_ 112 1, lre := toSigned 16 (at_ 114 2)
    zeroOk := at_ 113 1 = 0 && at_ 116 140 = 0 }
def KBlock.pv (b : KBlock) (i : Nat) : XVal := f32v (b.p.getD i 0)

/-- Formats that a floating-point KOP widens (R176). -/
def floatIn (f : Nat) : Bool := f ≤ 7 || f = 9 || f = 11 || f = 12
/-- Destination formats of a floating-point KOP (R176). -/
def floatOut (f : Nat) : Bool := f = 0 || f = 1 || f = 2 || f = 8 || f = 9

/-- The O entries a KOP takes, in order: output or input, the formats it can take, columns per column of A (Tables 6.3, 9.2). -/
def kNeeds (kop : Nat) : List (Bool × (Nat → Bool) × Nat) :=
  match kop with
  | 0x0001 | 0x0002 | 0x0003 | 0x0005 | 0x0006 | 0x0007 | 0x0010 | 0x0011 | 0x0012 | 0x0043 => [(false, floatIn, 1)]
  | 0x0004 => [(false, floatIn, 1), (false, floatIn, 1)]
  | 0x0013 => [(false, fun f => f = 9, 1), (false, floatIn, 1)]
  | 0x0030 | 0x0031 => [(false, fun f => f = 8, 1)]
  | 0x0060 => [(false, fun f => f = 0, 1), (false, fun f => f = 0, 2), (true, fun f => f = 0, 2), (true, fun f => f = 1, 1)]
  | 0x0061 | 0x0062 =>
    [(false, fun f => f = 0, 1), (false, fun f => f = 0, 1), (true, fun f => f = 0, 1), (true, fun f => f = 1, 1)]
  | _ => []
/-- The KOP uses O entries, parameters or index fields, so a[AS] names an operand block (R173). -/
def kUsesBlock (kop : Nat) : Bool :=
  !(kNeeds kop).isEmpty || kop = 0x000B || kop = 0x0033 || kop = 0x0040 || kop = 0x0050 || kop = 0x0051 || kop = 0x0052

/-- A positive power of two. -/
def posPow2 (x : XVal) : Bool := match x with | .fin n m _ => !n && m ≠ 0 && m = 2 ^ (Nat.log2 m) | _ => false
/-- The block has one of the defects of R174, R179, R191 and R258. -/
def blockBad (kop : Nat) (b : KBlock) : Bool :=
  let needs := kNeeds kop
  !b.zeroOk || 15 < b.deg ||
  (List.range 4).any (fun i =>
    match b.o[i]? with
    | none => false
    | some e =>
      match needs[i]? with
      | some n => !e.used || !e.zeroOk || !fmtDefined e.fmt || e.out != n.1 || !n.2.1 e.fmt
      | none => e.used || !e.zeroOk) ||
  (kop = 0x0033 && !posPow2 (b.pv 0)) ||
  (kop = 0x0040 && (b.lre < -1024 || 1023 < b.lre)) ||
  (kop = 0x0052 && !(XVal.zero.le (b.pv 0) && (b.pv 0).le .one))

/-- Read the operand block at acceptance (R174). -/
def Mv.readBlock (m : Mv) (c kop aux : Nat) : Mv :=
  if kUsesBlock kop then
    let q := m.readSp c [] false (256 * aux) 256
    q.1.andThen (fun s =>
      if blockBad kop (blockOf q.2) then { s := s, stop := some (codeKettleOpnd, aux) }
      else { s := s.modCore c (fun k => { k with vec := { k.vec with block := q.2 } }) })
  else m
/-- The operand block that Kettle has read for the VECTOR it has accepted; empty where the KOP uses none (R173, R174). -/
def Core.kBlock (k : Core) (kop : Nat) : KBlock := if kUsesBlock kop then blockOf k.vec.block else {}

/-! ## Overlap of outputs and inputs (R175) -/

/-- A region of rows in scratchpad: base line, row stride, element bits, bytes per row; `first` when only row 0 is accessed. -/
structure KRegion where
  base : Nat
  str : Nat
  bits : Nat
  bytes : Nat
  first : Bool := false
  deriving DecidableEq, Repr

def KRegion.lines (r : KRegion) (rows : Nat) : List Nat :=
  (List.range (if r.first then min 1 rows else rows)).flatMap (fun i => linesOf (256 * (r.base + i * r.str)) r.bytes)
/-- Output lines of the first `wrote` of `rows` rows that overlap an input other than by exact coincidence. -/
def overlapLines (wrote rows : Nat) (outs ins : List KRegion) : List Nat :=
  (outs.flatMap (fun o => ins.flatMap (fun i =>
    if o.base = i.base ∧ o.str = i.str ∧ o.bits = i.bits then []
    else (o.lines wrote).filter (fun l => (i.lines rows).contains l)))).dedup
/-- A tile operand as a region. -/
def tileRegion (base str fmt cols : Nat) : KRegion := { base := base, str := str, bits := fmtBits fmt, bytes := rowBytes fmt cols }
/-- Lines of a long-tile row (R185). -/
def longBytes (cols : Nat) : Nat := 256 * cdiv cols 6
/-- The O entries of a stream as regions, outputs or inputs. -/
def oRegions (kop : Nat) (b : KBlock) (cols : Nat) (out : Bool) : List KRegion :=
  ((kNeeds kop).zip b.o).filterMap (fun p => if p.1.1 = out then some (tileRegion p.2.line p.2.str p.2.fmt (cols * p.1.2.2)) else none)

/-! ## Running a VECTOR stream -/

def Core.modVec (k : Core) (f : Vec → Vec) : Core := { k with vec := f k.vec }
/-- Count processed elements (Table 6.9). -/
def State.countElems (s : State) (c n : Nat) : State := s.modCore c (fun k => k.modVec (fun v => { v with elems := v.elems + n }))

/-- Kettle accepts a VECTOR stream: it reads the operand block and takes the seed and step of its random numbers (R174, R189,
R258). -/
def State.kettleStart (s : State) (c n kop : Nat) (x : Slot) : Mv :=
  let m := ({ s := s } : Mv).readBlock c kop x.auxBase
  (if 0x0060 ≤ kop && dSfmt x.desc ≠ 0 then m.halt codeKettleOpnd x.auxBase else m).mod (fun s =>
    s.modCore c (fun k => k.modSlot n (fun y => { y with seed := k.vec.seed, kStep := k.vec.step })))
/-- The end of a VECTOR's movement: the lines that a forbidden overlap leaves unspecified, as far as they were written, and the count
of its elements (R175, Table 6.9). -/
def State.kettleEnd (m : Mv) (c n kop : Nat) (x : Slot) (b : KBlock) (outs ins : BitVec 256 → Slot → List KRegion) : State :=
  let d := x.desc
  let rows := dTiles d * dRows d
  let lines := overlapLines (if m.stop.isNone then rows else m.rows) rows (outs d x ++ oRegions kop b (dCols d) true)
    (ins d x ++ oRegions kop b (dCols d) false)
  (({ m with s := m.s.scramble c lines } : Mv).mod (fun s => s.countElems c (dElems d))).finish c n
/-- Kettle runs a VECTOR stream with the given KOP: its acceptance, its input, the movement, the unspecified lines of a forbidden
overlap (R54, R99, R173 to R177, R546). -/
def State.kettleRun (s : State) (r : StreamRef) (kop : Nat) (outs ins : BitVec 256 → Slot → List KRegion)
    (body : State → Slot → KBlock → Mv) : State :=
  let c := r.core.val
  let n := r.slot.val
  s.pathRun c n 4 (fun d => kindOf d = 5 && vKop d = kop) (fun s x => s.kettleStart c n kop x) (fun s x =>
    let b := (s.core c).kBlock kop
    State.kettleEnd (body s x b) c n kop x b outs ins)

/-- The destination tile, and input A in scratchpad, as regions. -/
def outD (d : BitVec 256) (x : Slot) : List KRegion := [tileRegion x.dstBase (dDstr d) (dDfmt d) (dCols d)]
def inA (d : BitVec 256) (x : Slot) : List KRegion :=
  if dSspace d = 0 then [tileRegion x.srcBase (dSstr d) (dSfmt d) (dCols d)] else []
def noRegion (_ : BitVec 256) (_ : Slot) : List KRegion := []

/-- Codes of row `i` of input A. -/
def Mv.readA (m : Mv) (c : Nat) (x : Slot) (i : Nat) : Mv × List Nat :=
  let d := x.desc
  if dSspace d = 3 then
    (m.mod (fun s => s.setCore c ((s.core c).takePath 4 (dCols d)).1), ((m.s.core c).takePath 4 (dCols d)).2)
  else m.readRow c 0 [] (dLast d) (rowAddr 0 x.srcBase (dSstr d) i) (dSfmt d) (dCols d)
/-- Codes of row `i` of an O input of `n` columns; none reads as an empty row. -/
def Mv.readO (m : Mv) (c : Nat) (b : KBlock) (j i n : Nat) : Mv × List Nat :=
  match b.o[j]? with
  | some e => m.readRow c 0 [] false (rowAddr 0 e.line e.str i) e.fmt n
  | none => (m, [])
def oFmt (b : KBlock) (j : Nat) : Nat := match b.o[j]? with | some e => e.fmt | none => 0
/-- Write row `i` of D. -/
def Mv.writeD (m : Mv) (c : Nat) (x : Slot) (i : Nat) (cs : List Nat) : Mv :=
  m.writeRow c 0 [] (rowAddr 0 x.dstBase (dDstr x.desc) i) (dDfmt x.desc) cs
/-- Write row `i` of an O output. -/
def Mv.writeO (m : Mv) (c : Nat) (b : KBlock) (j i : Nat) (cs : List Nat) : Mv :=
  match b.o[j]? with
  | some e => m.writeRow c 0 [] (rowAddr 0 e.line e.str i) e.fmt cs
  | none => m

/-- The writing of one more row begins. -/
def Mv.rowBegun (m : Mv) : Mv := match m.stop with | some _ => m | none => { m with rows := m.rows + 1 }
/-- The rows of a stream: every input row is read before a row is written, so that output lines outside an overlap with the
inputs are right (R175); rows before a fault are written (R74). -/
def Mv.rowsThen {α : Type} (m : Mv) (d : BitVec 256) (rd : Mv → Nat → Mv × α) (wr : Mv → Nat → α → Mv) : Mv :=
  let q := (List.range (dTiles d * dRows d)).foldl (fun (a : Mv × List α) i =>
    match a.1.stop with
    | some _ => a
    | none => let r := rd a.1 i; if r.1.stop.isSome then (r.1, a.2) else (r.1, a.2 ++ [r.2])) (m, [])
  let w := (q.2.zipIdx).foldl (fun m p => (wr m.rowBegun p.2 p.1).rowDone d p.2) { q.1 with stop := none }
  match w.stop with | some _ => w | none => { w with stop := q.1.stop }

/-- What one element's operation may use: the descriptor, the block, the values of A, O1 and O2 and the Philox word. -/
structure KElem where
  d : BitVec 256
  b : KBlock
  a : XVal
  bv : XVal
  cv : XVal
  word : Nat
  deriving DecidableEq, Repr

/-- Result code, flags, and subnormal inputs replaced by the transcendental unit. -/
structure KOut where
  code : Nat
  flags : Flags := {}
  sub : Nat := 0
  deriving DecidableEq, Repr

/-- Philox index of an element (R189). -/
def philoxIndex (b : KBlock) (row col : Nat) : Nat := (b.idxBase + row * b.idxRstr + col) % 2 ^ 64

/-- An element-wise KOP: row by row, each element from A, O1 and O2 into D (R173, R175, R177). `o1`, `o2` and `ra` say which
operands are read. -/
def State.elemMove (s : State) (c : Nat) (x : Slot) (b : KBlock) (ra o1 o2 : Bool) (f : KElem → KOut) : Mv :=
  let d := x.desc
  let n := dCols d
  let seed := x.seed.toNat
  let step := x.kStep.toNat
  ({ s := s } : Mv).rowsThen d
    (fun m i =>
      let qa := if ra then m.readA c x i else (m, [])
      let qb := if o1 then qa.1.readO c b 0 i n else (qa.1, [])
      let qc := if o2 then qb.1.readO c b 1 i n else (qb.1, [])
      (qc.1, (List.range n).map (fun j => f
        { d := d, b := b, a := elemVal (dSfmt d) (qa.2.getD j 0), bv := elemVal (oFmt b 0) (qb.2.getD j 0),
          cv := elemVal (oFmt b 1) (qc.2.getD j 0), word := philoxWord0 seed (vPsid d) step (philoxIndex b i j) })))
    (fun m i rs =>
      (m.mod (fun s => s.modCore c (fun k =>
        (k.raise 4 (rs.foldl (fun a r => a.or r.flags) {})).modVec (fun v =>
          { v with transSub := satAdd 16 v.transSub (rs.foldl (fun a r => a + r.sub) 0) })))).writeD c x i (rs.map (·.code)))

/-- Run an element-wise KOP. -/
def State.kettleElem (s : State) (r : StreamRef) (kop : Nat) (ra o1 o2 : Bool) (f : KElem → KOut) : State :=
  s.kettleRun r kop outD (if ra then inA else noRegion) (fun s x b => s.elemMove r.core.val x b ra o1 o2 f)

/-- Round an exact value once into DFMT (R176). -/
def KElem.put (e : KElem) (v : XVal) : KOut :=
  let r := narrowVal (dDfmt e.d) (dSat e.d) (dSatw e.d) v
  { code := r.1, flags := r.2 }
/-- Round into DFMT after an earlier rounding with its flags. -/
def KElem.put2 (e : KElem) (r0 : XVal × Flags) : KOut :=
  let r := e.put r0.1
  { r with flags := r0.2.or r.flags }
/-- The lesser or greater of two values, −0 below +0, NaN if either is NaN (Table 6.3). -/
def xmin (x y : XVal) : XVal :=
  if x.isNan || y.isNan then .nan else if x.cmp y < 0 then x else if y.cmp x < 0 then y else if x.isNeg then x else y
def xmax (x y : XVal) : XVal :=
  if x.isNan || y.isNan then .nan else if x.cmp y < 0 then y else if y.cmp x < 0 then x else if x.isNeg then y else x
/-- Horner's rule from the coefficient of the highest power, P_DEG, down to P0; each inner step rounded once to FP32 (R176;
DEDUCED, log entry 18). -/
def horner (b : KBlock) (a : XVal) : Nat → XVal → Flags → XVal × Flags
  | 0, acc, f => (acc, f)
  | n + 1, acc, f =>
    let v := (acc.mul a).add (b.pv n)
    if n = 0 then (v, f)
    else let r := f32 v; horner b a n (f32v r.1) (f.or r.2)
/-- A comparison result: 1 or 0, without flags. -/
def cmpOut (p : Bool) : KOut := { code := b2n p }
/-- FP32 input of the transcendental unit with subnormals replaced (R132, R178). -/
def KElem.trans (e : KElem) (f : Nat → XVal × Flags) : KOut :=
  let c := (f32 e.a).1
  { e.put2 (f (flushSub c)) with sub := b2n (isSub32 c) }

def execKettleAdd (r : StreamRef) (s : State) : Host.Outcome State Fault Refusal :=
  .next (s.kettleElem r 0x0001 true true false (fun e => e.put (e.a.add e.bv)))
def execKettleSub (r : StreamRef) (s : State) : Host.Outcome State Fault Refusal :=
  .next (s.kettleElem r 0x0002 true true false (fun e => e.put (e.a.sub e.bv)))
def execKettleMul (r : StreamRef) (s : State) : Host.Outcome State Fault Refusal :=
  .next (s.kettleElem r 0x0003 true true false (fun e => e.put (e.a.mul e.bv)))
def execFma (r : StreamRef) (s : State) : Host.Outcome State Fault Refusal :=
  .next (s.kettleElem r 0x0004 true true true (fun e => e.put ((e.a.mul e.bv).add e.cv)))
def execAxpby (r : StreamRef) (s : State) : Host.Outcome State Fault Refusal :=
  .next (s.kettleElem r 0x0005 true true false (fun e => e.put (((e.b.pv 0).mul e.a).add ((e.b.pv 1).mul e.bv))))
def execKettleMin (r : StreamRef) (s : State) : Host.Outcome State Fault Refusal :=
  .next (s.kettleElem r 0x0006 true true false (fun e => e.put (xmin e.a e.bv)))
def execKettleMax (r : StreamRef) (s : State) : Host.Outcome State Fault Refusal :=
  .next (s.kettleElem r 0x0007 true true false (fun e => e.put (xmax e.a e.bv)))
def execAbs (r : StreamRef) (s : State) : Host.Outcome State Fault Refusal :=
  .next (s.kettleElem r 0x0008 true false false (fun e => e.put e.a.abs))
def execNeg (r : StreamRef) (s : State) : Host.Outcome State Fault Refusal :=
  .next (s.kettleElem r 0x0009 true false false (fun e => e.put e.a.neg))
/-- CVT: between FP32, BF16, FP16, INT32 and INT8; integer to integer takes the wider-integer row of Table 4.5. -/
def execCvt (r : StreamRef) (s : State) : Host.Outcome State Fault Refusal :=
  .next (s.kettleElem r 0x000A true false false (fun e =>
    let q := convert (dSfmt e.d) (dDfmt e.d) (dSat e.d) (dSatw e.d) e.a
    { code := q.1, flags := q.2 }))
def execPoly (r : StreamRef) (s : State) : Host.Outcome State Fault Refusal :=
  .next (s.kettleElem r 0x000B true false false (fun e => e.put2 (horner e.b e.a e.b.deg (e.b.pv e.b.deg) {})))
def execCmplt (r : StreamRef) (s : State) : Host.Outcome State Fault Refusal :=
  .next (s.kettleElem r 0x0010 true true false (fun e => cmpOut (e.a.lt e.bv)))
def execCmple (r : StreamRef) (s : State) : Host.Outcome State Fault Refusal :=
  .next (s.kettleElem r 0x0011 true true false (fun e => cmpOut (e.a.le e.bv)))
def execCmpeq (r : StreamRef) (s : State) : Host.Outcome State Fault Refusal :=
  .next (s.kettleElem r 0x0012 true true false (fun e => cmpOut (e.a.eqv e.bv)))
def execSel (r : StreamRef) (s : State) : Host.Outcome State Fault Refusal :=
  .next (s.kettleElem r 0x0013 true true true (fun e => e.put (if e.bv.isZero then e.cv else e.a)))
/-- EXP, LOG, RCP and RSQRT: the FP32 result of the transcendental unit, rounded once into DFMT (R178). -/
def execExp (r : StreamRef) (s : State) : Host.Outcome State Fault Refusal :=
  .next (s.kettleElem r 0x0020 true false false (fun e => e.trans (fun c => transExp c (Config.expUp (BitVec.ofNat 32 c)))))
def execLog (r : StreamRef) (s : State) : Host.Outcome State Fault Refusal :=
  .next (s.kettleElem r 0x0021 true false false (fun e => e.trans (fun c => transLog c (Config.logUp (BitVec.ofNat 32 c)))))
def execRcp (r : StreamRef) (s : State) : Host.Outcome State Fault Refusal :=
  .next (s.kettleElem r 0x0022 true false false (fun e => e.trans (fun c => transRcp c (Config.rcpUp (BitVec.ofNat 32 c)))))
def execRsqrt (r : StreamRef) (s : State) : Host.Outcome State Fault Refusal :=
  .next (s.kettleElem r 0x0023 true false false (fun e => e.trans (fun c => transRsqrt c (Config.rsqrtUp (BitVec.ofNat 32 c)))))

/-- The integer of an integer element. -/
def XVal.toI (x : XVal) : Int := match x with | .fin n m e => alignTo n m e 0 | _ => 0
def execIadd (r : StreamRef) (s : State) : Host.Outcome State Fault Refusal :=
  .next (s.kettleElem r 0x0030 true true false (fun e =>
    let q := narrowIntInt 32 (dSatw e.d) (e.a.toI + e.bv.toI)
    { code := q.1, flags := q.2 }))
def execImax (r : StreamRef) (s : State) : Host.Outcome State Fault Refusal :=
  .next (s.kettleElem r 0x0031 true true false (fun e => { code := ofSigned 32 (max e.a.toI e.bv.toI) }))
def execScalei (r : StreamRef) (s : State) : Host.Outcome State Fault Refusal :=
  .next (s.kettleElem r 0x0033 true false false (fun e => e.put (e.a.mul (e.b.pv 0))))
def execRandb (r : StreamRef) (s : State) : Host.Outcome State Fault Refusal :=
  .next (s.kettleElem r 0x0050 false false false (fun e => { code := e.word }))
def execRandu (r : StreamRef) (s : State) : Host.Outcome State Fault Refusal :=
  .next (s.kettleElem r 0x0051 false false false (fun e => e.put (.fin false (e.word / 256) (-24))))
/-- DROPOUT (R191). -/
def execDropout (r : StreamRef) (s : State) : Host.Outcome State Fault Refusal :=
  .next (s.kettleElem r 0x0052 true false false (fun e =>
    let t : Nat := match e.b.pv 0 with | .fin _ m x => rneAt m (x + 24) 0 | _ => 0
    if t ≤ e.word / 256 then e.put (e.a.mul (e.b.pv 1)) else { code := 0 }))

/-! ## I64ACC and MAXEXP -/

/-- I64ACC: D = D + A, 64-bit two's complement, wrapping, row by row of D, so that rows of D that share lines add up (Table 6.3;
log entry 87). -/
def State.i64Move (s : State) (c : Nat) (x : Slot) : Mv :=
  let d := x.desc
  ({ s := s } : Mv).rowsThen d (fun m i => m.readA c x i)
    (fun m i as =>
      let qd := m.readSp c [] false (rowAddr 0 x.dstBase (dDstr d) i) (8 * dCols d)
      qd.1.writeSp c [] (rowAddr 0 x.dstBase (dDstr d) i) ((List.range (dCols d)).flatMap (fun j =>
        natBytes 8 (ofSigned 64 (toSigned 64 (bytesNat ((qd.2.drop (8 * j)).take 8)) + toSigned 32 (as.getD j 0))))))
def execI64acc (r : StreamRef) (s : State) : Host.Outcome State Fault Refusal :=
  .next (s.kettleRun r 0x0032 (fun d x => [{ base := x.dstBase, str := dDstr d, bits := 64, bytes := 8 * dCols d }]) inA
    (fun s x _ => s.i64Move r.core.val x))

/-- MAXEXP: one INT32 at element (0, 0) of D's tile 0 (Table 6.3). -/
def State.maxexpMove (s : State) (c : Nat) (x : Slot) : Mv :=
  let d := x.desc
  let q := (List.range (dTiles d * dRows d)).foldl (fun (a : Mv × Option Int) i =>
    let r := a.1.readA c x i
    let l := blockLog (r.2.map (elemVal (dSfmt d)))
    (r.1, match a.2, l with | some u, some v => some (max u v) | some u, none => some u | none, v => v)) (({ s := s } : Mv), none)
  q.1.writeSp c [] (256 * x.dstBase) (natBytes 4 (ofSigned 32 (q.2.getD (-2147483648))))
def execMaxexp (r : StreamRef) (s : State) : Host.Outcome State Fault Refusal :=
  .next (s.kettleRun r 0x0034 (fun d x => [{ base := x.dstBase, str := dDstr d, bits := 32, bytes := 4, first := true }]) inA
    (fun s x _ => s.maxexpMove r.core.val x))

/-! ## Long registers (R179 to R184) -/

def Core.lr (k : Core) (n : Nat) : LongReg := k.vec.lr.get {} n
def Core.setLr (k : Core) (n : Nat) (x : LongReg) : Core := k.modVec (fun v => { v with lr := v.lr.set n x })
/-- Signed 320-bit reading. -/
def wrap320 (v : Int) : Int := toSigned 320 (ofSigned 320 v)

/-- Apply one contribution (R180): the register, the flags, and whether it truncated. An update after which STATE is NAN raises
NV (R127, R152). -/
def LongReg.take (x : LongReg) (v : XVal) : LongReg × Flags × Bool :=
  let x1 := { x with count := x.count + 1 }
  match v with
  | .nan => ({ x1 with st := stMove x.st 3, v := 0 }, { nv := true }, false)
  | .inf n => ({ x1 with st := stMove x.st (if n then 2 else 1), v := 0 }, { nv := stMove x.st (if n then 2 else 1) = 3 }, false)
  | .fin n m e =>
    if m ≠ 0 ∧ x.e + 288 ≤ flog2 m e then
      let st := stMove x.st (if n then 2 else 1)
      ({ x1 with st := st, v := 0 }, { ovf := true, nx := true, nv := st = 3 }, false)
    else
      let cut := !exactAt m e x.e
      let v1 := if x.st = 0 then wrap320 (x.v + XVal.toUnits x.e v) else 0
      ({ x1 with v := v1, trunc := x.trunc || cut }, { nx := cut, nv := x.st = 3 }, cut)

/-- A reduction into LREG: contributions in order, with the limit of R181; `two` reads O1 as well. -/
def State.lrMove (s : State) (c : Nat) (x : Slot) (b : KBlock) (two : Bool) (f : XVal → XVal → XVal) : Mv :=
  let d := x.desc
  let n := vLreg d
  let q := (List.range (dTiles d * dRows d)).foldl (fun (a : Mv × Bool) i =>
    let qa := a.1.readA c x i
    let qb := if two then qa.1.readO c b 0 i (dCols d) else (qa.1, [])
    (List.range (dCols d)).foldl (fun (a : Mv × Bool) j =>
      match a.1.stop with
      | some _ => a
      | none =>
        let l := (a.1.s.core c).lr n
        if 2 ^ 31 ≤ l.count then (a.1.halt codeLrLength (i * dCols d + j), a.2)
        else
          let r := l.take (f (elemVal (dSfmt d) (qa.2.getD j 0)) (elemVal (oFmt b 0) (qb.2.getD j 0)))
          (a.1.mod (fun s => s.modCore c (fun k => (k.setLr n r.1).raise 4 r.2.1)), a.2 || r.2.2)) (qb.1, a.2))
    (({ s := s } : Mv), false)
  if q.2 then { q.1 with s := q.1.s.modCore c (fun k => k.modVec (fun v => { v with lrTrunc := satAdd 16 v.lrTrunc 1 })) } else q.1

def execLrclr (r : StreamRef) (s : State) : Host.Outcome State Fault Refusal :=
  .next (s.kettleRun r 0x0040 noRegion noRegion (fun s x b =>
    { s := s.modCore r.core.val (fun k => k.setLr (vLreg x.desc) { v := 0, e := b.lre, st := 0, trunc := false, count := 0 }) }))
def execSum (r : StreamRef) (s : State) : Host.Outcome State Fault Refusal :=
  .next (s.kettleRun r 0x0041 noRegion inA (fun s x b => s.lrMove r.core.val x b false (fun a _ => a)))
def execSumsq (r : StreamRef) (s : State) : Host.Outcome State Fault Refusal :=
  .next (s.kettleRun r 0x0042 noRegion inA (fun s x b => s.lrMove r.core.val x b false (fun a _ => a.mul a)))
def execDot (r : StreamRef) (s : State) : Host.Outcome State Fault Refusal :=
  .next (s.kettleRun r 0x0043 noRegion inA (fun s x b => s.lrMove r.core.val x b true (fun a y => a.mul y)))

/-- A long-register image, 64 bytes (Table 6.5). -/
def lrImage (x : LongReg) : List Byte :=
  natBytes 40 (ofSigned 320 (if x.st = 0 then x.v else 0)) ++ natBytes 2 (ofSigned 16 x.e) ++ natBytes 1 x.st ++
    natBytes 1 (b2n x.trunc) ++ natBytes 4 x.count ++ natBytes 16 0
/-- Parse an image; none when it is malformed (R182). -/
def lrParse (bs : List Byte) : Option LongReg :=
  let at_ := fun (a n : Nat) => bytesNat ((bs.drop a).take n)
  let v := toSigned 320 (at_ 0 40)
  if 4 ≤ at_ 42 1 ∨ 2 ≤ at_ 43 1 ∨ at_ 48 16 ≠ 0 ∨ (at_ 42 1 ≠ 0 ∧ v ≠ 0) then none
  else some { v := v, e := toSigned 16 (at_ 40 2), st := at_ 42 1, trunc := at_ 43 1 = 1, count := at_ 44 4 }
/-- Add an image into a register (R182): the fault, if any; E is compared first (log entry 18). -/
def LongReg.addImage (x : LongReg) (bs : List Byte) : LongReg × Flags × Option Nat :=
  if toSigned 16 (bytesNat ((bs.drop 40).take 2)) ≠ x.e then (x, {}, some codeLrScale)
  else match lrParse bs with
  | none => (x, {}, some codeKettleOpnd)
  | some y =>
    if 2 ^ 31 < x.count + y.count then (x, {}, some codeLrLength)
    else
      let st := stMove x.st y.st
      ({ x with v := if st = 0 then wrap320 (x.v + y.v) else 0, st := st, trunc := x.trunc || y.trunc, count := x.count + y.count },
        { nv := st = 3 }, none)

/-- LRADD: one image per row of A (R182). -/
def State.lraddMove (s : State) (c : Nat) (x : Slot) : Mv :=
  let d := x.desc
  let n := vLreg d
  let t0 := ((s.core c).lr n).trunc
  let m := (List.range (dTiles d * dRows d)).foldl (fun (m : Mv) i =>
    let q := m.readSp c [] (dLast d) (rowAddr 0 x.srcBase (dSstr d) i) 64
    q.1.andThen (fun s =>
      let r := ((s.core c).lr n).addImage q.2
      match r.2.2 with
      | some code => { s := s, stop := some (code, i) }
      | none => { s := s.modCore c (fun k => (k.setLr n r.1).raise 4 r.2.1) })) ({ s := s } : Mv)
  if !t0 && ((m.s.core c).lr n).trunc then
    { m with s := m.s.modCore c (fun k => k.modVec (fun v => { v with lrTrunc := satAdd 16 v.lrTrunc 1 })) }
  else m
def execLradd (r : StreamRef) (s : State) : Host.Outcome State Fault Refusal :=
  .next (s.kettleRun r 0x0044 noRegion inA (fun s x _ => s.lraddMove r.core.val x))
def execLrstore (r : StreamRef) (s : State) : Host.Outcome State Fault Refusal :=
  .next (s.kettleRun r 0x0045 noRegion noRegion (fun s x _ =>
    ({ s := s } : Mv).writeSp r.core.val [] (256 * x.dstBase) (lrImage ((s.core r.core.val).lr (vLreg x.desc)))))
/-- Value of a long register (R183). -/
def LongReg.val (x : LongReg) : XVal :=
  match x.st with | 0 => .ofDy x.v x.e | 1 => .inf false | 2 => .inf true | _ => .nan
def execLrread (r : StreamRef) (s : State) : Host.Outcome State Fault Refusal :=
  let c := r.core.val
  .next (s.kettleRun r 0x0046 noRegion noRegion (fun s x _ =>
    let q := f32 ((s.core c).lr (vLreg x.desc)).val
    ({ s := s.raise c 4 q.2 } : Mv).writeD c x 0 [q.1]))

/-! ## Long tiles (R185) -/

/-- Byte address of entry `j` of a long-tile row. -/
def longAddr (row j : Nat) : Nat := row + 256 * (j / 6) + 40 * (j % 6)
/-- LWIDEN: D = D + A, each finite element exactly, modulo 2^320, entry by entry in the order of the elements, so that rows of D that
share entries add up (R185; log entry 87). -/
def State.lwidenMove (s : State) (c : Nat) (x : Slot) : Mv :=
  let d := x.desc
  ({ s := s } : Mv).rowsThen d (fun m i => m.readA c x i)
    (fun m i es => (es.zipIdx).foldl (fun (m : Mv) e =>
      let a := longAddr (rowAddr 0 x.dstBase (dDstr d) i) e.2
      let q := m.readSp c [] false a 40
      let v := elemVal (dSfmt d) e.1
      if v.isFin then q.1.writeSp c [] a (natBytes 40 (ofSigned 320 (toSigned 320 (bytesNat q.2) + v.toUnits (-160))))
      else q.1.mod (fun s => s.raise c 4 { nv := true, ovf := v.isInf })) m)
def execLwiden (r : StreamRef) (s : State) : Host.Outcome State Fault Refusal :=
  .next (s.kettleRun r 0x0048 (fun d x => [{ base := x.dstBase, str := dDstr d, bits := 320, bytes := longBytes (dCols d) }]) inA
    (fun s x _ => s.lwidenMove r.core.val x))
/-- LNARROW: each entry rounded once into DFMT (R185). -/
def State.lnarrowMove (s : State) (c : Nat) (x : Slot) : Mv :=
  let d := x.desc
  ({ s := s } : Mv).rowsThen d
    (fun m i =>
      let q := m.readSp c [] (dLast d) (rowAddr 0 x.srcBase (dSstr d) i) (longBytes (dCols d))
      (q.1, (List.range (dCols d)).map (fun j =>
        narrowVal (dDfmt d) (dSat d) (dSatw d) (.ofDy (toSigned 320 (bytesNat ((q.2.drop (longAddr 0 j)).take 40))) (-160)))))
    (fun m i rs => (m.mod (fun s => s.raise c 4 (rs.foldl (fun a r => a.or r.2) {}))).writeD c x i (rs.map (·.1)))
def execLnarrow (r : StreamRef) (s : State) : Host.Outcome State Fault Refusal :=
  .next (s.kettleRun r 0x0049 outD
    (fun d x => [{ base := x.srcBase, str := dSstr d, bits := 320, bytes := longBytes (dCols d) }])
    (fun s x _ => s.lnarrowMove r.core.val x))

/-! ## Update kernels (R258, R259) -/

/-- A value with the flags of the roundings that made it, and the subnormals its transcendental step replaced. -/
structure Rnd where
  v : XVal
  f : Flags := {}
  sub : Nat := 0
  deriving DecidableEq, Repr

/-- rnd of R259: one rounding to FP32. -/
def rnd (x : XVal) : Rnd := let r := f32 x; { v := f32v r.1, f := r.2 }
/-- What an update kernel writes for one element: w′, the new state values, the BF16 weight; with its flags. -/
structure Upd where
  w : Nat
  st : List Nat
  w16 : Nat
  f : Flags
  sub : Nat := 0
  deriving DecidableEq, Repr

def flagsOf (l : List Rnd) : Flags := l.foldl (fun a r => a.or r.f) {}
def codeOf32 (x : XVal) : Nat := (f32 x).1
/-- w′, state and BF16 weight from roundings. -/
def updOf (w1 : Rnd) (st rs : List Rnd) (sub : Nat) : Upd :=
  let h := narrowVal 1 false false w1.v
  { w := codeOf32 w1.v, st := st.map (fun r => codeOf32 r.v), w16 := h.1, f := (flagsOf (w1 :: st ++ rs)).or h.2, sub := sub }
/-- `kettle_adamw` of R259. -/
def adamw (b : KBlock) (g w m v : XVal) : Upd :=
  let p := b.pv
  let g1 := rnd (g.mul (p 5))
  let m1 := rnd (((p 1).mul m).add ((p 6).mul g1.v))
  let v1 := rnd (((p 2).mul v).add (((p 7).mul g1.v).mul g1.v))
  let mh := rnd (m1.v.mul (p 8))
  let vh := rnd (v1.v.mul (p 9))
  let den := rnd (vh.v.add (p 3))
  let c := codeOf32 den.v
  let q := transRsqrt (flushSub c) (Config.rsqrtUp (BitVec.ofNat 32 (flushSub c)))
  let rs : Rnd := { v := q.1, f := q.2 }
  let u := rnd (mh.v.mul rs.v)
  let w1 := rnd (w.sub ((p 0).mul (u.v.add ((p 4).mul w))))
  updOf w1 [m1, v1] [g1, mh, vh, den, rs, u] (b2n (isSub32 c))
/-- `kettle_lion` of R259. -/
def lion (b : KBlock) (g w m : XVal) : Upd :=
  let p := b.pv
  let g1 := rnd (g.mul (p 5))
  let c := rnd (((p 1).mul m).add ((p 6).mul g1.v))
  let u : XVal := if c.v.isNan then .nan else if c.v.isZero then .zero else .fin c.v.isNeg 1 0
  let w1 := rnd (w.sub ((p 0).mul (u.add ((p 4).mul w))))
  let m1 := rnd (((p 2).mul m).add ((p 7).mul g1.v))
  updOf w1 [m1] [g1, c] 0
/-- `kettle_sgdm` of R259. -/
def sgdm (b : KBlock) (g w m : XVal) : Upd :=
  let p := b.pv
  let g1 := rnd (g.mul (p 5))
  let m1 := rnd ((((p 1).mul m).add g1.v).add ((p 4).mul w))
  let w1 := rnd (w.sub ((p 0).mul m1.v))
  updOf w1 [m1] [g1] 0

/-- An update kernel: `two` state values per element for ADAMW, one otherwise (R258). -/
def State.updMove (s : State) (c : Nat) (x : Slot) (b : KBlock) (two : Bool) (f : XVal → XVal → List XVal → Upd) : Mv :=
  let d := x.desc
  let n := dCols d
  let k := if two then 2 else 1
  ({ s := s } : Mv).rowsThen d
    (fun m i =>
      let qa := m.readA c x i
      let qw := qa.1.readO c b 0 i n
      let qs := qw.1.readO c b 1 i (k * n)
      (qs.1, (List.range n).map (fun j => f (f32v (qa.2.getD j 0)) (f32v (qw.2.getD j 0))
        ((List.range k).map (fun t => f32v (qs.2.getD (k * j + t) 0))))))
    (fun m i us =>
      let m1 := m.mod (fun s => s.modCore c (fun kc =>
        (kc.raise 4 (us.foldl (fun a u => a.or u.f) {})).modVec (fun v =>
          { v with transSub := satAdd 16 v.transSub (us.foldl (fun a u => a + u.sub) 0) })))
      ((m1.writeD c x i (us.map (·.w))).writeO c b 2 i (us.flatMap (·.st))).writeO c b 3 i (us.map (·.w16)))
def execAdamw (r : StreamRef) (s : State) : Host.Outcome State Fault Refusal :=
  .next (s.kettleRun r 0x0060 outD inA (fun s x b =>
    s.updMove r.core.val x b true (fun g w st => adamw b g w (st.getD 0 .nan) (st.getD 1 .nan))))
def execLion (r : StreamRef) (s : State) : Host.Outcome State Fault Refusal :=
  .next (s.kettleRun r 0x0061 outD inA (fun s x b => s.updMove r.core.val x b false (fun g w st => lion b g w (st.getD 0 .nan))))
def execSgdm (r : StreamRef) (s : State) : Host.Outcome State Fault Refusal :=
  .next (s.kettleRun r 0x0062 outD inA (fun s x b => s.updMove r.core.val x b false (fun g w st => sgdm b g w (st.getD 0 .nan))))

end Sys2Proof.Machine
end

