-- ==== Sys2Proof/Machine/Cask.lean ====
section
/-! DEFINITION. Cask (chapter 8): STORE, STASH with its epochs, spill and discard, UNSTASH, and the write of CASK_CTL. -/

namespace Sys2Proof.Machine

def Core.epoch (k : Core) (e : Nat) : Epoch := k.cask.epochs.get {} e
def Core.curEpoch (k : Core) : Epoch := k.epoch k.cask.epoch
/-- Some epoch of the core has spilled, the current one or not (R247). -/
def Core.spilled (k : Core) : Bool := (List.range 4).any (fun e => (k.epoch e).spill)
def Core.modCask (k : Core) (f : Cask → Cask) : Core := { k with cask := f k.cask }
def sScstr (d : BitVec 256) : Nat := fld d 216 10

/-- STORE: rows from scratchpad to HBM, unchanged (Table 2.3, R543). -/
def State.storeMove (s : State) (c : Nat) (x : Slot) : Mv :=
  let d := x.desc
  (List.range (dTiles d * dRows d)).foldl (fun m i =>
    let q := m.readRow c 0 [] (dLast d) (rowAddr 0 x.srcBase (dSstr d) i) (dSfmt d) (dCols d)
    (q.1.writeRow c 1 [] (rowAddr 1 x.dstBase (dDstr d) i) (dDfmt d) q.2).rowDone d i) ({ s := s } : Mv)
def execStore (r : StreamRef) (s : State) : Host.Outcome State Fault Refusal :=
  .next (s.accept r.core.val r.slot.val (fun d => kindOf d = 9) (fun s x =>
    (s.storeMove r.core.val x).finish r.core.val r.slot.val))

/-! ## STASH (R241 to R246) -/

/-- Byte intervals [first, end) of the HBM rows of a stash or unstash: elements, then scales for an MX format (R241). -/
def stashSpans (d : BitVec 256) (fmt base str aux : Nat) : List (Nat × Nat) :=
  let rows := List.range (dTiles d * dRows d)
  let el := rows.map (fun i => let a := rowAddr 1 base str i; (a, a + rowBytes fmt (dCols d)))
  if isMx fmt then el ++ rows.map (fun i => let a := scaleAddr 1 aux (sScstr d) i; (a, a + cdiv (dCols d) 32)) else el
def spansIn (l : List (Nat × Nat)) (lo hi : Nat) : Bool := l.all (fun p => lo ≤ p.1 && p.2 ≤ hi)
def spansMeet (l : List (Nat × Nat)) (lo hi : Nat) : Bool := l.any (fun p => p.1 < hi && lo < p.2)
def spansBytes (l : List (Nat × Nat)) : Nat := l.foldl (fun n p => n + (p.2 - p.1)) 0
def spansLow (l : List (Nat × Nat)) : Nat := l.foldl (fun n p => min n p.1) ((l.headD (0, 0)).1)

/-- The class of a STASH (R241). -/
inductive StashClass where
  | main | reserve | spilling | reserveOver | outside
  deriving DecidableEq, Repr

def stashClass (e : Epoch) (d : BitVec 256) (base aux : Nat) : StashClass :=
  let l := stashSpans d (dDfmt d) base (dDstr d) aux
  let mEnd := e.mbase + e.mlen
  let rEnd := e.rbase + e.rlen
  let basesIn := fun (lo hi : Nat) => lo ≤ base && base < hi && (!isMx (dDfmt d) || (lo ≤ aux && aux < hi))
  if spansIn l e.mbase mEnd then .main
  else if spansIn l e.rbase rEnd then .reserve
  else if basesIn e.mbase mEnd && l.any (fun p => mEnd < p.2) && !spansMeet l e.rbase rEnd then .spilling
  else if basesIn e.rbase rEnd && l.any (fun p => rEnd < p.2) then .reserveOver
  else .outside

/-- Row `i` of a STASH's input: values, and codes with scales when it is copied. -/
def Mv.stashRow (m : Mv) (c : Nat) (x : Slot) (i : Nat) : Mv × List Nat :=
  let d := x.desc
  if dSspace d = 3 then
    (m.mod (fun s => s.setCore c ((s.core c).takePath 6 (dCols d)).1), ((m.s.core c).takePath 6 (dCols d)).2)
  else m.readRow c 0 [] (dLast d) (rowAddr 0 x.srcBase (dSstr d) i) (dSfmt d) (dCols d)

/-- What Cask writes for a row: codes, scales, flags (Table 8.4). -/
def stashOut (d : BitVec 256) (es : List Nat) : List Nat × List Nat × Flags :=
  if isMx (dSfmt d) then
    (es.map (fun e => e % 256), (List.range (cdiv es.length 32)).map (fun b => es.getD (32 * b) 0 / 256), {})
  else if isMx (dDfmt d) then mxRow (dDfmt d) (es.map (elemVal (dSfmt d)))
  else if dSfmt d = dDfmt d then (es, [], {})
  else
    let rs := es.map (fun e => narrowVal (dDfmt d) false false (elemVal (dSfmt d) e))
    (rs.map (·.1), [], rs.foldl (fun a r => a.or r.2) {})

/-- The movement of a STASH; a discarded one consumes its input and writes nothing (R244). -/
def State.stashMove (s : State) (c : Nat) (x : Slot) (discard : Bool) : Mv :=
  let d := x.desc
  (List.range (dTiles d * dRows d)).foldl (fun m i =>
    let q := m.stashRow c x i
    if discard then q.1
    else
      let o := stashOut d q.2
      ((q.1.mod (fun s => s.raise c 6 o.2.2)).writeRowMx c 1 [] (rowAddr 1 x.dstBase (dDstr d) i) (dDfmt d) o.1
        (scaleAddr 1 x.auxBase (sScstr d) i) o.2.1).rowDone d i) ({ s := s } : Mv)

/-- Record the first spill of an epoch (R243). -/
def Cask.spill (k : Cask) (addr : Nat) : Cask :=
  let e := k.epochs.get {} k.epoch
  if e.spill then k
  else { k with
    spills := satAdd 16 k.spills 1
    epochs := k.epochs.set k.epoch { e with spill := true, spillLayer := k.layer.toNat, spillAddr := addr - e.mbase } }
/-- Count a discarded stash (R244). -/
def Cask.discard (k : Cask) (bytes : Nat) : Cask :=
  { k with discStreams := satAdd 16 k.discStreams 1, discUnits := satAdd 32 k.discUnits (cdiv bytes 64) }

/-- Cask accepts a STASH: its class in the current epoch decides whether it faults, is written or is discarded (R241, R243, R244). -/
def State.stashStart (s : State) (c n : Nat) (x : Slot) : Mv :=
  let d := x.desc
  let spans := stashSpans d (dDfmt d) x.dstBase (dDstr d) x.auxBase
  let keep : Mv := { s := s.modCore c (fun k => k.modSlot n (fun y => { y with discard := false })) }
  let drop : Mv := { s := s.modCore c (fun k =>
    (k.modCask (fun q => (q.spill (spansLow spans)).discard (spansBytes spans))).modSlot n (fun y => { y with discard := true })) }
  match stashClass (s.core c).curEpoch d x.dstBase x.auxBase with
  | .reserve => keep
  | .main => if (s.core c).curEpoch.spill then drop else keep
  | .spilling => drop
  | .reserveOver => { s := s, stop := some (codeCaskReserve, x.dstBase) }
  | .outside => { s := s, stop := some (codeCaskRange, x.dstBase) }
/-- STASH: Cask accepts a STASH and classifies it, and takes its input (R54, R99, R241, R243, R244). -/
def execStash (r : StreamRef) (s : State) : Host.Outcome State Fault Refusal :=
  let c := r.core.val
  let n := r.slot.val
  .next (s.pathRun c n 6 (fun d => kindOf d = 7) (fun s x => s.stashStart c n x)
    (fun s x => (s.stashMove c x x.discard).finish c n))

/-! ## UNSTASH (R245) -/

/-- The movement of an UNSTASH: widened rows from HBM into scratchpad (Table 8.4). -/
def State.unstashMove (s : State) (c : Nat) (x : Slot) : Mv :=
  let d := x.desc
  (List.range (dTiles d * dRows d)).foldl (fun m i =>
    let q := m.readRowMx c 1 [] false (rowAddr 1 x.srcBase (dSstr d) i) (dSfmt d) (dCols d) (scaleAddr 1 x.auxBase (sScstr d) i)
    let rs := if dSfmt d = dDfmt d then q.2.1.map (fun e => (e, ({} : Flags)))
      else (rowVals (dSfmt d) q.2.1 q.2.2).map (narrowVal (dDfmt d) false false)
    ((q.1.mod (fun s => s.raise c 6 (rs.foldl (fun a r => a.or r.2) {}))).writeRow c 0 []
      (rowAddr 0 x.dstBase (dDstr d) i) (dDfmt d) (rs.map (·.1))).rowDone d i) ({ s := s } : Mv)
/-- The UNSTASH reads main-region bytes at or above SPILL_ADDR of a spilled epoch (R245). -/
def spilledRead (e : Epoch) (d : BitVec 256) (base aux : Nat) : Bool :=
  e.spill && spansMeet (stashSpans d (dSfmt d) base (dSstr d) aux) (e.mbase + e.spillAddr) (e.mbase + e.mlen)
def execUnstash (r : StreamRef) (s : State) : Host.Outcome State Fault Refusal :=
  let c := r.core.val
  .next (s.accept c r.slot.val (fun d => kindOf d = 8) (fun s x =>
    if spilledRead (s.core c).curEpoch x.desc x.srcBase x.auxBase then s.streamFault c r.slot.val codeCaskSpilled x.srcBase
    else (s.unstashMove c x).finish c r.slot.val))

/-- A write of CASK_CTL: EPOCH and LAYER; with NEW the epoch named in the write is cleared before it becomes current (R240). -/
def Cask.writeCtl (k : Cask) (v : Word) : Cask :=
  let e := fld v 0 2
  let x := k.epochs.get {} e
  { k with
    epoch := e
    layer := BitVec.ofNat 16 (fld v 16 16)
    epochs := if bit v 2 then k.epochs.set e { x with spill := false, spillLayer := 0, spillAddr := 0 } else k.epochs }
/-- CASK_NEW: a write to CASK_CTL (R240). -/
def execCaskNew (c : CoreId) (v : Word) (s : State) : Host.Outcome State Fault Refusal :=
  .next (s.modCore c.val (fun k => k.modCask (fun q => q.writeCtl v)))

end Sys2Proof.Machine
end

