-- ==== Sys2Proof/Machine/Links.lean ====
section
/-! DEFINITION. Chip-to-chip links (chapter 10): routes, the departure of packets, notices, grants, training, frames and
retry, lane sparing, and the link registers with effects of their own. -/

namespace Sys2Proof
open Sys2Proof.Machine

/-! ## Packets (R279, R280; Table 10.4) -/

/-- Header bits [223:0] of a packet. -/
def Packet.bits (k : Packet) : Nat :=
  k.pkind.toNat + k.vc.toNat * 2 ^ 4 + k.hops.toNat * 2 ^ 7 + k.dpkg.toNat * 2 ^ 9 + k.spkg.toNat * 2 ^ 21 + k.dcore.toNat * 2 ^ 33 +
    k.score.toNat * 2 ^ 42 + k.chan.toNat * 2 ^ 51 + k.nslot.toNat * 2 ^ 56 + k.line.toNat * 2 ^ 63 + k.epoch.toNat * 2 ^ 95
/-- The header slot. -/
def Packet.hdr (k : Packet) : BitVec 256 := BitVec.ofNat 256 (k.bits + k.pcrc.toNat * 2 ^ 224)
/-- PCRC over header bits [223:0] and the data slots; HOPS, which changes on the way, counts as zero (R280, R289; log entry
74). -/
def Packet.crc (k : Packet) (data : List Byte) : BitVec 32 := crc32c 0 (natBytes 28 { k with hops := 0 }.bits ++ data)
/-- A packet as its source endpoint forms it. -/
def Packet.seal (k : Packet) (data : List Byte) : Packet := { k with pcrc := k.crc data }
/-- The check at the destination endpoint. -/
def Packet.ok (k : Packet) (data : List Byte) : Bool := k.pcrc = k.crc data
/-- Slots of a packet: its header and NSLOT + 1 data slots. -/
def Packet.slots (k : Packet) : Nat := k.nslot.toNat + 2
/-- Credit key of a packet: virtual channel and hop class (Table 10.3, R283). -/
def Packet.credKey (k : Packet) : Nat := 3 * k.vc.toNat + k.hops.toNat
/-- Flits of a packet on the fabric: its lines of 8 data slots (R26, R279). -/
def Packet.flits (k : Packet) : Nat := cdiv (k.nslot.toNat + 1) 8
/-- The ends of flits of FC6 that carry a packet from a site to its endpoint (R288). -/
def Packet.toEnd (k : Packet) (src part : Nat) : Ends :=
  let c := k.dcore.toNat
  { src := src, dst := coreSite c, ep := if c < 360 then c % 6 else 8, cls := 6, part := part }

/-! ## Frames as they arrive (Table 10.3) -/

/-- FCRC of a frame: header bits [223:0] and slots 1 to 29. -/
def frameCrc (hdr : BitVec 256) (slots : List (BitVec 256)) : BitVec 32 :=
  crc32c 0 (natBytes 28 (fld hdr 0 224) ++ slots.flatMap (fun x => natBytes 32 x.toNat))
/-- The codewords decoded and FCRC matches (R281). -/
def FrameIn.good (f : FrameIn) : Bool := f.decoded && fld f.hdr 224 32 = (frameCrc f.hdr f.slots).toNat
def FrameIn.fseq (f : FrameIn) : BitVec 12 := BitVec.ofNat 12 (fld f.hdr 0 12)
def FrameIn.ackseq (f : FrameIn) : BitVec 12 := BitVec.ofNat 12 (fld f.hdr 12 12)
def FrameIn.nak (f : FrameIn) : Bool := bit f.hdr 24
/-- The 24 credit fields (Table 10.3). -/
def FrameIn.credits (f : FrameIn) : List Nat := (List.range 24).map (fun i => fld f.hdr (28 + 8 * i) 8)

end Sys2Proof

namespace Sys2Proof.Machine

def State.modLinks (s : State) (f : Links → Links) : State := { s with links := f s.links }
def State.ownPkg (s : State) : Nat := s.links.pkg.toNat
/-- A report about a port, counted on the control clock (R293, Table 20.3; log entry 91). -/
def State.portReport (s : State) (p code : Nat) : Report :=
  { s.pkgReport code with site := 84 + p / 2, unit := p }

/-! ## Routes (R288 to R290) -/

/-- The route entry of a package in the bank in force (Table 10.6). -/
def Links.entry (l : Links) (pkg : Nat) : Nat :=
  fld ((if l.bankB then l.routeB else l.routeA).get 0 (pkg / 4)) (16 * (pkg % 4)) 16
/-- A generation 0 port carries VC0 and VC6 only (R277). -/
def Port.carries (p : Port) (vc : Nat) : Bool := p.gen1 || vc = 0 || vc = 6
/-- Where a packet goes: to this package, by a port, by a port that holds its packets, or nowhere. -/
inductive RouteOut where
  | local_ | via (p : Nat) | wait (p : Nat) | refused (p : Nat) | none_ (p : Nat)
  deriving DecidableEq, Repr

/-- The route of a packet by destination package and channel: the primary port, or the valid alternate that is UP where the
primary is not UP or refuses the channel (R277, R288). A port that is SPARING holds the packets it carries (Table 10.7). -/
def State.routeOf (s : State) (pkg vc : Nat) : RouteOut :=
  if pkg = s.ownPkg then .local_
  else
    let e := s.links.entry pkg
    let prim := e % 16
    let alt := (e / 32) % 16
    let pv := (e / 16) % 2 = 1
    let av := (e / 512) % 2 = 1
    let up := fun (v : Bool) (p : Nat) => v && decide ((s.port p).state = .up)
    let held := fun (v : Bool) (p : Nat) => v && decide ((s.port p).state = .sparing)
    if up pv prim && (s.port prim).carries vc then .via prim
    else if up av alt then (if (s.port alt).carries vc then .via alt else .refused alt)
    else if held pv prim && (s.port prim).carries vc then .wait prim
    else if held av alt && (s.port alt).carries vc then .wait alt
    else if up pv prim || held pv prim then .refused prim
    else if held av alt then .refused alt
    else .none_ (if pv then prim else 0)

/-! ## Frames that leave (R278, R279, R281; Table 10.3) -/

/-- The slots of a packet, the last one marked with it. -/
def txSlots (o : OutPkt) : List (BitVec 256 × Option (Packet × Nat)) :=
  let data := (List.range (o.k.nslot.toNat + 1)).map (fun i => BitVec.ofNat 256 (bytesNat ((o.data.drop (32 * i)).take 32)))
  ((o.k.hdr :: data.dropLast).map (fun x => (x, none))) ++ [(data.getLastD 0, some (o.k, o.slot))]

/-- The header of the next frame of a port, FCRC included. -/
def Port.frameHdr (q : Port) (slots : List (BitVec 256)) : BitVec 256 :=
  let h : BitVec 256 := BitVec.ofNat 256 (q.txNext.toNat + q.rxAck.toNat * 2 ^ 12 + b2n q.nakDue * 2 ^ 24 +
    (List.range 24).foldl (fun n i => n + q.freed.get 0 i * 2 ^ (28 + 8 * i)) 0)
  BitVec.ofNat 256 (h.toNat + (frameCrc h slots).toNat * 2 ^ 224)
/-- One frame leaves with the first 29 slots that wait: it enters the replay buffer (R281). -/
def State.frameOut (s : State) (p : Nat) : State :=
  let q := s.port p
  let slots := (q.tx.take 29).map (·.1)
  let hdr := q.frameHdr slots
  let r := q.replay ++ [{ fseq := q.txNext, resent := 0, hdr := hdr, slots := slots, pkts := (q.tx.take 29).filterMap (·.2) }]
  (s.setPort p { q with
    tx := q.tx.drop 29
    txNext := q.txNext + 1
    nakDue := false
    ackTold := q.rxAck
    freedTold := q.freed
    replay := r
    replayFullAt := if r.length < 512 then none else (match q.replayFullAt with | some t => some t | none => some s.now) }).emit
      (.frame p hdr slots)
/-- Full frames leave. -/
def State.framesOut (p : Nat) : Nat → State → State
  | 0, s => s
  | n + 1, s => if 29 ≤ (s.port p).tx.length then State.framesOut p n (s.frameOut p) else s
/-- Idle slots fill a frame; what they hold is not stated. -/
def State.idleSlots : Nat → State → List (BitVec 256) × State
  | 0, s => ([], s)
  | n + 1, s => let r := s.draw 256; let q := State.idleSlots n r.2; (r.1 :: q.1, q.2)
/-- A frame time without further packets: a frame with what has not filled one and idle slots leaves, while the replay buffer has
room for it (R278, R281; log entry 42). -/
def State.frameTick (s : State) (p : Nat) : State :=
  let q := s.port p
  if q.state = .up && q.replay.length < 512 then
    let r := State.idleSlots (29 - q.tx.length) s
    (r.2.modPort p (fun q => { q with tx := q.tx ++ r.1.map (fun x => (x, none)) })).frameOut p
  else s
/-- The frames in the replay buffer leave again, in order, with their original headers (R281, R282). -/
def State.resendFrames (s : State) (p : Nat) : State :=
  (s.port p).replay.foldl (fun s f => s.emit (.frame p f.hdr f.slots)) s

/-! ## Channels: credit and arbitration (R283, R284; Table 10.5) -/

/-- Credit for a packet of `n` slots on a channel and hop class (R278, R283). -/
def Port.room (p : Port) (vc h n : Nat) : Bool :=
  n + (p.used.get 0 (3 * vc + h) + 256 - p.credit.get 0 (3 * vc + h)) % 256 ≤ 224
/-- The replay buffer has room for the frames that a packet fills (R281). -/
def Port.replayRoom (p : Port) (n : Nat) : Bool := p.replay.length + cdiv (p.tx.length + n) 29 ≤ 512
/-- A packet may start: it has credit, and the replay buffer has room. -/
def Port.mayStart (p : Port) (k : Packet) : Bool := p.room k.vc.toNat k.hops.toNat k.slots && p.replayRoom k.slots
/-- Share of a channel in LINK_VCARB, percent (Table 10.9). -/
def Port.share (p : Port) (vc : Nat) : Nat := fld p.vcarb (7 * (vc - 1)) 7
/-- Channel `v` goes before channel `w`: VC0 first, VC7 next while it has at most 25 % of what the port has served, then the
least served in proportion to its share (R284, Table 10.5; log entry 75). -/
def Port.vcBefore (p : Port) (v w : Nat) : Bool :=
  let total := (List.range 8).foldl (fun n i => n + p.served.get 0 i) 0
  let over7 := total < 4 * p.served.get 0 7
  if v = w then false
  else if v = 0 then true
  else if w = 0 then false
  else if v = 7 then !over7
  else if w = 7 then over7
  else if p.share v = 0 then false
  else decide (p.share w = 0 ∨ p.served.get 0 v * p.share w < p.served.get 0 w * p.share v ∨
    (p.served.get 0 v * p.share w = p.served.get 0 w * p.share v ∧ v < w))
/-- Flits of the packets that wait at a port (R26). -/
def Port.waiting (p : Port) : Nat := p.outq.foldl (fun n o => n + o.k.flits) 0
/-- Depth of the queue between the fabric and a port (Table 1.6). -/
def linkDepth : Nat := 256
/-- The packet to send next: the oldest of its channel and hop class that may start, of the channel that goes first. -/
def Port.nextOut (p : Port) : Option OutPkt :=
  let firsts := p.outq.filter (fun o => (p.outq.find? (fun x => x.k.credKey = o.k.credKey)) = some o && p.mayStart o.k)
  firsts.foldl (fun b o => match b with
    | some x => if p.vcBefore o.k.vc.toNat x.k.vc.toNat then some o else some x
    | none => some o) none
/-- Client whose kernel a core runs, zero for none (R381). -/
def Core.client (k : Core) : Nat := match k.seq.kernel with | some r => r.client | none => 0
/-- Add to word `w` of a client's account, or of a split word at key `w` (Table 13.4). -/
def State.acctAdd (s : State) (client w n : Nat) : State :=
  { s with glob := { s.glob with acct := s.glob.acct.set (client * 16 + w) (satAdd 64 (s.glob.acct.get 0 (client * 16 + w)) n) } }
/-- Key offset of the link-byte counts of clients in `Global.acct`. -/
def acctLinkKey (client : Nat) : Nat := 16384 + client * 4
/-- Payload bytes of a packet, charged to the client of the sending core and to the package (R381, R523). -/
def State.acctLink (s : State) (c bytes : Nat) : State :=
  let key := acctLinkKey (s.core c).client
  { s with glob := { s.glob with
      acctLink := satAdd 64 s.glob.acctLink bytes
      acct := s.glob.acct.set key (satAdd 64 (s.glob.acct.get 0 key) bytes)
      bytesInt := s.glob.bytesInt.set ((s.core c).client * 2) (s.glob.bytesInt.get 0 ((s.core c).client * 2) + bytes) } }
/-- The buffer slots of a received packet are free again (R283). -/
def State.slotsFreed (s : State) (p : Nat) (k : Packet) : State :=
  s.modPort p (fun q => { q with freed := q.freed.set k.credKey ((q.freed.get 0 k.credKey + k.slots) % 256) })
/-- A packet on its way through has left the receive buffer of the port it came by (R283). -/
def State.viaFreed (s : State) (via : Option (Nat × Packet)) : State := match via with | some v => s.slotsFreed v.1 v.2 | none => s
/-- A channel begins to wait at a port: bandwidth that was idle until then counts for no channel. Its own count of slots starts
level with the waiting channel served least in proportion to its share, that of VC7 at its quarter of what the port has served (R284,
Table 10.5; log entry 75). -/
def Port.begins (q : Port) (vc : Nat) : Port :=
  let waits := fun (v : Nat) => q.outq.any (fun o => o.k.vc.toNat = v)
  let all := [0, 1, 2, 3, 4, 5, 6, 7].foldl (fun n v => n + q.served.get 0 v) 0
  let level := fun (u : Nat) => q.served.get 0 u * q.share vc / q.share u
  let least := ([1, 2, 3, 4, 5, 6].filter (fun u => waits u && 0 < q.share u)).map level
  if waits vc then q
  else if vc = 7 then { q with served := q.served.set 7 (max (q.served.get 0 7) (all / 4)) }
  else
    let m := if waits 7 then q.served.set 7 (min (q.served.get 0 7) (all / 4)) else q.served
    match least with
    | [] => { q with served := m }
    | x :: xs => { q with served := m.set vc (max (q.served.get 0 vc) (xs.foldl min x)) }
/-- A packet is sent whole: its slots follow those before it, its credit is used, and a buffer it came through is free (R279, R283,
R284). -/
def State.packetOut (s : State) (p : Nat) (o : OutPkt) : State :=
  let k := o.k
  let s1 := (s.modPort p (fun q => { q with
    outq := q.outq.erase o
    tx := q.tx ++ txSlots o
    used := q.used.set k.credKey ((q.used.get 0 k.credKey + k.slots) % 256)
    served := if (q.outq.erase o).isEmpty then [] else q.served.set k.vc.toNat (q.served.get 0 k.vc.toNat + k.slots) })).viaFreed o.via
  let s2 := if k.pkind.toNat = 0 && k.spkg.toNat = s.ownPkg && k.score.toNat < 360 then s1.acctLink k.score.toNat o.data.length else s1
  State.framesOut p 8 (s2.emit (.packet p k o.data))
/-- Send what a port may send. -/
def State.portDrain (p : Nat) : Nat → State → State
  | 0, s => s
  | n + 1, s =>
    if (s.port p).state = .up then
      match (s.port p).nextOut with
      | some o => State.portDrain p n (s.packetOut p o)
      | none => s
    else s
def State.drainPort (s : State) (p : Nat) : State := State.portDrain p (s.port p).outq.length s
/-- A packet joins the packets that wait at port `p`, and leaves as soon as it may; `via` tells the port whose buffer holds it. -/
def State.sendVia (s : State) (via : Option (Nat × Packet)) (p : Nat) (k : Packet) (data : List Byte) (slot : Nat) : State :=
  (s.modPort p (fun q =>
    { q.begins k.vc.toNat with outq := q.outq ++ [{ k := k, data := data, slot := slot, via := via }] })).drainPort p
/-- The ends of flits of FC6 from a site to the link die of port `p` (R289). -/
def toLink (src part p : Nat) : Ends := { src := src, dst := 84 + p / 2, ep := 8, cls := 6, part := part }
/-- Partition of the flits that an endpoint sends: 15 where it is no core (R39). -/
def State.partAt (s : State) (c : Nat) : Nat := if c < 360 then s.partOf c else 15
/-- A packet that endpoint `c` of this package sends crosses the fabric to the link die of port `p` and waits there (R289). -/
def State.sendBy (s : State) (c p : Nat) (k : Packet) (data : List Byte) (slot : Nat) : State :=
  (s.carried (toLink (coreSite c) (s.partAt c) p) k.flits).sendVia none p k data slot

/-! ## Notices (R280, R286, R290, R303) -/

/-- A packet header of this package, its PCRC still to be formed. -/
def State.header (s : State) (kind vc dpkg dcore score chan line epoch : Nat) : Packet :=
  { pkind := BitVec.ofNat 4 kind, vc := BitVec.ofNat 3 vc, hops := 0, dpkg := BitVec.ofNat 12 dpkg, spkg := s.links.pkg,
    dcore := BitVec.ofNat 9 dcore, score := BitVec.ofNat 9 score, chan := BitVec.ofNat 5 chan, nslot := 0,
    line := BitVec.ofNat 32 line, epoch := BitVec.ofNat 32 epoch, pcrc := 0 }
/-- Stream fault of a SEND for a NOTICE reason, if any. -/
def noticeCode (reason : Nat) : Option Nat :=
  match reason with
  | 0 | 1 | 4 => some codeLinkUnreach
  | 2 => some codeWeltSource
  | 3 => some codeLinkE2e
  | 6 | 7 | 8 => some codeBktRefused
  | _ => none
/-- The SEND in slot `n` that sent packet `k` is still ACTIVE. -/
def State.sendActive (s : State) (k : Packet) (n : Nat) : Bool :=
  let x := (s.core k.score.toNat).slot n
  let d := x.desc
  k.score.toNat < 360 && kindOf d = 10 && x.state = .active && bit d 228 && fld d 216 12 = k.dpkg.toNat &&
    fld d 229 9 = k.dcore.toNat && fld d 238 5 = k.chan.toNat
/-- Packet `k` of this package is answered by a NOTICE: its SEND, if still ACTIVE, faults; an unreachable package is reported
(R280, R290, R303). -/
def State.noticeIn (s : State) (k : Packet) (n reason : Nat) : State :=
  let c := k.score.toNat
  let s1 := match noticeCode reason with
    | some code => if s.sendActive k n then s.streamFault c n code ((s.core c).slot n).moved else s
    | none => s
  if reason = 0 || reason = 1 || reason = 4 then
    s1.report { s1.pkgReport codeLinkUnreach with core := if c < 360 then c else 0xFFFF, detail := k.dpkg.toNat }
  else s1
/-- An undelivered GRANT is remembered and reported (R547). -/
def State.grantLost (s : State) (k : Packet) : State :=
  let e := (k.dpkg.toNat, k.dcore.toNat, k.chan.toNat)
  let s1 := if k.score.toNat < 360 then s.modCore k.score.toNat (fun q =>
      { q with welt := { q.welt with undelivered := if q.welt.undelivered.contains e then q.welt.undelivered
                                                    else q.welt.undelivered ++ [e] } }) else s
  s1.report { s1.pkgReport codeLinkUnreach with core := k.score.toNat, detail := k.dpkg.toNat }
/-- A packet of this package is answered. -/
def State.answered (s : State) (k : Packet) (slot reason : Nat) : State :=
  if k.pkind.toNat = 1 then s.grantLost k
  else if k.pkind.toNat = 3 then s
  else s.noticeIn k slot reason
/-- Count a packet discarded at a port (R277, R290); none for a packet that has not been discarded. -/
def State.dropCount (s : State) : RouteOut → State
  | .refused p => s.modPort p (fun q => { q with vcRefused := satAdd 16 q.vcRefused 1, routeDrop := satAdd 16 q.routeDrop 1 })
  | .none_ p => s.modPort p (fun q => { q with routeDrop := satAdd 16 q.routeDrop 1 })
  | _ => s
/-- Answer a packet with a NOTICE: at once for a packet of this package, else over the links, from the endpoint that discarded it or
from the link die of its own port, where a NOTICE that finds no port is itself counted (R290). Its data slot is the header of the
packet it answers (log entry 74). -/
def State.notice (s : State) (k : Packet) (slot reason : Nat) : State :=
  if k.spkg.toNat = s.ownPkg then s.answered k slot reason
  else
    let data := natBytes 32 k.hdr.toNat
    let n := (s.header 3 0 k.spkg.toNat k.score.toNat k.dcore.toNat k.chan.toNat reason 0).seal data
    match s.routeOf k.spkg.toNat 0 with
    | .via p | .wait p => if k.dpkg.toNat = s.ownPkg then s.sendBy k.dcore.toNat p n data 0 else s.sendVia none p n data 0
    | r => s.dropCount r
/-- A packet without a usable port is counted and answered (R277, R290). -/
def State.dropPacket (s : State) (k : Packet) (slot : Nat) (r : RouteOut) : State :=
  match r with
  | .refused _ => (s.dropCount r).notice k slot 1
  | .none_ _ => (s.dropCount r).notice k slot 0
  | _ => s
/-- The packet can leave this package, at once or when its port goes on. -/
def State.reaches (s : State) (pkg vc : Nat) : Bool := match s.routeOf pkg vc with | .via _ | .wait _ => true | _ => false
/-- Send a control packet of this package if its route lets it leave; otherwise it is dropped and answered (R290). -/
def State.sendCtl (s : State) (k : Packet) (data : List Byte) : State :=
  match s.routeOf k.dpkg.toNat k.vc.toNat with
  | .via p | .wait p => s.sendBy k.score.toNat p (k.seal data) data 0
  | .local_ => s
  | r => s.dropPacket k 0 r

/-! ## Grants (R285, R547) -/

/-- A GRANT reaches the endpoint of a REMOTE SEND's core. A count that is not larger is that of a newer launch where every granted
line has been sent and no SEND is under way (`begun`); else it came late, over an older route, and nothing changes (R285, R291; log
entry 89). -/
def grantIn (l : List RemoteGrant) (begun : Bool) (pkg core chan granted : Nat) : Option (List RemoteGrant) :=
  let same := fun (e : RemoteGrant) => e.pkg = pkg && e.core = core && e.chan = chan
  if l.any same then
    some (l.map (fun e =>
      if !same e then e
      else if e.granted < granted then { e with granted := granted }
      else if e.granted ≤ e.sent && !begun then { e with granted := granted, sent := 0 }
      else e))
  else if l.length < 32 then some (l ++ [{ pkg := pkg, core := core, chan := chan, granted := granted, sent := 0 }])
  else none
/-- A REMOTE SEND of the core to the package, core and channel of a GRANT has sent lines and has more to send. -/
def Core.sendBegun (q : Core) (k : Packet) : Bool :=
  Core.slotNums.any (fun n =>
    let x := q.slot n
    let d := x.desc
    kindOf d = 10 && x.state = .active && !x.done && 0 < x.moved && bit d 228 && fld d 216 12 = k.spkg.toNat &&
      fld d 229 9 = k.score.toNat && fld d 238 5 = k.chan.toNat)
def State.grantArrive (s : State) (k : Packet) : State :=
  let c := k.dcore.toNat
  if 360 ≤ c then s
  else
    match grantIn (s.core c).welt.grants ((s.core c).sendBegun k) k.spkg.toNat k.score.toNat k.chan.toNat k.line.toNat with
    | some l => s.modCore c (fun q => { q with welt := { q.welt with grants := l } })
    | none => s.report { s.coreReport c codeGrantTable with detail := k.spkg.toNat }
/-- Send the GRANT of a channel of core `c` to the package and core of its SEND (R285). What its data slot holds is not
stated. -/
def State.sendGrant (s : State) (c pkg dcore chan : Nat) : State :=
  let k := s.header 1 0 pkg dcore c chan ((s.core c).welt.posted.get 0 chan) 0
  if pkg = s.ownPkg then s.cross (k.toEnd (coreSite c) (s.partAt c)) 1 none (fun s => s.grantArrive k)
  else let d := s.draw 256; d.2.sendCtl k (natBytes 32 d.1.toNat)
/-- Send every undelivered GRANT again, after a route swap or a port's entry into UP (R547). -/
def State.resendGrants (s : State) : State :=
  allCores.foldl (fun s c =>
    let l := (s.core c).welt.undelivered
    if l.isEmpty then s
    else l.foldl (fun s e => s.sendGrant c e.1 e.2.1 e.2.2)
      (s.modCore c (fun q => { q with welt := { q.welt with undelivered := [] } }))) s

/-! ## Packets that arrive (R280, R285, R288 to R290) -/

/-- A packet whose PCRC fails is discarded, counted, reported and answered (R280). -/
def State.e2eFail (s : State) (k : Packet) (p slot : Nat) : State :=
  let s1 := s.modPort p (fun q => { q with e2eFail := satAdd 16 q.e2eFail 1 })
  (s1.report { s1.pkgReport codeE2eFail with
    core := if k.dcore.toNat < 360 then k.dcore.toNat else 0xFFFF, addr := k.spkg.toNat, detail := k.score.toNat }).notice k slot 3
/-- A packet arrives at its destination package by port `p`: its buffer slots are freed, it crosses the fabric to its endpoint on
FC6, and it has its effect there if PCRC matches. A packet for another package is not delivered here (R280, R288). -/
def State.deliver (s : State) (p : Nat) (k : Packet) (data : List Byte) (f : State → State) : State :=
  if k.dpkg.toNat ≠ s.ownPkg then s
  else (s.slotsFreed p k).cross (k.toEnd (84 + p / 2) 15) k.flits none (fun s => if k.ok data then f s else s.e2eFail k p 0)
/-- GRANT: a GRANT packet reaches its endpoint (R285). -/
def execGrant (k : PacketIn) (s : State) : Host.Outcome State Fault Refusal :=
  .next (s.deliver k.port.val k.pkt k.data (fun s => s.grantArrive k.pkt))
/-- NOTICE: a NOTICE packet reaches the source of the packet it answers, whose header is in its data slot (R280, R290, R303,
R547). -/
def execNotice (k : NoticeIn) (slot : SlotId) (s : State) : Host.Outcome State Fault Refusal :=
  .next (s.deliver k.port.val k.pkt (natBytes 32 k.about.hdr.toNat) (fun s => s.answered k.about slot.val k.pkt.line.toNat))
/-- Route a packet that came by port `p` for another package on: HOPS counts the link crossed, and a packet that has crossed three
goes no further. It stays in the buffer of its port until it leaves, and crosses the fabric where its way out is on another link die
(R283, R289, R290). -/
def State.routeOn (s : State) (p : Nat) (k : Packet) (data : List Byte) : State :=
  let r := s.routeOf k.dpkg.toNat k.vc.toNat
  let port := match r with | .via p | .wait p | .refused p | .none_ p => p | .local_ => 0
  if 2 ≤ k.hops.toNat then
    ((s.slotsFreed p k).modPort port (fun q =>
      { q with routeHops := satAdd 16 q.routeHops 1, routeDrop := satAdd 16 q.routeDrop 1 })).notice k 0 4
  else
    match r with
    | .via j | .wait j =>
      (s.carried (toLink (84 + p / 2) 15 j) k.flits).sendVia (some (p, k)) j { k with hops := k.hops + 1 } data 0
    | .local_ => s.slotsFreed p k
    | r => (s.slotsFreed p k).dropPacket k 0 r

/-! ## Training (R273, R275 to R277) -/

/-- A rate is allowed by LINK_CTL.RATES, or as the current rate of a retraining: 1 100G, 2 200G, 3 400G (R282, Table 10.9). -/
def Port.allows (p : Port) (r : Nat) : Bool := bit p.ctl r || (p.alsoRate = r && 0 < r)
def Port.minw (p : Port) : Bool := bit p.ctl 4 && !p.forceMinw0
/-- The highest allowed rate below `r`. -/
def Port.rateBelow (p : Port) (r : Nat) : Option Nat := [3, 2, 1].find? (fun q => q < r && p.allows q)
/-- Packets of a port that its peer has not acknowledged whole, or that have not been sent. -/
def Port.unsent (q : Port) : List (Packet × Nat) :=
  q.replay.flatMap (·.pkts) ++ q.tx.filterMap (·.2) ++ q.outq.map (fun o => (o.k, o.slot))
/-- A port enters DOWN: its unsent packets are counted and answered, Cinch and the host are told (R293). Frame numbers and
credits start afresh with the next training (log entry 75). -/
def State.portDown (s : State) (p : Nat) : State :=
  let q := s.port p
  let ks := q.unsent
  let s1 := (q.outq.foldl (fun s o => s.viaFreed o.via) s).modPort p (fun t => { t with
    state := .down, rate := 0, active := 0, spare := none, trying := 0, alsoRate := 0, replay := [], tx := [], outq := [],
    failing := [], replayFullAt := none, routeDrop := satAdd 16 q.routeDrop ks.length, forceMinw0 := false, txNext := 0, rxAck := 0xFFF,
    ackTold := 0xFFF, nakSent := false, nakDue := false, credit := [], used := [], freed := [], freedTold := [], served := [] })
  let s2 := ks.foldl (fun s k => s.notice k.1 k.2 0) s1
  let s3 := match q.trecPkg with
    | some g => (s2.modLinks (fun l => { l with notices := l.notices ++ [g] })).emit (.linkNotice g)
    | none => s2
  s3.report (s3.portReport p codeLinkDown)
/-- Begin training at the highest allowed rate up to `most`; without LINK_PKG, or in RECOVERY, a port does not train (R273,
R275, R489). -/
def State.trainStart (s : State) (p most : Nat) : State :=
  if s.links.pkgSet && !s.sec.recovery then
    match (s.port p).rateBelow (most + 1) with
    | some r => s.modPort p (fun q =>
        { q with state := .training, trying := r, rate := 0, active := 0, spare := none, spareUsed := false, failing := [] })
    | none => s.portDown p
  else s
/-- Retrain, counted in RETRAINS, with the port's current rate allowed (R275, R282). -/
def State.retrainPort (s : State) (p : Nat) : State :=
  (s.modPort p (fun q => { q with
    retrains := satAdd 8 q.retrains 1
    alsoRate := q.rate
    replay := q.replay.map (fun f => { f with resent := 0 })
    replayFullAt := none })).trainStart p 3
/-- Retrain at the port's own rate with MINW forced to 0 (R292). -/
def State.retrainNarrow (s : State) (p : Nat) : State :=
  (s.modPort p (fun q => { q with
    retrains := satAdd 8 q.retrains 1
    alsoRate := q.rate
    forceMinw0 := true
    replay := q.replay.map (fun f => { f with resent := 0 })
    replayFullAt := none })).trainStart p (s.port p).rate

/-- LINK_ENABLE: a write of LINK_CTL.ENABLE = 1 (R275). -/
def execLinkEnable (p : Fin 16) (s : State) : Host.Outcome State Fault Refusal :=
  let s1 := s.modPort p.val (fun q => { q with ctl := setFld q.ctl 0 1 1 })
  .next (if (s.port p.val).state = .down then s1.trainStart p.val 3 else s1)
/-- RETRAIN: a write of LINK_CTL.RETRAIN to an enabled port (Table 10.9). -/
def execRetrain (p : Fin 16) (s : State) : Host.Outcome State Fault Refusal :=
  .next (if bit (s.port p.val).ctl 0 then s.retrainPort p.val else s)

/-- Lanes of a 17-bit set, ascending. -/
def lanesOf (v : BitVec 17) : List Nat := (List.range 17).filter (fun i => bit v i)
def laneSet (l : List Nat) : BitVec 17 := BitVec.ofNat 17 (l.foldl (fun a i => a + 2 ^ i) 0)
/-- Word 0 of a training record (Table 10.2). -/
def trecWord (t : TrainRec) : Word :=
  BitVec.ofNat 64 (t.pkg.toNat + t.port.toNat * 2 ^ 12 + t.kind.toNat * 2 ^ 16 + b2n t.gen * 2 ^ 18 + t.rates.toNat * 2 ^ 19)
/-- Active lanes and spare of an accepted attempt (R275). -/
def laneChoice (minw : Bool) (pass : BitVec 17) : Option (BitVec 17 × Option Nat) :=
  let l := lanesOf pass
  if 16 ≤ l.length then
    some (laneSet (l.take 16), (List.range 17).find? (fun i => !(l.take 16).contains i))
  else if 8 ≤ l.length && !minw then some (laneSet (l.take 8), none)
  else none
/-- This end's training record, as its frame leaves (R276, Table 10.2). -/
def State.ownRecord (s : State) (p : Nat) : TrainRec :=
  { pkg := s.links.pkg, port := BitVec.ofNat 4 p, kind := 0, gen := true, rates := BitVec.ofNat 3 (fld (s.port p).ctl 1 3),
    txCount := BitVec.ofNat 64 s.now }
/-- Packets that wait at a port which has come up with a generation 0 peer are discarded where their channel is refused (R277). -/
def State.refuseOut (s : State) (p : Nat) : State :=
  let q := s.port p
  let bad := q.outq.filter (fun o => !q.carries o.k.vc.toNat)
  bad.foldl (fun s o => (s.viaFreed o.via).dropPacket o.k o.slot (.refused p))
    (s.modPort p (fun q => { q with outq := q.outq.filter (fun o => q.carries o.k.vc.toNat) }))
/-- The port runs: the rate and lanes, the records exchanged, the frames of the replay buffer and the undelivered GRANTs sent
again; a replay buffer still full is timed anew (R275, R276, R282, R547). -/
def State.portUp (s : State) (p : Nat) (lanes : BitVec 17) (spare : Option Nat) (peer : TrainRec) : State :=
  (((((s.modPort p (fun q => { q with
    state := .up, rate := q.trying, trying := 0, alsoRate := 0, active := lanes, spare := spare, spareUsed := false, spareFor := 0,
    wide := (lanesOf lanes).length = 16, forceMinw0 := false, gen1 := peer.gen, trecPkg := some peer.pkg.toNat,
    replayFullAt := if 512 ≤ q.replay.length then some s.now else none,
    trec := [(0, trecWord peer), (1, peer.txCount), (2, BitVec.ofNat 64 s.now)] })).emit (.trainRec p (s.ownRecord p))).resendFrames
      p).refuseOut p).drainPort p).resendGrants
/-- TRAINING_ATTEMPT_END: the lanes that passed at the rate tried (R275). -/
def execTrainingAttemptEnd (p : Fin 16) (pass : BitVec 17) (peer : TrainRec) (s : State) : Host.Outcome State Fault Refusal :=
  let q := s.port p.val
  .next (
    if q.state = .training then
      match (if bit peer.rates (q.trying - 1) then laneChoice q.minw pass else none) with
      | some l => s.portUp p.val l.1 l.2 peer
      | none =>
        match q.rateBelow q.trying with
        | some r => s.setPort p.val { q with trying := r }
        | none => s.portDown p.val
    else s)

/-! ## Frames and retry (R278, R281, R282) -/

/-- Frames that ACKSEQ covers leave the replay buffer. -/
def ackReplay (l : List ReplayFrame) (ack : BitVec 12) : List ReplayFrame :=
  l.filter (fun f => !((ack - f.fseq).toNat < 2048))
/-- The port after an accepted frame: acknowledgement and credits are taken; a NAK counts one resending of what is left. -/
def Port.frameTaken (q : Port) (f : FrameIn) : Port :=
  let rest := ackReplay q.replay f.ackseq
  { q with
    rxAck := f.fseq
    nakSent := false
    corrSym := satAdd 32 q.corrSym f.corrected
    credit := f.credits.zipIdx.foldl (fun m c => m.set c.2 c.1) q.credit
    naks := if f.nak then satAdd 16 q.naks 1 else q.naks
    replay := if f.nak then rest.map (fun r => { r with resent := r.resent + 1 }) else rest
    replayFullAt := if rest.length < 512 then none else q.replayFullAt }
/-- LINK_FRAME: a frame arrives. One that is good and next in order is accepted: what a NAK asks for is sent again, then what
the credits let go. Any other is discarded; an error asks for NAK once in the next outbound header (R281). -/
def execLinkFrame (p : Fin 16) (f : FrameIn) (s : State) : Host.Outcome State Fault Refusal :=
  let q := s.port p.val
  .next (
    if q.state = .up || q.state = .sparing then
      if f.good && f.fseq = q.rxAck + 1 then
        let s1 := s.setPort p.val (q.frameTaken f)
        (if f.nak && q.state = .up then s1.resendFrames p.val else s1).drainPort p.val
      else s.setPort p.val { q with
        nakSent := true
        nakDue := q.nakDue || !f.good || !q.nakSent }
    else s)
/-- REPLAY_TIMEOUT: a frame resent 8 times, or a replay buffer full for 10 µs (R282). -/
def execReplayTimeout (p : Fin 16) (s : State) : Host.Outcome State Fault Refusal :=
  let q := s.port p.val
  let full := match q.replayFullAt with | some t => t + 10000 ≤ s.now | none => false
  .next (if q.state = .up && (q.replay.any (fun f => 8 ≤ f.resent) || full) then s.retrainPort p.val else s)

/-! ## Lane sparing (R292) -/

/-- The LANECTL packet that names a lane: PKIND 4 on VC0 to the peer, with the lane in LINE; its data slot is not stated (Table 10.7;
log entry 90). -/
def State.laneCtlOut (s : State) (p lane : Nat) : State :=
  let d := s.draw 256
  let data := natBytes 32 d.1.toNat
  let k := (s.header 4 0 ((s.port p).trecPkg.getD 0) 0x1FF 0x1FF 0 lane 0).seal data
  (d.2.sendVia none p k data 0).frameTick p
/-- A swap of lane `lane` for the spare begins: LANECTL leaves in a frame of its own, and no new frame after it (Table 10.7). -/
def State.swapBegin (s : State) (p lane : Nat) : State :=
  (s.laneCtlOut p lane).modPort p (fun q => { q with state := .sparing, swapLane := lane })
/-- A failing active lane: the spare is asked for, or the port retrains; one found failing during a swap is remembered (R292). -/
def State.laneFails (s : State) (p lane : Nat) : State :=
  let q := s.port p
  if !bit q.active lane then s
  else
    match q.state, q.spare with
    | .up, some _ => s.swapBegin p lane
    | .up, none => if q.wide then s.retrainNarrow p else s.retrainPort p
    | .sparing, _ => if lane = q.swapLane then s else s.modPort p (fun q => { q with failing := insertSet lane q.failing })
    | _, _ => s
/-- LANE_LOCK_LOSS: a lane loses lock (R292). -/
def execLaneLockLoss (p : Fin 16) (lane : Fin 17) (s : State) : Host.Outcome State Fault Refusal :=
  .next (s.laneFails p.val lane.val)
/-- LANE_ERROR_WINDOW: the corrected symbols of a lane in one 1 ms window (R292). -/
def execLaneErrorWindow (p : Fin 16) (lane : Fin 17) (corrected : BitVec 32) (s : State) : Host.Outcome State Fault Refusal :=
  .next (if fld (s.port p.val).ctl 32 32 < corrected.toNat then s.laneFails p.val lane.val else s)
/-- LANECTL: the peer's packet names a failing lane; its buffer slots are freed, and this end answers and holds its frames (R283,
Table 10.7). -/
def execLanectl (p : Fin 16) (lane : Fin 17) (s : State) : Host.Outcome State Fault Refusal :=
  let q := s.port p.val
  let s1 := s.slotsFreed p.val (s.header 4 0 s.ownPkg 0x1FF 0x1FF 0 lane.val 0)
  .next (if q.state = .up && q.spare.isSome && bit q.active lane.val then s1.swapBegin p.val lane.val
    else if q.state = .up || q.state = .sparing then s1
    else s)
/-- SPARE_TRAINED: the spare replaces the failing lane, frames resume from ACKSEQ + 1, and the port enters UP again; a lane found
failing meanwhile, for which no spare is left, makes it retrain (R292, Table 10.7, R547). -/
def execSpareTrained (p : Fin 16) (s : State) : Host.Outcome State Fault Refusal :=
  let q := s.port p.val
  .next (
    match q.state, q.spare with
    | .sparing, some sp =>
      let t := (((s.setPort p.val { q with
        state := .up
        active := laneSet ((lanesOf q.active).filter (fun i => i ≠ q.swapLane) ++ [sp])
        spare := none
        spareUsed := true
        spareFor := q.swapLane
        failing := []
        swaps := satAdd 8 q.swaps 1 }).resendFrames p.val).drainPort p.val).resendGrants
      match q.failing with
      | l :: _ => t.laneFails p.val l
      | [] => t
    | _, _ => s)

/-! ## Registers with effects (R273, R284, R291) -/

/-- ROUTE_SWAP: the other bank becomes active, unless within 100 µs of the last swap (R291). -/
def execRouteSwap (s : State) : Host.Outcome State Fault Refusal :=
  let early : Bool := match s.links.lastSwap with | some t => s.now < t + 100000 | none => false
  .next (if early then s.modLinks (fun l => { l with swapErr := true })
    else (s.modLinks (fun l => { l with bankB := !l.bankB, swapErr := false, lastSwap := some s.now })).resendGrants)
/-- Total of the six shares of LINK_VCARB. -/
def vcarbTotal (v : Word) : Nat := (List.range 6).foldl (fun a i => a + fld v (7 * i) 7) 0
/-- LINK_VCARB_WRITE: shares above 100 % in total are rejected (R284). -/
def execLinkVcarbWrite (p : Fin 16) (v : Word) (s : State) : Host.Outcome State Fault Refusal :=
  .next (if 100 < vcarbTotal v then s else s.modPort p.val (fun q => { q with vcarb := setFld v 42 22 0 }))
/-- LINK_PKG_WRITE: the own package number (R273). -/
def execLinkPkgWrite (v : Word) (s : State) : Host.Outcome State Fault Refusal :=
  .next (s.modLinks (fun l => { l with pkg := v.setWidth 12, pkgSet := true }))

end Sys2Proof.Machine
end

