-- ==== Sys2Proof/Machine/Bucket.lean ====
section
/-! DEFINITION. Bucket slots (chapter 11): the slot line, matching of headers by bucket id, landings, counting and closing. What
arms, releases and re-examines them stands in Remote.lean. -/

namespace Sys2Proof.Machine

/-! ## Slot line fields (Table 11.2) -/

def BktSlot.f (x : BktSlot) (a n : Nat) : Nat := bytesNat ((x.cfg.drop a).take n)
def BktSlot.bucket (x : BktSlot) : Nat := x.f 0 4
def BktSlot.step (x : BktSlot) : Nat := x.f 4 4
def BktSlot.epoch (x : BktSlot) : Nat := x.f 8 4
def BktSlot.kind (x : BktSlot) : Nat := x.f 12 1
def BktSlot.tcl (x : BktSlot) : Nat := x.f 13 1
def BktSlot.tcc (x : BktSlot) : Nat := x.f 14 1
def BktSlot.ring (x : BktSlot) : Nat := x.f 16 4
def BktSlot.nbuf (x : BktSlot) : Nat := x.f 20 2
def BktSlot.bufLines (x : BktSlot) : Nat := x.f 22 2
def BktSlot.nexp (x : BktSlot) : Nat := x.f 24 4
def BktSlot.deadline (x : BktSlot) : Nat := x.f 28 4
def BktSlot.elems (x : BktSlot) : Nat := x.f 32 4
/-- Bits of a payload element by kind (R297). -/
def bktBits (kind : Nat) : Nat := if kind = 2 then 32 else if kind = 3 || kind = 4 then 16 else 0
/-- Lines of a contribution, its header included (R297, Table 11.1). -/
def bktLines (kind elems : Nat) : Nat := 1 + cdiv (elems * bktBits kind) 2048
/-- Buffers in use (R304). -/
def BktSlot.unreleased (x : BktSlot) : Nat := x.landings.length - x.released
/-- The slot is armed: open, closing, or with buffers to release (R299). -/
def BktSlot.armed (x : BktSlot) : Bool := x.state ≠ 2 || 0 < x.unreleased
/-- Past its deadline: a header in the very count of the deadline is not (R301). -/
def BktSlot.past (x : BktSlot) (now : Nat) : Bool := x.armedAt + x.deadline < now
def Landing.whole (l : Landing) : Bool := l.lost || l.need ≤ l.got.length
/-- PRESENT or CARRIED: the sum of COUNT over landings whose source was not lost (Table 11.2, R307). -/
def BktSlot.sumCount (x : BktSlot) (carried : Bool) : Nat :=
  (x.landings.filter (fun l => l.carried = carried && !l.lost)).foldl (fun n l => n + l.count) 0
/-- XMAX over the current EXP contributions. -/
def BktSlot.xmax (x : BktSlot) : Int :=
  if x.kind = 0 then (x.landings.filter (fun l => !l.carried)).foldl (fun m l => max m l.expv) (-2147483648) else -2147483648

def bktKey (vc slot : Nat) : Nat := vc * 64 + slot
def Core.modBkt (k : Core) (f : Bkt → Bkt) : Core := { k with bkt := f k.bkt }
/-- Bytes 64 to 87 of the slot line as the endpoint keeps them. -/
def BktSlot.status (x : BktSlot) : List Byte :=
  let empty := x.state = 2 && x.sumCount false = 0 && x.sumCount true = 0
  natBytes 1 x.state ++ natBytes 1 (b2n empty + 2 * b2n (x.byDeadline && x.state = 2) + 4 * b2n x.sourceLost) ++ natBytes 2 0 ++
    natBytes 4 (x.sumCount false) ++ natBytes 4 (x.sumCount true) ++ natBytes 4 x.landings.length ++
    natBytes 4 (ofSigned 32 x.xmax) ++ natBytes 4 x.closeAt
/-- Store a slot and its status bytes. -/
def Core.putBkt (k : Core) (key : Nat) (x : BktSlot) : Core :=
  (k.modBkt (fun b => { b with slots := b.slots.set key x })).spWrite (256 * x.line + 64) x.status
/-- Set or clear the bit of a package in the current or carry bitmap (R298). -/
def Core.bktBit (k : Core) (x : BktSlot) (carried : Bool) (pkg : Nat) (on : Bool) : Core :=
  let a := 256 * (x.line + (if carried then 3 else 1)) + pkg / 8
  let b := (memByte k.sp.mem a).toNat
  let m := 2 ^ (pkg % 8)
  k.spWrite a [BitVec.ofNat 8 (b - (b &&& m) + (if on then m else 0))]

/-! ## Counting and closing (R304, R306) -/

/-- Count whole landings in landing order. -/
def countLandings : Nat → BktSlot → Core → BktSlot × Core
  | 0, x, k => (x, k)
  | n + 1, x, k =>
    match x.landings[x.counted]? with
    | some l =>
      if l.whole then
        countLandings n { x with counted := x.counted + 1,
                                 landings := x.landings.set x.counted { l with counted := true } } (k.incTok x.tcl)
      else (x, k)
    | none => (x, k)
/-- Move a slot on: landings are counted, an OPEN slot with its NEXP current headers is CLOSING, a CLOSING slot whose
landings are all whole is CLOSED. The flag tells that it closed. -/
def Core.settle (k : Core) (now key : Nat) (x : BktSlot) : Core × Bool :=
  let r := countLandings x.landings.length x k
  let x1 := r.1
  let x2 := if x1.state = 0 && x1.nexp ≤ (x1.landings.filter (fun l => !l.carried)).length then { x1 with state := 1 } else x1
  if x2.state = 1 && x2.landings.all (·.whole) then
    let x3 := { x2 with
      state := 2
      closeAt := if x2.byDeadline then max x2.deadline (x2.touchedAt - x2.armedAt) else now - x2.armedAt }
    let k1 := r.2.putBkt key x3
    let k2 := if x3.sumCount false = 0 && x3.sumCount true = 0 then
        k1.modBkt (fun b => { b with emptyClose := satAdd 16 b.emptyClose 1 }) else k1
    (k2.incTok x3.tcc, true)
  else (r.2.putBkt key x2, false)

/-! ## Matching (R301, R302) -/

/-- Outcome of a bucket header. -/
inductive BktOutcome where
  | current (slot : Nat) | carried (slot : Nat) | held | late | epochDrop | dup | size
  deriving DecidableEq, Repr

/-- Slots of a channel, by slot number. -/
def Bkt.onVc (b : Bkt) (vc : Nat) : List (Nat × BktSlot) :=
  (List.range 64).filterMap (fun i => (b.slots.find? (bktKey vc i)).map (fun x => (i, x)))
/-- The checks of R302 and the free buffer of R304 for a header that would land. -/
def landOutcome (x : BktSlot) (carried : Bool) (slot : Nat) (h : BktHeader) : BktOutcome :=
  if x.landings.any (fun l => l.src = h.srcPkg.toNat && l.carried = carried && !l.lost) then .dup
  else if x.kind ≠ h.kind.toNat || x.elems ≠ h.elems.toNat || x.bufLines < bktLines x.kind x.elems then .size
  else if x.nbuf ≤ x.unreleased then .held
  else if carried then .carried slot else .current slot
/-- Table 11.3. -/
def Bkt.outcome (b : Bkt) (now vc : Nat) (h : BktHeader) : BktOutcome :=
  let l := (b.onVc vc).filter (fun p => p.2.bucket = h.bucket.toNat)
  let e := h.epoch.toNat
  let st := h.step.toNat
  let data := h.kind.toNat = 2 || h.kind.toNat = 3
  let openAt := fun (n : Nat) => l.find? (fun p => p.2.step = n && p.2.state = 0 && !p.2.past now)
  let shut := fun (n : Nat) => l.any (fun p => p.2.step = n && (p.2.past now || p.2.state = 2))
  if l.any (fun p => e < p.2.epoch) then .epochDrop
  else if !(l.any (fun p => p.2.epoch = e)) && l.any (fun p => p.2.epoch < e) then .held
  else
    match (openAt st).filter (fun p => p.2.kind = h.kind.toNat) with
    | some p => landOutcome p.2 false p.1 h
    | none =>
      match (if data then openAt (st + 1) else none) with
      | some p => landOutcome p.2 true p.1 h
      | none =>
        if shut (st + 1) || l.any (fun p => st + 2 ≤ p.2.step) || (!data && shut st) then .late else .held

/-- The header line as it arrived, with STALE and ARRIVAL written by the receiver (Table 11.1, R304). -/
def headerLine (h : BktHeader) (stale : Bool) (arrival : Nat) : List Byte :=
  natBytes 4 h.bucket.toNat ++ natBytes 4 h.step.toNat ++ natBytes 4 h.epoch.toNat ++ natBytes 1 h.kind.toNat ++
    natBytes 1 (b2n stale) ++ natBytes 2 h.srcPkg.toNat ++ natBytes 4 h.count.toNat ++ natBytes 4 h.expv.toNat ++
    natBytes 4 h.elems.toNat ++ natBytes 2 arrival ++ natBytes 226 0
/-- A header line read as its fields. -/
def headerOf (bs : List Byte) : BktHeader :=
  let at_ := fun (a n : Nat) => bytesNat ((bs.drop a).take n)
  { bucket := BitVec.ofNat 32 (at_ 0 4), step := BitVec.ofNat 32 (at_ 4 4), epoch := BitVec.ofNat 32 (at_ 8 4),
    kind := BitVec.ofNat 8 (at_ 12 1), srcPkg := BitVec.ofNat 12 (at_ 14 2), count := BitVec.ofNat 32 (at_ 16 4),
    expv := BitVec.ofNat 32 (at_ 20 4), elems := BitVec.ofNat 32 (at_ 24 4) }

/-! ## Landing (R304) -/

def Bkt.sameFlow (vc pkg score : Nat) (f : BktFlow) : Bool := f.vc = vc && f.pkg = pkg && f.score = score
/-- Where the next lines of a source go. -/
def Core.setFlow (k : Core) (vc pkg score : Nat) (land : Option (Nat × Nat)) : Core :=
  k.modBkt (fun b => { b with flows := b.flows.filter (fun f => !Bkt.sameFlow vc pkg score f) ++ [⟨vc, pkg, score, land⟩] })
/-- Line of a landing's buffer. -/
def BktSlot.bufLine (x : BktSlot) (k line : Nat) : Nat := x.ring + (k % max 1 x.nbuf) * x.bufLines + line
/-- Land a header: buffer, bitmap, counts (R304). The flag tells that the slot closed. -/
def Core.land (k : Core) (now vc slot : Nat) (carried : Bool) (h : BktHeader) (score : Nat) : Core × Bool :=
  let key := bktKey vc slot
  let x := k.bkt.slots.get { line := 0, cfg := [], armedAt := 0 } key
  let n := x.landings.length
  let l : Landing := { src := h.srcPkg.toNat, carried := carried, count := h.count.toNat, expv := h.expv.toInt,
                       need := bktLines x.kind x.elems, got := [0], counted := false, lost := false }
  let a := x.bufLine n 0
  let k1 := ((k.spWrite (256 * a) (headerLine h carried n)).setLive [a]).bktBit x carried h.srcPkg.toNat true
  let k2 := (k1.setFlow vc h.srcPkg.toNat score (some (slot, n))).modBkt (fun b =>
    if carried then { b with carriedCnt := satAdd 16 b.carriedCnt 1 } else b)
  k2.settle now key { x with
    landings := x.landings ++ [l]
    touchedAt := now }
/-- A later line of a contribution lands at its offset (R304, R286). The flag tells that the slot closed. -/
def Core.landLine (k : Core) (now vc slot n line : Nat) (bs : List Byte) : Core × Bool :=
  let key := bktKey vc slot
  match k.bkt.slots.find? key with
  | none => (k, false)
  | some x =>
    match x.landings[n]? with
    | none => (k, false)
    | some l =>
      if l.lost || l.need ≤ line then (k, false)
      else
        let a := x.bufLine n line
        ((k.spWrite (256 * a) bs).setLive [a]).settle now key
          { x with
            landings := x.landings.set n { l with got := insertSet line l.got }
            touchedAt := now }

/-- Header of a NOTICE's packet. -/
def State.bktPacket (s : State) (c vc pkg score : Nat) : Packet :=
  { s.header 0 vc s.ownPkg c score 31 0 0 with spkg := BitVec.ofNat 12 pkg }
/-- Drop a header: counter, NOTICE, report where R302 asks for one. -/
def State.bktDrop (s : State) (c vc score slot reason : Nat) (h : BktHeader) (f : Bkt → Bkt) : State :=
  let s1 := s.modCore c (fun k => (k.modBkt f).setFlow vc h.srcPkg.toNat score none)
  let s2 := if reason = 5 then s1
    else s1.report { s1.coreReport c codeBktDrop with addr := h.srcPkg.toNat, detail := reason }
  s2.notice (s2.bktPacket c vc h.srcPkg.toNat score) slot reason
/-- An outcome applied to a header; none means it is held. The flag tells that a slot closed. -/
def State.bktApply (s : State) (c vc score slot : Nat) (h : BktHeader) : Option (State × Bool) :=
  match (s.core c).bkt.outcome s.now vc h with
  | .held => none
  | .current i => let r := (s.core c).land s.now vc i false h score; some (s.setCore c r.1, r.2)
  | .carried i => let r := (s.core c).land s.now vc i true h score; some (s.setCore c r.1, r.2)
  | .late => some (s.bktDrop c vc score slot 5 h (fun b => { b with lateDrop := satAdd 16 b.lateDrop 1 }), false)
  | .epochDrop => some (s.bktDrop c vc score slot 8 h (fun b => { b with epochDrop := satAdd 16 b.epochDrop 1 }), false)
  | .dup => some (s.bktDrop c vc score slot 6 h (fun b => { b with dupDrop := satAdd 16 b.dupDrop 1 }), false)
  | .size => some (s.bktDrop c vc score slot 7 h (fun b => { b with sizeDrop := satAdd 16 b.sizeDrop 1 }), false)

/-- The flow a source's lines follow now. -/
def Bkt.flow (b : Bkt) (vc pkg score : Nat) : Option (Nat × Nat) :=
  ((b.flows.find? (Bkt.sameFlow vc pkg score)).map (·.land)).join
/-- One later line of a contribution lands or is dropped (R304). The flag tells that a slot closed. -/
def State.bktLine (s : State) (c vc pkg score line : Nat) (bs : List Byte) : State × Bool :=
  match (s.core c).bkt.flow vc pkg score with
  | some (slot, n) => let r := (s.core c).landLine s.now vc slot n line bs; (s.setCore c r.1, r.2)
  | none => (s, false)
/-- The lines behind a header in its packet. -/
def State.bktLines (s : State) (c vc pkg score : Nat) (closed : Bool) (lines : List (Nat × List Byte)) : State × Bool :=
  lines.foldl (fun (q : State × Bool) l =>
    let t := q.1.bktLine c vc pkg score l.1 l.2; (t.1, q.2 || t.2)) (s, closed)

/-! ## Arm and release (R299, R305) -/

/-- Two line ranges meet. -/
def meets (a n b m : Nat) : Bool := a < b + m && b < a + n
/-- ERR of an arm (R299). -/
def Core.armErr (k : Core) (vc slot line : Nat) (x : BktSlot) : Nat :=
  let b := k.bkt
  let others := b.slots.filter (fun p => p.1 ≠ bktKey vc slot && p.2.armed)
  if (match b.slots.find? (bktKey vc slot) with | some y => y.armed | none => false) then 1
  else if 4 < x.kind || 7 < x.tcl || 7 < x.tcc || x.f 15 1 ≠ 0 || x.nbuf = 0 || 64 < x.nbuf || x.bufLines = 0 ||
      1024 < x.bufLines || x.nexp = 0 || 4096 < x.nexp || x.deadline = 0 || x.f 36 28 ≠ 0 ||
      spLines < line + 5 || spLines < x.ring + x.nbuf * x.bufLines then 2
  else if others.any (fun p =>
      meets line 5 p.2.line 5 || meets line 5 p.2.ring (p.2.nbuf * p.2.bufLines) ||
      meets x.ring (x.nbuf * x.bufLines) p.2.line 5 ||
      meets x.ring (x.nbuf * x.bufLines) p.2.ring (p.2.nbuf * p.2.bufLines)) then 3
  else if (b.onVc vc).any (fun p => p.1 ≠ slot && p.2.state ≠ 2 && p.2.bucket = x.bucket && p.2.step = x.step) then 4
  else if vc = 0 || 6 < vc then 5
  else 0
/-! ## Lost sources (R307) -/

/-- Incomplete landings of a lost package are given up in one slot, and no further line of that package follows them (R307). -/
def Core.bktLose (k : Core) (now key pkg : Nat) : Core × Bool :=
  match k.bkt.slots.find? key with
  | none => (k, false)
  | some x =>
    if x.state = 2 || !(x.landings.any (fun l => l.src = pkg && !l.whole)) then (k, false)
    else
      let k1 := (x.landings.zipIdx).foldl (fun (k : Core) p =>
        if p.1.src = pkg && !p.1.whole then
          (k.bktBit x p.1.carried pkg false).spWrite (256 * x.bufLine p.2 0 + 24) (natBytes 4 0)
        else k) k
      (k1.modBkt (fun b => { b with flows := b.flows.filter (fun f => f.pkg ≠ pkg) })).settle now key { x with
        sourceLost := true
        touchedAt := now
        landings := x.landings.map (fun l => if l.src = pkg && !l.whole then { l with lost := true } else l) }

end Sys2Proof.Machine
end

