-- ==== Sys2Proof/Machine/Aelium.lean ====
section
/-! DEFINITION. The Aelium sequencer instructions of Table 3.4 that act on the sequencer and its scratchpad alone: scalar
and address arithmetic, long immediates, branches, scratchpad access, the mailbox, token counters, SLOTQ, RDCYC, NOP,
RAISE, MSG, SIGCHK, YIELD and the illegal word. -/

namespace Sys2Proof.Machine

/-- An instruction that changes only its own core and goes to the next word. -/
def State.scalarOp (s : State) (c : Nat) (f : Core → Core) : State := s.seqRun c (fun s => s.modCore c (fun k => (f k).step8))
/-- s[RD] takes a value computed from the core; PC goes to the next word. -/
def State.scalar (s : State) (c : CoreId) (rd : BitVec 5) (v : Core → Word) : State :=
  s.scalarOp c.val (fun k => k.setS rd.toNat (v k))
/-- Shift amount op2[5:0]. -/
def shAmt (v : Word) : Nat := v.toNat % 64

/-- ADD (Table 3.4). -/
def execAdd (c : CoreId) (rd ra : BitVec 5) (y : Op2) (s : State) : Host.Outcome State Fault Refusal :=
  .next (s.scalar c rd (fun k => let a := ra.toNat; k.s a + k.op2 y))
/-- SUB (Table 3.4). -/
def execSub (c : CoreId) (rd ra : BitVec 5) (y : Op2) (s : State) : Host.Outcome State Fault Refusal :=
  .next (s.scalar c rd (fun k => let a := ra.toNat; k.s a - k.op2 y))
/-- MUL (Table 3.4). -/
def execMul (c : CoreId) (rd ra : BitVec 5) (y : Op2) (s : State) : Host.Outcome State Fault Refusal :=
  .next (s.scalar c rd (fun k => let a := ra.toNat; k.s a * k.op2 y))
/-- AND (Table 3.4). -/
def execAnd (c : CoreId) (rd ra : BitVec 5) (y : Op2) (s : State) : Host.Outcome State Fault Refusal :=
  .next (s.scalar c rd (fun k => let a := ra.toNat; k.s a &&& k.op2 y))
/-- OR (Table 3.4). -/
def execOr (c : CoreId) (rd ra : BitVec 5) (y : Op2) (s : State) : Host.Outcome State Fault Refusal :=
  .next (s.scalar c rd (fun k => let a := ra.toNat; k.s a ||| k.op2 y))
/-- XOR (Table 3.4). -/
def execXor (c : CoreId) (rd ra : BitVec 5) (y : Op2) (s : State) : Host.Outcome State Fault Refusal :=
  .next (s.scalar c rd (fun k => let a := ra.toNat; k.s a ^^^ k.op2 y))
/-- SHL (Table 3.4). -/
def execShl (c : CoreId) (rd ra : BitVec 5) (y : Op2) (s : State) : Host.Outcome State Fault Refusal :=
  .next (s.scalar c rd (fun k => let a := ra.toNat; k.s a <<< shAmt (k.op2 y)))
/-- SHR (Table 3.4). -/
def execShr (c : CoreId) (rd ra : BitVec 5) (y : Op2) (s : State) : Host.Outcome State Fault Refusal :=
  .next (s.scalar c rd (fun k => let a := ra.toNat; k.s a >>> shAmt (k.op2 y)))
/-- SRA (Table 3.4). -/
def execSra (c : CoreId) (rd ra : BitVec 5) (y : Op2) (s : State) : Host.Outcome State Fault Refusal :=
  .next (s.scalar c rd (fun k => let a := ra.toNat; (k.s a).sshiftRight (shAmt (k.op2 y))))
/-- MIN (Table 3.4). -/
def execMin (c : CoreId) (rd ra : BitVec 5) (y : Op2) (s : State) : Host.Outcome State Fault Refusal :=
  .next (s.scalar c rd (fun k => let a := ra.toNat; if (k.s a).slt (k.op2 y) then k.s a else k.op2 y))
/-- MAX (Table 3.4). -/
def execMax (c : CoreId) (rd ra : BitVec 5) (y : Op2) (s : State) : Host.Outcome State Fault Refusal :=
  .next (s.scalar c rd (fun k => let a := ra.toNat; if (k.s a).slt (k.op2 y) then k.op2 y else k.s a))
/-- MINU (Table 3.4). -/
def execMinu (c : CoreId) (rd ra : BitVec 5) (y : Op2) (s : State) : Host.Outcome State Fault Refusal :=
  .next (s.scalar c rd (fun k => let a := ra.toNat; if (k.s a).ult (k.op2 y) then k.s a else k.op2 y))
/-- MAXU (Table 3.4). -/
def execMaxu (c : CoreId) (rd ra : BitVec 5) (y : Op2) (s : State) : Host.Outcome State Fault Refusal :=
  .next (s.scalar c rd (fun k => let a := ra.toNat; if (k.s a).ult (k.op2 y) then k.op2 y else k.s a))
/-- SLT (Table 3.4). -/
def execSlt (c : CoreId) (rd ra : BitVec 5) (y : Op2) (s : State) : Host.Outcome State Fault Refusal :=
  .next (s.scalar c rd (fun k => let a := ra.toNat; if (k.s a).slt (k.op2 y) then 1 else 0))
/-- SLTU (Table 3.4). -/
def execSltu (c : CoreId) (rd ra : BitVec 5) (y : Op2) (s : State) : Host.Outcome State Fault Refusal :=
  .next (s.scalar c rd (fun k => let a := ra.toNat; if (k.s a).ult (k.op2 y) then 1 else 0))

/-- An instruction whose a-register fields must name a0 to a15: ILLEGAL_OP otherwise (R82). -/
def State.aRegRun (s : State) (c : CoreId) (ok : Bool) (f : State → State) : State :=
  s.seqRun c.val (fun s => if ok then f s else s.seqFault c.val codeIllegalOp 0)

/-- AADD: a[RD] ← a[RA] + op2 (Table 3.4). -/
def execAadd (c : CoreId) (rd ra : BitVec 5) (y : Op2) (s : State) : Host.Outcome State Fault Refusal :=
  .next (s.aRegRun c (aRegOk rd && aRegOk ra) (fun s =>
    s.modCore c.val (fun k => (k.setA rd.toNat (k.a ra.toNat + k.op2 y)).step8)))
/-- MOVA: a[RD] ← s[RA] (Table 3.4). -/
def execMova (c : CoreId) (rd ra : BitVec 5) (s : State) : Host.Outcome State Fault Refusal :=
  .next (s.aRegRun c (aRegOk rd) (fun s => s.modCore c.val (fun k => (k.setA rd.toNat (k.s ra.toNat)).step8)))
/-- MOVS: s[RD] ← a[RA] (Table 3.4). -/
def execMovs (c : CoreId) (rd ra : BitVec 5) (s : State) : Host.Outcome State Fault Refusal :=
  .next (s.aRegRun c (aRegOk ra) (fun s => s.modCore c.val (fun k => (k.setS rd.toNat (k.a ra.toNat)).step8)))

/-- Write the s or a register that RDA selects. -/
def Core.setDest (k : Core) (rda : Bool) (r : Nat) (v : Word) : Core := if rda then k.setA r v else k.setS r v
/-- Read the s or a register that RDA selects. -/
def Core.dest (k : Core) (rda : Bool) (r : Nat) : Word := if rda then k.a r else k.s r

/-- LIM: destination ← IMM48, sign-extended from bit 47 (Table 3.4). -/
def execLim (c : CoreId) (rd : BitVec 5) (rda : Bool) (imm : BitVec 48) (s : State) : Host.Outcome State Fault Refusal :=
  .next (s.aRegRun c (!rda || aRegOk rd) (fun s =>
    s.modCore c.val (fun k => (k.setDest rda rd.toNat (imm.signExtend 64)).step8)))
/-- LIH: destination[63:48] ← IMM48[15:0], bits [47:0] unchanged (Table 3.4). -/
def execLih (c : CoreId) (rd : BitVec 5) (rda : Bool) (imm : BitVec 16) (s : State) : Host.Outcome State Fault Refusal :=
  .next (s.aRegRun c (!rda || aRegOk rd) (fun s =>
    s.modCore c.val (fun k => (k.setDest rda rd.toNat (imm ++ (k.dest rda rd.toNat).setWidth 48)).step8)))

/-- The branch condition (R83); code 7 is reserved. -/
def condHolds (cond : BitVec 3) (x y : Word) : Bool :=
  match cond.toNat with
  | 0 => x = y
  | 1 => x ≠ y
  | 2 => x.slt y
  | 3 => !x.slt y
  | 4 => x.ult y
  | 5 => !x.ult y
  | _ => true
/-- Target of a taken branch: PC + 8 × OFF32 (R83). -/
def branchTarget (pc : Word) (off : BitVec 32) : Word := pc + 8 * off.signExtend 64
/-- Go to a target, folding its low 32 bits into SIG (R90). -/
def Core.jumpTo (k : Core) (t : Word) : Core :=
  { k with seq := { k.seq with pc := t, sig := crc32c k.seq.sig (natBytes 4 (t.setWidth 32).toNat) } }

/-- BR: branch when COND(s[RA], s[RB]) (R83). -/
def execBr (c : CoreId) (ra rb : BitVec 5) (cond : BitVec 3) (off : BitVec 32) (s : State) : Host.Outcome State Fault Refusal :=
  .next (s.aRegRun c (cond.toNat ≠ 7) (fun s => s.modCore c.val (fun k =>
    if condHolds cond (k.s ra.toNat) (k.s rb.toNat) then k.jumpTo (branchTarget k.seq.pc off) else k.step8)))
/-- JAL: s[RD] ← PC + 8, then branch (Table 3.4). -/
def execJal (c : CoreId) (rd : BitVec 5) (off : BitVec 32) (s : State) : Host.Outcome State Fault Refusal :=
  .next (s.seqRun c.val (fun s => s.modCore c.val (fun k =>
    (k.setS rd.toNat (k.seq.pc + 8)).jumpTo (branchTarget k.seq.pc off))))
/-- JR: PC ← s[RA] (Table 3.4). -/
def execJr (c : CoreId) (ra : BitVec 5) (s : State) : Host.Outcome State Fault Refusal :=
  .next (s.seqRun c.val (fun s => s.modCore c.val (fun k => k.jumpTo (k.s ra.toNat))))

/-- Scratchpad byte address of format M: a[AN] + sign-extended IMM32 modulo 2⁶⁴ (Table 3.3). -/
def Core.spAddr (k : Core) (an : BitVec 4) (imm : BitVec 32) : Nat := (k.a an.toNat + imm.signExtend 64).toNat
/-- The address is misaligned, outside the scratchpad, or in a reserve line the kernel may not address (R86, R368). -/
def State.spRefused (s : State) (c size a : Nat) : Bool := spBytes ≤ a || a % size ≠ 0 || s.hotLine c (a / 256)
/-- A guarded access counts in GUARD_CNT (R201). -/
def Core.guardCount (k : Core) : Core := { k with hop := { k.hop with guardCnt := satAdd 16 k.hop.guardCnt 1 } }
/-- Little-endian bytes as a word of `w` bits. -/
def leWord (w : Nat) (bs : List Byte) : BitVec w := BitVec.ofNat w (bytesNat bs)

/-- A sequencer load of `size` bytes (R86, R201, R440): a guarded line reads zero and counts. -/
def State.spLoad (s : State) (c size a : Nat) (put : Core → List Byte → Core) : State :=
  if s.spRefused c size a then s.seqFault c codeSpRange 0
  else if (s.core c).guarded [] (a / 256) then
    s.modCore c (fun k => (put k.guardCount (natBytes size 0)).step8)
  else if (s.core c).spBad a size then
    (s.modCore c (fun k => k.spUeCount a size)).seqFaultAt c codeMemUncorr 0 (a / 256)
  else s.modCore c (fun k => (put (k.spFix a size) (k.spRead a size)).step8)
/-- A sequencer store: only its own bytes are written; a store to a guarded line is discarded and counts (R86, R201). -/
def State.spStore (s : State) (c size a : Nat) (bs : Core → List Byte) : State :=
  if s.spRefused c size a then s.seqFault c codeSpRange 0
  else if (s.core c).guarded [] (a / 256) then s.modCore c (fun k => k.guardCount.step8)
  else s.modCore c (fun k => (k.spWrite a (bs k)).step8)

/-- LDS: s[RD] ← 8 bytes at a[AN] + IMM32 (Table 3.4). -/
def execLds (c : CoreId) (rd : BitVec 5) (an : BitVec 4) (imm : BitVec 32) (s : State) : Host.Outcome State Fault Refusal :=
  .next (s.seqRun c.val (fun s =>
    s.spLoad c.val 8 ((s.core c.val).spAddr an imm) (fun k bs => k.setS rd.toNat (leWord 64 bs))))
/-- STS: 8 bytes at a[AN] + IMM32 ← s[RD] (Table 3.4). -/
def execSts (c : CoreId) (rd : BitVec 5) (an : BitVec 4) (imm : BitVec 32) (s : State) : Host.Outcome State Fault Refusal :=
  .next (s.seqRun c.val (fun s =>
    s.spStore c.val 8 ((s.core c.val).spAddr an imm) (fun k => natBytes 8 (k.s rd.toNat).toNat)))
/-- An instruction that names a group of four registers: REG_ALIGN for any other register (R85). -/
def State.groupRun (s : State) (c : CoreId) (r : BitVec 5) (f : State → State) : State :=
  s.seqRun c.val (fun s => if groupOk r then f s else s.seqFault c.val codeRegAlign 0)
/-- LDD: s[RD] to s[RD + 3] ← 32 bytes (Table 3.4). -/
def execLdd (c : CoreId) (rd : BitVec 5) (an : BitVec 4) (imm : BitVec 32) (s : State) : Host.Outcome State Fault Refusal :=
  .next (s.groupRun c rd (fun s =>
    s.spLoad c.val 32 ((s.core c.val).spAddr an imm) (fun k bs => k.setQuad rd.toNat (leWord 256 bs))))
/-- STD: 32 bytes ← s[RD] to s[RD + 3] (Table 3.4). -/
def execStd (c : CoreId) (rd : BitVec 5) (an : BitVec 4) (imm : BitVec 32) (s : State) : Host.Outcome State Fault Refusal :=
  .next (s.groupRun c rd (fun s =>
    s.spStore c.val 32 ((s.core c.val).spAddr an imm) (fun k => natBytes 32 (k.quad rd.toNat).toNat)))

/-- MBOXR: s[RD] to s[RD + 3] ← head of the inbound mailbox, which is removed; MBOX_EMPTY when it is empty (R93), after
REG_ALIGN (R85; log entry 15). -/
def execMboxr (c : CoreId) (rd : BitVec 5) (s : State) : Host.Outcome State Fault Refusal :=
  .next (s.groupRun c rd (fun s =>
    match (s.core c.val).seq.mbox with
    | [] => s.seqFault c.val codeMboxEmpty 0
    | m :: ms => s.modCore c.val (fun k => ({ k with seq := { k.seq with mbox := ms } }.setQuad rd.toNat m).step8)))

/-- WAITT: go on when t[TC] ≥ value, else stall (R87). -/
def execWaitt (c : CoreId) (tc : BitVec 3) (y : Op2) (s : State) : Host.Outcome State Fault Refusal :=
  .next (s.seqRun c.val (fun s => s.modCore c.val (fun k =>
    if (k.tval y).toNat ≤ (k.tok tc.toNat).toNat then k.step8 else k.setStall (some (.waitt tc (k.tval y) 0)))))
/-- SETT: t[TC] ← value (Table 3.4). -/
def execSett (c : CoreId) (tc : BitVec 3) (y : Op2) (s : State) : Host.Outcome State Fault Refusal :=
  .next (s.scalarOp c.val (fun k => k.setTok tc.toNat (k.tval y)))
/-- ADDT: t[TC] ← t[TC] + value; past 0xFFFF_FFFF the counter saturates and the sequencer faults (R91). -/
def execAddt (c : CoreId) (tc : BitVec 3) (y : Op2) (s : State) : Host.Outcome State Fault Refusal :=
  .next (s.seqRun c.val (fun s =>
    let k := s.core c.val
    if (k.tok tc.toNat).toNat + (k.tval y).toNat < 2 ^ 32 then
      s.modCore c.val (fun k => (k.setTok tc.toNat (k.tok tc.toNat + k.tval y)).step8)
    else (s.modCore c.val (fun k => k.setTok tc.toNat 0xFFFFFFFF)).seqFault c.val codeTokenOvf 0))
/-- RDT: s[RD] ← t[TC], zero-extended (Table 3.4). -/
def execRdt (c : CoreId) (rd : BitVec 5) (tc : BitVec 3) (s : State) : Host.Outcome State Fault Refusal :=
  .next (s.scalar c rd (fun k => (k.tok tc.toNat).setWidth 64))

/-- A QUEUED or ACTIVE stream whose first station is in the mask (R87). -/
def Core.fenced (k : Core) (mask : BitVec 8) : Bool :=
  Core.slotNums.any (fun n => (k.slot n).live && bit mask (stationOf (kindOf (k.slot n).desc)))
/-- FENCE: wait until no stream of the masked stations is QUEUED or ACTIVE (R87). -/
def execFence (c : CoreId) (mask : BitVec 8) (s : State) : Host.Outcome State Fault Refusal :=
  .next (s.seqRun c.val (fun s => s.modCore c.val (fun k =>
    if k.fenced mask then k.setStall (some (.fence mask)) else k.step8)))
/-- SLOTQ: s[RD] ← state of slot s[RA][5:0] (R86). -/
def execSlotq (c : CoreId) (rd ra : BitVec 5) (s : State) : Host.Outcome State Fault Refusal :=
  .next (s.scalar c rd (fun k => BitVec.ofNat 64 (k.slot ((k.s ra.toNat).toNat % 64)).state.code))

/-- A yield point resets the YIELD_OVERDUE count (R66). -/
def Core.atYield (k : Core) (mash : Nat) : Core := { k with seq := { k.seq with yieldMark := mash, overdueSeen := false } }
/-- Soft targets may lie in the core's scratchpad or go out from it: it has an enabled channel or has issued a SOFT SEND since
launch. It runs to END and its context is never saved, whenever a request reached it (R2, R202). -/
def Core.softPinned (k : Core) : Bool := k.welt.softSent || k.hop.chans.any (fun e => e.2.on)
/-- A bucket slot of the core has buffers that have not been released (R300). -/
def Core.bucketPinned (k : Core) : Bool := k.bkt.slots.any (fun e => e.2.released < e.2.landings.length)
/-- The core is not pre-empted (R202, R300). -/
def Core.keeps (k : Core) : Bool := k.softPinned || k.bucketPinned
/-- YIELD: a yield point; with a request pending the core takes the pre-emption, and the saved PC is the next word (R64, R77);
a core pinned by Hopback or by unreleased bucket buffers goes on (R202, R300). -/
def execYield (c : CoreId) (s : State) : Host.Outcome State Fault Refusal :=
  .next (s.seqRun c.val (fun s => s.modCore c.val (fun k =>
    let k1 := (k.atYield (s.mashOf c.val)).step8
    if k.seq.preempt && !k.keeps then { k1 with seq := { k1.seq with parking := true } } else k1)))
/-- RDCYC: s[RD] ← the bay's mash cycle counter (R86). -/
def execRdcyc (c : CoreId) (rd : BitVec 5) (s : State) : Host.Outcome State Fault Refusal :=
  .next (s.scalar c rd (fun _ => BitVec.ofNat 64 (s.mashOf c.val)))
/-- NOP: no effect (Table 3.4). -/
def execNop (c : CoreId) (s : State) : Host.Outcome State Fault Refusal := .next (s.scalarOp c.val id)
/-- RAISE: fault with SW_RAISE and the 16-bit code (Table 3.4, R95). -/
def execRaise (c : CoreId) (code : BitVec 16) (s : State) : Host.Outcome State Fault Refusal :=
  .next (s.seqRun c.val (fun s => s.seqFault c.val codeSwRaise code.toNat))
/-- MSG: send s[RS] to s[RS + 3] to destination SEL; with 8 messages waiting it stalls (R92). -/
def Core.sendMsg (k : Core) (rs : BitVec 5) (dest : BitVec 4) : Core :=
  if k.seq.outbound.length < 8 then
    { k with seq := { k.seq with outbound := k.seq.outbound ++ [(dest.toNat, k.quad rs.toNat)] } }.step8
  else k.setStall (some (.msg rs dest))
def execMsg (c : CoreId) (rs : BitVec 5) (dest : BitVec 4) (s : State) : Host.Outcome State Fault Refusal :=
  .next (s.seqRun c.val (fun s =>
    if 3 ≤ dest.toNat then s.seqFault c.val codeIllegalOp 0
    else if groupOk rs then s.modCore c.val (fun k => k.sendMsg rs dest)
    else s.seqFault c.val codeRegAlign 0))
/-- SIGCHK: fault CFSIG unless SIG equals the expected value; then SIG ← 0 (R87). -/
def execSigchk (c : CoreId) (expect : BitVec 32) (s : State) : Host.Outcome State Fault Refusal :=
  .next (s.seqRun c.val (fun s =>
    if (s.core c.val).seq.sig = expect then
      s.modCore c.val (fun k => { k with seq := { k.seq with sig := 0, sigMark := s.mashOf c.val } }.step8)
    else s.seqFault c.val codeCfsig 0))
/-- A fetched word that no opcode defines, or with a non-zero unused field, faults with ILLEGAL_OP (R82). -/
def execIllegalOp (c : CoreId) (w : Word) (s : State) : Host.Outcome State Fault Refusal :=
  .next (s.seqRun c.val (fun s => if (decodeWord c w).isNone then s.seqFault c.val codeIllegalOp 0 else s))

end Sys2Proof.Machine
end

