-- ==== Sys2Proof/Machine/HopMath.lean ====
section
/-! DEFINITION. Arithmetic of Hopback (R210 to R217): hop_exp with an unbounded exponent, exact quotients and roots rounded
once, references, normaliser images, log-normalisers, and the losses and gradients of Table 7.8. -/

namespace Sys2Proof.Machine

/-! ## hop_exp (R210) -/

/-- e^(±m × 2^e) truncated to 24 significant bits: mantissa and exponent. -/
def expLow24 (neg : Bool) (m : Nat) (e : Int) : Nat × Int :=
  let b := expPos m e
  let v := if neg then 2 ^ (2 * transBits) / b.1.2 else b.1.1
  let l := Nat.log2 v
  (v / 2 ^ (l - 23), (if neg then -(b.2 : Int) else (b.2 : Int)) + l - 23 - transBits)

/-- e^y lies between two normal FP32 values. -/
def normalRange (m : Nat) (e : Int) : Bool := -126 ≤ e + 23 && e + 23 ≤ 127 && !(m = 0xFFFFFF && e + 23 = 127)

/-- hop_exp of an FP32 code: 24 significant bits, unbounded exponent; the bits of EXP where e^y is a normal FP32 value. -/
def hopExp (c : Nat) : XVal :=
  let c := flushSub c
  match f32v c with
  | .nan => .nan
  | .inf n => if n then .zero else .inf false
  | .fin n m e =>
    if m = 0 then .one
    else
      let r := expLow24 n m e
      let up := if normalRange r.1 r.2 then Config.expUp (BitVec.ofNat 32 c) else Config.hopExpUp (BitVec.ofNat 32 c)
      .fin false (r.1 + b2n up) r.2

/-! ## Quotients, roots and logarithms, exact up to a last sticky bit -/

/-- num ÷ den × 2^e with at least 100 bits and a sticky last bit, so that one later rounding is right. -/
def ratSticky (neg : Bool) (num den : Nat) (e : Int) : XVal :=
  let sh := 100 + Nat.log2 den - Nat.log2 num
  let q := num * 2 ^ sh / den
  .fin neg (2 * q + b2n (num * 2 ^ sh % den ≠ 0)) (e - sh - 1)
/-- x ÷ y: 0 ÷ 0 and ∞ ÷ ∞ are NaN, a non-zero value ÷ 0 is infinite (R127). -/
def XVal.quo : XVal → XVal → XVal
  | .nan, _ => .nan
  | _, .nan => .nan
  | .inf _, .inf _ => .nan
  | .inf a, .fin b _ _ => .inf (a != b)
  | .fin a _ _, .inf b => .fin (a != b) 0 0
  | .fin a m e, .fin b k f =>
    if k = 0 then (if m = 0 then .nan else .inf (a != b))
    else if m = 0 then .fin (a != b) 0 0
    else ratSticky (a != b) m k (e - f)
/-- The flags of an exact quotient that is infinite from finite operands: OF (R127). -/
def XVal.quoFlags (x y : XVal) : Flags := { ovf := x.isFin && !x.isZero && y.isZero }
/-- The square root of a value that is not negative, to 400 bits below its last and a sticky bit. -/
def XVal.root : XVal → XVal
  | .fin _ m e =>
    let m2 := (if e % 2 = 0 then m else 2 * m) * 2 ^ 800
    let h := (if e % 2 = 0 then e else e - 1) / 2
    let r := Nat.sqrt m2
    .fin false (2 * r + b2n (r * r ≠ m2)) (h - 401)
  | x => x
/-- q × ln 2 at working precision. -/
def mulLn2 (q : Int) : XVal := .ofDy (q * ln2Lo) (-(transBits : Int))
/-- ln n of a positive count, at working precision. -/
def lnNat (n : Nat) : XVal := let b := lnBounds n 0; .fin b.1 b.2.1.1 (-(transBits : Int))

/-! ## Pass ONE (R211, R212) -/

/-- ceil(y × log₂ e) of a finite FP32 value. -/
def refOf : XVal → Int
  | .fin n m e =>
    if m = 0 then 0
    else
      let y := if 0 ≤ e + transBits then m * 2 ^ (e + transBits).toNat else m / 2 ^ (-(e + transBits)).toNat
      let k : Int := (y / ln2Hi : Nat)
      if n then -k else k + 1
  | _ => 0
/-- Raise the window base of an image to `e`, shifting V right towards zero (R211 to R213). -/
def LongReg.raiseTo (x : LongReg) (e : Int) : LongReg :=
  if e ≤ x.e then x
  else
    let d := (e - x.e).toNat
    let v := if 330 ≤ d then 0 else x.v.tdiv (2 ^ d)
    { x with v := v, e := e, trunc := x.trunc || (if 330 ≤ d then x.v ≠ 0 else x.v % (2 ^ d : Int) ≠ 0) }
/-- A contribution far below the window, replaced by one that truncates to zero in the same way. -/
def nearWindow (e : Int) : XVal → XVal
  | .fin n m x => if m ≠ 0 ∧ flog2 m x < e - 2 then .fin n 1 (e - 2) else .fin n m x
  | v => v
/-- Apply a contribution at the window of an image (R180, R211). -/
def LongReg.put (x : LongReg) (v : XVal) : LongReg × Flags := let r := x.take (nearWindow x.e v); (r.1, r.2.1)

/-- One value of a row: the reference, its image, and for RKL the image of t × w (R211). -/
def refStep (q : Int) (any : Bool) (z : LongReg) (a : Option LongReg) (y w : XVal) :
    Int × Bool × LongReg × Option LongReg × Flags :=
  match y with
  | .nan => let r := z.put .nan; (q, any, r.1, a, r.2)
  | .inf false => let r := z.put (.inf false); (q, true, r.1, a, r.2)
  | .inf true => (q, any, { z with count := z.count + 1 }, a.map (fun a => { a with count := a.count + 1 }), {})
  | .fin n m e =>
    let qy := refOf (.fin n m e)
    let q1 := if q < qy then qy else q
    let z1 := z.raiseTo (q1 - 160)
    let t := hopExp (f32 (.fin n m e)).1
    let rz := z1.put t
    match a with
    | none => (q1, true, rz.1, none, rz.2)
    | some a =>
      let ra := (a.raiseTo (q1 - 160)).put (t.mul w)
      (q1, true, rz.1, some ra.1, rz.2.or ra.2)

/-- An image of an empty row at the lowest reference. -/
def rowStart : LongReg := { v := 0, e := -2147483648 - 160, st := 0, trunc := false, count := 0 }
/-- The image a row leaves (R212). -/
def imageOut (q : Int) (some_ : Bool) (z : LongReg) : LongReg × Flags :=
  let z1 := if some_ then z else { z with st := 3, v := 0 }
  if 1183 < q then ({ z1 with v := 0, e := -160, st := 3 }, { nv := true })
  else if q < -864 then
    let r := z1.raiseTo (-1024)
    ({ r with e := -1024 }, { nv := !some_, nx := r.trunc })
  else ({ z1 with e := q - 160 }, { nv := !some_, nx := z1.trunc })
/-- EMIT's image for a reference (R213); none when the reference lies below the local image. -/
def emitImage (q : Int) (x : LongReg) : Option (LongReg × Flags) :=
  if q < -864 ∨ 1183 < q then some ({ x with v := 0, e := -160, st := 3 }, { nv := true })
  else if q < x.e + 160 then none
  else let r := x.raiseTo (q - 160); some (r, { nx := r.trunc && !x.trunc })

/-! ## Pass TWO (R216, R217, Table 7.8) -/

/-- The log-normaliser of a combined image (R216): z is V × 2⁻¹⁶⁰ and Q is E + 160. -/
def logNorm (x : LongReg) : Rnd :=
  if x.st ≠ 0 ∨ x.v ≤ 0 then { v := .nan }
  else
    let z := f32 (.ofDy x.v (-160))
    let c := flushSub z.1
    let l := transLog c (Config.logUp (BitVec.ofNat 32 c))
    let r := rnd (l.1.add (mulLn2 (x.e + 160)))
    { r with f := (z.2.or l.2).or r.f }

/-- What pass TWO knows of one row. -/
structure RowNorm where
  ls : XVal := .zero
  lt : XVal := .zero
  /-- D of RKL -/
  d : XVal := .zero
  /-- Qa, √(Qa·Qb) and c of HCOS -/
  qa : XVal := .zero
  rt : XVal := .zero
  c : XVal := .zero
  f : Flags := {}
  deriving DecidableEq, Repr

/-- Row-loss contribution of an element, and its gradient term with its flags (Table 7.8; which roundings raise them, log entry
85). -/
structure LossTerm where
  loss : Option XVal
  g : XVal
  f : Flags
  deriving DecidableEq, Repr

def half (x : XVal) : XVal := x.scale (-1)
/-- A loss term whose gradient expression is rounded once. -/
def lossTerm (loss : Option XVal) (g : XVal) (f : Flags) : LossTerm := let r := rnd g; { loss := loss, g := r.v, f := f.or r.f }

/-- Table 7.8 by kind: `y`, `u` are the scaled inputs, `s`, `t` the raw ones. -/
def lossOf (kind : Nat) (n : RowNorm) (delta : XVal) (y u s t : XVal) : LossTerm :=
  let a := rnd (y.sub n.ls)
  let b := rnd (u.sub n.lt)
  let p := rnd (hopExp (codeOf32 a.v))
  let q := rnd (hopExp (codeOf32 b.v))
  let fl := flagsOf [a, b, p, q]
  let e := s.sub t
  let bad := y.isNan || u.isNan
  match kind with
  | 0 => lossTerm (some (if bad then .nan else if q.v.isZero then .zero else q.v.mul (b.v.sub a.v))) (p.v.sub q.v) fl
  | 1 =>
    let d := a.v.sub b.v
    lossTerm (some (if bad then .nan else if p.v.isZero then .zero else p.v.mul d))
      (if bad then .nan else p.v.mul (d.sub n.d)) fl
  | 4 =>
    let loss := if e.isNan then .nan
      else if e.abs.le delta then half (e.mul e) else delta.mul (e.abs.sub (half delta))
    let g := if e.isNan then .nan else if e.abs.le delta then e else if e.isNeg then delta.neg else delta
    lossTerm (some loss) g {}
  | 5 =>
    -- c·s ÷ Qa − t ÷ √(Qa·Qb) over the common denominator Qa·√(Qa·Qb)
    let whole := n.c.isFin && n.qa.isFin && n.rt.isFin
    let top := ((n.c.mul s).mul n.rt).sub (t.mul n.qa)
    let g := if whole then top.quo (n.qa.mul n.rt) else ((n.c.mul s).quo n.qa).sub (t.quo n.rt)
    lossTerm none g (if whole then top.quoFlags (n.qa.mul n.rt) else (n.c.mul s).quoFlags n.qa |>.or (t.quoFlags n.rt))
  | _ => lossTerm (some (e.mul e)) e {}

end Sys2Proof.Machine
end

