-- ==== Sys2Proof/Machine/Hopback.lean ====
section
/-! DEFINITION. Hopback (chapter 7): the passes ONE, EMIT, TWO and GATE of a LOSS stream, record sets, the soft-target
channels with their ring and credits, and the arrival of soft-target data and credit flits. -/

namespace Sys2Proof.Machine

/-! ## Descriptor fields (Table 7.4) -/

def hKind (d : BitVec 256) : Nat := fld d 216 4
def hPass (d : BitVec 256) : Nat := fld d 220 2
def hTsrc (d : BitVec 256) : Nat := fld d 222 2
def hChan (d : BitVec 256) : Nat := fld d 224 2
def hGacc (d : BitVec 256) : Bool := bit d 226
def hRelease (d : BitVec 256) : Bool := bit d 227
def hLead (d : BitVec 256) : Bool := bit d 228
/-- The stream names a soft-target channel: TSRC 0 of a kind and pass with a teacher input (R203, R208, Table 7.5). -/
def hNames (d : BitVec 256) : Bool := kindOf d = 6 && hPass d ≠ 3 && hKind d ≠ 7 && hTsrc d = 0
/-- Kinds with normalisers: FKL, RKL and TOPK. -/
def hNorms (k : Nat) : Bool := k = 0 || k = 1 || k = 7
/-- Kinds whose only pass is TWO (Table 7.5). -/
def hTwoOnly (k : Nat) : Bool := k = 2 || k = 3 || k = 4 || k = 6
/-- Images per row in the order of Table 7.5: 0 ZS, 1 ZT, 2 AS; HCOS has DOT, SSA and SSB. -/
def hImages (d : BitVec 256) : List Nat :=
  match hKind d with
  | 0 => if hTsrc d = 2 then [0] else [0, 1]
  | 1 => if hTsrc d = 2 then [0, 2] else [0, 1, 2]
  | 5 => [3, 4, 5]
  | 7 => [0]
  | _ => []

/-! ## The parameter block (Table 7.6) -/

structure HBlock where
  q : List OEntry := []
  rt : Nat := 0
  gs : Nat := 0
  delta : Nat := 0
  thr : Nat := 0
  step : Nat := 0
  classBase : Nat := 0
  k : Nat := 0
  zeroOk : Bool := true
  deriving DecidableEq, Repr

def hBlockOf (bs : List Byte) : HBlock :=
  let at_ := fun (a n : Nat) => bytesNat ((bs.drop a).take n)
  { q := (List.range 4).map (fun i => oEntryOf (at_ (8 * i) 8)), rt := at_ 32 4, gs := at_ 36 4, delta := at_ 40 4,
    thr := at_ 44 4, step := at_ 48 4, classBase := at_ 52 4, k := at_ 56 2, zeroOk := at_ 58 198 = 0 }
def HBlock.e (b : HBlock) (i : Nat) : OEntry := b.q.getD i ⟨0, 0, 0, false, false, true⟩
/-- Q entries that a stream takes, by index from 0 (Table 7.7). -/
def hNeeds (d : BitVec 256) : List Nat :=
  let q1 := if hKind d ≠ 7 && hTsrc d ≠ 0 then [0] else []
  match hPass d with
  | 0 => q1 ++ (if hNorms (hKind d) then [1, 2] else [2])
  | 1 => [1, 2]
  | 2 => q1 ++ (if hKind d = 7 then [2, 3] else if hTwoOnly (hKind d) then [1] else [1, 3])
  | _ => [0]
/-- Classes a stream covers (R193). -/
def hClasses (d : BitVec 256) : Nat := dTiles d * dCols d
/-- The parameter block or the class range is refused (R193, R205, R221); a teacher tile is no MX tile and none of E8M0, from which
no stream widens (R108). -/
def hParamBad (d : BitVec 256) (b : HBlock) : Bool :=
  !b.zeroOk || 1048576 < b.classBase + hClasses d ||
  (List.range 4).any (fun i => !(b.e i).zeroOk || ((b.e i).used && !fmtDefined (b.e i).fmt)) ||
  (hNeeds d).any (fun i => !(b.e i).used) ||
  (hKind d ≠ 7 && hTsrc d = 1 && (hPass d = 0 || hPass d = 2) && (isMx (b.e 0).fmt || (b.e 0).fmt = 13)) ||
  !((f32v b.rt).isFin && XVal.zero.lt (f32v b.rt)) ||
  (f32v b.delta).isNan || (f32v b.delta).lt .zero || (f32v b.thr).isNan ||
  (hKind d = 7 && (512 < b.k || (hPass d ≠ 1 && hClasses d < b.k)))

/-! ## Channels -/

def Core.modHop (k : Core) (f : Hop → Hop) : Core := { k with hop := f k.hop }
def Core.setChan (k : Core) (ch : Nat) (h : HopChan) : Core := k.modHop (fun p => { p with chans := p.chans.set ch h })
def Core.modChan (k : Core) (ch : Nat) (f : HopChan → HopChan) : Core := k.setChan ch (f (k.hopChan ch))
/-- First line of ring tile `seq` (R195). -/
def HopChan.tileLine (h : HopChan) (seq : Nat) : Nat := h.base + (seq % max 1 h.tiles) * h.lines
def HopChan.tile (h : HopChan) (seq : Nat) : RingTile := h.ring.get {} (seq % max 1 h.tiles)
/-- The fault a LOSS stream meets at a ring tile (R199, R207). -/
def HopChan.tileFault (h : HopChan) (seq : Nat) (d : BitVec 256) (step : Nat) : Option Nat :=
  let t := h.tile seq
  if t.bad || t.rows + 1 ≠ dRows d || t.cols + 1 ≠ dCols d then some codeHopShape
  else if t.step.toNat ≠ step then some codeHopStep
  else none
/-- Class-specific header bits [255:32] of a credit flit (Table 7.2). -/
def creditMore (ch grant : Nat) (first : Bool) : Nat := 1 + ch * 2 ^ 1 + grant % 2 ^ 32 * 2 ^ 3 + b2n first * 2 ^ 35
/-- Class-specific header bits [255:32] of a soft-target data flit (Table 7.2). -/
def softMore (ch seq step rows cols line : Nat) : Nat :=
  ch * 2 ^ 1 + seq % 2 ^ 32 * 2 ^ 3 + step * 2 ^ 35 + rows * 2 ^ 67 + cols * 2 ^ 75 + line * 2 ^ 83
/-- Send a credit flit with GRANT = RING_TILES + RELEASED (R200). -/
def State.sendCredit (s : State) (c ch : Nat) (first : Bool) : State :=
  let h := (s.core c).hopChan ch
  let s1 := s.modCore c (fun k => k.modChan ch (fun h => { h with freed := 0 }))
  s1.inject (s1.newFlit c h.sender 4 (creditMore ch (h.tiles + h.released) first) 0 0 .credit)
/-- Free one ring tile; a credit flit goes out at BATCH (R200). -/
def State.freeTile (s : State) (c ch seq : Nat) : State :=
  let s1 := s.modCore c (fun k => k.modChan ch (fun h =>
    { h with released := h.released + 1, freed := h.freed + 1, ring := h.ring.erase (seq % max 1 h.tiles) }))
  let h := (s1.core c).hopChan ch
  if h.batch ≤ h.freed then s1.sendCredit c ch false else s1

/-! ## Operand rows -/

/-- Lines the stream may read in a ring it names (R201). -/
def hOwn (d : BitVec 256) : List Nat := if hNames d then [hChan d] else []
def bitsAt (n lo len : Nat) : Nat := (n >>> lo) % 2 ^ len
/-- A record set as a number is well formed for a row and a class range (R220, R223). -/
def recordOk (n row base classes : Nat) : Bool :=
  let k := bitsAt n 72 10
  let idx := (List.range k).map (fun j => bitsAt n (128 + 36 * j) 20)
  bitsAt n 0 32 = row && bitsAt n 32 20 = base && bitsAt n 52 20 + 1 = classes && k ≤ 512 &&
    idx.all (fun i => base ≤ i && i < base + classes) && (idx.zip (idx.drop 1)).all (fun p => p.1 < p.2)
/-- u of every class from `first` on, for `n` classes, from a record set (R223). -/
def recordVals (n first cnt : Nat) : List XVal :=
  let k := bitsAt n 72 10
  let rest := bitsAt n 52 20 + 1 - k
  let un := (rnd ((elemVal 2 (bitsAt n 82 16)).sub (lnNat rest))).v
  (List.range cnt).map (fun c =>
    match (List.range k).find? (fun j => bitsAt n (128 + 36 * j) 20 = first + c) with
    | some j => elemVal 2 (bitsAt n (128 + 36 * j + 20) 16)
    | none => un)
/-- Teacher values of row `r` of tile `i`: raw values for TSRC 0 and 1, u for TSRC 2 (R206, R207, R223). -/
def Mv.teacherRow (m : Mv) (c : Nat) (d : BitVec 256) (b : HBlock) (seq i r : Nat) : Mv × List XVal :=
  let n := dCols d
  match hTsrc d with
  | 0 =>
    let line := ((m.s.core c).hopChan (hChan d)).tileLine seq + r * cdiv n 64
    let q := m.readRow c 0 (hOwn d) false (256 * line) 0 n
    (q.1, q.2.map f32v)
  | 1 =>
    let e := b.e 0
    let q := m.readRow c 0 (hOwn d) false (rowAddr 0 e.line e.str (i * dRows d + r)) e.fmt n
    (q.1, q.2.map (elemVal e.fmt))
  | _ =>
    let e := b.e 0
    let a := rowAddr 0 e.line e.str r
    let h := m.readSp c (hOwn d) false a 16
    let q := h.1.readSp c (hOwn d) false a (256 * cdiv (128 + 36 * bitsAt (bytesNat h.2) 72 10) 2048)
    let v := bytesNat q.2
    if recordOk v r b.classBase (hClasses d) then (q.1, recordVals v (b.classBase + i * n) n)
    else (q.1.halt codeHopRecord r, [])
/-- u of an element: rounded t × RT, or the record's log-probability (R210, R223). -/
def hScaled (d : BitVec 256) (b : HBlock) (t : XVal) : XVal := if hTsrc d = 2 then t else (rnd (t.mul (f32v b.rt))).v
/-- Line of the image of one kind position and row at an image tile (R206). -/
def hImgAddr (line rows pos r : Nat) : Nat := 256 * (line + pos * rows + r)
/-- Read an image; one that is no valid form of Table 6.5 reads as STATE NAN at E −160 (log entry 88). -/
def Mv.readImg (m : Mv) (c : Nat) (own : List Nat) (a : Nat) : Mv × LongReg :=
  let q := m.readSp c own false a 64
  (q.1, (lrParse q.2).getD { v := 0, e := -160, st := 3, trunc := false, count := 0 })
def Mv.writeImg (m : Mv) (c a : Nat) (x : LongReg) : Mv := m.writeSp c [] a (lrImage x)
def Mv.raise5 (m : Mv) (c : Nat) (f : Flags) : Mv := m.mod (fun s => s.raise c 5 f)

/-! ## Rows in progress -/

def Core.hopRow (k : Core) (r : Nat) : HopRow := k.hop.work.getD r {}
def Core.setHopRow (k : Core) (r : Nat) (h : HopRow) : Core := k.modHop (fun p => { p with work := p.work.set r h })
/-- The row as a stream begins. -/
def hopRow0 (d : BitVec 256) : HopRow :=
  { ims := if hPass d = 2 then [{}] else (hImages d).map (fun i => if 3 ≤ i then {} else rowStart) }
/-- The tile is finished: the stream's place and the channel's pointers move on (R207). -/
def State.tileDone (s : State) (c n : Nat) (d : BitVec 256) : State :=
  s.modCore c (fun k =>
    let k1 := k.modSlot n (fun x => { x with moved := x.moved + 1 })
    if hNames d then k1.modChan (hChan d) (fun h =>
      if hPass d = 0 then { h with onePtr := h.onePtr + 1 } else { h with twoPtr := h.twoPtr + 1 })
    else k1)

/-! ## Pass ONE -/

/-- One row of a tile in pass ONE: `s` and `t` raw student and teacher values (R211). -/
def hopOneRow (d : BitVec 256) (b : HBlock) (h : HopRow) (s t : List XVal) : HopRow × Flags :=
  if hKind d = 5 then
    (s.zip t).foldl (fun (a : HopRow × Flags) p =>
      let p0 := (a.1.ims.getD 0 {}).put (p.1.mul p.2)
      let p1 := (a.1.ims.getD 1 {}).put (p.1.mul p.1)
      let p2 := (a.1.ims.getD 2 {}).put (p.2.mul p.2)
      ({ a.1 with ims := [p0.1, p1.1, p2.1] }, ((a.2.or p0.2).or p1.2).or p2.2)) (h, {})
  else
    let ys := s.map (fun x => (rnd (x.mul (f32v b.rt))).v)
    let us := t.map (hScaled d b)
    let last := h.ims.length - 1
    let st := (List.range ys.length).foldl (fun (a : HopRow × Flags) j =>
      let y := ys.getD j .zero
      let w := (rnd (y.sub (us.getD j .zero))).v
      let r := refStep a.1.qs a.1.anyS (a.1.ims.getD 0 {}) (if hKind d = 1 then a.1.ims[last]? else none) y w
      let ims := a.1.ims.set 0 r.2.2.1
      ({ a.1 with qs := r.1, anyS := r.2.1, ims := match r.2.2.2.1 with | some x => ims.set last x | none => ims },
        a.2.or r.2.2.2.2)) (h, {})
    if (hImages d).contains 1 then
      us.foldl (fun (a : HopRow × Flags) u =>
        let r := refStep a.1.qt a.1.anyT (a.1.ims.getD 1 {}) none u .zero
        ({ a.1 with qt := r.1, anyT := r.2.1, ims := a.1.ims.set 1 r.2.2.1 }, a.2.or r.2.2.2.2)) st
    else st

/-- Student values of row `r` of tile `i`: from Sparge with a copy in D, or from scratchpad (Table 7.7). -/
def Mv.studentRow (m : Mv) (c : Nat) (x : Slot) (i r : Nat) : Mv × List XVal :=
  let d := x.desc
  let row := i * dRows d + r
  if dSspace d = 3 then
    let es := ((m.s.core c).takePath 5 (dCols d)).2
    let m1 := m.mod (fun s => s.setCore c ((s.core c).takePath 5 (dCols d)).1)
    (m1.writeRow c 0 [] (rowAddr 0 x.dstBase (dDstr d) row) (dDfmt d) es, es.map f32v)
  else
    let q := m.readRow c 0 (hOwn d) (dLast d) (rowAddr 0 x.srcBase (dSstr d) row) (dSfmt d) (dCols d)
    (q.1, q.2.map (elemVal (dSfmt d)))

/-- One tile of pass ONE. -/
def Mv.oneTile (m : Mv) (c n : Nat) (x : Slot) (b : HBlock) (i : Nat) : Mv :=
  let d := x.desc
  let seq := ((m.s.core c).hopChan (hChan d)).onePtr
  let m1 := m.each (List.range (dRows d)) (fun s r =>
    let q := ({ s := s } : Mv).studentRow c x i r
    let t := if hKind d = 7 then (q.1, []) else q.1.teacherRow c d b seq i r
    let v := hopOneRow d b ((s.core c).hopRow r) q.2 t.2
    (t.1.mod (fun s => s.modCore c (fun k => k.setHopRow r v.1))).raise5 c v.2)
  m1.mod (fun s => s.tileDone c n d)

/-- The REF entry of a row; a reference beyond i32 has no stated form and is a free value (R211, log entry 21). -/
def State.refWord (s : State) (q : Int) : Nat × State :=
  if q < 2147483648 then (ofSigned 32 q, s) else let v := s.draw 32; (v.1.toNat, v.2)
/-- The images and references of row `r` as pass ONE writes them (R211, R212); row 1 of the REF tile is zero for TSRC 2, and for TOPK,
which has no teacher (log entry 88). -/
def Mv.oneOut (m : Mv) (c : Nat) (d : BitVec 256) (b : HBlock) (r : Nat) : Mv :=
  let h := (m.s.core c).hopRow r
  let m1 := ((hImages d).zipIdx).foldl (fun (m : Mv) p =>
    let z := h.ims.getD p.2 {}
    let o : LongReg × Flags := if 3 ≤ p.1 then (z, {})
      else if p.1 = 1 then imageOut h.qt h.anyT z else imageOut h.qs (h.anyS || p.1 = 2) z
    (m.writeImg c (hImgAddr (b.e 2).line (dRows d) p.2 r) o.1).raise5 c o.2) m
  if hNorms (hKind d) then
    m1.andThen (fun s =>
      let v := s.refWord h.qs
      let u : Nat × State := if (hImages d).contains 1 then v.2.refWord h.qt else (0, v.2)
      (({ s := u.2 } : Mv).writeSp c [] (256 * (b.e 1).line + 4 * r) (natBytes 4 v.1)).writeSp c []
        (256 * ((b.e 1).line + (b.e 1).str) + 4 * r) (natBytes 4 u.1))
  else m1
/-- Pass ONE is complete: every row's images and references. -/
def Mv.oneEnd (m : Mv) (c : Nat) (d : BitVec 256) (b : HBlock) : Mv :=
  (List.range (dRows d)).foldl (fun m r => m.oneOut c d b r) m

/-! ## EMIT (R213) -/

/-- The REF entry of token row `r`: of the student (side 0) or the teacher (side 1). -/
def Mv.readRef (m : Mv) (c : Nat) (d : BitVec 256) (b : HBlock) (side r : Nat) : Mv × Int :=
  let q := m.readSp c (hOwn d) false (256 * ((b.e 1).line + side * (b.e 1).str) + 4 * r) 4
  (q.1, toSigned 32 (bytesNat q.2))
/-- The references a pass TWO will check against, as EMIT has read them: by token row, student and teacher (R214). -/
def Mv.keepRefs (m : Mv) (c : Nat) (d : BitVec 256) (b : HBlock) : Mv :=
  let q := (List.range (dRows d)).foldl (fun (a : Mv × List (Int × Int)) r =>
    let u := a.1.readRef c d b 0 r
    let v := if (hImages d).contains 1 then u.1.readRef c d b 1 r else (u.1, 0)
    (v.1, a.2 ++ [(u.2, v.2)])) (m, [])
  q.1.mod (fun s => s.modCore c (fun k => k.modHop (fun p => { p with refs := p.refs ++ [q.2] })))
def State.emitMove (s : State) (c : Nat) (d : BitVec 256) (b : HBlock) : Mv :=
  (({ s := s } : Mv).each (List.range (dRows d)) (fun s r =>
    ({ s := s } : Mv).each ((hImages d).zipIdx) (fun s p =>
      let q := ({ s := s } : Mv).readRef c d b (b2n (p.1 = 1)) r
      let a := hImgAddr (b.e 2).line (dRows d) p.2 r
      let x := q.1.readImg c (hOwn d) a
      match emitImage q.2 x.2 with
      | none => x.1.halt codeHopRef r
      | some o => (x.1.writeImg c a o.1).raise5 c o.2))).keepRefs c d b

/-! ## Pass TWO -/

/-- The reference Q of a row and side in the REF entry that EMIT read; without a record of an EMIT it is a free value, drawn at
acceptance (R213, R214; log entry 69). -/
def Core.refOf (k : Core) (side r : Nat) : Int :=
  let p := (k.hop.refs.headD []).getD r (0, 0)
  if side = 0 then p.1 else p.2
/-- The window base of the combined normaliser of one side is Q − 160 (R214). -/
def Core.refOk (k : Core) (side r : Nat) (x : LongReg) : Bool := x.e = k.refOf side r - 160
/-- The normalisers of row `r` from the combined images at Q4 (R214, R216, R217). -/
def Mv.rowNorm (m : Mv) (c : Nat) (d : BitVec 256) (b : HBlock) (r : Nat) : Mv × RowNorm :=
  let at_ := fun (m : Mv) (pos : Nat) => m.readImg c (hOwn d) (hImgAddr (b.e 3).line (dRows d) pos r)
  match hKind d with
  | 5 =>
    let p := at_ m 0
    let a := at_ p.1 1
    let q := at_ a.1 2
    let qa := a.2.val
    let rt := (qa.mul q.2.val).root
    let cc := rnd (p.2.val.quo rt)
    (q.1, { qa := qa, rt := rt, c := cc.v, f := cc.f.or (p.2.val.quoFlags rt) })
  | 0 | 1 | 7 =>
    let z := at_ m 0
    let t : Mv × LongReg := if (hImages d).contains 1 then at_ z.1 1 else (z.1, { v := 1, e := -160 })
    let a : Mv × LongReg := if hKind d = 1 then at_ t.1 ((hImages d).length - 1) else (t.1, z.2)
    let own : Mv × LongReg := if hKind d = 7 then a.1.readImg c (hOwn d) (hImgAddr (b.e 2).line (dRows d) 0 r) else (a.1, z.2)
    if !(m.s.core c).refOk 0 r z.2 || ((hImages d).contains 1 && !(m.s.core c).refOk 1 r t.2) then (own.1.halt codeHopRef r, {})
    else
      let ls := logNorm z.2
      let lt : Rnd := if (hImages d).contains 1 then logNorm t.2 else { v := .zero }
      let q := rnd (a.2.val.quo z.2.val)
      (own.1, { ls := ls.v, lt := lt.v, d := (q.v.sub ls.v).add lt.v, f := ls.f.or lt.f })
  | _ => (m, {})

/-- A written gradient element: GS × G, then added into D or rounded into DFMT (R217). -/
def hGrad (d : BitVec 256) (b : HBlock) (old : Nat) (t : LossTerm) : Nat × Flags :=
  let g := rnd ((f32v b.gs).mul t.g)
  let r := if hGacc d then f32 ((f32v old).add g.v) else narrowVal (dDfmt d) (dSat d) (dSatw d) g.v
  (r.1, (t.f.or g.f).or r.2)
/-- The row has no log-normaliser (R216). -/
def RowNorm.isNan (n : RowNorm) : Bool := n.ls.isNan || n.lt.isNan

/-- One row of a tile in pass TWO. -/
def Mv.twoRow (m : Mv) (c : Nat) (x : Slot) (b : HBlock) (seq i r : Nat) : Mv :=
  let d := x.desc
  let row := i * dRows d + r
  let nm := m.rowNorm c d b r
  let sv := nm.1.readRow c 0 (hOwn d) (dLast d) (rowAddr 0 x.srcBase (dSstr d) row) (dSfmt d) (dCols d)
  let ss := sv.2.map (elemVal (dSfmt d))
  let tv := sv.1.teacherRow c d b seq i r
  let da := rowAddr 0 x.dstBase (dDstr d) row
  let old := if hGacc d then tv.1.readRow c 0 (hOwn d) false da 0 (dCols d) else (tv.1, [])
  let ts := (ss.zip tv.2).map (fun p =>
    if nm.2.isNan then ({ loss := some .nan, g := .nan, f := { nv := true } } : LossTerm)
    else lossOf (hKind d) nm.2 (f32v b.delta) (rnd (p.1.mul (f32v b.rt))).v (hScaled d b p.2) p.1 p.2)
  let gs := ts.zipIdx.map (fun p => hGrad d b (old.2.getD p.2 0) p.1)
  let first : List XVal := if hKind d = 5 && hLead d && i = 0 then [XVal.one.sub nm.2.c] else []
  old.1.andThen (fun s =>
    let h := (s.core c).hopRow r
    let z := (first ++ ts.filterMap (·.loss)).foldl (fun (a : LongReg × Flags) v =>
      let p := a.1.put v; (p.1, a.2.or p.2)) (h.ims.getD 0 {}, nm.2.f)
    (({ s := s.modCore c (fun k => k.setHopRow r { h with ims := [z.1] }) } : Mv).raise5 c
      (gs.foldl (fun a g => a.or g.2) z.2)).writeRow c 0 [] da (dDfmt d) (gs.map (·.1)))

/-- One tile of pass TWO, its release included (R200, R207). -/
def Mv.twoTile (m : Mv) (c n : Nat) (x : Slot) (b : HBlock) (i : Nat) : Mv :=
  let d := x.desc
  let seq := ((m.s.core c).hopChan (hChan d)).twoPtr
  let m1 := (List.range (dRows d)).foldl (fun m r => m.andThen (fun s => ({ s := s } : Mv).twoRow c x b seq i r)) m
  m1.mod (fun s =>
    let s1 := s.tileDone c n d
    if hNames d && hRelease d then s1.freeTile c (hChan d) seq else s1)
/-- The references of a pass TWO of a kind with an EMIT are used up as it ends, by a fault too (R214; log entry 69). -/
def State.dropRefs (s : State) (c : Nat) (d : BitVec 256) : State :=
  if hPass d = 2 && hNorms (hKind d) then s.modCore c (fun k => k.modHop (fun p => { p with refs := p.refs.drop 1 })) else s
/-- A free reference for each row and side, where a pass TWO has no record of an EMIT (R214; log entry 69). -/
def State.drawRefs (s : State) (c : Nat) (d : BitVec 256) : State :=
  if hPass d = 2 && hNorms (hKind d) && (s.core c).hop.refs.isEmpty then
    let r := (List.range (dRows d)).foldl (fun (a : State × List (Int × Int)) _ =>
      let u := a.1.draw 32
      let v := u.2.draw 32
      (v.2, a.2 ++ [(u.1.toInt, v.1.toInt)])) (s, [])
    r.1.modCore c (fun k => k.modHop (fun p => { p with refs := [r.2] }))
  else s
/-- Pass TWO is complete: the row-loss images, and the last credit flit of a releasing stream (R200, R224). -/
def Mv.twoEnd (m : Mv) (c : Nat) (d : BitVec 256) (b : HBlock) : Mv :=
  let m1 := m.each (List.range (dRows d)) (fun s r =>
    ({ s := s } : Mv).writeImg c (hImgAddr (b.e 1).line (dRows d) 0 r) (((s.core c).hopRow r).ims.getD 0 {}))
  m1.mod (fun s => if hNames d && hRelease d then s.sendCredit c (hChan d) false else s)

/-! ## TOPK (R219 to R222) -/

/-- Insert a class by descending log-probability; among equals the earlier one, of lower class index, stays first (R221). -/
def topInsert (p : Nat × XVal) : List (Nat × XVal) → List (Nat × XVal)
  | [] => [p]
  | q :: l => if q.2.lt p.2 || (q.2.isNan && !p.2.isNan) then p :: q :: l else q :: topInsert p l
/-- The K classes listed, in ascending class index. -/
def topK (k : Nat) (bs : List XVal) : List Nat :=
  let sorted := (bs.zipIdx).foldl (fun l p => topInsert (p.2, p.1) l) []
  (sorted.take k).foldl (fun l p => insertSet p.1 l) []
/-- TAIL of a row (R222). -/
def tailOf (own all_ : LongReg) (ys : List XVal) (listed : List Nat) : Nat × Flags :=
  let cut := listed.foldl (fun (z : LongReg) j =>
    match ys.getD j .zero with
    | .fin n m e => (z.put (hopExp (f32 (.fin n m e)).1)).1
    | v => (z.put (if v.isNeg then .zero else v)).1) { v := 0, e := own.e, st := 0, trunc := false, count := 0 }
  let diff := own.v - cut.v
  if diff ≤ 0 then (0xFC00, {})
  else
    let x := XVal.ofDy diff own.e
    let y := XVal.ofDy all_.v all_.e
    let r := rnd (x.quo y)
    let c := flushSub (codeOf32 r.v)
    let l := transLog c (Config.logUp (BitVec.ofNat 32 c))
    let t := narrowVal 2 false false l.1
    (t.1, ((r.f.or (x.quoFlags y)).or l.2).or t.2)
/-- A record set as whole lines (Table 7.9). -/
def recordBytes (row base classes tail : Nat) (recs : List (Nat × Nat)) : List Byte :=
  let head := row + base * 2 ^ 32 + (classes - 1) * 2 ^ 52 + recs.length * 2 ^ 72 + tail * 2 ^ 82
  natBytes (256 * cdiv (128 + 36 * recs.length) 2048)
    (head + 2 ^ 128 * packCodes 36 (recs.map (fun p => p.1 + p.2 * 2 ^ 20)))
/-- Pass TWO of TOPK: one record set per token row (R219 to R222). -/
def State.topMove (s : State) (c : Nat) (x : Slot) (b : HBlock) : Mv :=
  let d := x.desc
  ({ s := s } : Mv).each (List.range (dRows d)) (fun s r =>
    let nm := ({ s := s } : Mv).rowNorm c d b r
    let row := (List.range (dTiles d)).foldl (fun (a : Mv × List XVal) i =>
      let q := a.1.readRow c 0 (hOwn d) (dLast d) (rowAddr 0 x.srcBase (dSstr d) (i * dRows d + r)) (dSfmt d) (dCols d)
      (q.1, a.2 ++ q.2.map (fun e => (rnd ((elemVal (dSfmt d) e).mul (f32v b.rt))).v))) (nm.1, [])
    let bs := row.2.map (fun y => (rnd (y.sub nm.2.ls)).v)
    let listed := topK b.k bs
    let own := row.1.readImg c (hOwn d) (hImgAddr (b.e 2).line (dRows d) 0 r)
    let all_ := own.1.readImg c (hOwn d) (hImgAddr (b.e 3).line (dRows d) 0 r)
    let tail := tailOf own.2 all_.2 row.2 listed
    let ps := listed.map (fun j => (j, narrowVal 2 false false (bs.getD j .nan)))
    (all_.1.raise5 c (ps.foldl (fun a p => a.or p.2.2) (nm.2.f.or tail.2))).writeSp c []
      (rowAddr 0 x.dstBase (dDstr d) r)
      (recordBytes r b.classBase (hClasses d) tail.1 (ps.map (fun p => (b.classBase + p.1, p.2.1)))))

/-! ## GATE (R225) -/

/-- The gate record of Table 7.10. -/
def gateRec (id step div rows : Nat) (bad : Bool) : BitVec 256 :=
  BitVec.ofNat 256 (id + step * 2 ^ 64 + div * 2 ^ 96 + rows * 2 ^ 128 + b2n bad * 2 ^ 160)
def State.gateMove (s : State) (c : Nat) (x : Slot) (b : HBlock) : Mv :=
  let d := x.desc
  ({ s := s } : Mv).each (List.range (dRows d)) (fun s r =>
    let im := ({ s := s } : Mv).readImg c (hOwn d) (rowAddr 0 x.srcBase (dSstr d) r)
    let tb := im.1.readSp c (hOwn d) false (rowAddr 0 (b.e 0).line (b.e 0).str r) 12
    let rows := bytesNat ((tb.2.drop 8).take 4)
    let v := f32 (if rows = 0 then .nan else im.2.val.quo (.ofInt rows))
    let w := (tb.1.raise5 c v.2).writeSp c [] (rowAddr 0 x.dstBase (dDstr d) r) (natBytes 4 v.1)
    let div := f32v v.1
    if !div.isFin || (f32v b.thr).lt div then
      w.mod (fun s => s.modCore c (fun k => k.modHop (fun p =>
        { p with gatePush := satAdd 16 p.gatePush 1,
                 gates := p.gates ++ [gateRec (bytesNat (tb.2.take 8)) b.step v.1 rows (!div.isFin)] })))
    else w)

/-! ## Running a LOSS stream -/

/-- The stream faults as Hopback accepts it (R193, R205, R208, Table 7.12). -/
def Core.hopFault (k : Core) (d : BitVec 256) (b : HBlock) : Option Nat :=
  if hParamBad d b then some codeHopParam
  else if hNames d && !(k.hopChan (hChan d)).on then some codeHopChanOff
  else if hNames d && hPass d = 0 && (k.hopChan (hChan d)).tiles < dTiles d then some codeHopRingSmall
  else none

/-- Read the parameter block and begin the stream (R205). -/
def State.hopStart (s : State) (c : Nat) (x : Slot) : Mv :=
  let q := ({ s := s } : Mv).readSp c (hOwn x.desc) false (256 * x.auxBase) 256
  q.1.andThen (fun s =>
    match (s.core c).hopFault x.desc (hBlockOf q.2) with
    | some code => { s := s, stop := some (code, x.auxBase) }
    | none => { s := (s.drawRefs c x.desc).modCore c (fun k => k.modHop (fun p =>
        { p with block := q.2, work := List.replicate (dRows x.desc) (hopRow0 x.desc) })) })

/-- The next tile of a stream that names a channel: a fault, or whether it has arrived (R207). -/
def Core.tileReady (k : Core) (d : BitVec 256) (b : HBlock) : Option Nat × Bool :=
  if hNames d then
    let h := k.hopChan (hChan d)
    let seq := if hPass d = 0 then h.onePtr else h.twoPtr
    if hPass d = 2 && h.onePtr ≤ seq then (some codeHopOrder, true)
    else if h.received ≤ seq then (none, false)
    else (h.tileFault seq d b.step, true)
  else (none, true)

/-- A pass that meets a bad slot moves its pointer past it before it faults, and a pass TWO that releases frees the slot (R199, R200;
log entry 68). -/
def State.badTile (s : State) (c : Nat) (d : BitVec 256) : State :=
  let h := (s.core c).hopChan (hChan d)
  if hNames d && hPass d = 0 && h.onePtr < h.received && (h.tile h.onePtr).bad then
    s.modCore c (fun k => k.modChan (hChan d) (fun h => { h with onePtr := h.onePtr + 1 }))
  else if hNames d && hPass d = 2 && hRelease d && h.twoPtr < min h.onePtr h.received && (h.tile h.twoPtr).bad then
    (s.modCore c (fun k => k.modChan (hChan d) (fun h => { h with twoPtr := h.twoPtr + 1 }))).freeTile c (hChan d) h.twoPtr
  else s
/-- Elements of a tile of A wait on the path from Sparge, where A comes from there (R99). -/
def Core.tileFed (k : Core) (d : BitVec 256) : Bool := dSspace d ≠ 3 || k.pathHas 5 (dRows d * dCols d)
/-- Run the tiles of a pass from the stream's place on; a tile that has not arrived leaves the stream ACTIVE and blocked
(R65, R207). `fuel` counts the tiles left. -/
def Mv.tileLoop (c n : Nat) (b : HBlock) (tile : Mv → Slot → Nat → Mv) (fin : Mv → Mv) : Nat → Mv → Mv × Bool
  | 0, m => (fin m, true)
  | fuel + 1, m =>
    match m.stop with
    | some _ => (m, true)
    | none =>
      let x := (m.s.core c).slot n
      match (m.s.core c).tileReady x.desc b with
      | (some code, _) => ((m.mod (fun s => s.badTile c x.desc)).halt code x.moved, true)
      | (none, ready) =>
        if ready && (m.s.core c).tileFed x.desc then Mv.tileLoop c n b tile fin fuel (tile m x x.moved) else (m, false)

/-- Finish a LOSS stream, or leave it waiting. -/
def State.hopFinish (r : Mv × Bool) (c n : Nat) : State :=
  if r.2 then ({ r.1 with s := r.1.s.dropRefs c ((r.1.s.core c).slot n).desc } : Mv).finish c n
  else r.1.s.modCore c (fun k => k.modSlot n (fun x => { x with state := .active, blocked := true }))

/-- A LOSS stream that waits for a teacher tile (R207). -/
def Slot.hopWaits (x : Slot) : Bool := x.state = .active && x.blocked && !x.done
/-- Run a LOSS row of one pass: the stream is accepted, or goes on waiting for its tiles. -/
def State.hopRun (s : State) (r : StreamRef) (pass : Nat) (body : Mv → Slot → HBlock → Mv × Bool) : State :=
  let c := r.core.val
  let n := r.slot.val
  let x := (s.core c).slot n
  if kindOf x.desc = 6 && hPass x.desc = pass && x.hopWaits then
    State.hopFinish (body { s := s } x (hBlockOf (s.core c).hop.block)) c n
  else
    s.accept c n (fun d => kindOf d = 6 && hPass d = pass) (fun s x =>
      let m := s.hopStart c { x with moved := 0 }
      match m.stop with
      | some _ => m.finish c n
      | none => State.hopFinish (body m x (hBlockOf (m.s.core c).hop.block)) c n)

/-- PASS_ONE: references and normaliser images (R211, R212). -/
def execPassOne (r : StreamRef) (s : State) : Host.Outcome State Fault Refusal :=
  let c := r.core.val
  let n := r.slot.val
  .next (s.hopRun r 0 (fun m x b =>
    Mv.tileLoop c n b (fun m x i => m.oneTile c n x b i) (fun m => m.oneEnd c x.desc b) (dTiles x.desc - x.moved) m))
/-- EMIT: local images rescaled to the agreed references (R213). -/
def execEmit (r : StreamRef) (s : State) : Host.Outcome State Fault Refusal :=
  let c := r.core.val
  .next (s.hopRun r 1 (fun m x b => (m.andThen (fun s => s.emitMove c x.desc b), true)))
/-- PASS_TWO: gradients and row-loss images, or record sets (R216 to R222). -/
def execPassTwo (r : StreamRef) (s : State) : Host.Outcome State Fault Refusal :=
  let c := r.core.val
  let n := r.slot.val
  .next (s.hopRun r 2 (fun m x b =>
    if hKind x.desc = 7 then (m.andThen (fun s => s.topMove c x b), true)
    else Mv.tileLoop c n b (fun m x i => m.twoTile c n x b i) (fun m => m.twoEnd c x.desc b) (dTiles x.desc - x.moved) m))
/-- GATE_PASS: divergences and gate records (R225). -/
def execGatePass (r : StreamRef) (s : State) : Host.Outcome State Fault Refusal :=
  let c := r.core.val
  .next (s.hopRun r 3 (fun m x b => (m.andThen (fun s => s.gateMove c x b), true)))

/-! ## Enabling and disabling a channel (R192, R196, R203) -/

/-- ERR of an enable with the written fields, zero when accepted. -/
def State.chanErr (s : State) (c ch : Nat) (h : HopChan) : Nat :=
  if spLines < h.base + h.tiles * h.lines || h.tiles = 0 || 64 < h.tiles || h.lines = 0 || 1024 < h.lines ||
      359 < h.sender || s.partOf h.sender ≠ s.partOf c then 2
  else if (List.range 4).any (fun j =>
      let o := (s.core c).hopChan j
      j ≠ ch && o.on && o.base < h.base + h.tiles * h.lines && h.base < o.base + o.tiles * o.lines) then 3
  else 0
/-- HOP_CHAN_c with ENABLE and ERR replaced and the reserved bits zero. -/
def chanCfg (v : Word) (enable : Bool) (err : Nat) : Word := setFld (setFld (setFld v 48 1 (b2n enable)) 49 2 err) 51 13 0
/-- A write of HOP_CHAN_c with ENABLE = 1 (R196). -/
def State.chanEnable (s : State) (c ch : Nat) (v : Word) : State :=
  if ((s.core c).hopChan ch).on then s
  else
    let err := s.chanErr c ch { cfg := v }
    if err ≠ 0 then s.modCore c (fun k => k.modChan ch (fun h => { h with cfg := chanCfg v false err }))
    else (s.modCore c (fun k => k.setChan ch { cfg := chanCfg v true 0 })).sendCredit c ch true
/-- CHANNEL_ENABLE (R196). -/
def execChannelEnable (c : CoreId) (ch : Fin 4) (v : Word) (s : State) : Host.Outcome State Fault Refusal :=
  .next (s.chanEnable c.val ch.val v)

/-- A LOSS stream that names the channel is QUEUED or ACTIVE (R203). -/
def Core.chanBusy (k : Core) (ch : Nat) : Bool :=
  Core.slotNums.any (fun n => (k.slot n).live && hNames (k.slot n).desc && hChan (k.slot n).desc = ch)
/-- The accepted disable: received but unreleased tiles are counted, the ring lines are zeroed, ENABLE clears (R203). -/
def Core.chanOff (k : Core) (ch : Nat) : Core :=
  let h := k.hopChan ch
  if h.on then
    (((k.modHop (fun p => { p with discarded := satAdd 16 p.discarded (h.received - h.released) })).spWrite (256 * h.base)
      (List.replicate (256 * (h.tiles * h.lines)) 0)).setChan ch { h with cfg := chanCfg h.cfg false 0, ring := [] })
  else k
/-- CHANNEL_DISABLE: a write of ENABLE = 0 (R203). -/
def execChannelDisable (c : CoreId) (ch : Fin 4) (s : State) : Host.Outcome State Fault Refusal :=
  .next (s.modCore c.val (fun k =>
    if !(k.hopChan ch.val).on then k
    else if k.chanBusy ch.val then k.modChan ch.val (fun h => { h with cfg := setFld h.cfg 49 2 1 })
    else k.chanOff ch.val))

/-! ## The destination router (R39, R41) -/

/-- The SEND that sent a flit; a credit flit has none. -/
def Flit.sender (f : Flit) : Option (Nat × Nat × Option Nat) :=
  match f.body with | .credit => none | _ => some (f.src, f.slot, some f.order)
def Flit.ends (f : Flit) : Ends := { src := dieOf f.src, dst := dieOf f.dst, ep := f.dst % 6, cls := f.cls, part := f.part }
/-- What the destination router does with a flit from another die; none lets it through. -/
def State.routerStops (s : State) (f : Flit) : Option State :=
  match s.atRouter f.ends with
  | .pass => none
  | .reset => some (s.resetDiscard f.dst (some (f.src, f.slot)))
  | .part => some (s.partDiscard (dieOf f.dst) (dieOf f.src) f.sender)
/-- A flit reaches its endpoint, past the destination router. -/
def State.pass (s : State) (f : Flit) (g : State → State) : State := match s.routerStops f with | some s1 => s1 | none => g s

/-! ## Flits of the soft-target class (R36, R198, R199) -/

/-- Store one data line of a tile; the last line that is written of tile RECEIVED counts it, and a tile that needs more lines than
its slot has is bad and has its slot's lines written (R199; log entry 68); a write by a flit is no stream write and leaves the
liveness bit (R48; log entry 71). -/
def Core.softLine (k : Core) (ch seq : Nat) (step : BitVec 32) (rows cols line : Nat) (bs : List Byte) : Core :=
  let h := k.hopChan ch
  let t := h.tile seq
  let need := (rows + 1) * cdiv (cols + 1) 64
  let t1 : RingTile := { step := step, rows := rows, cols := cols, bad := t.bad || h.lines < need,
                         got := if line < h.lines then insertSet line t.got else t.got }
  let whole := t1.got.length = min h.lines need
  let k1 := if line < h.lines then k.spWrite (256 * (h.tileLine seq + line)) bs else k
  k1.setChan ch { h with
    ring := h.ring.set (seq % max 1 h.tiles) t1
    received := if whole && seq = h.received then h.received + 1 else h.received }
/-- The tile number since enable that a 32-bit SEQ names, near RECEIVED (Table 7.2). -/
def HopChan.seqOf (h : HopChan) (seq : Nat) : Nat := h.received + (seq + 2 ^ 32 - h.received % 2 ^ 32) % 2 ^ 32

/-- A soft-target data flit reaches its Hopback; one that does not come from SENDER is refused with a report that names both
cores (R61, R199, R203). -/
def State.softArrive (s : State) (f : Flit) : State :=
  match f.body with
  | .soft line =>
    let ch := f.schan
    let h := (s.core f.dst).hopChan ch
    if !h.on then s.sendNotice f.src f.slot (some f.order) codeHopChanOff f.tline
    else if h.sender ≠ f.src then
      (s.report { s.coreReport f.dst codeWeltSource with detail := f.src, addr := f.tline }).sendNotice f.src f.slot
        (some f.order) codeWeltSource f.tline
    else
      let s1 := s.modCore f.dst (fun k => k.softLine ch (h.seqOf f.seq) f.step f.trows f.tcols f.tline line)
      if h.lines ≤ f.tline then s1.sendNotice f.src f.slot (some f.order) codeHopTileSize f.tline else s1
  | _ => s
/-- SOFT_DATA_FLIT: the oldest soft-target data flit between two cores arrives (R199). -/
def execSoftDataFlit (dst src : CoreId) (s : State) : Host.Outcome State Fault Refusal :=
  .next (s.arrive src.val dst.val (fun b => match b with | .soft _ => true | _ => false) (fun s f =>
    s.pass f (fun s => s.softArrive f)))

/-- A grant reaches a Welt endpoint: FIRST creates or resets the entry, a larger GRANT replaces it (R198). None: it needs a
17th entry. -/
def creditIn (l : List Credit) (core chan grant : Nat) (first : Bool) : Option (List Credit) :=
  let same := fun (e : Credit) => e.core = core && e.chan = chan
  if l.any same then
    some (l.map (fun e => if same e then
      (if first then { e with grant := grant, sent := 0 } else { e with grant := max e.grant grant }) else e))
  else if !first then some l
  else if l.length < 16 then some (l ++ [{ core := core, chan := chan, grant := grant, sent := 0 }])
  else none
/-- A credit flit reaches the sender's Welt endpoint (R198). -/
def State.creditArrive (s : State) (f : Flit) : State :=
  match creditIn (s.core f.dst).welt.credits f.src f.schan f.grant f.isFirst with
  | some l => s.modCore f.dst (fun k => { k with welt := { k.welt with credits := l } })
  | none => s.report { s.coreReport f.src codeCreditTable with detail := f.dst }
/-- CREDIT_FLIT: the oldest credit flit between two cores arrives (R198). -/
def execCreditFlit (dst src : CoreId) (s : State) : Host.Outcome State Fault Refusal :=
  .next (s.arrive src.val dst.val (fun b => match b with | .credit => true | _ => false) (fun s f =>
    s.pass f (fun s => s.creditArrive f)))

end Sys2Proof.Machine
end

