-- ==== Sys2Proof/Machine/Welt.lean ====
section
/-! DEFINITION. The Welt endpoint within the package: SEND to another core and to soft targets (R60, R102, R198), RECV, the arrival
of flits, the checks of the routers (R18, R32, R39, R41), and flush flits (R373). -/

namespace Sys2Proof.Machine

/-! ## Descriptor fields (Table 3.9) -/

def wPkg (d : BitVec 256) : Nat := fld d 216 12
def wRemote (d : BitVec 256) : Bool := bit d 228
def wCore (d : BitVec 256) : Nat := fld d 229 9
def wChan (d : BitVec 256) : Nat := fld d 238 5
def wVc (d : BitVec 256) : Nat := fld d 243 3
def wLc (d : BitVec 256) : Bool := bit d 246
/-- Fabric class of a SEND's data flits: FC1 with LC, else FC5 (Table 3.9). -/
def wClass (d : BitVec 256) : Nat := if wLc d then 1 else 5
def wSoft (d : BitVec 256) : Bool := bit d 247
/-- A SEND, and a bucket contribution among them (R297). -/
def isSend (d : BitVec 256) : Bool := kindOf d = 10
def isBucket (d : BitVec 256) : Bool := isSend d && wRemote d && wChan d = 31

/-! ## Lines of a SEND or RECV -/

def wRowLines (d : BitVec 256) : Nat := rowLines (dSfmt d) (dCols d)
def wLines (d : BitVec 256) : Nat := dTiles d * dRows d * wRowLines d
/-- Row of line `i`, and the line's place in its row. -/
def wRow (d : BitVec 256) (i : Nat) : Nat := i / max 1 (wRowLines d)
def wCol (d : BitVec 256) (i : Nat) : Nat := i % max 1 (wRowLines d)
/-- Bytes of the row in line `i` (R46). -/
def wBytes (d : BitVec 256) (i : Nat) : Nat := min 256 (rowBytes (dSfmt d) (dCols d) - 256 * wCol d i)
/-- Elements of an FP32 row in line `i`. -/
def wElems (d : BitVec 256) (i : Nat) : Nat := min 64 (dCols d - 64 * wCol d i)

/-- Read line `i` of a SEND from scratchpad or from Sparge's direct path (R50, R99). -/
def Mv.sendLine (m : Mv) (c : Nat) (x : Slot) (i : Nat) : Mv × List Byte :=
  let d := x.desc
  if dSspace d = 3 then
    let n := wElems d i
    match m.stop with
    | some _ => (m, [])
    | none =>
      let q := (m.s.core c).takePath 7 n
      ({ m with s := m.s.setCore c q.1 }, natBytes (4 * n) (packCodes 32 q.2))
  else m.readSp c [] (dLast d) (256 * (x.srcBase + wRow d i * dSstr d + wCol d i)) (wBytes d i)
/-- The source of line `i` is ready: in scratchpad always, on the direct path once its elements wait there. -/
def Core.lineReady (k : Core) (d : BitVec 256) (i : Nat) : Bool := dSspace d ≠ 3 || wElems d i ≤ (k.path 7).elems.length
/-- The slot after a line has moved. -/
def State.sendMoved (s : State) (c n cnt : Nat) : State :=
  s.modCore c (fun k => k.modSlot n (fun x => { x with moved := x.moved + cnt, movedAt := s.mashOf c }))

/-! ## Posted lines (R60, R285) -/

/-- The RECV of a channel that holds position `p`, withdrawn ones included (R373). -/
def Core.recvAt (k : Core) (chan p : Nat) : Option Nat :=
  Core.slotNums.find? (fun n =>
    let x := k.slot n
    kindOf x.desc = 11 && wChan x.desc = chan && (x.state = .active || x.withdrawn) && !x.done && x.start ≤ p &&
      p < x.start + wLines x.desc)
/-- Data flits in flight to a channel. -/
def State.inFlight (s : State) (dst chan : Nat) : Nat :=
  (s.flits.filter (fun f => f.dst = dst && (match f.body with | .data ch .. => ch = chan | _ => false))).length
/-- A line of a channel is posted beyond the lines that have arrived or are on their way; which core the RECV names is checked
where the line arrives (R60, R61; log entry 62). -/
def State.postedFor (s : State) (dst chan : Nat) : Bool :=
  let k := s.core dst
  k.welt.next.get 0 chan + s.inFlight dst chan < k.welt.posted.get 0 chan

/-! ## SEND within the package -/

/-- Send posted lines to another core, at most `fuel` of them (R60). -/
def Mv.sendLocal (c n : Nat) : Nat → Mv → Mv
  | 0, m => m
  | fuel + 1, m =>
    let x := (m.s.core c).slot n
    let d := x.desc
    match m.stop with
    | some _ => m
    | none =>
      if wLines d ≤ x.moved || !m.s.postedFor (wCore d) (wChan d) || !(m.s.core c).lineReady d x.moved ||
          !m.s.queueRoom c (wCore d) (wClass d) then m
      else
        let q := m.sendLine c x x.moved
        Mv.sendLocal c n fuel (q.1.mod (fun s =>
          (s.sendMoved c n 1).inject (s.newFlit c (wCore d) (wClass d) 0 n x.order (.data (wChan d) q.2))))

/-- Lines of one soft-target tile (R195). -/
def softTileLines (d : BitVec 256) : Nat := dRows d * cdiv (dCols d) 64
/-- The credit entry of a destination core and channel. -/
def Core.credit (k : Core) (core chan : Nat) : Option Credit := k.welt.credits.find? (fun e => e.core = core && e.chan = chan)
/-- A tile started against a credit entry (R198). -/
def Core.creditUse (k : Core) (e : Credit) : Core :=
  { k with welt := { k.welt with credits := k.welt.credits.map (fun y =>
    if y.core = e.core && y.chan = e.chan then { y with sent := y.sent + 1 } else y) } }
/-- The tile of line `i` of a SOFT SEND may go on: it has been started, or a credit lets it start; with its sequence number and
the core afterwards (R198, SOFT_TILE_START). -/
def Core.softStart (k : Core) (x : Slot) (i : Nat) : Option (Nat × Core) :=
  let d := x.desc
  if i % softTileLines d ≠ 0 then some (x.start, k)
  else
    match k.credit (wCore d) (wChan d) with
    | some e => if e.grant ≤ e.sent then none else some (e.sent % 2 ^ 32, k.creditUse e)
    | none => none
/-- Send soft-target lines while credits and the endpoint's queue allow it, at most `fuel` of them (R31, R198). -/
def Mv.sendSoft (c n : Nat) : Nat → Mv → Mv
  | 0, m => m
  | fuel + 1, m =>
    let k := m.s.core c
    let x := k.slot n
    let d := x.desc
    match m.stop, k.softStart x x.moved with
    | none, some (seq, k1) =>
      if wLines d ≤ x.moved || !k.lineReady d x.moved || !m.s.queueRoom c (wCore d) 4 then m
      else
        let q := ({ m with s := m.s.setCore c (k1.modSlot n (fun y => { y with start := seq })) } : Mv).sendLine c x x.moved
        let more := softMore (wChan d) seq x.softStep.toNat (dRows d - 1) (dCols d - 1) (x.moved % softTileLines d)
        Mv.sendSoft c n fuel (q.1.mod (fun s =>
          (s.sendMoved c n 1).inject (s.newFlit c (wCore d) 4 more n x.order (.soft q.2))))
    | _, _ => m

/-! ## Arrival of lines at a RECV (R57, R60, R61, R286) -/

/-- Write a line into a RECV's region: the bytes of its row; bytes the line does not carry are free values. -/
def State.recvWrite (s : State) (c n i : Nat) (bs : List Byte) : Mv :=
  let x := (s.core c).slot n
  let d := x.desc
  let need := wBytes d i
  let v : Nat × State := if bs.length < need then (let r := s.draw (8 * (need - bs.length)); (r.1.toNat, r.2)) else (0, s)
  let full := (bs.take need) ++ natBytes (need - bs.length) v.1
  ({ s := v.2 } : Mv).writeSp c [] (256 * (x.dstBase + wRow d i * dDstr d + wCol d i)) full
/-- The frontier of a channel moves over the positions already filled beyond it. -/
def advance (chan : Nat) : Nat → Nat → List (Nat × Nat) → Nat × List (Nat × Nat)
  | 0, p, l => (p, l)
  | n + 1, p, l => if l.contains (chan, p) then advance chan n (p + 1) (l.erase (chan, p)) else (p, l)
/-- Set the frontier of a channel to `p` or beyond. -/
def Core.frontier (k : Core) (chan p : Nat) : Core :=
  let l := k.welt.ahead.filter (fun e => e.1 ≠ chan || p ≤ e.2)
  let r := advance chan l.length p l
  { k with welt := { k.welt with next := k.welt.next.set chan r.1, ahead := r.2 } }
/-- Position `p` of a channel has been filled. -/
def Core.filled (k : Core) (chan p : Nat) : Bool := p < k.welt.next.get 0 chan || k.welt.ahead.contains (chan, p)
/-- Fill position `p` of a channel. -/
def Core.fill (k : Core) (chan p : Nat) : Core :=
  if p = k.welt.next.get 0 chan then k.frontier chan (p + 1)
  else if k.filled chan p then k
  else { k with welt := { k.welt with ahead := k.welt.ahead ++ [(chan, p)] } }
/-- A RECV that faults posts no line any more: lines that come later fill the RECV posted after it (R60, R61). -/
def Core.recvGone (k : Core) (chan n : Nat) : Core :=
  let x := k.slot n
  k.frontier chan (max (k.welt.next.get 0 chan) (x.start + wLines x.desc))
/-- The stream in slot `n` is about to fault: a RECV that has posted lines posts them no more (R60, R61). -/
def Core.recvStops (k : Core) (n : Nat) : Core :=
  let x := k.slot n
  if kindOf x.desc = 11 && x.state = .active && !x.done then k.recvGone (wChan x.desc) n else k
/-- One line fills position `p` of a channel; with its last line the RECV is done. -/
def State.recvLine (s : State) (c chan n p : Nat) (bs : List Byte) : State :=
  let x := (s.core c).slot n
  let m := s.recvWrite c n (p - x.start) bs
  match m.stop with
  | some (code, a) => ((m.s.modCore c (fun k => k.recvGone chan n)).tilesAtFault c n 0).streamFault c n code a
  | none =>
    m.s.modCore c (fun k =>
      if k.filled chan p then k
      else
        (k.modSlot n (fun x =>
          { x with
            moved := x.moved + 1
            movedAt := s.mashOf c
            done := (x.state = .active && wLines x.desc ≤ x.moved + 1 && !k.welt.inputBad.contains n)
            blocked := (x.moved + 1 < wLines x.desc) })).fill chan p)
/-- A refused Welt flit: the receiver reports both cores and the SEND faults (R61). -/
def State.weltRefuse (s : State) (f : Flit) (line : Nat) : State :=
  (s.report { s.coreReport f.dst codeWeltSource with detail := f.src, addr := line }).sendNotice f.src f.slot (some f.order)
    codeWeltSource line

/-! ## Headers at the routers (R18, R22, R23, R32, R39, R41) -/

/-- The flit in flight that a header and its sending core name: the low 32 bits agree but for DATELINE, which changes on the way
(Table 1.3). -/
def State.flitOf (s : State) (hdr : BitVec 32) (c : Nat) : Option (Flit × List Flit) :=
  match s.flits.findIdx? (fun f => f.src = c && setFld (f.hdr.setWidth 32) 22 1 0 = setFld hdr 22 1 0) with
  | some i => (s.flits[i]?).map (fun f => (f, s.flits.eraseIdx i))
  | none => none
/-- The flit a discarded header names leaves the fabric. -/
def State.dropNamed (s : State) (hdr : BitVec 32) (sender : Option StreamRef) : State :=
  match sender.bind (fun r => s.flitOf hdr r.core.val) with
  | some q => { s with flits := settleFlits q.2 }
  | none => s
/-- FLIT_ARRIVE: a flit's header at its source and destination routers (R18, R32, R39, R41; Table 1.3). A bay that is not ON is
looked at before the partition and holds the endpoints 0 to 6 of its dies; an FC4 flit for any endpoint but a core is discarded
at the source, whose site and core the report names. A flit let through to a service port is presented to every site behind it
(R22, R23). A header for N0 (site 98), which has no attachment, is let through without effect, and DEST_RESET names endpoint 6, a Tap,
as core 0 of its die: the spec settles neither (log entry 70). -/
def execFlitArrive (hdr : BitVec 32) (sender : Option StreamRef) (s : State) : Host.Outcome State Fault Refusal :=
  let dst := fld hdr 0 7
  let src := fld hdr 7 7
  let ep := fld hdr 14 5
  let part := fld hdr 23 4
  let order := (sender.bind (fun r => s.flitOf hdr r.core.val)).map (fun q => q.1.order)
  let who := sender.map (fun r => (r.core.val, r.slot.val, order))
  let core := match sender with | some r => r.core.val | none => 0xFFFF
  let gone := s.dropNamed hdr sender
  .next (
    if 100 ≤ dst then
      let s1 := gone.modDie src (fun d => { d with addrDiscard := satAdd 16 d.addrDiscard 1 })
      s1.report { s1.pkgReport codeFabricDiscard with site := src, core := core, detail := dst }
    else if fld hdr 19 3 = 4 && (60 ≤ dst || 6 ≤ ep) then
      let s1 := gone.modDie src (fun d => { d with fc4Discard := satAdd 16 d.fc4Discard 1 })
      s1.report { s1.pkgReport codeFabricDiscard with site := src, core := core, detail := dst }
    else if dst < 60 && ep ≤ 6 && (s.bay (dst / 5)).state ≠ .on then
      gone.resetDiscard (6 * dst + ep % 6) (sender.map (fun r => (r.core.val, r.slot.val)))
    else if dst < 60 && src < 60 && part ≠ 15 && part ≠ s.partOfBay (dst / 5) then gone.partDiscard dst src who
    else if 84 ≤ dst then s.present dst
    else s)

/-- A Welt data flit reaches its channel (R60, R61). -/
def State.weltArrive (s : State) (f : Flit) : State :=
  match f.body with
  | .data chan line =>
    let s := if (s.core f.dst).welt.flushes.isEmpty then s
      else s.modCore f.dst (fun k => { k with welt := { k.welt with flushes := k.welt.flushes.filter (· ≠ (chan, f.src)) } })
    let k := s.core f.dst
    let p := k.welt.next.get 0 chan
    match k.recvAt chan p with
    | some n =>
      if wRemote (k.slot n).desc || wCore (k.slot n).desc ≠ f.src then s.weltRefuse f p
      else
        s.recvLine f.dst chan n p line
    | none => s.weltRefuse f p
  | _ => s
/-- WELT_FLIT_ARRIVE: the oldest Welt data flit between two cores arrives (R61). -/
def execWeltFlitArrive (dst src : CoreId) (s : State) : Host.Outcome State Fault Refusal :=
  .next (s.arrive src.val dst.val (fun b => match b with | .data .. => true | _ => false) (fun s f =>
    s.pass f (fun s => s.weltArrive f)))
/-- A flush flit reaches the withdrawn RECVs of its channel that name its source; with none it is kept for the RECV that is withdrawn
next (R373, R374). -/
def State.flushArrive (s : State) (f : Flit) : State :=
  match f.body with
  | .flush ch =>
    let mine := fun (x : Slot) => x.withdrawn && kindOf x.desc = 11 && wChan x.desc = ch && wCore x.desc = f.src
    s.modCore f.dst (fun k =>
      if Core.slotNums.any (fun n => mine (k.slot n)) then
        Core.slotNums.foldl (fun k n => if mine (k.slot n) then k.modSlot n (fun x => { x with flushed := true }) else k) k
      else { k with welt := { k.welt with flushes := k.welt.flushes ++ [(ch, f.src)] } })
  | _ => s
/-- FLUSH_FLIT: the flush flit of a withdrawn SEND arrives (R373, R374). -/
def execFlushFlit (dst src : CoreId) (s : State) : Host.Outcome State Fault Refusal :=
  .next (s.arrive src.val dst.val (fun b => match b with | .flush _ => true | _ => false) (fun s f =>
    s.pass f (fun s => s.flushArrive f)))

/-! ## RECV -/

/-- Post a RECV's remaining lines and, when it is remote, send the GRANT (R60, R285). -/
def State.recvPost (s : State) (c n : Nat) : State :=
  let x := (s.core c).slot n
  let ch := wChan x.desc
  let old := (s.core c).welt.posted.get 0 ch
  let s1 := s.modCore c (fun k =>
    let k1 := k.modSlot n (fun x => { x with
      state := .active
      start := old - x.moved
      withdrawn := false
      flushed := false
      movedAt := s.mashOf c
      done := (wLines x.desc ≤ x.moved)
      blocked := (x.moved < wLines x.desc) })
    { k1 with welt := { k1.welt with posted := k1.welt.posted.set ch (old + (wLines x.desc - x.moved)) } })
  if wRemote x.desc then s1.sendGrant c (wPkg x.desc) (wCore x.desc) ch else s1
/-- RECV: Welt accepts a RECV and posts its region (R60). -/
def execRecv (r : StreamRef) (s : State) : Host.Outcome State Fault Refusal :=
  .next (s.accept r.core.val r.slot.val (fun d => kindOf d = 11) (fun s _ => s.recvPost r.core.val r.slot.val))

end Sys2Proof.Machine
end

