-- ==== Sys2Proof/Machine/Remote.lean ====
section
/-! DEFINITION. What crosses packages (chapters 10 and 11): bucket headers held at their ports and what waits behind them, DATA
packets and their lines, packets routed on, SEND to another package and to buckets, and the arm, release, deadline and loss of
bucket slots. -/

namespace Sys2Proof.Machine

/-! ## Bucket headers and what waits behind them (R301 to R304) -/

/-- What held a settled header is free again: the buffer of its port, or its SEND, whose last line it may be (R283, R303). -/
def State.heldLeft (s : State) (x : HeldHdr) : State :=
  match x.via with
  | some v => s.slotsFreed v.1 v.2
  | none => s.modCore x.score (fun k => k.modSlot x.slot (fun y =>
      if isBucket y.desc && y.state = .active && wLines y.desc ≤ y.moved then { y with done := true, blocked := false } else y))
/-- A header reaches an endpoint: it lands, is dropped, or is held (R301 to R304). The flag tells that a slot closed. -/
def State.bktHeader (s : State) (c : Nat) (x : HeldHdr) : State × Bool :=
  match s.bktApply c x.vc x.score x.slot x.hdr with
  | none => (s.modCore c (fun k => k.modBkt (fun b => { b with held := b.held ++ [x] })), false)
  | some r => (r.1.heldLeft x).bktLines c x.vc x.hdr.srcPkg.toNat x.score r.2 x.lines
/-- Re-examine the held headers of a core once, oldest first (R303). The flag tells that a slot closed. -/
def State.reexamineOnce (s : State) (c : Nat) : State × Bool :=
  (s.core c).bkt.held.foldl (fun (a : State × Bool) x =>
    let r := (a.1.modCore c (fun k => k.modBkt (fun b => { b with held := b.held.erase x }))).bktHeader c x
    (r.1, a.2 || r.2)) (s, false)

/-! ## DATA packets (R280, R286) -/

/-- Refuse a DATA packet of a source the RECV does not name (R286). -/
def State.dataRefuse (s : State) (k : Packet) (slot : Nat) : State :=
  (s.report { s.coreReport k.dcore.toNat codeWeltSource with detail := k.spkg.toNat * 512 + k.score.toNat }).notice k slot 2
/-- Where the remote SEND of a packet with line offset `line` began on its channel: a new SEND begins at the frontier where the
offset has been filled already, or where no line is missing and the offset does not go on from the last SEND (R286; log entry
76). -/
def Core.sendBase (k : Core) (chan line : Nat) : Nat :=
  let b := k.welt.base.get 0 chan
  let nx := k.welt.next.get 0 chan
  let gap := k.welt.ahead.any (fun e => e.1 = chan)
  let starts := Core.slotNums.any (fun n => let x := k.slot n; kindOf x.desc = 11 && wChan x.desc = chan && x.start = nx)
  if k.filled chan (b + line) || (!gap && line ≠ nx - b && (line = 0 || starts)) then nx else b
/-- The RECV of position `p` names the package and core of a packet (R286). -/
def State.dataFrom (s : State) (k : Packet) (p : Nat) : Bool :=
  let c := k.dcore.toNat
  match (s.core c).recvAt k.chan.toNat p with
  | some n => let d := ((s.core c).slot n).desc; wRemote d && wPkg d = k.spkg.toNat && wCore d = k.score.toNat
  | none => false
/-- One line of a DATA packet at its position; the flag tells that it is refused. -/
def State.dataLine (s : State) (k : Packet) (p : Nat) (bs : List Byte) : State × Bool :=
  let c := k.dcore.toNat
  match (s.core c).recvAt k.chan.toNat p with
  | some n => if s.dataFrom k p then (s.recvLine c k.chan.toNat n p bs, false) else (s, true)
  | none => (s, true)
/-- The lines of a DATA packet at their offsets; a packet of a source the RECV does not name is discarded (R286). -/
def State.dataLines (s : State) (k : Packet) (slot : Nat) (lines : List (List Byte)) : State :=
  let c := k.dcore.toNat
  let ch := k.chan.toNat
  let b := (s.core c).sendBase ch k.line.toNat
  let s1 := if s.dataFrom k (b + k.line.toNat) then
      s.modCore c (fun q => { q with welt := { q.welt with base := q.welt.base.set ch b } })
    else s
  let r := lines.zipIdx.foldl (fun (a : State × Bool) l =>
    let t := a.1.dataLine k (b + k.line.toNat + l.2) l.1; (t.1, a.2 || t.2)) (s1, false)
  if r.2 then r.1.dataRefuse k slot else r.1
/-- A DATA packet reaches its endpoint: the lines of a bucket contribution on channel 31, else lines at their offsets (R286,
R301). The flag tells that a bucket slot of the endpoint closed. -/
def State.dataIn (s : State) (k : Packet) (slot : Nat) (via : Option (Nat × Packet)) (lines : List (List Byte)) : State × Bool :=
  let c := k.dcore.toNat
  let freed := s.viaFreed via
  if 360 ≤ c then (freed, false)
  else if k.chan.toNat = 31 then
    let later := fun (first : Nat) (l : List (List Byte)) => l.zipIdx.map (fun p => (first + p.2, p.1))
    if k.line.toNat = 0 then
      match lines with
      | [] => (freed, false)
      | h :: rest => s.bktHeader c { vc := k.vc.toNat, score := k.score.toNat, slot := slot, hdr := { headerOf h with srcPkg := k.spkg },
                                     lines := later 1 rest, via := via, since := s.now }
    else freed.bktLines c k.vc.toNat k.spkg.toNat k.score.toNat false (later k.line.toNat lines)
  else (freed.dataLines k slot lines, false)
/-- The lines in the data slots of a packet. -/
def dataLinesOf (data : List Byte) : List (List Byte) := (List.range (cdiv data.length 256)).map (fun i => (data.drop (256 * i)).take 256)
/-- Lines land of the partner generation of step `n` that a served package writes, or of the one that is being received: with its last
line the generation is complete, and the older one goes (R385). -/
def PartnerGen.land (g : PartnerGen) (need : Nat → Nat) (n lines : Nat) : PartnerGen :=
  let r := g.receiving.getD n
  if need r ≤ g.landed + lines then { complete := some r }
  else { g with receiving := some r, landed := g.landed + lines }
/-- The step of a partner generation of package `pkg` whose first line lands now: the step just committed here, where its generation is
due and not yet held, else the next one due (R384, R385; log entry 72). -/
def State.partnerDue (s : State) (pkg : Nat) : Nat :=
  let every := max 1 (fld s.ckpt.ctl 0 8)
  let c := s.cinch.committed.toNat
  if c % every = 0 && (s.ckpt.partnerGens.get {} pkg).complete ≠ some c then c else (c / every + 1) * every
/-- A packet of VC6 lands at its partner: its lines belong to the sender's partner generation, and the mirrors of the steps that a
complete generation has reached go (R266, R383, R385). -/
def State.partnerLand (s : State) (k : Packet) (lines : Nat) : State :=
  let pkg := k.spkg.toNat
  match s.cinch.members.find? (fun m => m.pkg = pkg && (m.partnerA = s.ownPkg || m.partnerB = s.ownPkg)) with
  | some m =>
    if k.vc.toNat = 6 then
      let g := (s.ckpt.partnerGens.get {} pkg).land (fun r => cdiv (12 * m.shardLen) 256 + Config.partnerExtra pkg r) (s.partnerDue pkg) lines
      { s with
        ckpt := { s.ckpt with partnerGens := s.ckpt.partnerGens.set pkg g }
        cinch := { s.cinch with mirrors := s.cinch.mirrors.filter (fun e =>
          e.1 ≠ pkg || (match g.complete with | some n => decide (n < e.2) | none => true)) } }
    else s
  | none => s
/-- A packet of a port is taken from its buffer: routed on, or brought over the fabric, where it is discarded for a bay that is not
ON or for its PCRC, or delivered (R41, R280, R286, R288, R289). The flag tells that a bucket slot closed. -/
def State.packetTaken (s : State) (p : Nat) (k : Packet) (data : List Byte) : State × Bool :=
  let e := k.toEnd (84 + p / 2) 15
  let s1 := s.carried e k.flits
  if k.dpkg.toNat ≠ s.ownPkg then (s.routeOn p k data, false)
  else if s1.atRouter e = .reset then ((s1.slotsFreed p k).resetDiscard k.dcore.toNat none, false)
  else if !k.ok data then ((s1.slotsFreed p k).e2eFail k p 0, false)
  else (s1.partnerLand k (cdiv data.length 256)).dataIn k 0 (some (p, k)) (dataLinesOf data)
/-- A held header bars a channel of a port (R303). -/
def State.barred (s : State) (p vc : Nat) : Bool :=
  s.cores.any (fun e => e.2.bkt.held.any (fun x => x.vc = vc && (match x.via with | some v => v.1 = p | none => false)))
/-- The first packet of a port that no held header bars, and what waits on. -/
def State.nextBehind (s : State) (p : Nat) : Option ((Packet × List Byte) × List (Packet × List Byte)) :=
  let l := (s.port p).behind
  match l.findIdx? (fun e => !s.barred p e.1.vc.toNat) with
  | some i => (l[i]?).map (fun e => (e, l.eraseIdx i))
  | none => none
/-- Re-examine the headers of the cores named, each again after a pass that closed a slot, and take what no header bars any
longer from the ports, until nothing moves (R303). -/
def State.settle : Nat → List Nat → State → State
  | 0, _, s => s
  | n + 1, c :: cs, s => let r := s.reexamineOnce c; State.settle n (if r.2 then c :: cs else cs) r.1
  | n + 1, [], s =>
    match (List.range 16).findSome? (fun p => (s.nextBehind p).map (fun e => (p, e))) with
    | some (p, (k, data), l) =>
      let r := (s.modPort p (fun q => { q with behind := l })).packetTaken p k data
      State.settle n (if r.2 then [k.dcore.toNat] else []) r.1
    | none => s
/-- Headers held and packets that wait behind them, all of which a settling may move twice. -/
def State.heldCount (s : State) : Nat :=
  s.cores.foldl (fun n e => n + e.2.bkt.held.length) 0 + s.links.ports.foldl (fun n e => n + e.2.behind.length) 0
/-- An arm, release or close on the endpoint of core `c` (R303). -/
def State.reexamineAll (s : State) (c : Nat) : State := State.settle (4 * s.heldCount + 4) [c] s
/-- A packet arrives by port `p`: it is taken once those of its channel before it have been (R303). -/
def State.packetIn (s : State) (p : Nat) (k : Packet) (data : List Byte) : State :=
  let t := s.modPort p (fun q => { q with behind := q.behind ++ [(k, data)] })
  State.settle (4 * t.heldCount + 4) [] t
/-- DATA_PACKET: a DATA packet arrives over a port (R280, R286). -/
def execDataPacket (k : Packet) (port : Fin 16) (lines : List (List Byte)) (s : State) : Host.Outcome State Fault Refusal :=
  .next (if k.dpkg.toNat = s.ownPkg then s.packetIn port.val k lines.flatten else s)
/-- PACKET_ROUTE: a packet for another package arrives at a transit package (R289, R290). -/
def execPacketRoute (k : PacketIn) (s : State) : Host.Outcome State Fault Refusal :=
  .next (if k.pkt.dpkg.toNat ≠ s.ownPkg then s.packetIn k.port.val k.pkt k.data else s)
/-- BUCKET_HEADER: a bucket header arrives at an endpoint, from its own package or in a packet of one line over a port (R301,
R303). -/
def execBucketHeader (c : CoreId) (vc : BitVec 3) (score : BitVec 9) (h : HeaderIn) (s : State) : Host.Outcome State Fault Refusal :=
  let port := h.port
  let h := h.hdr
  let k : Packet := { s.bktPacket c.val vc.toNat h.srcPkg.toNat score.toNat with nslot := 7 }
  let data := headerLine h false 0
  .next (
    if h.srcPkg.toNat = s.ownPkg then
      let r := s.bktHeader c.val { vc := vc.toNat, score := score.toNat, slot := 0, hdr := h, lines := [], via := none, since := s.now }
      if r.2 then r.1.reexamineAll c.val else r.1
    else s.packetIn port.val (k.seal data) data)
/-- HOLD_MAX_EXPIRY: headers held for HOLD_MAX counts are dropped (R303). -/
def execHoldMaxExpiry (c : CoreId) (s : State) : Host.Outcome State Fault Refusal :=
  let b := (s.core c.val).bkt
  let old := b.held.filter (fun x => x.since + fld b.cfg 0 32 ≤ s.now)
  let s1 := old.foldl (fun s x =>
    ((s.modCore c.val (fun k => k.modBkt (fun b => { b with held := b.held.erase x }))).bktDrop c.val x.vc x.score x.slot 5 x.hdr
      (fun b => { b with holdDrop := satAdd 16 b.holdDrop 1 })).heldLeft x) s
  .next (State.settle (4 * s1.heldCount + 4) [] s1)

/-! ## Arm, release, deadline and loss of a slot (R299, R305 to R307) -/

/-- BKT_ARM: arm a bucket slot from its slot block; lines of contributions to its former arm land no more (R299, R307). -/
def execBktArm (c : CoreId) (v : Word) (s : State) : Host.Outcome State Fault Refusal :=
  let k := s.core c.val
  let vc := fld v 0 3
  let slot := fld v 3 6
  let line := fld v 9 17
  let x : BktSlot := { line := line, cfg := k.spRead (256 * line) 64, armedAt := s.now }
  let err := k.armErr vc slot line x
  let old := fun (f : BktFlow) => f.vc = vc && (match f.land with | some l => l.1 = slot | none => false)
  let k1 := k.modBkt (fun b => { b with armErr := err, flows := if err = 0 then b.flows.filter (fun f => !old f) else b.flows })
  .next (if err ≠ 0 then s.setCore c.val k1
    else (s.setCore c.val ((k1.spWrite (256 * line + 64) (List.replicate 1216 0)).putBkt (bktKey vc slot) x)).reexamineAll c.val)
/-- BKT_REL: release the oldest counted buffers of a slot (R305). -/
def execBktRel (c : CoreId) (v : Word) (s : State) : Host.Outcome State Fault Refusal :=
  let k := s.core c.val
  let key := bktKey (fld v 0 3) (fld v 3 6)
  let n := fld v 9 7
  .next (
    match k.bkt.slots.find? key with
    | some x =>
      if x.counted - x.released < n then s.setCore c.val (k.modBkt (fun b => { b with relErr := true }))
      else (s.setCore c.val (k.modBkt (fun b =>
        { b with relErr := false, slots := b.slots.set key { x with released := x.released + n } }))).reexamineAll c.val
    | none => s.setCore c.val (k.modBkt (fun b => { b with relErr := 0 < n })))
/-- SLOT_DEADLINE: an OPEN slot whose deadline has come accepts no more current headers (R306). -/
def execSlotDeadline (c : CoreId) (vc : BitVec 3) (slot : Fin 64) (s : State) : Host.Outcome State Fault Refusal :=
  let k := s.core c.val
  let key := bktKey vc.toNat slot.val
  .next (
    match k.bkt.slots.find? key with
    | some x =>
      if x.state = 0 && x.past s.now then
        let r := k.settle s.now key { x with state := 1, byDeadline := true }
        if r.2 then (s.setCore c.val r.1).reexamineAll c.val else s.setCore c.val r.1
      else s
    | none => s)
/-- A link-failure notice reaches the bucket endpoints of every core (R307). -/
def State.bktSourceLost (s : State) (pkg : Nat) : State :=
  allCores.foldl (fun s c =>
    if (s.core c).bkt.slots.isEmpty then s
    else
      let r := (s.core c).bkt.slots.foldl (fun (a : State × Bool) p =>
        let q := (a.1.core c).bktLose a.1.now p.1 pkg; (a.1.setCore c q.1, a.2 || q.2)) (s, false)
      if r.2 then r.1.reexamineAll c else r.1) s

/-! ## SEND to another package and to buckets (R285, R287, R297) -/

/-- Take up to `cnt` lines of a SEND for one packet. -/
def Mv.packLines (m : Mv) (c : Nat) (x : Slot) (cnt : Nat) : Mv × List (List Byte) :=
  (List.range cnt).foldl (fun (a : Mv × List (List Byte)) i =>
    let q := a.1.sendLine c x (x.moved + i); (q.1, a.2 ++ [q.2])) (m, [])
/-- Lines ready on the source side, at most `cnt`. -/
def Core.readyLines (k : Core) (d : BitVec 256) (moved cnt : Nat) : Nat :=
  if dSspace d = 3 then
    ((List.range cnt).takeWhile (fun i =>
      (List.range (i + 1)).foldl (fun a j => a + wElems d (moved + j)) 0 ≤ (k.path 7).elems.length)).length
  else cnt
/-- The remote-grant entry of a SEND. -/
def Core.grantOf (k : Core) (d : BitVec 256) : Option RemoteGrant :=
  k.welt.grants.find? (fun e => e.pkg = wPkg d && e.core = wCore d && e.chan = wChan d)
/-- Count lines sent against a grant. -/
def Core.grantUse (k : Core) (d : BitVec 256) (cnt : Nat) : Core :=
  { k with welt := { k.welt with grants := k.welt.grants.map (fun e =>
    if e.pkg = wPkg d && e.core = wCore d && e.chan = wChan d then { e with sent := e.sent + cnt } else e) } }
/-- A bucket SEND whose header is held, within the package, at its own endpoint (R303). -/
def State.bucketWaits (s : State) (c n : Nat) (d : BitVec 256) : Bool :=
  wPkg d = s.ownPkg && (s.core (wCore d)).bkt.held.any (fun x => x.vc = wVc d && x.score = c && x.slot = n && x.via = none)
/-- Another bucket SEND of the core to the same endpoint and channel has begun and not ended: the lines of two SENDs do not mix
(R287; log entry 76). -/
def Core.bucketBusy (k : Core) (n : Nat) (d : BitVec 256) : Bool :=
  Core.slotNums.any (fun i =>
    let y := k.slot i
    i ≠ n && isBucket y.desc && y.state = .active && 0 < y.moved && !y.done && wPkg y.desc = wPkg d && wCore y.desc = wCore d &&
      wVc y.desc = wVc d)
/-- Lines the next packet of a remote SEND may carry (R285, R287, R297). -/
def State.remoteRoom (s : State) (c n : Nat) (x : Slot) : Nat :=
  let d := x.desc
  let most := min 16 (wLines d - x.moved)
  if isBucket d then
    if s.bucketWaits c n d || (x.moved = 0 && (s.core c).bucketBusy n d) then 0
    else if wPkg d = s.ownPkg && x.moved = 0 then min 1 most else most
  else match (s.core c).grantOf d with | some e => min most (e.granted - e.sent) | none => 0
/-- The lines of a packet as data slots; what fills a line behind the bytes of its row is not stated. -/
def State.padLines (s : State) (lines : List (List Byte)) : List Byte × State :=
  lines.foldl (fun (a : List Byte × State) l =>
    let v := a.2.draw (8 * (256 - l.length)); (a.1 ++ l ++ natBytes (256 - l.length) v.1.toNat, v.2)) ([], s)
/-- Lines of a SEND that the queue of the port on its route takes now (R284, R289, Table 1.6). -/
def State.linkRoom (s : State) (d : BitVec 256) : Nat :=
  match s.routeOf (wPkg d) (wVc d) with
  | .via p | .wait p => linkDepth - (s.port p).waiting
  | _ => linkDepth
/-- Send packets while grant, route and the queue of the port allow it; at the port they wait for credit and arbitration (R284, R285,
R287, R289, R297). -/
def Mv.sendRemote (c n : Nat) : Nat → Mv → Mv
  | 0, m => m
  | fuel + 1, m =>
    let x := (m.s.core c).slot n
    let d := x.desc
    match m.stop with
    | some _ => m
    | none =>
      let cnt := (m.s.core c).readyLines d x.moved (min (m.s.remoteRoom c n x) (m.s.linkRoom d))
      if cnt = 0 || x.state ≠ .active then m
      else
        let k : Packet := { m.s.header 0 (wVc d) (wPkg d) (wCore d) c (wChan d) x.moved 0 with
          nslot := BitVec.ofNat 7 (8 * cnt - 1) }
        let sent := fun (m : Mv) => m.mod (fun s => (s.modCore c (fun q => q.grantUse d cnt)).sendMoved c n cnt)
        match m.s.routeOf (wPkg d) (wVc d) with
        | .local_ =>
          let q := m.packLines c x cnt
          Mv.sendRemote c n fuel ((sent q.1).mod (fun s =>
            s.cross (k.toEnd (dieOf c) (s.partOf c)) cnt (some (c, n, some x.order)) (fun s =>
              let r := s.dataIn k n none q.2
              if r.2 then r.1.reexamineAll (wCore d) else r.1)))
        | .via p | .wait p =>
          let q := m.packLines c x cnt
          Mv.sendRemote c n fuel ((sent q.1).mod (fun s =>
            let v := s.padLines q.2
            v.2.sendBy c p (k.seal v.1) v.1 n))
        | r => { m with s := m.s.dropPacket k n r }

/-- Move a SEND as far as it can go (R60, R102). -/
def Mv.sendMove (m : Mv) (c n : Nat) : Mv :=
  let d := ((m.s.core c).slot n).desc
  if wRemote d then m.sendRemote c n (wLines d)
  else if wSoft d then m.sendSoft c n (wLines d)
  else m.sendLocal c n (wLines d)
/-- After a move: a fault stops it, the last line completes it, otherwise it is blocked on a remote event (R57, R65). -/
def State.sendEnd (m : Mv) (c n : Nat) : State :=
  match m.stop with
  | some (code, a) => (m.s.tilesAtFault c n 0).streamFault c n code a
  | none =>
    m.s.modCore c (fun k => k.modSlot n (fun x =>
      if x.state ≠ .active then x
      else
        let held := isBucket x.desc && m.s.bucketWaits c n x.desc
        { x with done := (wLines x.desc ≤ x.moved && !held), blocked := (x.moved < wLines x.desc || held) }))
/-- SEND: Welt accepts a SEND, or one that waits goes on (R60, R198, R285, R297). -/
def execSend (r : StreamRef) (s : State) : Host.Outcome State Fault Refusal :=
  let c := r.core.val
  let n := r.slot.val
  let x := (s.core c).slot n
  .next (
    if isSend x.desc && x.state = .active && !x.done then
      State.sendEnd (({ s := s } : Mv).sendMove c n) c n
    else
      s.accept c n isSend (fun s _ =>
        let s1 := s.modCore c (fun k => k.modSlot n (fun x =>
          { x with state := .active, withdrawn := false, softStep := k.hop.softStep, movedAt := s.mashOf c }))
        State.sendEnd (({ s := s1 } : Mv).sendMove c n) c n))

end Sys2Proof.Machine
end

