-- ==== Sys2Proof/Machine/Paths.lean ====
section
/-! DEFINITION. The streams that feed another station (R50, R99, R546): DRAIN, NARROW and GATHER move row by row, only as far as
the stream that takes from the path can take more; a stalled one stays ACTIVE and goes on when its command comes again. -/

namespace Sys2Proof.Machine

/-! ## What a path's consumer can take -/

/-- Elements of the lines `moved` up to `moved + cnt` of a SEND. -/
def wElemsOf (d : BitVec 256) (moved cnt : Nat) : Nat := (List.range cnt).foldl (fun a i => a + wElems d (moved + i)) 0
/-- Lines that the receiver of a SEND lets it send (R60, R198, R285). -/
def State.sendLet (s : State) (c n : Nat) : Nat :=
  let k := s.core c
  let x := k.slot n
  let d := x.desc
  let left := wLines d - x.moved
  if wRemote d then s.remoteRoom c n x
  else if wSoft d then
    let t := softTileLines d
    let begun := if x.moved % t = 0 then 0 else t - x.moved % t
    let more := match k.credit (wCore d) (wChan d) with | some e => e.grant - e.sent | none => 0
    min left (begun + more * t)
  else
    let w := (s.core (wCore d)).welt
    min left (w.posted.get 0 (wChan d) - (w.next.get 0 (wChan d) + s.inFlight (wCore d) (wChan d)))
/-- The way of a SEND takes at most `n` of its lines now: its endpoint's queue and the buffers behind it within the package (R29,
R31, Table 1.6), the port of its route (R289). -/
def State.wayRoom (s : State) (c : Nat) (x : Slot) (n : Nat) : Nat :=
  let d := x.desc
  if wRemote d then min n (s.linkRoom d)
  else injectable (s.newFlit c (wCore d) (if wSoft d then 4 else wClass d) 0 0 0 (.data (wChan d) [])) n s.flits
/-- Lines that a SEND may send now (R50). -/
def State.sendRoom (s : State) (c n : Nat) : Nat := s.wayRoom c ((s.core c).slot n) (s.sendLet c n)
/-- Elements that a stream with source space 3 still needs. -/
def Slot.needs (x : Slot) : Nat :=
  let d := x.desc
  match kindOf d with
  | 4 => (dTiles d * dRows d - x.moved) * dCols d
  | 6 => (dTiles d - x.moved) * (dRows d * dCols d)
  | 10 => wElemsOf d x.moved (wLines d - x.moved)
  | _ => dElems d
/-- The next element of format `fmt` suits the stream that the path into a station feeds (R546). -/
def State.pathFits (s : State) (c stn fmt : Nat) : Bool :=
  let k := s.core c
  match k.consumer stn with
  | some n => let d := (k.slot n).desc; !checksFeeder d || (fmt = dSfmt d && !k.pathMismatch stn d)
  | none => false
/-- Rows of `cols` elements of format `fmt` that a station behind a NARROW takes now: until the path into it holds all that its
consumer there needs (R50). -/
def State.rowsOnward (s : State) (c stn fmt cols : Nat) : Nat :=
  let k := s.core c
  match k.consumer stn with
  | some n => if s.pathFits c stn fmt then cdiv ((k.slot n).needs - (k.path stn).elems.length) cols else 0
  | none => 0
/-- Elements that the stream in slot `n`, taking from a path, can take now: a NARROW while Cask takes its rows, a LOSS as far as
the teacher's tiles have arrived, a SEND as far as its lines may go (R50, Table 7.3). -/
def State.takes (s : State) (c n : Nat) : Nat :=
  let k := s.core c
  let x := k.slot n
  let d := x.desc
  match kindOf d with
  | 4 => if dDspace d = 3 then min x.needs (s.rowsOnward c 6 (dDfmt d) (dCols d) * dCols d) else x.needs
  | 6 =>
    let h := k.hopChan (hChan d)
    if hNames d then min x.needs ((h.received - h.onePtr) * (dRows d * dCols d)) else x.needs
  | 10 => wElemsOf d x.moved (s.sendRoom c n)
  | _ => x.needs
/-- The path into a station takes one more row: a stream there can take more than waits on the path (R50, R99). -/
def State.pathWants (s : State) (c stn : Nat) : Bool :=
  match (s.core c).consumer stn with
  | some n => decide (((s.core c).path stn).elems.length < s.takes c n)
  | none => false
/-- Everything left on the path into a station will be taken by streams that are QUEUED or ACTIVE there (R99). -/
def Core.pathAbsorbed (k : Core) (stn : Nat) : Bool :=
  (k.path stn).elems.length ≤ ((k.consumers stn).map (fun n => (k.slot n).needs)).foldl (· + ·) 0

/-! ## Row by row -/

/-- What one row of a stream needs before it can move: its input and a taker for its output. -/
structure RowGate where
  /-- the station it takes input from, and the elements of a row -/
  src : Option (Nat × Nat)
  /-- the station it feeds, and the format of the elements -/
  dst : Option (Nat × Nat)
  deriving DecidableEq, Repr

/-- The next element of a feeder is offered to the consumer of its path (R546). -/
def RowGate.offer (g : RowGate) (s : State) (c : Nat) : State :=
  match g.dst with | some (stn, f) => s.pathOffer c stn f 64 | none => s
def RowGate.ready (g : RowGate) (s : State) (c : Nat) : Bool :=
  (match g.src with | some (stn, e) => (s.core c).pathHas stn e | none => true) &&
  (match g.dst with | some (stn, f) => s.pathWants c stn && s.pathFits c stn f | none => true)
/-- Move rows from the stream's place on, while they can move; `rows` in all, at most `fuel` now. -/
def Mv.rowLoop (c n rows : Nat) (g : RowGate) (row : Mv → Nat → Mv) : Nat → Mv → Mv
  | 0, m => m
  | fuel + 1, m =>
    match m.stop with
    | some _ => m
    | none =>
      let i := ((m.s.core c).slot n).moved
      if rows ≤ i then m
      else
        let m1 := m.mod (fun s => g.offer s c)
        if g.ready m1.s c then
          Mv.rowLoop c n rows g row fuel
            ((row m1 i).mod (fun s => s.modCore c (fun k => k.modSlot n (fun x => { x with moved := i + 1 }))))
        else m1
/-- The end of such a movement: a fault, the end of the stream, or a stall in state ACTIVE (R50, R74). -/
def Mv.rowEnd (m : Mv) (c n rows : Nat) : State :=
  match m.stop with
  | some _ => m.finish c n
  | none =>
    if rows ≤ ((m.s.core c).slot n).moved then m.s.doneSlot c n
    else m.s.modCore c (fun k => k.modSlot n (fun x => { x with state := .active }))
/-- Run a stream that moves row by row: it is accepted, or goes on where it stalled (R50, R53 to R55). `pre` reads what all its
rows use. -/
def State.rowRun {α : Type} (s : State) (r : StreamRef) (mine : BitVec 256 → Bool) (rows : BitVec 256 → Nat)
    (g : BitVec 256 → RowGate) (start : State → Slot → Mv) (pre : Mv → Slot → Mv × α) (row : Slot → α → Mv → Nat → Mv) : State :=
  let c := r.core.val
  let n := r.slot.val
  let x := (s.core c).slot n
  let go := fun (m : Mv) =>
    let x := (m.s.core c).slot n
    let p := pre m x
    (p.1.rowLoop c n (rows x.desc) (g x.desc) (row x p.2) (rows x.desc)).rowEnd c n (rows x.desc)
  if mine x.desc && x.state = .active && !x.done then go { s := s }
  else
    s.accept c n mine (fun s x =>
      match (start s x).stop with
      | some _ => (start s x).finish c n
      | none => go ((start s x).mod (fun s => s.modCore c (fun k => k.modSlot n (fun x => { x with moved := 0 })))))

/-- Rows of all tiles of a stream. -/
def dAllRows (d : BitVec 256) : Nat := dTiles d * dRows d

/-- DRAIN: Sparge accepts a DRAIN and drains its rows into scratchpad or along its direct path (R50, R155). -/
def execDrain (r : StreamRef) (s : State) : Host.Outcome State Fault Refusal :=
  let c := r.core.val
  .next ((s.rowRun r (fun d => kindOf d = 3) dAllRows
    (fun d => ⟨none, if dDspace d = 0 then none else some (drStation d, 0)⟩)
    (fun s x => match (s.core c).drainFault x with | some code => { s := s, stop := some (code, x.srcBase) } | none => { s := s })
    (fun m x => m.drainBias c x) (fun x bias m i => m.drainRow c x bias i)).abortsDue c r.slot.val)

/-- NARROW: Skive accepts a NARROW and converts its rows (R119 to R131). -/
def execNarrow (r : StreamRef) (s : State) : Host.Outcome State Fault Refusal :=
  let c := r.core.val
  .next (s.rowRun r (fun d => kindOf d = 4) dAllRows
    (fun d => ⟨if dSspace d = 3 then some (3, dCols d) else none, if dDspace d = 0 then none else some (6, dDfmt d)⟩)
    (fun s x => { s := s.modCore c (fun k =>
      let v := k.vec.histStart x.desc
      { k with vec := v }.modSlot r.slot.val (fun y => { y with expBase := v.expBase })) })
    (fun m _ => (m, ())) (fun x _ m i => m.narrowOne c x i))

/-- GATHER: Lauter accepts a GATHER and delivers its elements: rows to scratchpad, or index line by index line to a direct path
(R70 to R73, R545). -/
def execGather (r : StreamRef) (s : State) : Host.Outcome State Fault Refusal :=
  let c := r.core.val
  .next (
    if gDst ((s.core c).slot r.slot.val).desc = 0 then
      s.accept c r.slot.val (fun d => kindOf d = 2) (fun s x => (s.gatherMove c x).finish c r.slot.val)
    else
      s.rowRun r (fun d => kindOf d = 2) gatherLines (fun d => ⟨none, some (gatherStation d, dSfmt d)⟩)
        (fun s _ => { s := s }) (fun m _ => (m, ())) (fun x _ m l => m.gatherFeed c x l))

end Sys2Proof.Machine
end

