-- ==== Sys2Proof/Machine/Issue.lean ====
section
/-! DEFINITION. The issue of a stream: the checks of R98 in their order, the STREAM pseudocode of R87, gates (R53), token
events (R58), completion (R57, R74) and the freeing of slots. -/

namespace Sys2Proof.Machine

/-! ## DESC_FIELD (R98, R100, Tables 3.6, 3.8, 3.9) -/

/-- First descriptor bit above the kind-specific fields (Table 3.9). -/
def kindTop (kind : Nat) : Nat :=
  match kind with
  | 0 | 4 => 236
  | 1 | 6 | 10 | 12 => 248
  | 2 => 250
  | 3 => 244
  | 5 => 253
  | 7 | 8 => 226
  | 11 => 243
  | _ => 216
/-- A field marked zero, or unlisted for the kind, is not zero. -/
def zeroBad (d : BitVec 256) : Bool :=
  fld d 60 4 ≠ 0 || fld d 123 5 ≠ 0 || fld d 187 5 ≠ 0 || fld d (kindTop (kindOf d)) 40 ≠ 0
/-- Allowed source and destination spaces (Table 3.8). -/
def spacesOk (d : BitVec 256) : Bool :=
  let p := match kindOf d with
    | 0 => ([0, 1], [0])
    | 1 => ([0, 1], [2])
    | 2 => ([0, 1], [0, 3])
    | 3 => ([2], [0, 3])
    | 4 => ([0, 3], [0, 3])
    | 5 | 6 => ([0, 3], [0])
    | 7 => ([0, 3], [1])
    | 8 => ([1], [0])
    | 9 => ([0], [1])
    | 10 => ([0, 3], [3])
    | 11 => ([3], [0])
    | _ => ([0], [3])
  p.1.contains (dSspace d) && p.2.contains (dDspace d)
/-- TRANS, OUTT, SAT and SATW by kind, and the zero base and stride of space 3 (Table 3.8, R98). -/
def flagsBad (d : BitVec 256) : Bool :=
  let k := kindOf d
  (dTrans d && 2 ≤ k) || (dOutt d && k ≠ 1) || ((dSat d || dSatw d) && !(k = 3 || k = 4 || k = 5)) ||
  (dSspace d = 3 && (dSbase d ≠ 0 || dSstr d ≠ 0)) || (dDspace d = 3 && (dDbase d ≠ 0 || dDstr d ≠ 0)) ||
  !fmtDefined (dSfmt d) || !fmtDefined (dDfmt d)
/-- ACCM matches SFMT (R100). -/
def accmOk (accm f : Nat) : Bool :=
  match accm with
  | 0 => fmtBits f ≤ 8
  | 1 => f = 1 || f = 2
  | 2 => f = 1 || f = 2 || f = 3 || f = 4
  | 3 => f = 0
  | _ => false
def feedBad (d : BitVec 256) : Bool :=
  dDfmt d ≠ 0 || !accmOk (fAccm d) (dSfmt d) || (fRole d = 1 && dDstr d = 0) || (fRole d = 0 && dTiles d ≠ 1)
def gatherBad (d : BitVec 256) : Bool :=
  dSstr d ≠ 0 || gDst d = 3 || ((gDst d = 0 : Bool) != (dDspace d = 0 : Bool))
def drainBad (d : BitVec 256) : Bool :=
  5 < drAct d || ((drDirect d = 0 : Bool) != (dDspace d = 0 : Bool))
/-- The KOPs of Table 6.3. -/
def kopDefined (k : Nat) : Bool :=
  (1 ≤ k && k ≤ 0x0B) || (0x10 ≤ k && k ≤ 0x13) || (0x20 ≤ k && k ≤ 0x23) || (0x30 ≤ k && k ≤ 0x34) ||
  (0x40 ≤ k && k ≤ 0x46) || k = 0x48 || k = 0x49 || (0x50 ≤ k && k ≤ 0x52) || (0x60 ≤ k && k ≤ 0x62)
/-- The KOPs that read A as an element tile and may take it from the direct path (R176). -/
def kopElemA (k : Nat) : Bool := k ≤ 0x34 || (0x41 ≤ k && k ≤ 0x43) || k = 0x48 || k = 0x52
/-- The KOPs that read A at all. -/
def kopReadsA (k : Nat) : Bool := kopElemA k || k = 0x44 || k = 0x49 || 0x60 ≤ k
def vectorBad (d : BitVec 256) : Bool :=
  let k := vKop d
  !kopDefined k || 0xFF00 ≤ vPsid d || (dSspace d = 3 && !kopElemA k) ||
  ((k = 0x40 || k = 0x46) && (dRows d ≠ 1 || dCols d ≠ 1 || dTiles d ≠ 1)) ||
  (k = 0x45 && (dRows d ≠ 1 || dCols d ≠ 16 || dTiles d ≠ 1)) ||
  (k = 0x44 && dCols d ≠ 16)
/-- HOPCTL: reserved values, zero bits and the combinations of Table 7.5 (R204, R206); pass TWO reads A from scratchpad. -/
def lossBad (d : BitVec 256) : Bool :=
  let k := hKind d
  let p := hPass d
  fld d 229 19 ≠ 0 || 8 ≤ k || hTsrc d = 3 ||
  (match p with
   | 3 => k ≠ 0 || hTsrc d ≠ 0 || hChan d ≠ 0 || dSspace d ≠ 0
   | 1 => !hNorms k || dCols d ≠ 1 || dTiles d ≠ 1
   | 0 => hTwoOnly k
   | _ => dSspace d ≠ 0) ||
  (p ≠ 3 && (if k = 7 then hTsrc d ≠ 0 || hChan d ≠ 0 else (k ≠ 0 && k ≠ 1 && hTsrc d = 2)))
def sendBad (d : BitVec 256) : Bool :=
  2 ≤ b2n (wLc d) + b2n (wSoft d) + b2n (wRemote d) || 359 < wCore d || (!wRemote d && wVc d ≠ 0) ||
  (wSoft d && (dSspace d ≠ 3 || dSfmt d ≠ 0 || 3 < wChan d)) ||
  (wChan d = 31 && (!wRemote d || wVc d = 0 || wVc d = 7 || dSspace d ≠ 0))
def recvBad (d : BitVec 256) : Bool :=
  wChan d = 31 || (359 < wCore d && (wCore d ≠ 0x1FE || wRemote d))
/-- Any defect that DESC_FIELD names (R98 item 2). -/
def descBad (d : BitVec 256) : Bool :=
  zeroBad d || !spacesOk d || flagsBad d ||
  (match kindOf d with
   | 1 => feedBad d
   | 2 => gatherBad d
   | 3 => drainBad d
   | 5 => vectorBad d
   | 6 => lossBad d
   | 10 => sendBad d
   | 11 => recvBad d
   | 12 => !bit d 243 && fld d 244 4 ≠ 0
   | _ => false)

/-! ## STREAM_FORMAT (R67, R69, R165, R176, R206, R242, R335, R543, R546) -/

/-- Source and destination formats that a KOP takes (R176, Table 6.3); an update kernel's A in another format faults at
acceptance (R258). -/
def kopFmtBad (k sf df : Nat) : Bool :=
  if k = 0x0A then !floatOut sf || !floatOut df
  else if 0x10 ≤ k && k ≤ 0x12 then !floatIn sf || df ≠ 9
  else if k ≤ 0x23 then !floatIn sf || !floatOut df
  else if k ≤ 0x32 then sf ≠ 8 || df ≠ 8
  else if k ≤ 0x34 then !floatIn sf || df ≠ 8
  else if 0x41 ≤ k && k ≤ 0x43 then !floatIn sf
  else if k = 0x44 then sf ≠ 8
  else if k = 0x45 || k = 0x50 then df ≠ 8
  else if k = 0x46 || k = 0x51 then df ≠ 0
  else if k = 0x48 then !(sf = 0 || sf = 1)
  else if k = 0x49 then !(df = 0 || df = 1)
  else if k = 0x52 then !floatIn sf || !floatOut df
  else if 0x60 ≤ k then sf = 8 || isMx sf || df ≠ 0
  else false
/-- Formats of a LOSS by pass (Table 7.7). -/
def lossFmtBad (d : BitVec 256) : Bool :=
  let fp := fun (f : Nat) => f = 0 || f = 1
  match hPass d with
  | 0 => !fp (dSfmt d) || (dSspace d = 3 && dDfmt d ≠ 0)
  | 1 => false
  | 2 => !fp (dSfmt d) || !fp (dDfmt d) || ((hKind d = 7 || hGacc d) && dDfmt d ≠ 0)
  | _ => dSfmt d ≠ 8 || dDfmt d ≠ 0
/-- The pairs of Table 8.4. -/
def stashFmtBad (d : BitVec 256) : Bool :=
  let s := dSfmt d
  let t := dDfmt d
  if kindOf d = 7 then
    !(((s = 0 || s = 1) && (t = 0x13 || t = 1)) || (s = 0x13 && t = 0x13 && dSspace d = 3))
  else !((s = 0x13 || s = 1) && (t = 1 || t = 0))
/-- A transposed MX tile whose scales are not uniform over each 32-row by 1-column group (R69), as the scales now stand. -/
def State.scaleBad (s : State) (c : Nat) (d : BitVec 256) (aux : Nat) : Bool :=
  dTrans d && isMx (dSfmt d) &&
  (List.range (dTiles d)).any (fun i =>
    let sc := (List.range (dRows d)).map (fun r =>
      (s.peek c (dSspace d) (scaleAddr (dSspace d) aux (if kindOf d = 0 then fld d 216 10 else fScstr d) (i * dRows d + r))
        (cdiv (dCols d) 32)).map (·.toNat))
    (regroup (dRows d) (dCols d) sc).isNone)
/-- The kinds that take E8M0 as plain data: LOAD, GATHER, STORE, SEND, RECV and SAMPLE (R543). -/
def takesE8 (kind : Nat) : Bool := kind = 0 || kind = 2 || 9 ≤ kind
/-- A transposed MX FEED of rows in a stash region in HBM (R230). -/
def State.stashTrans (s : State) (c : Nat) (d : BitVec 256) (base : Nat) : Bool :=
  dTrans d && isMx (dSfmt d) && dSspace d = 1 &&
  (List.range 4).any (fun e =>
    let x := (s.core c).epoch e
    let l := (List.range (dTiles d * dRows d)).map (fun i =>
      let a := rowAddr 1 base (dSstr d) i; (a, a + rowBytes (dSfmt d) (dCols d)))
    spansMeet l x.mbase (x.mbase + x.mlen) || spansMeet l x.rbase (x.rbase + x.rlen))
/-- Any defect that STREAM_FORMAT names at issue (R98 item 3). -/
def State.fmtBad (s : State) (c : Nat) (d : BitVec 256) (base aux : Nat) : Bool :=
  let k := kindOf d
  (dTrans d && fmtBits (dSfmt d) = 6) || s.scaleBad c d aux || (!takesE8 k && (dSfmt d = 13 || dDfmt d = 13)) ||
  (match k with
   | 0 | 9 | 11 => dDfmt d ≠ dSfmt d
   | 1 => s.stashTrans c d base
   | 2 => dDfmt d ≠ dSfmt d || isMx (dSfmt d)
   | 3 => if dDspace d = 3 then dDfmt d ≠ 0 else !floatOut (dDfmt d)
   | 4 => isMx (dSfmt d) || (dSspace d = 3 && dSfmt d ≠ 0)
   | 5 => kopFmtBad (vKop d) (dSfmt d) (dDfmt d)
   | 6 => (dSspace d = 3 && dSfmt d ≠ 0) || lossFmtBad d
   | 7 | 8 => stashFmtBad d
   | 10 => dDfmt d ≠ dSfmt d || (dSspace d = 3 && dSfmt d ≠ 0)
   | 12 => dDfmt d ≠ dSfmt d || !(dSfmt d = 0 || dSfmt d = 1)
   | _ => false)

/-! ## What the descriptor shows: runs of rows in a space (R42, R97, R545) -/

/-- Rows that a stream reads or writes: in space 0 and 1 by byte address, in space 2 by accumulator row. -/
structure Span where
  space : Nat
  first : Nat
  step : Nat
  rows : Nat
  bytes : Nat
  wr : Bool
  deriving DecidableEq, Repr

/-- Rows in scratchpad or HBM at a captured base. -/
def rowSpan (space base str rows bytes : Nat) (wr : Bool) : Span :=
  ⟨space, unitAddr space base, unitStride space str, rows, bytes, wr⟩
/-- Scale rows of an MX operand. -/
def scaleSpan (space base str rows cols fmt : Nat) (wr : Bool) : List Span :=
  if isMx fmt then [⟨space, unitAddr space base, str, rows, cdiv cols 32, wr⟩] else []
/-- Destination rows of a VECTOR by KOP (R176). -/
def vectorOut (d : BitVec 256) (dst : Nat) : List Span :=
  let k := vKop d
  let rows := dTiles d * dRows d
  if k = 0x32 then [rowSpan 0 dst (dDstr d) rows (rowBytes 8 (2 * dCols d)) true]
  else if k = 0x34 || k = 0x46 then [rowSpan 0 dst (dDstr d) 1 4 true]
  else if k = 0x48 then [rowSpan 0 dst (dDstr d) rows (longBytes (dCols d)) true]
  else if 0x40 ≤ k && k ≤ 0x44 then []
  else [rowSpan 0 dst (dDstr d) rows (rowBytes (dDfmt d) (dCols d)) true]
/-- The runs of a LOSS by pass (Table 7.7); a record set shows its first line. -/
def lossSpans (x : Slot) : List Span :=
  let d := x.desc
  let rows := dTiles d * dRows d
  let a := if dSspace d = 0 then [rowSpan 0 x.srcBase (dSstr d) rows (rowBytes (dSfmt d) (dCols d)) false] else []
  let out := [rowSpan 0 x.dstBase (dDstr d) rows (rowBytes (dDfmt d) (dCols d)) true]
  rowSpan 0 x.auxBase 0 1 256 false ::
    (match hPass d with
     | 0 => a ++ (if dSspace d = 3 then out else [])
     | 1 => []
     | 2 => a ++ (if hKind d = 7 then [rowSpan 0 x.dstBase (dDstr d) (dRows d) 256 true] else out)
     | _ => [rowSpan 0 x.srcBase (dSstr d) (dRows d) 64 false, rowSpan 0 x.dstBase (dDstr d) (dRows d) 4 true])
/-- Every run of rows the descriptor of a slot shows. -/
def spansOf (x : Slot) : List Span :=
  let d := x.desc
  let rows := dTiles d * dRows d
  let src := if dSspace d = 0 || dSspace d = 1 then
      [rowSpan (dSspace d) x.srcBase (dSstr d) rows (rowBytes (dSfmt d) (dCols d)) false] else []
  let dst := if dDspace d = 0 || dDspace d = 1 then
      [rowSpan (dDspace d) x.dstBase (dDstr d) rows (rowBytes (dDfmt d) (dCols d)) true] else []
  match kindOf d with
  | 0 =>
    src ++ scaleSpan (dSspace d) x.auxBase (fld d 216 10) rows (dCols d) (dSfmt d) false ++
      [rowSpan 0 x.dstBase (dDstr d) (dTiles d * loadRows d) (rowBytes (dDfmt d) (loadCols d)) true] ++
      scaleSpan 0 (loadScaleBase d x.dstBase / 256) (fld d 226 10) (dTiles d * loadRows d) (loadCols d) (dDfmt d) true
  | 1 =>
    src ++ scaleSpan (dSspace d) x.auxBase (fScstr d) rows (dCols d) (dSfmt d) false ++
      (if fRole d = 1 then [⟨2, x.dstBase, dDstr d, dTiles d * feedM d, 1, true⟩] else [])
  | 2 =>
    [⟨dSspace d, unitAddr (dSspace d) x.srcBase, 0, 1, cdiv (gSlim d * fmtBits (dSfmt d)) 8, false⟩,
     rowSpan 0 x.auxBase 0 1 (4 * dElems d) false] ++ dst
  | 3 =>
    ⟨2, x.srcBase, dSstr d, rows, 1, false⟩ ::
      ((if drBias d then [rowSpan 0 x.auxBase 0 1 (rowBytes 0 (dCols d)) false] else []) ++ dst)
  | 4 => src ++ dst ++ (if dDspace d = 0 then scaleSpan 0 x.auxBase (fld d 226 10) rows (dCols d) (dDfmt d) true else [])
  | 5 =>
    (if dSspace d = 0 && kopReadsA (vKop d) then
      [rowSpan 0 x.srcBase (dSstr d) rows (if vKop d = 0x49 then longBytes (dCols d) else rowBytes (dSfmt d) (dCols d)) false]
     else []) ++ vectorOut d x.dstBase ++ (if kUsesBlock (vKop d) then [rowSpan 0 x.auxBase 0 1 256 false] else [])
  | 6 => lossSpans x
  | 7 => src ++ dst ++ scaleSpan 1 x.auxBase (sScstr d) rows (dCols d) (dDfmt d) true
  | 8 => src ++ scaleSpan 1 x.auxBase (sScstr d) rows (dCols d) (dSfmt d) false ++ dst
  | _ => src ++ dst

/-- Largest address a space holds: scratchpad bytes, HBM byte addresses of 41 bits, accumulator rows. -/
def spaceEnd (space : Nat) : Nat := match space with | 0 => spBytes | 1 => 2 ^ 41 | _ => 1024
/-- A base or a row lies beyond its space, or an HBM base is not a multiple of 64 (R42, R98). -/
def Span.bad (p : Span) : Bool :=
  spaceEnd p.space ≤ p.first || spaceEnd p.space < p.first + (p.rows - 1) * p.step + p.bytes ||
  (p.space = 1 && p.first % 64 ≠ 0)
/-- A captured base of a slot lies beyond its space (R98). -/
def Slot.baseBad (x : Slot) : Bool :=
  let d := x.desc
  let lim := fun (sp b : Nat) => (sp = 0 && spLines ≤ b) || (sp = 1 && 2 ^ 41 ≤ b) || (sp = 2 && 1024 ≤ b)
  lim (dSspace d) x.srcBase || (lim (dDspace d) x.dstBase && !(kindOf d = 1 && fRole d = 0))
/-- The first HBM address of the shown runs that the region table refuses, unmapped before denied (R98 item 5). -/
def State.hbmShown (s : State) (c : Nat) (l : List Span) : Option (Nat × Nat) :=
  let addrs := (l.filter (fun p => p.space = 1)).flatMap (fun p =>
    (List.range p.rows).flatMap (fun i => (sectorsOf (p.first + i * p.step) p.bytes).map (fun a => (a, p.wr))))
  match addrs.find? (fun a => s.hbm.check (s.partOf c) a.2 a.1 = .unmapped) with
  | some a => some (codeHbmUnmapped, a.1)
  | none => (addrs.find? (fun a => s.hbm.check (s.partOf c) a.2 a.1 = .denied)).map (fun a => (codeHbmDenied, a.1))
/-- Scratchpad lines of a run. -/
def Span.lines (p : Span) : List Nat := (List.range p.rows).flatMap (fun i => linesOf (p.first + i * p.step) p.bytes)
/-- The guard refusals that the descriptor shows: HOT_GUARD, then HOP_GUARD (R98 item 6, R201, R368). -/
def State.guardShown (s : State) (c : Nat) (x : Slot) : Option (Nat × Nat) :=
  let l := (spansOf x).filter (fun p => p.space = 0)
  match (l.flatMap Span.lines).find? (fun n => s.hotLine c n) with
  | some n => some (codeHotGuard, n)
  | none =>
    (l.findSome? (fun p => p.lines.find? (fun n =>
      (s.core c).guarded (if p.wr then [] else hOwn x.desc) n))).map (fun n => (codeHopGuard, n))

/-- The issue checks of R98, in their order: the code of the first defect and the address it shows. -/
def State.issueCheck (s : State) (c : Nat) (x : Slot) : Option (Nat × Nat) :=
  if descBad x.desc then some (codeDescField, 0)
  else if s.fmtBad c x.desc x.srcBase x.auxBase then some (codeStreamFormat, 0)
  else if x.baseBad || (spansOf x).any Span.bad then some (codeStreamRange, 0)
  else
    match s.hbmShown c (spansOf x) with
    | some f => some f
    | none => s.guardShown c x

/-! ## Issue (R87, R101) -/

/-- Bases captured at issue: descriptor base plus address register, modulo 2⁶⁴; a space-3 operand has base zero. -/
def slotOf (d : BitVec 256) (ax ay az : Word) (order : Nat) (origin : Origin) : Slot :=
  { desc := d
    srcBase := if dSspace d = 3 then 0 else (dSbase d + ax.toNat) % 2 ^ 64
    dstBase := if dDspace d = 3 then 0 else (dDbase d + ay.toNat) % 2 ^ 64
    auxBase := az.toNat
    order := order
    origin := origin
    state := if dGaten d then .gated else .queued }
/-- Issue a stream into slot `n`: FAULTED with a report when a check refuses it, else GATED or QUEUED (R87, R53). -/
def State.issueAt (s : State) (c n : Nat) (d : BitVec 256) (ax ay az : Word) (origin : Origin) : State × Bool :=
  let k := s.core c
  let x := slotOf d ax ay az k.nextOrder origin
  let s1 := s.setCore c { (k.setSlot n x) with nextOrder := k.nextOrder + 1 }
  match s1.issueCheck c x with
  | some (code, a) =>
    let s2 := if code = codeHbmUnmapped then s1.modHbm (·.countUnmapped)
      else if code = codeHbmDenied then s1.modHbm (·.countDenied) else s1
    (s2.streamFault c n code a, false)
  | none =>
    (s1.modCore c (fun k => { k with welt := { k.welt with softSent := k.welt.softSent || (isSend d && wSoft d) } }), true)
/-- STREAM_KIND: a reserved kind is reported without a slot (R51, R87). -/
def State.kindFault (s : State) (c : Nat) (d : BitVec 256) : State :=
  s.report { s.coreReport c codeStreamKind with kind := kindOf d }
/-- Issue into the lowest free slot, its number in s[rd]; without one the sequencer stalls (R52, R87). -/
def State.streamInto (s : State) (c rs rd ax ay az : Nat) : State :=
  let k := s.core c
  let d := k.quad rs
  if 13 ≤ kindOf d then
    (s.kindFault c d).modCore c (fun k => ((k.setS rd (BitVec.allOnes 64)).setStall none).step8)
  else
    match k.lowestFree with
    | none => s.modCore c (fun k => k.setStall (some (.stream (BitVec.ofNat 5 rs) (BitVec.ofNat 5 rd) (BitVec.ofNat 4 ax)
        (BitVec.ofNat 4 ay) (BitVec.ofNat 4 az))))
    | some n =>
      (s.issueAt c n d (k.a ax) (k.a ay) (k.a az) .seq).1.modCore c (fun k =>
        ((k.setS rd (BitVec.ofNat 64 n)).setStall none).step8)
/-- STREAM (R87). -/
def execStream (c : CoreId) (rs rd : BitVec 5) (ax ay az : BitVec 4) (s : State) : Host.Outcome State Fault Refusal :=
  .next (s.groupRun c rs (fun s => s.streamInto c.val rs.toNat rd.toNat ax.toNat ay.toNat az.toNat))

/-! ## Gates, tiles, completion -/

/-- A core that evaluates gates: not from its parked notice until it is resumed (R372); a fault of its sequencer leaves them
running (R95; log entry 83). -/
def Core.gatesLive (k : Core) : Bool := !k.seq.parked
/-- The gate of a slot is open (R53, R59); a withdrawn stream's always is, once its core goes on (R373). -/
def Core.gateOpens (k : Core) (x : Slot) : Bool := if x.withdrawn then !k.seq.parking else dGatev x.desc ≤ (k.tok (dGatet x.desc)).toNat
/-- GATE_OPEN: GATED becomes QUEUED once the gate's counter is at least the gate value (R53). -/
def execGateOpen (r : StreamRef) (s : State) : Host.Outcome State Fault Refusal :=
  let k := s.core r.core.val
  let x := k.slot r.slot.val
  .next (if x.state = .gated && k.gatesLive && k.gateOpens x then
    s.setCore r.core.val (k.setSlot r.slot.val { x with state := .queued }) else s)

/-- STREAM_TILE_WRITTEN: one more whole tile is written and counted (R58). -/
def execStreamTileWritten (r : StreamRef) (s : State) : Host.Outcome State Fault Refusal :=
  let c := r.core.val
  let n := r.slot.val
  let k := s.core c
  let x := k.slot n
  .next (
    if x.state = .active && x.countsTiles && x.tiles < x.tilesWritten then
      if k.tokFull (dTokt x.desc) then
        ((s.modCore c (fun k => k.recvStops n)).streamFault c n codeTokenOvf x.tiles).modCore c (·.settleAborts)
      else s.setCore c ((k.setSlot n { x with tiles := x.tiles + 1 }).incTok (dTokt x.desc))
    else s)

/-- Station a feeding stream fills (R50, Tables 2.2 and 3.9). -/
def feedsOf (d : BitVec 256) : Option Nat :=
  match kindOf d with
  | 2 => if gDst d = 0 then none else some (gatherStation d)
  | 3 => if dDspace d = 3 then some (drStation d) else none
  | 4 => if dDspace d = 3 then some 6 else none
  | _ => none
/-- Nothing holds the completion of a done stream back: its tiles are counted, and streams that are queued take all it has fed
(R50, R58, R99). -/
def Core.completable (k : Core) (x : Slot) : Bool :=
  x.state = .active && x.done && (!x.countsTiles || dTiles x.desc ≤ x.tiles) &&
  (match feedsOf x.desc with | some st => k.pathAbsorbed st | none => true)
/-- Mash cycles for which a stream has been ACTIVE and which have not been charged (R381). -/
def Slot.engineTime (x : Slot) (mash : Nat) : Nat :=
  match x.endedAt with
  | some t => t - x.acceptedAt
  | none => if x.state = .active then mash - x.acceptedAt else 0
/-- Engine time of a stream, charged to a client; a FEED is charged on Lauter and Mash (R381). -/
def State.acctEngine (s : State) (c cl : Nat) (x : Slot) : State :=
  let t := x.engineTime (s.mashOf c)
  let s1 := s.acctAdd cl (stationOf (kindOf x.desc) + 1) t
  if kindOf x.desc = 1 then s1.acctAdd cl 2 t else s1
/-- A deferred entry loses a stream; with its last one, when all were issued, its counter is incremented (R236). -/
def DwqEntry.drop (e : DwqEntry) (n : Nat) (bad : Bool) : DwqEntry := { e with open_ := e.open_.filter (· ≠ n), bad := e.bad || bad }
def DwqEntry.finished (e : DwqEntry) : Bool := e.open_.isEmpty && e.count ≤ e.idx
/-- Settle the running entries that have finished (R236). -/
def Core.dwqSettle (k : Core) : Core :=
  let fin := k.dwq.running.filter (·.finished)
  let k1 := { k with dwq := { k.dwq with running := k.dwq.running.filter (fun e => !e.finished) } }
  fin.foldl (fun k e => if e.tken && !e.bad then k.incTok e.tc else k) k1
/-- A slot of an entry's stream is given back: `bad` when its stream did not complete. -/
def Core.dwqDrop (k : Core) (x : Slot) (n : Nat) (bad : Bool) : Core :=
  match x.origin with
  | .seq => k
  | .dwq i =>
    let f := fun (e : DwqEntry) => if e.n = i then e.drop n bad else e
    { k with dwq := { k.dwq with started := k.dwq.started.map f, running := k.dwq.running.map f } }.dwqSettle
/-- Free a slot. -/
def Core.freeSlot (k : Core) (n : Nat) (bad : Bool) : Core :=
  ((k.dwqDrop (k.slot n) n bad).setSlot n {}).settleAborts
/-- STREAM_COMPLETE: the stream's writes are visible, its counter is incremented and its slot is free (R53, R57, R58). -/
def execStreamComplete (r : StreamRef) (s : State) : Host.Outcome State Fault Refusal :=
  let c := r.core.val
  let n := r.slot.val
  let k := s.core c
  let x := k.slot n
  .next (
    if k.completable x then
      let inc := dTken x.desc && !dTkev x.desc
      if inc && k.tokFull (dTokt x.desc) then (s.streamFault c n codeTokenOvf 0).modCore c (·.settleAborts)
      else (s.acctEngine c k.client x).modCore c (fun k =>
        ((if inc then k.incTok (dTokt x.desc) else k).feedEnds n (s.mashOf c)).freeSlot n false)
    else s)
/-- SLOT_FREED: a FAULTED slot whose report N1 has taken becomes FREE (R53). -/
def execSlotFreed (r : StreamRef) (s : State) : Host.Outcome State Fault Refusal :=
  let x := (s.core r.core.val).slot r.slot.val
  .next (if x.state = .faulted && x.taken then
      (s.acctEngine r.core.val (s.core r.core.val).client x).modCore r.core.val (fun k => k.freeSlot r.slot.val true)
    else s)

end Sys2Proof.Machine
end

