-- ==== Sys2Proof/Machine/Deferred.lean ====
section
/-! DEFINITION. The deferred queue and its issuer (R231 to R239): pushes, the start of entries, the issue of their
descriptors. -/

namespace Sys2Proof.Machine

/-! ## Fields of DWQ_CTL (Table 8.10) -/

def Dwq.base (q : Dwq) : Nat := fld q.ctl 0 17
def Dwq.enable (q : Dwq) : Bool := bit q.ctl 17
def Dwq.keep (q : Dwq) : Nat := fld q.ctl 18 6
def Dwq.idleCyc (q : Dwq) : Nat := fld q.ctl 24 8
/-- Entries in the queue, a started one included (R235, DWQ_STAT.HELD). -/
def Dwq.heldCount (q : Dwq) : Nat := q.pushed - q.head
/-- An entry is forced by DWQ_FORCE, or as the head of a full queue (R234, R235). -/
def Dwq.forced (q : Dwq) (n : Nat) : Bool :=
  n < q.force.toNat || q.fullForce = some n || (q.started.toList ++ q.running).any (fun e => e.n = n && e.forced)
/-- Entries not yet started, and the unissued descriptors of a started one: what END discards (R239). -/
def Dwq.unissued (q : Dwq) : Nat :=
  match q.started with
  | some e => q.heldCount - 1 + (e.count - e.idx)
  | none => q.heldCount
def Core.modDwq (k : Core) (f : Dwq → Dwq) : Core := { k with dwq := f k.dwq }

/-! ## Push (R231, R235) -/

/-- The entry the program has written receives the next sequence number. -/
def Core.pushOne (k : Core) : Core := k.modDwq (fun q => { q with pushed := q.pushed + 1 })
/-- The queue is full: its head entry is forced (R235). -/
def Core.forceHead (k : Core) : Core := k.modDwq (fun q => { q with fullForce := some q.head })
/-- A push by the sequencer's CSRW: appended at once, or the sequencer stalls and the push is counted (R235). -/
def Core.pushWrite (k : Core) : Core :=
  if k.dwq.heldCount < 64 then k.pushOne.step8
  else ((k.forceHead).modDwq (fun q => { q with fullStall := satAdd 16 q.fullStall 1 })).setStall (some .dwqPush)
/-- DWQ_PUSH: the sequencer writes 1 to DWQ_PUSH.PUSH (R231). -/
def execDwqPush (c : CoreId) (s : State) : Host.Outcome State Fault Refusal :=
  .next (s.seqRun c.val (fun s => s.modCore c.val (·.pushWrite)))

/-! ## Entries (Table 8.3) -/

/-- Byte address of entry `n` in the ring. -/
def Dwq.entryAddr (q : Dwq) (n : Nat) : Nat := 256 * (q.base + n % 64 / 4) + 64 * (n % 4)
/-- An entry as read; `ok` is false when it faults with DWQ_ENTRY (R232). -/
structure EntryIn where
  e : DwqEntry
  ok : Bool
  deriving DecidableEq, Repr
def entryOf (n : Nat) (bs : List Byte) (forced : Bool) : EntryIn :=
  let at_ := fun (a w : Nat) => bytesNat ((bs.drop a).take w)
  let line := at_ 0 4
  let count := at_ 4 2
  let flags := at_ 12 1
  { e := { n := n, line := line, count := count, idx := 0, tken := flags % 2 = 1, tc := flags / 2 % 8,
           ax := BitVec.ofNat 64 (at_ 16 8), ay := BitVec.ofNat 64 (at_ 24 8), az := BitVec.ofNat 64 (at_ 32 8),
           forced := forced, open_ := [], bad := false }
    ok := (1 ≤ count && count ≤ 512 && flags / 16 = 0 && at_ 13 3 = 0 && at_ 40 24 = 0 &&
      line + (count - 1) / 8 < spLines) }

/-- The started entry leaves the queue (R235). -/
def Core.entryLeaves (k : Core) : Core :=
  (k.modDwq (fun q => { q with
    head := q.head + 1
    started := none
    running := (match q.started with
      | some e => q.running ++ [{ e with count := e.idx, forced := q.forced e.n }]
      | none => q.running)
    fullForce := if q.fullForce = some q.head then none else q.fullForce })).dwqSettle
/-- A started entry that faults: it leaves, its counter is not incremented, and it is counted (R232). -/
def Core.entryFails (k : Core) : Core :=
  (k.modDwq (fun q => { q with
    entryFault := satAdd 16 q.entryFault 1
    started := q.started.map (fun e => { e with bad := true }) })).entryLeaves

/-- The issuer may act: a kernel runs, the core has not taken a pre-emption and its sequencer has not come to END (R239). -/
def Core.issuerLive (k : Core) : Bool :=
  k.seq.kernel.isSome && !k.seq.parking && !k.seq.parked && k.seq.stall ≠ some .kend
/-- An unforced deferred stream is QUEUED or ACTIVE (R233). -/
def Core.unforcedLive (k : Core) : Bool :=
  Core.slotNums.any (fun n =>
    let x := k.slot n
    x.live && (match x.origin with | .seq => false | .dwq i => !k.dwq.forced i))
/-- Mash has no FEED QUEUED or ACTIVE and an empty shadow (R233). -/
def Core.mashIdle (k : Core) : Bool :=
  k.mash.shadow.isNone && Core.slotNums.all (fun n => !((k.slot n).live && kindOf (k.slot n).desc = 1))
/-- Mash has been idle for IDLE_CYC mash cycles (R233). -/
def State.idleLong (s : State) (c : Nat) : Bool :=
  (s.core c).mashIdle && (s.core c).dwq.idleSince + (s.core c).dwq.idleCyc ≤ s.mashOf c
/-- KIND of the first descriptor of an entry. -/
def Core.firstKind (k : Core) (e : DwqEntry) : Nat := kindOf (BitVec.ofNat 256 (bytesNat (k.spRead (256 * e.line) 32)))

/-- Read the head entry and start it; a bad entry, or one that cannot be read, faults (R232). -/
def State.entryStart (s : State) (c : Nat) (forced : Bool) (may : State → DwqEntry → Bool) : State :=
  let q := (s.core c).dwq
  let m := ({ s := s } : Mv).readSp c [] false (q.entryAddr q.head) 64
  let i := entryOf q.head m.2 forced
  let bad := fun (s : State) (code : Nat) =>
    (s.report { s.coreReport c code with detail := q.head, addr := q.entryAddr q.head / 256 }).modCore c (·.entryFails)
  match m.1.stop with
  | some (code, _) => bad m.1.s code
  | none =>
    if !i.ok then bad m.1.s codeDwqEntry
    else if may m.1.s i.e then m.1.s.modCore c (fun k => k.modDwq (fun q => { q with started := some i.e }))
    else s
/-- There is a head entry, and none is started. -/
def Core.entryWaits (k : Core) : Bool := k.issuerLive && k.dwq.started.isNone && 0 < k.dwq.heldCount
/-- DWQ_ENTRY_START: the issuer starts the head entry, unforced (R233). -/
def execDwqEntryStart (c : CoreId) (s : State) : Host.Outcome State Fault Refusal :=
  let k := s.core c.val
  .next (
    if k.entryWaits && !k.dwq.forced k.dwq.head && k.dwq.enable && k.dwq.keep < k.freeSlots && !k.unforcedLive then
      s.entryStart c.val false (fun s e => (s.core c.val).firstKind e ≠ 1 || s.idleLong c.val)
    else s)
/-- DWQ_FORCED_START: the issuer starts a forced head entry (R234). -/
def execDwqForcedStart (c : CoreId) (s : State) : Host.Outcome State Fault Refusal :=
  let k := s.core c.val
  .next (if k.entryWaits && k.dwq.forced k.dwq.head then s.entryStart c.val true (fun _ _ => true) else s)

/-! ## Descriptors (R232, R233) -/

/-- The stream issued before has become ACTIVE (R233). -/
def Core.prevActive (k : Core) (e : DwqEntry) : Bool :=
  match e.open_.getLast? with
  | some n => (k.slot n).state ≠ .queued && (k.slot n).state ≠ .gated
  | none => true
/-- The next descriptor of a started entry may be issued (R233, R234). -/
def Core.descMay (k : Core) (e : DwqEntry) : Bool :=
  k.issuerLive && e.idx < e.count &&
  (if k.dwq.forced e.n then 0 < k.freeSlots else k.prevActive e && k.dwq.keep < k.freeSlots)
/-- Count an issued descriptor; the entry leaves the queue with its last (R235). -/
def Core.descDone (k : Core) (e : DwqEntry) (n : Nat) : Core :=
  let k1 := k.modDwq (fun q => { q with started := some { e with idx := e.idx + 1, open_ := e.open_ ++ [n] } })
  if e.idx + 1 < e.count then k1 else k1.entryLeaves
/-- Issue one descriptor of the started entry into the lowest free slot. -/
def State.descIssue (s : State) (c : Nat) (e : DwqEntry) (n : Nat) : State :=
  let m := ({ s := s } : Mv).readSp c [] false (256 * e.line + 32 * e.idx) 32
  let d : BitVec 256 := BitVec.ofNat 256 (bytesNat m.2)
  match m.1.stop with
  | some (code, a) =>
    (m.1.s.report { m.1.s.coreReport c code with detail := e.n, addr := a }).modCore c (·.entryFails)
  | none =>
    if 13 ≤ kindOf d then
      (m.1.s.report { m.1.s.coreReport c codeStreamKind with kind := kindOf d, detail := e.n }).modCore c (·.entryFails)
    else
      let r := m.1.s.issueAt c n d e.ax e.ay e.az (.dwq e.n)
      if r.2 then r.1.modCore c (fun k => k.descDone e n) else r.1.modCore c (·.entryFails)
/-- DWQ_DESC_ISSUE: the next descriptor of the started entry is issued, exactly as STREAM would issue it (R232). -/
def execDwqDescIssue (c : CoreId) (s : State) : Host.Outcome State Fault Refusal :=
  let k := s.core c.val
  .next (
    match k.dwq.started, k.lowestFree with
    | some e, some n => if k.descMay e then s.descIssue c.val e n else s
    | _, _ => s)

end Sys2Proof.Machine
end

