-- ==== Sys2Proof/Machine/Sequence.lean ====
section
/-! DEFINITION. Events of a core's sequencer: END and the kernel-end report (R87, R89), stalled instructions (R87),
instruction fetch (R79), launch (R76, R363), pre-emption and parking (R64 to R66, R373), inbound messages (R93). -/

namespace Sys2Proof.Machine

/-! ## END (R87, R89, R203, R239) -/

/-- END after its wait: GATED streams are freed and counted, channels are disabled, deferred entries are discarded. -/
def Core.endCore (k : Core) : Core :=
  let gated := Core.slotNums.filter (fun n => (k.slot n).state = .gated)
  let k1 := gated.foldl (fun k n => k.freeSlot n true) k
  let k2 := (List.range 4).foldl (fun k ch => k.chanOff ch) k1
  let k3 := k2.modDwq (fun q => { q with
    discarded := satAdd 16 q.discarded q.unissued
    head := q.pushed
    started := none
    running := []
    fullForce := none })
  { k3 with seq := { k3.seq with kernel := none, stall := none, preempt := false, parking := false } }
/-- The kernel-end report of a core (R89, R239, R247). -/
def State.endReport (s : State) (c : Nat) (killed : Bool) : EndReport :=
  let k := s.core c
  { core := c, gated := (Core.slotNums.filter (fun n => (k.slot n).state = .gated)).length, sig := k.seq.sig,
    dwqDiscarded := k.dwq.unissued, spill := k.spilled, mashAt := s.mashOf c, killed := killed,
    enforced := match k.seq.kernel with | some r => r.enforced | none => false }
/-- The kernel ends on a core: its report goes to the scheduler. -/
def State.endKernel (s : State) (c : Nat) : State :=
  { s.modCore c (·.endCore) with ends := s.ends.set c (s.endReport c false) }
/-- END waits while a stream is QUEUED or ACTIVE (R87). -/
def State.tryEnd (s : State) (c : Nat) : State :=
  if (s.core c).anyLive then s.modCore c (fun k => k.setStall (some .kend)) else s.endKernel c
/-- END: end the kernel (R87). -/
def execKend (c : CoreId) (s : State) : Host.Outcome State Fault Refusal :=
  .next (s.seqRun c.val (fun s => s.tryEnd c.val))

/-! ## Stalled instructions (R87) -/

/-- A running core that is stalled. -/
def Core.stalled (k : Core) : Bool :=
  k.seq.kernel.isSome && k.seq.faulted.isNone && !k.seq.parking && !k.seq.parked && !k.seq.halted
/-- One mash cycle of a stalled instruction: its condition is evaluated again (R87). -/
def State.stallStep (s : State) (c : Nat) (w : Stall) : State :=
  match w with
  | .stream rs rd ax ay az =>
    (s.modCore c (fun k => { k with slotStall := satAdd 32 k.slotStall 1 })).streamInto c rs.toNat rd.toNat ax.toNat ay.toNat
      az.toNat
  | .waitt tc v waited =>
    s.modCore c (fun k =>
      if v.toNat ≤ (k.tok tc.toNat).toNat then (k.setStall none).step8
      else k.setStall (some (.waitt tc v (BitVec.ofNat 32 (satAdd 32 waited.toNat 1)))))
  | .fence mask => s.modCore c (fun k => if k.fenced mask then k else (k.setStall none).step8)
  | .kend => s.tryEnd c
  | .msg rs dest => s.modCore c (fun k => if k.seq.outbound.length < 8 then (k.setStall none).sendMsg rs dest else k)
  | .dwqPush => s.modCore c (fun k => if k.dwq.heldCount < 64 then (k.setStall none).pushOne.step8 else k)
/-- STALL_CYCLE (R87). -/
def execStallCycle (c : CoreId) (s : State) : Host.Outcome State Fault Refusal :=
  let k := s.core c.val
  .next (match k.seq.stall with
    | some w => if k.stalled then s.stallStep c.val w else s
    | none => s)

/-! ## Instruction fetch (R79) -/

/-- Put a fetched line into the cache of 256 lines; which line it replaces is not stated (log entry 30). -/
def Sequencer.cacheLine (q : Sequencer) (a : Nat) (bs : List Byte) : Sequencer :=
  let kept := if q.icache.length < 256 || (q.icache.find? a).isSome then q.icache else q.icache.drop 1
  { q with icache := kept.set a bs }
/-- The sequencer stops on a fetched line that the HBM reports as uncorrectable; the report names PC (R79, R95, R441). -/
def State.fetchUe (s : State) (c a : Nat) : State :=
  let r := { s.coreReport c codeMemUncorr with pc := (s.core c).seq.pc.toNat }
  (s.hbmUe r a).modCore c (fun k => { k with seq := { k.seq with faulted := some codeMemUncorr, stall := none } })
/-- ICACHE_FILL: the line of PC is fetched from HBM, over the fabric where another die owns it, or the fetch faults (R20, R79, R433,
R436). -/
def execIcacheFill (c : CoreId) (s : State) : Host.Outcome State Fault Refusal :=
  .next (s.seqTry c.val (fun s =>
    let pc := (s.core c.val).seq.pc.toNat
    let line := pc / 256 * 256
    match s.hbm.checkRun (s.partOf c.val) false pc 8 with
    | .unmapped => (s.modHbm (·.countUnmapped)).seqFaultAt c.val codeHbmUnmapped 0 pc
    | .denied => (s.modHbm (·.countDenied)).seqFaultAt c.val codeHbmDenied 0 pc
    | .ok =>
      match s.hbm.badIn line 256 with
      | some x => s.fetchUe c.val x
      | none =>
        ((s.farAccess c.val line 256).modHbm (fun h => h.fix line 256)).modCore c.val (fun k =>
          { k with seq := k.seq.cacheLine line (s.hbm.read line 256) })))

/-! ## Launch (R76, R179, R231, R285, R363; Table 3.1) -/

/-- A core as a kernel instance starts on it: every slot is FREE (Table 3.1; log entry 71); what no rule names keeps its
value. -/
def Core.launch (k : Core) (l : Launch) (mash : Nat) : Core :=
  let r := l.krec
  let regs : List Word := [BitVec.ofNat 64 l.inst, BitVec.ofNat 64 r.width, BitVec.ofNat 64 (r.addr + 128)] ++ r.args
  let k1 : Core := { k with
    seq := { k.seq with
      s := regs.zipIdx.foldl (fun m p => m.set (p.2 + 1) p.1) []
      a := []
      t := []
      pc := r.entry
      sig := 0
      regionBase := r.regionBase
      regionLen := r.regionLen
      mbox := []
      stall := none
      faulted := none
      kernel := some { part := r.part, kid := r.kid, inst := l.inst, width := r.width, resv := r.resv,
                       enforced := l.enforced, client := r.client }
      preempt := false
      parking := false
      parked := false
      yieldMark := mash
      overdueSeen := false
      sigMark := mash }
    slots := []
    hop := { k.hop with refs := [] }
    mash := { k.mash with stat := none, shadow := none, role0 := [], srSeed := r.srSeed }
    vec := { k.vec with lr := [], seed := r.kSeed, step := r.kStep }
    welt := { k.welt with softSent := false, flushes := [], posted := [], next := [], ahead := [], base := [], inputBad := [], inputCrc := [],
                          grants := (k.welt.grants.filter (fun e => e.sent < e.granted)).map (fun e => { e with sent := 0 }) }
    phase := { k.phase with ran := k.phase.ran || r.be }
    dwq := { k.dwq with force := 0, pushed := 0, head := 0, started := none, running := [], fullForce := none } }
  k1
/-- LAUNCH_RECORD: the launch record reaches its core on FC0 and the instance starts; a core whose bay is not ON does not get it, and one
that has failed a test or is retired accepts no kernel (R41, R363, R454, R512). -/
def execLaunchRecord (c : CoreId) (s : State) : Host.Outcome State Fault Refusal :=
  .next (match s.launches.find? c.val with
    | some l => ({ s with launches := s.launches.erase c.val } : State).cross (toCoreEnd 96 c.val) 1 none (fun s =>
        s.modCore c.val (fun k => if k.retired || k.safe.barred then k else k.launch l (s.mashOf c.val)))
    | none => s)

/-! ## Yield points and pre-emption (R64 to R66, R372, R373) -/

/-- YIELD_OVERDUE: more than 26,000 mash cycles since the last yield point (R66). -/
def execYieldOverdue (c : CoreId) (s : State) : Host.Outcome State Fault Refusal :=
  let k := s.core c.val
  .next (
    if k.seq.kernel.isSome && !k.seq.parking && !k.seq.parked && !k.seq.overdueSeen &&
        k.seq.yieldMark + 26000 < s.mashOf c.val then
      s.setCore c.val { k with
        yieldOverdue := true
        overdueCnt := satAdd 32 k.overdueCnt 1
        seq := { k.seq with overdueSeen := true } }
    else s)
/-- PREEMPT_REQUEST: the request of the scheduler reaches a core (R64). -/
def execPreemptRequest (c : CoreId) (s : State) : Host.Outcome State Fault Refusal :=
  let k := s.core c.val
  .next (if k.seq.kernel.isSome && k.sched = .parking && !k.seq.parked then
    s.setCore c.val { k with seq := { k.seq with preempt := true } } else s)

/-- An ACTIVE stream waits for a remote event: a SEND without a posted RECV, credit or grant for another line, a RECV with no
flit in flight to it, a LOSS whose teacher tile has not arrived (R65). A SEND that waits for its own direct path or for its
endpoint's queue does not. -/
def State.remoteWait (s : State) (c n : Nat) : Bool :=
  let x := (s.core c).slot n
  x.state = .active && !x.done &&
  (match kindOf x.desc with
   | 10 => s.sendLet c n = 0
   | 11 => s.inFlight c (wChan x.desc) = 0
   | 6 => x.blocked && ((s.core c).tileReady x.desc (hBlockOf (s.core c).hop.block)) = (none, false)
   | _ => false)
/-- Every ACTIVE stream of the core waits for a remote event (R65). -/
def State.allRemote (s : State) (c : Nat) : Bool :=
  Core.slotNums.all (fun n => ((s.core c).slot n).state ≠ .active || s.remoteWait c n)
/-- Withdraw a SEND or RECV: it keeps its slot as GATED; a SEND that is not REMOTE sends a flush flit, and a RECV may have had that of
its source already (R373, R374). -/
def State.withdraw (s : State) (c n : Nat) : State :=
  let x := (s.core c).slot n
  let early := (wChan x.desc, wCore x.desc)
  let came := kindOf x.desc = 11 && (s.core c).welt.flushes.contains early
  let s1 := (s.acctEngine c (s.core c).client x).modCore c (fun k =>
    { k with welt := { k.welt with flushes := if came then k.welt.flushes.erase early else k.welt.flushes } }.setSlot n
      { x with state := .gated, withdrawn := true, blocked := false, flushed := came })
  if isSend x.desc && !wRemote x.desc then
    s1.inject (s1.newFlit c (wCore x.desc) 5 0 n x.order (.flush (wChan x.desc)))
  else s1
/-- Withdraw every slot that the predicate selects. -/
def State.withdrawAll (s : State) (c : Nat) (p : Nat → Bool) : State :=
  (Core.slotNums.filter p).foldl (fun s n => s.withdraw c n) s
def Core.isSendRecv (k : Core) (n : Nat) : Bool := kindOf (k.slot n).desc = 10 || kindOf (k.slot n).desc = 11
/-- WAITT_PARK: a WAITT that has stalled 1,024 cycles with every ACTIVE stream waiting on a remote event is a yield point; with
a request pending it takes the pre-emption, its PC is saved and its blocked SENDs and RECVs are withdrawn (R64 to R66, R77,
R373); a core pinned by Hopback or by unreleased bucket buffers goes on waiting (R202, R300). -/
def execWaittPark (c : CoreId) (s : State) : Host.Outcome State Fault Refusal :=
  let k := s.core c.val
  let long : Bool := match k.seq.stall with | some (.waitt _ _ w) => decide (1024 ≤ w.toNat) | _ => false
  .next (
    if !(k.stalled && long && s.allRemote c.val) then s
    else if k.seq.preempt && !k.keeps then
      (s.withdrawAll c.val (fun n => k.isSendRecv n && s.remoteWait c.val n)).modCore c.val (fun k =>
        { (k.atYield (s.mashOf c.val)).setStall none with
          seq := { (k.atYield (s.mashOf c.val)).seq with stall := none, parking := true } })
    else s.modCore c.val (fun k => k.atYield (s.mashOf c.val)))
/-- A SEND or RECV that has moved no line for 1,024 mash cycles while it waits for a remote event (R373). -/
def State.idleRemote (s : State) (c n : Nat) : Bool :=
  (s.core c).isSendRecv n && s.remoteWait c n && ((s.core c).slot n).movedAt + 1024 ≤ s.mashOf c
/-- CORE_PARKED: the SENDs and RECVs of a parking core that have waited long enough are withdrawn, and once no stream is QUEUED or
ACTIVE any longer the parked notice leaves (R64, R373). -/
def execCoreParked (c : CoreId) (s : State) : Host.Outcome State Fault Refusal :=
  let k := s.core c.val
  .next (
    if k.seq.parking && !k.seq.parked then
      let s1 := s.withdrawAll c.val (fun n => s.idleRemote c.val n)
      if Core.slotNums.all (fun n => !((s1.core c.val).slot n).live) then
        { s1.modCore c.val (fun k => { k with seq := { k.seq with parked := true, preempt := false } }) with
          parkedMsgs := s1.parkedMsgs ++ [c.val] }
      else s1
    else s)

/-! ## Inbound messages (R93, R268, R417) -/

/-- The message may be offered: Cinch never offers a later message before an earlier one has been accepted (R268). -/
def offerable (before : List MboxMsg) (m : MboxMsg) : Bool :=
  match m.source with
  | .cinch => before.all (fun b => !(b.core = m.core && b.source = .cinch))
  | .ingest _ => true
/-- Split the messages at the first one that the predicate takes. -/
def splitMsg (p : List MboxMsg → MboxMsg → Bool) : List MboxMsg → List MboxMsg → Option (List MboxMsg × MboxMsg × List MboxMsg)
  | _, [] => none
  | before, m :: rest => if p before m then some (before, m, rest) else splitMsg p (before ++ [m]) rest
/-- Site that sends a mailbox message: the Saddle pair for the Cinch unit, N1 for an ingest note (R23, R268, R417). -/
def MsgSource.site : MsgSource → Nat | .cinch => 96 | .ingest _ => 99
/-- Offer a message on FC0: it joins the mailbox, or its sender keeps it and offers it again after 1 µs (Cinch, counted) or 10 µs
(an ingest note); a core whose bay is not ON does not get it (R41, R93, R268, R417). -/
def State.offer (s : State) (r : List MboxMsg × MboxMsg × List MboxMsg) : State :=
  let m := r.2.1
  let gone : State := { s with mboxes := r.1 ++ r.2.2 }
  gone.cross (toCoreEnd m.source.site m.core) 1 none (fun t =>
    match (t.core m.core).deliver m.payload m.tc with
    | some k => t.setCore m.core k
    | none =>
      let kept := fun (n : Nat) => r.1 ++ { m with retryAt := some (s.now + n) } :: r.2.2
      match m.source with
      | .cinch => { t with mboxes := kept 1000, cinch := { t.cinch with mboxWait := satAdd 13 t.cinch.mboxWait 1 } }
      | .ingest _ => { t with mboxes := kept 10000 })
/-- MAILBOX_MESSAGE: the oldest new message to a core arrives (R93). -/
def execMailboxMessage (c : CoreId) (s : State) : Host.Outcome State Fault Refusal :=
  .next (match splitMsg (fun b m => m.core = c.val && m.retryAt.isNone && offerable b m) [] s.mboxes with
    | some r => s.offer r
    | none => s)
/-- CINCH_MBOX_RETRY: Cinch offers a refused message again after 1 µs, unless its Saddle is stopped by its lockstep (R23, R268). -/
def execCinchMboxRetry (c : CoreId) (s : State) : Host.Outcome State Fault Refusal :=
  .next (if s.safety.saddleStopped then s else match splitMsg (fun b m => m.core = c.val && m.source = .cinch &&
      (match m.retryAt with | some t => t ≤ s.now | none => false) && offerable b m) [] s.mboxes with
    | some r => s.offer r
    | none => s)

end Sys2Proof.Machine
end

