-- ==== Sys2Proof/Machine/N1.lean ====
section
/-! DEFINITION. The RHT transport of N1 as operations (R405 to R411, R420, R421, R425 to R427): lanes and their windows, the
sending of messages, records held for subscribers, telemetry, the cleanup of a session. -/

namespace Sys2Proof
open Sys2Proof.Machine

/-! ## Datagrams as they arrive (Table 15.2) -/

def Datagram.type (d : Datagram) : Nat := fld d.hdr 8 8
def Datagram.lane (d : Datagram) : Nat := fld d.hdr 16 2
def Datagram.nak (d : Datagram) : Bool := bit d.hdr 18
def Datagram.session (d : Datagram) : Nat := fld d.hdr 32 16
def Datagram.seq (d : Datagram) : BitVec 32 := BitVec.ofNat 32 (fld d.hdr 64 32)
def Datagram.ack (d : Datagram) : BitVec 32 := BitVec.ofNat 32 (fld d.hdr 96 32)
def Datagram.msgid (d : Datagram) : Nat := fld d.hdr 128 32
def Datagram.frag (d : Datagram) : Nat := fld d.hdr 160 16
def Datagram.nfrag (d : Datagram) : Nat := fld d.hdr 176 16
def Datagram.plen (d : Datagram) : Nat := fld d.hdr 192 16
/-- CRC-32C over header bytes 0 to 27 and the payload. -/
def Datagram.crc (d : Datagram) : BitVec 32 := crc32c 0 (natBytes 28 (fld d.hdr 0 224) ++ d.payload)
/-- VER, the zero fields, PLEN and HCRC are right (R405). -/
def Datagram.formOk (d : Datagram) (maxpl : Nat) : Bool :=
  fld d.hdr 0 8 = 1 && fld d.hdr 19 5 = 0 && fld d.hdr 24 8 = 0 && fld d.hdr 48 16 = 0 && fld d.hdr 208 16 = 0 &&
    d.plen = d.payload.length && d.plen ≤ maxpl && fld d.hdr 224 32 = d.crc.toNat

end Sys2Proof

namespace Sys2Proof.Machine

def State.modHost (s : State) (f : HostPort → HostPort) : State := { s with host := f s.host }
def State.modGlob (s : State) (f : Global → Global) : State := { s with glob := f s.glob }
def Session.lane (x : Session) (l : Nat) : Lane := x.lanes.get {} l
def Session.setLane (x : Session) (l : Nat) (y : Lane) : Session := { x with lanes := x.lanes.set l y }
def State.modLane (s : State) (i l : Nat) (f : Lane → Lane) : State := s.modSess i (fun x => x.setLane l (f (x.lane l)))
def allSessions : List Nat := List.range 16
/-- MAXPL of RHT_CFG (Table 15.10). -/
def HostPort.maxpl (h : HostPort) : Nat := fld h.rhtCfg 16 14
/-- RHT bytes of either direction, for ACCT_PKG_HOST and for client 0 (R381, R523). -/
def acctHostKey (client : Nat) : Nat := 16384 + client * 4 + 1
def State.acctHost (s : State) (bytes : Nat) : State :=
  s.modGlob (fun g => { g with
    acctHost := satAdd 64 g.acctHost bytes
    acct := g.acct.set (acctHostKey 0) (satAdd 64 (g.acct.get 0 (acctHostKey 0)) bytes)
    bytesInt := g.bytesInt.set 1 (g.bytesInt.get 0 1 + bytes) })

/-! ## Sending (R405 to R407) -/

/-- Header bytes 0 to 27 of a datagram (Table 15.2). -/
def rhtHdr (type lane : Nat) (nak : Bool) (sess seq ack msgid frag nfrag plen : Nat) : BitVec 224 :=
  BitVec.ofNat 224 (0x01 + type % 2 ^ 8 * 2 ^ 8 + (lane % 4 + 4 * b2n nak) * 2 ^ 16 + sess % 2 ^ 16 * 2 ^ 32 + seq % 2 ^ 32 * 2 ^ 64 +
    ack % 2 ^ 32 * 2 ^ 96 + msgid % 2 ^ 32 * 2 ^ 128 + frag % 2 ^ 16 * 2 ^ 160 + nfrag % 2 ^ 16 * 2 ^ 176 + plen % 2 ^ 16 * 2 ^ 192)
/-- TYPE of a message of the device (Table 15.4). -/
def Out.rhtType : Out → Nat
  | .openAck .. => 0x03 | .status .. => 0x0F | .csrResp .. => 0x12 | .loadDone .. => 0x21 | .lcResponse .. => 0x31
  | .ringWrite .. => 0x40 | .gate .. => 0x48 | .telemetry .. => 0x50 | .fault .. => 0x51 | .hostMsg .. => 0x58
  | _ => 0
/-- Latest SEQ received in order on a lane (ACK of Table 15.2). -/
def Lane.ackSeq (l : Lane) : Nat := (l.rxSeq - 1).toNat
/-- 802.1Q priority and DSCP of a lane, and of RoCEv2 (R408). -/
def HostPort.pcp (h : HostPort) (l : Nat) : Nat := fld h.qos (3 * l) 3
def HostPort.dscp (h : HostPort) (l : Nat) : Nat := fld h.qos (12 + 6 * l) 6
/-- A datagram of lane `n`, from its source port, with its priority and DSCP (R405, R408). -/
def HostPort.rht (h : HostPort) (i n : Nat) (hdr : BitVec 224) : Out := .rht i (fld h.rhtCfg 0 16 + n) (h.pcp n) (h.dscp n) hdr
/-- A datagram of lane `n` of session `i` with SEQ `seq`, as it is sent. -/
def Lane.gram (l : Lane) (h : HostPort) (i n seq : Nat) (g : Gram) : Out :=
  h.rht i n (rhtHdr g.type n false i seq l.ackSeq g.msgid g.frag g.nfrag g.plen)
/-- A header-only acknowledgement; it takes no SEQ (R407). -/
def Lane.ackOnly (l : Lane) (h : HostPort) (i n : Nat) (nak : Bool) : Out :=
  h.rht i n (rhtHdr 0x01 n nak i l.txNext.toNat l.ackSeq 0 0 1 0)
/-- A message takes its time of departure with its first SEQ (Table 15.8). -/
def Out.stamp (o : Out) (now : Nat) : Out :=
  match o with
  | .lcResponse a b c d e f _ g h => .lcResponse a b c d e f now g h
  | o => o
/-- Bytes of fragment `n` of a message of `bytes` bytes in `nfrag` fragments of at most `maxpl` (R406). -/
def fragLen (maxpl bytes nfrag n : Nat) : Nat := if n + 1 = nfrag then bytes - n * maxpl else maxpl
/-- The next datagram of a waiting message. -/
def OutMsg.gram (m : OutMsg) (maxpl : Nat) : Gram :=
  { type := m.msg.rhtType, msgid := m.msgid, frag := m.next, nfrag := m.nfrag, plen := fragLen maxpl m.bytes m.nfrag m.next }
/-- Send the datagrams of one message while the window of 256 has room: the lane, what has been sent, and whether the last fragment
has left. -/
def sendMsg (h : HostPort) (now i n : Nat) : Nat → Lane → OutMsg → List Out → Lane × OutMsg × List Out × Bool
  | 0, l, m, o => (l, m, o, true)
  | k + 1, l, m, o =>
    if 256 ≤ l.flight.length then (l, m, o, false)
    else
      let g := m.gram h.maxpl
      let o1 := o ++ [l.gram h i n l.txNext.toNat g] ++ (if m.next = 0 then [m.msg.stamp now] else [])
      let l1 := { l with
        txNext := l.txNext + 1
        flight := l.flight ++ [g]
        rxPend := 0 }
      sendMsg h now i n k l1 { m with next := m.next + 1 } o1
/-- Send the waiting messages of a lane while its window has room (R406, R407). -/
def drainLane (h : HostPort) (now i n : Nat) : List OutMsg → Lane → List Out → Lane × List Out
  | [], l, o => ({ l with waiting := [] }, o)
  | m :: rest, l, o =>
    let r := sendMsg h now i n (m.nfrag - m.next) l m o
    if r.2.2.2 then drainLane h now i n rest r.1 r.2.2.1
    else ({ r.1 with waiting := r.2.1 :: rest }, r.2.2.1)
/-- A lane may not send: its 802.1Q priority is paused by priority flow control (R402, R408), or it is lane 1 of a stopped LC engine
(R460). -/
def State.laneHeld (s : State) (l : Nat) : Bool :=
  s.now < s.host.pfc.get 0 (s.host.pcp l) || (l = 1 && s.host.lcStopped)
/-- Send what a lane has waiting, first the acknowledgement it owes (R406, R407). -/
def State.drain (s : State) (i l : Nat) : State :=
  let x := (s.sess i).lane l
  let y := if x.flight.isEmpty then { x with progressAt := s.now } else x
  let owed := match x.ackDue with | some nak => [x.ackOnly s.host i l nak] | none => []
  let r := if s.laneHeld l then (x, []) else drainLane s.host s.now i l x.waiting { y with ackDue := none } owed
  { s.modLane i l (fun _ => r.1) with out := s.out ++ r.2 }
/-- Fragments of a message body (R406). -/
def State.frags (s : State) (bytes : Nat) : Nat := max 1 (cdiv bytes (max 1 s.host.maxpl))
/-- Send a message on an open session, with the session's next message number. -/
def State.post (s : State) (i l bytes : Nat) (o : Out) : State :=
  if (s.sess i).isOpen then
    let m : OutMsg := { msg := o, msgid := (s.sess i).msgNo, bytes := bytes, nfrag := s.frags bytes }
    (((s.acctHost bytes).modSess i (fun x => { x with msgNo := (x.msgNo + 1) % 2 ^ 32 })).modLane i l (fun x =>
      { x with waiting := x.waiting ++ [m] })).drain i l
  else s
/-- The last SEQ of a message that is sent next on a lane. -/
def State.lastSeq (s : State) (i l bytes : Nat) : Nat :=
  let x := (s.sess i).lane l
  (x.txNext.toNat + x.waiting.foldl (fun n e => n + (e.nfrag - e.next)) 0 + s.frags bytes - 1) % 2 ^ 32
/-- A STATUS message (Table 15.6). -/
def State.statusTo (s : State) (a : Asker) (l code detail ref step : Nat) : State :=
  s.post a.sess l 24 (.status a.sess a.msgid code detail ref step)

def stDeferred : Nat := 0x01
def stMemRefused : Nat := 0x02
def stTooLong : Nat := 0x03
def stBadParam : Nat := 0x04
def stPrefixMiss : Nat := 0x05
def stPrefixBusy : Nat := 0x06
def stAdapterMiss : Nat := 0x07
def stAdapterFull : Nat := 0x08
def stExpired : Nat := 0x09
def stCancelled : Nat := 0x0A
def stFlashFull : Nat := 0x0B
def stKvTooSmall : Nat := 0x0C
def stSubmitBad : Nat := 0x10
def stQueueFull : Nat := 0x11
def stTooLarge : Nat := 0x12
def stDupReq : Nat := 0x13
def stUnknownReq : Nat := 0x14
def stMalformed : Nat := 0x15

/-! ## Receiving (R405, R407, R410) -/

def State.rxBad (s : State) : State := s.modHost (fun h => { h with rxBad := satAdd 16 h.rxBad 1 })
/-- The header of a datagram is right, its session is open, and it comes from the session's peer (R405, R410). -/
def State.datagramOk (s : State) (d : Datagram) : Bool :=
  let x := s.sess d.session
  d.formOk s.host.maxpl && x.isOpen && d.addr = x.addr && d.port = x.port
/-- Acknowledge a lane at once in a header-only datagram; while the lane may not send, it owes the acknowledgement (R407). -/
def State.ackNow (s : State) (i l : Nat) (nak : Bool) : State :=
  if s.laneHeld l then s.modLane i l (fun y => { y with ackDue := some (nak || y.ackDue.getD false) })
  else (s.modLane i l (fun y => { y with rxPend := 0, ackDue := none })).emit (((s.sess i).lane l).ackOnly s.host i l nak)
/-- A datagram taken in order: its fragment joins its message, and an acknowledgement leaves after 16 of them (R406, R407). -/
def State.laneTake (s : State) (i l : Nat) (part : Option RxPart) : State :=
  let x := (s.sess i).lane l
  let s1 := s.modLane i l (fun y => { y with
    rxSeq := y.rxSeq + 1
    nakSent := false
    part := part
    rxPend := y.rxPend + 1
    rxAt := if y.rxPend = 0 then s.now else y.rxAt })
  if 15 ≤ x.rxPend then s1.ackNow i l false else s1

/-! ## Records held for subscribers (R417, R425, R426) -/

def subFault : Nat := 0
def subTelem : Nat := 1
def subGate : Nat := 2
/-- Sessions open and subscribed. -/
def State.subscribers (s : State) (b : Nat) : List Nat :=
  allSessions.filter (fun i => (s.sess i).isOpen && bit (s.sess i).subs b)
/-- Send a held record to a list of sessions: where its acknowledgement is awaited. -/
def State.sendHeld (s : State) (subs : List Nat) (l bytes : Nat) (o : Nat → Out) : State × List (Nat × Nat) :=
  subs.foldl (fun r i => (r.1.post i l bytes (o i), r.2 ++ [(i, r.1.lastSeq i l bytes)])) (s, [])
/-- A SEQ of a lane has been acknowledged. -/
def Lane.acked (l : Lane) (seq : Nat) : Bool :=
  let done := l.txNext - BitVec.ofNat 32 l.flight.length
  let d := (done - BitVec.ofNat 32 seq).toNat
  1 ≤ d && d < 2 ^ 31
/-- Take the acknowledgements of one session on one lane into a held record; it is freed when every session has
acknowledged it. -/
def heldAck {α : Type} (i : Nat) (l : Lane) (hs : List (Held α)) : List (Held α) :=
  hs.filterMap (fun h =>
    let w := h.wait.filter (fun p => !(p.1 = i && l.acked p.2))
    if h.sent && w.length < h.wait.length then
      (if w.isEmpty then none else some { h with wait := w, acked := true })
    else some h)
/-- Forget a session: a record that no session has acknowledged is held again for the next subscriber. -/
def heldDrop {α : Type} (i : Nat) (hs : List (Held α)) : List (Held α) :=
  hs.filterMap (fun h =>
    let w := h.wait.filter (fun p => p.1 ≠ i)
    if h.sent && w.isEmpty then (if h.acked then none else some { h with wait := [], sent := false })
    else some { h with wait := w })
/-- Send the held fault reports that no session has been sent, in FSEQ order (R426). -/
def State.flushFaults (s : State) : State :=
  let subs := s.subscribers subFault
  if subs.isEmpty then s
  else
    let r := s.host.faults.foldl (fun (a : State × List (Held (Nat × Nat × Report))) h =>
      if h.sent then (a.1, a.2 ++ [h])
      else
        let lost := a.1.host.lostSince
        let q := (a.1.modHost (fun x => { x with lostSince := 0 })).sendHeld subs 0 72 (fun i => .fault i h.item.1 lost h.item.2.2)
        (q.1, a.2 ++ [{ h with sent := true, wait := q.2, item := (h.item.1, lost, h.item.2.2) }])) (s, [])
    r.1.modHost (fun x => { x with faults := r.2 })
/-- Send the held host messages that no session has been sent, in arrival order (R417). -/
def State.flushHostMsgs (s : State) : State :=
  let subs := s.subscribers subFault
  if subs.isEmpty then s
  else
    let r := s.host.hostMsgs.foldl (fun (a : State × List (Held (Nat × BitVec 256))) h =>
      if h.sent then (a.1, a.2 ++ [h])
      else
        let q := a.1.sendHeld subs 0 39 (fun i => .hostMsg i h.item.1 (BitVec.ofNat 256 (h.item.2.toNat / 256)))
        (q.1, a.2 ++ [{ h with sent := true, wait := q.2 }])) (s, [])
    r.1.modHost (fun x => { x with hostMsgs := r.2 })
/-- Send up to 256 held gate records in one GATE message (R425). -/
def State.flushGates (s : State) : State :=
  let subs := s.subscribers subGate
  let new := (s.host.gates.filter (fun h => !h.sent)).take 256
  if subs.isEmpty || new.isEmpty then s
  else
    let q := s.sendHeld subs 3 (8 + 32 * new.length) (fun i => .gate i (new.map (·.item.2)))
    let mark := (s.host.gates.foldl (fun (a : List (Held (Nat × BitVec 256)) × Nat) h =>
      if h.sent || a.2 = 0 then (a.1 ++ [h], a.2) else (a.1 ++ [{ h with sent := true, wait := q.2 }], a.2 - 1))
      ([], new.length)).1
    q.1.modHost (fun x => { x with gates := mark })
/-- Control count at which the oldest unsent gate record arrived (R425). -/
def HostPort.gateAt (h : HostPort) : Option Nat := (h.gates.find? (fun x => !x.sent)).map (·.item.1)
/-- Send gate records while 256 wait and a session is subscribed: at most 16 messages, since 4,096 are held (R425). -/
def State.flushFullGates : Nat → State → State
  | 0, s => s
  | k + 1, s => if 256 ≤ (s.host.gates.filter (fun h => !h.sent)).length then State.flushFullGates k s.flushGates else s
/-- Acknowledgements of a session's lane, up to and with `ack`; progress restarts the lane's timer (R407). -/
def State.ackIn (s : State) (i l : Nat) (ack : BitVec 32) : State :=
  let x := (s.sess i).lane l
  let n := (ack + 1 - (x.txNext - BitVec.ofNat 32 x.flight.length)).toNat
  if 1 ≤ n && n ≤ x.flight.length then
    let y := { x with flight := x.flight.drop n, progressAt := s.now }
    ((s.modLane i l (fun _ => y)).modHost (fun h => { h with
      faults := if l = 0 then heldAck i y h.faults else h.faults
      hostMsgs := if l = 0 then heldAck i y h.hostMsgs else h.hostMsgs
      gates := if l = 3 then heldAck i y h.gates else h.gates })).drain i l
  else s

/-! ## Telemetry (R427) -/

/-- A telemetry message of one kind no part of which has left. -/
def isTelem (kind : Nat) (e : OutMsg) : Bool :=
  match e.msg with
  | .telemetry _ k _ _ _ _ _ => decide (k = kind ∧ e.next = 0)
  | _ => false
/-- Send a telemetry record to one session; with the window full only the newest unsent record of its kind is kept. -/
def State.telemOne (s : State) (i kind domain count bytes : Nat) (data : List Nat) : State :=
  let x := (s.sess i).lane 2
  let dropped := fun (e : OutMsg) => decide (256 ≤ x.flight.length) && isTelem kind e
  let old := x.waiting.filter dropped
  let s1 := (s.modLane i 2 (fun x => { x with waiting := x.waiting.filter (fun e => !dropped e) })).modHost
    (fun h => { h with telemDrop := satAdd 16 h.telemDrop old.length })
  s1.post i 2 bytes (.telemetry i kind domain (bytes % 65536) s.cinch.committed.toNat count data)
/-- Send a telemetry record to every subscribed session. -/
def State.telemetry (s : State) (kind domain count bytes : Nat) (data : List Nat) : State :=
  (s.subscribers subTelem).foldl (fun s i => s.telemOne i kind domain count bytes data) s
/-- PHASE_CYC_p of a core (R254). -/
def Core.phaseCyc (k : Core) (mash p : Nat) : Nat :=
  k.phase.cyc.get 0 p + (if fld k.phase.ctl 0 4 = p then mash - k.phase.mark else 0)
/-- The STEP record (Table 15.9): step, epoch, outcome, loss scale, micro-batches flagged STASH_SPILL (the epochs that some core has
flagged, current or not, R247; log entry 98), bucket slot summaries (core, slot, deadline flag, EMPTY, CARRIED, LATE_DROP, CLOSE_AT)
and the phase counters of cores that have run a best-effort kernel since the last record, each core's with the clock domain of its
bay, 0x10 + k (R16, R255). -/
def State.telemStep (s : State) (outcome : Nat) : State :=
  let spills := (List.range 4).filter (fun e => allCores.any (fun c => ((s.core c).epoch e).spill))
  let slots := allCores.flatMap (fun c => (s.core c).bkt.slots.flatMap (fun e =>
    if e.2.state = 2 then
      [c, e.1, b2n e.2.byDeadline, b2n (e.2.sumCount false = 0 && e.2.sumCount true = 0), e.2.sumCount true,
       (s.core c).bkt.lateDrop, e.2.closeAt]
    else []))
  let phases := allCores.flatMap (fun c =>
    if (s.core c).phase.ran then c :: (16 + bayOf c) :: (List.range 16).map (fun p => (s.core c).phaseCyc (s.mashOf c) p) else [])
  let data := [s.cinch.committed.toNat, s.cinch.epoch.toNat, outcome, fld s.cinch.ls 0 8, spills.length] ++ spills ++
    [slots.length / 7] ++ slots ++ phases
  let t := s.telemetry 1 0 s.now (16 + 8 * data.length) data
  { t with cores := t.cores.map (fun e => (e.1, { e.2 with phase := { e.2.phase with ran := e.2.seq.kernel.isSome && e.2.phase.ran } })) }

end Sys2Proof.Machine
end

