-- ==== Sys2Proof/Machine/Flash.lean ====
section
/-! DEFINITION. The wear and state of the flash stacks (R443, R447). -/

namespace Sys2Proof.Machine

/-- FL_STAT_f.STATE: 0 OK, 1 WARN, 2 READ_ONLY, 3 FAILED (R447, R473). -/
def Flash.state (f : Flash) (i : Nat) : Nat := if f.railDown then 3 else f.st.get 0 i
/-- A stack is READ_ONLY or FAILED: checkpoint writes fail and pauses are refused (R447). -/
def Flash.stopped (f : Flash) : Bool := (List.range 4).any (fun i => 2 ≤ f.state i)
/-- WEAR of a stack in per mille of 14,600 TB, rounded down (R447); `written` counts bytes. -/
def Flash.wear (f : Flash) (i : Nat) : Nat := min 1000 (f.written.get 0 i * 1000 / 14600000000000000)
/-- A report about a flash stack. -/
def State.flashReport (s : State) (i : Nat) : Report := { s.pkgReport codeFlashStack with site := 92 + i, unit := i }
/-- Bytes that stack `i` takes of a write of `n` bytes, in stripes of 1 MiB over F0, F1, F2, F3 (R443). -/
def flashShare (n i : Nat) : Nat :=
  let q := n / 1048576
  (q / 4 + b2n (decide (i < q % 4))) * 1048576 + (if i = q % 4 then n % 1048576 else 0)
/-- Bytes are written to flash: WARN at 900 ‰, READ_ONLY and a report at 1,000 ‰ (R443, R447). -/
def State.flashWrite (s : State) (bytes : Nat) : State :=
  (List.range 4).foldl (fun s i =>
    let f := { s.flash with written := s.flash.written.set i (s.flash.written.get 0 i + flashShare bytes i) }
    let st := f.st.get 0 i
    let st2 := if st ≤ 1 then (if 1000 ≤ f.wear i then 2 else if 900 ≤ f.wear i then 1 else st) else st
    let s1 := { s with flash := { f with st := f.st.set i st2 } }
    if st ≤ 1 && st2 = 2 then s1.report (s1.flashReport i) else s1) s

end Sys2Proof.Machine
end

