-- ==== Sys2Proof/Machine/Sha3.lean ====
section
/-! DEFINITION. SHA3-512 of FIPS 202 over a byte list (R389, R391, R488, R497): the manual names the algorithm and does not
define it, so the text of FIPS 202 is taken (PRESUMED, log entry 7). -/

namespace Sys2Proof.Machine

/-- The 25 lanes of the sponge, lane x + 5y at index x + 5y. -/
abbrev Sponge := List Word

/-- Rotation left of a lane. -/
def rotl (v : Word) (n : Nat) : Word := v.rotateLeft (n % 64)
def laneAt (a : Sponge) (i : Nat) : Word := a.getD i 0
/-- Rotation amounts of ρ by lane index. -/
def rhoAmount : List Nat := [0, 1, 62, 28, 27, 36, 44, 6, 55, 20, 3, 10, 43, 25, 39, 41, 45, 15, 21, 8, 18, 2, 61, 56, 14]
/-- θ: every lane takes the parities of two columns. -/
def spongeTheta (a : Sponge) : Sponge :=
  let c := (List.range 5).map (fun x => laneAt a x ^^^ laneAt a (x + 5) ^^^ laneAt a (x + 10) ^^^ laneAt a (x + 15) ^^^ laneAt a (x + 20))
  let d := (List.range 5).map (fun x => laneAt c ((x + 4) % 5) ^^^ rotl (laneAt c ((x + 1) % 5)) 1)
  (List.range 25).map (fun i => laneAt a i ^^^ laneAt d (i % 5))
/-- ρ and π: the lane at (x, y) comes, rotated, from (x + 3y, x). -/
def spongeRhoPi (a : Sponge) : Sponge :=
  (List.range 25).map (fun i =>
    let x := i % 5
    let y := i / 5
    let j := (x + 3 * y) % 5 + 5 * x
    rotl (laneAt a j) (rhoAmount.getD j 0))
/-- χ along rows. -/
def spongeChi (a : Sponge) : Sponge :=
  (List.range 25).map (fun i =>
    let x := i % 5
    let r := 5 * (i / 5)
    laneAt a i ^^^ (~~~ (laneAt a (r + (x + 1) % 5)) &&& laneAt a (r + (x + 2) % 5)))
/-- Round constants of ι. -/
def roundConst : List Word :=
  [0x0000000000000001, 0x0000000000008082, 0x800000000000808A, 0x8000000080008000, 0x000000000000808B, 0x0000000080000001,
   0x8000000080008081, 0x8000000000008009, 0x000000000000008A, 0x0000000000000088, 0x0000000080008009, 0x000000008000000A] ++
  [0x000000008000808B, 0x800000000000008B, 0x8000000000008089, 0x8000000000008003, 0x8000000000008002, 0x8000000000000080,
   0x000000000000800A, 0x800000008000000A, 0x8000000080008081, 0x8000000000008080, 0x0000000080000001, 0x8000000080008008]
def spongeRound (a : Sponge) (rc : Word) : Sponge :=
  let b := spongeChi (spongeRhoPi (spongeTheta a))
  (laneAt b 0 ^^^ rc) :: b.drop 1
/-- The permutation of 24 rounds. -/
def keccak (a : Sponge) : Sponge := roundConst.foldl spongeRound a
/-- Eight bytes as a lane, least significant first. -/
def laneOf (bs : List Byte) : Word := BitVec.ofNat 64 (bs.foldr (fun b n => b.toNat + 256 * n) 0)
/-- Take one block of 72 bytes in. -/
def absorb (a : Sponge) (blk : List Byte) : Sponge :=
  keccak ((List.range 25).map (fun i => if i < 9 then laneAt a i ^^^ laneOf ((blk.drop (8 * i)).take 8) else laneAt a i))
def absorbAll : Nat → Sponge → List Byte → Sponge
  | 0, a, _ => a
  | n + 1, a, bs => absorbAll n (absorb a (bs.take 72)) (bs.drop 72)
/-- The padding of SHA-3 to whole blocks of 72 bytes. -/
def shaPad (m : List Byte) : List Byte :=
  let k := 72 - m.length % 72
  if k = 1 then m ++ [0x86] else m ++ [0x06] ++ List.replicate (k - 2) 0 ++ [0x80]
/-- SHA3-512: the first digest byte in bits 7 to 0. -/
def sha3 (m : List Byte) : BitVec 512 :=
  let p := shaPad m
  let a := absorbAll (p.length / 72) (List.replicate 25 0) p
  laneAt a 7 ++ laneAt a 6 ++ laneAt a 5 ++ laneAt a 4 ++ laneAt a 3 ++ laneAt a 2 ++ laneAt a 1 ++ laneAt a 0

end Sys2Proof.Machine
end

