-- ==== Sys2Proof/Machine/Cinch.lean ====
section
/-! DEFINITION. Cinch (chapter 9): the exact step norm, the decision, READY, mirrors, PREPARED and commit, RESOLVE; what a
commit and a RESOLVE touch in the checkpoint tiers (chapter 14) beside it. -/

namespace Sys2Proof.Machine

def State.modCinch (s : State) (f : Cinch → Cinch) : State := { s with cinch := f s.cinch }
def State.modCkpt (s : State) (f : Ckpt → Ckpt) : State := { s with ckpt := f s.ckpt }

/-! ## Registers and the group -/

def Cinch.clipE (x : Cinch) : Int := toSigned 16 (fld x.cfg 32 16)
def Cinch.lsExp (x : Cinch) : Int := toSigned 8 (fld x.ls 0 8)
def Cinch.lsMin (x : Cinch) : Int := toSigned 8 (fld x.ls 8 8)
def Cinch.lsMax (x : Cinch) : Int := toSigned 8 (fld x.ls 16 8)
def Cinch.lsGrow (x : Cinch) : Nat := fld x.ls 24 16
def Cinch.good (x : Cinch) : Nat := fld x.ls 40 16
/-- Core `c` is an owning core (CINCH_CORES). -/
def Cinch.lists (x : Cinch) (c : Nat) : Bool := c < 360 && bit (x.cores.get 0 (c / 64)) (c % 64)
def Cinch.listed (x : Cinch) : List Nat := allCores.filter x.lists
/-- Packages of the group; without a member table the package is alone. -/
def State.group (s : State) : List Nat := if s.cinch.members.isEmpty then [s.ownPkg] else s.cinch.members.map (·.pkg)
def State.others (s : State) : List Nat := s.group.filter (· ≠ s.ownPkg)
/-- The lowest-numbered member is the step leader (R384). -/
def State.leader (s : State) : Nat := s.group.foldl min (s.group.headD s.ownPkg)
def Cinch.member (x : Cinch) (pkg : Nat) : Option Member := x.members.find? (fun m => m.pkg = pkg)
/-- The partners of a package (Table 14.3): CINCH_CFG.PARTNERS of them, 0xFFFF for none. -/
def Member.partners (m : Member) (n : Nat) : List Nat :=
  ([m.partnerA, m.partnerB].take n).filter (fun p => p ≠ 0xFFFF && p ≠ m.pkg)
def State.partners (s : State) (pkg : Nat) : List Nat :=
  match s.cinch.member pkg with
  | some m => m.partners (fld s.cinch.cfg 48 2)
  | none => []
/-- Packages of a member table that this package serves as a partner (R266, R385). -/
def State.served (s : State) (table : List Member) : List Nat :=
  (table.filter (fun m => (m.partners (fld s.cinch.cfg 48 2)).contains s.ownPkg)).map (·.pkg)
/-- The step of the round. -/
def Cinch.round (x : Cinch) : Nat := x.committed.toNat + 1
/-- STEP and EPOCH of a message are those of the round. -/
def Cinch.current (x : Cinch) (step epoch : Nat) : Bool := step = x.round % 2 ^ 32 && epoch = x.epoch.toNat
/-- A message for another step or epoch is discarded and counted (R262, R270). -/
def Cinch.stale (x : Cinch) : Cinch := { x with staleMsg := satAdd 16 x.staleMsg 1 }
/-- A message of a Cinch to another package's Cinch, on VC0: an MSG packet that names the epoch. What its 256 bits hold beside the
content the row shows is not stated. A Saddle stopped by its lockstep sends nothing (R23, R262, R287, R460). -/
def State.toMember (s : State) (pkg : Nat) (o : Out) : State :=
  if s.safety.saddleStopped then s
  else
    let d := s.draw 256
    let t := d.2.sendCtl (s.header 2 0 pkg 0x1FF 0x1FF 0 0 s.cinch.epoch.toNat) (natBytes 32 d.1.toNat)
    if s.reaches pkg 0 then t.emit o else t
def State.toOthers (s : State) (o : Nat → Out) : State := s.others.foldl (fun s p => s.toMember p (o p)) s

/-! ## Mailbox messages (Table 9.5) -/

/-- Words of a Cinch payload: TYPE, STEP, EPOCH and the upper 128 bits. -/
def State.cinchPayload (s : State) (type upper : Nat) : BitVec 256 :=
  BitVec.ofNat 256 (type + s.cinch.round % 2 ^ 32 * 2 ^ 32 + s.cinch.epoch.toNat * 2 ^ 64 + upper * 2 ^ 128)
/-- Queue a message to a core, named by its CINCH_CORE.TC (R268); none from a Saddle stopped by its lockstep (R23, R460). -/
def State.toCore (s : State) (c : Nat) (payload : BitVec 256) : State :=
  if s.safety.saddleStopped then s
  else { s with mboxes := s.mboxes ++
      [{ core := c, payload := payload, tc := fld (s.core c).cinch 5 3, source := .cinch, retryAt := none }] }
def State.toListed (s : State) (p : Nat → BitVec 256) : State :=
  s.cinch.listed.foldl (fun s c => s.toCore c (p c)) s

/-! ## The norm (R260 to R262) -/

/-- Field DATA of a core-to-Cinch payload. -/
def msgData (p : BitVec 256) : Nat := fld p 128 128
/-- Value of a NORM part: V[127:0], V[255:128], or the signed top of V. -/
def partValue (p : BitVec 256) : Int :=
  match fld p 8 2 with
  | 0 => (msgData p : Int)
  | 1 => (msgData p : Int) * 2 ^ 128
  | _ => toSigned 64 (msgData p) * 2 ^ 256
/-- Add two norms exactly: value, count modulo 2^64, STATE by Table 5.4, TRUNC and NF by OR (R262). -/
def normPlus (x y : NormTotal) : NormTotal :=
  { v := x.v + y.v, count := (x.count + y.count) % 2 ^ 64, state := stMove x.state y.state, trunc := x.trunc || y.trunc,
    nf := x.nf || y.nf }
/-- A NORM part; COUNT is that of the image, taken with part 0. -/
def partTotal (p : BitVec 256) : NormTotal :=
  { v := partValue p, count := if fld p 8 2 = 0 then fld p 96 32 else 0, state := fld p 12 4, trunc := bit p 11, nf := bit p 10 }
/-- The conditions of R262 for discarding a NORM part of core `c`. -/
def Cinch.normBad (x : Cinch) (c : Nat) (p : BitVec 256) : Bool :=
  toSigned 16 (fld p 16 16) ≠ x.clipE || !x.lists c || !x.current (fld p 32 32) (fld p 64 32) || fld p 8 2 = 3 ||
    x.parts.contains (c * 4 + fld p 8 2)
/-- Every listed core has contributed its three parts. -/
def Cinch.ownDone (x : Cinch) : Bool :=
  x.listed.all (fun c => [0, 1, 2].all (fun k => x.parts.contains (c * 4 + k)))
/-- The head message of a core to a service endpoint leaves its outbound queue (R92). -/
def Core.popOut (k : Core) : Core := { k with seq := { k.seq with outbound := k.seq.outbound.drop 1 } }
/-- The head of the outbound queue, when it goes to SEL `sel`. -/
def Core.headOut (k : Core) (sel : Nat) : Option (BitVec 256) :=
  match k.seq.outbound with
  | (d, p) :: _ => if d = sel then some p else none
  | [] => none
/-- The head message of core `c` travels on FC0 to the site of its endpoint, which takes it (R40, R92). -/
def State.popMsg (s : State) (c site : Nat) : State :=
  (s.modCore c (·.popOut)).carried { src := dieOf c, dst := site, ep := 8, cls := 0, part := s.partOf c } 1
/-- CINCH_MSG, naming the core. -/
def State.cinchMsgFault (s : State) (c : Nat) : State :=
  s.report { s.pkgReport codeCinchMsg with site := dieOf c, unit := c % 6, core := c }
/-- NF of a part as it leaves the core (R261). -/
def Core.nfOut (k : Core) (p : BitVec 256) : BitVec 256 :=
  if fld k.fpflags 0 4 &&& fld k.cinch 1 4 = 0 then p else setFld p 10 1 1

/-! ## The step record (R388) -/

/-- Lines of a core that a step record keeps for its bucket slots: the slot blocks and the buffers of landed carried
contributions. -/
def Core.slotLines (k : Core) : List Nat :=
  k.bkt.slots.flatMap (fun e =>
    let x := e.2
    (List.range 5).map (fun i => x.line + i) ++
    (x.landings.zipIdx.filter (fun p => p.1.carried)).flatMap (fun p => (List.range x.bufLines).map (fun i => x.bufLine p.2 i)))
/-- Those lines and the deferred ring; no line of an enabled ring of soft targets, which belong to no tier (R2, R228). -/
def Core.recordLines (k : Core) : List Nat :=
  (k.slotLines ++ (List.range 16).map (fun i => fld k.dwq.ctl 0 17 + i)).filter (fun l => !k.guarded [] l)
/-- The step record of the package at its commit (Table 14.2). -/
def State.stepRec (s : State) : StepRec :=
  { step := s.cinch.committed.toNat
    epoch := s.cinch.epoch.toNat
    ls := s.cinch.ls
    sched := s.sched
    acct := s.glob.acct
    adapters := s.serve.map (fun e => (e.1, e.2.adapters))
    bkt := s.cores.map (fun e => (e.1, e.2.bkt))
    dwq := s.cores.map (fun e => (e.1, e.2.dwq))
    cask := s.cores.map (fun e => (e.1, e.2.cask))
    lines := s.cores.map (fun e => (e.1, e.2.sp.mem.filter (fun m => e.2.recordLines.contains (m.1 / 256))))
    taps := s.serve.flatMap (fun e => e.2.reqs.map (fun r => ((e.1, r.jrec.req.toNat), (r.jrec.seed, r.emitted, r.promptLeft))))
    cursor := s.hbm.read Config.cursorAddr 64
    launches := s.launches }
/-- A request takes the seed and the position that a record holds for it. -/
def StepRec.place (r : StepRec) (p : Nat) (q : Request) : Request :=
  match r.taps.find? (fun e => e.1 = (p, q.jrec.req.toNat)) with
  | some e => { q with jrec := { q.jrec with seed := e.2.1 }, emitted := e.2.2.1, promptLeft := e.2.2.2 }
  | none => q
/-- A landed carried contribution, which a record keeps; one still in flight is not recorded (R388). -/
def Landing.kept (l : Landing) : Bool := l.carried && l.whole
/-- A recorded slot re-armed at the new epoch: OPEN, with its landed carried contributions as landings 0, 1, … and its other
contributions forgotten (Table 14.2). -/
def BktSlot.rearm (x : BktSlot) (now epoch : Nat) : BktSlot :=
  { x with
    cfg := x.cfg.take 8 ++ natBytes 4 epoch ++ x.cfg.drop 12
    armedAt := now
    touchedAt := now
    state := 0
    byDeadline := false
    sourceLost := false
    closeAt := 0
    landings := x.landings.filter Landing.kept
    counted := ((x.landings.take x.counted).filter Landing.kept).length
    released := ((x.landings.take x.released).filter Landing.kept).length }
/-- The memory of a re-armed slot: each carried landing in the buffer of its new number with that number as its ARRIVAL, the slot
line with the new EPOCH and status, the current bitmap and the bits of contributions in flight clear (R298, R299, R304, R388). -/
def Core.rearmLines (k : Core) (key : Nat) (x : BktSlot) (now epoch : Nat) : Core :=
  let y := x.rearm now epoch
  let kept := (List.range x.landings.length).filter (fun i => ((x.landings[i]?).map Landing.kept).getD false)
  let bufs := kept.map (fun i => k.spRead (256 * x.bufLine i 0) (256 * x.bufLines))
  let k1 := bufs.zipIdx.foldl (fun (k : Core) e =>
    ((k.spWrite (256 * y.bufLine e.2 0) e.1).setLive ((List.range x.bufLines).map (y.bufLine e.2))).spWrite
      (256 * y.bufLine e.2 0 + 28) (natBytes 2 e.2)) k
  let k2 := (k1.spWrite (256 * x.line) y.cfg).spWrite (256 * (x.line + 1)) (List.replicate 512 0)
  let gone := x.landings.filter (fun l => l.carried && !l.kept)
  ((gone.foldl (fun (k : Core) l => k.bktBit y true l.src false) k2).settle now key y).1
/-- Replace the recorded lines of a scratchpad. -/
def mergeMem (m r : Memory) (lines : List Nat) : Memory :=
  (r.filter (fun c => lines.contains (c.1 / 256))).foldl (fun m c => memWrite m c.1 [c.2])
    (m.filter (fun c => !lines.contains (c.1 / 256)))
/-- The recorded slots and their lines come back to their cores, and with `all` the deferred queues and stash epochs. Headers held
meanwhile meet the newer epoch as their endpoints examine them again (R388). -/
def State.restoreSlots (s : State) (r : StepRec) (all : Bool) : State :=
  let cores := r.bkt.foldl (fun (cs : FMap Core) e =>
    let k := cs.get {} e.1
    let k1 := { k with
      bkt := { k.bkt with slots := e.2.slots, flows := [] }
      dwq := if all then r.dwq.get {} e.1 else k.dwq
      cask := if all then r.cask.get {} e.1 else k.cask }
    let k2 := { k1 with sp := { k1.sp with mem := mergeMem k.sp.mem (FMap.get [] r.lines e.1) (if all then k1.recordLines else k1.slotLines) } }
    cs.set e.1 ((e.2.slots.filter (fun x => x.2.armed)).foldl (fun k x => k.rearmLines x.1 x.2 s.now s.cinch.epoch.toNat) k2)) s.cores
  let t := { s with cores := cores }
  State.settle (4 * t.heldCount + 4 + t.cores.length) (t.cores.map (·.1)) t
/-- A launch record takes the seeds that a record holds for it. -/
def Launch.seeded (l : Launch) (r : KernelRec) : Launch :=
  if l.krec.kid = r.kid && l.krec.part = r.part then
    { l with krec := { l.krec with srSeed := r.srSeed, kSeed := r.kSeed, kStep := r.kStep } }
  else l
/-- A restore writes the recorded state back (R388). -/
def State.restoreRec (s : State) (r : StepRec) : State :=
  let t := s.restoreSlots r true
  { t with
    cinch := { t.cinch with committed := BitVec.ofNat 32 r.step, ls := r.ls }
    sched := r.sched.foldl (fun m e => m.set e.1 { (m.get {} e.1) with waiting := e.2.waiting, clients := e.2.clients }) t.sched
    glob := { t.glob with acct := r.acct }
    launches := r.launches.foldl (fun m e => match m.find? e.1 with | some l => m.set e.1 (l.seeded e.2.krec) | none => m) t.launches
    serve := (r.adapters.foldl (fun m e => m.set e.1 { (m.get {} e.1) with adapters := e.2.map (fun a => { a with pins := 0 }) })
      t.serve).map (fun e => (e.1, { e.2 with reqs := e.2.reqs.map (fun q => r.place e.1 q) }))
    hbm := t.hbm.write Config.cursorAddr r.cursor }

/-! ## Tier writes begun at a commit (R384, R386, R387, R429) -/

/-- Bytes of the package's part of a store generation: the 4 KiB block and the shard (R383, R429). -/
def State.shardBytes (s : State) : Nat := match s.cinch.member s.ownPkg with | some m => m.shardLen * 12 | none => 0
def State.ntgt (s : State) : Nat := fld s.host.storeCtl 41 6 + 1
/-- A byte field of the entry of a store target (R428). -/
def State.storeField (s : State) (t a n : Nat) : Nat := bytesNat (s.hbm.read (fld s.host.storeCtl 0 41 + 64 * t + a) n)
/-- An RDMA request to a store target: the entry's GID, QPN, RKEY and next hop, and the PSN that follows the queue pair's packets
(R428); the packets it takes at the target's PMTU (codes 3 to 5: 1,024 to 4,096 bytes). -/
def State.rdma (s : State) (t addr bytes : Nat) : Rdma × State :=
  let q := s.host.qps.get {} t
  let pmtu := 128 * 2 ^ s.storeField t 44 1
  ({ target := t, lqpn := 0x100 + t, pcp := fld s.host.qos 36 3, dscp := fld s.host.qos 39 6, gid := s.storeField t 0 16, qpn := s.storeField t 16 4 % 2 ^ 24, rkey := s.storeField t 40 4, mac := s.storeField t 48 6,
     psn := (s.storeField t 20 4 + q.psn) % 2 ^ 24, addr := addr, bytes := bytes },
   s.modHost (fun h => { h with qps := h.qps.set t { q with psn := q.psn + max 1 (cdiv bytes pmtu) } }))
/-- RoCEv2 requests that wait leave once their priority is not paused (R402, R408). -/
def State.rdmaGo (s : State) : State :=
  if s.now < s.host.pfc.get 0 (fld s.host.qos 36 3) then s
  else { s.modHost (fun h => { h with rdmaQ := [] }) with out := s.out ++ s.host.rdmaQ }
/-- A RoCEv2 request joins those that wait, and leaves with them (R402, R408). -/
def State.rdmaOut (s : State) (o : Out) : State := (s.modHost (fun h => { h with rdmaQ := h.rdmaQ ++ [o] })).rdmaGo
def State.rdmaWrite (s : State) (t addr bytes : Nat) : State := let r := s.rdma t addr bytes; r.2.rdmaOut (.storeWrite r.1)
def State.rdmaRead (s : State) (t addr bytes : Nat) : State := let r := s.rdma t addr bytes; r.2.rdmaOut (.storeRead r.1)
/-- The copy that is live, which every listed core of a package inverts at the same commits (R257, R267; log entry 94). -/
def State.liveCopy (s : State) : Bool := match s.cinch.listed with | c :: _ => bit (s.core c).cinch 0 | [] => false
/-- The package's shard in its live copy (R386). -/
def State.shardLive (s : State) : List Byte := s.hbm.read (Config.shardBase s.liveCopy) s.shardBytes
/-- Bytes of the shard written to the live copy and to the shadow copy (R396). -/
def State.shardPut (s : State) (off : Nat) (bs : List Byte) : State :=
  s.modHbm (fun h => (h.write (Config.shardBase false + off) bs).write (Config.shardBase true + off) bs)
/-- Byte of the package's shard at which a fill's elements begin. -/
def State.fillOff (s : State) : Nat :=
  match s.cinch.member s.ownPkg with | some m => 12 * (s.ckpt.fill.base - m.shardBase) | none => 0
/-- The BF16 weights of the package's elements, rebuilt from their master values in both copies (R259, R383, R396). -/
def State.rebuildWeights (s : State) : State :=
  match s.cinch.member s.ownPkg with
  | some m =>
    let shard := s.shardLive
    let w := (List.range m.shardLen).flatMap (fun i => natBytes 2 (narrowVal 1 false false (f32v (Config.masterOf shard i).toNat)).1)
    s.modHbm (fun h => (h.write (Config.weightBase false + 2 * m.shardBase) w).write (Config.weightBase true + 2 * m.shardBase) w)
  | none => s
/-- Store the offset of a stripe: target and address (R429). -/
def State.stripe (s : State) (half i : Nat) : Nat × Nat :=
  let t := i % s.ntgt
  (t, s.storeField t 24 8 + half * (s.storeField t 32 8 / 2) + i / s.ntgt * 1048576)
/-- The part fits in its half of every target (R429). -/
def State.storeFits (s : State) (n : Nat) : Bool :=
  (List.range (min n s.ntgt)).all (fun t => cdiv (n - t) s.ntgt * 1048576 ≤ s.storeField t 32 8 / 2)
/-- A failed tier write is counted and reported (R387). -/
def State.tierFail (s : State) (step : Nat) (store : Bool) : State :=
  let s1 := (s.modCkpt (fun k => { k with tierFail := satAdd 16 k.tierFail 1 }))
  let s2 := s1.report { s1.pkgReport codeTierWrite with detail := step }
  if s2.leader = s2.ownPkg then s2 else s2.toMember s2.leader (.tierReport s2.leader step store false)
/-- Stripes of 1 MiB of the package's part: the 4 KiB block followed by the shard (R429). -/
def State.storeStripes (s : State) : Nat := cdiv (4096 + s.shardBytes) 1048576
/-- Begin the store generation of a step: its stripes leave, or the part does not fit (R429). -/
def State.storeBegin (s : State) (step : Nat) : State :=
  let s0 := s.modHost (fun h => { h with gen := (h.gen + 1) % 2 ^ 32 })
  let n := s.storeStripes
  let half := if s.flash.latest then 1 - b2n s.flash.half else 0
  if s.storeFits n then
    ((List.range n).foldl (fun s i =>
      let bytes := min 1048576 (4096 + s.shardBytes - i * 1048576)
      (s.acctHost bytes).rdmaWrite (s.stripe half i).1 (s.stripe half i).2 bytes) s0).modCkpt (fun k => { k with writes := k.writes ++ [(step, true, n)] })
  else s0.tierFail step true
/-- At most the complete flash generation, the complete store generation and the one being written are held (R387). -/
def keepGens (gs : List Gen) : List Gen :=
  let top := fun (p : Gen → Bool) => (gs.filter p).foldl (fun n g => max n (g.step + 1)) 0
  gs.filter (fun g => !g.done || g.step + 1 = top (fun g => g.done) || g.step + 1 = top (fun g => g.done && g.store))
/-- Flash bytes that generations hold and the checkpoint region has (R387, R443, R444). -/
def State.genRoom (s : State) (gs : List Gen) : Bool :=
  decide ((gs.length + 1) * (s.shardBytes + 4096) ≤ fld s.flash.cfg 0 13 * 1000000000)
/-- Begin the tier writes of the step just committed. -/
def State.tierBegin (s : State) (flash store : Bool) : State :=
  let n := s.cinch.committed.toNat
  let every := max 1 (fld s.ckpt.ctl 0 8)
  let partner := n % every = 0 && !(s.partners s.ownPkg).isEmpty
  let r := s.stepRec
  let s1 := { s with lastRec := some r }
  let s2 := if partner || flash || store then s1.modCkpt (fun k => { k with reads := k.reads ++ [n] }) else s1
  let kept := keepGens (s2.gens.filter (·.done))
  let s3 := if !(flash || store) then s2
    else if s2.genRoom kept then
      let d := s2.shardLive
      { s2 with
        gens := kept ++ [{ step := n, done := false, store := false, digest := sha3 (d ++ stepRecBytes r), srec := r, shard := d }]
        ckpt := { s2.ckpt with writes := s2.ckpt.writes ++ [(n, false, 0)] } }
    else { s2 with gens := kept }.tierFail n false
  if store then s3.storeBegin n else s3

/-! ## Publication and commit (R265 to R269) -/

/-- FAB_SHARE and FAB_WEIGHT pending come into force between two steps (R526). -/
def State.fabApply (s : State) : State :=
  if s.glob.fabPending then
    s.modGlob (fun g => { g with fabCur := g.fabShare, fabCurW := g.fabWeight, fabPending := false })
  else s
/-- The round is over: what it gathered is forgotten, but not the mirrors held. -/
def Cinch.clear (x : Cinch) : Cinch :=
  { x with
    state := .idle, own := ⟨0, 0, 0, false, false⟩, total := ⟨0, 0, 0, false, false⟩, parts := [], totals := [],
    decision := none, ready := [], nfUpd := false, nfCore := 0xFFFF, mirrorIn := [], mirrorHeld := [], preparedBy := [],
    groupNf := false }
/-- LS after a commit (R264, R269). -/
def Cinch.lsCommit (x : Cinch) (update nf : Bool) : Word :=
  if nf then x.ls
  else
    let good := if update then (if x.lsGrow ≤ x.good + 1 then 0 else x.good + 1) else 0
    setFld (setFld x.ls 0 8 x.nextLs.toNat) 40 16 good
/-- STEP_COMMIT: COMMITTED_STEP, the loss scale, LIVE, COMMIT messages, and the tiers (R267 to R269). -/
def State.commit (s : State) : State :=
  let x := s.cinch
  let update := x.decision = some true
  let nf := x.nfUpd || x.groupNf
  let flip := update && !nf
  let s1 := if flip then x.listed.foldl (fun s c => s.modCore c (fun k => { k with cinch := k.cinch ^^^ 1 })) s else s
  let s2 := s1.toListed (fun c => s1.cinchPayload 0x82 (b2n (bit (s1.core c).cinch 0) * 2 ^ 81))
  let s3 := s2.modCinch (fun y => { y with
    committed := y.committed + 1
    ls := x.lsCommit update nf
    last := some { update := update, nf := nf, normsq := x.normsq, gscale := x.gscale, nextLs := x.nextLs }
    skips := if flip then y.skips else satAdd 16 y.skips 1
    updateNf := if x.nfUpd then satAdd 16 y.updateNf 1 else y.updateNf })
  let s4 := if x.nfUpd then
      s3.report { s3.pkgReport codeUpdateNonfinite with
        site := if x.nfCore < 360 then dieOf x.nfCore else 0x7F, core := x.nfCore, step := s3.cinch.committed.toNat }
    else s3
  let s5 := ((if s4.glob.fabIdle then s4 else s4.fabApply).telemStep (if nf then 2 else if update then 0 else 1)).tierBegin s4.ckpt.markFlash s4.ckpt.markStore
  (s5.modCinch (·.clear)).modCkpt (fun k => { k with markFlash := false, markStore := false })
/-- With PREPARED from every member the step commits (R267). -/
def State.tryCommit (s : State) : State :=
  if s.cinch.state = .prepared && s.group.all (fun p => s.cinch.preparedBy.contains p) then s.commit else s
/-- The leader's marks as it sends PREPARED (R384). -/
def State.mark (s : State) : State :=
  if s.leader = s.ownPkg then
    let store := s.ckpt.lastStore + fld s.ckpt.ctl 24 16 * 1000000000 ≤ s.now
    let flash := store || s.ckpt.lastFlash + fld s.ckpt.ctl 8 16 * 1000000000 ≤ s.now
    s.modCkpt (fun k => { k with
      markStore := store
      markFlash := flash
      lastStore := if store then s.now else k.lastStore
      lastFlash := if flash then s.now else k.lastFlash })
  else s
/-- PREPARED goes to the group, with the leader's marks, once every listed core is ready and every partner holds the mirror (R267,
R384). An owner that rebuilds a step the group has committed commits it alone (R271; log entry 95). -/
def State.tryPrepare (s : State) : State :=
  let x := s.cinch
  let ready := x.state = .decided && x.listed.all (fun c => x.ready.contains c)
  if ready && s.ckpt.rebuild.isSome then (s.modCkpt (fun k => { k with rebuild := none })).commit
  else if ready && (s.partners s.ownPkg).all (fun p => x.mirrorHeld.contains p) then
    let s1 := s.mark.modCinch (fun x => { x with state := .prepared, preparedBy := x.preparedBy ++ [s.ownPkg], roundAt := s.now })
    let lead := s.leader = s.ownPkg
    (s1.toOthers (fun p => .cinchMsg p 3 x.round x.nfUpd (lead && s1.ckpt.markFlash) (lead && s1.ckpt.markStore))).tryCommit
  else s
/-! ## The decision (R263, R264, R386) -/

/-- 2^(−LS_EXP) as FP32. -/
def Cinch.unscale (x : Cinch) : Nat := (f32 (.fin false 1 (-x.lsExp))).1
/-- The value of the sum: its exact value, or that of a STATE that is not FINITE (R183, R263). -/
def Cinch.normVal (x : Cinch) : XVal :=
  match x.total.state with | 0 => .ofDy x.total.v x.clipE | 1 => .inf false | 2 => .inf true | _ => .nan
/-- GSCALE of an UPDATE; rsqrt is the unit of R178, which takes a subnormal operand as zero. -/
def Cinch.gscaleOf (x : Cinch) (normsq : Nat) : Nat :=
  let maxnorm := f32v (fld x.cfg 0 32)
  let cut := f32v (f32 (maxnorm.mul (transRsqrt (flushSub normsq) (Config.rsqrtUp (BitVec.ofNat 32 (flushSub normsq)))).1)).1
  if (f32v normsq).isZero || (maxnorm.isInf && !maxnorm.isNeg) then x.unscale else (f32 (xmin (f32v x.unscale) cut)).1
/-- NEXT_LS_EXP, as the commit of the decision would set it (R264). -/
def Cinch.nextExp (x : Cinch) (update : Bool) : Int :=
  if !update then max x.lsMin (x.lsExp - 1)
  else if x.lsGrow ≤ x.good + 1 then min x.lsMax (x.lsExp + 1)
  else x.lsExp
/-- A decision is taken here, and every listed core is told by DECIDE (R263, Table 9.5). -/
def State.decideAs (s : State) (update : Bool) (normsq gscale : BitVec 32) (next : BitVec 8) : State :=
  let s1 := s.modCinch (fun x => { x with
    state := .decided
    decision := some update
    normsq := normsq
    gscale := gscale
    nextLs := next
    roundAt := s.now })
  let upper := gscale.toNat + normsq.toNat * 2 ^ 32 + fld s.cinch.ls 0 8 * 2 ^ 64 + next.toNat * 2 ^ 72 + b2n (!update) * 2 ^ 80
  s1.toListed (fun _ => s1.cinchPayload 0x81 upper)
/-- The step is decided from the group's sum (R263). -/
def State.decideStep (s : State) : State :=
  let x := s.cinch
  let nsq := (f32 x.normVal).1
  let update := !x.total.nf && x.total.state = 0 && !(f32v nsq).isInf
  s.decideAs update (BitVec.ofNat 32 nsq) (BitVec.ofNat 32 (if update then x.gscaleOf nsq else 0))
    (BitVec.ofNat 8 (ofSigned 8 (x.nextExp update)))
/-- Some tier read of step n − 2 or earlier has not finished (R386). -/
def State.tierWaits (s : State) : Bool := s.ckpt.reads.any (fun r => r + 2 ≤ s.cinch.round)
/-- Own parts are complete: the total goes to every other member; with every member's total in, the step is decided, or the
decision waits for tier reads (R262, R263, R386). -/
def State.tryDecide (s : State) : State :=
  let x := s.cinch
  if x.state = .collect && x.ownDone then
    let s1 := if x.totals.contains s.ownPkg then s
      else (s.modCinch (fun x => { x with
        totals := x.totals ++ [s.ownPkg]
        total := normPlus x.total x.own
        roundAt := s.now })).toOthers (fun p => .cinchTotal p x.round x.own)
    if s1.group.all (fun p => s1.cinch.totals.contains p) then
      if s1.tierWaits then
        if s1.ckpt.waiting then s1 else s1.modCkpt (fun k => { k with waiting := true, stalls := satAdd 16 k.stalls 1 })
      else (s1.modCkpt (fun k => { k with waiting := false })).decideStep.tryPrepare
    else s1
  else s
/-- A NORM part at Cinch (R262). -/
def State.normIn (s : State) (c : Nat) (p : BitVec 256) : State :=
  if s.cinch.normBad c p then (s.modCinch (·.stale)).cinchMsgFault c
  else if s.cinch.state = .resolve then s.modCinch (·.stale)
  else
    (s.modCinch (fun x => { x with
      state := if x.state = .idle then .collect else x.state
      roundAt := if x.state = .idle then s.now else x.roundAt
      parts := x.parts ++ [c * 4 + fld p 8 2]
      own := normPlus x.own (partTotal p) })).tryDecide
/-- Take the head message of core `c` to Cinch, when its TYPE is the one the row names; a reserved TYPE is discarded. -/
def State.cinchTake (s : State) (c type : Nat) (f : State → BitVec 256 → State) : State :=
  match (s.core c).headOut 0 with
  | some p =>
    if fld p 0 8 = type then f (s.popMsg c 96) p
    else if 1 ≤ fld p 0 8 && fld p 0 8 ≤ 3 then s
    else (s.popMsg c 96).cinchMsgFault c
  | none => s
/-- NORM: a NORM part leaves its core with its NF vote and reaches Cinch (R261, R262). -/
def execNorm (c : CoreId) (s : State) : Host.Outcome State Fault Refusal :=
  .next (s.cinchTake c.val 1 (fun t p => t.normIn c.val ((s.core c.val).nfOut p)))
/-- CINCH_TOTAL_EXCHANGE: another member's package total (R262). -/
def execCinchTotalExchange (pkg : BitVec 12) (step epoch : BitVec 32) (tot : NormTotal) (s : State) : Host.Outcome State Fault Refusal :=
  let x := s.cinch
  .next (
    if !x.current step.toNat epoch.toNat || x.state = .resolve then s.modCinch (·.stale)
    else if s.others.contains pkg.toNat && !x.totals.contains pkg.toNat then
      (s.modCinch (fun x => { x with
        state := if x.state = .idle then .collect else x.state
        roundAt := if x.state = .idle then s.now else x.roundAt
        totals := x.totals ++ [pkg.toNat]
        total := normPlus x.total tot })).tryDecide
    else s)

/-! ## READY, mirrors and PREPARED (R265 to R267) -/

/-- READY: an owning core's shadow is complete (R265). -/
def execReady (c : CoreId) (s : State) : Host.Outcome State Fault Refusal :=
  .next (s.cinchTake c.val 2 (fun t p =>
    if !t.cinch.current (fld p 32 32) (fld p 64 32) || t.cinch.state = .resolve then t.modCinch (·.stale)
    else if t.cinch.lists c.val then
      (t.modCinch (fun x => { x with
        ready := insertSet c.val x.ready
        nfCore := if bit p 128 && !x.nfUpd then c.val else x.nfCore
        nfUpd := x.nfUpd || bit p 128 })).tryPrepare
    else t))
/-- MIRROR_IN: a mirror receiver has package p's mirror; with all of them Cinch sends MIRROR_HELD to p (R266). -/
def execMirrorIn (c : CoreId) (s : State) : Host.Outcome State Fault Refusal :=
  .next (s.cinchTake c.val 3 (fun t p =>
    let pkg := fld p 128 12
    if !t.cinch.current (fld p 32 32) (fld p 64 32) || t.cinch.state = .resolve then t.modCinch (·.stale)
    else
      let l := if t.cinch.mirrorIn.contains (c.val, pkg) then t.cinch.mirrorIn else t.cinch.mirrorIn ++ [(c.val, pkg)]
      let t1 := t.modCinch (fun x => { x with mirrorIn := l })
      if allCores.all (fun d => !Config.mirrorReceiver pkg d || l.contains (d, pkg)) then
        (t1.modCinch (fun x => { x with mirrors := if x.mirrors.contains (pkg, x.round) then x.mirrors
          else x.mirrors ++ [(pkg, x.round)] })).toMember pkg (.cinchMsg pkg 2 t.cinch.round false false false)
      else t1))
/-- MIRROR_HELD: a partner holds this package's mirror (R266). -/
def execMirrorHeld (pkg : BitVec 12) (step epoch : BitVec 32) (s : State) : Host.Outcome State Fault Refusal :=
  .next (
    if !s.cinch.current step.toNat epoch.toNat || s.cinch.state = .resolve then s.modCinch (·.stale)
    else (s.modCinch (fun x => { x with mirrorHeld := insertSet pkg.toNat x.mirrorHeld })).tryPrepare)
/-- PREPARED: a member is prepared; its NF_UPD and, from the leader, its marks (R267, R269, R384). -/
def execPrepared (pkg : BitVec 12) (step epoch : BitVec 32) (nfUpd flash store : Bool) (s : State) : Host.Outcome State Fault Refusal :=
  .next (
    if !s.cinch.current step.toNat epoch.toNat || s.cinch.state = .resolve then s.modCinch (·.stale)
    else if s.others.contains pkg.toNat then
      let s1 := s.modCinch (fun x => { x with preparedBy := insertSet pkg.toNat x.preparedBy, groupNf := x.groupNf || nfUpd })
      let s2 := if pkg.toNat = s.leader then
          s1.modCkpt (fun k => { k with
            markStore := store
            markFlash := flash || store
            lastStore := if store then s.now else k.lastStore
            lastFlash := if flash || store then s.now else k.lastFlash }) else s1
      s2.tryCommit
    else s)

/-! ## RESOLVE (R270, R293, R397) -/

/-- Cinch stops the round and reports the member and the step (R270). -/
def State.resolve (s : State) (pkg : Nat) : State :=
  let s1 := s.modCinch (fun x => { x with state := .resolve, roundAt := s.now })
  let s2 := s1.modCkpt (fun k => { k with lost := insertSet pkg k.lost, waiting := false })
  s2.report { s2.pkgReport codeMemberLost with detail := pkg, step := s.cinch.round }
/-- A member owes a message for the current round (R270). -/
def State.owes (s : State) (pkg : Nat) : Bool :=
  let x := s.cinch
  s.others.contains pkg &&
  (match x.state with
   | .collect => x.ownDone && !x.totals.contains pkg
   | .decided => s.ckpt.rebuild.isNone && (s.partners s.ownPkg).contains pkg && !x.mirrorHeld.contains pkg
   | .prepared => !x.preparedBy.contains pkg
   | _ => false)
/-- ROUND_TIMEOUT (R270). -/
def execRoundTimeout (pkg : BitVec 12) (s : State) : Host.Outcome State Fault Refusal :=
  .next (if s.owes pkg.toNat && s.cinch.roundAt + s.cinch.tmo.toNat ≤ s.now then s.resolve pkg.toNat else s)

/-- A package whose shard moves in a fill: its number of 64 MiB chunks (R396). -/
def chunkCount (elems : Nat) : Nat := cdiv (elems * 12) 67108864
/-- The stripes of the half that holds the latest store generation are read (R429). -/
def State.storeReads (s : State) : State :=
  (List.range s.storeStripes).foldl (fun s i =>
    s.rdmaRead (s.stripe (b2n s.flash.half) i).1 (s.stripe (b2n s.flash.half) i).2
      (min 1048576 (4096 + s.shardBytes - i * 1048576)))
    ((s.modHost (fun h => { h with restoreBytes := 0 })).modCkpt (fun k => { k with block := [] }))
/-- A change of source is counted and reported (R397). -/
def State.fillMoved (s : State) (old : Nat) : State :=
  let s1 := s.modCkpt (fun k => { k with fill := { k.fill with switches := satAdd 15 k.fill.switches 1, chunkAt := s.now } })
  s1.report { s1.pkgReport codeFillSourceLost with detail := old }
/-- The fill turns to the store, at the target of a roll-back. Its position is kept: with a new target the chunks that remain come
first and then those below it, with the same target the chunks that hold it are not fetched again (R397 to R399). -/
def State.fillToStore (s : State) (target : Nat) : State :=
  let f := s.ckpt.fill
  let same := f.target.toNat = target
  let s1 := s.modCkpt (fun k => { k with fill := { f with
    state := 3
    fromStore := true
    target := BitVec.ofNat 32 target
    redo := if same then f.redo else (f.redo + f.done) % max 1 f.total
    done := if same then f.done else 0
    chunkAt := s.now } })
  if f.state = 3 then (if same then s1 else s1.storeReads) else (s1.fillMoved f.source).storeReads
/-- The fill changes source: the other partner when it is live, else the store; a source that failed is not asked again (R397,
Table 14.5). -/
def State.fillSwitch (s : State) : State :=
  let f := s.ckpt.fill
  let a := if f.state = 1 then 0xFFFF else f.partnerA
  let b := if f.state = 2 then 0xFFFF else f.partnerB
  let other := if f.state = 1 then b else a
  let s1 := s.modCkpt (fun k => { k with fill := { f with partnerA := a, partnerB := b } })
  if other ≠ 0xFFFF && !s.ckpt.lost.contains other then
    (s1.modCkpt (fun k => { k with fill := { k.fill with state := 3 - f.state, source := other } })).fillMoved f.source
  else s1.fillToStore s.ckpt.storeStep.toNat
/-- The fill reads from a package: state SOURCE_A or SOURCE_B. -/
def Fill.fromPkg (f : Fill) (pkg : Nat) : Bool := (f.state = 1 || f.state = 2) && f.source = pkg
/-- What a link-failure notice does at Cinch, at the bucket endpoints and to a fill (R270, R293, R307, R397). -/
def State.pkgLost (s : State) (pkg : Nat) : State :=
  let s1 := if s.others.contains pkg then s.resolve pkg else s.modCkpt (fun k => { k with lost := insertSet pkg k.lost })
  let s2 := s1.bktSourceLost pkg
  if s2.ckpt.fill.fromPkg pkg then s2.fillSwitch else s2
/-- LINK_FAILURE_NOTICE: the notice that a link die sent when its port went DOWN reaches Cinch (R270, R293). -/
def execLinkFailureNotice (pkg : BitVec 12) (s : State) : Host.Outcome State Fault Refusal :=
  .next (if s.links.notices.contains pkg.toNat then
      (s.modLinks (fun l => { l with notices := l.notices.erase pkg.toNat })).pkgLost pkg.toNat
    else s)
/-- MSG_PACKET: a Cinch message packet arrives over a port: a bad PCRC is handled by the link layer, a message of an older epoch is
discarded and counted; its content takes effect with the row that names it (R270, R280, R287). -/
def execMsgPacket (k : PacketAt) (payload : BitVec 256) (s : State) : Host.Outcome State Fault Refusal :=
  .next (s.deliver k.port.val k.pkt (natBytes 32 payload.toNat) (fun s =>
    if k.pkt.epoch.toNat < s.cinch.epoch.toNat then s.modCinch (·.stale) else s))

end Sys2Proof.Machine
end

