-- ==== Sys2Proof/Machine/Survive.lean ====
section
/-! DEFINITION. Surviving failure (chapter 14): checkpoint tiers, the new epoch and its digests, the outcome of an interrupted
step, fills and restores. -/

namespace Sys2Proof.Machine

/-! ## Tiers (R384 to R387) -/

/-- TIER_READ_DONE: every tier read of a step has finished; a decision that waited goes on (R386). -/
def execTierReadDone (step : BitVec 32) (s : State) : Host.Outcome State Fault Refusal :=
  .next (
    if s.ckpt.reads.contains step.toNat then
      let partner := step.toNat % max 1 (fld s.ckpt.ctl 0 8) = 0 && !(s.partners s.ownPkg).isEmpty
      (s.modCkpt (fun k => { k with
        reads := k.reads.filter (· ≠ step.toNat)
        partnerStep := if partner then step else k.partnerStep })).tryDecide
    else s)
/-- A generation is complete on every member: the announcement of the flash part, or of the store part (R387, R429). -/
def State.tierDone (s : State) (step : Nat) (store : Bool) : State :=
  let gs := s.gens.map (fun g => if g.step = step then { g with done := g.done || !store, store := g.store || store } else g)
  let s1 := { s with gens := keepGens gs }
  if store then
    let s2 := s1.modCkpt (fun k => { k with storeStep := BitVec.ofNat 32 step })
    { s2 with
      flash := { s2.flash with half := s2.flash.latest && !s2.flash.half, latest := true }
      storeRec := match gs.find? (fun g => g.step = step) with
        | some g => some g.srec
        | none => match s2.lastRec with | some r => if r.step = step then some r else s2.storeRec | none => s2.storeRec }
  else s1.modCkpt (fun k => { k with flashStep := BitVec.ofNat 32 step })
/-- A member's report at the leader: with every member's part written the generation is announced as complete (R387). -/
def State.partIn (s : State) (pkg step : Nat) (store ok : Bool) : State :=
  if !ok || s.leader ≠ s.ownPkg || s.ckpt.parts.contains (pkg, step, store) then s
  else
    let s1 := s.modCkpt (fun k => { k with parts := k.parts ++ [(pkg, step, store)] })
    if s1.group.all (fun p => s1.ckpt.parts.contains (p, step, store)) then
      ((s1.modCkpt (fun k => { k with parts := k.parts.filter (fun e => e.2 ≠ (step, store)) })).toOthers
        (fun p => .tierDone p step store)).tierDone step store
    else s1
/-- The package's own part of a generation is written: it is reported to the leader (R387). -/
def State.ownPart (s : State) (step : Nat) (store : Bool) : State :=
  if s.leader = s.ownPkg then s.partIn s.ownPkg step store true
  else s.toMember s.leader (.tierReport s.leader step store true)
/-- TIER_PART_WRITTEN (R387). -/
def execTierPartWritten (pkg : BitVec 12) (step : BitVec 32) (store ok : Bool) (s : State) : Host.Outcome State Fault Refusal :=
  .next (if s.group.contains pkg.toNat then s.partIn pkg.toNat step.toNat store ok else s)
/-- TIER_COMPLETE: the leader's announcement (R387). -/
def execTierComplete (step : BitVec 32) (store : Bool) (s : State) : Host.Outcome State Fault Refusal :=
  .next (s.tierDone step.toNat store)

/-! ## The new epoch (R391) -/

/-- One entry of the member table (Table 14.3); none when it is malformed. -/
def memberOf (many : Bool) (bs : List Byte) : Option Member :=
  let f := fun (a n : Nat) => bytesNat ((bs.drop a).take n)
  let pkgOk := fun (p : Nat) => decide (p < 4096)
  if pkgOk (f 0 2) && f 2 2 < 2 && pkgOk (f 4 2) && (if many then pkgOk (f 6 2) else f 6 2 = 0xFFFF) && f 24 8 = 0 then
    some { pkg := f 0 2, spare := f 2 2 = 1, partnerA := f 4 2, partnerB := f 6 2, shardBase := f 8 8, shardLen := f 16 8 }
  else none
def membersOf (many : Bool) : Nat → List Byte → Option (List Member)
  | 0, _ => some []
  | n + 1, bs =>
    match memberOf many (bs.take 32), membersOf many n (bs.drop 32) with
    | some m, some l => some (m :: l)
    | _, _ => none
def ascending : List Nat → Bool
  | a :: b :: l => decide (a < b) && ascending (b :: l)
  | _ => true
/-- Every element from 0 to the end of the last range is owned once. -/
def shardsOk : Nat → Nat → List Member → Bool
  | 0, _, l => l.isEmpty
  | n + 1, a, l =>
    match l.find? (fun m => m.shardBase = a) with
    | some m => shardsOk n (a + m.shardLen) (l.filter (fun x => x.pkg ≠ m.pkg))
    | none => l.isEmpty
/-- The member table of an epoch as loaded. -/
structure TableIn where
  members : List Member
  digest : Word
  deriving DecidableEq, Repr
/-- The table that bytes spell; none when it is malformed or shares an element out twice or not at all (R391, Table 14.3). -/
def tableOf (epoch : Nat) (bs : List Byte) : Option TableIn :=
  let n := bytesNat ((bs.drop 2).take 2)
  if bytesNat (bs.take 2) = epoch && 1 ≤ n && n ≤ 4096 && ((bs.take 32).drop 4).all (· = 0) then
    match membersOf (256 ≤ n) n (bs.drop 32) with
    | some l =>
      if ascending (l.map (·.pkg)) && shardsOk n 0 (l.filter (fun m => 0 < m.shardLen)) then
        some { members := l, digest := (sha3 bs).setWidth 64 }
      else none
    | none => none
  else none
/-- N1 reads the table at EPOCH_ADDR; an address that is not a multiple of 64 and bytes that cannot be read hold no table (R391,
R433, R440). -/
def State.readTable (s : State) (epoch : Nat) : State × Option TableIn :=
  let a := s.ckpt.epochAddr
  if a % 64 ≠ 0 then (s, none)
  else
    let r := s.sysRead s.pkgReport a 32
    match r.2 with
    | none => (r.1, none)
    | some h =>
      let q := r.1.sysRead r.1.pkgReport a (32 + 32 * bytesNat ((h.drop 2).take 2))
      (q.1, q.2.bind (tableOf epoch))
/-- The code of EPOCH_ST.ERR for a load (R391). -/
def State.epochError (s : State) (epoch : Nat) (t : Option TableIn) : Nat :=
  if epoch ≤ s.cinch.epoch.toNat then 1
  else
    match t with
    | none => 2
    | some t => if t.members.any (fun m => m.pkg = s.ownPkg) then 0 else 3
/-- This package is a spare to be filled. -/
def Cinch.isSpare (x : Cinch) (own : Nat) : Bool := match x.member own with | some m => m.spare | none => false
/-! ## The outcome of the interrupted step (R271, R392) -/

/-- Packages lost: old members reported lost, or absent from the new table, or replaced by a spare. -/
def State.lostPkgs (s : State) : List Nat :=
  (s.cinch.oldMembers.map (·.pkg)).filter (fun p =>
    match s.cinch.member p with
    | some m => m.spare
    | none => true)
/-- A slot of a class D bucket: EXP, SCALE or DATA_D (R310 to R312). -/
def BktSlot.classD (x : BktSlot) : Bool := x.kind ≤ 2
/-- The class D slots of step `n` have closed: none of that step is open or closing, and one has closed or is armed again for a
later step. -/
def State.slotsDone (s : State) (n : Nat) : Bool :=
  allCores.all (fun c => (s.core c).bkt.slots.all (fun e => !e.2.classD || e.2.step ≠ n || e.2.state = 2)) &&
  allCores.any (fun c => (s.core c).bkt.slots.any (fun e => e.2.classD && n ≤ e.2.step))
/-- This package's view of the interrupted step. -/
def State.ownView (s : State) : StepView :=
  let x := s.cinch
  let own := x.oldMembers.find? (fun m => m.pkg = s.ownPkg)
  { pkg := s.ownPkg
    committed := x.committed.toNat
    slotsClosed := x.listed.isEmpty || s.slotsDone x.round
    mirrors := (x.mirrors.filter (fun e => e.2 = x.round)).map (·.1)
    partner := (s.served x.oldMembers).filter (fun p => (s.ckpt.partnerGens.get {} p).complete = some x.committed.toNat)
    last := x.last
    lost := s.lostPkgs
    store := s.ckpt.storeStep.toNat
    base := match own with | some m => m.shardBase | none => 0
    len := match own with | some m => m.shardLen | none => 0 }
/-- Members that were there before and survive. -/
def State.survivors (s : State) : List Nat := (s.cinch.members.filter (fun m => !m.spare)).map (·.pkg)
/-- The packages lost, by the union of the views: a spare, which has no table of the epoch before, learns them there (R392). -/
def State.lostAll (s : State) : List Nat := s.ckpt.views.foldl (fun l v => v.lost.foldl (fun l p => insertSet p l) l) s.lostPkgs
/-- The row of Table 14.4 for the lost packages and the views of all survivors, taken together. -/
def outcomeRow (lost : List Nat) (vs : List StepView) : Nat :=
  let lo := vs.foldl (fun n v => min n v.committed) ((vs.map (·.committed)).headD 0)
  if vs.any (fun v => lo < v.committed) then 1
  else if vs.all (·.slotsClosed) && lost.all (fun p => vs.any (fun v => v.mirrors.contains p)) then 2
  else if lost.all (fun p => vs.any (fun v => v.partner.contains p)) then 3
  else 4
/-- Abort step n: ABORT to every listed core, LIVE as it was. Where its update alone is done again, mirrors that surviving
partners hold stay valid, those of a lost shard for its new owner; where it runs again from its forward pass they go (R271,
Table 14.4). A spare has no part in the step itself. -/
def State.abort (s : State) (mirrors : Bool) : State :=
  if s.cinch.isSpare s.ownPkg then
    s.modCinch (fun x => { x.clear with
      mirrorHeld := if mirrors then (s.partners s.ownPkg).filter (fun p =>
        s.ckpt.views.any (fun v => v.pkg = p && v.mirrors.contains s.ownPkg)) else [] })
  else
    let kept := fun (p : Nat) => mirrors && (s.partners s.ownPkg).contains p && !s.lostAll.contains p
    (s.toListed (fun _ => s.cinchPayload 0x83 0)).modCinch (fun x => { x.clear with
      aborts := satAdd 16 x.aborts 1
      mirrorIn := if mirrors then x.mirrorIn else []
      mirrorHeld := x.mirrorHeld.filter kept
      mirrors := x.mirrors.filter (fun e => mirrors || e.2 ≠ x.round) })
/-- Row 1: the step that some survivor has committed is committed here too, with the decision that survivor has applied. The owner of
a lost shard rebuilds it, with that decision, once the shard of the step before has been filled (R271). -/
def State.commitHere (s : State) (n : Nat) : State :=
  let v := (s.ckpt.views.find? (fun v => v.committed = n)).bind (·.last)
  if s.cinch.isSpare s.ownPkg then (s.modCinch (·.clear)).modCkpt (fun k => { k with rebuild := v.map (fun v => (n, v)) })
  else if n ≤ s.cinch.committed.toNat then s.modCinch (·.clear)
  else
    match v with
    | some v =>
      (s.modCinch (fun x => { x with
        decision := some v.update
        groupNf := v.nf
        normsq := v.normsq
        gscale := v.gscale
        nextLs := v.nextLs })).commit
    | none => s.modCinch (fun x => { x.clear with committed := BitVec.ofNat 32 n })
/-- Carries and the data cursor of the last commit's record, re-armed at the new epoch (Table 14.4 row 3). -/
def State.restoreCarries (s : State) : State :=
  match s.lastRec with
  | some r => (s.restoreSlots r false).modHbm (fun h => h.write Config.cursorAddr r.cursor)
  | none => s

/-! ## Fills and restores (R393 to R399) -/

/-- The elements that two ranges (first element, length) share, and those of the first outside the second. -/
def rangeMeet (a b : Nat × Nat) : Option (Nat × Nat) :=
  let lo := max a.1 b.1
  let hi := min (a.1 + a.2) (b.1 + b.2)
  if lo < hi then some (lo, hi - lo) else none
def rangeCut (a b : Nat × Nat) : List (Nat × Nat) :=
  [(a.1, min (a.1 + a.2) b.1 - a.1), (max a.1 (b.1 + b.2), a.1 + a.2 - max a.1 (b.1 + b.2))].filter (fun r => 0 < r.2)
/-- The fills that bring this package the elements the new table gives it and the old one did not: from the survivor that owned them,
else from the partners of the lost package that did, whose number a spare has taken (R393 to R396, R399). -/
def State.fillJobs (s : State) (target : Nat) (store : Bool) : List FillJob :=
  let x := s.cinch
  match x.member s.ownPkg with
  | none => []
  | some m =>
    let job := fun (r : Nat × Nat) (a b : Nat) =>
      ({ base := r.1, len := r.2, partnerA := a, partnerB := b, target := target, store := store } : FillJob)
    let whole := (m.shardBase, m.shardLen)
    let mine := if m.spare then [whole].filter (fun r => 0 < r.2)
      else match x.oldMembers.find? (fun o => o.pkg = s.ownPkg) with
        | some o => rangeCut whole (o.shardBase, o.shardLen)
        | none => []
    let held := s.ckpt.views.filter (fun v => v.pkg ≠ s.ownPkg)
    let lost := held.foldl (fun l v => l.flatMap (fun r => rangeCut r (v.base, v.len))) mine
    mine.flatMap (fun r => held.filterMap (fun v => (rangeMeet r (v.base, v.len)).map (fun q => job q v.pkg 0xFFFF))) ++
      (if m.spare then lost.map (fun r => job r m.partnerA m.partnerB)
      else lost.flatMap (fun r => (x.oldMembers.filter (fun o => s.lostAll.contains o.pkg)).filterMap (fun o =>
        (rangeMeet r (o.shardBase, o.shardLen)).map (fun q => job q o.partnerA o.partnerB))))
/-- A partner that can serve as source. -/
def State.liveSource (s : State) (p : Nat) : Bool := p ≠ 0xFFFF && p ≠ s.ownPkg && !s.ckpt.lost.contains p
def Fill.running (f : Fill) : Bool := 1 ≤ f.state && f.state ≤ 3
/-- COMPAT_VERIFY is set. -/
def Ckpt.compat (k : Ckpt) : Bool := bit k.ctl 40
/-- COMPAT_VERIFY at a restore of step `m`: a generation in the VGX-700 format is converted by two packages and refused where they
differ; for one in the VGX-1100 format the setting is ignored and counted (R1, R390; log entry 73). -/
def State.compatGate (s : State) (m : Nat) : State × Bool :=
  if !s.ckpt.compat then (s, true)
  else if Config.format700 m then
    if Config.compatAgrees m then (s, true) else (s.report { s.pkgReport codeCompatMismatch with detail := m }, false)
  else (s.modCkpt (fun k => { k with tierFail := satAdd 16 k.tierFail 1 }), true)
/-- A restore from the package's own flash, which it wrote in the VGX-1100 format, ignores and counts the setting (R390). -/
def State.compatNote (s : State) : State :=
  if s.ckpt.compat then s.modCkpt (fun k => { k with tierFail := satAdd 16 k.tierFail 1 }) else s
/-- Begin a fill from the first live source in the order PARTNER_A, PARTNER_B, store (R396). -/
def State.fillStart (s : State) (j : FillJob) : State :=
  let a := s.liveSource j.partnerA && !j.store
  let b := s.liveSource j.partnerB && !j.store
  let f : Fill :=
    { state := if a then 1 else if b then 2 else 3
      done := 0
      total := chunkCount j.len
      source := if a then j.partnerA else if b then j.partnerB else s.ckpt.fill.source
      switches := s.ckpt.fill.switches
      target := BitVec.ofNat 32 j.target
      fromStore := !a && !b
      partnerA := if a then j.partnerA else 0xFFFF
      partnerB := if b then j.partnerB else 0xFFFF
      chunkAt := s.now
      redo := 0
      record := none
      base := j.base
      len := j.len }
  if a || b then s.modCkpt (fun k => { k with fill := f })
  else
    let q := if j.noted then (s, true) else s.compatGate j.target
    if q.2 then (q.1.modCkpt (fun k => { k with fill := f })).storeReads else q.1
/-- The fills that wait begin in turn, while none is under way (R396, R397). -/
def State.fillNext : List FillJob → State → State
  | [], s => s.modCkpt (fun k => { k with fills := [] })
  | j :: l, s =>
    if s.ckpt.fill.running then s.modCkpt (fun k => { k with fills := j :: l }) else State.fillNext l (s.fillStart j)
/-- Fills become due: those whose elements a fill under way brings, or one that is done holds at a step that will do, are not fetched
again (R398). -/
def State.fillDue (s : State) (js : List FillJob) : State :=
  let f := s.ckpt.fill
  let has := fun (j : FillJob) => f.base = j.base && f.len = j.len &&
    (f.running || (f.state = 4 && (if j.store then f.target.toNat = j.target else decide (j.target ≤ s.cinch.committed.toNat))))
  State.fillNext (s.ckpt.fills ++ js.filter (fun j => !has j)) s
/-- Restore the package's own shard from the store (R399, R429). -/
def State.restoreStore (s : State) (m : Nat) (noted : Bool) : State :=
  let x := s.cinch
  match x.member s.ownPkg with
  | some e =>
    let old := match x.oldMembers.find? (fun o => o.pkg = s.ownPkg) with
      | some o => rangeMeet (e.shardBase, e.shardLen) (o.shardBase, o.shardLen)
      | none => some (e.shardBase, e.shardLen)
    match old with
    | some r => s.fillDue [{ base := r.1, len := r.2, partnerA := 0xFFFF, partnerB := 0xFFFF, target := m, store := true, noted := noted }]
    | none => s
  | none => s
/-- Restore step m: from the store-tier generation on local flash, which this device wrote in its own format, else from the
store (R399). -/
def State.restoreBegin (s : State) (m : Nat) : State :=
  if s.gens.any (fun g => g.step = m && g.done && g.store) then s.compatNote.modCkpt (fun k => { k with restore := some m })
  else s.restoreStore m false
/-- The owner of a lost shard has step n − 1 and no fill is due: the update of the step that the group has committed is decided again
here, as it was, and its listed cores run it (R271; log entry 95). -/
def State.rebuildGo (s : State) : State :=
  match s.ckpt.rebuild with
  | some (n, v) =>
    if s.ckpt.fill.running || n ≠ s.cinch.round then s
    else ((s.modCinch (fun x => { x with groupNf := v.nf })).decideAs v.update v.normsq v.gscale v.nextLs).tryPrepare
  | none => s
/-- What a chosen outcome does to the round and the shards (Table 14.4). -/
def State.applyOutcome (s : State) (row : Nat) : State :=
  let lo := s.ckpt.views.foldl (fun n v => min n v.committed) ((s.ckpt.views.map (·.committed)).headD 0)
  let m := s.ckpt.views.foldl (fun n v => max n v.store) s.ckpt.storeStep.toNat
  let jobs := s.fillJobs (if row = 4 then m else lo) (row = 4)
  let s1 := match row with
    | 1 => s.commitHere (lo + 1)
    | 2 => s.abort true
    | 3 => (s.abort false).restoreCarries
    | _ => (s.report { s.pkgReport codeStepUnrecoverable with step := lo + 1 }).abort false
  let s2 := if row = 4 && s1.ckpt.fill.running then s1.fillToStore m else s1
  let s3 := s2.fillDue jobs
  let s4 := if row = 4 && !s.cinch.isSpare s.ownPkg then s3.restoreBegin m else s3
  let gone := fun (p : Nat) => if s4.ckpt.lost.contains p then 0xFFFF else p
  (s4.modCkpt (fun k => { k with
    outcome := row
    views := []
    lost := []
    partnerGens := k.partnerGens.map (fun e => (e.1, { e.2 with receiving := none, landed := 0 }))
    fills := k.fills.map (fun j => { j with partnerA := gone j.partnerA, partnerB := gone j.partnerB })
    fill := { k.fill with partnerA := gone k.fill.partnerA, partnerB := gone k.fill.partnerB } })).modCinch
      (fun x => { x with state := .idle }) |>.rebuildGo
/-- With the views of all survivors in, the outcome is chosen (R392). -/
def State.tryOutcome (s : State) : State :=
  if s.cinch.state = .resolve && !s.ckpt.mismatch && !s.survivors.isEmpty &&
      s.survivors.all (fun p => s.ckpt.views.any (fun v => v.pkg = p)) then
    s.applyOutcome (outcomeRow s.lostAll s.ckpt.views)
  else s
/-- Once the digests of all members agree, the views are exchanged (R392). -/
def State.tryViews (s : State) : State :=
  if s.cinch.state = .resolve && !s.ckpt.mismatch && s.others.all (fun p => s.ckpt.digests.contains p) then
    if s.survivors.contains s.ownPkg then
      let v := s.ownView
      ((s.modCkpt (fun k => { k with views := k.views.filter (fun w => w.pkg ≠ s.ownPkg) ++ [v] })).toOthers
        (fun p => .cinchView p v)).tryOutcome
    else s.tryOutcome
  else s
/-- Another member's digest for the epoch loaded here is compared with the own one (R391). -/
def State.digestIn (s : State) (pkg : Nat) (digest : Word) : State :=
  if !s.others.contains pkg then s
  else if digest ≠ s.ckpt.ownDigest then
    let s1 := (s.modCkpt (fun k => { k with mismatch := true })).modCinch (fun x => { x with state := .resolve })
    s1.report { s1.pkgReport codeEpochMismatch with detail := pkg }
  else s.modCkpt (fun k => { k with digests := insertSet pkg k.digests })
/-- EPOCH_GO: the table of a new epoch is loaded, or refused (R391). -/
def execEpochGo (epoch : BitVec 16) (s0 : State) : Host.Outcome State Fault Refusal :=
  let q := s0.readTable epoch.toNat
  let s := q.1
  let err := s.epochError epoch.toNat q.2
  .next (
    match q.2 with
    | some t =>
      if err = 0 then
        let s1 := s.modCinch (fun x => { x with epoch := epoch, oldMembers := x.members, members := t.members, roundAt := s.now })
        let stays := s.cinch.state = .idle && s.cinch.members.isEmpty && !s1.cinch.isSpare s.ownPkg
        let s2 := s1.modCinch (fun x => { x with state := if stays then .idle else .resolve })
        let s3 := s2.modCkpt (fun k => { k with
          epochErr := 0, ownDigest := t.digest, digests := [], views := [], mismatch := false, outcome := 0, waiting := false })
        let s4 := s3.toOthers (fun p => .epochDigest p epoch.toNat t.digest)
        let came := s4.ckpt.early.filter (fun e => e.2.epoch = epoch)
        (came.foldl (fun s e => s.digestIn e.1 e.2.value) (s4.modCkpt (fun k => { k with
          early := k.early.filter (fun e => epoch.toNat < e.2.epoch.toNat) }))).tryViews
      else s.modCkpt (fun k => { k with epochErr := err })
    | none => s.modCkpt (fun k => { k with epochErr := err }))
/-- EPOCH_DIGEST: another member's digest of the table. One of an older epoch is discarded and counted; one of an epoch that is not
loaded here yet waits for it (R270, R391). -/
def execEpochDigest (pkg : BitVec 12) (digest : TableHash) (s : State) : Host.Outcome State Fault Refusal :=
  .next (
    if digest.epoch.toNat < s.cinch.epoch.toNat then s.modCinch (·.stale)
    else if digest.epoch = s.cinch.epoch then (s.digestIn pkg.toNat digest.value).tryViews
    else s.modCkpt (fun k => { k with early := k.early.filter (fun e => e ≠ (pkg.toNat, digest)) ++ [(pkg.toNat, digest)] }))
/-- OUTCOME_EXCHANGE: a survivor's view (R271, R392). -/
def execOutcomeExchange (epoch : BitVec 32) (view : StepView) (s : State) : Host.Outcome State Fault Refusal :=
  .next (
    if epoch.toNat < s.cinch.epoch.toNat then s.modCinch (·.stale)
    else if epoch.toNat = s.cinch.epoch.toNat && s.survivors.contains view.pkg && view.pkg ≠ s.ownPkg then
      (s.modCkpt (fun k => { k with views := k.views.filter (fun w => w.pkg ≠ view.pkg) ++ [view] })).tryOutcome
    else s)

/-- The step record of a fill has come: a spare's COMMITTED_STEP is its step (R388, R396). -/
def State.fillRecord (s : State) (bs : List Byte) : State :=
  if s.ckpt.fill.record.isNone then
    let s1 := s.modCkpt (fun k => { k with fill := { k.fill with record := some bs } })
    if s.cinch.isSpare s.ownPkg then s1.modCinch (fun x => { x with committed := s.ckpt.fill.target }) else s1
  else s
/-- The bytes that carry the step record of a fill: those that came before its first chunk, or the block of the store part (R396,
R429). -/
def State.recordIn (s : State) : List Byte :=
  if s.ckpt.fill.fromStore then memRead s.ckpt.block 0 4096 else s.ckpt.fill.record.getD []
/-- A fill of the package's whole shard: the digest over shard and record is recomputed. Where it agrees the record is written back,
else the generation is refused and the store, the deeper tier, is next (R388, R389). -/
def State.fillCheck (s : State) : State :=
  let f := s.ckpt.fill
  let bs := s.recordIn
  if sha3 (s.shardLive ++ Config.recordBody bs) = Config.recordDigest bs then
    let r := match s.storeRec with
      | some r => if f.fromStore && r.step = f.target.toNat && !s.cinch.isSpare s.ownPkg then r else stepRecOf (Config.recordBody bs)
      | none => stepRecOf (Config.recordBody bs)
    s.restoreRec { r with step := f.target.toNat }
  else
    let s1 := s.report { s.pkgReport codeCkptDigest with step := f.target.toNat }
    if f.fromStore then s1
    else s1.modCkpt (fun k => { k with fills :=
      { base := f.base, len := f.len, partnerA := 0xFFFF, partnerB := 0xFFFF, target := s.ckpt.storeStep.toNat, store := true } :: k.fills })
/-- The last chunk of a fill has come (R388, R389, R396). -/
def State.fillEnd (s : State) : State :=
  let f := s.ckpt.fill
  if f.state ≠ 4 then s
  else
    let s1 := s.rebuildWeights
    let whole := match s.cinch.member s.ownPkg with | some m => m.shardBase = f.base && m.shardLen = f.len | none => false
    let s2 := if whole then s1.fillCheck else s1
    (State.fillNext s2.ckpt.fills s2).rebuildGo
/-- FILL_CHUNK_LANDED: the chunk in flight has landed: a package source's bytes are written to both copies; those of the store came with
the answers to its reads (R396, R398, R429). -/
def execFillChunkLanded (chunk : ChunkIn) (s : State) : Host.Outcome State Fault Refusal :=
  let f := s.ckpt.fill
  .next (
    if f.running && f.done < f.total && chunk.chunk.toNat = (f.redo + f.done) % f.total then
      let s1 := s.fillRecord chunk.record
      let s2 := if f.fromStore then s1 else s1.shardPut (s.fillOff + 67108864 * chunk.chunk.toNat) (chunk.data.take 67108864)
      (s2.modCkpt (fun k => { k with fill := { k.fill with
        done := k.fill.done + 1
        chunkAt := s.now
        state := if k.fill.done + 1 = k.fill.total then 4 else k.fill.state } })).fillEnd
    else s)
/-- FILL_TIMEOUT: a chunk has not landed within FILL_TMO (R397). -/
def execFillTimeout (s : State) : Host.Outcome State Fault Refusal :=
  let f := s.ckpt.fill
  .next (
    if f.running && f.chunkAt + fld s.ckpt.ctl 41 16 * 1000 ≤ s.now then
      if f.state = 3 then s.modCkpt (fun k => { k with fill := { k.fill with chunkAt := s.now } }) else s.fillSwitch
    else s)
/-- A restore from local flash has read its generation: with the digest it carries, its shard goes to both copies and its record is
written back, else the store is next (R388, R389). -/
def State.restoreRead (s : State) (step : Nat) (digest : BitVec 512) : State :=
  let s1 := s.modCkpt (fun k => { k with restore := none })
  match s.gens.find? (fun g => g.step = step) with
  | some g =>
    if g.digest = digest then ((s1.shardPut 0 g.shard).rebuildWeights).restoreRec g.srec
    else (s1.report { s1.pkgReport codeCkptDigest with step := step }).restoreStore step true
  | none => s1.restoreStore step true

end Sys2Proof.Machine
end

