-- ==== Sys2Proof/Machine/Query.lean ====
section
/-! DEFINITION. Open LC queries at N1: LATE points, verdicts and responses, RELEASE (R422, R423, R457 to R462). -/

namespace Sys2Proof.Machine

def State.modSafety (s : State) (f : SafetyRegs → SafetyRegs) : State := { s with safety := f s.safety }
/-- Bit m of SAFE_MODEL_p: the model is enforced (R451). -/
def State.enforced (s : State) (part model : Nat) : Bool := bit (s.safety.model.get 0 part) model
def Query.is (part req : Nat) (q : Query) : Bool := q.part = part && q.req = req
def State.query (s : State) (part req : Nat) : Option Query := s.host.queries.find? (Query.is part req)
def State.modQuery (s : State) (part req : Nat) (f : Query → Query) : State :=
  s.modHost (fun h => { h with queries := h.queries.map (fun q => if q.is part req then f q else q) })
/-- The LATE point (R458). -/
def State.latePoint (s : State) (q : Query) : Nat := q.deadline - fld s.safety.ctl 0 32
/-- The first verdict of R459 that applies: 0 VALID, 1 FAULT, 2 LATE. -/
def State.verdict (s : State) (q : Query) : Option Nat :=
  if q.fault then some 1
  else if s.latePoint q ≤ s.now || q.schedLate then some 2
  else if q.output.isSome && q.released then some 0
  else none
/-- A message posted on the lane now takes its first SEQ at once: the lane may send, nothing waits on it, and its window has room (R402,
R407). -/
def State.canSend (s : State) (i l : Nat) : Bool :=
  let x := (s.sess i).lane l
  !s.laneHeld l && x.waiting.isEmpty && decide (x.flight.length < 256)
/-- Form and send the response of a query: its verdict is fixed as its first datagram takes its SEQ, so it waits while lane 1 cannot
send (R423, R458 to R460). The response of a query whose session is lost is discarded and counted (R411). -/
def State.respond (s : State) (part req : Nat) : State :=
  match s.query part req with
  | none => s
  | some q =>
    match s.verdict q with
    | none => s
    | some v =>
      if !s.canSend q.sess 1 && !q.orphan && (s.sess q.sess).isOpen then s
      else
        let s1 := s.modHost (fun h => { h with queries := h.queries.filter (fun x => !x.is part req) })
        let out := if v = 0 then q.output.getD [] else []
        let notes := b2n q.fallback + 2 * b2n q.dip
        if q.orphan || !(s.sess q.sess).isOpen then s1.modHost (fun h => { h with lcOrphan := satAdd 16 h.lcOrphan 1 })
        else
          (s1.modSafety (fun x => { x with
            lcFaults := if v = 1 then satAdd 16 x.lcFaults 1 else x.lcFaults
            lcLates := if v = 2 then satAdd 16 x.lcLates 1 else x.lcLates })).post q.sess 1 (64 + out.length)
              (.lcResponse q.sess q.req v notes q.answering q.arrive 0 (if v = 0 then q.dcrc else 0) out)
/-- Respond to every query whose verdict can be fixed and sent now. -/
def State.respondAll (s : State) : State := s.host.queries.foldl (fun s q => s.respond q.part q.req) s
/-- Every open query is answered FAULT (R456, R460). -/
def State.faultAll (s : State) : State :=
  (s.modHost (fun h => { h with queries := h.queries.map (fun q => { q with fault := true }) })).respondAll
/-- A fault is attributed to a launched query that Saddle has not released: it is counted, and the query is answered FAULT
(R459, R461). -/
def State.attribute (s : State) (part req : Nat) : State :=
  match s.query part req with
  | some q =>
    if q.launched && !q.released && !q.fault then
      ((s.modSafety (fun x => { x with faults := satAdd 16 x.faults 1 })).modQuery part req (fun q => { q with fault := true })).respond
        part req
    else s
  | none => s
/-- The scheduler answers a query LATE at once (R380). -/
def State.schedLate (s : State) (part req : Nat) : State :=
  ((s.modSafety (fun x => { x with lates := satAdd 16 x.lates 1 })).modQuery part req (fun q => { q with schedLate := true })).respond
    part req
/-- LATE_POINT: a query reaches its LATE point without a verdict (R458). -/
def execLatePoint (part : Fin 12) (req : Word) (s : State) : Host.Outcome State Fault Refusal :=
  .next (match s.query part.val req.toNat with
    | some q => if s.latePoint q ≤ s.now then s.respond part.val req.toNat else s
    | none => s)
/-- Saddle sends RELEASE for a query (R462). -/
def State.sendRelease (s : State) (part req : Nat) : State :=
  (s.modSafety (fun x => { x with releases := x.releases + 1 })).modQuery part req (fun q => { q with released := true })
/-- No kernel of the query waits or is placed, the last one launched left no work by its REST_EST, every core of its kernels has passed
its closing test, and Saddle holds every report those cores have raised (R363, R462; log entry 99). -/
def State.mayRelease (s : State) (q : Query) : Bool :=
  let d := s.schedOf q.part
  q.launched && !q.released && !q.fault && !s.safety.saddleStopped &&
  s.saddleReports.all (fun r => !q.cores.contains r.core) &&
  d.waiting.all (fun w => w.krec.be || w.krec.req.toNat ≠ q.req) &&
  d.placed.all (fun w => w.krec.be || w.krec.req.toNat ≠ q.req) && q.rest = 0 &&
  (!s.enforced q.part q.answering || q.cores.all (fun c => q.passed.contains c))
/-- RELEASE: Saddle's RELEASE for a query reaches N1, and a query with its whole output is answered VALID (R459, R462). -/
def execRelease (part : Fin 12) (req : Word) (s : State) : Host.Outcome State Fault Refusal :=
  .next (match s.query part.val req.toNat with
    | some q => if s.mayRelease q then (s.sendRelease part.val req.toNat).respond part.val req.toNat else s
    | none => s)

end Sys2Proof.Machine
end

