-- ==== Sys2Proof/Machine/Sched.lean ====
section
/-! DEFINITION. The scheduler of a partition (chapter 13): accounts, submission, placement, hot sets, pre-emption, saves and
restores, the deadline monitor. -/

namespace Sys2Proof.Machine

/-! ## Accounts and virtual time (R366, R378, R381) -/

def acctFlashKey (client : Nat) : Nat := 16384 + client * 4 + 2
def acctSaveKey (client : Nat) : Nat := 16384 + client * 4 + 3
def acctSoloKey (client : Nat) : Nat := 32768 + client * 2
def acctMeasKey (client : Nat) : Nat := 32768 + client * 2 + 1
def State.acctKey (s : State) (key n : Nat) : State :=
  s.modGlob (fun g => { g with acct := g.acct.set key (satAdd 64 (g.acct.get 0 key) n) })
def Sched.client (d : Sched) (c : Nat) : Client := d.clients.get {} c
/-- `cycles` core-cycles held: 1,000 ÷ w each, exactly in units of 1 ÷ w (R366). -/
def Client.charge (x : Client) (cycles : Nat) : Client :=
  let n := x.vtRem + cycles * 1000
  { x with vt := (x.vt + n / max 1 x.weight) % 2 ^ 64, vtRem := n % max 1 x.weight }
/-- Exact comparison of two virtual times. -/
def Client.before (x y : Client) : Bool :=
  (x.vt * max 1 x.weight + x.vtRem) * max 1 y.weight < (y.vt * max 1 y.weight + y.vtRem) * max 1 x.weight
/-- The core is being saved or restored now, and not waiting for the other cores of its kernel (R378). -/
def State.moving (s : State) (w : Placed) (c : Nat) : Bool :=
  let st := (s.core c).sched
  st = .saving || (st = .restoring && !w.moved.contains c)
/-- Charge one core that a placed kernel holds for the mash cycles since its mark: those of its save and restore in SAVE_CYC,
the others in HELD and, of a BE kernel, in the client's virtual time (R366, R378, R381). -/
def State.chargeCore (s : State) (p : Nat) (w : Placed) (c : Nat) : State :=
  let d := s.mashOf c - w.marks.get (s.mashOf c) c
  let cl := w.krec.client
  if s.moving w c then s.acctKey (acctSaveKey cl) d
  else
    let s1 := (s.acctAdd cl 0 d).modGlob (fun g => { g with
      heldInt := g.heldInt.set (bayOf c * 1024 + cl) (g.heldInt.get 0 (bayOf c * 1024 + cl) + d) })
    if w.krec.be then s1.modSched p (fun x => { x with clients := x.clients.set cl ((x.client cl).charge d) }) else s1
/-- Cores on which an instance has not executed END. -/
def Placed.unended (w : Placed) : List Nat := w.cores.filter (fun c => !w.ended.contains c)
/-- Cores that a placed kernel holds: after its save a core is free (R375). -/
def Placed.holds (w : Placed) : List Nat :=
  match w.state with
  | .saved => []
  | .saving => w.unended.filter (fun c => !w.moved.contains c)
  | _ => w.unended
/-- Charge the engine time of the streams of a core up to now (R381). -/
def State.chargeEngines (s : State) (client c : Nat) : State :=
  Core.slotNums.foldl (fun s n =>
    let x := (s.core c).slot n
    if x.engineTime (s.mashOf c) = 0 then s
    else (s.acctEngine c client x).modCore c (fun k => k.setSlot n
      { x with acceptedAt := if x.endedAt.isSome then x.acceptedAt else s.mashOf c, endedAt := none })) s
/-- Charge every placed kernel of a partition up to now. -/
def State.charge (s : State) (p : Nat) : State :=
  let s1 := (s.schedOf p).placed.foldl (fun s w =>
    w.holds.foldl (fun s c => (s.chargeCore p w c).chargeEngines w.krec.client c) s) s
  s1.modSched p (fun d => { d with placed := d.placed.map (fun w =>
    { w with marks := w.holds.foldl (fun m c => m.set c (s.mashOf c)) w.marks }) })
/-- Every account is brought up to date before it is read (R381). -/
def State.chargeAll (s : State) : State := (List.range 12).foldl (fun s p => s.charge p) s
/-- CLIENT_W: a client's weight (R366, Table 13.8). -/
def execClientW (part : Fin 12) (v : Word) (s : State) : Host.Outcome State Fault Refusal :=
  let w := fld v 10 10
  .next (if 1 ≤ w && w ≤ 1000 then
      (s.charge part.val).modSched part.val (fun d =>
        let x := d.client (fld v 0 10)
        { d with clients := d.clients.set (fld v 0 10) { x with weight := w, vtRem := x.vtRem * w / max 1 x.weight } })
    else s)

/-! ## Pins (R371) -/

/-- CTX_STAT.PIN of a core whose kernel runs on `cores`. -/
def Core.pinOf (k : Core) (cores : List Nat) : Nat :=
  let hop := k.softPinned
  let bkt := k.bucketPinned
  let recv := Core.slotNums.any (fun n =>
    let x := k.slot n
    x.live && kindOf x.desc = 11 && (wRemote x.desc || !cores.contains (wCore x.desc)))
  b2n hop + 2 * b2n bkt + 4 * b2n recv
/-- The placed kernel that holds a core. -/
def Sched.holder (d : Sched) (c : Nat) : Option Placed := d.placed.find? (fun w => w.holds.contains c)
def State.pin (s : State) (c : Nat) : Nat :=
  match (s.schedOf (s.partOf c)).holder c with
  | some w => (s.core c).pinOf w.cores
  | none => (s.core c).pinOf []
def State.pinned (s : State) (w : Placed) : Bool := w.holds.any (fun c => (s.core c).pinOf w.cores ≠ 0)

/-! ## Free cores -/

/-- The scheduler may place a kernel on the core (R367, R454, R467, R489, R507, R512). -/
def State.coreFree (s : State) (c : Nat) : Bool :=
  let k := s.core c
  k.sched = .free && k.seq.kernel.isNone && !k.retired && !k.safe.barred && !k.safe.closing && !k.safe.retest &&
    (s.bay (bayOf c)).state = .on && !s.rst.running.contains (0, c) && !s.sec.recovery
def State.freeCores (s : State) (p : Nat) : List Nat := (s.coresOf p).filter s.coreFree

/-! ## Hot sets (R369) -/

/-- Hot sets of models have ids above those of submission records (log entry 37). -/
def isLcHot (id : Nat) : Bool := 65536 ≤ id
/-- First line and lines of a hot set on its cores: an LC hot set lies in the reserve region, a BE hot set below it, both
where the loader's table puts them as far as the region goes (R368, R369; log entry 37). -/
def State.hotRange (s : State) (p id : Nat) : Nat × Nat :=
  let resv := s.resvLines p
  let low := spLines - resv
  if isLcHot id then
    let line := low + Config.hotLine p id % max 1 resv
    (line, min (Config.hotLines p id) (spLines - line))
  else
    let line := Config.hotLine p id % max 1 low
    (line, min (Config.hotLines p id) (low - line))
def HotSet.meets (h : HotSet) (cores : List Nat) (line len : Nat) : Bool :=
  h.cores.any (fun c => cores.contains c) && h.line < line + len && line < h.line + h.len
/-- The hot set is resident on all of the cores. -/
def Sched.resident (d : Sched) (id : Nat) (cores : List Nat) : Bool :=
  d.hot.any (fun h => h.id = id && cores.all (fun c => h.cores.contains c))
/-- The entry is pinned: a kernel that names it runs, or the host holds a pin on it; no message or register of the spec
places such a pin (log entry 37). -/
def Sched.hotPinned (d : Sched) (h : HotSet) : Bool :=
  0 < h.pins || d.placed.any (fun w => w.state ≠ .saved && w.krec.hotset = h.id)
/-- The entry least recently used among those the predicate selects. -/
def oldestHot (hs : List HotSet) : Option HotSet :=
  hs.foldl (fun b h => match b with | some x => if h.lastUse < x.lastUse then some h else some x | none => some h) none
/-- The cache with room for a hot set: the unpinned entries in its way are forgotten; none when a pinned one of another hot
set is. An unpinned entry of the same hot set on one of the cores is replaced (R369). -/
def Sched.makeRoom (d : Sched) (id : Nat) (cores : List Nat) (line len : Nat) : Option (List HotSet) :=
  let inWay := fun (h : HotSet) => h.meets cores line len || (h.id = id && h.cores.any (fun c => cores.contains c))
  if d.hot.any (fun h => h.id ≠ id && inWay h && d.hotPinned h) then none
  else
    let rest := d.hot.filter (fun h => !inWay h || d.hotPinned h)
    if rest.length < 256 then some rest
    else (oldestHot (rest.filter (fun h => !d.hotPinned h))).map (fun h => rest.filter (fun x => x ≠ h))
/-- The loader copies the hot set from HBM to each core, checked as a read of HBM by that core is; the bytes are charged to the
client. Lines whose read is refused are unspecified (R369, R433, R441; log entry 37). -/
def State.hotCopy (s : State) (p id : Nat) (cores : List Nat) (client : Nat) : State :=
  let r := s.hotRange p id
  let bytes := 256 * r.2
  let a := Config.hotAddr p id
  let lines := (List.range r.2).map (fun i => r.1 + i)
  let s1 := cores.foldl (fun s c =>
    let q := s.sysRead (fun code => s.coreReport c code) a bytes
    match q.2 with
    | some data => (q.1.farAccess c a bytes).modCore c (fun k => (k.spWrite (256 * r.1) data).setLive lines)
    | none => (q.1.scramble c lines).modCore c (fun k => k.setLive lines)) s
  (s1.acctAdd client 10 (bytes * cores.length)).modGlob (fun g => { g with acctHbm := satAdd 64 g.acctHbm (bytes * cores.length) })
/-- Make a hot set resident on cores; none while a pinned entry is in the way. `use` is the sequence number of the launch that uses
it, none for a load ahead of use or a restore that finds it resident (R369). -/
def State.hotLoad (s : State) (p id : Nat) (cores : List Nat) (client : Nat) (use : Option Nat) : Option State :=
  let d := s.schedOf p
  let r := s.hotRange p id
  if id = 0 then some s
  else if d.resident id cores then
    some (s.modSched p (fun d => { d with hot := d.hot.map (fun h =>
      if h.id = id && cores.all (fun c => h.cores.contains c) then { h with lastUse := max h.lastUse (use.getD 0) } else h) }))
  else (d.makeRoom id cores r.1 r.2).map (fun l =>
    (s.modSched p (fun d => { d with
      hot := l ++ [{ id := id, cores := cores, line := r.1, len := r.2, lastUse := use.getD 0, pins := 0 }] })).hotCopy p id cores client)

/-! ## Placement (R361, R363, R365 to R367) -/

/-- The deadline of the query a kernel belongs to; a kernel of no open query comes last. -/
def State.deadlineOf (s : State) (r : KernelRec) : Nat :=
  match s.query r.part r.req.toNat with
  | some q => q.deadline
  | none => 2 ^ 64
/-- The LC kernel to place first: earliest deadline, then order of submission (R365). -/
def State.lcHead (s : State) (p : Nat) : Option Waiting :=
  ((s.schedOf p).waiting.filter (fun w => !w.krec.be)).foldl (fun b w =>
    match b with
    | some x =>
      let dx := s.deadlineOf x.krec
      let dw := s.deadlineOf w.krec
      if dw < dx || (dw = dx && w.order < x.order) then some w else some x
    | none => some w) none
/-- A BE kernel that waits to be placed, or that is saved and waits to be resumed. -/
inductive BeNext where
  | place (w : Waiting) | resume (w : Placed)
  deriving DecidableEq, Repr
def BeNext.client : BeNext → Nat
  | .place w => w.krec.client
  | .resume w => w.krec.client
def BeNext.order : BeNext → Nat
  | .place w => w.order
  | .resume w => w.order
/-- BE kernels that wait. -/
def Sched.beWaiting (d : Sched) : List BeNext :=
  (d.waiting.filter (fun w => w.krec.be)).map .place ++ (d.placed.filter (fun w => w.state = .saved)).map .resume
/-- The BE kernel to place or resume next: the oldest of the client with the smallest virtual time (R366, R377). -/
def Sched.beHead (d : Sched) : Option BeNext :=
  d.beWaiting.foldl (fun b w =>
    match b with
    | some x =>
      let cx := d.client x.client
      let cw := d.client w.client
      if cw.before cx || (!cx.before cw && (w.client < x.client || (w.client = x.client && w.order < x.order))) then some w
      else some x
    | none => some w) none
/-- A BE kernel that gives its cores up, or will without being asked again. -/
def Placed.leaving (w : Placed) : Bool := w.krec.be && (w.state = .parking || w.state = .saving)
/-- A BE kernel that may be chosen for pre-emption: one that is being restored, or that runs and is not pinned (R370, R377). -/
def State.choosable (s : State) (w : Placed) : Bool :=
  w.krec.be && (w.state = .restoring || (w.state = .running && !w.killed && !s.pinned w))
/-- The core is free, or can be freed under the pre-emption rules (R367). -/
def State.freeable (s : State) (p c : Nat) : Bool :=
  s.coreFree c || (s.schedOf p).placed.any (fun w => w.holds.contains c && (w.leaving || s.choosable w))
/-- The cores that hold the resident hot set a kernel names, when they are enough for it. -/
def Sched.hotCores (d : Sched) (r : KernelRec) : Option (List Nat) :=
  (d.hot.find? (fun h => r.hotset ≠ 0 && h.id = r.hotset && r.width ≤ h.cores.length)).map (·.cores)
/-- The cores that hold its hot set, for an LC kernel that waits for them to be freed (R367). -/
def State.hotToFree (s : State) (p : Nat) (r : KernelRec) : Option (List Nat) :=
  if r.be then none
  else ((s.schedOf p).hotCores r).filter (fun cs => !cs.all s.coreFree && cs.all (fun c => s.freeable p c))
/-- The lowest-numbered free cores of the partition. -/
def State.lowestFreeCores (s : State) (p w : Nat) : Option (List Nat) :=
  let free := s.freeCores p
  if w ≤ free.length then some (free.take w) else none
/-- The cores for a kernel: those that hold its hot set when all are free; none yet for an LC kernel whose hot-set cores can
be freed; else the lowest free ones (R367). -/
def State.coresFor (s : State) (p : Nat) (r : KernelRec) : Option (List Nat) :=
  match (s.schedOf p).hotCores r with
  | some cs =>
    if cs.all s.coreFree then some (cs.take r.width)
    else if (s.hotToFree p r).isSome then none
    else s.lowestFreeCores p r.width
  | none => s.lowestFreeCores p r.width
/-- The model that an LC kernel serves. -/
def State.modelOf (s : State) (r : KernelRec) : Option Nat :=
  if r.be then none else (s.query r.part r.req.toNat).map (·.answering)
def State.recEnforced (s : State) (r : KernelRec) : Bool :=
  match s.modelOf r with | some m => s.enforced r.part m | none => false
/-- The core map: W global core numbers at the record's address + 128 (R362). -/
def coreMap (cores : List Nat) : List Byte := cores.flatMap (fun c => natBytes 2 c)
/-- The lines of a query's input for channel `chan` of a core; the last one carries the CRC of the input (R457). -/
def Query.lines (q : Query) (core chan : Nat) : List TokenLine :=
  let n := cdiv q.input.length 256
  (List.range n).map (fun i =>
    { core := core, chan := chan, group := i, row0 := 0, die := 99, entries := [],
      input := some { req := q.req, part := q.part, bytes := (q.input.drop (256 * i)).take 256, first := decide (i = 0),
                      crc := if i + 1 = n then some q.inCrc else none } })
/-- The lines belong to the input of a query. -/
def TokenLine.isOf (t : TokenLine) (part req : Nat) : Bool := match t.input with | some x => x.part = part && x.req = req | none => false
/-- With the first kernel of a query, or of its restart on the fallback model, N1 sends its input to instance 0 on the channel of
FEED_T (R380, R457; log entry 53). -/
def State.inputOut (s : State) (p req : Nat) (cores : List Nat) : State :=
  match s.query p req, cores with
  | some q, c :: _ =>
    if q.launched then s
    else
      let chan := match (s.serveOf p).models.find? q.answering with | some m => m.mrec.feedTChan | none => 0
      { s with tapLines := s.tapLines.filter (fun t => !t.isOf p req) ++ q.lines c chan }
  | _, _ => s
/-- The query of an LC kernel takes its cores, its launch and its input (R457, R461, R462). -/
def State.queryLaunch (s : State) (r : KernelRec) (cores : List Nat) : State :=
  if r.be then s
  else (s.inputOut r.part r.req.toNat cores).modQuery r.part r.req.toNat (fun q => { q with
    launched := true
    rest := r.restEst
    cores := cores.foldl (fun l c => insertSet c l) q.cores
    passed := q.passed.filter (fun c => !cores.contains c)
    dip := q.dip || cores.any (fun c => (s.bay (bayOf c)).dip) })
/-- Place a waiting kernel: its core map is written and its launch records leave; none while its hot set cannot be loaded. -/
def State.place (s : State) (p : Nat) (w : Waiting) (cores : List Nat) : Option State :=
  (s.hotLoad p w.krec.hotset cores w.krec.client (some (s.schedOf p).launchNo)).map (fun s1 =>
    let s2 := s1.modSched p (fun d => { d with
      launchNo := d.launchNo + 1
      waiting := d.waiting.filter (fun x => x.krec.kid ≠ w.krec.kid)
      placed := d.placed ++ [
        { krec := w.krec, cores := cores, ended := [], order := w.order, at_ := w.at_, state := .running, moved := [],
          killed := false, placeNo := d.launchNo,
          marks := cores.map (fun c => (c, s1.mashOf c)), late := [] }] })
    let s3 := s2.sysWrite (fun code => s2.pkgReport code) (w.krec.addr + 128) (coreMap cores)
    let enf := s3.recEnforced w.krec
    let s4 := (cores.zipIdx).foldl (fun s e =>
      { s.modCore e.1 (fun k => { k with sched := .running }) with
        launches := s.launches.set e.1 { krec := w.krec, inst := e.2, enforced := enf } }) s3
    s4.queryLaunch w.krec cores)
/-- Begin the restore of a saved kernel on the cores it left (R377). -/
def State.resume (s : State) (p : Nat) (w : Placed) : State :=
  let cores := w.unended
  let s1 := s.modSched p (fun d => { d with placed := d.placed.map (fun x =>
    if x.krec.kid = w.krec.kid then
      { x with state := .restoring, moved := [], marks := cores.map (fun c => (c, s.mashOf c)) } else x) })
  cores.foldl (fun s c => s.modCore c (fun k => { k with sched := .restoring })) s1

/-! ## Pre-emption (R370, R372, R377) -/

/-- Candidates in the order they are chosen: restoring kernels first, then the largest virtual time, the higher client
number, the most recently placed (R370, R377). -/
def Sched.takenBefore (d : Sched) (x y : Placed) : Bool :=
  let cx := d.client x.krec.client
  let cy := d.client y.krec.client
  if x.state = .restoring && y.state ≠ .restoring then true
  else if y.state = .restoring && x.state ≠ .restoring then false
  else if cy.before cx then true
  else if cx.before cy then false
  else if x.krec.client ≠ y.krec.client then decide (y.krec.client < x.krec.client)
  else decide (y.placeNo < x.placeNo)
def Sched.insertTaken (d : Sched) (w : Placed) : List Placed → List Placed
  | [] => [w]
  | x :: l => if d.takenBefore w x then w :: x :: l else x :: d.insertTaken w l
def State.victims (s : State) (p : Nat) : List Placed :=
  let d := s.schedOf p
  (d.placed.filter s.choosable).foldl (fun l w => d.insertTaken w l) []
/-- Choose until enough cores are found. -/
def chooseUntil : Nat → Nat → List Placed → List Placed
  | _, _, [] => []
  | need, have_, w :: l => if need ≤ have_ then [] else w :: chooseUntil need (have_ + w.holds.length) l
/-- Pre-empt one kernel: its restore stops, or all its instances are asked to park (R372, R377). -/
def State.preempt (s : State) (p : Nat) (w : Placed) : State :=
  let setTo := fun (st : PlacedState) (s : State) => s.modSched p (fun d => { d with placed := d.placed.map (fun x =>
    if x.krec.kid = w.krec.kid then { x with state := st, moved := [], late := [] } else x) })
  if w.state = .restoring then
    w.holds.foldl (fun s c => s.modCore c (fun k => { k with
      sched := .free
      seq := { k.seq with kernel := none, parked := false, parking := false, faulted := none, stall := none }
      slots := k.slots.filter (fun e => e.2.state = .faulted) })) (setTo .saved s)
  else
    w.holds.foldl (fun s c => s.modCore c (fun k => { k with sched := .parking, preemptAt := s.mashOf c })) (setTo .parking s)
/-- Pre-empt for the LC kernel at the head of its queue, unless even all unpinned BE kernels are too few (R370). -/
def State.preemptFor (s : State) (p : Nat) (r : KernelRec) : State :=
  let d := s.schedOf p
  let free := (s.freeCores p).length
  let coming := (d.placed.filter (·.leaving)).foldl (fun n w => n + w.holds.length) 0
  let all := s.victims p
  match s.hotToFree p r with
  | some cs => (all.filter (fun w => w.holds.any (fun c => cs.contains c))).foldl (fun s w => s.preempt p w) s
  | none =>
    if r.width ≤ free + coming then s
    else
      let pick := chooseUntil r.width (free + coming) all
      if r.width ≤ free + coming + pick.foldl (fun n w => n + w.holds.length) 0 then pick.foldl (fun s w => s.preempt p w) s
      else s
/-- One decision of the scheduler; none when nothing more can be placed. -/
def State.scheduleOnce (s : State) (p : Nat) : Option State :=
  match s.lcHead p with
  | some w => (s.coresFor p w.krec).bind (fun cores => s.place p w cores)
  | none =>
    match (s.schedOf p).beHead with
    | some (.place w) => (s.coresFor p w.krec).bind (fun cores => s.place p w cores)
    | some (.resume w) =>
      if w.unended.all s.coreFree then some (s.resume p w) else none
    | none => none
def State.scheduleLoop (p : Nat) : Nat → State → State
  | 0, s => s
  | n + 1, s => match s.scheduleOnce p with | some t => State.scheduleLoop p n t | none => s
/-- Key of a saved context: core and kernel (log entry 32). -/
def savedKey (c kid : Nat) : Nat := c * 2 ^ 32 + kid
/-- A restored core goes on from its saved PC, with its saved FPFLAGS (R377). -/
def State.goOn (s : State) (c : Nat) (kid : Nat) : State :=
  let flags := match s.saved.find? (savedKey c kid) with | some x => x.fpflags | none => 0
  let s1 := s.modCore c (fun k => { k with
    sched := .running
    fpflags := flags
    seq := { k.seq with parking := false, parked := false, preempt := false, yieldMark := s.mashOf c, overdueSeen := false } })
  { s1 with saved := s1.saved.erase (savedKey c kid) }
/-- Kernels all of whose cores have their context back go on, each once its hot set is resident again (R369, R377). -/
def State.finishRestores (s : State) (p : Nat) : State :=
  ((s.schedOf p).placed.filter (fun w => w.state = .restoring && w.unended.all (fun d => w.moved.contains d))).foldl (fun s w =>
    match s.hotLoad p w.krec.hotset w.unended w.krec.client (some w.placeNo) with
    | some s1 =>
      w.unended.foldl (fun s d => s.goOn d w.krec.kid) (s1.modSched p (fun d => { d with placed := d.placed.map (fun y =>
        if y.krec.kid = w.krec.kid then { y with moved := [], state := .running } else y) }))
    | none => s) s
/-- The scheduler acts on an event: it places what it can, and pre-empts for an LC kernel that waits, which takes the cores of stopped
restores at once (R364, R370, R377). A stopped Saddle pair places nothing (R460). -/
def State.schedule (s : State) (p : Nat) : State :=
  if s.safety.saddleStopped then s
  else
  let s0 := (s.charge p).finishRestores p
  let turns := (s0.schedOf p).waiting.length + (s0.schedOf p).placed.length + 1
  let s1 := State.scheduleLoop p turns s0
  match s1.lcHead p with
  | some w => State.scheduleLoop p turns (s1.preemptFor p w.krec)
  | none => s1

/-! ## The deadline monitor (R379, R380) -/

/-- Mash frequency of a bay in units of 12.5 MHz, from its clock record (R379, R475). -/
def State.freqOf (s : State) (b : Nat) : Nat := match (s.bay b).clk.getLast? with | some e => max 1 e.freq | none => 104
/-- Cycles as control counts at the slowest bay of some cores: ceil(cycles × 1,000 ÷ f). -/
def State.countsFor (s : State) (cores : List Nat) (cycles : Nat) : Nat :=
  let f := cores.foldl (fun n c => min n (s.freqOf (bayOf c))) 104
  cdiv (cycles * 80) f
/-- Bytes that a save of a core copies (R379). -/
def Core.liveBytes (k : Core) : Nat := k.sp.live.length * 256 + k.sp.liveRows.length * 4096 + 131072
/-- Longest save among cores to be freed: each bay's 3.8 TB/s shared among its cores, at most 768 bytes a cycle each (R49,
R376). -/
def State.saveTime (s : State) (cores : List Nat) : Nat :=
  cores.foldl (fun n c =>
    let share := (cores.filter (fun d => bayOf d = bayOf c)).length
    let b := (s.core c).liveBytes
    max n (max (cdiv (b * share) 3800) (cdiv (b * 80) (768 * s.freqOf (bayOf c))))) 0
/-- Cores that a kernel would be given, pre-empting where it must, and those to be freed for it (R367, R370). -/
def State.coresWanted (s : State) (p : Nat) (r : KernelRec) : List Nat × List Nat :=
  let all := (s.schedOf p).placed.filter (·.leaving) ++ s.victims p
  match s.coresFor p r, s.hotToFree p r with
  | some cs, _ => (cs, [])
  | none, some cs =>
    (cs.take r.width, (all.filter (fun (w : Placed) => w.holds.any (fun c => cs.contains c))).flatMap (·.holds))
  | none, none =>
    let freed := (chooseUntil r.width (s.freeCores p).length all).flatMap (·.holds)
    (((s.coresOf p).filter (fun c => s.coreFree c || freed.contains c)).take r.width, freed)
/-- The prediction P for the next kernel of a request (R379). -/
def State.predict (s : State) (p : Nat) (w : Waiting) : Nat :=
  let cores := (s.coresWanted p w.krec).1
  let freed := (s.coresWanted p w.krec).2
  let need := (s.coresFor p w.krec).isNone
  let ahead := ((s.schedOf p).waiting.filter (fun x =>
    !x.krec.be && x.krec.kid ≠ w.krec.kid && s.deadlineOf x.krec < s.deadlineOf w.krec &&
      (s.coresWanted p x.krec).1.any (fun c => cores.contains c))).foldl
      (fun n x => n + s.countsFor cores (x.krec.est + x.krec.restEst)) 0
  s.now + (if need then s.countsFor cores 26000 + s.saveTime freed else 0) +
    s.countsFor cores (w.krec.est + w.krec.restEst) + ahead
def Sched.dlMargin (d : Sched) : Nat := fld d.ctl 17 31
/-- The remaining work of a request is abandoned: its waiting kernels are gone, and those placed no longer belong to it (R380; log
entry 92). -/
def State.abandon (s : State) (p req : Nat) : State :=
  let mine := fun (r : KernelRec) => !r.be && r.req.toNat = req
  s.modSched p (fun d => { d with
    waiting := d.waiting.filter (fun w => !mine w.krec)
    placed := d.placed.map (fun w => if mine w.krec then { w with krec := { w.krec with req := 0 } } else w) })
/-- The request restarts from its input on the FALLBACK model, or is answered LATE (R380). -/
def State.fallback (s : State) (p req : Nat) (q : Query) : State :=
  let s1 := s.abandon p req
  match ((s.serveOf p).models.find? q.model).bind (fun m => m.mrec.fallback) with
  | some m =>
    if q.fallback then s1.schedLate p req
    else s1.modQuery p req (fun q =>
      { q with answering := m, fallback := true, launched := false, output := none, cores := [], passed := [] })
  | none => s1.schedLate p req
/-- The deadline check of a request whose next kernel waits (R379, R380). -/
def State.deadlineCheck (s : State) (p req : Nat) : State :=
  match s.query p req, (s.schedOf p).waiting.find? (fun w => !w.krec.be && w.krec.req.toNat = req) with
  | some q, some w =>
    if q.deadline < s.predict p w + (s.schedOf p).dlMargin then s.fallback p req q else s
  | _, _ => s

/-! ## Submission (R361, R362, R366) -/

/-- A submission record as read, and whether its reserved values and zero fields are right (Table 13.1). -/
def recordOf (addr : Nat) (bs : List Byte) : KernelRec × Bool :=
  let f := fun (a n : Nat) => bytesNat ((bs.drop a).take n)
  let w := fun (a : Nat) => BitVec.ofNat 64 (f a 8)
  ({ kid := f 0 4, client := f 4 2, be := f 6 1 = 1, resv := f 7 1 % 2 = 1, width := f 8 2, part := f 10 1,
     hotset := f 12 2, entry := w 16, regionBase := w 24, regionLen := w 32,
     args := [w 40, w 48, w 56, w 64, w 72], srSeed := w 80, kSeed := w 88, kStep := BitVec.ofNat 32 (f 96 4),
     est := f 104 8, restEst := f 112 8, req := w 120, addr := addr },
   f 6 1 ≤ 1 && f 7 1 ≤ 1 && f 11 1 = 0 && f 14 2 = 0 && f 100 4 = 0 && 1 ≤ f 4 2 && f 4 2 ≤ 1023 && 1 ≤ f 8 2 && f 10 1 ≤ 11)
/-- Every byte of the record lies in a valid region (R362). -/
def State.recMapped (s : State) (addr : Nat) : Bool := (sectorsOf addr 128).all (fun a => (s.hbm.find a).isSome)
/-- The record is refused with SUBMIT_BAD (R362). -/
def State.submitBad (s : State) (p : Nat) (r : KernelRec × Bool) : Bool :=
  let d := s.schedOf p
  !r.2 || (s.coresOf p).length < r.1.width || (r.1.resv && r.1.be) || r.1.part ≠ p ||
    d.waiting.any (fun w => w.krec.kid = r.1.kid) || d.placed.any (fun w => w.krec.kid = r.1.kid)
/-- A client that becomes active starts at the smallest virtual time among active clients (R366). -/
def Sched.activate (d : Sched) (cl : Nat) : Sched :=
  let act := (d.waiting.filter (fun w => w.krec.be)).map (fun w => w.krec.client) ++
    (d.placed.filter (fun w => w.krec.be)).map (fun w => w.krec.client)
  if act.contains cl then d
  else
    match act with
    | [] => d
    | a :: l =>
      let m := l.foldl (fun b c => if (d.client c).before (d.client b) then c else b) a
      let x := d.client cl
      let y := d.client m
      if x.before y then
        { d with clients := d.clients.set cl { x with vt := y.vt, vtRem := y.vtRem * max 1 x.weight / max 1 y.weight } }
      else d
/-- Queue an accepted record and act on it. -/
def State.enqueue (s : State) (p : Nat) (r : KernelRec) : State :=
  let s1 := s.charge p
  let d := s1.schedOf p
  let d1 := if r.be then d.activate r.client else d
  let order := (d1.waiting.map (·.order) ++ d1.placed.map (·.order)).foldl (fun n o => max n (o + 1)) 0
  let s2 := s1.setSched p { d1 with waiting := d1.waiting ++ [{ krec := r, order := order, at_ := s.now }] }
  (if r.be then s2 else s2.deadlineCheck p r.req.toNat).schedule p
/-- Read and queue a record, or hand the refused KERNEL_ID to `bad`. -/
def State.submit (s : State) (p addr : Nat) (bad : State → Nat → State) : State :=
  if !s.recMapped addr then bad s 0
  else
    match s.hbm.badIn addr 128 with
    | some a => bad (s.hbmUe (s.pkgReport codeMemUncorr) a) 0
    | none =>
      let s1 := s.modHbm (fun h => h.fix addr 128)
      let r := recordOf addr (s1.hbm.read addr 128)
      if s1.submitBad p r then bad s1 r.1.kid else s1.enqueue p r.1
/-- MSG_TYPE, naming the core (R544). -/
def State.msgTypeFault (s : State) (c : Nat) : State :=
  s.report { s.pkgReport codeMsgType with site := dieOf c, unit := c % 6, core := c }
/-- Take the head message of core `c` to the scheduler, when its TYPE is the one the row names (R544). -/
def State.schedTake (s : State) (c type : Nat) (f : State → BitVec 256 → State) : State :=
  match (s.core c).headOut 1 with
  | some p =>
    let t := fld p 0 8
    let s1 := s.popMsg c 96
    if (t ≠ 1 && t ≠ 2) || fld p 8 56 ≠ 0 || fld p 144 112 ≠ 0 then s1.msgTypeFault c
    else if t = type then f s1 p
    else s
  | none => s
/-- SUBMIT: a core's submission (R362). -/
def execSubmit (c : CoreId) (s : State) : Host.Outcome State Fault Refusal :=
  .next (s.schedTake c.val 1 (fun t p =>
    t.submit (t.partOf c.val) (fld p 64 64) (fun t kid =>
      t.report { t.pkgReport codeSubmitBad with site := dieOf c.val, unit := c.val % 6, core := c.val, tag := kid })))
/-- PREFETCH: load a hot set ahead of use (R369). -/
def execPrefetch (c : CoreId) (s : State) : Host.Outcome State Fault Refusal :=
  .next (s.schedTake c.val 2 (fun t p =>
    let part := t.partOf c.val
    let id := fld p 128 16
    (t.hotLoad part id ((t.coresOf part).filter (fun d => Config.hotCore part id d)) (t.core c.val).client none).getD t))

/-! ## Kernel end (R361, R382, R505) -/

/-- SOLO and MEAS of a kernel that has ended, EST at 1,300 MHz and its span from submission; its kernel-end report carries both, and
whether it was killed (R375, R382, R505). -/
def State.kernelDone (s : State) (p : Nat) (w : Placed) (killed : Bool) : State :=
  let solo := cdiv (w.krec.est * 80) 104
  let meas := s.now - w.at_
  ((s.acctKey (acctSoloKey w.krec.client) solo).acctKey (acctMeasKey w.krec.client) meas).emit (.kernelEnd p w.krec.kid killed solo meas)
/-- Drop the saved contexts of a kernel: their save areas are freed. -/
def State.dropSaved (s : State) (kid : Nat) (cores : List Nat) : State :=
  { s with saved := s.saved.filter (fun e => !(e.2.kid = kid && cores.contains (e.1 / 2 ^ 32))) }
/-- The last instance has ended: the kernel leaves (R361, R382). -/
def State.kernelEnds (s : State) (p : Nat) (w : Placed) (killed done : Bool) : State :=
  if done then
    let s1 := (s.kernelDone p w killed).modSched p (fun d => { d with placed := d.placed.filter (fun x => x.krec.kid ≠ w.krec.kid) })
    if w.krec.be then s1 else s1.deadlineCheck p w.krec.req.toNat
  else s
/-- A kernel is ended with status KILLED: its instances halt, and each is freed once its streams are done; the instances on
cores it has already left are gone, with every save area; an LC query attributes it (R375, R461, R505). -/
def State.killKernel (s0 : State) (p kid : Nat) : State :=
  match (s0.schedOf p).placed.find? (fun w => w.krec.kid = kid) with
  | some w =>
    if w.killed then s0
    else
      let s := (s0.charge p).dropSaved kid w.cores
      let ended := (w.unended.filter (fun c => !w.holds.contains c)).foldl (fun l c => insertSet c l) w.ended
      let s1 := s.modSched p (fun d => { d with placed := d.placed.map (fun x =>
        if x.krec.kid = kid then { x with killed := true, state := .running, moved := [], ended := ended } else x) })
      let s2 := w.holds.foldl (fun s c =>
        let s1 := s.modCore c (fun k => { k with
          sched := .running
          seq := { k.seq with faulted := some codeKernelKilled, stall := none, parking := false, parked := false, preempt := false } })
        { s1 with launches := s1.launches.erase c, parkedMsgs := s1.parkedMsgs.filter (· ≠ c) }) s1
      let s3 := s2.report { s2.pkgReport codeKernelKilled with tag := kid, detail := kid }
      let s4 := if w.krec.be then s3 else s3.attribute p w.krec.req.toNat
      s4.kernelEnds p w true w.holds.isEmpty
  | none => s0
/-- Free a core whose kernel has been killed (R505). -/
def State.endKilled (s : State) (c : Nat) : State :=
  { s.modCore c (fun k => k.endCore) with ends := s.ends.set c (s.endReport c true) }
/-- The core of a killed kernel has no stream QUEUED or ACTIVE. -/
def State.killedIdle (s : State) (c : Nat) : Bool :=
  (match (s.schedOf (s.partOf c)).holder c with | some w => w.killed | none => false) && !(s.core c).anyLive
/-- A kernel-end report at the scheduler: the core is freed, unless its closing test runs first (R361, R454, R455). -/
def State.endIn (s : State) (c : Nat) (r : EndReport) : State :=
  let p := s.partOf c
  let s0 := { s.charge p with ends := s.ends.erase c }
  match (s0.schedOf p).holder c with
  | some w =>
    let enf := r.enforced
    let bad := enf && r.sig ≠ 0 && !r.killed
    let s1 := if bad then s0.report { s0.coreReport c codeCfsig with tag := w.krec.kid, detail := r.sig.toNat } else s0
    let s2 := s1.modCore c (fun k => { k with
      sched := .free
      safe := { k.safe with closing := enf && !r.killed } })
    let ended := insertSet c w.ended
    let s3 := s2.modSched p (fun d => { d with placed := d.placed.map (fun x =>
      if x.krec.kid = w.krec.kid then { x with ended := ended } else x) })
    (s3.kernelEnds p w w.killed (w.cores.all (fun d => ended.contains d))).schedule p
  | none => s0.modCore c (fun k => { k with sched := .free })
/-- KERNEL_END_REPORT (R361). The core of a killed kernel ends here once its streams are done (R505). -/
def execKernelEndReport (c : CoreId) (s : State) : Host.Outcome State Fault Refusal :=
  .next (match s.ends.find? c.val with
    | some r => s.endIn c.val r
    | none =>
      if s.killedIdle c.val then
        let t := s.endKilled c.val
        match t.ends.find? c.val with
        | some r => t.endIn c.val r
        | none => t
      else s)

/-! ## Parking, saves and restores (R372 to R378) -/

/-- PARKED_NOTICE: the notice reaches the scheduler behind the core's fault reports (R36, R74, R372). -/
def execParkedNotice (c : CoreId) (s : State) : Host.Outcome State Fault Refusal :=
  .next (
    if s.parkedMsgs.contains c.val && s.saddleReports.all (fun r => r.core ≠ c.val) then
      { s with parkedMsgs := s.parkedMsgs.filter (· ≠ c.val) }.modCore c.val (fun k =>
        { k with sched := (match k.sched with | .parking => .parked | x => x) })
    else s)
/-- PARK_OVERDUE (R372). -/
def execParkOverdue (c : CoreId) (s : State) : Host.Outcome State Fault Refusal :=
  let p := s.partOf c.val
  let k := s.core c.val
  .next (match (s.schedOf p).holder c.val with
    | some w =>
      if k.sched = .parking && k.preemptAt + fld (s.schedOf p).ctl 48 16 < s.mashOf c.val && !w.late.contains c.val then
        (s.report { s.coreReport c.val codeParkOverdue with tag := w.krec.kid }).modSched p (fun d => { d with
          placed := d.placed.map (fun x => if x.krec.kid = w.krec.kid then { x with late := x.late ++ [c.val] } else x) })
      else s
    | none => s)
/-- A withdrawn SEND of core `src` goes to channel `chan` of core `c`. -/
def Core.withdrawnTo (k : Core) (c chan : Nat) : Bool :=
  Core.slotNums.any (fun n =>
    let x := k.slot n
    x.withdrawn && isSend x.desc && !wRemote x.desc && wCore x.desc = c && wChan x.desc = chan)
/-- Core `src` has a withdrawn SEND to a channel of core `c`, in its slots or in a context saved from it (R374). -/
def State.sendsWithdrawn (s : State) (src c chan : Nat) : Bool :=
  (s.core src).withdrawnTo c chan ||
    s.saved.any (fun e => e.1 / 2 ^ 32 = src && ({ slots := e.2.slots } : Core).withdrawnTo c chan)
/-- Every withdrawn RECV has its flush flit, or its source has no withdrawn SEND to it (R374). -/
def State.flushed (s : State) (c : Nat) : Bool :=
  Core.slotNums.all (fun n =>
    let x := (s.core c).slot n
    !(x.withdrawn && kindOf x.desc = 11) || x.flushed || !s.sendsWithdrawn (wCore x.desc) c (wChan x.desc))
/-- SAVE_START: the save of a parked core begins once every instance of its kernel has parked (R374); no save touches a core
that may hold soft targets or has unreleased bucket buffers (R2, R202, R300). -/
def execSaveStart (c : CoreId) (s : State) : Host.Outcome State Fault Refusal :=
  let p := s.partOf c.val
  .next (match (s.schedOf p).holder c.val with
    | some w =>
      if (w.state = .parking || w.state = .saving) && (s.core c.val).sched = .parked &&
          w.holds.all (fun d => (s.core d).sched = .parked || (s.core d).sched = .saving) &&
          s.flushed c.val && !(s.core c.val).keeps then
        ((s.charge p).modSched p (fun d => { d with placed := d.placed.map (fun x =>
          if x.krec.kid = w.krec.kid then { x with state := .saving } else x) })).modCore c.val (fun k => { k with sched := .saving })
      else s
    | none => s)
/-- Lines that a save skips: the reserve region and the kernel's resident hot set (R375). -/
def State.unsavedLine (s : State) (c : Nat) (w : Placed) (line : Nat) : Bool :=
  let p := s.partOf c
  let hot := (s.schedOf p).hot.any (fun h => h.id = w.krec.hotset && w.krec.hotset ≠ 0 && h.cores.contains c &&
    h.line ≤ line && line < h.line + h.len)
  spLines ≤ line + s.resvLines p || hot
/-- Lines and rows that a save copies. -/
def State.savedLines (s : State) (c : Nat) (w : Placed) : List Nat := (s.core c).sp.live.filter (fun l => !s.unsavedLine c w l)
/-- An uncorrectable word or entry that a save reads: its line or row (R375). -/
def State.saveBad (s : State) (c : Nat) (w : Placed) : Option Nat :=
  let k := s.core c
  match (s.savedLines c w).find? (fun l => k.spBad (256 * l) 256) with
  | some l => some l
  | none => k.sp.liveRows.find? (fun r => (List.range 256).any (fun j => k.accErr r j = 2))
/-- The context of a core as its save copies it (Table 13.2); what the record does not list stays with the core. -/
def State.contextOf (s : State) (c : Nat) (w : Placed) : SavedCtx :=
  let k := s.core c
  let lines := s.savedLines c w
  { part := s.partOf c
    kid := w.krec.kid
    seq := { k.seq with outbound := [] }
    slots := k.slots.filter (fun e => e.2.state = .gated)
    sp := { mem := k.sp.mem.filter (fun e => lines.contains (e.1 / 256)), live := lines, liveRows := k.sp.liveRows, err := [] }
    mash := k.mash
    vec := k.vec
    cask := k.cask
    dwq := k.dwq
    phaseCtl := k.phase.ctl
    segCtl := k.phase.segCtl
    fpflags := k.fpflags
    cinch := k.cinch
    posted := k.welt.posted }
/-! ## The save area (R375, Tables 5.3, 6.5, 13.2; log entry 32) -/

/-- First byte of a core's save area (R375, Table 13.8). -/
def State.saveArea (s : State) (c : Nat) : Nat :=
  (s.schedOf (s.partOf c)).saveBase.get 0 (bayOf c) + c % 30 * 0x2420000
/-- The header of the context record: KERNEL_ID, instance, line and row counts, record length. -/
def saveHeader (kid inst lines rows : Nat) : List Byte :=
  natBytes 4 kid ++ natBytes 4 inst ++ natBytes 4 lines ++ natBytes 4 rows ++ natBytes 4 124896
/-- A set of numbers below `8 * n` as `n` bytes of bits. -/
def bitBytes (n : Nat) (l : List Nat) : List Byte := natBytes n (l.foldl (fun x i => x + 2 ^ i) 0)
/-- An accumulator row as 128-bit entries with STATE, RES and the ECC bits `ecc`, whose code no rule states. -/
def Core.rowImage (k : Core) (row : Nat) (ecc : BitVec 2048) : List Byte :=
  (List.range 256).flatMap (fun j =>
    let e := k.acc row j
    natBytes 16 (e.value.toNat + e.st.toNat * 2 ^ 96 + fld ecc (8 * j) 8 * 2 ^ 100 + e.res.toNat * 2 ^ 108))
/-- Write `n` bytes whose layout no rule states. -/
def State.writeFree (s : State) (a n : Nat) : State :=
  let r := s.draw (8 * n)
  r.2.modHbm (fun h => h.write a (natBytes n r.1.toNat))
/-- A save writes the context record, the saved lines and the saved rows into the core's save area, in ascending order; where no
region maps the area, its bytes are counted and reported and go nowhere (R375, R433). -/
def State.writeSaveArea (s : State) (c : Nat) (w : Placed) : State :=
  let k := s.core c
  let a := s.saveArea c
  let lines := s.savedLines c w
  let rows := k.sp.liveRows
  let regs := (List.range 32).flatMap (fun i => lrImage (k.lr i)) ++ natBytes 8 k.vec.seed.toNat ++ natBytes 4 k.vec.step.toNat
  let s0 := s.sysRefused (fun code => s.coreReport c code) a (s.hbm.sysCheck a (131072 + 256 * lines.length + 4096 * rows.length))
  let s1 := s0.modHbm (fun h => h.write a (saveHeader w.krec.kid (w.cores.idxOf c) lines.length rows.length))
  let s2 := s1.modHbm (fun h => h.write (a + 256) (bitBytes 16384 lines ++ bitBytes 128 rows))
  let s3 := ((s2.writeFree (a + 16768) 104960).modHbm (fun h => h.write (a + 121728) regs)).writeFree (a + 123808) 1088
  let s4 := lines.zipIdx.foldl (fun s e =>
    s.modHbm (fun h => h.write (a + 131072 + 256 * e.2) (k.spRead (256 * e.1) 256))) s3
  rows.zipIdx.foldl (fun s e =>
    let r := s.draw 2048
    r.2.modHbm (fun h => h.write (a + 131072 + 256 * lines.length + 4096 * e.2) (k.rowImage e.1 r.1))) s4

/-- The core after its save: free, with FPFLAGS cleared; lines that the save skips stay live, posted lines are posted no longer
(R373, R375; log entry 32). -/
def Core.afterSave (k : Core) (skipped : Nat → Bool) : Core :=
  { k with
    sched := .free
    fpflags := 0
    slots := k.slots.filter (fun e => e.2.state = .faulted)
    seq := { k.seq with kernel := none, stall := none, parking := false, parked := false, preempt := false, mbox := [] }
    mash := { k.mash with stat := none, shadow := none, groups := [] }
    dwq := { k.dwq with started := none, running := [], fullForce := none, head := k.dwq.pushed }
    welt := { k.welt with posted := k.welt.next }
    sp := { k.sp with live := k.sp.live.filter skipped, liveRows := [] } }
/-- Bytes that a save or restore of a core moves. -/
def savedBytes (lines rows : Nat) : Nat := lines * 256 + rows * 4096 + 131072
def State.acctSave (s : State) (client bytes : Nat) : State :=
  (s.acctAdd client 13 bytes).modGlob (fun g => { g with acctSave := satAdd 64 g.acctSave bytes })
/-- SAVE_DONE: the context is in the save area and the core is free, or an uncorrectable word ends the kernel (R375, R378); a core with
a Hopback channel enabled since stays where it is (R2). -/
def execSaveDone (c : CoreId) (s : State) : Host.Outcome State Fault Refusal :=
  let p := s.partOf c.val
  .next (match (s.schedOf p).holder c.val with
    | some w =>
      if w.state = .saving && (s.core c.val).sched = .saving && !(s.core c.val).softPinned then
        match s.saveBad c.val w with
        | some l =>
          (((s.charge p).report { s.coreReport c.val codeMemUncorr with addr := l }).killKernel p w.krec.kid).schedule p
        | none =>
          let lines := s.savedLines c.val w
          let s0 := s.charge p
          let s1 := s0.modCore c.val (fun k => k.sp.liveRows.foldl (fun k r => k.accFix r)
            (lines.foldl (fun k l => k.spFix (256 * l) 256) k))
          let s2 := { s1.writeSaveArea c.val w with
            saved := s1.saved.set (savedKey c.val w.krec.kid) (s1.contextOf c.val w) }
          let s3 := (s2.acctSave w.krec.client (savedBytes lines.length (s.core c.val).sp.liveRows.length)).modCore c.val (fun k =>
            k.afterSave (s.unsavedLine c.val w))
          let moved := insertSet c.val w.moved
          let all := w.unended.all (fun d => moved.contains d)
          (s3.modSched p (fun d => { d with placed := d.placed.map (fun x =>
            if x.krec.kid = w.krec.kid then
              { x with moved := if all then [] else moved, state := if all then .saved else .saving }
            else x) })).schedule p
      else s
    | none => s)

/-- Lines whose content a restore does not bring back (R377). -/
def State.lostLines (s : State) (c : Nat) (w : Placed) (kept : List Nat) : List Nat :=
  (List.range spLines).filter (fun l => !kept.contains l && !s.unsavedLine c w l)
/-- The saved parts return to the core; lines that the save skipped stay live as they are (R377). Messages that wait in the
core are no part of the record (Table 3.1, R92). -/
def Core.restoreCtx (k : Core) (x : SavedCtx) (skipped : Nat → Bool) : Core :=
  { k with
    seq := { x.seq with icache := k.seq.icache, outbound := k.seq.outbound, parking := true, parked := true }
    slots := x.slots.foldl (fun m e => m.set e.1 e.2) (k.slots.filter (fun e => e.2.state = .faulted))
    sp := { k.sp with mem := mergeMem k.sp.mem x.sp.mem x.sp.live,
                       err := k.sp.err.filter (fun e => !x.sp.live.contains (e.1 / 32)),
                       live := (k.sp.live.filter skipped).foldl (fun l i => insertSet i l) x.sp.live, liveRows := x.sp.liveRows }
    mash := { x.mash with stat := none, shadow := none,
                          err := k.mash.err.filter (fun e => !x.sp.liveRows.contains (e.1 / 256)), accCe := k.mash.accCe, chkSkip := k.mash.chkSkip,
                          chkFail := k.mash.chkFail, resFail := k.mash.resFail }
    vec := { x.vec with elems := k.vec.elems, transSub := k.vec.transSub, lrTrunc := k.vec.lrTrunc }
    cask := { x.cask with discStreams := k.cask.discStreams, discUnits := k.cask.discUnits, spills := k.cask.spills }
    dwq := { x.dwq with fullStall := k.dwq.fullStall, refill := k.dwq.refill, discarded := k.dwq.discarded,
                        entryFault := k.dwq.entryFault, mcyc := k.dwq.mcyc, idleSince := k.dwq.idleSince }
    phase := { k.phase with ctl := x.phaseCtl, segCtl := x.segCtl, ran := true }
    welt := { k.welt with posted := x.posted, next := x.posted, ahead := [], inputBad := [], inputCrc := [] }
    cinch := setFld (setFld k.cinch 1 4 (fld x.cinch 1 4)) 5 3 (fld x.cinch 5 3) }
/-- The phase counters are brought up to date before PHASE_CTL changes (R254). -/
def Core.phaseSync (k : Core) (mash : Nat) : Core :=
  let p := fld k.phase.ctl 0 4
  { k with phase := { k.phase with cyc := k.phase.cyc.set p (k.phaseCyc mash p), mark := mash } }
/-- One instance of a kernel whose restore has met an uncorrectable sector faults: on its core where it is back, else in its saved
context. -/
def State.faultInstance (s : State) (w : Placed) (c : Nat) : State :=
  if w.moved.contains c then s.seqFault c codeMemUncorr 0
  else
    let key := savedKey c w.krec.kid
    let s1 := { s with saved := s.saved.map (fun (e : Nat × SavedCtx) =>
      if e.1 = key then (e.1, { e.2 with seq := { e.2.seq with faulted := some codeMemUncorr, stall := none } }) else e) }
    s1.report (s1.coreReport c codeMemUncorr)
/-- An uncorrectable sector under a context restore faults every instance of the kernel with MEM_UNCORR (Table 16.1). -/
def State.restoreFault (s : State) (c : Nat) : State :=
  match (s.schedOf (s.partOf c)).holder c with
  | some w => if w.state = .restoring then w.unended.foldl (fun s d => s.faultInstance w d) s else s
  | none => s
/-- The read of a save area meets an uncorrectable sector (Table 16.1). -/
def State.readSaveArea (s : State) (c : Nat) (x : SavedCtx) : State :=
  match s.hbm.badIn (s.saveArea c) (savedBytes x.sp.live.length x.sp.liveRows.length) with
  | some a => (s.hbmUe (s.coreReport c codeMemUncorr) a).restoreFault c
  | none => s
/-- RESTORE_DONE: one core has its context back; with the last one the kernel goes on (R377, R378). -/
def execRestoreDone (c : CoreId) (s : State) : Host.Outcome State Fault Refusal :=
  let p := s.partOf c.val
  .next (match (s.schedOf p).holder c.val with
    | some w =>
      match s.saved.find? (savedKey c.val w.krec.kid) with
      | some x0 =>
        if w.state = .restoring && (s.core c.val).sched = .restoring && !w.moved.contains c.val then
          let t := (s.charge p).readSaveArea c.val x0
          let x := t.saved.get x0 (savedKey c.val w.krec.kid)
          let s0 := t.scramble c.val (s.lostLines c.val w x.sp.live)
          let s1 := (s0.modCore c.val (fun k => (k.phaseSync (s.mashOf c.val)).restoreCtx x (s.unsavedLine c.val w))).acctSave w.krec.client
            (savedBytes x.sp.live.length x.sp.liveRows.length)
          let moved := insertSet c.val w.moved
          (s1.modSched p (fun d => { d with placed := d.placed.map (fun y =>
            if y.krec.kid = w.krec.kid then { y with moved := moved } else y) })).finishRestores p
        else s
      | none => s
    | none => s)

/-! ## Energy (R381) -/

/-- Apportion energy by weights, rounded down; what is left over goes to client 0. -/
def State.apportion (s : State) (energy : Nat) (ws : List (Nat × Nat)) : State :=
  let total := ws.foldl (fun n w => n + w.2) 0
  if total = 0 then s.acctAdd 0 14 energy
  else
    let given := ws.foldl (fun n w => n + energy * w.2 / total) 0
    (ws.foldl (fun s w => s.acctAdd w.1 14 (energy * w.2 / total)) s).acctAdd 0 14 (energy - given)
/-- ACCOUNT_INTERVAL: the energy of bays, links, host port and the rest in an interval of 100,000 counts, in 2⁻¹⁶ mJ (R381,
R523). -/
def execAccountInterval (bays : List Nat) (link host other : Nat) (s : State) : Host.Outcome State Fault Refusal :=
  let s0 := s.chargeAll
  let g := s0.glob
  let s1 := (List.range 12).foldl (fun s b =>
    let e := bays.getD b 0
    (s.apportion e ((g.heldInt.filter (fun h => h.1 / 1024 = b)).map (fun h => (h.1 % 1024, h.2)))).modBay b
      (fun x => { x with energy := x.energy + e })) s0
  let by_ := fun (k : Nat) => (g.bytesInt.filter (fun h => h.1 % 2 = k)).map (fun h => (h.1 / 2, h.2))
  let s2 := ((s1.apportion link (by_ 0)).apportion host (by_ 1)).acctAdd 0 14 other
  .next (s2.modGlob (fun x => { x with
    heldInt := []
    bytesInt := []
    acctEnergy := satAdd 64 x.acctEnergy ((bays.take 12).foldl (· + ·) 0 + link + host + other) }))

end Sys2Proof.Machine
end

