-- ==== Sys2Proof/Machine/Security.lean ====
section
/-! DEFINITION. Identity, firmware, security commands, physical presence, sealing, debug, measurement (chapter 19). -/

namespace Sys2Proof.Machine

def State.modSec (s : State) (f : Security → Security) : State := { s with sec := f s.sec }

/-! ## Results (Table 19.5) -/

def secOk : Nat := 0
def secBusy : Nat := 1
def secBad : Nat := 2
def secSig : Nat := 3
def secRollback : Nat := 4
def secTimeout : Nat := 5
def secNoSlot : Nat := 6
def secStale : Nat := 7
def secFlash : Nat := 8

/-! ## Measurement (R497) -/

def digestBytes (d : BitVec 512) : List Byte := natBytes 64 d.toNat
/-- Extend MRn and append to the event log (R497, Table 19.3). -/
def State.extend (s : State) (n addr bytes handle gen : Nat) (digest : BitVec 512) : State :=
  s.modSec (fun x =>
    let old := x.mr.get 0 n
    let m := digestBytes old ++ natBytes 1 n ++ natBytes 8 addr ++ natBytes 8 bytes ++ digestBytes digest
    let e : LogEntry := { cls := n, handle := handle, gen := gen, addr := addr, bytes := bytes, digest := digest }
    let room := decide (x.log.length < 4096)
    { x with
      mr := x.mr.set n (sha3 m)
      log := if room then x.log ++ [e] else x.log
      logCount := if room then x.logCount + 1 else x.logCount
      logOverflow := x.logOverflow || !room })

/-! ## Identity (R486, R487) -/

/-- The seed of the identity key pair: the ASCII string "VGX1100-ID" and the device secret, hashed (R486). -/
def identSeed : List Byte :=
  (digestBytes (sha3 ([0x56, 0x47, 0x58, 0x31, 0x31, 0x30, 0x30, 0x2D, 0x49, 0x44] ++ natBytes 32 Config.deviceSecret.toNat))).take 32
def identKey : List Byte := Config.mldsaPublic identSeed
def identOf : BitVec 512 := sha3 identKey
/-- HP_MAC: 0x02 and bytes 0 to 4 of IDENT (R487). -/
def macOf (ident : BitVec 512) : BitVec 48 := BitVec.ofNat 48 (0x02 * 2 ^ 40 + fld ident 0 40)

/-! ## The staging range (R489, R509) -/

/-- Bytes of the staging range: the first 4 GiB of H00 and of H01, in NEAR mode (R489, R509). -/
def stageBytes : Nat := 2 * 4294967296
/-- Place of byte `a` of the staging range. -/
def stagePlace (a : Nat) : Nat := a / 4096 % 2 * stackBytes + a / 4096 / 2 * 4096 + a % 4096
/-- Bytes of the staging range. -/
def State.stage (s : State) (o n : Nat) : List Byte := (List.range n).map (fun i => memByte s.hbm.mem (stagePlace (o + i)))
/-- Write bytes of the staging range. -/
def Hbm.stageWrite (h : Hbm) : Nat → List Byte → Hbm
  | _, [] => h
  | a, b :: bs => Hbm.stageWrite { h with mem := memWrite h.mem (stagePlace a) [b] } (a + 1) bs

/-! ## The command interface (R492, R493) -/

/-- End a command with its result. -/
def State.secDone (s : State) (result : Nat) : State :=
  s.modSec (fun x => { x with
    state := 3, result := result, runMs := 0, seenHigh := false
    sigFail := if result = secSig || result = secRollback then satAdd 16 x.sigFail 1 else x.sigFail })
/-- The buffer of a command can be used: 16 KiB, a multiple of 64, mapped (R492). -/
def State.bufOk (s : State) (buf : Nat) : Bool :=
  buf % 64 = 0 && (if s.sec.recovery then decide (buf + 16384 ≤ stageBytes) else
    (sectorsOf buf 16384).all (fun a => (s.hbm.find a).isSome))
/-- Data of a command; in RECOVERY the buffer lies in the staging range, the only HBM there is (R489; log entry 82). -/
def State.cmdData (s : State) (buf n : Nat) : State × List Byte := if s.sec.recovery then (s, s.stage buf n) else s.n1Read buf n
/-- Write a response from offset 8,192 of the buffer (R492). -/
def State.cmdReply (s : State) (buf : Nat) (bs : List Byte) : State :=
  if s.sec.recovery then s.modHbm (fun h => h.stageWrite (buf + 8192) bs) else s.sysWrite s.pkgReport (buf + 8192) bs
/-- Accept a command: BUSY while one is PENDING or RUNNING, BAD_CMD for a buffer that cannot be used. -/
def State.secCmd (s : State) (buf : Nat) (f : State → State) : State :=
  if s.sec.state = 1 || s.sec.state = 2 then s.modSec (fun x => { x with result := secBusy })
  else if s.bufOk buf then f s else s.secDone secBad
/-- Accept a presence command: it waits for its run of low samples (R493). -/
def State.secPend (s : State) (op buf : Nat) : State :=
  s.secCmd buf (fun s => s.modSec (fun x => { x with
    state := 1, result := 0, runMs := 0, pendOp := op, pendBuf := buf, pendAt := s.now, seenHigh := false, samples := 0 }))

/-! ## Commands without presence -/

def popCount4 (n : Nat) : Nat := n % 2 + n / 2 % 2 + n / 4 % 2 + n / 8 % 2
/-- LIFECYCLE: some owner slot is provisioned and not revoked. -/
def Security.owned (x : Security) : Bool := (List.range 4).any (fun i => x.ownerSet / 2 ^ i % 2 = 1 && x.ownerRev / 2 ^ i % 2 = 0)
/-- Bytes 0 to 535 of the attestation report (Table 19.4). -/
def State.report0 (s : State) (nonce : List Byte) : List Byte :=
  let x := s.sec
  natBytes 2 1 ++ natBytes 2 s.links.pkg.toNat ++
  natBytes 1 (b2n x.sealed_ + 2 * b2n x.dbgOpen + 4 * x.scope + 16 * b2n x.recovery + 32 * b2n x.logOverflow + 64 * b2n x.owned) ++
  natBytes 1 (x.ownerSet + 16 * x.ownerRev) ++ natBytes 2 x.imageSvn ++ natBytes 1 x.svnFuse ++ natBytes 3 0 ++
  natBytes 4 x.logCount ++ natBytes 8 s.now ++ nonce ++ digestBytes x.ident ++
  (List.range 5).flatMap (fun i => digestBytes (x.mr.get 0 i)) ++ natBytes 64 0
/-- ATTEST: the signed report (R500). -/
def execAttest (buf : BitVec 41) (s : State) : Host.Outcome State Fault Refusal :=
  .next (s.secCmd buf.toNat (fun s =>
    let q := s.cmdData buf.toNat 64
    let r := q.1.report0 q.2
    (q.1.cmdReply buf.toNat (r ++ Config.mldsaSign identSeed r)).secDone secOk))
/-- An event log entry as bytes (Table 19.3). -/
def LogEntry.bytes96 (e : LogEntry) : List Byte :=
  natBytes 1 e.cls ++ natBytes 3 0 ++ natBytes 4 e.handle ++ natBytes 2 e.gen ++ natBytes 6 0 ++ natBytes 8 e.addr ++
    natBytes 8 e.bytes ++ digestBytes e.digest
/-- LOG_READ: event log entries (R497). -/
def execLogRead (buf : BitVec 41) (s : State) : Host.Outcome State Fault Refusal :=
  .next (s.secCmd buf.toNat (fun s =>
    let q := s.cmdData buf.toNat 8
    let n := bytesNat (q.2.drop 4)
    if 1 ≤ n && n ≤ 128 then
      (q.1.cmdReply buf.toNat (((s.sec.log.drop (bytesNat (q.2.take 4))).take n).flatMap (·.bytes96))).secDone secOk
    else q.1.secDone secBad))
/-- IDENTITY: the public key and the certificate (R487). -/
def execIdentity (buf : BitVec 41) (s : State) : Host.Outcome State Fault Refusal :=
  .next (s.secCmd buf.toNat (fun s => (s.cmdReply buf.toNat (identKey ++ Config.certificate)).secDone secOk))
/-- The result of the image check of R488 over the staging range. -/
def State.imageCheck (s : State) : Nat :=
  let h := s.stage 0 8192
  let f := fun (a n : Nat) => bytesNat ((h.drop a).take n)
  let plen := f 8 8
  let vkey := (h.drop 192).take 2592
  let good := f 0 4 = 0x56475846 && f 4 2 = 1 && f 6 2 ≤ 128 && 1 ≤ plen && plen ≤ 2147483648 && f 80 112 = 0 && f 7411 781 = 0 &&
    sha3 vkey = Config.vendorKeyHash && Config.mldsaVerify vkey (h.take 2784) ((h.drop 2784).take 4627) &&
    digestBytes (sha3 (s.stage 8192 plen)) = (h.drop 16).take 64
  if !good then secSig else if f 6 2 < s.sec.svnFuse then secRollback else secOk
/-- FW_INSTALL: the staged image is checked, written to flash, read back and checked again; it runs from the next reset that reaches
Saddle (R490). -/
def execFwInstall (buf : BitVec 41) (flashOk : Bool) (s : State) : Host.Outcome State Fault Refusal :=
  .next (s.secCmd buf.toNat (fun s =>
    if s.imageCheck = secOk then
      let s := s.flashWrite (8192 + bytesNat (((s.stage 0 8192).drop 8).take 8))
      if flashOk then (s.modSec (fun x => { x with imageGood := true, imageHdr := some (s.stage 0 8192) })).secDone secOk
      else (s.modSec (fun x => { x with imageGood := false, imageHdr := none })).secDone secFlash
    else s.secDone s.imageCheck))
/-- DEBUG_CHALLENGE: a fresh nonce (R495). -/
def execDebugChallenge (buf : BitVec 41) (s : State) : Host.Outcome State Fault Refusal :=
  .next (s.secCmd buf.toNat (fun s =>
    let n := Config.nonceSource s.sec.nonces
    ((s.modSec (fun x => { x with nonce := some n, nonceAt := s.now, nonces := x.nonces + 1 })).cmdReply buf.toNat n).secDone secOk))
/-- Extend MR4 with the data of a command (R497). -/
def State.extendCmd (s : State) (buf : Nat) (data : List Byte) : State := s.extend 4 buf data.length 0 0 (sha3 data)
/-- SEAL (R494). -/
def execSeal (buf : BitVec 41) (s : State) : Host.Outcome State Fault Refusal :=
  .next (s.secCmd buf.toNat (fun s =>
    ((s.modSec (fun x => { x with sealed_ := true })).extendCmd buf.toNat []).secDone secOk))

/-! ## Presence commands -/

/-- SVN_ADVANCE: accepted, to run under presence (R491, R493). -/
def execSvnAdvance (buf : BitVec 41) (s : State) : Host.Outcome State Fault Refusal := .next (s.secPend 5 buf.toNat)
/-- OWNER_PROVISION: accepted, to run under presence (R492, R493). -/
def execOwnerProvision (buf : BitVec 41) (s : State) : Host.Outcome State Fault Refusal := .next (s.secPend 6 buf.toNat)
/-- OWNER_REVOKE: accepted, to run under presence (R492, R493). -/
def execOwnerRevoke (buf : BitVec 41) (s : State) : Host.Outcome State Fault Refusal := .next (s.secPend 7 buf.toNat)
/-- DEBUG_OPEN: accepted, to run under presence (R493, R495). -/
def execDebugOpen (buf : BitVec 41) (s : State) : Host.Outcome State Fault Refusal := .next (s.secPend 9 buf.toNat)

/-- SVN_ADVANCE runs (R491). -/
def State.svnRun (s : State) (buf : Nat) : State :=
  ((s.modSec (fun x => { x with svnFuse := max x.svnFuse (min 128 x.imageSvn) })).extendCmd buf []).secDone secOk
/-- OWNER_PROVISION runs: the next free of 4 slots takes the key's hash (Table 19.2). -/
def State.ownerRun (s : State) (buf : Nat) : State :=
  match (List.range 4).find? (fun i => s.sec.ownerSet / 2 ^ i % 2 = 0) with
  | some i =>
    let q := s.cmdData buf 2592
    ((q.1.modSec (fun x => { x with
      ownerSet := x.ownerSet + 2 ^ i
      ownerHash := x.ownerHash.set i (sha3 q.2) })).extendCmd buf q.2).secDone secOk
  | none => s.secDone secNoSlot
/-- OWNER_REVOKE runs: slots are numbered 1 to 4, as DEBUG_OPEN names them. -/
def State.revokeRun (s : State) (buf : Nat) : State :=
  let q := s.cmdData buf 1
  let slot := bytesNat q.2
  if 1 ≤ slot && slot ≤ 4 then
    ((q.1.modSec (fun x => { x with ownerRev := x.ownerRev ||| 2 ^ (slot - 1) })).extendCmd buf q.2).secDone secOk
  else q.1.secDone secBad
/-- The key that a DEBUG_OPEN names: the running image's VKEY, or an owner slot that is provisioned and not revoked. -/
def Security.debugKey (x : Security) (key : Nat) : Option (List Byte) :=
  if key = 0 then some x.vkey
  else if x.ownerSet / 2 ^ (key - 1) % 2 = 1 && x.ownerRev / 2 ^ (key - 1) % 2 = 0 then
    some (Config.ownerKey (x.ownerHash.get 0 (key - 1)))
  else none
/-- DEBUG_OPEN runs (R495, R496). -/
def State.debugRun (s : State) (buf : Nat) : State :=
  let q := s.cmdData buf 4629
  let d := q.2
  let scope := bytesNat (d.take 1)
  let key := bytesNat ((d.drop 1).take 1)
  if scope = 0 || 2 < scope || 4 < key || (key ≠ 0 && scope = 2) then q.1.secDone secBad
  else
    match s.sec.nonce with
    | none => q.1.secDone secStale
    | some n =>
      let s1 := q.1.modSec (fun x => { x with nonce := none })
      if s.sec.nonceAt + 300000000000 ≤ s.now then s1.secDone secStale
      else
        match s.sec.debugKey key with
        | some k =>
          if Config.mldsaVerify k (n ++ digestBytes s.sec.ident ++ natBytes 1 scope) (d.drop 2) then
            ((s1.modSec (fun x => { x with dbgOpen := true, scope := scope })).extendCmd buf d).secDone secOk
          else s1.secDone secSig
        | none => s1.secDone secSig
/-- The pending command runs. -/
def State.secRun (s : State) : State :=
  let buf := s.sec.pendBuf
  match s.sec.pendOp with
  | 5 => s.svnRun buf
  | 6 => s.ownerRun buf
  | 7 => s.revokeRun buf
  | _ => s.debugRun buf
def State.presWindow (s : State) : Nat := fld s.sec.cfg 0 8 * 1000000000
/-- The next sample for the pending command is due: the first at its acceptance, one each millisecond from then on, up to the end of its
window (R493). -/
def State.sampleDue (s : State) : Bool :=
  s.sec.state = 1 && s.sec.pendAt + 1000000 * s.sec.samples ≤ s.now && s.now ≤ s.sec.pendAt + s.presWindow
/-- PRESENCE_SAMPLE: one sample of PRESENCE_N; the pending command runs at the 1,000th consecutive low sample (R493). -/
def execPresenceSample (high : Bool) (s : State) : Host.Outcome State Fault Refusal :=
  .next (
    if s.sampleDue then
      let s1 := s.modSec (fun x => { x with presence := high, samples := x.samples + 1 })
      if high then s1.modSec (fun x => { x with seenHigh := true, runMs := 0 })
      else if s1.sec.seenHigh then
        if 999 ≤ s1.sec.runMs then s1.secRun else s1.modSec (fun x => { x with runMs := x.runMs + 1 })
      else s1
    else s.modSec (fun x => { x with presence := high }))
/-- PRESENCE_TIMEOUT (R493). -/
def execPresenceTimeout (s : State) : Host.Outcome State Fault Refusal :=
  .next (if s.sec.state = 1 && s.sec.pendAt + s.presWindow ≤ s.now then
      (s.modSec (fun x => { x with presTmo := satAdd 16 x.presTmo 1 })).secDone secTimeout
    else s)
/-- NONCE_EXPIRY: a nonce is stale after 300 s (R495). -/
def execNonceExpiry (s : State) : Host.Outcome State Fault Refusal :=
  .next (if s.sec.nonce.isSome && s.sec.nonceAt + 300000000000 ≤ s.now then s.modSec (fun x => { x with nonce := none }) else s)

end Sys2Proof.Machine
end

