-- ==== Sys2Proof/Machine/Tap.lean ====
section
/-! DEFINITION. Tap: SAMPLE tiles, the rows of a pass, filtering and drawing, speculative verification, token lines and the
tokens passed to N1 (R63, R335 to R348). -/

namespace Sys2Proof.Machine

/-! ## Requests, models and the rows of a pass (R336) -/

def Request.id (r : Request) : Nat := r.jrec.req.toNat
def Serve.req (v : Serve) (id : Nat) : Option Request := v.reqs.find? (fun r => r.id = id)
def State.modReq (s : State) (p id : Nat) (f : Request → Request) : State :=
  s.modServe p (fun v => { v with reqs := v.reqs.map (fun r => if r.id = id then f r else r) })
def Serve.model (v : Serve) (m : Nat) : Option Model := v.models.find? m
def State.modModel (s : State) (p m : Nat) (f : Model → Model) : State :=
  s.modServe p (fun v => { v with models := v.models.map (fun e => if e.1 = m then (e.1, f e.2) else e) })
/-- Tokens of a request's own context and its prefix at its start. -/
def Request.promptEnd (r : Request) : Nat := r.start + r.jrec.prompt
/-- p: the first position not yet emitted (R342). -/
def Request.nextPos (r : Request) : Nat := r.promptEnd + r.emitted
/-- Positions whose KV counts as context: the last emitted token is written in the next step. -/
def Request.context (r : Request) : Nat := r.promptEnd - r.promptLeft + (r.emitted - 1)
/-- The requests of a model that hold slots, in ascending slot order. -/
def Serve.slotted (v : Serve) (m : Nat) : List Request :=
  (List.range 1024).filterMap (fun n => v.reqs.find? (fun r => r.slot = some n && r.jrec.model = m))
/-- Rows a slot contributes to pass `j`: 0 the target pass, 1 to 16 the draft passes (Table 12.4). -/
def Request.rowsIn (r : Request) (j : Nat) : Nat := if j = 0 then r.rowsNow else if j ≤ r.kNow then 1 else 0
/-- The packed rows of a pass: request and row of its slot (R336). -/
def Serve.passRows (v : Serve) (m j : Nat) : List (Nat × Nat) :=
  (v.slotted m).flatMap (fun r => (List.range (r.rowsIn j)).map (fun i => (r.id, i)))
/-- The model whose classes and dies a pass has: the draft model for a draft pass. -/
def Serve.passModel (v : Serve) (m j : Nat) : Option ModelRec :=
  match v.model m with
  | none => none
  | some x => if j = 0 then some x.mrec else (v.model x.mrec.draft).map (·.mrec)
/-- The die that samples a packed row among `n` rows (R336). -/
def samplingDie (x : ModelRec) (n row : Nat) : Nat := x.sdies.getD (row / 64 * x.sdies.length / max 1 (cdiv n 64)) 0
/-- The resident TOKEN model a pass on a die belongs to: the lowest-numbered one with rows in the pass whose sampling dies
contain the die (log entry 33). -/
def Serve.tapModel (v : Serve) (die j : Nat) : Option Nat :=
  (List.range 16).find? (fun m =>
    match v.model m, v.passModel m j with
    | some x, some y => !x.mrec.field && (j = 0 || x.mrec.draftEn) && y.sdies.contains die && !(v.passRows m j).isEmpty
    | _, _ => false)
def rowKey (m j row : Nat) : Nat := (m * 17 + j) * 32768 + row
/-- A row of a pass at its Tap. -/
def State.tapRow (s : State) (p m j row : Nat) : TapRow :=
  let v := s.serveOf p
  match v.passModel m j with
  | some x => (s.die (samplingDie x (v.passRows m j).length row)).rows.get {} (rowKey m j row)
  | none => {}
def State.modTapRow (s : State) (p m j row : Nat) (f : TapRow → TapRow) : State :=
  let v := s.serveOf p
  match v.passModel m j with
  | some x => s.modDie (samplingDie x (v.passRows m j).length row) (fun d =>
      { d with rows := d.rows.set (rowKey m j row) (f (d.rows.get {} (rowKey m j row))) })
  | none => s

/-! ## tap_filter and tap_draw (R338) -/

/-- Candidates with their weights in units of 2⁻¹⁴⁹. -/
abbrev Cands := List (Nat × Nat)
/-- Order of FP32 codes: −0 and +0 compare equal. -/
def codeKey (c : Nat) : Int := if c / 2 ^ 31 % 2 = 1 then -((c % 2 ^ 31 : Nat) : Int) else ((c % 2 ^ 31 : Nat) : Int)
/-- A non-negative finite FP32 code in units of 2⁻¹⁴⁹. -/
def units149 (c : Nat) : Nat :=
  let e := c / 2 ^ 23 % 256
  if e = 0 then c % 2 ^ 23 else (2 ^ 23 + c % 2 ^ 23) * 2 ^ (e - 1)
def oneW : Nat := units149 0x3F800000
/-- An FP32 code that is NaN or infinite. -/
def codeBad (c : Nat) : Bool := c / 2 ^ 23 % 256 = 255
/-- Insert in descending order, ties to the lower class. -/
def insertTop (x : Nat × Nat) : List (Nat × Nat) → List (Nat × Nat)
  | [] => [x]
  | y :: l =>
    if codeKey y.2 < codeKey x.2 || (codeKey y.2 = codeKey x.2 && x.1 < y.1) then x :: y :: l else y :: insertTop x l
/-- The first `n` in descending order. -/
def topOf (n : Nat) (zs : List (Nat × Nat)) : List (Nat × Nat) := zs.foldl (fun l x => (insertTop x l).take n) []
def weightSum (l : Cands) : Nat := l.foldl (fun n x => n + x.2) 0
/-- The shortest run from the first candidate whose sum reaches the bound. -/
def nucleus (bound acc : Nat) : Cands → Cands
  | [] => []
  | x :: l => x :: (if (acc + x.2) * oneW < bound then nucleus bound (acc + x.2) l else [])
/-- rnd(a ∘ b) of FP32 codes. -/
def rndMul (a b : Nat) : Nat := (f32 ((f32v a).mul (f32v b))).1
def rndSub (a b : Nat) : Nat := (f32 ((f32v a).sub (f32v b))).1
/-- tap_filter over (class, FP32 logit); none where a scaled logit at the top is infinite, for which R338 states no result. -/
def tapFilter (y : List (Nat × Nat)) (j : JoinRec) : Option Cands :=
  if j.rt.toNat = 0x7F800000 then some ((topOf 1 y).map (fun x => (x.1, oneW)))
  else
    let c := topOf (if j.topk = 0 then 1024 else j.topk) (y.map (fun x => (x.1, rndMul x.2 j.rt.toNat)))
    let z0 := (c.headD (0, 0)).2
    if codeBad z0 then none
    else
      let w := c.map (fun x => (x.1, units149 (f32 (hopExp (rndSub x.2 z0))).1))
      let n := nucleus (units149 j.topp.toNat * weightSum w) 0 w
      some (n.zipIdx.filterMap (fun x => if x.2 = 0 || units149 j.minp.toNat ≤ x.1.2 then some x.1 else none))
/-- The 24-bit word of a draw (R338, R339). -/
def drawWord (seed : Word) (pos purpose : Nat) : Nat := philoxWord0 seed.toNat 0xFFFE pos purpose / 256
def drawFrom (u total acc : Nat) : Cands → Option Nat
  | [] => none
  | x :: l => if u * total < (acc + x.2) * 2 ^ 24 then some x.1 else drawFrom u total (acc + x.2) l
/-- tap_draw. -/
def tapDraw (c : Cands) (seed : Word) (pos purpose : Nat) : Nat :=
  (drawFrom (drawWord seed pos purpose) (weightSum c) 0 c).getD 0
/-- The candidates of a row; where no result is stated, one free class of the model (log entry 34). -/
def State.cands (s : State) (classes : Nat) (y : List (Nat × BitVec 32)) (j : JoinRec) : State × Cands :=
  match tapFilter (y.map (fun x => (x.1, x.2.toNat))) j with
  | some c => (s, c)
  | none => let v := s.draw 20; (v.2, [(v.1.toNat % max 1 classes, oneW)])

/-! ## Speculation (R344 to R346) -/

def weightOf (c : Cands) (x : Nat) : Nat := match c.find? (fun e => e.1 = x) with | some e => e.2 | none => 0
/-- Drafts accepted, tested in order from position `p` (R344). -/
def acceptRun (seed : Word) (p : Nat) : List (Nat × Cands) → List Cands → Nat
  | d :: ds, t :: ts =>
    if drawWord seed p 2 * weightOf d.2 d.1 * weightSum t < weightOf t d.1 * weightSum d.2 * 2 ^ 24 then
      1 + acceptRun seed (p + 1) ds ts
    else 0
  | _, _ => 0
/-- The target's candidates with the weights of a rejected draft's position (R345). -/
def residual (t d : Cands) : Cands :=
  let r := t.map (fun e => (e.1, e.2 * weightSum d - weightOf d e.1 * weightSum t))
  if weightSum r = 0 then t else r
/-- k and the zero count after a pass with `a` of `k` accepted (R346). -/
def adaptK (kMax k zeros a : Nat) : Nat × Nat :=
  if a = 0 then (if zeros + 1 = 4 then (1, 0) else (k, zeros + 1))
  else if a = k then (min (2 * k) kMax, 0)
  else (k, 0)

/-! ## Emitting tokens (R345, R347, R348) -/

def flagFinal : Nat := 0x001
def flagEos : Nat := 0x002
def flagCancelled : Nat := 0x004
def flagPaused : Nat := 0x008
def flagDip : Nat := 0x020
def flagAccepted : Nat := 0x040
def flagNonfinite : Nat := 0x080
def flagNoToken : Nat := 0x100
/-- Tokens up to and with the first end token. -/
def cutEos (eos : List Nat) : List (Nat × Bool) → List (Nat × Bool)
  | [] => []
  | t :: l => if eos.contains t.1 then [t] else t :: cutEos eos l
/-- A bay of a sampling die of the model is in a dip (log entry 35). -/
def State.modelDip (s : State) (x : ModelRec) : Bool := x.sdies.any (fun d => (s.bay (d / 5)).dip)
/-- Tap emits tokens of a request in this step: cut after the first end token and at MAX_NEW and MAXCTX; with an end the
request leaves in this step (R329, R345). The tokens really emitted are answered as well. -/
def State.emitTokens (s : State) (p id die : Nat) (toks : List (Nat × Bool)) : State × List Nat :=
  let v := s.serveOf p
  match v.req id with
  | none => (s, [])
  | some r =>
    match v.model r.jrec.model with
    | none => (s, [])
    | some m =>
      let room := min (r.jrec.maxNew - r.emitted) (m.mrec.maxctx - r.nextPos)
      let l := (cutEos m.mrec.eos toks).take room
      let eosEnd := match l.getLast? with | some t => m.mrec.eos.contains t.1 | none => false
      let fin := eosEnd || l.length = room
      let dip := if s.modelDip m.mrec then flagDip else 0
      let n := l.length
      let out := l.zipIdx.map (fun e =>
        ({ cls := e.1.1, pos := r.nextPos + e.2, step := v.step.toNat, die := some die,
           flags := dip + (if e.1.2 then flagAccepted else 0) +
             (if e.2 + 1 = n then (if fin then flagFinal else 0) + (if eosEnd then flagEos else 0) else 0) } : Token))
      let last := if fin && l.isEmpty then
        [({ cls := 0, pos := r.nextPos, step := v.step.toNat, flags := dip + flagFinal + flagNoToken, die := some die } : Token)] else []
      (s.modReq p id (fun r =>
        { r with
          emitted := r.emitted + n
          fly := r.fly ++ out ++ last
          leaving := (if fin && r.leaving = 0 then 1 else r.leaving)
          leaveStep := (if fin && r.leaving = 0 then v.step.toNat else r.leaveStep) }), l.map (·.1))

/-! ## Token lines (R341) -/

/-- The entry of a row for its group's token line, once it is settled: a token, or −1 for a masked row. -/
def State.rowEntry (s : State) (p m j row : Nat) : Option (BitVec 32) :=
  let v := s.serveOf p
  let t := s.tapRow p m j row
  let gone := match (v.passRows m j)[row]? with
    | some e => (match v.req e.1 with | some r => r.noticed | none => true)
    | none => true
  if t.masked || gone then some (BitVec.ofInt 32 (-1)) else t.token.map (BitVec.ofNat 32)
/-- Send the token lines of a pass whose groups are settled; entries of rows left empty are free (log entry 36). -/
def State.sendLines (s : State) (p m j : Nat) : State :=
  let n := ((s.serveOf p).passRows m j).length
  (List.range (cdiv n 64)).foldl (fun s g =>
    match (s.serveOf p).model m with
    | none => s
    | some x =>
      if x.lines.contains (j * 1024 + g) then s
      else
        match (List.range (min 64 (n - 64 * g))).mapM (fun i => s.rowEntry p m j (64 * g + i)) with
        | none => s
        | some es =>
          let v := s.draw (32 * (64 - es.length))
          let rest := (List.range (64 - es.length)).map (fun i => BitVec.ofNat 32 (v.1.toNat / 2 ^ (32 * i)))
          let core := if j = 0 then x.mrec.feedTCore else x.mrec.feedDCore
          let chan := if j = 0 then x.mrec.feedTChan else x.mrec.feedDChan
          let s1 := v.2.modModel p m (fun y => { y with lines := (j * 1024 + g) :: y.lines })
          let die := match (s.serveOf p).passModel m j with | some y => samplingDie y n (64 * g) | none => 0
          { s1 with tapLines := s1.tapLines ++ [{ core := core, chan := chan, group := g, row0 := x.row0.get 0 j, die := die,
                                                  entries := es ++ rest }] }) s

/-! ## A sampled row (R338 to R340, R344, R345) -/

/-- Packed row of row `i` of a request's slot in a pass. -/
def Serve.rowOf (v : Serve) (m j id i : Nat) : Nat := (v.passRows m j).findIdx (fun e => e = (id, i))
/-- Settle a row. -/
def State.settleRow (s : State) (p m j row : Nat) (tok : Option Nat) : State :=
  s.modTapRow p m j row (fun t => { t with token := tok, masked := tok.isNone })
/-- Verify a speculating slot once its k + 1 target rows and its draft record are there. -/
def State.verify (s : State) (p id : Nat) : State :=
  let v := s.serveOf p
  match v.req id with
  | none => s
  | some r =>
    let m := r.jrec.model
    let k := r.kNow
    let rows := (List.range (k + 1)).map (fun i => v.rowOf m 0 id i)
    let ready := r.draftHere && r.leaving = 0 && !r.noticed && rows.all (fun w => (s.tapRow p m 0 w).sampled && !(s.tapRow p m 0 w).masked) &&
      rows.all (fun w => (s.tapRow p m 0 w).token.isNone)
    match ready, v.model m with
    | true, some x =>
      let q := rows.foldl (fun (a : State × List Cands) w =>
        let e := a.1.cands x.mrec.classes (a.1.tapRow p m 0 w).vals r.jrec; (e.1, a.2 ++ [e.2])) (s, [])
      let drafts := (List.range k).map (fun j => r.drafts.get (0, []) (j + 1))
      let a := acceptRun r.jrec.seed r.nextPos drafts q.2
      let t := q.2.getD a []
      let c := if a = k then t else residual t (drafts.getD a (0, [])).2
      let extra := tapDraw c r.jrec.seed (r.nextPos + a) 0
      let s1 := q.1.modReq p id (fun r =>
        { r with
          k := (adaptK r.jrec.kMax k r.zeros a).1
          zeros := (adaptK r.jrec.kMax k r.zeros a).2 })
      let e := s1.emitTokens p id (samplingDie x.mrec (v.passRows m 0).length (v.rowOf m 0 id 0)) ((drafts.take a).map (fun d => (d.1, true)) ++ [(extra, false)])
      rows.zipIdx.foldl (fun s w => s.settleRow p m 0 w.1 e.2[w.2]?) e.1
    | _, _ => s
/-- A row that holds CLASSES values is sampled (R337 to R340). `cl` is the client charged (R381). -/
def State.sampleRow (s : State) (p m j row die cl : Nat) : State :=
  let v := s.serveOf p
  let s := s.modTapRow p m j row (fun t => { t with sampled := true })
  match (v.passRows m j)[row]?, v.passModel m j with
  | some e, some x =>
    match v.req e.1 with
    | none => s
    | some r =>
      let t := s.tapRow p m j row
      if r.noticed then
        (s.settleRow p m j row none).modDie die (fun d => { d with suppressed := satAdd 16 d.suppressed 1 })
      else if t.vals.any (fun y => codeBad y.2.toNat) then
        let s1 := (s.settleRow p m j row none).modDie die (fun d => { d with nonfinite := satAdd 16 d.nonfinite 1 })
        if r.leaving ≠ 0 then s1
        else
          let w := s1.draw 20
          let tok : Token := { cls := w.1.toNat, pos := r.nextPos, flags := flagFinal + flagNonfinite, step := v.step.toNat, die := some die }
          let s2 := w.2.modReq p r.id (fun r =>
            { r with
              leaving := 5
              leaveStep := v.step.toNat
              fly := r.fly ++ [tok] })
          (List.range 17).foldl (fun s jj => (List.range (r.rowsIn jj)).foldl (fun s i =>
            let w := (s.serveOf p).rowOf m jj r.id i
            if (s.tapRow p m jj w).token.isNone then s.settleRow p m jj w none else s) s) s2
      else if r.leaving ≠ 0 && r.leaving ≠ 3 then s.settleRow p m j row none
      else
        let s1 := s.acctAdd cl 9 1
        if j ≠ 0 then
          let c := s1.cands x.classes t.vals r.jrec
          let tok := tapDraw c.2 r.jrec.seed (r.nextPos + j - 1) 1
          (c.1.modReq p r.id (fun r => { r with drafts := r.drafts.set j (tok, c.2) })).settleRow p m j row (some tok)
        else if r.kNow = 0 then
          let c := s1.cands x.classes t.vals r.jrec
          let g := c.1.emitTokens p r.id die [(tapDraw c.2 r.jrec.seed r.nextPos 0, false)]
          g.1.settleRow p m 0 row g.2.head?
        else s1.verify p r.id
  | _, _ => s

/-! ## SAMPLE and its tiles (R63, R335, R337) -/

/-- SAMPLE: Welt accepts a SAMPLE; its tiles reach Tap one by one (R55, R63). -/
def execSample (r : StreamRef) (s : State) : Host.Outcome State Fault Refusal :=
  .next (s.accept r.core.val r.slot.val (fun d => kindOf d = 12) (fun s _ =>
    s.modCore r.core.val (fun k => k.modSlot r.slot.val (fun x => { x with state := .active }))))
/-- Read the next tile of a SAMPLE from scratchpad, as FP32 codes. -/
def State.sampleRows (s : State) (c : Nat) (x : Slot) : Mv × List (List (BitVec 32)) :=
  let d := x.desc
  (List.range (dRows d)).foldl (fun (a : Mv × List (List (BitVec 32))) i =>
    let q := a.1.readRow c 0 [] (dLast d) (rowAddr 0 x.srcBase (dSstr d) (x.moved * dRows d + i)) (dSfmt d) (dCols d)
    (q.1, a.2 ++ [q.2.map (fun e => BitVec.ofNat 32 (if dSfmt d = 1 then e * 65536 else e))])) ({ s := s }, [])
/-- TAP_ROW: the stream faults and the die counts it; the report names the first line of the tile it stopped at (R74, R337). -/
def State.tapFault (s : State) (c n : Nat) : State :=
  let x := (s.core c).slot n
  (((s.modDie (dieOf c) (fun d => { d with rowFaults := satAdd 16 d.rowFaults 1 })).tilesAtFault c n 0).streamFault c n codeTapRow
    (x.srcBase + x.moved * dRows x.desc * dSstr x.desc))
/-- Tap takes a tile: its checks, its values, the rows it completes, the token lines they settle. -/
def State.tapTake (s : State) (c n : Nat) (x : Slot) (rows : List (List (BitVec 32))) : State :=
  let d := x.desc
  let die := dieOf c
  let p := s.partOf c
  let v := s.serveOf p
  let j := if bit d 243 then fld d 244 4 + 1 else 0
  let row0 := fld d 228 15 + x.moved * dRows d
  let cls0 := 256 * fld d 216 12
  match v.tapModel die j with
  | none => s.tapFault c n
  | some m =>
    match v.passModel m j with
    | none => s.tapFault c n
    | some y =>
      let total := (v.passRows m j).length
      let bad := total < row0 + dRows d || y.classes < cls0 + dCols d ||
        (List.range (dRows d)).any (fun i => samplingDie y total (row0 + i) ≠ die ||
          y.classes < (s.tapRow p m j (row0 + i)).vals.length + dCols d)
      if bad then s.tapFault c n
      else
        let cl := (s.core c).client
        let s0 := s.modModel p m (fun y => { y with row0 := y.row0.set j (match y.row0.find? j with
          | some r => min r (fld d 228 15)
          | none => fld d 228 15) })
        let s1 := rows.zipIdx.foldl (fun s e =>
          let row := row0 + e.2
          let t := s.modTapRow p m j row (fun t => { t with vals := t.vals ++ e.1.zipIdx.map (fun z => (cls0 + z.2, z.1)) })
          if (t.tapRow p m j row).vals.length = y.classes then t.sampleRow p m j row die cl else t) s0
        let done := dTiles d ≤ x.moved + 1
        ((s1.sendLines p m j).sendLines p m 0).modCore c (fun k => k.modSlot n (fun x =>
          { x with
            moved := x.moved + 1
            movedAt := s.mashOf c
            done := done }))
/-- TAP_TILE: the next tile of an ACTIVE SAMPLE reaches the Tap of its die (R337). -/
def execTapTile (r : StreamRef) (s : State) : Host.Outcome State Fault Refusal :=
  let c := r.core.val
  let n := r.slot.val
  let x := (s.core c).slot n
  .next (
    if kindOf x.desc = 12 && x.state = .active && !x.done then
      let m := s.sampleRows c x
      match m.1.stop with
      | some e => (m.1.s.tilesAtFault c n 0).streamFault c n e.1 e.2
      | none => m.1.s.tapTake c n x m.2
    else s)
/-- DRAFT_RECORD: the draft record of a slot, with all its drafts, reaches the Tap of its target rows (R342). -/
def execDraftRecord (part : Fin 12) (req : Word) (s : State) : Host.Outcome State Fault Refusal :=
  let p := part.val
  .next (match (s.serveOf p).req req.toNat with
    | some r =>
      if 0 < r.kNow && !r.draftHere && (List.range r.kNow).all (fun j => (r.drafts.find? (j + 1)).isSome) then
        ((s.modReq p r.id (fun r => { r with draftHere := true })).verify p r.id).sendLines p r.jrec.model 0
      else s
    | none => s)
/-- A line of a query's input reaches the channel's next posted line, in a RECV with SCORE 0x1FE. The endpoint keeps a CRC over the bytes
it has written; where that of the last line does not meet the input's, it raises LC_INPUT_CRC and the RECV does not complete (R60, R457;
log entry 53). -/
def State.inputIn (s : State) (c chan : Nat) (x : InputLine) : State :=
  let k := s.core c
  let p := k.welt.next.get 0 chan
  match k.recvAt chan p with
  | some n =>
    let d := (k.slot n).desc
    if wRemote d || wCore d ≠ 0x1FE then s.report { s.coreReport c codeWeltSource with addr := p }
    else
      let sum := crc32c (if x.first then 0 else k.welt.inputCrc.get 0 chan) (x.bytes.take (wBytes d (p - (k.slot n).start)))
      let s1 := s.modCore c (fun k => { k with welt := { k.welt with inputCrc := k.welt.inputCrc.set chan sum } })
      let s2 := match x.crc with
        | some v =>
          if v = sum then s1
          else (s1.modCore c (fun k => { k with welt := { k.welt with inputBad := insertSet n k.welt.inputBad } })).report
            { s1.coreReport c codeLcInputCrc with tag := x.req }
        | none => s1
      s2.recvLine c chan n p x.bytes
  | none => s.report { s.coreReport c codeWeltSource with addr := p }
/-- Line offset of a token line in the RECV of its pass (R341; log entry 77). -/
def TokenLine.offset (e : TokenLine) : Nat := e.group - e.row0 / 64
/-- TOKEN_LINE: the oldest line for a channel of a core crosses on FC1. A token line lands at its group's line of the first RECV with
SCORE 0x1FE that has not had it, which is done with its last line; one from a Tap of another partition, or for a bay that is not ON, is
discarded at the router, one without such a RECV at the endpoint (R39, R41, R61, R341). A line of a query's input comes from N1 (R457). -/
def execTokenLine (c : CoreId) (chan : BitVec 5) (s : State) : Host.Outcome State Fault Refusal :=
  let mine := fun (e : TokenLine) => e.core = c.val && e.chan = chan.toNat
  .next (match s.tapLines.find? mine with
    | none => s
    | some e =>
      let gone : State := { s with tapLines := s.tapLines.eraseP mine }
      match e.input with
      | some x => gone.cross { src := e.die, dst := dieOf c.val, ep := c.val % 6, cls := 1, part := x.part } 1 none (fun s =>
          s.inputIn c.val chan.toNat x)
      | none =>
      let tap : Ends := { src := e.die, dst := dieOf c.val, ep := c.val % 6, cls := 1, part := s.partOfBay (e.die / 5) }
      gone.cross tap 1 none (fun s =>
        let k := s.core c.val
        match Core.slotNums.find? (fun n =>
          let x := k.slot n
          kindOf x.desc = 11 && wChan x.desc = chan.toNat && wCore x.desc = 0x1FE && x.state = .active && !x.done &&
            e.offset < wLines x.desc && !k.filled chan.toNat (x.start + e.offset)) with
        | some n => s.recvLine c.val chan.toNat n ((k.slot n).start + e.offset)
            (e.entries.flatMap (fun v => natBytes 4 v.toNat))
        | none => s.report { s.coreReport c.val codeWeltSource with addr := e.offset }))
/-- A tap's cancel notice (R358): rows and tokens of the request are discarded from now on, each token counted at the die of its
Tap. -/
def State.tapNotice (s : State) (p id : Nat) : State :=
  let v := s.serveOf p
  match v.req id with
  | none => s
  | some r =>
    let s0 := r.fly.foldl (fun s t => match t.die with
      | some die => s.modDie die (fun d => { d with suppressed := satAdd 16 d.suppressed 1 })
      | none => s) s
    let s1 := s0.modReq p id (fun r =>
      { r with
        noticed := true
        fly := [] })
    (List.range 17).foldl (fun s j => s.sendLines p r.jrec.model j) s1

end Sys2Proof.Machine
end

