-- ==== Sys2Proof/Machine/Serve.lean ====
section
/-! DEFINITION. Serving: models, rosters and the admission decision, step tails, token rings, prefix handles, adapters,
pause and resume, cancellation (R321 to R360, R418 to R421). -/

namespace Sys2Proof.Machine

/-! ## Accessors -/

def Serve.joinRetry (v : Serve) : Nat := fld v.ctl 21 16
def Serve.lcPause (v : Serve) : Bool := bit v.ctl 20
def Serve.budget (v : Serve) : Nat := 256 * fld v.ctl 2 8
def Serve.ratioW (v : Serve) : Nat := fld v.ctl 10 10
/-- A requester's STATUS on the lane of roster messages (R421). -/
def State.joinStatus (s : State) (a : Asker) (code detail req step : Nat) : State := s.statusTo a 3 code detail req step
def Request.asker (r : Request) : Asker := ⟨r.sess, r.msgid⟩
def PendJoin.asker (x : PendJoin) : Asker := ⟨x.sess, x.msgid⟩
/-- A request that only waits for its last ring entries. -/
def Request.over (r : Request) : Bool := r.slot.isNone && !r.paused && r.pages = 0 && r.fly.isEmpty && r.queue.isEmpty
/-- Forget the requests that are over. -/
def State.sweep (s : State) (p : Nat) : State := s.modServe p (fun v => { v with reqs := v.reqs.filter (fun r => !r.over) })
def Serve.handle (v : Serve) (h : Nat) : Option Handle := v.handles.find? (fun x => x.h = h)
def State.modHandle (s : State) (p h : Nat) (f : Handle → Handle) : State :=
  s.modServe p (fun v => { v with handles := v.handles.map (fun x => if x.h = h then f x else x) })
/-- The resident generation a record names; generation 0 is the current one (R353). -/
def Serve.adapter (v : Serve) (h g : Nat) : Option Adapter :=
  v.adapters.find? (fun a => a.h = h && (if g = 0 then a.current else a.gen = g))
/-- Pin (or unpin) a generation; handle 0 is none. -/
def State.pinAdapter (s : State) (p h g : Nat) (on : Bool) : State :=
  s.modServe p (fun v => { v with adapters := v.adapters.map (fun a =>
    if h ≠ 0 && a.h = h && a.gen = g then { a with pins := if on then a.pins + 1 else a.pins - 1 } else a) })
def State.useHandle (s : State) (p h : Nat) (on : Bool) : State :=
  if h = 0 then s else s.modHandle p h (fun x => { x with users := if on then x.users + 1 else x.users - 1 })
/-- A ring entry without a token. -/
def Request.noToken (r : Request) (flags : Nat) (step : BitVec 32) : Token :=
  { cls := 0, pos := r.nextPos, flags := flagFinal + flagNoToken + flags, step := step.toNat }
/-- N1 takes an entry for a request's ring; its write leaves within 1 µs (R420). -/
def State.holdToken (s : State) (p id : Nat) (t : Token) : State :=
  s.modReq p id (fun r => { r with
    queue := r.queue ++ [t]
    coalesceAt := match r.coalesceAt with | some a => some a | none => some s.now })

/-- The FINAL entry of a request, behind the tokens still on their way from its Taps (R347, R348). -/
def State.finalToken (s : State) (p id : Nat) (r : Request) (t : Token) : State :=
  if r.fly.isEmpty then s.holdToken p id t else s.modReq p id (fun r => { r with fly := r.fly ++ [t] })

/-! ## Models (R321, R323, R368) -/

/-- The fields of a model table entry lie in the ranges of Table 12.1, and the fallback of an enforced model is enforced
(R451); the FEED cores lie in the model's partition (R321). -/
def State.modelBad (s : State) (p model : Nat) (m : ModelRec) : Bool :=
  let dies := (s.baysOf p).flatMap (fun b => (List.range 5).map (fun i => 5 * b + i))
  m.classes % 256 ≠ 0 || m.classes < 256 || 1048576 < m.classes ||
  m.maxctx % 256 ≠ 0 || m.maxctx < 256 || 1048576 < m.maxctx ||
  4 < m.eos.length || m.eos.any (fun e => m.classes ≤ e) || (m.draftEn && 16 ≤ m.draft) ||
  (!m.field && (!(s.coresOf p).contains m.feedTCore || (m.draftEn && !(s.coresOf p).contains m.feedDCore))) ||
  (!m.field && (m.sdies.isEmpty || 16 < m.sdies.length || m.sdies.any (fun d => !dies.contains d) ||
    (m.sdies.zip m.sdies.tail).any (fun e => e.2 ≤ e.1))) ||
  (match m.fallback with | some f => 16 ≤ f || (s.enforced p model && !s.enforced p f) | none => false)
/-- Hot set number of a resident model's LC hot set in the loader's table (log entry 37). -/
def lcHotId (model : Nat) : Nat := 65536 + model
/-- MODEL_LOAD: a model enters the table, refused BAD_PARAM or KV_TOO_SMALL; its LC hot set is loaded into the reserve
region of every core of the partition (R323, R368, R451). -/
def execModelLoad (sess : Fin 16) (part : Fin 12) (model : Fin 16) (m : ModelRec) (s : State) : Host.Outcome State Fault Refusal :=
  let p := part.val
  .next (
    if ((s.serveOf p).model model.val).isSome || s.modelBad p model.val m then s.statusTo ⟨sess.val, 0⟩ 2 stBadParam 0 model.val 0
    else if m.kvPages < m.maxctx / 256 + 1 then s.statusTo ⟨sess.val, 0⟩ 2 stKvTooSmall 0 model.val 0
    else
      let x : Model := { mrec := m, free := m.kvPages, pending := 0, prefPages := 0, lines := [] }
      (((s.modServe p (fun v => { v with models := v.models.set model.val x })).modSched p (fun d =>
        { d with lcHot := insertSet model.val d.lcHot })).hotCopy p (lcHotId model.val) (s.coresOf p) 0))
/-- MODEL_UNLOAD: the entry and the hot set of a resident model go (R368). -/
def execModelUnload (_sess : Fin 16) (part : Fin 12) (model : Fin 16) (s : State) : Host.Outcome State Fault Refusal :=
  .next ((s.modServe part.val (fun v => { v with models := v.models.erase model.val })).modSched part.val (fun d =>
    { d with lcHot := d.lcHot.filter (· ≠ model.val) }))

/-! ## Adapters (R352, R353) -/

/-- ADAPTER_LOAD: a generation completes its load and becomes current, or is refused ADAPTER_FULL; the load is measured in
MR3 (R352, R497). -/
def execAdapterLoad (sess : Fin 16) (part : Fin 12) (handle : BitVec 32) (gen : BitVec 16) (rank : Nat) (addr : BitVec 41)
    (bytes : Nat) (s : State) : Host.Outcome State Fault Refusal :=
  let p := part.val
  let v := s.serveOf p
  let same := fun (a : Adapter) => a.h = handle.toNat && a.gen = gen.toNat
  .next (
    if handle.toNat = 0 || gen.toNat = 0 || rank = 0 || 256 < rank then s.statusTo ⟨sess.val, 0⟩ 2 stBadParam 0 handle.toNat 0
    else if !v.adapters.any same && 4096 ≤ v.adapters.length then s.statusTo ⟨sess.val, 0⟩ 2 stAdapterFull 0 handle.toNat 0
    else
      let old := v.adapters.map (fun a => if a.h = handle.toNat then { a with current := false } else a)
      let new := if v.adapters.any same then old.map (fun a => if same a then { a with current := true, rank := rank } else a)
        else old ++ [{ h := handle.toNat, gen := gen.toNat, rank := rank, current := true, pins := 0 }]
      let q := s.n1Read addr.toNat bytes
      (q.1.modServe p (fun v => { v with adapters := new })).extend 3 addr.toNat bytes handle.toNat gen.toNat (sha3 q.2))

/-! ## Arrival of roster operations (R325, R330, R350 to R357, R418, R419) -/

/-- A parameter outside Table 12.6. -/
def joinBad (j : JoinRec) : Bool :=
  let rt := j.rt.toNat
  1024 < j.topk || 16 < j.kMax || j.chunk = 0 || 32 < j.chunk || j.ttl < 1000 || 86400000 < j.ttl ||
  2 ^ 31 ≤ rt || 0x7F800000 < rt ||
  j.topp.toNat = 0 || 0x3F800000 < j.topp.toNat || 0x3F800000 < j.minp.toNat ||
  2 ^ 32 ≤ j.prompt || 2 ^ 32 ≤ j.maxNew || 2 ^ 16 ≤ j.retry ||
  (j.preSave.toNat ≠ 0 && (j.preLen % 256 ≠ 0 || j.prompt < j.preLen || j.preLen = 0))
/-- An operation that arrives after the decision it is tagged with is late (R325). -/
def State.lateTag (s : State) (p : Nat) (tag : BitVec 32) : State :=
  if tag.toNat ≤ (s.serveOf p).step.toNat then s.modServe p (fun v => { v with lateRoster := satAdd 16 v.lateRoster 1 }) else s
/-- The prefix handle a join uses is held and bound to its model and generation (R351). -/
def Serve.prefixOk (v : Serve) (j : JoinRec) (gen : Nat) : Bool :=
  match v.handle j.preUse.toNat with
  | some h => h.held && !h.dropped && h.model = j.model && h.adapter = j.adapter && h.gen = gen
  | none => false
def Serve.startOf (v : Serve) (j : JoinRec) : Nat :=
  if j.preUse.toNat = 0 then 0 else match v.handle j.preUse.toNat with | some h => h.len | none => 0
/-- The generation a join is to be pinned to, where it names a resident one. -/
def Serve.joinGen (v : Serve) (j : JoinRec) : Option Nat :=
  if j.adapter = 0 then some 0 else (v.adapter j.adapter j.gen).map (·.gen)
/-- Why a join is refused, if it is, apart from memory (R350, R351, R353, Table 12.6). -/
def Serve.joinRefused (v : Serve) (j : JoinRec) : Option Nat :=
  match v.model j.model with
  | none => some stBadParam
  | some m =>
    if m.mrec.field || joinBad j then some stBadParam
    else match v.joinGen j with
      | none => some stAdapterMiss
      | some g =>
        if j.preUse.toNat ≠ 0 && !v.prefixOk j g then some stPrefixMiss
        else if j.preSave.toNat ≠ 0 && (v.handle j.preSave.toNat).isSome then some stPrefixBusy
        else if m.mrec.maxctx - v.startOf j < j.prompt then some stTooLong
        else none
/-- The partition knows a request: running, paused, waiting, or with entries still to come. -/
def Serve.knows (v : Serve) (id : Nat) : Bool :=
  (v.req id).isSome || v.joins.any (fun x => x.jrec.req.toNat = id)
def Serve.queueJoin (v : Serve) (a : Asker) (step : Nat) (j : JoinRec) : Serve :=
  { v with
    nextOrder := v.nextOrder + 1
    joins := v.joins ++ [{ jrec := j, sess := a.sess, msgid := a.msgid, step := step, order := v.nextOrder, deferrals := 0 }] }
/-- The cancels that are still held (R419). -/
def State.cancelHeld (s : State) (p id : Nat) : Bool :=
  (s.serveOf p).cancels.any (fun c => c.1 = id && s.now ≤ c.2.2 + 1000 * fld s.host.hold 0 16)
/-- A join meets a held CANCEL of its request. -/
def State.takeCancel (s : State) (p : Nat) (a : Asker) (id : Nat) : State :=
  (s.modServe p (fun v => { v with
    cancels := v.cancels.filter (fun c => c.1 ≠ id)
    cancelCnt := satAdd 16 v.cancelCnt 1 })).joinStatus a stCancelled 0 id 0
/-! ## Leaving (R329, R355, R358, R359) -/

/-- Give back what an ended request holds besides slot and pages: its pin, the handles whose pages it uses, an unfilled handle and
the pin of that (R350, R351, R353). -/
def State.releaseHolds (s : State) (p : Nat) (r : Request) : State :=
  let s1 := (s.pinAdapter p r.adapter r.gen false).useHandle p r.jrec.preUse.toNat false
  match (s1.serveOf p).handle r.jrec.preSave.toNat with
  | some h =>
    if r.jrec.preSave.toNat = 0 then s1
    else if h.held then s1.useHandle p h.h false
    else (s1.pinAdapter p h.adapter h.gen false).modServe p (fun v => { v with handles := v.handles.filter (fun x => x.h ≠ h.h) })
  | none => s1
/-- Discard the flash copy of a paused cache. -/
def State.dropCache (s : State) (p id : Nat) : State :=
  { s with flash := { s.flash with paused := s.flash.paused.filter (fun c => !(c.part = p && c.req = id)) } }
/-- End a paused request: its cache is discarded and its holds are released. Pages of a copy not yet complete stay with the
record until the next step tail. -/
def State.endPaused (s : State) (p : Nat) (r : Request) (why : Nat) : State :=
  ((s.dropCache p r.id).releaseHolds p r).modReq p r.id (fun r =>
    { r with
      paused := false
      copied := true
      adapter := 0
      jrec := { r.jrec with preUse := 0, preSave := 0 }
      leaving := why })
/-- The entries not yet started are dropped, and the one FINAL entry is that of the cancel, unless one has been started (R358,
R359). -/
def State.cancelEntries (s : State) (p : Nat) (r : Request) : State :=
  let s1 := s.modReq p r.id (fun x => { x with queue := [] })
  if r.finalSent then s1.sweep p else s1.holdToken p r.id (r.noToken flagCancelled (s.serveOf p).step)
/-- The CANCEL of a known token request, which is cancelled once; a paused request's flash copy, or the copy that a resumed one is loading, is discarded at
once (R358, R359). -/
def State.cancelReq (s : State) (p : Nat) (r : Request) : State :=
  let step := (s.serveOf p).step
  let s1 := s.modServe p (fun v => { v with cancelCnt := satAdd 16 v.cancelCnt 1 })
  let s2 := s1.joinStatus r.asker stCancelled 0 r.id 0
  if r.leaving = 3 then s
  else if r.paused then (s2.endPaused p r 3).cancelEntries p r
  else
    ((if r.loading then s2.dropCache p r.id else s2).modReq p r.id (fun x => { x with
      leaving := 3
      leaveStep := if x.leaving = 0 then step.toNat else x.leaveStep })).cancelEntries p r
/-- The LC kernels of a request that wait are removed (R380). -/
def State.dropKernels (s : State) (p id : Nat) : State :=
  s.modSched p (fun d => { d with waiting := d.waiting.filter (fun w => w.krec.be || w.krec.req.toNat ≠ id) })
/-- Cancel one request, waiting or known (R358, R359, R411). -/
def State.cancelOne (s : State) (p id : Nat) : State :=
  let v := s.serveOf p
  match v.joins.find? (fun x => x.jrec.req.toNat = id) with
  | some x =>
    let s1 := (s.modServe p (fun v => { v with
      joins := v.joins.filter (fun y => y.jrec.req.toNat ≠ id)
      cancelCnt := satAdd 16 v.cancelCnt 1 })).joinStatus x.asker stCancelled 0 id 0
    match v.req id with
    | some r => (s1.endPaused p r 3).cancelEntries p r
    | none => s1
  | none =>
    match v.req id with
    | some r => (s.dropKernels p id).cancelReq p r
    | none => s.dropKernels p id
/-- CANCEL_NOTICE: the FC0 notice of a cancel reaches the Taps and cores (R358). -/
def execCancelNotice (part : Fin 12) (req : Word) (s : State) : Host.Outcome State Fault Refusal :=
  .next (match (s.serveOf part.val).req req.toNat with
    | some r => if r.leaving = 3 && !r.noticed then (s.tapNotice part.val r.id).sweep part.val else s
    | none => s)
/-- CANCEL_HOLD_EXPIRY: a held CANCEL is answered UNKNOWN_REQ (R419). -/
def execCancelHoldExpiry (part : Fin 12) (req : Word) (s : State) : Host.Outcome State Fault Refusal :=
  let p := part.val
  .next (match (s.serveOf p).cancels.find? (fun c => c.1 = req.toNat) with
    | some c =>
      if c.2.2 + 1000 * fld s.host.hold 0 16 < s.now then
        (s.modServe p (fun v => { v with cancels := v.cancels.erase c })).statusTo c.2.1 0 stUnknownReq 0 c.1 0
      else s
    | none => s)

/-! ## Pausing (R331, R355) -/

/-- Bytes of a request's KV that a pause copies: the pages of its context that are its own. -/
def Request.cacheBytes (r : Request) (m : ModelRec) : Nat := cdiv (r.context - r.start - r.given) 256 * m.pageBytes
/-- Bytes of the paused region that are free; none once a stack is READ_ONLY or FAILED (R443, R447). -/
def State.pausedRoom (s : State) : Nat :=
  if s.flash.stopped then 0
  else (7996 - fld s.flash.cfg 0 13) * 1000000000 - s.flash.paused.foldl (fun n c => n + c.bytes) 0
/-- Pause a running sequence from step `n` on. -/
def State.pauseReq (s : State) (p n : Nat) (r : Request) (bytes : Nat) : State :=
  let s1 := (s.modReq p r.id (fun r => { r with
    leaving := 4
    leaveStep := n
    paused := true
    copied := false
    kNow := 0
    chunkNow := 0
    rowsNow := 0 })).modServe p (fun v => { v with pauses := satAdd 16 v.pauses 1 })
  { s1 with flash := { s1.flash with
      paused := s1.flash.paused ++ [{ part := p, req := r.id, bytes := bytes, done := none, loading := false }] } }
/-- Bytes of a request's own pages, and their writing back (R355, R357; log entry 97). -/
def State.pageBytes (s : State) (p id n : Nat) : List Byte := (List.range n).map (fun i => s.hbm.byte (Config.pageAddr p id i))
def State.pageWrite (s : State) (p id : Nat) (bs : List Byte) : State :=
  bs.zipIdx.foldl (fun s e => s.modHbm (fun h => h.write (Config.pageAddr p id e.2) [e.1])) s
/-- PAUSE_COPY_DONE: the copy of a paused cache completes; the FINAL PAUSED entry is written (R355, R356). -/
def execPauseCopyDone (part : Fin 12) (req : Word) (s : State) : Host.Outcome State Fault Refusal :=
  let p := part.val
  let id := req.toNat
  let mine := fun (c : PausedCache) => c.part = p && c.req = id && c.done.isNone
  .next (match (s.serveOf p).req id, s.flash.paused.find? mine with
    | some r, some c =>
      let s1 := { s with flash := { s.flash with
        paused := s.flash.paused.map (fun c => if mine c then { c with done := some s.now, data := s.pageBytes p id c.bytes } else c) } }
      let s2 := (s1.modReq p id (fun r => { r with copied := true })).acctKey (acctFlashKey 0) c.bytes
      ((s2.modGlob (fun g => { g with acctFlash := satAdd 64 g.acctFlash c.bytes })).flashWrite c.bytes).finalToken p id r
        (r.noToken flagPaused (s.serveOf p).step)
    | _, _ => s)
/-- A RESUME that waits for a cache that is gone is refused with EXPIRED (R357, R445, R446). -/
def State.refuseResume (s : State) (p id : Nat) : State :=
  let mine := fun (x : PendJoin) => x.jrec.req.toNat = id
  ((s.serveOf p).joins.filter mine).foldl (fun s x => s.joinStatus x.asker stExpired 0 id 0)
    (s.modServe p (fun v => { v with joins := v.joins.filter (fun x => !mine x) }))
/-- PAUSED_CACHE_EXPIRY: a paused cache reaches its TTL, counted from the end of its copy, and is discarded (R356, R446). -/
def execPausedCacheExpiry (part : Fin 12) (req : Word) (s : State) : Host.Outcome State Fault Refusal :=
  let p := part.val
  let id := req.toNat
  .next (match (s.serveOf p).req id, s.flash.paused.find? (fun c => c.part = p && c.req = id) with
    | some r, some c =>
      match c.done with
      | some t =>
        if r.paused && !c.loading && t + r.jrec.ttl * 1000000 ≤ s.now then
          ((((s.endPaused p r 4).modServe p (fun v => { v with
            expired := satAdd 16 v.expired 1 })).refuseResume p id).joinStatus r.asker stExpired 0 id 0).sweep p
        else s
      | none => s
    | _, _ => s)
/-- RESUME_LOAD_DONE: the cache of a resumed request has been loaded; it may enter the next step (R357, R446). -/
def execResumeLoadDone (part : Fin 12) (req : Word) (s : State) : Host.Outcome State Fault Refusal :=
  let p := part.val
  let id := req.toNat
  .next (match (s.serveOf p).req id, s.flash.paused.find? (fun c => c.part = p && c.req = id && c.loading) with
    | some r, some c =>
      if r.loading then
        ((((s.dropCache p id).pageWrite p id c.data).modReq p id (fun r => { r with loading := false })).acctKey (acctFlashKey 0) c.bytes).modGlob
          (fun g => { g with acctFlash := satAdd 64 g.acctFlash c.bytes })
      else s
    | _, _ => s)

/-! ## The admission decision (R326 to R333, R349) -/

/-- 1. The pages of the last tail are free; the step's body has ended: prompts advance, and a prefix handle takes its pages
once the prefill has passed its length (R329, R350). -/
def State.endBody (s : State) (p : Nat) : State :=
  let s1 := s.modServe p (fun v => { v with
    models := v.models.map (fun e => (e.1, { e.2 with free := e.2.free + e.2.pending, pending := 0, lines := [], row0 := [] }))
    pstate := fld v.ctl 0 2 })
  let s2 := s1.modServe p (fun v => { v with reqs := v.reqs.map (fun r =>
    { r with
      promptLeft := r.promptLeft - r.chunkNow
      kNow := 0
      chunkNow := 0
      rowsNow := 0
      drafts := []
      draftHere := false }) })
  let full := (s2.serveOf p).reqs.filter (fun r =>
    r.leaving ≠ 3 && r.slot.isSome && r.jrec.preSave.toNat ≠ 0 && r.given = 0 && r.jrec.preLen ≤ r.jrec.prompt - r.promptLeft)
  let s3 := full.foldl (fun s r =>
    let n := r.jrec.preLen / 256
    (((s.modReq p r.id (fun r => { r with pages := r.pages - n, given := r.jrec.preLen })).modHandle p r.jrec.preSave.toNat (fun h =>
      { h with
        held := true
        pages := n
        len := r.start + r.jrec.preLen })).useHandle p r.jrec.preSave.toNat true).modModel p r.jrec.model (fun m =>
          { m with prefPages := m.prefPages + n })) s2
  (List.range 60).foldl (fun s d => if s.partOfBay (d / 5) = p then s.modDie d (fun x => { x with rows := [] }) else s) s3
/-- A PAUSE of a resumed request whose cache is still loading ends the load: the copy on flash stays the paused cache, and the request
leaves again (R355, R446; log entry 97). -/
def State.pauseLoad (s : State) (p n : Nat) (r : Request) : State :=
  let s1 := (s.modReq p r.id (fun r => { r with
    leaving := 4
    leaveStep := n
    paused := true
    copied := true
    loading := false })).modServe p (fun v => { v with pauses := satAdd 16 v.pauses 1 })
  let f : Flash := { s1.flash with paused := s1.flash.paused.map (fun (c : PausedCache) =>
    if c.part = p && c.req = r.id then { c with loading := false } else c) }
  ({ s1 with flash := f }).finalToken p r.id r (r.noToken flagPaused (s.serveOf p).step)
/-- 2. One roster operation at the decision for step `n` (R326, R354, R355). -/
def State.applyOp (s : State) (p n : Nat) (a : Asker) (o : RosterOp) : State :=
  let v := s.serveOf p
  match o with
  | .leave req =>
    match v.req req.toNat with
    | some r =>
      if r.paused then
        let s1 := s.endPaused p r 2
        (if r.copied then s1 else s1.finalToken p r.id r (r.noToken 0 (BitVec.ofNat 32 n))).sweep p
      else if r.leaving ≠ 0 then s
      else ((if r.loading then s.dropCache p r.id else s).modReq p r.id (fun r => { r with
        leaving := 2
        leaveStep := n })).finalToken p r.id r (r.noToken 0 (BitVec.ofNat 32 n))
    | none => s.joinStatus a stUnknownReq 0 req.toNat n
  | .pause req =>
    match v.req req.toNat with
    | some r =>
      match v.model r.jrec.model with
      | some m =>
        let bytes := r.cacheBytes m.mrec
        if r.leaving ≠ 0 then s
        else if r.loading then s.pauseLoad p n r
        else if s.flash.stopped || s.pausedRoom < bytes then s.joinStatus a stFlashFull 0 r.id n
        else s.pauseReq p n r bytes
      | none => s
    | none => s.joinStatus a stUnknownReq 0 req.toNat n
  | .rebind req h g =>
    match v.req req.toNat with
    | some r =>
      match (if h = 0 then some 0 else (v.adapter h g).map (·.gen)) with
      | some gen =>
        if r.leaving = 0 || r.paused then
          ((s.pinAdapter p r.adapter r.gen false).pinAdapter p h gen true).modReq p r.id (fun r => { r with adapter := h, gen := gen })
        else s
      | none => s.joinStatus a stAdapterMiss 0 r.id n
    | none => s.joinStatus a stUnknownReq 0 req.toNat n
/-- Place of an operation in item 1 of R326: LEAVE, PAUSE, REBIND, whatever the order of their arrival (R325). -/
def RosterOp.rank : RosterOp → Nat
  | .leave _ => 0
  | .pause _ => 1
  | .rebind _ _ _ => 2
/-- The operations due at the decision for step `n` (R325, R326). -/
def State.applyOps (s : State) (p n : Nat) : State :=
  let due := (s.serveOf p).ops.filter (fun o => o.1 ≤ n)
  let kind := fun (k : Nat) => due.filter (fun o => o.2.2.rank = k)
  (kind 0 ++ kind 1 ++ kind 2).foldl (fun s o => s.applyOp p n o.2.1 o.2.2)
    (s.modServe p (fun v => { v with ops := v.ops.filter (fun o => n < o.1) }))
/-- Draft store that a speculating join reserves in every sampling die (R343). -/
def storeNeed (j : JoinRec) (m : ModelRec) : Nat :=
  if m.draftEn then j.kMax * (64 + 8 * (if j.topk = 0 then 1024 else j.topk)) else 0
def State.draftFits (s : State) (m : ModelRec) (n : Nat) : Bool :=
  n = 0 || m.sdies.all (fun d => (s.die d).storeBytes + n ≤ 16777216)
def State.addStore (s : State) (m : ModelRec) (n : Nat) (on : Bool) : State :=
  m.sdies.foldl (fun s d => s.modDie d (fun x => { x with storeBytes := if on then x.storeBytes + n else x.storeBytes - n })) s
/-- Slots of sequences, those not yet given back among them. -/
def Serve.seqSlots (v : Serve) : Nat :=
  (v.reqs.filter (fun r => r.slot.isSome)).length + (v.owed.filter (fun o => o.slot.isSome)).length
def Serve.slotsUsed (v : Serve) : Nat := v.seqSlots + v.fieldNow
/-- The lowest free slot (R326). -/
def Serve.freeSlot (v : Serve) : Option Nat :=
  if 1024 ≤ v.slotsUsed then none
  else (List.range 1024).find? (fun n => v.reqs.all (fun r => r.slot ≠ some n) && v.owed.all (fun o => o.slot ≠ some n))
/-- Positions a join reserves pages for, without its chunk (R328, R357). -/
def Serve.needOf (v : Serve) (j : JoinRec) (m : ModelRec) : Nat :=
  match v.req j.req.toNat with
  | some r => (r.context - r.start - r.given) + min (r.promptLeft + (r.jrec.maxNew - r.emitted)) (m.maxctx - r.context)
  | none => min (j.prompt + j.maxNew) (m.maxctx - v.startOf j)
/-- The record that governs a waiting join: the paused request's own for a RESUME (R357). -/
def Serve.recOf (v : Serve) (x : PendJoin) : JoinRec := match v.req x.jrec.req.toNat with | some r => r.jrec | none => x.jrec
/-- What keeps a join out, if anything: pages, a slot, or the draft store; otherwise slot, pages and chunk (R326, R328, R330). -/
def State.fitJoin (s : State) (p : Nat) (x : PendJoin) (m : Model) : Nat ⊕ (Nat × Nat × Nat) :=
  let v := s.serveOf p
  let j := v.recOf x
  let need := v.needOf j m.mrec
  let c := 256 * j.chunk
  let big := cdiv (need + c) 256
  let small := cdiv (need + 256) 256
  let pick := if big ≤ m.free then some (big, c) else if small ≤ m.free then some (small, 256) else none
  match pick, v.freeSlot with
  | none, _ => .inl 0
  | _, none => .inl 1
  | some q, some n => if s.draftFits m.mrec (storeNeed j m.mrec) then .inr (n, q.1, q.2) else .inl 2
/-- A fresh request at its admission. -/
def freshRequest (x : PendJoin) (order n pages chunk gen start store : Nat) : Request :=
  { jrec := x.jrec, sess := x.sess, msgid := x.msgid, slot := some n, order := order, pages := pages, chunk := chunk, adapter := x.jrec.adapter,
    gen := gen, start := start, promptLeft := x.jrec.prompt, emitted := 0, k := x.jrec.kMax, zeros := 0, leaving := 0,
    leaveStep := 0, sitOut := false, kNow := 0, chunkNow := 0, rowsNow := 0, ringS := 0, consumed := 0, fly := [], queue := [],
    coalesceAt := none, finalSent := false, noticed := false, paused := false, copied := false, loading := false, drafts := [],
    draftHere := false, store := store, given := 0 }
/-- A resumed request at its admission: it keeps seed, positions, generation, k and zero count, and gets the ring of its
RESUME from entry 0 (R357; log entry 38). -/
def Request.again (r : Request) (x : PendJoin) (order n pages chunk store : Nat) : Request :=
  { r with
    jrec := { r.jrec with ringAddr := x.jrec.ringAddr }
    sess := x.sess
    msgid := x.msgid
    slot := some n
    order := order
    pages := pages
    chunk := chunk
    leaving := 0
    leaveStep := 0
    sitOut := false
    ringS := 0
    consumed := 0
    queue := []
    fly := []
    coalesceAt := none
    finalSent := false
    paused := false
    copied := false
    loading := true
    store := store }
/-- Admit a join into slot `n` (R326, R328, R343, R350, R351, R353, R357). -/
def State.takeIn (s : State) (p step : Nat) (x : PendJoin) (mi : Nat) (m : Model) (gen n pages chunk : Nat) : State :=
  let v := s.serveOf p
  let j := v.recOf x
  let id := x.jrec.req.toNat
  let store := storeNeed j m.mrec
  let s1 := (((s.modServe p (fun v => { v with
    nextOrder := v.nextOrder + 1
    joins := v.joins.filter (fun y => y.jrec.req.toNat ≠ id) })).modModel p mi (fun m =>
    { m with free := m.free - pages })).addStore m.mrec store true)
  let s2 := match v.req id with
    | some r =>
      let owes := r.slot.isSome || 0 < r.pages
      let s2 := (s1.modReq p id (fun r => r.again x v.nextOrder n pages chunk store)).modServe p (fun v => { v with
        owed := if owes then v.owed ++ [({ model := mi, slot := r.slot, pages := r.pages, store := r.store, step := r.leaveStep } : TailOwed)] else v.owed })
      { s2 with flash := { s2.flash with
          paused := s2.flash.paused.map (fun (c : PausedCache) => if c.part = p && c.req = id then { c with loading := true } else c) } }
    | none =>
      let r := freshRequest x v.nextOrder n pages chunk gen (v.startOf j) store
      let s2 := ((s1.modServe p (fun v => { v with reqs := v.reqs ++ [r] })).pinAdapter p j.adapter gen true).useHandle p
        j.preUse.toNat true
      if j.preSave.toNat = 0 then s2
      else
        let h : Handle := { h := j.preSave.toNat, model := mi, adapter := j.adapter, gen := gen, len := v.startOf j + j.preLen,
                            pages := 0, dropped := false, users := 0, held := false }
        (s2.modServe p (fun v => { v with handles := v.handles ++ [h] })).pinAdapter p j.adapter gen true
  s2.joinStatus x.asker 0 0 id step
/-- A join that does not fit is deferred, or refused after its deferrals (R330). -/
def State.defer (s : State) (p step : Nat) (x : PendJoin) (reason : Nat) : State :=
  let v := s.serveOf p
  let id := x.jrec.req.toNat
  let limit := if x.jrec.retry = 0 then v.joinRetry else x.jrec.retry
  if limit ≤ x.deferrals then
    (s.modServe p (fun v => { v with
      joins := v.joins.filter (fun y => y.jrec.req.toNat ≠ id)
      memRefused := satAdd 16 v.memRefused 1 })).joinStatus x.asker stMemRefused reason id step
  else
    let s1 := s.modServe p (fun v => { v with
      joins := v.joins.map (fun y => if y.jrec.req.toNat = id then { y with deferrals := y.deferrals + 1 } else y)
      deferred := satAdd 16 v.deferred 1 })
    if x.deferrals = 0 then s1.joinStatus x.asker stDeferred reason id step else s1
/-- The fewest BE sequences, most recently admitted first, that free `lack` pages; none when all do not (R331). -/
def pausesFor : Nat → List Request → Option (List Request)
  | 0, _ => some []
  | _ + 1, [] => none
  | lack + 1, r :: l => (pausesFor (lack + 1 - r.pages) l).map (fun x => r :: x)
/-- Insert by order of admission, most recent first. -/
def insertRecent (r : Request) : List Request → List Request
  | [] => [r]
  | x :: l => if x.order < r.order then r :: x :: l else x :: insertRecent r l
/-- BE_PAUSE: pause BE sequences for an LC join deferred for pages (R331). -/
def State.bePause (s : State) (p step : Nat) (x : PendJoin) (mi : Nat) (m : Model) : State :=
  let v := s.serveOf p
  let need := cdiv (v.needOf (v.recOf x) m.mrec + 256) 256
  let coming := ((v.reqs.filter (fun r => r.jrec.model = mi && r.leaving ≠ 0)).map (·.pages)).foldl (· + ·) 0 +
    ((v.owed.filter (fun o => o.model = mi)).map (·.pages)).foldl (· + ·) 0
  let cand := (v.reqs.filter (fun r => r.jrec.model = mi && r.jrec.be && r.slot.isSome && r.leaving = 0 && !r.loading)).foldl
    (fun l r => insertRecent r l) []
  match pausesFor (need - (m.free + coming)) cand with
  | some l =>
    if !s.flash.stopped && (l.map (fun r => r.cacheBytes m.mrec)).foldl (· + ·) 0 ≤ s.pausedRoom then
      l.foldl (fun s r => s.pauseReq p step r (r.cacheBytes m.mrec)) s
    else s
  | none => s
/-- One join at the decision; the answer says whether its class now has a deferred join (R326, R327). -/
def State.tryJoin (s : State) (p step : Nat) (x : PendJoin) : State × Bool :=
  let v := s.serveOf p
  let id := x.jrec.req.toNat
  let drop := fun (code : Nat) => ((s.modServe p (fun v => { v with joins := v.joins.filter (fun y => y.jrec.req.toNat ≠ id) })).joinStatus
    x.asker code 0 id step, false)
  let go := fun (gen : Nat) =>
    let mi := (v.recOf x).model
    match v.model mi with
    | none => drop stBadParam
    | some m =>
      match s.fitJoin p x m with
      | .inr (n, pages, chunk) => (s.takeIn p step x mi m gen n pages chunk, false)
      | .inl reason =>
        let s1 := s.defer p step x reason
        let stays := (s1.serveOf p).joins.any (fun y => y.jrec.req.toNat = id)
        (if stays && reason = 0 && !(v.recOf x).be && v.lcPause then s1.bePause p step x mi m else s1, stays)
  match v.req id with
  | some r =>
    if r.paused && r.copied && r.fly.isEmpty && r.queue.isEmpty then go r.gen
    else if !r.paused && r.slot.isNone then drop stExpired
    else (s, false)
  | none =>
    if x.jrec.resume then drop stExpired
    else match v.joinRefused x.jrec with
    | some code => drop code
    | none => go ((v.joinGen x.jrec).getD 0)
/-- 3. The joins of one class in order; none is tried once one of the class stays deferred (R326, R327). -/
def State.tryJoins (s : State) (p step : Nat) (blocked : Bool) (l : List PendJoin) : State × Bool :=
  l.foldl (fun a x => if a.2 then a else a.1.tryJoin p step x) (s, blocked)
/-- Joins that an earlier decision left waiting, held back by R327 among them, go before the new ones (R326; log entry 78). -/
def State.takeInJoins (s : State) (p step : Nat) : State :=
  let v := s.serveOf p
  let be := fun (x : PendJoin) => (v.recOf x).be
  let old := v.joins.filter (fun x => x.held)
  let new := v.joins.filter (fun x => !x.held && x.step ≤ step)
  let a := s.tryJoins p step false (old.filter (fun x => !be x))
  let b := a.1.tryJoins p step false (old.filter be)
  let c := b.1.tryJoins p step a.2 (new.filter (fun x => !be x))
  (c.1.tryJoins p step b.2 (new.filter be)).1.modServe p (fun v => { v with
    joins := v.joins.map (fun x => { x with held := x.held || x.step ≤ step }) })
/-- A request takes part in the next step. -/
def Request.runs (r : Request) : Bool := r.slot.isSome && r.leaving = 0 && !r.loading && !r.sitOut
/-- RING_FULL: a request whose held tokens the ring cannot take sits out the next step (R349). -/
def State.sitOuts (s : State) (p : Nat) : State :=
  let full := fun (r : Request) => r.slot.isSome && r.leaving = 0 && 4096 - (r.ringS - r.consumed) < r.queue.length + r.fly.length
  s.modServe p (fun v => { v with
    ringFull := satAdd 16 v.ringFull (v.reqs.filter full).length
    reqs := v.reqs.map (fun r => { r with sitOut := full r }) })
/-- Prefill chunks in admission order within a budget; the first is always taken (R332). -/
def takeChunks (budget : Option Nat) : Nat → List Request → List (Nat × Nat)
  | _, [] => []
  | used, r :: l =>
    let c := min r.chunk r.promptLeft
    match budget with
    | some b => if used = 0 || used + c ≤ b then (r.id, c) :: takeChunks budget (used + c) l else []
    | none => (r.id, c) :: takeChunks budget (used + c) l
/-- n ÷ d to nearest, ties to even (R120). -/
def roundDiv (n d : Nat) : Nat :=
  let q := n / d
  let r := n % d
  if d < 2 * r || (2 * r = d && q % 2 = 1) then q + 1 else q
/-- 4. The work of the next step: prefill chunks, decode and verify rows, the split of the dies (R332, R333, R336). -/
def State.assignWork (s : State) (p : Nat) : State :=
  let v := s.serveOf p
  let run := v.reqs.filter (·.runs)
  let pre := (run.filter (fun r => 0 < r.promptLeft)).foldl (fun l r => insertRecent r l) []
  let cs := takeChunks (if v.pstate = 1 then some v.budget else none) 0 pre.reverse
  let d := (run.filter (fun r => r.promptLeft = 0)).length
  let q := (run.map (·.promptLeft)).foldl (· + ·) 0
  let n := 5 * (s.baysOf p).length
  let split := if q = 0 then 0 else if d = 0 then n
    else max 1 (min (n - 1) (roundDiv (n * q) (q + v.ratioW * d)))
  let sites := (s.baysOf p).flatMap (fun b => (List.range 5).map (fun i => 5 * b + i))
  s.modServe p (fun v => { v with
    prefillDies := if v.pstate = 1 then [] else sites.take split
    reqs := v.reqs.map (fun r =>
      if r.runs then
        if 0 < r.promptLeft then
          match cs.find? (fun c => c.1 = r.id) with
          | some c => { r with chunkNow := c.2, rowsNow := if c.2 = r.promptLeft then 1 else 0 }
          | none => r
        else
          let spec := match v.model r.jrec.model with | some m => m.mrec.draftEn | none => false
          let k := if spec then r.k else 0
          { r with kNow := k, rowsNow := k + 1 }
      else r) })
/-- ADMISSION_DECISION: at the end of a step's body, the decision for the next step (R326). It follows the tail of the step
before. A boundary of partition 0 brings fabric values pending since Cinch was IDLE into force (R526). -/
def execAdmissionDecision (part : Fin 12) (s : State) : Host.Outcome State Fault Refusal :=
  let p := part.val
  .next (
    if (s.serveOf p).tailOpen || s.sec.recovery then s
    else
      let n := (s.serveOf p).step.toNat + 1
      let s1 := (s.endBody p).modServe p (fun v =>
        let k := min v.fieldNew (1024 - v.seqSlots)
        { v with
          fieldNow := k
          fieldNew := v.fieldNew - k })
      let s0 := ((s1.applyOps p n).takeInJoins p n).sitOuts p
      let s2 := if p = 0 && s0.glob.fabIdle then s0.fabApply else s0
      (s2.assignWork p).modServe p (fun v => { v with
        step := BitVec.ofNat 32 n
        tailOpen := true }))

/-! ## The step tail (R329, R350, R353, R355) -/

/-- A leaver's slot, and its pages unless a pause copy still reads them, are given back. -/
def State.tailReq (s : State) (p : Nat) (r : Request) : State :=
  let dieStore := match (s.serveOf p).model r.jrec.model with | some m => s.addStore m.mrec r.store false | none => s
  let s1 := if r.slot.isSome then dieStore else s
  let s2 := if r.slot.isSome && !r.paused && r.leaving ≠ 4 then s1.releaseHolds p r else s1
  let keep := r.paused && !r.copied
  let s3 := if keep then s2 else s2.modModel p r.jrec.model (fun m => { m with pending := m.pending + r.pages })
  s3.modReq p r.id (fun r => { r with
    slot := none
    store := 0
    pages := if keep then r.pages else 0 })
/-- What resumed requests owe of the steps that have ended (R329, R355). -/
def State.tailOwed (s : State) (p : Nat) : State :=
  let v := s.serveOf p
  let due := fun (o : TailOwed) => o.step + 1 ≤ v.step.toNat
  ((v.owed.filter due).foldl (fun s o =>
    (match o.slot, v.model o.model with | some _, some m => s.addStore m.mrec o.store false | _, _ => s).modModel p o.model (fun m =>
      { m with pending := m.pending + o.pages })) s).modServe p (fun v => { v with owed := v.owed.filter (fun o => !due o) })
/-- Dropped handles that no request uses give their pages back. -/
def State.tailHandles (s : State) (p : Nat) : State :=
  let gone := (s.serveOf p).handles.filter (fun h => h.dropped && h.users = 0 && h.held)
  gone.foldl (fun s h =>
    ((s.modModel p h.model (fun m => { m with pending := m.pending + h.pages, prefPages := m.prefPages - h.pages })).pinAdapter p
      h.adapter h.gen false).modServe p (fun v => { v with handles := v.handles.filter (fun x => x.h ≠ h.h) })) s
/-- Generations neither current nor pinned are freed. -/
def State.tailAdapters (s : State) (p : Nat) : State :=
  let dead := fun (a : Adapter) => !a.current && a.pins = 0
  s.modServe p (fun v => { v with
    adapterFreed := satAdd 16 v.adapterFreed (v.adapters.filter dead).length
    adapters := v.adapters.filter (fun a => !dead a) })
/-- STEP_TAIL: the tail of the step before the one just decided completes (R329). -/
def execStepTail (part : Fin 12) (s : State) : Host.Outcome State Fault Refusal :=
  let p := part.val
  let v := s.serveOf p
  .next (
    if v.tailOpen then
      let due := v.reqs.filter (fun r => r.leaving ≠ 0 && r.leaveStep + 1 ≤ v.step.toNat && (r.slot.isSome || 0 < r.pages))
      (((((due.foldl (fun s r => s.tailReq p r) s).tailOwed p).tailHandles p).tailAdapters p).sweep p).modServe p (fun v => { v with tailOpen := false })
    else s)

/-! ## Token rings (R347 to R349, R420) -/

/-- Entry number `n` of a ring (Table 12.7). -/
def Token.entry (t : Token) (n : Nat) : BitVec 128 :=
  BitVec.ofNat 128 (t.cls % 2 ^ 20 + t.pos % 2 ^ 32 * 2 ^ 32 + n % 2 ^ 32 * 2 ^ 64 + t.flags % 2 ^ 16 * 2 ^ 96 + t.step % 2 ^ 16 * 2 ^ 112)
/-- A RING_WRITE of at most 64 entries that neither passes CONSUMED by 4,096 nor wraps; sent only while lane 3 gives
its datagram a SEQ at once, so that every entry taken has been started (R347, R358, R402, R420). -/
def State.ringWrite (s : State) (p id : Nat) : State :=
  match (s.serveOf p).req id with
  | none => s
  | some r =>
    let at0 := r.ringS % 4096
    let n := min (min 64 (4096 - at0)) (min r.queue.length (4096 - (r.ringS - r.consumed)))
    if n = 0 || !s.canSend r.sess 3 || !(s.sess r.sess).isOpen then s
    else
      let out := r.queue.take n
      let rest := r.queue.drop n
      let s1 := s.modReq p id (fun r => { r with
        queue := rest
        ringS := r.ringS + n
        coalesceAt := if rest.isEmpty then none else r.coalesceAt
        finalSent := r.finalSent || out.any (fun t => t.flags % 2 = 1) })
      s1.post r.sess 3 (16 + 16 * n) (.ringWrite r.sess (r.jrec.ringAddr.toNat + 16 * at0)
        (out.zipIdx.map (fun e => e.1.entry (r.ringS + e.2))))
/-- Write what the ring takes: two RING_WRITEs where the entries wrap or exceed 64. -/
def State.ringFlush (s : State) (p id : Nat) : State := ((s.ringWrite p id).ringWrite p id).sweep p
/-- The µs of coalescing is over, or 64 entries wait (R420). -/
def State.ringDue (s : State) (r : Request) : Bool :=
  64 ≤ r.queue.length || (match r.coalesceAt with | some a => a + 1000 ≤ s.now | none => false)
/-- TAP_TOKEN: the oldest emitted token of a request crosses on FC1 from its Tap to N1; one of a cancelled request is discarded (R348, R358). -/
def execTapToken (part : Fin 12) (req : Word) (s : State) : Host.Outcome State Fault Refusal :=
  let p := part.val
  .next (match (s.serveOf p).req req.toNat with
    | some r =>
      match r.fly with
      | t :: rest =>
        let s0 := match t.die with
          | some die => s.carried { src := die, dst := 99, ep := 8, cls := 1, part := s.partOfBay (die / 5) } 1
          | none => s
        let s1 := s0.modReq p r.id (fun r => { r with fly := rest })
        if r.leaving = 3 then s1.sweep p
        else
          let s2 := s1.holdToken p r.id t
          match (s2.serveOf p).req r.id with
          | some r2 => if 64 ≤ r2.queue.length then s2.ringFlush p r.id else s2
          | none => s2
      | [] => s
    | none => s)
/-- RING_WRITE_TIMER: N1 sends the entries it holds for a ring (R347, R420). -/
def execRingWriteTimer (part : Fin 12) (req : Word) (s : State) : Host.Outcome State Fault Refusal :=
  .next (match (s.serveOf part.val).req req.toNat with
    | some r => if s.ringDue r then s.ringFlush part.val r.id else s
    | none => s)
end Sys2Proof.Machine
end

