-- ==== Sys2Proof/Machine/Host.lean ====
section
/-! DEFINITION. The host port: Ethernet, RHT datagrams and sessions, loads, ingest, LC queries, device reports, RoCEv2
(chapter 15). CSR access is in Regs. -/

namespace Sys2Proof
open Sys2Proof.Machine

/-! ## Fragments (R406) -/

/-- The message of which a datagram is the next fragment, with that fragment; none where it continues no message (R406). -/
def Datagram.joins (d : Datagram) (p : Option RxPart) : Option RxPart :=
  if d.frag = 0 then
    (if d.nfrag = 0 then none else some { msgid := d.msgid, type := d.type, nfrag := d.nfrag, next := 1, bytes := d.plen })
  else match p with
    | some x =>
      if x.msgid = d.msgid && x.type = d.type && x.nfrag = d.nfrag && x.next = d.frag && d.frag < d.nfrag then
        some { x with
          next := x.next + 1
          bytes := x.bytes + d.plen }
      else none
    | none => none
/-- Who sent a datagram's message. -/
def Datagram.asker (d : Datagram) : Asker := ⟨d.session, d.msgid⟩

end Sys2Proof

namespace Sys2Proof.Machine

/-! ## Ethernet (R401, R402, R404) -/

/-- The link-local address formed from the MAC as a modified EUI-64 (R404). -/
def HostPort.linkLocal (h : HostPort) : BitVec 128 :=
  let m := h.mac
  BitVec.ofNat 128 (0xFE80 * 2 ^ 112 + (fld m 40 8 ^^^ 2) * 2 ^ 56 + fld m 24 16 * 2 ^ 40 + 0xFFFE * 2 ^ 24 + fld m 0 24)
/-- N1 answers for an IPv6 address: its link-local one, or the global one in use. -/
def HostPort.ownIp6 (h : HostPort) (a : BitVec 128) : Bool :=
  a = h.linkLocal || (bit h.ip6cfg 8 && a = (h.ip6.get 0 1 ++ h.ip6.get 0 0 : BitVec 128))
def HostPort.ownIp4 (h : HostPort) (a : BitVec 32) : Bool := bit h.ip4 38 && a.toNat = fld h.ip4 0 32
/-- NEIGHBOR_SOLICITATION (R404). -/
def execNeighborSolicitation (addr : BitVec 128) (s : State) : Host.Outcome State Fault Refusal :=
  .next (if s.host.ownIp6 addr then s.emit (.neighborAdvert addr) else s)
/-- ARP (R404). -/
def execArp (addr : BitVec 32) (s : State) : Host.Outcome State Fault Refusal :=
  .next (if s.host.ownIp4 addr then s.emit (.arpReply addr) else s)
/-- ICMP_ECHO (R404). -/
def execIcmpEcho (v6 : Bool) (addr : BitVec 128) (data : List Byte) (s : State) : Host.Outcome State Fault Refusal :=
  .next (if (if v6 then s.host.ownIp6 addr else s.host.ownIp4 (addr.setWidth 32)) then s.emit (.echoReply addr data) else s)
/-- PAUSE_FRAME: discarded and counted (R402). -/
def execPauseFrame (s : State) : Host.Outcome State Fault Refusal :=
  .next (s.modHost (fun h => { h with pauseRx := satAdd 16 h.pauseRx 1 }))
/-- OTHER_PROTOCOL_FRAME: discarded and counted (R404). -/
def execOtherProtocolFrame (s : State) : Host.Outcome State Fault Refusal :=
  .next (s.modHost (fun h => { h with rxOther := satAdd 16 h.rxOther 1 }))
/-- Rate of a port mode in Gb/s (Table 15.1). -/
def modeRate (m : Nat) : Nat := if m = 1 then 1600 else if m = 2 || m = 3 then 800 else 400
/-- Send what waits on every lane that may send, for RoCEv2, and the responses that waited for lane 1 (R458). -/
def State.drainAll (s : State) : State :=
  (s.host.sessions.foldl (fun s e => (List.range 4).foldl (fun s l =>
    let x := (s.sess e.1).lane l
    if x.waiting.isEmpty && x.ackDue.isNone then s else s.drain e.1 l) s) s.rdmaGo).respondAll
/-- PFC_FRAME: a pause of some quanta of 512 bit times, or the end of one, on each named priority (R402). -/
def execPfcFrame (classes : BitVec 8) (quanta : List Nat) (s : State) : Host.Outcome State Fault Refusal :=
  let until_ := fun (i : Nat) => s.now + cdiv (512 * (quanta.getD i 0 % 65536)) (modeRate s.host.mode)
  .next ((s.modHost (fun h => { h with
    pfc := (List.range 8).foldl (fun m i => if bit classes i then m.set i (until_ i) else m) h.pfc })).drainAll)
/-- HP_ENABLE: ENABLE brings the port up in the selected mode; a reserved mode leaves it down (R401). -/
def execHpEnable (s : State) : Host.Outcome State Fault Refusal :=
  let m := fld s.host.ctl 0 3
  .next (
    if bit s.host.ctl 3 || m = 0 || 5 < m then s
    else s.modHost (fun h => { h with
      ctl := setFld h.ctl 3 1 1
      mode := m }))
/-- HOST_LINK_UP: negotiation and training have completed (R401). -/
def execHostLinkUp (s : State) : Host.Outcome State Fault Refusal :=
  .next (if bit s.host.ctl 3 then s.modHost (fun h => { h with up := true }) else s)
/-- HOST_PORT_DOWN: the link is lost and reported (R514). -/
def execHostPortDown (s : State) : Host.Outcome State Fault Refusal :=
  .next (if s.host.up then (s.modHost (fun h => { h with up := false })).report
      { s.pkgReport codeHostPortDown with site := 98 }
    else s)

/-! ## Sessions (R408, R410, R411) -/

/-- The end of a session's work (R411). -/
def State.closeSession (s : State) (i : Nat) : State :=
  let s0 := s.modSess i (fun x => { x with isOpen := false })
  let s1 := (List.range 12).foldl (fun s p =>
    let s1 := s.modServe p (fun v => { v with joins := v.joins.filter (fun x => x.sess ≠ i) })
    let mine := (s1.serveOf p).reqs.filter (fun r => r.sess = i && r.leaving ≠ 3)
    let s2 := mine.foldl (fun s r => s.cancelOne p r.id) s1
    (s2.modServe p (fun v => { v with reqs := v.reqs.map (fun r =>
      if r.sess = i then { r with queue := [], coalesceAt := none, finalSent := true } else r) })).sweep p) s0
  let s2 := s1.modHost (fun h => { h with
    queries := h.queries.map (fun q => if q.sess = i then { q with orphan := true } else q)
    faults := heldDrop i h.faults
    hostMsgs := heldDrop i h.hostMsgs
    gates := heldDrop i h.gates })
  State.flushFullGates 16 (s2.modSess i (fun _ => {})).flushFaults.flushHostMsgs
/-- A SEQ has been sent 8 times without acknowledgement: the session is lost (R408). -/
def State.loseSession (s : State) (i : Nat) : State :=
  let s1 := s.modHost (fun h => { h with sessLost := satAdd 16 h.sessLost 1 })
  (s1.report { s1.pkgReport codeSessionLost with detail := i }).closeSession i
/-- Resend from ACK + 1, unless the oldest SEQ has been sent 8 times (R407, R408). A lane that may not send waits. -/
def State.resend (s : State) (i l : Nat) : State :=
  let x := (s.sess i).lane l
  match x.flight with
  | [] => s
  | g :: _ =>
    if 8 ≤ g.sent then s.loseSession i
    else if s.laneHeld l then s
    else
      let first := x.txNext.toNat + 2 ^ 32 - x.flight.length
      let again := x.flight.zipIdx.map (fun e => x.gram s.host i l (first + e.2) e.1)
      let y := { x with
        flight := x.flight.map (fun g => { g with sent := g.sent + 1 })
        progressAt := s.now
        rxPend := 0
        ackDue := none }
      let s1 := (s.modLane i l (fun _ => y)).modHost (fun h => { h with retx := satAdd 16 h.retx x.flight.length })
      { s1 with out := s1.out ++ again }
/-- The acknowledgement a datagram carries, and its NAK (R407); room in the window of lane 1 lets responses leave (R458). -/
def State.datagramAck (s : State) (d : Datagram) : State :=
  let s0 := s.ackIn d.session d.lane d.ack
  let s1 := if d.lane = 1 then s0.respondAll else s0
  if d.nak then s1.resend d.session d.lane else s1
/-- The message arriving on a datagram's lane, with the datagram's fragment. -/
def State.joined (s : State) (d : Datagram) : Option RxPart := d.joins ((s.sess d.session).lane d.lane).part
/-- A datagram is accepted in lane order, or discarded: the state, and whether it was accepted (R405 to R407, R410). -/
def State.takeGram (s : State) (d : Datagram) : State × Bool :=
  let i := d.session
  let l := d.lane
  if !s.datagramOk d then (s.rxBad, false)
  else
    let s1 := s.datagramAck d
    if !(s1.sess i).isOpen then (s1, false)
    else if !d.buffered then (s1.modHost (fun h => { h with rxNobuf := satAdd 16 h.rxNobuf 1 }), false)
    else
      let x := (s1.sess i).lane l
      let gap := (d.seq - x.rxSeq).toNat
      if gap = 0 then
        ((s1.laneTake i l (if d.frag + 1 < d.nfrag then s.joined d else none)).acctHost d.plen, true)
      else if gap < 2 ^ 31 && !x.nakSent then ((s1.modLane i l (fun y => { y with nakSent := true })).ackNow i l true, false)
      else (s1, false)
/-- A message that cannot be a message of the host is taken and refused with MALFORMED (chapter 15, after Table 15.4). -/
def State.refuseMsg (s : State) (d : Datagram) : State :=
  let r := s.takeGram d
  if r.2 then r.1.statusTo d.asker d.lane stMalformed 0 0 0 else r.1
/-- A datagram is the last fragment of a whole message of TYPE `type`, on its lane of Table 15.4, with a body of `bytes`. -/
def State.wholeMsg (s : State) (d : Datagram) (lane type bytes : Nat) : Bool :=
  match s.joined d with
  | some x => x.next = x.nfrag && x.bytes = bytes && d.lane = lane && d.type = type
  | none => false
/-- The last fragment of a message is accepted and the message takes effect; one whose body is malformed is refused with MALFORMED (R406,
R414, R418, and after Table 15.4). -/
def State.msgIn (s : State) (d : Datagram) (lane type bytes : Nat) (f : State → State) : State :=
  if d.frag + 1 < d.nfrag then (s.takeGram d).1
  else if d.bodyOk && s.wholeMsg d lane type bytes then
    let r := s.takeGram d
    if r.2 then f r.1 else r.1
  else s.refuseMsg d
/-- TYPEs that the host sends (Table 15.4). -/
def hostTypes : List Nat := [0x01, 0x02, 0x04, 0x10, 0x11, 0x18, 0x20, 0x28, 0x30, 0x38, 0x39]
/-- RHT_FRAGMENT: a datagram that is not the last of its message is accepted in lane order, or discarded; a last one whose TYPE is
reserved, or a message of the device, is refused with MALFORMED (R405 to R407). -/
def execRhtFragment (d : Datagram) (s : State) : Host.Outcome State Fault Refusal :=
  .next (
    if d.frag + 1 < d.nfrag then (s.takeGram d).1
    else if hostTypes.contains d.type then s
    else s.refuseMsg d)
/-- ACK: a header-only acknowledgement; it takes no SEQ (R407). -/
def execAck (d : Datagram) (s : State) : Host.Outcome State Fault Refusal :=
  .next (if d.type ≠ 1 then s else if s.datagramOk d then s.datagramAck d else s.rxBad)
/-- ACK_TIMER: 2 µs after the first datagram not yet acknowledged (R407). -/
def execAckTimer (sess : Fin 16) (lane : Fin 4) (s : State) : Host.Outcome State Fault Refusal :=
  let x := (s.sess sess.val).lane lane.val
  .next (if 0 < x.rxPend && x.rxAt + 2000 ≤ s.now then s.ackNow sess.val lane.val false else s)
/-- RHT_RTO_EXPIRY: no progress on a lane for its RTO (R407, R408). -/
def execRhtRtoExpiry (sess : Fin 16) (lane : Fin 4) (s : State) : Host.Outcome State Fault Refusal :=
  let x := (s.sess sess.val).lane lane.val
  .next (
    if (s.sess sess.val).isOpen && x.progressAt + 1000 * fld s.host.rto (16 * lane.val) 16 ≤ s.now then s.resend sess.val lane.val
    else s)
/-- An OPEN that opens its session: its header is right, and an open session's comes from that session's peer (R405, R410; its SEQ is
not compared, log entry 80). -/
def State.openOk (s : State) (d : Datagram) : Bool :=
  let x := s.sess d.session
  d.formOk s.host.maxpl && d.session < 16 && (!x.isOpen || (d.addr = x.addr && d.port = x.port))
/-- The subscriptions of an OPEN: bit 0 FAULT, bit 1 TELEM, bit 2 GATE (R410). -/
def subsOf (fault telem gate : Bool) : BitVec 8 := BitVec.ofNat 8 (b2n fault + 2 * b2n telem + 4 * b2n gate)
/-- OPEN: a session opens, after the end of one that is open, and is answered OPEN_ACK; held records find a subscriber
(R410, R417, R425, R426). -/
def execRhtOpen (d : Datagram) (fault telem gate : Bool) (s : State) : Host.Outcome State Fault Refusal :=
  let i := d.session
  let x : Session := { isOpen := true, addr := d.addr, port := d.port, subs := subsOf fault telem gate }
  .next (
    if !s.openOk d then s.rxBad
    else if !d.buffered then s.modHost (fun h => { h with rxNobuf := satAdd 16 h.rxNobuf 1 })
    else if d.type ≠ 2 || d.lane ≠ 0 || d.nfrag ≠ 1 || d.frag ≠ 0 || d.plen = 0 || !d.bodyOk then s.refuseMsg d
    else
      let s1 := if (s.sess i).isOpen then s.closeSession i else s
      let s2 := (((s1.modSess i (fun _ => x)).laneTake i 0 none).acctHost d.plen).post i 0 10 (.openAck i s.host.mac.toNat s.ownPkg)
      State.flushFullGates 16 s2.flushFaults.flushHostMsgs)
/-- The CLOSE itself is acknowledged before its session ends. -/
def State.laneAckNow (s : State) (i : Nat) : State :=
  if 0 < ((s.sess i).lane 0).rxPend then s.ackNow i 0 false else s
/-- CLOSE (R411). -/
def execRhtClose (d : Datagram) (s : State) : Host.Outcome State Fault Refusal :=
  .next (s.msgIn d 0 0x04 0 (fun s => (s.laneAckNow d.session).closeSession d.session))

/-! ## Loads (R415, R489, R498) -/

/-- Write the data of a LOAD, and count the bytes that are written: those that no region maps or whose stack is asleep or stopped are
counted and reported instead (R415, R433, R436, R468, R473). -/
def State.loadWrite (s : State) (a : Nat) (data : List Byte) : State × Nat :=
  if s.sec.recovery then
    if a + data.length ≤ stageBytes then (s.modHbm (fun h => h.stageWrite a data), data.length) else (s, 0)
  else
    let bad := (sectorsOf a data.length).filter (fun x => s.hbm.sysCheck x 1 ≠ .ok)
    let s1 := bad.foldl (fun s x => s.sysRefused s.pkgReport x (s.hbm.sysCheck x 1)) s
    let s2 := match s.hbm.stoppedIn a data.length with | some x => s1.hbmUe (s1.pkgReport codeMemUncorr) x | none => s1
    (s2.modHbm (fun h => h.write a data), ((List.range data.length).filter (fun i =>
      match s.hbm.key (a + i) with | some k => s.hbm.takes (k / stackBytes) | none => false)).length)
/-- One LOAD message as it enters the measurement: address, length and data (R498). -/
def loadNote (a : Nat) (data : List Byte) : List Byte := natBytes 8 a ++ natBytes 4 data.length ++ data
/-- LOAD: data is written to HBM; FINAL measures the load and is answered LOAD_DONE (R415, R498). -/
def execLoad (d : Datagram) (addr : BitVec 41) (flags : BitVec 8) (data : List Byte) (s : State) : Host.Outcome State Fault Refusal :=
  let i := d.session
  let a := addr.toNat
  let cls := fld flags 1 3
  .next (s.msgIn d 2 0x20 (16 + data.length) (fun s =>
    if 4 ≤ cls then s.post i 2 16 (.loadDone i 2 0)
    else if a % 64 ≠ 0 || fld flags 4 4 ≠ 0 then s.statusTo d.asker 2 stMalformed 0 0 0
    else if s.sec.recovery && stageBytes < a + data.length then s.post i 2 16 (.loadDone i 2 0)
    else
      let w := s.loadWrite a data
      let s1 := w.1.modSess i (fun x => { x with
        loadBytes := x.loadBytes + w.2
        loadAddr := if x.loadLog.isEmpty then a else x.loadAddr
        loadClass := cls
        loadLog := x.loadLog ++ loadNote a data })
      if bit flags 0 then
        let x := s1.sess i
        let s2 := if cls = 1 || cls = 2 then s1.extend cls x.loadAddr x.loadBytes 0 0 (sha3 x.loadLog) else s1
        (s2.modSess i (fun x => { x with
          loadBytes := 0
          loadAddr := 0
          loadClass := 0
          loadLog := [] })).post i 2 16 (.loadDone i 0 x.loadBytes)
      else s1))

/-! ## Sample ingest (R416, R417) -/

/-- The table entry of an ingest queue as N1 reads it. -/
structure IngEntry where
  base : Nat
  recsz : Nat
  entries : Nat
  core : Nat
  tc : Nat
  notify : Nat
  deriving DecidableEq, Repr
/-- N1 reads the table entry of an ingest queue (R416, R433, R440). -/
def State.ingEntry (s : State) (q : Nat) : State × IngEntry :=
  let r := s.n1Read (s.host.ingTbl + 32 * q) 32
  let f := fun (a n : Nat) => bytesNat ((r.2.drop a).take n)
  (r.1, { base := f 0 8, recsz := f 8 4, entries := f 12 4, core := f 16 2, tc := f 18 1 % 8, notify := f 20 2 })
def State.modIngest (s : State) (q : Nat) (f : Ingest → Ingest) : State :=
  s.modHost (fun h => { h with ingest := h.ingest.set q (f (h.ingest.get {} q)) })
/-- The INGEST_NOTE of a queue (R417). -/
def State.ingNote (s : State) (q : Nat) : BitVec 256 :=
  BitVec.ofNat 256 (0x90 + q * 256 + (s.host.ingest.get {} q).produced % 2 ^ 32 * 2 ^ 32)
/-- A note of the queue that its mailbox has refused. -/
def MboxMsg.refusedNote (q : Nat) (m : MboxMsg) : Bool := m.source = .ingest q && m.retryAt.isSome
/-- INGEST: a sample joins its queue's next record, or is refused TOO_LARGE or QUEUE_FULL (R416, R417). -/
def execIngest (d : Datagram) (queue : BitVec 8) (sampleId : Word) (data : List Byte) (s : State) : Host.Outcome State Fault Refusal :=
  let q := queue.toNat
  .next (s.msgIn d 2 0x28 (16 + data.length) (fun s =>
    let e := s.host.ingest.get {} q
    let r := s.ingEntry q
    let t := r.2
    if 16 ≤ q then s.statusTo d.asker 2 stMalformed 0 sampleId.toNat 0
    else if t.recsz < data.length + 16 then r.1.statusTo d.asker 2 stTooLarge 0 sampleId.toNat 0
    else if t.entries ≤ e.produced - e.freed then r.1.statusTo d.asker 2 stQueueFull 0 sampleId.toNat 0
    else
      let a := t.base + e.produced % t.entries * t.recsz
      let s1 := r.1.sysWrite r.1.pkgReport a (natBytes 8 sampleId.toNat ++ natBytes 4 data.length ++ natBytes 4 0 ++ data)
      let s2 := s1.modIngest q (fun e => { e with produced := e.produced + 1 })
      if s2.mboxes.any (MboxMsg.refusedNote q) then
        { s2 with mboxes := s2.mboxes.map (fun m =>
            if m.refusedNote q then { m with payload := s2.ingNote q, retryAt := none } else m) }
      else if 0 < t.notify && (e.produced + 1) % t.notify = 0 && t.core < 360 then
        { s2 with mboxes := s2.mboxes ++ [{ core := t.core, payload := s2.ingNote q, tc := t.tc, source := .ingest q, retryAt := none }] }
      else s2))
/-- INGEST_NOTE_RETRY: a refused note is offered again after 10 µs with the newer count (R417). -/
def execIngestNoteRetry (queue : Fin 16) (s : State) : Host.Outcome State Fault Refusal :=
  .next (match splitMsg (fun _ m => m.refusedNote queue.val && (match m.retryAt with | some t => t ≤ s.now | none => false)) []
      s.mboxes with
    | some r => s.offer (r.1, { r.2.1 with payload := s.ingNote queue.val }, r.2.2)
    | none => s)
/-- INGEST_FREE: a core returns queue space; other TYPE values are discarded and reported (R417, R544). -/
def execIngestFree (c : CoreId) (s : State) : Host.Outcome State Fault Refusal :=
  .next (match (s.core c.val).headOut 2 with
    | some p =>
      let t := fld p 0 8
      if t = 2 then
        if fld p 8 8 < 16 then
          (s.popMsg c.val 99).modIngest (fld p 8 8) (fun e => { e with freed := max e.freed (fld p 32 32) })
        else s.popMsg c.val 99
      else if t = 1 then s
      else (s.popMsg c.val 99).msgTypeFault c.val
    | none => s)
/-- TO_HOST: N1 takes a core's message, unless it holds 256, and forwards it to the sessions subscribed to FAULT (R417). -/
def execToHost (c : CoreId) (s : State) : Host.Outcome State Fault Refusal :=
  .next (match (s.core c.val).headOut 2 with
    | some p =>
      let t := fld p 0 8
      if t = 1 then
        if 256 ≤ s.host.hostMsgs.length then s
        else ((s.popMsg c.val 99).modHost (fun h => { h with
          hostMsgs := h.hostMsgs ++ [{ item := (c.val, p), sent := false, acked := false, wait := [] }] })).flushHostMsgs
      else if t = 2 then s
      else (s.popMsg c.val 99).msgTypeFault c.val
    | none => s)

/-! ## LC queries (R422, R423, R457) -/

/-- A field of an LC_QUERY outside Table 15.7, or a model that is no resident FIELD model. -/
def State.queryBad (s : State) (q : LcQuery) : Bool :=
  let field := match (s.serveOf q.part).model q.model with | some m => m.mrec.field | none => false
  11 < q.part || 15 < q.model || q.deadlineUs < 1000 || 50000 < q.deadlineUs || q.inLen = 0 || 65536 < q.inLen ||
    q.inLen ≠ q.input.length || q.outMax = 0 || 65536 < q.outMax || !q.zeroOk || !field
/-- LC_QUERY: a query is accepted with its arrival and deadline counts and takes a slot of the next step, or is refused
(R324, R422, R457). -/
def execLcQuery (d : Datagram) (q : LcQuery) (s : State) : Host.Outcome State Fault Refusal :=
  .next (s.msgIn d 1 0x30 (64 + q.input.length) (fun s =>
    let id := q.req.toNat
    if (s.query q.part id).isSome then s.statusTo d.asker 1 stDupReq 0 id 0
    else if s.queryBad q then s.statusTo d.asker 1 stBadParam 0 id 0
    else
      let e : Query :=
        { req := id, part := q.part, model := q.model, answering := q.model, sess := d.session, arrive := s.now,
          deadline := s.now + q.deadlineUs * 1000, outMax := q.outMax, launched := false, fault := false, schedLate := false,
          released := false, output := none, input := q.input, inCrc := crc32c 0 q.input, dcrc := 0, cores := [], passed := [], rest := 0,
          fallback := false, dip := false, orphan := false }
      ((s.modHost (fun h => { h with queries := h.queries ++ [e] })).modServe q.part (fun v =>
        { v with fieldNew := v.fieldNew + 1 })).deadlineCheck q.part id))
/-- LC_OUTPUT_ARRIVE: a query's output reaches N1 on FC1, which checks DCRC; one for no open query is discarded (R457, R459). -/
def execLcOutputArrive (part : Fin 12) (req : Word) (core : CoreId) (dcrc : BitVec 32) (out : List Byte) (s : State) :
    Host.Outcome State Fault Refusal :=
  let p := part.val
  let id := req.toNat
  let s := s.carried { src := dieOf core.val, dst := 99, ep := 8, cls := 1, part := s.partOf core.val } (cdiv out.length 256)
  let bad := (s.modSafety (fun x => { x with dcrcFail := satAdd 16 x.dcrcFail 1 })).report (s.coreReport core.val codeLcOutputCrc)
  .next (match s.query p id with
    | none => bad
    | some q =>
      if crc32c 0 out ≠ dcrc || q.outMax < out.length then
        (bad.modQuery p id (fun q => { q with fault := true })).respond p id
      else (s.modQuery p id (fun q => { q with
        output := some out
        dcrc := dcrc })).respond p id)

/-! ## Device reports (R425 to R427) -/

/-- GATE_RECORD: a core's oldest gate record reaches N1's queue, or is refused with 4,096 held (R225, R226, R425). -/
def execGateRecord (c : CoreId) (s : State) : Host.Outcome State Fault Refusal :=
  .next (match (s.core c.val).hop.gates with
    | r :: rest =>
      let s1 := s.modCore c.val (fun k => { k with hop := { k.hop with gates := rest } })
      if 4096 ≤ s.host.gates.length then
        s1.modCore c.val (fun k => { k with hop := { k.hop with gateDrop := satAdd 16 k.hop.gateDrop 1 } })
      else
        let s2 := s1.modHost (fun h => { h with
          gates := h.gates ++ [{ item := (s.now, r), sent := false, acked := false, wait := [] }] })
        State.flushFullGates 16 s2
    | [] => s)
/-- GATE_FLUSH: the oldest unsent record has waited its time (R425). -/
def execGateFlush (s : State) : Host.Outcome State Fault Refusal :=
  .next (match s.host.gateAt with
    | some t => if t + 1000 * fld s.host.hold 16 16 ≤ s.now then s.flushGates else s
    | none => s)
/-- N1 takes a report: its slot, if it names one, may become FREE (R53). -/
def State.takeReport (s : State) (r : Report) : State :=
  if r.core < 360 && r.slot < 64 then
    s.modCore r.core (fun k => k.modSlot r.slot (fun x => if x.state = .faulted then { x with taken := true } else x))
  else s
/-- FAULT_REPORT: the oldest report reaches N1 and takes an FSEQ, or is discarded with 1,024 held (R426, R522). -/
def execFaultReport (s : State) : Host.Outcome State Fault Refusal :=
  .next (match s.reports with
    | r :: rest =>
      let s0 := State.takeReport { s with reports := rest } r
      let s1 := if r.code = codeLcInputCrc then s0.modSafety (fun x => { x with icrcFail := satAdd 16 x.icrcFail 1 }) else s0
      if 1024 ≤ s1.host.faults.length then
        s1.modHost (fun h => { h with
          faultLost := satAdd 16 h.faultLost 1
          lostSince := h.lostSince + 1 })
      else
        let n := s1.host.nextFseq
        ((s1.modHost (fun h => { h with
          nextFseq := (n + 1) % 2 ^ 32
          faults := h.faults ++ [{ item := (n, 0, r), sent := false, acked := false, wait := [] }] })).modGlob (fun g => { g with
            newest := some (n, r)
            causeCnt := g.causeCnt.set r.cause (satAdd 12 (g.causeCnt.get 0 r.cause) 1) })).flushFaults
    | [] => s)
/-- Word `w` of a client's account record (Table 13.4). -/
def Global.acctWord (g : Global) (cl w : Nat) : Nat :=
  let k := fun (key : Nat) => g.acct.get 0 key
  match w with
  | 11 => min (2 ^ 32 - 1) (k (acctLinkKey cl) / 4096) + min (2 ^ 32 - 1) (k (acctHostKey cl) / 4096) * 2 ^ 32
  | 12 => min (2 ^ 32 - 1) (k (acctFlashKey cl) / 4096) + min (2 ^ 32 - 1) (k (acctSaveKey cl) / 65536) * 2 ^ 32
  | 15 => min (2 ^ 32 - 1) (k (acctSoloKey cl) / 1024) + min (2 ^ 32 - 1) (k (acctMeasKey cl) / 1024) * 2 ^ 32
  | _ => k (cl * 16 + w)
/-- Clients with activity. -/
def Global.activeClients (g : Global) : List Nat :=
  (List.range 1024).filter (fun cl => (List.range 16).any (fun w => g.acctWord cl w ≠ 0))
def BayState.code : BayState → Nat
  | .on => 0 | .retention => 1 | .gated => 2 | .reset => 3
/-- The BAY record: what the state holds, and free values for what is measured on the rails and sensors (R485). -/
def State.bayRecord (s : State) : State × List Nat :=
  (List.range 12).foldl (fun (a : State × List Nat) b =>
    let x := a.1.bay b
    let v := a.1.draw 80
    let new := x.clk.drop (x.clk.length - (x.nextClk - x.clkSent))
    (v.2.modBay b (fun y =>
      { y with
        energy := 0
        clkSent := y.nextClk }),
     a.2 ++ [x.state.code, (match x.clk.getLast? with | some e => e.freq | none => 0), x.planBin, x.thrBin, x.offset,
       fld v.1 0 16, fld v.1 16 16, fld v.1 32 16, x.energy, fld v.1 48 16, x.dipCnt, fld v.1 64 16, x.horizon.toNat,
       b2n x.dipStress, new.length] ++ new.flatMap (fun e => [e.ctl, e.mash, e.freq, e.cause]))) (s, [])
/-- TELEM_PERIOD: the CLIENT and BAY records leave (R427, R485). -/
def execTelemPeriod (s : State) : Host.Outcome State Fault Refusal :=
  .next (
    if s.host.telemAt + 1000000 * fld s.host.hold 32 16 ≤ s.now then
      let s1 := s.chargeAll.modHost (fun h => { h with telemAt := s.now })
      let s2 := s1.glob.activeClients.foldl (fun s cl =>
        s.telemetry 2 0 s.now 160 (cl :: (List.range 16).map (s.glob.acctWord cl) ++
          [s.glob.acct.get 0 (acctMeasKey cl), s.glob.acct.get 0 (acctSoloKey cl)])) s1
      let b := s2.bayRecord
      b.1.telemetry 3 0 b.1.now (16 + 8 * b.2.length) b.2
    else s)

/-! ## RoCEv2 (R428 to R430) -/

def State.modQp (s : State) (t : Nat) (f : Qp → Qp) : State := s.modHost (fun h => { h with qps := h.qps.set t (f (h.qps.get {} t)) })
/-- The store target whose queue pair has a local QPN: 0x100 + i for target i (R428). -/
def State.qpTarget (s : State) (qpn : Nat) : Option Nat := if 0x100 ≤ qpn && qpn < 0x100 + s.ntgt then some (qpn - 0x100) else none
/-- Any other inbound RoCEv2 packet is discarded and counted (R428). -/
def State.roceDropped (s : State) : State := s.modHost (fun h => { h with roceDrop := satAdd 16 h.roceDrop 1 })
/-- ROCE_ACK: WRITEs of a store target are acknowledged; with the last of a part it counts as written, and a queue pair in
error fails the tier write (R387, R429). -/
def execRoceAck (qpn : BitVec 24) (stripes : Nat) (err : Bool) (s : State) : Host.Outcome State Fault Refusal :=
  let cur := s.ckpt.writes.find? (fun w => w.2.1)
  .next (
    match s.qpTarget qpn.toNat with
    | none => s.roceDropped
    | some target =>
      match cur with
      | none => if err then s.modQp target (fun q => { q with error := true }) else s
      | some w =>
        let drop := fun (s : State) => s.modCkpt (fun k => { k with writes := k.writes.filter (fun x => x ≠ w) })
        if err then ((drop s).modQp target (fun q => { q with error := true })).tierFail w.1 true
        else if w.2.2 ≤ stripes then (drop s).ownPart w.1 true
        else s.modCkpt (fun k => { k with writes := k.writes.map (fun x => if x = w then (w.1, true, w.2.2 - stripes) else x) }))
/-- CNP: the rate of a queue pair is halved, at most once every 50 µs (R430). -/
def execCnp (qpn : BitVec 24) (s : State) : Host.Outcome State Fault Refusal :=
  .next (
    match s.qpTarget qpn.toNat with
    | none => s.roceDropped
    | some target => (s.modHost (fun h => { h with cnp := satAdd 16 h.cnp 1 })).modQp target (fun q =>
      let cut := match q.lastCut with | some t => decide (t + 50000 ≤ s.now) | none => true
      { q with
        rate := if cut then q.rate / 2 else q.rate
        lastCut := if cut then some s.now else q.lastCut
        lastCnp := s.now }))
/-- ROCE_RATE_RAISE: 100 µs without a notification raise the rate by 1/16 of the line rate (R430). -/
def execRoceRateRaise (target : BitVec 6) (s : State) : Host.Outcome State Fault Refusal :=
  let q := s.host.qps.get {} target.toNat
  .next (
    if q.lastCnp + 100000 ≤ s.now then s.modQp target.toNat (fun q =>
      { q with
        rate := min (2 ^ 40) (q.rate + 2 ^ 36)
        lastCnp := s.now })
    else s)
/-- RDMA_READ_RESPONSE: data of the restore read arrives from an offset of the part: its 4 KiB block is kept, the shard behind it goes
to both copies (R396, R429); the bytes are host bytes of client 0 (R381, R523). -/
def execRdmaReadResponse (at_ : ReadAt) (data : List Byte) (s : State) : Host.Outcome State Fault Refusal :=
  .next (
    let offset := at_.offset
    if s.ckpt.fill.fromStore && s.ckpt.fill.state = 3 && (s.qpTarget at_.qpn.toNat).isSome then
      let s1 := (s.acctHost data.length).modHost (fun h => { h with restoreBytes := h.restoreBytes + data.length })
      let s2 := s1.modCkpt (fun k => { k with block := memWrite k.block offset (data.take (4096 - offset)) })
      s2.shardPut (s.fillOff + (offset - 4096)) (data.drop (4096 - offset))
    else s.roceDropped)

end Sys2Proof.Machine
end

