-- ==== Sys2Proof/Machine/Roster.lean ====
section
/-! DEFINITION. The messages of the host that act on serving and the scheduler: roster operations, cancels, doorbells (R325, R350
to R358, R362, R414, R418, R419). -/

namespace Sys2Proof.Machine

/-! ## Roster operations (R325, R330, R350 to R357, R418, R419) -/

/-- Bytes of a roster message (Table 15.5). -/
def rosterBytes (prompt : Nat) : Nat := 112 + 4 * prompt
/-- PROMPT class indices follow the record, each with bits [31:20] zero (R418). -/
def promptOk (j : JoinRec) : Bool := j.toks.length = j.prompt && j.toks.all (fun t => t.toNat < 1048576)
/-- JOIN: a join arrives; it is refused at once or waits for its decision (R326, R330, R418, R419). -/
def execJoin (d : Datagram) (part : Fin 12) (step : BitVec 32) (j : JoinRec) (s : State) : Host.Outcome State Fault Refusal :=
  let p := part.val
  let id := j.req.toNat
  .next (s.msgIn d 3 0x38 (rosterBytes j.prompt) (fun s =>
    let v := s.serveOf p
    if !promptOk j then s.joinStatus d.asker stMalformed 0 id 0
    else if v.knows id then s.joinStatus d.asker stDupReq 0 id 0
    else if j.resume then s.joinStatus d.asker stBadParam 0 id 0
    else match v.joinRefused j with
      | some code => s.joinStatus d.asker code 0 id 0
      | none =>
        if s.cancelHeld p id then s.takeCancel p d.asker id
        else (s.lateTag p step).modServe p (fun v => v.queueJoin d.asker step.toNat j)))
/-- RESUME: a join that names a paused request; EXPIRED when its cache is gone (R357). -/
def execResume (d : Datagram) (part : Fin 12) (step : BitVec 32) (j : JoinRec) (s : State) : Host.Outcome State Fault Refusal :=
  let p := part.val
  let id := j.req.toNat
  .next (s.msgIn d 3 0x38 (rosterBytes j.prompt) (fun s =>
    let v := s.serveOf p
    if !promptOk j then s.joinStatus d.asker stMalformed 0 id 0
    else if !j.resume then s.joinStatus d.asker stBadParam 0 id 0
    else if v.joins.any (fun x => x.jrec.req.toNat = id) then s.joinStatus d.asker stDupReq 0 id 0
    else match v.req id with
      | some r => if r.paused then (s.lateTag p step).modServe p (fun v => v.queueJoin d.asker step.toNat j)
        else s.joinStatus d.asker (if r.slot.isSome && !r.lost then stDupReq else stExpired) 0 id 0
      | none => s.joinStatus d.asker stExpired 0 id 0))
/-- Queue a roster operation for its decision. -/
def State.rosterOp (s : State) (d : Datagram) (p : Nat) (step : BitVec 32) (bytes : Nat) (o : RosterOp) : State :=
  s.msgIn d 3 0x38 bytes (fun s => (s.lateTag p step).modServe p (fun v => { v with ops := v.ops ++ [(step.toNat, d.asker, o)] }))
/-- LEAVE (R325, R329). -/
def execLeave (d : Datagram) (part : Fin 12) (step : BitVec 32) (req : Word) (s : State) : Host.Outcome State Fault Refusal :=
  .next (s.rosterOp d part.val step 16 (.leave req))
/-- PAUSE (R325, R355). -/
def execPause (d : Datagram) (part : Fin 12) (step : BitVec 32) (req : Word) (s : State) : Host.Outcome State Fault Refusal :=
  .next (s.rosterOp d part.val step 16 (.pause req))
/-- REBIND (R325, R354). -/
def execRebind (d : Datagram) (part : Fin 12) (step : BitVec 32) (req : Word) (adapter : BitVec 32) (gen : BitVec 16)
    (s : State) : Host.Outcome State Fault Refusal :=
  .next (s.rosterOp d part.val step 32 (.rebind req adapter.toNat gen.toNat))
/-- PREFIX_DROP: the host gives a handle up (R350); PREFIX_MISS for an unknown one. -/
def execPrefixDrop (d : Datagram) (part : Fin 12) (handle : Word) (s : State) : Host.Outcome State Fault Refusal :=
  .next (s.msgIn d 3 0x38 16 (fun s =>
    match (s.serveOf part.val).handle handle.toNat with
    | some _ => s.modHandle part.val handle.toNat (fun x => { x with dropped := true })
    | none => s.joinStatus d.asker stPrefixMiss 0 handle.toNat 0))

/-! ## Cancels (R358, R419) -/

/-- CANCEL: takes effect at once; one for an unknown request is held (R358, R359, R419). -/
def execCancel (d : Datagram) (part : Fin 12) (req : Word) (s : State) : Host.Outcome State Fault Refusal :=
  let p := part.val
  let id := req.toNat
  .next (s.msgIn d 0 0x39 16 (fun s =>
    if (s.serveOf p).knows id || (s.query p id).isSome then s.cancelOne p id
    else s.modServe p (fun v => { v with cancels := v.cancels ++ [(id, d.asker, s.now)] })))

/-! ## Doorbells (R362, R414) -/

/-- Bytes of the message whose last fragment a datagram is. -/
def State.bodyOf (s : State) (d : Datagram) : Nat := match s.joined d with | some x => x.bytes | none => 0
/-- One entry of a DOORBELL message: the first takes the message, of 1 to 256 entries of 24 bytes; a later one follows on the message
just taken, which is the last that its lane has accepted, as its next entry (R414). -/
def State.doorbell (s : State) (d : Datagram) (entry : Nat) (f : State → State) : State :=
  let x := s.sess d.session
  if entry = 0 then
    let n := s.bodyOf d
    let t := s.modSess d.session (fun x => { x with bells := 0, bellNext := 0 })
    if n = 0 || n % 24 ≠ 0 || 6144 < n then (if d.frag + 1 < d.nfrag then (s.takeGram d).1 else t.refuseMsg d)
    else s.msgIn d 0 0x18 n (fun s => f (s.modSess d.session (fun x => { x with bells := n / 24, bellNext := 1 })))
  else if s.datagramOk d && d.lane = 0 && d.type = 0x18 && d.seq + 1 = (x.lane 0).rxSeq && entry < x.bells && entry = x.bellNext then
    f (s.modSess d.session (fun x => { x with bellNext := x.bellNext + 1 }))
  else s
/-- DOORBELL_SUBMIT: a host submission (R362, R414). -/
def execDoorbellSubmit (e : DoorbellIn) (part : Fin 12) (addr : BitVec 41) (s : State) : Host.Outcome State Fault Refusal :=
  .next (s.doorbell e.d e.entry.val (fun t =>
    t.submit part.val addr.toNat (fun t kid => t.statusTo e.d.asker 0 stSubmitBad 0 kid 0)))
/-- RING_CONSUMED: the host returns ring space; a value above the entries written is counted in BAD_DB (R347, R414). -/
def execRingConsumed (e : DoorbellIn) (part : Fin 12) (req : Word) (consumed : Nat) (s : State) : Host.Outcome State Fault Refusal :=
  let p := part.val
  .next (s.doorbell e.d e.entry.val (fun s =>
    match (s.serveOf p).req req.toNat with
    | none => s
    | some r =>
      if r.ringS < consumed then s.modHost (fun h => { h with badDb := satAdd 16 h.badDb 1 })
      else if consumed ≤ r.consumed then s
      else
        let s1 := s.modReq p r.id (fun r => { r with consumed := consumed })
        if s1.ringDue r then s1.ringFlush p r.id else s1))

end Sys2Proof.Machine
end

