-- ==== Sys2Proof/Machine/Memory.lean ====
section
/-! DEFINITION. HBM requests, the region table, arbitration shares, patrol scrub, and flash transfers (chapter 16). -/

namespace Sys2Proof.Machine

/-! ## Requests (R433, R436, R437, R439) -/

/-- The partition whose cores a request is checked for: N1, flash controllers, Saddle and context moves reach every region. -/
def hbmReqCheck (s : State) (q : HbmReq) : HbmCheck :=
  match q.who with
  | .core c => s.hbm.check (s.partOf c.val) q.write.isSome q.addr.toNat
  | _ =>
    match s.hbm.find q.addr.toNat with
    | some r => if s.hbm.asleep (r.place q.addr.toNat).1 then .denied else .ok
    | none => .unmapped
/-- The report of a refused request: about its core, or about the package. -/
def hbmReqReport (s : State) (q : HbmReq) (code : Nat) : Report :=
  match q.who with
  | .core c | .saveRestore c => { s.coreReport c.val code with addr := q.addr.toNat }
  | _ => { s.pkgReport code with addr := q.addr.toNat }
/-- The writes under way to one tier fail: N1 reads for the store, a flash controller for local flash (Table 16.1). -/
def State.failWrites (s : State) (store : Bool) : State :=
  (s.ckpt.writes.filter (fun w => w.2.1 = store)).foldl (fun s w => s.tierFail w.1 w.2.1)
    (s.modCkpt (fun k => { k with writes := k.writes.filter (fun w => w.2.1 ≠ store) }))
/-- HBM_REQUEST: a sector is mapped, checked and read or written (R433, R436, R437, Table 16.1). -/
def execHbmRequest (q : HbmReq) (s : State) : Host.Outcome State Fault Refusal :=
  let a := q.addr.toNat / 64 * 64
  .next (match hbmReqCheck s q with
    | .unmapped => (s.modHbm (·.countUnmapped)).report (hbmReqReport s q codeHbmUnmapped)
    | .denied => (s.modHbm (·.countDenied)).report (hbmReqReport s q codeHbmDenied)
    | .ok =>
      match q.write with
      | some bs =>
        match s.hbm.stoppedIn a 64 with
        | some x => s.hbmUe (hbmReqReport s q codeMemUncorr) x
        | none => s.modHbm (fun h => h.write a (bs.take 64))
      | none =>
        if s.hbm.mark a = 2 then
          let s1 := s.hbmUe (hbmReqReport s q codeMemUncorr) a
          match q.who with
          | .n1 => s1.failWrites true
          | .flash => s1.failWrites false
          | .saveRestore c => s1.restoreFault c.val
          | _ => s1
        else s.modHbm (fun h => h.fix a 64))

/-! ## The region table (R434, R435) -/

/-- Stacks and frames of a region. -/
def Region.stacks (r : Region) : List Nat := if r.spread then List.range 24 else [2 * r.bay, 2 * r.bay + 1]
def Region.frames (r : Region) : Nat := cdiv r.len4k (if r.spread then 24 else 2)
/-- The first reason of R434 to refuse a region; zero for none. -/
def Hbm.refusal (h : Hbm) (n : Nat) (r : Region) : Nat :=
  let others := ((List.range 64).filter (fun i => i ≠ n && h.valid i)).map h.region
  let meets := fun (a la b lb : Nat) => a < b + lb && b < a + la
  if 15625000 < r.phys4k + r.frames || r.base % 4096 ≠ 0 || r.len4k = 0 || 2 ^ 41 < r.base + r.len4k * 4096 ||
      (!r.spread && 11 < r.bay) then 2
  else if others.any (fun o => meets r.base (r.len4k * 4096) o.base (o.len4k * 4096)) then 3
  else if others.any (fun o => r.stacks.any (fun x => o.stacks.contains x) && meets r.phys4k r.frames o.phys4k o.frames) then 4
  else 0
/-- Writable bits of the two entry words (Table 16.3). -/
def rgnBits (v : Word) : Word := BitVec.ofNat 64 (fld v 0 52)
def rgn2Bits (v : Word) : Word := BitVec.ofNat 64 (fld v 0 53)
/-- A write of HBM_RGN_r (R434, R435). -/
def Hbm.writeRgn (h : Hbm) (n : Nat) (v : Word) : Hbm :=
  let old := h.rgn.get 0 n
  let new := rgnBits v
  if bit old 41 then
    let differs := setFld new 41 1 0 ≠ setFld old 41 1 0
    if bit new 41 then { h with err := if differs then 1 else 0 }
    else { h with
      rgn := h.rgn.set n (setFld old 41 1 0)
      err := if differs then 1 else 0 }
  else if bit new 41 then
    let e := h.refusal n (regionOf new (h.rgn2.get 0 n))
    Hbm.rehome { h with
      rgn := h.rgn.set n (if e = 0 then new else setFld new 41 1 0)
      err := e }
  else { h with
    rgn := h.rgn.set n new
    err := 0 }
/-- A write of HBM_RGN2_r: ignored with ERR 1 while the entry is VALID and a field differs (R434). -/
def Hbm.writeRgn2 (h : Hbm) (n : Nat) (v : Word) : Hbm :=
  if h.valid n then { h with err := if rgn2Bits v ≠ h.rgn2.get 0 n then 1 else 0 }
  else { h with
    rgn2 := h.rgn2.set n (rgn2Bits v)
    err := 0 }
/-- HBM_REGION_VALIDATE: VALID is set, or refused (R434). -/
def execHbmRegionValidate (r : Fin 64) (v : Word) (s : State) : Host.Outcome State Fault Refusal :=
  .next (if bit v 41 then s.modHbm (fun h => h.writeRgn r.val v) else s)
/-- HBM_REGION_INVALIDATE: VALID is cleared for later requests; frames keep their data (R435). -/
def execHbmRegionInvalidate (r : Fin 64) (v : Word) (s : State) : Host.Outcome State Fault Refusal :=
  .next (if bit v 41 then s else s.modHbm (fun h => h.writeRgn r.val v))
/-- HBM_ARB_b with its reset value (Table 16.3). -/
def Hbm.arbOf (h : Hbm) (b : Nat) : Word := h.arb.get 0x143C b
def Hbm.writeArb (h : Hbm) (b : Nat) (v : Word) : Hbm :=
  if 100 < fld v 0 7 + fld v 7 7 then h else { h with arb := h.arb.set b (BitVec.ofNat 64 (fld v 0 14)) }
/-- HBM_ARB_WRITE: rejected when the shares exceed 100 (R438). -/
def execHbmArbWrite (bay : Fin 12) (v : Word) (s : State) : Host.Outcome State Fault Refusal :=
  .next (s.modHbm (fun h => h.writeArb bay.val v))

/-! ## Patrol scrub (R442) -/

/-- The package address of a stack offset, through the region table. -/
def Hbm.addrOf (h : Hbm) (st off : Nat) : Option Nat :=
  ((List.range 64).filter h.valid).findSome? (fun n =>
    let r := h.region n
    let f := off / 4096
    if r.stacks.contains st && r.phys4k ≤ f then
      let u := if r.spread then (f - r.phys4k) * 24 + st else (f - r.phys4k) * 2 + (st - 2 * r.bay)
      if u < r.len4k then some (r.base + u * 4096 + off % 4096) else none
    else none)
/-- Scrub one HBM sector. -/
def State.scrubSector (s : State) (st sector : Nat) : State :=
  let key := st * stackBytes + sector * 64
  match (if s.hbm.moved.contains (key / 64) then 2 else s.hbm.bad.get 0 (key / 64)) with
  | 1 => s.modHbm (fun h => { h with
      bad := h.bad.erase (key / 64)
      ce := h.ce.set st (satAdd 32 (h.ce.get 0 st) 1) })
  | 2 =>
    match s.hbm.addrOf st (sector * 64) with
    | some a => s.hbmUe { s.pkgReport codeMemUncorr with site := 60 + st } a
    | none => s.hbmUeAt { s.pkgReport codeMemUncorr with site := 60 + st } key
  | _ => s
/-- Scrub one scratchpad line. -/
def State.scrubLine (s : State) (c n : Nat) : State :=
  let k := (s.core c).spFix (256 * n) 256
  if k.spBad (256 * n) 256 then
    let s1 := s.setCore c (k.spUeCount (256 * n) 256)
    s1.report { s1.coreReport c codeMemUncorr with addr := n }
  else s.setCore c k
/-- Scrub one accumulator row; its last row ends a pass. -/
def State.scrubRow (s : State) (c n : Nat) : State :=
  let mine := fun (e : Nat × Nat) => e.1 / 256 = n
  let k := s.core c
  let ce := (k.mash.err.filter (fun e => mine e && e.2 = 1)).length
  let s1 := s.setCore c { k with
    passes := if n = 1023 then satAdd 32 k.passes 1 else k.passes
    mash := { k.mash with
      accCe := satAdd 16 k.mash.accCe ce
      err := k.mash.err.filter (fun e => !(mine e && e.2 = 1)) } }
  if k.mash.err.any (fun e => mine e && e.2 = 2) then s1.report { s1.coreReport c codeMemUncorr with addr := n } else s1
/-- PATROL_SCRUB (R442): sectors only while HBM_SCRUB.EN is 1. -/
def execPatrolScrub (t : ScrubTarget) (s : State) : Host.Outcome State Fault Refusal :=
  .next (match t with
    | .sector st n => if bit s.hbm.scrub 8 && n < 1000000000 then s.scrubSector st.val n else s
    | .line c n => s.scrubLine c.val n.toNat
    | .row c n => s.scrubRow c.val n.toNat)

/-! ## Flash (R443 to R447) -/

/-- A write of FL_CFG.CKPT_GB (R444). -/
def State.writeFlCfg (s : State) (v : Word) : State :=
  let gb := fld v 0 13
  let ok := s.gens.isEmpty && s.flash.paused.isEmpty && gb ≤ 7996
  { s with flash := { s.flash with cfg := if ok then BitVec.ofNat 64 gb else setFld s.flash.cfg 13 1 1 } }
/-- CKPT_GB_WRITE (R444). -/
def execCkptGbWrite (v : Word) (s : State) : Host.Outcome State Fault Refusal := .next (s.writeFlCfg v)
/-- The flash copy of a paused cache cannot be read again: it is counted as lost and its request ends; a RESUME whose load
was under way is answered EXPIRED (R445, R446). -/
def State.loseCache (s : State) (p id : Nat) : State :=
  let s1 := { s with flash := { s.flash with lost := satAdd 16 s.flash.lost 1 } }
  match (s1.serveOf p).req id with
  | none => s1.dropCache p id
  | some r =>
    if r.paused then
      ((s1.endPaused p r 4).refuseResume p id).sweep p
    else
      let step := (s1.serveOf p).step
      let s2 := (s1.dropCache p id).modReq p id (fun r =>
        { r with
          loading := false
          lost := true
          leaving := if r.leaving = 0 then 2 else r.leaving
          leaveStep := if r.leaving = 0 then step.toNat else r.leaveStep })
      (s2.joinStatus r.asker stExpired 0 id 0).holdToken p id (r.noToken 0x200 step)
/-- A flash write of the package's part of generation `step` has ended. -/
def State.flashPart (s : State) (step : Nat) (uncorr : Bool) : State :=
  let s1 := s.modCkpt (fun k => { k with writes := k.writes.filter (fun w => !(w.1 = step && !w.2.1)) })
  if uncorr || s.flash.stopped then s1.tierFail step false
  else
    let bytes := s.shardBytes + 4096
    (((s1.acctKey (acctFlashKey 0) bytes).modGlob (fun g => { g with acctFlash := satAdd 64 g.acctFlash bytes })).flashWrite
      bytes).ownPart step false
/-- FLASH_TRANSFER_DONE: the read of a restore with the digest recomputed from what was read, the write of a generation's part, or an uncorrectable read of a paused cache
(R387, R389, R445). -/
def execFlashTransferDone (ckpt : Bool) (step : BitVec 32) (part : Fin 12) (req : Word) (digest : BitVec 512) (uncorr : Bool)
    (s : State) : Host.Outcome State Fault Refusal :=
  let n := step.toNat
  let ue := fun (s : State) => { s with flash := { s.flash with ue := satAdd 16 s.flash.ue 1 } }
  let dead := uncorr || (List.range 4).any (fun i => s.flash.state i = 3)
  .next (
    if ckpt then
      if s.ckpt.restore = some n then
        if dead then
          (if uncorr then ue s else s).restoreRead n (match s.gens.find? (fun g => g.step = n) with | some g => ~~~ g.digest | none => digest)
        else s.restoreRead n digest
      else if s.ckpt.writes.any (fun w => w.1 = n && !w.2.1) then s.flashPart n uncorr
      else s
    else if uncorr && s.flash.paused.any (fun c => c.part = part.val && c.req = req.toNat) then
      (ue s).loseCache part.val req.toNat
    else s)
/-- FLASH_STACK_FAILURE: a stack is FAILED and reported; the paused caches, striped over the four stacks, are lost (R446,
R447). -/
def execFlashStackFailure (f : Fin 4) (s : State) : Host.Outcome State Fault Refusal :=
  let s1 := { s with flash := { s.flash with st := s.flash.st.set f.val 3 } }
  .next (s1.flash.paused.foldl (fun s c => s.loseCache c.part c.req) (s1.report (s1.flashReport f.val)))

end Sys2Proof.Machine
end

