-- ==== Sys2Proof/Machine/Clock.lean ====
section
/-! DEFINITION. The mash clock and clock record of a bay, its limits and its ageing plan, as operations (chapter 18), and the
output pins. -/

namespace Sys2Proof.Machine

/-! ## Pins (R502, R535) -/

/-- Output pins of `Out.pin`. -/
def pinReady : Nat := 0
def pinThermAlert : Nat := 1
/-- THERM_ALERT_N is low while any sensor reads at or above THROTTLE_C, and after a thermal trip (R535). -/
def State.alertLow (s : State) : Bool :=
  s.rst.thermAlert || (List.range 12).any (fun b => fld s.glob.thermCtl 0 8 ≤ (s.bay b).temp)
/-- Drive THERM_ALERT_N when its level has changed since `before`. -/
def State.alertPin (s : State) (before : Bool) : State :=
  if s.alertLow = before then s else s.emit (.pin pinThermAlert (!s.alertLow))

/-! ## Frequency and the clock record (R466, R475) -/

/-- Bins of PLAN_BIN and THR_BIN together, limited to 20 (R466). -/
def Bay.bins (x : Bay) : Nat := min 20 (x.planBin + x.thrBin)
/-- The mash clock in units of 12.5 MHz: 1,300 MHz less 25 MHz a bin, halved in a dip (R466, R470). -/
def Bay.freq (x : Bay) : Nat := if x.dip then 52 - x.pllBin else 104 - 2 * x.pllBin
def causeReset : Nat := 0
def causeOn : Nat := 1
def causeDip : Nat := 2
def causeRestore : Nat := 3
def causePlan : Nat := 4
def causeThermal : Nat := 5
def causePower : Nat := 6
/-- Write an entry of the clock record: a ring of 64; the loss of an entry not yet sent is counted (R475). -/
def Bay.note (x : Bay) (ctl cause : Nat) : Bay :=
  let e : ClkEntry := { seq := x.nextClk, ctl := ctl, mash := x.mash, freq := x.freq, cause := cause }
  let full := decide (64 ≤ x.clk.length)
  let lost := match x.clk.head? with | some o => full && decide (x.clkSent ≤ o.seq) | none => false
  { x with
    clk := (if full then x.clk.drop 1 else x.clk) ++ [e]
    nextClk := x.nextClk + 1
    overrun := if lost then satAdd 16 x.overrun 1 else x.overrun }
/-- The setpoint that the monitor thresholds follow: a raised one counts from its acknowledgement, a lowered one at once (R469). -/
def Bay.level (x : Bay) : Nat := min x.acked (700 + x.offset)
/-- A reading lies below a percentage of that setpoint. -/
def Bay.below (x : Bay) (mv percent : Nat) : Bool := mv * 100 < percent * x.level
/-- The control count of mash count `c` of a bay: from the entry with the largest mash count not above it, at that entry's frequency of
12.5 MHz units (R476). -/
def Bay.ctlOf (x : Bay) (c : Nat) : Option Nat :=
  ((x.clk.filter (fun e => e.mash ≤ c)).getLast?).map (fun e => e.ctl + (c - e.mash) * 80 / e.freq)
/-- A report about a bay, in the domain of its mash clock (Table 20.3). -/
def State.bayReport (s : State) (b code : Nat) : Report :=
  { s.pkgReport code with unit := b, domain := 0x10 + b, count := (s.bay b).mash }

/-! ## The ageing plan (R482 to R484) -/

/-- The last re-plans show no decline: no sample, newest first, lies below the one before it. -/
def noDecline : List Nat → Bool
  | a :: b :: l => decide (b ≤ a) && noDecline (b :: l)
  | _ => true
/-- The margin horizon (R484): the value of the fit is free where it decides (log entry 40). -/
def State.horizon (s : State) (x : Bay) : BitVec 16 × State :=
  if 4 < x.planBin then (0, s)
  else if x.slacks.length < 7 || noDecline x.slacks then (0xFFFF, s)
  else s.draw 16
/-- A re-plan of bay `b`: with the worst slack below SLACK_MIN the setpoint rises in steps of 5 mV to +30 mV and then PLAN_BIN by
bins; neither ever falls. A sample after a dip stays outside the trend (R482, R483). -/
def State.replan (s : State) (b slack raise bins : Nat) (trend : Bool) : State :=
  let x := s.bay b
  let low : Bool := (slack < fld s.glob.thermCtl 16 16 : Bool)
  let offset := if low then min 30 (x.offset + raise / 5 * 5) else x.offset
  let plan := if low && offset = 30 then min 20 (x.planBin + bins) else x.planBin
  let y := { x with
    offset := max x.offset offset
    planBin := max x.planBin plan
    binCause := if x.planBin < plan then causePlan else x.binCause
    slack := BitVec.ofNat 16 slack
    replans := satAdd 16 x.replans 1
    slacks := if trend then (slack :: x.slacks).take 30 else x.slacks
    dayDips := if trend then 0 else x.dayDips
    lastPlan := if trend then s.now else x.lastPlan
    planDue := false }
  let h := s.horizon y
  let s1 := h.2.setBay b { y with horizon := h.1 }
  if x.offset < y.offset then s1.emit (.pmbus b (700 + y.offset)) else s1
/-- A re-plan whose sample and steps nothing outside states, before a bay goes ON: they are free (log entry 41). -/
def State.replanFree (s : State) (b : Nat) : State :=
  let r := s.draw 24
  r.2.replan b (fld r.1 0 16) (5 * (fld r.1 16 3 % 7)) (fld r.1 19 5) false
/-- The PLL of a bay stands at its bins, and the bay goes ON with its mash counter at zero (R468, R474, R475). -/
def State.bayOn (s : State) (b : Nat) : State :=
  s.modBay b (fun x =>
    ({ x with
      state := .on
      dip := false
      restoreAt := none
      pllBin := x.bins
      mash := 0
      mashFrac := 0 }).note s.now causeOn)

/-! ## THR_BIN (R478, R480) -/

/-- The thermal rule lets THR_BIN fall: every sensor has read below THROTTLE_C − 3 °C for 1 ms (R478). -/
def State.coolEnough (s : State) (x : Bay) : Bool :=
  x.temp + 3 < fld s.glob.thermCtl 0 8 && x.coolSince + 1000000 ≤ s.now
/-- The mean of the last measurements, compared with a percentage of CAP_W (R480). -/
def State.meanBelow (s : State) (percent : Nat) : Bool :=
  s.glob.watts.isEmpty || s.glob.watts.foldl (· + ·) 0 * 100 < percent * fld s.glob.pkgCap 0 16 * s.glob.watts.length
/-- The mean exceeds CAP_W. -/
def State.meanAbove (s : State) : Bool :=
  fld s.glob.pkgCap 0 16 * s.glob.watts.length < s.glob.watts.foldl (· + ·) 0
/-- THR_BIN rises by one, up to the limit of R466. -/
def Bay.rise (x : Bay) (now cause : Nat) : Bay :=
  if x.planBin + x.thrBin < 20 then
    { x with
      thrBin := x.thrBin + 1
      lastBin := now
      binCause := cause }
  else x
/-- THR_BIN falls by one, 1 ms after its last change, when both rules allow it. -/
def State.thrFall (s : State) (b cause : Nat) : State :=
  let x := s.bay b
  if 0 < x.thrBin && x.lastBin + 1000000 ≤ s.now && s.coolEnough x && s.meanBelow 95 then
    s.setBay b { x with
      thrBin := x.thrBin - 1
      lastBin := s.now
      binCause := cause }
  else s

end Sys2Proof.Machine
end

