-- ==== Sys2Proof/Machine/Reset.lean ====
section
/-! DEFINITION. Re-initialisations, bay resets and package resets, and the power-up sequence (chapter 20). -/

namespace Sys2Proof.Machine

def State.modRst (s : State) (f : Reset → Reset) : State := { s with rst := f s.rst }

/-! ## Scopes (Table 20.2, R505) -/

/-- A core after its re-initialisation: everything at its reset value, its counters counting from the mash count `mash` (R254);
what the scheduler and Saddle hold of it stays. -/
def Core.fresh (k : Core) (mash : Nat) : Core :=
  { sched := k.sched, retired := k.retired, phase := { mark := mash }, dwq := { idleSince := mash } }
/-- Every placed kernel with an instance on one of the cores ends with status KILLED; a saved one stays saved (R505). -/
def State.killScope (s : State) (cores : List Nat) : State :=
  (List.range 12).foldl (fun s p =>
    ((s.schedOf p).placed.filter (fun w => w.holds.any (fun c => cores.contains c))).foldl (fun s w => s.killKernel p w.krec.kid) s) s
/-- The running requests whose rows a die's Tap samples leave as cancellations (R505). -/
def State.cancelTap (s : State) (d : Nat) : State :=
  (List.range 12).foldl (fun s p =>
    let v := s.serveOf p
    (v.reqs.filter (fun r => r.slot.isSome && (match v.model r.jrec.model with | some m => m.mrec.sdies.contains d | none => false))).foldl
      (fun s r => s.cancelOne p r.id) s) s
/-- A Tap and its draft store at their reset values. -/
def Die.tapReset (d : Die) : Die :=
  { d with
    rows := []
    suppressed := 0
    nonfinite := 0
    rowFaults := 0
    storeBytes := 0 }
/-- Reset one die's Tap (Table 20.2). -/
def State.resetTap (s : State) (d : Nat) : State :=
  { (s.cancelTap d).modDie d (·.tapReset) with tapLines := s.tapLines.filter (fun t => dieOf t.core ≠ d) }
/-- A Hopback after its re-initialisation: its channels are disabled as by R203 without the busy refusal, and its station
holds no stream. -/
def Core.hopReset (k : Core) : Core :=
  let k1 := (List.range 4).foldl (fun k ch => k.chanOff ch) k
  { k1 with
    slots := k1.slots.filter (fun e => !(stationOf (kindOf e.2.desc) = 5 && e.2.live))
    hop := { chans := k1.hop.chans, guardCnt := k1.hop.guardCnt, gatePush := k1.hop.gatePush, gateDrop := k1.hop.gateDrop,
             discarded := k1.hop.discarded, softStep := k1.hop.softStep, gates := k1.hop.gates } }
/-- Core reset: its held headers leave the buffers of their ports, and what waited behind them goes on (Table 20.2, R300, R303). -/
def State.freshCore (s : State) (c mash : Nat) : State :=
  let t := ((s.core c).bkt.held.foldl (fun s x => s.heldLeft x) s).modCore c (·.fresh mash)
  State.settle (4 * t.heldCount + 4) [] t
/-- Reset every core and Tap of a bay; its kernels end (Table 20.2, R472, R505). -/
def State.resetBayParts (s : State) (b : Nat) : State :=
  let s1 := (bayCores b).foldl (fun s c => s.freshCore c 0) (s.killScope (bayCores b))
  (List.range 5).foldl (fun s i => s.resetTap (5 * b + i)) s1
/-- The stacks of a bay are active again (Table 18.3). -/
def State.stacksOn (s : State) (b : Nat) : State :=
  s.modHbm (fun h => { h with dark := h.dark.filter (fun st => st / 2 ≠ b) })
/-- A bay enters RESET on its rail or its sensors: one report, a RESET entry, everything in it lost (R472, R479). -/
def State.bayReset (s : State) (b code detail : Nat) : State :=
  let s1 := s.report { s.bayReport b code with detail := detail }
  let s2 := s1.modBay b (fun x =>
    let y := ({ x with
      dip := false
      restoreAt := none }).note s.now causeReset
    { y with
      state := .reset
      resets := satAdd 16 y.resets 1
      mash := 0
      mashFrac := 0 })
  (s2.resetBayParts b).stacksOn b

/-! ## REINIT (R504 to R506) -/

/-- The cores and the Taps in the scope of a function. -/
def scopeCores (f t : Nat) : List Nat := match f with | 0 | 2 => [t] | 6 => bayCores t | _ => []
def scopeTaps (f t : Nat) : List Nat := match f with | 1 => [t] | 6 => (List.range 5).map (fun i => 5 * t + i) | _ => []
def scopesMeet (f t g u : Nat) : Bool :=
  (f = g && t = u) || (scopeCores f t).any (fun c => (scopeCores g u).contains c) ||
    (scopeTaps f t).any (fun d => (scopeTaps g u).contains d)
/-- Targets of a function (Table 20.5). -/
def targetOk (f t : Nat) : Bool :=
  match f with
  | 0 | 2 => decide (t < 360)
  | 1 => decide (t < 60)
  | 3 => decide (t < 768)
  | 4 => decide (t < 16)
  | 5 => true
  | 6 => decide (t < 12)
  | _ => false
/-- ERR of a REINIT: 2 bad target, 3 retired, 1 busy, 0 accepted (R506, Table 20.5). -/
def State.reinitErr (s : State) (f t : Nat) : Nat :=
  if !targetOk f t then 2
  else if (f = 0 || f = 2) && (s.core t).retired then 3
  else if s.rst.running.any (fun e => scopesMeet f t e.1 e.2) then 1
  else 0
/-- What a re-initialisation does at its start (Table 20.2). -/
def State.reinitGo (s : State) (f t : Nat) : State :=
  match f with
  | 0 => (s.killScope [t]).freshCore t (s.mashOf t)
  | 1 => (s.killScope ((List.range 6).map (fun k => 6 * t + k))).resetTap t
  | 2 => (s.killScope [t]).modCore t (·.hopReset)
  | 3 => s.modHbm (fun h => { h with down := insertSet t h.down })
  | 4 =>
    let s1 := s.portDown t
    if bit (s1.port t).ctl 0 then s1.trainStart t 3 else s1
  | 5 => s.modHost (fun h => { h with
      up := false
      ctl := setFld h.ctl 3 1 0 })
  | _ => ((s.resetBayParts t).stacksOn t).modBay t (fun x => { x with
      state := .reset
      dip := false
      restoreAt := none
      mash := 0
      mashFrac := 0 })
/-- A write of REINIT: refused with its reason, or begun (R504 to R506). -/
def State.reinit (s : State) (f t : Nat) : State :=
  let e := s.reinitErr f t
  if e = 0 then
    (s.modRst (fun r => { r with
      err := 0
      state := 1
      running := r.running ++ [(f, t)] })).reinitGo f t
  else s.modRst (fun r => { r with err := e })
/-- REINIT_CORE: FUNC 0 (R504). -/
def execReinitCore (c : CoreId) (s : State) : Host.Outcome State Fault Refusal := .next (s.reinit 0 c.val)
/-- REINIT_TAP: FUNC 1 (R504). -/
def execReinitTap (die : Fin 60) (s : State) : Host.Outcome State Fault Refusal := .next (s.reinit 1 die.val)
/-- REINIT_HOPBACK: FUNC 2 (R504). -/
def execReinitHopback (c : CoreId) (s : State) : Host.Outcome State Fault Refusal := .next (s.reinit 2 c.val)
/-- REINIT_HBM_CHANNEL: FUNC 3 (R504). -/
def execReinitHbmChannel (ch : Fin 768) (s : State) : Host.Outcome State Fault Refusal := .next (s.reinit 3 ch.val)
/-- REINIT_LINK_PORT: FUNC 4 (R504). -/
def execReinitLinkPort (p : Fin 16) (s : State) : Host.Outcome State Fault Refusal := .next (s.reinit 4 p.val)
/-- REINIT_HOST_PORT: FUNC 5 (R504). -/
def execReinitHostPort (s : State) : Host.Outcome State Fault Refusal := .next (s.reinit 5 0)
/-- REINIT_BAY: FUNC 6 (R504). -/
def execReinitBay (bay : Fin 12) (s : State) : Host.Outcome State Fault Refusal := .next (s.reinit 6 bay.val)

/-- Cores that run the test of R454 before they accept a kernel (R507). -/
def State.retestDue (s : State) (cores : List Nat) : State :=
  cores.foldl (fun s c => s.modCore c (fun k => { k with safe := { k.safe with retest := true } })) s
/-- What a re-initialisation does at its end. -/
def State.reinitEnd (s : State) (f t : Nat) (ok : Bool) : State :=
  match f with
  | 0 => s.retestDue [t]
  | 3 => s.modHbm (fun h => { h with down := h.down.filter (· ≠ t) })
  | 5 => s.modHost (fun h => { h with ctl := setFld h.ctl 3 1 1 })
  | 6 => if ok then ((s.replanFree t).bayOn t).retestDue (bayCores t) else s
  | _ => s
/-- The function of a re-initialisation, in a report (Table 20.3). -/
def State.reinitReport (s : State) (f t : Nat) : Report :=
  match f with
  | 0 | 2 => s.coreReport t codeReinitFail
  | 1 => { s.pkgReport codeReinitFail with site := t }
  | 3 => { s.pkgReport codeReinitFail with site := 60 + t / 32, unit := t % 32 }
  | 4 => s.portReport t codeReinitFail
  | 5 => { s.pkgReport codeReinitFail with site := 98 }
  | _ => s.bayReport t codeReinitFail
/-- REINIT_DONE: a re-initialisation ends; REINIT_ST reads DONE, or FAILED with REINIT_FAIL (R506). -/
def execReinitDone (func : Fin 7) (target : Nat) (ok : Bool) (s : State) : Host.Outcome State Fault Refusal :=
  let f := func.val
  .next (
    if s.rst.running.contains (f, target) then
      let s1 := (s.modRst (fun r => { r with
        running := r.running.filter (· ≠ (f, target))
        state := if ok then 2 else 3
        count := if ok then satAdd 16 r.count 1 else r.count })).reinitEnd f target ok
      if ok then s1 else s1.report { s1.reinitReport f target with detail := f }
    else s)
/-- A core is retired: reported, and placed no more (R512). -/
def State.retire (s : State) (c : Nat) : State :=
  let s1 := s.modCore c (fun k => { k with retired := true })
  s1.report (s1.coreReport c codeCoreRetired)
/-- RETEST_DONE: the test of a re-initialised core ends (R507, R512). -/
def execRetestDone (c : CoreId) (pass : Bool) (s : State) : Host.Outcome State Fault Refusal :=
  .next (
    if (s.core c.val).safe.retest then
      let s1 := s.modCore c.val (fun k => { k with safe := { k.safe with
        retest := false
        pass := if pass then satAdd 16 k.safe.pass 1 else k.safe.pass
        fail := if pass then k.safe.fail else satAdd 16 k.safe.fail 1
        lastTest := s.now } })
      if pass then s1.schedule (s1.partOf c.val) else s1.retire c.val
    else s)

/-! ## Package resets (R504, R508, R509) -/

/-- What a bay keeps over a package reset: the ageing record (R483, R504). -/
def Bay.agedOnly (x : Bay) (now : Nat) : Bay :=
  ({ offset := x.offset, planBin := x.planBin, acked := x.acked, horizon := x.horizon, slack := x.slack, replans := x.replans,
     dipStress := x.dipStress, dayDips := x.dayDips, lastPlan := min x.lastPlan now, slacks := x.slacks,
     pllBin := min 20 x.planBin, clk := [], nextClk := 0 } : Bay).note now causeOn
/-- Is a place of HBM outside the staging range? -/
def notStaged (k : Nat) : Bool := !(k / stackBytes < 2 && k % stackBytes < 4294967296)
/-- HBM over a package reset: with retention its data and the region table stay, but for the staging range (R508, R509). -/
def Hbm.overReset (h : Hbm) (keep : Bool) : Hbm :=
  if keep then
    { mem := h.mem.filter (fun e => notStaged e.1), rgn := h.rgn, rgn2 := h.rgn2, bad := h.bad.filter (fun e => notStaged (64 * e.1)),
      home := h.home.filter (fun e => notStaged (64 * e.1)), moved := h.moved.filter (fun e => notStaged (64 * e)) }
  else {}
/-- Flash over a package reset: its wear and the store record; FL_CNT clears (R504, chapter 16). -/
def Flash.overReset (f : Flash) : Flash := { st := f.st, written := f.written, half := f.half, latest := f.latest }
/-- The security unit over a reset that reaches Saddle: the fuses, what the flash firmware region holds, and the pin. -/
def Security.overReset (x : Security) : Security :=
  { ownerSet := x.ownerSet, ownerRev := x.ownerRev, ownerHash := x.ownerHash, svnFuse := x.svnFuse, presence := x.presence,
    nonces := x.nonces, imageGood := x.imageGood, imageHdr := x.imageHdr }
/-- KERNEL_KILLED for every placed kernel that holds a core (R505). -/
def State.killReports (s : State) : List Report :=
  (List.range 12).flatMap (fun p =>
    ((s.schedOf p).placed.filter (fun w => !w.holds.isEmpty && !w.killed)).map (fun w =>
      { s.pkgReport codeKernelKilled with step := 0, tag := w.krec.kid, detail := w.krec.kid }))
/-- The kernel-end reports of those kernels, with status KILLED (R505). -/
def State.killEnds (s : State) : List Out :=
  (List.range 12).flatMap (fun p =>
    ((s.schedOf p).placed.filter (fun w => !w.holds.isEmpty && !w.killed)).map (fun w => .kernelEnd p w.krec.kid true 0 0))
/-- The package after a reset that reaches Saddle, with its cause in the codes of BOOT_STAT.LAST (R504). -/
def State.packageReset (s : State) (last : Nat) (keep : Bool) : State :=
  { State.reset with
    bays := (List.range 12).map (fun b => (b, (s.bay b).agedOnly s.now))
    hbm := s.hbm.overReset keep
    flash := s.flash.overReset
    gens := s.gens
    storeRec := s.storeRec
    sec := s.sec.overReset
    rst := { retainAuto := s.rst.retainAuto, last := last, retained := keep }
    now := s.now
    free := s.free
    out := s.out ++ s.killEnds ++ [.pin pinReady false] ++ (if s.alertLow then [.pin pinThermAlert true] else [])
    pending := s.pending
    reports := { s.pkgReport codeResetCause with step := 0, detail := last } :: s.killReports
    saddleReports := { s.pkgReport codeResetCause with step := 0, detail := last } :: s.killReports }
/-- WARM_RESET: a write of RESET_CTL.WARM; the sequence of Table 20.1 goes on with POWER_UP (R504, R508). -/
def execWarmReset (retain : Bool) (s : State) : Host.Outcome State Fault Refusal := .next (s.packageReset 2 retain)
/-- PKG_RESET_ASSERT: PKG_RESET_N is low; RETAIN_AUTO takes the place of RETAIN (R504, R508). -/
def execPkgResetAssert (s : State) : Host.Outcome State Fault Refusal := .next (s.packageReset 1 s.rst.retainAuto)
/-- POWER_LOSS: everything but fuses, flash, the ageing record and FL_STAT is lost (R504). -/
def execPowerLoss (s : State) : Host.Outcome State Fault Refusal :=
  let t := s.packageReset 0 false
  .next { t with
    bays := (List.range 12).map (fun b => (b, (s.bay b).agedOnly 0))
    rst := {}
    now := 0
    reports := []
    saddleReports := [] }

/-! ## The power-up sequence (R502, R503) -/

/-- The setpoint of a bay's core rail is commanded over AVSBus (R464, R483). -/
def State.railOn (s : State) (b : Nat) : State := s.emit (.pmbus b (700 + (s.bay b).offset))
/-- Steps 6 of Table 20.1 for one bay: rail setpoint, margin re-plan, self-test; a bay that fails stays in RESET. -/
def State.bootBay (s0 : State) (failed : BitVec 12) (b : Nat) : State :=
  let s := s0.railOn b
  if bit failed b then
    let s1 := (s.modBay b (fun x => { x with state := .reset })).modRst (fun r => { r with bayFail := setFld r.bayFail b 1 1 })
    s1.report (s1.bayReport b codeBayBootFail)
  else (s.replanFree b).bayOn b
/-- Bytes `a` to `a + n − 1` of the header of the image that a FW_INSTALL has written. -/
def Security.hdrField (x : Security) (a n : Nat) : Option (List Byte) := x.imageHdr.map (fun h => (h.drop a).take n)
/-- SVN and VKEY of the image that the boot ROM reads: of the installed one, or those the sequence meets (R488, R490). -/
def Security.bootSvn (x : Security) (svn : Nat) : Nat := match x.hdrField 6 2 with | some b => bytesNat b | none => svn
def Security.bootKey (x : Security) : List Byte := (x.hdrField 192 2592).getD Config.vendorKey
/-- POWER_UP: the release of PKG_RESET_N runs the sequence of Table 20.1. The image read from flash, the cores whose self-test
fails and the bays that do not come up are what the sequence meets (R486 to R489, R502, R503). -/
def execPowerUp (imageSvn : BitVec 8) (imageOk : Bool) (imageDigest : BitVec 512) (failedCores : List Nat) (failedBays : BitVec 12)
    (s : State) : Host.Outcome State Fault Refusal :=
  .next (
    if s.rst.phase = 4 || s.sec.recovery then s
    else
      let s1 := (s.modSec (fun x => { x with
        ident := identOf
        identValid := true
        vkey := x.bootKey })).modHost (fun h => { h with mac := macOf identOf })
      if !imageOk || !s1.sec.imageGood || s.sec.bootSvn imageSvn.toNat < s1.sec.svnFuse then
        ((s1.modSec (fun x => { x with
          recovery := true
          sigFail := satAdd 16 x.sigFail 1 })).modRst (fun r => { r with phase := 1 })).modHost (fun h => { h with
            ctl := setFld h.ctl 3 1 1
            mode := fld h.ctl 0 3 })
      else
        let s2 := (s1.modSec (fun x => { x with imageSvn := s.sec.bootSvn imageSvn.toNat })).extend 0 0 0 0 0 imageDigest
        let s3 := (List.range 12).foldl (fun s b => s.bootBay failedBays b) s2
        let s4 := (failedCores.filter (fun c => c < 360 && !bit failedBays (bayOf c))).foldl (fun s c => s.retire c) s3
        ((s4.modHost (fun h => { h with
          ctl := setFld (setFld h.ctl 0 3 1) 3 1 1
          mode := 1 })).modRst (fun r => { r with
            phase := 4
            ready := true })).emit (.pin pinReady true))

end Sys2Proof.Machine
end

