-- ==== Sys2Proof/Machine/Power.lean ====
section
/-! DEFINITION. Supply monitoring, thermal and power limits, re-plans and bay power states (chapter 18). -/

namespace Sys2Proof.Machine

/-! ## Dips (R469 to R472) -/

/-- The DIP note of every query that runs on a bay (R462, R471). -/
def State.noteDip (s : State) (b : Nat) : State :=
  s.modHost (fun h => { h with queries := h.queries.map (fun q =>
    if q.launched && !q.released && q.cores.any (fun c => bayOf c = b) then { q with dip := true } else q) })
/-- DIP_START: a powered core rail falls below its warning level; a second fall in a dip belongs to it, and stops a restore timer, for
the rail is below 95 % too (R470). -/
def execDipStart (bay : Fin 12) (mv : Nat) (s : State) : Host.Outcome State Fault Refusal :=
  let b := bay.val
  let x := s.bay b
  .next (
    if (x.state = .on || x.state = .reset) && x.below mv 94 then
      if x.dip then s.setBay b { x with lowMv := min x.lowMv mv, restoreAt := none }
      else
        (s.setBay b (({ x with
          dip := true
          restoreAt := none
          lowMv := mv }).note s.now causeDip)).noteDip b
    else s)
/-- RAIL_ABOVE_RESTORE: the rail is back above 95 % and the restore timer starts (R470). -/
def execRailAboveRestore (bay : Fin 12) (s : State) : Host.Outcome State Fault Refusal :=
  .next (s.modBay bay.val (fun x => if x.dip && x.restoreAt.isNone then { x with restoreAt := some s.now } else x))
/-- RAIL_BELOW_RESTORE: a fall below 95 % stops the timer (R470). -/
def execRailBelowRestore (bay : Fin 12) (s : State) : Host.Outcome State Fault Refusal :=
  .next (s.modBay bay.val (fun x => if x.dip then { x with restoreAt := none } else x))
/-- DIP_RESTORE: the 20 µs timer ends; the clock returns to F of R466, with the PLL at its bins, and the dip passes to the ageing model (R470, R482, R483). -/
def execDipRestore (bay : Fin 12) (s : State) : Host.Outcome State Fault Refusal :=
  .next (s.modBay bay.val (fun x =>
    match x.restoreAt with
    | some t =>
      if x.dip && t + 20000 ≤ s.now then
        ({ x with
          dip := false
          restoreAt := none
          pllBin := x.bins
          dipCnt := satAdd 32 x.dipCnt 1
          dayDips := x.dayDips + 1
          dipStress := (x.dipStress || decide (100 < x.dayDips + 1))
          planDue := true }).note s.now causeRestore
      else x
    | none => x))
/-- BAY_SUPPLY_RESET: a core rail falls below its reset level; that bay alone enters RESET (R472). -/
def execBaySupplyReset (bay : Fin 12) (mv : Nat) (s : State) : Host.Outcome State Fault Refusal :=
  let x := s.bay bay.val
  .next (
    if x.state = .on && x.below mv 88 then
      let low := if x.dip then min x.lowMv mv else mv
      let s1 := if x.dip then s else (s.setBay bay.val (({ x with
        dip := true
        lowMv := mv }).note s.now causeDip)).noteDip bay.val
      s1.bayReset bay.val codeBaySupplyReset low
    else s)

/-! ## Service rails (R473) -/

def railUnit : Rail → Nat
  | .fab => 0 | .ctl => 1 | .link => 2 | .hbm _ => 3 | .flash => 4
/-- Nominal setpoint of a service rail, mV (Table 18.1); that of the HBM rails is JESD270-4's, which the specification does not repeat. -/
def railSet : Rail → Option Nat
  | .fab | .ctl => some 750
  | .link => some 850
  | .hbm _ => none
  | .flash => some 1200
/-- A reading lies below a percentage of its rail's setpoint; for an HBM rail the event itself says so (R473; log entry 96). -/
def railBelow (rail : Rail) (mv percent : Nat) : Bool :=
  match railSet rail with | some n => decide (mv * 100 < percent * n) | none => true
/-- SUPPLY_WARN: a service rail falls below 94 % of its setpoint (R473). -/
def execSupplyWarn (rail : Rail) (mv : Nat) (s : State) : Host.Outcome State Fault Refusal :=
  .next (if railBelow rail mv 94 then s.report { s.pkgReport codeSupplyWarn with unit := railUnit rail, detail := mv } else s)
/-- What a service rail below its reset level does (Table 18.5, R509). -/
def State.railLost (s : State) : Rail → State
  | .fab => s.packageReset 3 false
  | .ctl => s.packageReset 3 s.rst.retainAuto
  | .link =>
    let s1 := (List.range 16).foldl (fun s p => if (s.port p).state = .down then s else s.portDown p) s
    if s1.host.up then (s1.modHost (fun h => { h with up := false })).report { s1.pkgReport codeHostPortDown with site := 98 }
    else s1
  | .hbm pair => s.modHbm (fun h => { h with stopped := insertSet (2 * pair.val) (insertSet (2 * pair.val + 1) h.stopped) })
  | .flash =>
    let s1 := { s with flash := { s.flash with railDown := true } }
    let s2 := (List.range 4).foldl (fun s i => s.report (s.flashReport i)) s1
    s2.flash.paused.foldl (fun s c => s.loseCache c.part c.req) s2
/-- SERVICE_RAIL_RESET: a service rail falls below 88 % of its setpoint (R473). -/
def execServiceRailReset (rail : Rail) (mv : Nat) (s : State) : Host.Outcome State Fault Refusal :=
  .next (if railBelow rail mv 88 then s.railLost rail else s)
/-- SETPOINT_ACK: the thresholds follow the acknowledged setpoint (R469). -/
def execSetpointAck (bay : Fin 12) (mv : Nat) (s : State) : Host.Outcome State Fault Refusal :=
  .next (s.modBay bay.val (fun x => { x with acked := mv }))

/-! ## Limits (R466, R478 to R480) -/

/-- PLL_STEP: the PLL has moved one bin towards its target, and the clock record gains an entry (R466, R475). -/
def execPllStep (bay : Fin 12) (s : State) : Host.Outcome State Fault Refusal :=
  .next (s.modBay bay.val (fun x =>
    if x.state ≠ .on || x.pllBin = x.bins then x
    else ({ x with pllBin := if x.pllBin < x.bins then x.pllBin + 1 else x.pllBin - 1 }).note s.now x.binCause))
/-- THERMAL_STEP: the hottest sensor of a bay at the end of a thermal interval (R478, R535). -/
def execThermalStep (bay : Fin 12) (hottest : BitVec 8) (s : State) : Host.Outcome State Fault Refusal :=
  let thr := fld s.glob.thermCtl 0 8
  let t := hottest.toNat
  let x := s.bay bay.val
  let y := { x with
    temp := t
    coolSince := if x.temp + 3 < thr then x.coolSince else s.now }
  .next (
    (if thr ≤ t then
      if x.state = .on && (x.lastRise = 0 || x.lastRise + 100000 ≤ s.now) then
        s.setBay bay.val { y.rise s.now causeThermal with lastRise := s.now }
      else s.setBay bay.val y
    else (s.setBay bay.val y).thrFall bay.val causeThermal).alertPin s.alertLow)
/-- THERMAL_TRIP: a sensor at or above TRIP_C resets its bay, or the package for another die (R479, R535). -/
def execThermalTrip (site : Fin 100) (celsius : BitVec 8) (s : State) : Host.Outcome State Fault Refusal :=
  .next (
    if fld s.glob.thermCtl 8 8 ≤ celsius.toNat then
      if site.val < 60 then
        if (s.bay (site.val / 5)).state = .reset then s
        else ((s.bayReset (site.val / 5) codeThermalTrip celsius.toNat).modRst (fun r => { r with thermAlert := true })).alertPin
          s.alertLow
      else s.packageReset 4 s.rst.retainAuto
    else s)
/-- POWER_MEASURE: package power, every 100,000 control counts (R480). -/
def execPowerMeasure (watts : BitVec 16) (s : State) : Host.Outcome State Fault Refusal :=
  .next (
    if s.glob.wattsAt + 100000 ≤ s.now then
      let s0 := s.modGlob (fun g => { g with
        watts := (watts.toNat :: g.watts).take 10
        wattsAt := s.now })
      let s1 := s0.modGlob (fun g => { g with capping := (s0.meanAbove || (g.capping && !s0.meanBelow 100)) })
      if s1.glob.capping then
        (List.range 12).foldl (fun s b => s.modBay b (fun x => if x.state = .on then x.rise s1.now causePower else x)) s1
      else (List.range 12).foldl (fun s b => s.thrFall b causePower) s1
    else s)
/-- MARGIN_REPLAN: the daily re-plan of a bay, or the one after a dip (R482 to R484). -/
def execMarginReplan (bay : Fin 12) (slackPs : BitVec 16) (offsetMv bins : Nat) (afterDip : Bool) (s : State) :
    Host.Outcome State Fault Refusal :=
  let x := s.bay bay.val
  .next (
    if x.dip then s
    else if afterDip then
      (if x.planDue then (s.replan bay.val slackPs.toNat offsetMv bins false).modBay bay.val (fun y => { y with
        dipSamples := (slackPs.toNat, x.lowMv) :: y.dipSamples })
      else s)
    else if x.lastPlan + 86400000000000 ≤ s.now then s.replan bay.val slackPs.toNat offsetMv bins true
    else s)

/-! ## Bay power states (R467, R468) -/

/-- A core of the bay holds a kernel, or a flit waits in a Welt queue of the bay (R467). -/
def State.bayBusy (s : State) (b : Nat) : Bool :=
  (bayCores b).any (fun c => (s.core c).seq.kernel.isSome || ((s.schedOf (s.partOf c)).holder c).isSome) ||
    s.flits.any (fun f => bayOf f.src = b || bayOf f.dst = b)
/-- A valid region other than a NEAR region of the bay reaches into the bay's stacks (R467). -/
def State.bayFootprint (s : State) (b : Nat) : Bool :=
  ((List.range 64).filter s.hbm.valid).any (fun n =>
    let r := s.hbm.region n
    !(!r.spread && r.bay = b) && (r.stacks.contains (2 * b) || r.stacks.contains (2 * b + 1)))
/-- ERR of a request (R467). -/
def State.bayReqErr (s : State) (b req : Nat) : Nat :=
  if s.bayBusy b then 1 else if req ≠ 0 && s.bayFootprint b then 2 else 0
/-- A bay goes to GATED: what its cores and Taps held is lost, but for what Saddle holds of the cores, and its stacks' contents go
(Table 18.3). -/
def State.gateBay (s : State) (b : Nat) : State :=
  let s1 := (bayCores b).foldl (fun s c =>
    let safe := (s.core c).safe
    (s.freshCore c 0).modCore c (fun k => { k with safe := { barred := safe.barred, retest := safe.retest } })) s
  let s2 := (List.range 5).foldl (fun s i => s.modDie (5 * b + i) (·.tapReset)) s1
  (s2.modBay b (fun x => { x with state := .gated })).modHbm (fun h => { h with
    dark := insertSet (2 * b) (insertSet (2 * b + 1) h.dark)
    mem := h.mem.filter (fun e => e.1 / stackBytes / 2 ≠ b)
    bad := h.bad.filter (fun e => e.1 * 64 / stackBytes / 2 ≠ b)
    home := h.home.filter (fun e => e.1 * 64 / stackBytes / 2 ≠ b)
    moved := h.moved.filter (fun e => e * 64 / stackBytes / 2 ≠ b) })
/-- A write of BAY_PWR_b.REQ: the request is recorded and, unless refused, carried out: the rail is commanded off, or on again. A bay
that is GATED keeps nothing for a later RETENTION; a bay in RESET stays there until it is re-initialised (R464, R467, R472). -/
def State.bayRequest (s : State) (b req : Nat) : State :=
  let e := s.bayReqErr b req
  let s1 := s.modBay b (fun x => { x with
    err := e
    req := if e = 0 then req else x.req })
  if e ≠ 0 || (s.bay b).state = .reset then s1
  else if req = 0 then (if (s.bay b).state = .on then s1 else s1.railOn b)
  else
    let s2 := if (s.bay b).state = .on then s1.emit (.pmbus b 0) else s1
    if req = 1 then (s2.modBay b (fun x => { x with state := .retention })).modHbm (fun h => { h with dark := insertSet (2 * b) (insertSet (2 * b + 1) h.dark) })
    else s2.gateBay b
/-- BAY_PWR_ON (R467). -/
def execBayPwrOn (bay : Fin 12) (s : State) : Host.Outcome State Fault Refusal := .next (s.bayRequest bay.val 0)
/-- BAY_PWR_RETENTION (R467). -/
def execBayPwrRetention (bay : Fin 12) (s : State) : Host.Outcome State Fault Refusal := .next (s.bayRequest bay.val 1)
/-- BAY_PWR_GATED (R467). -/
def execBayPwrGated (bay : Fin 12) (s : State) : Host.Outcome State Fault Refusal := .next (s.bayRequest bay.val 2)
/-- A core whose rail returns after RETENTION: its CSRs are kept; scratchpad, accumulator, long registers, streams and the
sequencer are not (Table 18.3, R468), and what was marked at a mash count starts from the counter's zero (R474). Headers held for it lie
in the buffers of link dies and stay held (R303). -/
def Core.wake (k : Core) : Core :=
  { k with
    seq := {}
    slots := []
    nextOrder := 0
    sp := {}
    direct := []
    mash := { k.mash with
      acc := []
      err := []
      stat := none
      shadow := none
      groups := []
      cc := []
      mb := []
      cr := []
      adds := []
      role0 := [] }
    vec := { k.vec with lr := [] }
    hop := { k.hop with
      work := []
      block := []
      gates := [] }
    phase := { k.phase with mark := 0 }
    dwq := { k.dwq with
      idleSince := 0
      head := k.dwq.pushed
      started := none
      running := []
      fullForce := none }
    welt := { k.welt with
      credits := []
      grants := []
      flushes := []
      softSent := false
      posted := []
      next := []
      ahead := []
      base := []
      undelivered := []
      inputBad := []
      inputCrc := []
      destReset := [] }
    bkt := { k.bkt with
      slots := []
      flows := [] } }
/-- BAY_ON_COMPLETE: a bay asked back to ON is ON, its scratchpads and accumulators zero (R467, R468, R474). -/
def execBayOnComplete (bay : Fin 12) (s : State) : Host.Outcome State Fault Refusal :=
  let b := bay.val
  let x := s.bay b
  .next (
    if x.req = 0 && (x.state = .retention || x.state = .gated) then
      let s1 := (bayCores b).foldl (fun s c => s.modCore c (fun k =>
        if x.state = .retention then (k.phaseSync (s.mashOf c)).wake else k)) s
      let s2 := (List.range 5).foldl (fun s i => s.modDie (5 * b + i) (fun d => { d with rows := [], storeBytes := 0 })) s1
      ((s2.stacksOn b).bayOn b).schedule (s.partOfBay b)
    else s)

end Sys2Proof.Machine
end

