-- ==== Sys2Proof/Machine/Monitor.lean ====
section
/-! DEFINITION. Functional safety: test injections, control-flow watch, clock monitor, heartbeat, lockstep, attribution of faults
to queries (chapter 17). -/

namespace Sys2Proof.Machine

/-! ## Test injections (R454) -/

/-- A failed test: SAFETY_STI names the core and its stations, and the core accepts no further kernel. -/
def State.testFail (s : State) (c : Nat) (stn : BitVec 8) (seq : Bool) : State :=
  let s1 := s.modCore c (fun k => { k with safe := { k.safe with
    fail := satAdd 16 k.safe.fail 1
    failStn := stn
    failSeq := seq
    barred := true } })
  s1.report { s1.coreReport c codeSafetySti with stn := stn.toNat, detail := b2n seq }
/-- A test of a core has ended. -/
def State.testEnd (s : State) (c : Nat) (pass : Bool) (stn : BitVec 8) (seq : Bool) : State :=
  let s1 := s.modCore c (fun k => { k with safe := { k.safe with
    testing := false
    lastTest := s.now } })
  if pass then s1.modCore c (fun k => { k with safe := { k.safe with pass := satAdd 16 k.safe.pass 1 } })
  else s1.testFail c stn seq
/-- STI_PERIODIC: 500 µs have passed without a test, and the stations accept no new stream until it has run. -/
def execStiPeriodic (c : CoreId) (s : State) : Host.Outcome State Fault Refusal :=
  .next (
    if (s.bay (bayOf c.val)).state = .on && (s.core c.val).safe.lastTest + 500000 ≤ s.now then
      s.modCore c.val (fun k => { k with safe := { k.safe with testing := true } })
    else s)
/-- TEST_INJECTION_DONE: a test has run in cycles without an ACTIVE stream; its signature is compared with the ROM's. -/
def execTestInjectionDone (c : CoreId) (signature : Word) (failStn : BitVec 8) (failSeq : Bool) (s : State) :
    Host.Outcome State Fault Refusal :=
  let k := s.core c.val
  .next (
    if (s.bay (bayOf c.val)).state = .on && Core.slotNums.all (fun n => (k.slot n).state ≠ .active) then
      s.testEnd c.val (decide (signature = Config.romSignature)) failStn failSeq
    else s)
/-- The closing test of a core has passed for the query that ran on it. -/
def State.passedOn (s : State) (c : Nat) : State :=
  s.modHost (fun h => { h with queries := h.queries.map (fun q =>
    if q.launched && !q.released && q.cores.contains c then { q with passed := insertSet c q.passed } else q) })
/-- CLOSING_TEST_DONE: the closing test of a core ends, and the core is free again when it passed (R454, R462). -/
def execClosingTestDone (c : CoreId) (failStn : BitVec 8) (failSeq : Bool) (s : State) : Host.Outcome State Fault Refusal :=
  .next (
    if (s.core c.val).safe.closing then
      let s1 := s.modCore c.val (fun k => { k with safe := { k.safe with closing := false } })
      let pass := failStn = 0 && !failSeq
      let s2 := s1.testEnd c.val pass failStn failSeq
      (if pass then s2.passedOn c.val else s2).schedule (s.partOf c.val)
    else s)

/-! ## Control-flow watch and clocks (R455, R456) -/

/-- CFSIG_OVERDUE: more than 13,000 mash cycles without SIGCHK in a kernel of an enforced model (R455). -/
def execCfsigOverdue (c : CoreId) (s : State) : Host.Outcome State Fault Refusal :=
  let k := s.core c.val
  let enf := match k.seq.kernel with | some r => r.enforced | none => false
  .next (
    if enf && k.seq.faulted.isNone && !k.seq.parked && k.seq.sigMark + 13000 < s.mashOf c.val then
      s.seqFault c.val codeCfsigOverdue 0
    else s)
/-- A measured frequency lies outside ±2 % of the commanded one. -/
def outOfRange (measured commanded : Nat) : Bool := measured * 100 < 98 * commanded || 102 * commanded < measured * 100
/-- A CLOCK_RANGE report is counted. -/
def State.clockRange (s : State) (r : Report) : State :=
  (s.report r).modSafety (fun x => { x with clock := satAdd 16 x.clock 1 })
/-- CLOCK_MONITOR_WINDOW: one window of 10 µs of one clock (R456; Table 20.4 for the rung; Table 20.2 for the reset). -/
def execClockMonitorWindow (clock : ClockName) (measuredKHz : Nat) (s : State) : Host.Outcome State Fault Refusal :=
  .next (match clock with
    | .mash bay =>
      let x := s.bay bay.val
      let f := match x.clk.getLast? with | some e => e.freq | none => x.freq
      if x.state = .on && outOfRange measuredKHz (f * 12500) then
        s.clockRange { s.bayReport bay.val codeClockRange with rung := 2, detail := measuredKHz }
      else s
    | .fabric site =>
      if outOfRange measuredKHz 1465000 then
        s.clockRange { s.pkgReport codeClockRange with site := site.val, detail := measuredKHz }
      else s
    | .control =>
      if outOfRange measuredKHz 1000000 then
        ((s.clockRange { s.pkgReport codeClockRange with site := 96, detail := measuredKHz }).faultAll).packageReset 6
          s.rst.retainAuto
      else s)

/-! ## Heartbeat and lockstep (R23, R460) -/

/-- SADDLE_HEARTBEAT: a heartbeat reaches N1 (R460). A stopped pair sends none. -/
def execSaddleHeartbeat (s : State) : Host.Outcome State Fault Refusal :=
  .next (if s.safety.saddleStopped then s
    else s.modSafety (fun x => { x with
      lastBeat := s.now
      saddleSilent := false }))
/-- SADDLE_SILENT: no heartbeat for HB_TMO µs; every open query is answered FAULT. After a lockstep mismatch the package then
resets (R460, Table 20.2). -/
def execSaddleSilent (s : State) : Host.Outcome State Fault Refusal :=
  .next (
    if !s.safety.saddleSilent && s.safety.lastBeat + 1000 * fld s.safety.ctl 32 16 ≤ s.now then
      let s1 := (s.modSafety (fun x => { x with saddleSilent := true })).report { s.pkgReport codeSaddleSilent with site := 99 }
      let s2 := s1.faultAll
      if s.safety.saddleStopped then s2.packageReset 5 s.rst.retainAuto else s2
    else s)
/-- SADDLE_LOCKSTEP: a mismatch stops S0 and S1 from driving the fabric (R23, R460). -/
def execSaddleLockstep (s : State) : Host.Outcome State Fault Refusal :=
  .next ((s.modSafety (fun x => { x with saddleStopped := true })).report { s.pkgReport codeSaddleLockstep with site := 96 })
/-- LC_ENGINE_LOCKSTEP: N1 stops transmitting on lane 1 (R460). -/
def execLcEngineLockstep (s : State) : Host.Outcome State Fault Refusal := .next (s.modHost (fun h => { h with lcStopped := true }))

/-! ## Attribution (R461) -/

/-- Regions of HBM that hold a partition's models: the valid ones whose PART it is (log entry 81). -/
def State.modelRegions (s : State) (p : Nat) : List Region :=
  (((List.range 64).filter s.hbm.valid).map s.hbm.region).filter (fun r => r.part = p)
/-- A report of an uncorrectable sector or of a channel names a query's model region: its address lies in it, or its stack holds part
of it; such a report names the stack by its site, whichever core met the sector (R441). -/
def State.namesRegion (s : State) (r : Report) (p : Nat) : Bool :=
  60 ≤ r.site && r.site < 84 && (s.modelRegions p).any (fun x =>
    (r.code = codeMemUncorr && x.base ≤ r.addr && r.addr < x.base + 4096 * x.len4k) ||
      (r.code = codeHbmChannelUe && x.stacks.contains (r.site - 60)))
/-- A report names a core of a query, the bay or rail of such a core, its model region, or the Saddle pair. -/
def State.names (s : State) (r : Report) (q : Query) : Bool :=
  q.cores.any (fun c => r.core = c || (r.core = 0xFFFF && r.domain = 0x10 + bayOf c)) || s.namesRegion r q.part || r.site = 96 ||
    r.site = 97
/-- SADDLE_FAULT_REPORT: the oldest report reaches Saddle and is attributed to the launched queries it names (R461). -/
def execSaddleFaultReport (s : State) : Host.Outcome State Fault Refusal :=
  .next (match s.saddleReports with
    | r :: rest =>
      let s1 := { s with saddleReports := rest }
      (s1.host.queries.filter (fun q => s.names r q)).foldl (fun s q => s.attribute q.part q.req) s1
    | [] => s)

end Sys2Proof.Machine
end

