-- ==== Sys2Proof/Machine/Globals.lean ====
section
/-! DEFINITION. The global blocks with effects of their own (fault snapshot, partition control, fabric arbitration) and debug
accesses (chapters 19 and 21). -/

namespace Sys2Proof.Machine

/-! ## Fault snapshot (R522) -/

/-- A fault report as 64 bytes, little-endian (Table 20.3). -/
def Report.bytes64 (r : Report) : List Byte :=
  natBytes 2 r.code ++ natBytes 1 r.rung ++ natBytes 1 r.cause ++ natBytes 1 r.site ++ natBytes 1 r.unit ++ natBytes 2 r.core ++
  natBytes 1 r.domain ++ natBytes 1 r.slot ++ natBytes 1 r.kind ++ natBytes 1 r.stn ++ natBytes 4 r.step ++ natBytes 8 r.count ++
  natBytes 8 r.pc ++ natBytes 8 r.addr ++ natBytes 8 r.detail ++ natBytes 8 r.tag ++ natBytes 8 0
/-- Copy the newest numbered report (R522). -/
def State.takeSnap (s : State) : State :=
  match s.glob.newest with
  | some r => s.modGlob (fun g => { g with
      snapSeq := r.1
      snapValid := true
      snap := BitVec.ofNat 512 (bytesNat r.2.bytes64) })
  | none => s
/-- FAULT_SNAP: a write of SNAP (R522). -/
def execFaultSnap (s : State) : Host.Outcome State Fault Refusal := .next s.takeSnap

/-! ## Partition control (R38, R524, R525) -/

/-- A bay is busy: a resident or saved kernel holds its cores, or its Welt queues are not empty (R38). -/
def State.bayHeld (s : State) (b : Nat) : Bool :=
  s.bayBusy b || (s.schedOf (s.partOfBay b)).placed.any (fun w => w.cores.any (fun c => bayOf c = b && !w.ended.contains c)) ||
    s.saved.any (fun e => bayOf (e.1 / 2 ^ 32) = b)
/-- A partition holds a resident model, an LC hot set or a paused cache (R524). -/
def State.partUsed (s : State) (p : Nat) : Bool :=
  !(s.serveOf p).models.isEmpty || !(s.schedOf p).lcHot.isEmpty || s.flash.paused.any (fun c => c.part = p)
/-- ERR of a request (R524, Table 21.8). -/
def State.partErr (s : State) (bays : List Nat) (part : Nat) : Nat :=
  if bays.isEmpty || 11 < part then 2
  else if bays.any s.bayHeld then 1
  else if (List.range 12).any (fun p => p ≠ part && !(s.baysOf p).isEmpty && (s.baysOf p).all (fun b => bays.contains b) && s.partUsed p)
    then 3
  else 0
/-- PART_SET: all of the bays join the partition, or none does (R524, R525). -/
def execPartSet (bays : BitVec 12) (part : BitVec 4) (s : State) : Host.Outcome State Fault Refusal :=
  let l := (List.range 12).filter (fun b => bit bays b)
  let e := s.partErr l part.toNat
  let busy := if e = 1 then l.filter s.bayHeld else []
  let s1 := s.modGlob (fun g => { g with
    partErr := e
    partRefused := BitVec.ofNat 12 (busy.foldl (fun n b => n + 2 ^ b) 0)
    partChanges := if e = 0 then satAdd 32 g.partChanges 1 else g.partChanges })
  .next (
    if e = 0 then
      (l.foldl (fun s b => s.modBay b (fun x => { x with part := part.toNat })) s1).schedule part.toNat
    else s1)

/-! ## Fabric arbitration (R526) -/

/-- The pending values stand, to come into force at the next boundary. -/
def State.fabPend (s : State) (share weight : Word) : State :=
  s.modGlob (fun g => { g with
    fabShare := share
    fabWeight := weight
    fabErr := false
    fabPending := true
    fabAt := s.now
    fabIdle := (s.cinch.state = .idle : Bool) })
/-- FAB_SHARE_WRITE: shares above 100 % in total are rejected (R526). -/
def execFabShareWrite (v : Word) (s : State) : Host.Outcome State Fault Refusal :=
  .next (
    if 100 < vcarbTotal v then s.modGlob (fun g => { g with fabErr := true })
    else s.fabPend (setFld v 42 22 0) s.glob.fabWeight)
/-- FAB_WEIGHT_WRITE (R526). -/
def execFabWeightWrite (v : Word) (s : State) : Host.Outcome State Fault Refusal :=
  .next (s.fabPend s.glob.fabShare (setFld v 24 40 0))
/-- No partition serves: none holds a running request, a waiting join or an open step. -/
def State.noneServing (s : State) : Bool :=
  (List.range 12).all (fun p =>
    let v := s.serveOf p
    v.models.isEmpty && v.reqs.isEmpty && v.joins.isEmpty && !v.tailOpen)
/-- FAB_PENDING_TIMEOUT: with Cinch IDLE at the write and no partition serving, the values come into force within 10 µs (R526). -/
def execFabPendingTimeout (s : State) : Host.Outcome State Fault Refusal :=
  .next (if s.glob.fabPending && s.glob.fabIdle && s.noneServing then s.fabApply else s)

/-! ## Debug (R496) -/

/-- The scope of an open debug session; zero while none is open. -/
def Security.debugScope (x : Security) : Nat := if x.dbgOpen then x.scope else 0
/-- DEBUG_ACCESS: halt, step and state access under either scope, scan under VENDOR scope (R496). -/
def execDebugAccess (op : DebugOp) (s : State) : Host.Outcome State Fault Refusal :=
  let sc := s.sec.debugScope
  .next (
    if sc = 0 then s
    else match op with
      | .halt c => s.modCore c.val (fun k => { k with seq := { k.seq with halted := true } })
      | .step c => s.modCore c.val (fun k => { k with seq := { k.seq with stepOne := k.seq.halted } })
      | .readS c r => s.emit (.debugRead c.val ((s.core c.val).s r.toNat))
      | .writeS c r v => s.modCore c.val (fun k => k.setS r.toNat v)
      | .scan site _ => if sc = 2 then s.emit (.scan site.val) else s)

end Sys2Proof.Machine
end

