-- ==== Sys2Proof/Machine/Regs.lean ====
section
/-! DEFINITION. The register map: every register of the manual by its address, what a read returns, what a write does, and the
accesses of a core and of the host (R11, R94, R412, R515 to R518, chapter 21). -/

namespace Sys2Proof.Machine

/-! ## Names -/

/-- Registers of a core block, in the order of Table 21.2. -/
inductive CoreReg where
  | id | stat | cnt
  | fpflags | histCtl | histBin (m : Nat)
  | group (g : Nat) | org (g : Nat) | srSeed | mashStat | mashCtl
  | kSeed | kStep | kStat | lrStat (n : Nat)
  | hopChan (ch : Nat) | hopChanStat (ch : Nat) | hopStat | softStep
  | caskCtl | caskStat | caskMbase (e : Nat) | caskMlen (e : Nat) | caskRbase (e : Nat) | caskRlen (e : Nat) | caskEst (e : Nat)
  | dwqCtl | dwqPush | dwqForce | dwqStat | dwqCnt | dwqMcyc
  | phaseCtl | segCtl | phaseCyc (p : Nat)
  | cinch | ctx
  | bktArm | bktArmSt | bktRel | bktCfg | bktStat1 | bktStat2
  | sram | safe
  deriving DecidableEq, Repr

/-- Registers of the global block, in the order of Table 21.1. -/
inductive GlobReg where
  | devId | ident (w : Nat) | gstat
  | faultSeq | faultSnap | faultSnapSt | faultCause | faultLast (w : Nat)
  | acct (w : Nat)
  | partMap | partSet | partSt
  | fabShare | fabWeight | fabSt | fabCur
  | bayPwr (b : Nat) | bayPstat (b : Nat) | bayPcnt (b : Nat) | clkSel | clkData (w : Nat) | pkgCap | thermCtl | age (b : Nat) | ctlCount
  | reinit | reinitSt | resetCtl | bootStat | coreRetire (w : Nat)
  | secCmd | secCmdSt | secState | secStat | secCfg | mr (n w : Nat) | identM (w : Nat)
  | safeModel (p : Nat) | safeStat | lcSafeCtl | lcSafeStat
  | cinchCfg | cinchTmo | cinchLs | cinchStep | cinchStat | cinchCores (w : Nat)
  | ckptCtl | ckptStep | ckptStep2 | epochAddr | epochGo | epochSt | fillStat | fillStep
  | hbmRgn (r : Nat) | hbmRgn2 (r : Nat) | hbmRgnSt | hbmArb (b : Nat) | hbmScrub | hbmErr (h : Nat)
  | flCfg | flStat (f : Nat) | flCnt
  | hpCtl | hpStat | hpMac | hpIp4 | hpIp6 (w : Nat) | hpIp6Cfg | rhtCfg | rhtRto | rhtQos | rhtHold | rhtCnt | rhtCnt2
  | ingTbl | storeCtl | storeStat
  | linkPkg | routeCtl | routeA (m : Nat) | routeB (m : Nat)
  | schedCtl (p : Nat) | saveBase (p b : Nat) | clientW (p : Nat) | acctSel (p : Nat) | acctData (p w : Nat)
  | serveCtl (p : Nat) | serveStat (p : Nat) | serveCnt (p : Nat) | serveCnt2 (p : Nat) | serveKv (p m : Nat) | serveKv2 (p m : Nat)
  | linkCtl (p : Nat) | linkStat (p : Nat) | laneStat (p : Nat) | linkErr (p : Nat) | linkDrop (p : Nat) | linkVcarb (p : Nat)
  | linkTrec (p w : Nat)
  deriving DecidableEq, Repr

/-- A register of the package. -/
inductive Reg where
  | core (c : CoreId) (r : CoreReg)
  | tap (d : Nat)
  | router (d : Nat)
  | glob (g : GlobReg)
  deriving DecidableEq, Repr

/-! ## Addresses (R13, R94, R515 to R517) -/

/-- The register at an offset, when `n` of them lie from `base` on, `stride` bytes apart. -/
def regAt {α : Type} (off base stride n : Nat) (f : Nat → α) : Option α :=
  if base ≤ off && (off - base) % stride = 0 && (off - base) / stride < n then some (f ((off - base) / stride)) else none
def coreAt (off base stride n : Nat) (f : Nat → CoreReg) : Option CoreReg := regAt off base stride n f
def globAt (off base stride n : Nat) (f : Nat → GlobReg) : Option GlobReg := regAt off base stride n f
/-- The register at an offset of a core block (Table 21.2 and the tables it names). -/
def coreRegAt (off : Nat) : Option CoreReg :=
  ([coreAt off 0x0000 8 1 (fun _ => .id), coreAt off 0x0008 8 1 (fun _ => .stat), coreAt off 0x0010 8 1 (fun _ => .cnt),
    coreAt off 0x0400 8 1 (fun _ => .fpflags), coreAt off 0x0408 8 1 (fun _ => .histCtl), coreAt off 0x0500 8 27 .histBin,
    coreAt off 0x0600 8 16 .group, coreAt off 0x0680 8 16 .org, coreAt off 0x0700 8 1 (fun _ => .srSeed),
    coreAt off 0x0708 8 1 (fun _ => .mashStat), coreAt off 0x0710 8 1 (fun _ => .mashCtl), coreAt off 0x0800 8 1 (fun _ => .kSeed),
    coreAt off 0x0808 8 1 (fun _ => .kStep), coreAt off 0x0810 8 1 (fun _ => .kStat), coreAt off 0x0900 8 32 .lrStat] ++
   [coreAt off 0x0A00 16 4 .hopChan, coreAt off 0x0A08 16 4 .hopChanStat, coreAt off 0x0A40 8 1 (fun _ => .hopStat),
    coreAt off 0x0A48 8 1 (fun _ => .softStep), coreAt off 0x0B00 8 1 (fun _ => .caskCtl), coreAt off 0x0B08 8 1 (fun _ => .caskStat),
    coreAt off 0x0B40 0x30 4 .caskMbase, coreAt off 0x0B48 0x30 4 .caskMlen, coreAt off 0x0B50 0x30 4 .caskRbase,
    coreAt off 0x0B58 0x30 4 .caskRlen, coreAt off 0x0B60 0x30 4 .caskEst, coreAt off 0x0C00 8 1 (fun _ => .dwqCtl),
    coreAt off 0x0C08 8 1 (fun _ => .dwqPush), coreAt off 0x0C10 8 1 (fun _ => .dwqForce), coreAt off 0x0C18 8 1 (fun _ => .dwqStat)] ++
   [coreAt off 0x0C20 8 1 (fun _ => .dwqCnt), coreAt off 0x0C28 8 1 (fun _ => .dwqMcyc), coreAt off 0x0D00 8 1 (fun _ => .phaseCtl),
    coreAt off 0x0D08 8 1 (fun _ => .segCtl), coreAt off 0x0D40 8 16 .phaseCyc, coreAt off 0x0E00 8 1 (fun _ => .cinch),
    coreAt off 0x0F00 8 1 (fun _ => .ctx), coreAt off 0x1000 8 1 (fun _ => .bktArm), coreAt off 0x1008 8 1 (fun _ => .bktArmSt),
    coreAt off 0x1010 8 1 (fun _ => .bktRel), coreAt off 0x1018 8 1 (fun _ => .bktCfg), coreAt off 0x1020 8 1 (fun _ => .bktStat1),
    coreAt off 0x1028 8 1 (fun _ => .bktStat2), coreAt off 0x1100 8 1 (fun _ => .sram), coreAt off 0x1200 8 1 (fun _ => .safe)]).findSome? id
/-- The register at an offset of a link port. -/
def portRegAt (p off : Nat) : Option GlobReg :=
  [globAt off 0x00 8 1 (fun _ => .linkCtl p), globAt off 0x08 8 1 (fun _ => .linkStat p), globAt off 0x10 8 1 (fun _ => .laneStat p),
   globAt off 0x18 8 1 (fun _ => .linkErr p), globAt off 0x20 8 1 (fun _ => .linkDrop p), globAt off 0x28 8 1 (fun _ => .linkVcarb p),
   globAt off 0x40 8 3 (.linkTrec p)].findSome? id
/-- The register at an offset of the scheduler block of partition `p`. -/
def schedRegAt (p off : Nat) : Option GlobReg :=
  [globAt off 0x000 8 1 (fun _ => .schedCtl p), globAt off 0x040 8 12 (.saveBase p), globAt off 0x100 8 1 (fun _ => .clientW p),
   globAt off 0x108 8 1 (fun _ => .acctSel p), globAt off 0x180 8 16 (.acctData p)].findSome? id
/-- The register at an offset of the serving block of partition `p`. -/
def serveRegAt (p off : Nat) : Option GlobReg :=
  [globAt off 0x000 8 1 (fun _ => .serveCtl p), globAt off 0x008 8 1 (fun _ => .serveStat p), globAt off 0x010 8 1 (fun _ => .serveCnt p),
   globAt off 0x018 8 1 (fun _ => .serveCnt2 p), globAt off 0x100 16 16 (.serveKv p), globAt off 0x108 16 16 (.serveKv2 p)].findSome? id
/-- Registers from the identification to the security block. -/
def lowRegAt (a : Nat) : Option GlobReg :=
  ([globAt a 0x00000 8 1 (fun _ => .devId), globAt a 0x00040 8 8 .ident, globAt a 0x01000 8 1 (fun _ => .gstat),
    globAt a 0x02000 8 1 (fun _ => .faultSeq), globAt a 0x02008 8 1 (fun _ => .faultSnap), globAt a 0x02010 8 1 (fun _ => .faultSnapSt),
    globAt a 0x02018 8 1 (fun _ => .faultCause), globAt a 0x02040 8 8 .faultLast, globAt a 0x03000 8 6 .acct,
    globAt a 0x04000 8 1 (fun _ => .partMap), globAt a 0x04008 8 1 (fun _ => .partSet), globAt a 0x04010 8 1 (fun _ => .partSt),
    globAt a 0x05000 8 1 (fun _ => .fabShare), globAt a 0x05008 8 1 (fun _ => .fabWeight), globAt a 0x05010 8 1 (fun _ => .fabSt)] ++
   [globAt a 0x05018 8 1 (fun _ => .fabCur), globAt a 0x10000 8 12 .bayPwr, globAt a 0x10060 8 12 .bayPstat, globAt a 0x100C0 8 12 .bayPcnt,
    globAt a 0x10120 8 1 (fun _ => .clkSel), globAt a 0x10128 8 3 .clkData, globAt a 0x10140 8 1 (fun _ => .pkgCap),
    globAt a 0x10148 8 1 (fun _ => .thermCtl), globAt a 0x10180 8 12 .age, globAt a 0x101F0 8 1 (fun _ => .ctlCount),
    globAt a 0x20000 8 1 (fun _ => .reinit), globAt a 0x20008 8 1 (fun _ => .reinitSt), globAt a 0x20010 8 1 (fun _ => .resetCtl),
    globAt a 0x20018 8 1 (fun _ => .bootStat), globAt a 0x20040 8 6 .coreRetire] ++
   [globAt a 0x30000 8 1 (fun _ => .secCmd), globAt a 0x30008 8 1 (fun _ => .secCmdSt), globAt a 0x30010 8 1 (fun _ => .secState),
    globAt a 0x30018 8 1 (fun _ => .secStat), globAt a 0x30020 8 1 (fun _ => .secCfg),
    globAt a 0x30100 8 40 (fun i => .mr (i / 8) (i % 8)), globAt a 0x30280 8 8 .identM]).findSome? id
/-- Registers from the safety to the route block. -/
def highRegAt (a : Nat) : Option GlobReg :=
  ([globAt a 0x40000 8 12 .safeModel, globAt a 0x40060 8 1 (fun _ => .safeStat), globAt a 0x40080 8 1 (fun _ => .lcSafeCtl),
    globAt a 0x40088 8 1 (fun _ => .lcSafeStat), globAt a 0x50000 8 1 (fun _ => .cinchCfg), globAt a 0x50008 8 1 (fun _ => .cinchTmo),
    globAt a 0x50010 8 1 (fun _ => .cinchLs), globAt a 0x50018 8 1 (fun _ => .cinchStep), globAt a 0x50020 8 1 (fun _ => .cinchStat),
    globAt a 0x50040 8 6 .cinchCores, globAt a 0x60000 8 1 (fun _ => .ckptCtl), globAt a 0x60008 8 1 (fun _ => .ckptStep),
    globAt a 0x60010 8 1 (fun _ => .ckptStep2), globAt a 0x60018 8 1 (fun _ => .epochAddr), globAt a 0x60020 8 1 (fun _ => .epochGo)] ++
   [globAt a 0x60028 8 1 (fun _ => .epochSt), globAt a 0x60030 8 1 (fun _ => .fillStat), globAt a 0x60038 8 1 (fun _ => .fillStep),
    globAt a 0x70000 16 64 .hbmRgn, globAt a 0x70008 16 64 .hbmRgn2, globAt a 0x70400 8 1 (fun _ => .hbmRgnSt),
    globAt a 0x70408 8 12 .hbmArb, globAt a 0x70470 8 1 (fun _ => .hbmScrub), globAt a 0x70480 8 24 .hbmErr,
    globAt a 0x80000 8 1 (fun _ => .flCfg), globAt a 0x80008 8 4 .flStat, globAt a 0x80028 8 1 (fun _ => .flCnt),
    globAt a 0x90000 8 1 (fun _ => .hpCtl), globAt a 0x90008 8 1 (fun _ => .hpStat), globAt a 0x90010 8 1 (fun _ => .hpMac)] ++
   [globAt a 0x90018 8 1 (fun _ => .hpIp4), globAt a 0x90020 8 2 .hpIp6, globAt a 0x90030 8 1 (fun _ => .hpIp6Cfg),
    globAt a 0x90040 8 1 (fun _ => .rhtCfg), globAt a 0x90048 8 1 (fun _ => .rhtRto), globAt a 0x90050 8 1 (fun _ => .rhtQos),
    globAt a 0x90058 8 1 (fun _ => .rhtHold), globAt a 0x90060 8 1 (fun _ => .rhtCnt), globAt a 0x90068 8 1 (fun _ => .rhtCnt2),
    globAt a 0x90070 8 1 (fun _ => .ingTbl), globAt a 0x90078 8 1 (fun _ => .storeCtl), globAt a 0x90080 8 1 (fun _ => .storeStat),
    globAt a 0xA0000 8 1 (fun _ => .linkPkg), globAt a 0xA0008 8 1 (fun _ => .routeCtl), globAt a 0xA1000 8 1024 .routeA,
    globAt a 0xA3000 8 1024 .routeB]).findSome? id
/-- The register at an address of the global block (Table 21.1). -/
def globRegAt (a : Nat) : Option GlobReg :=
  if a < 0x40000 then lowRegAt a
  else if a < 0x100000 then highRegAt a
  else if a < 0x10C000 then schedRegAt ((a - 0x100000) / 0x1000) (a % 0x1000)
  else if 0x200000 ≤ a && a < 0x20C000 then serveRegAt ((a - 0x200000) / 0x1000) (a % 0x1000)
  else if 0x1000000 ≤ a && a < 0x1080000 && a % 0x10000 < 0x2000 then
    portRegAt (2 * ((a - 0x1000000) / 0x10000) + a % 0x10000 / 0x1000) (a % 0x1000)
  else none
def bayBase : Nat := 0x1000000000000
/-- The core of a number, when there is one. -/
def coreId? (c : Nat) : Option CoreId := if h : c < 360 then some ⟨c, h⟩ else none
/-- The register at a CSR address (R13, R515, R517). -/
def regOf (a : Nat) : Option Reg :=
  if a < bayBase then (globRegAt a).map .glob
  else
    let o := a - bayBase
    let b := o / 0x10000000000
    let i := o % 0x10000000000 / 0x1000000
    let k := o % 0x1000000 / 0x10000
    let off := o % 0x10000
    if b < 12 && i < 5 then
      if k < 6 then
        match coreId? (30 * b + 6 * i + k), coreRegAt off with
        | some c, some r => some (.core c r)
        | _, _ => none
      else if k = 6 && off = 0 then some (.tap (5 * b + i))
      else if k = 7 && off = 0 then some (.router (5 * b + i))
      else none
    else none

/-! ## Reads -/

/-- A register word from its fields, as (lowest bit, value). -/
def pack (l : List (Nat × Nat)) : Word := BitVec.ofNat 64 (l.foldl (fun n f => n + f.2 * 2 ^ f.1) 0)
def SchedState.code : SchedState → Nat
  | .free => 0 | .running => 1 | .parking => 2 | .parked => 3 | .saving => 4 | .restoring => 5
/-- A NARROW with HIST set is ACTIVE. -/
def Core.histActive (k : Core) : Bool :=
  Core.slotNums.any (fun n => (k.slot n).state = .active && kindOf (k.slot n).desc = 4 && bit (k.slot n).desc 216)
/-- What a read of a core register returns; write-only registers and fields read zero (R11, R515). -/
def State.readCoreReg (s : State) (c : Nat) (r : CoreReg) : Word :=
  let k := s.core c
  match r with
  | .id => pack [(0, c), (9, dieOf c), (16, bayOf c), (20, s.partOf c)]
  | .stat => pack [(0, b2n k.yieldOverdue), (1, k.freeSlots), (8, b2n k.retired), (32, k.overdueCnt)]
  | .cnt => pack [(0, k.slotStall), (32, k.gatherRange)]
  | .fpflags => k.fpflags
  | .histCtl => pack [(0, k.vec.expBase.toNat), (9, b2n k.histActive)]
  | .histBin m => pack [(0, k.vec.hist.get 0 (2 * m)), (32, k.vec.hist.get 0 (2 * m + 1))]
  | .group g =>
    let x : Group := k.mash.groups.get {} g
    pack [(0, x.base), (10, if x.isOpen then x.count else 0), (21, x.mode), (24, b2n x.mx), (25, b2n x.chk), (26, b2n x.isOpen),
      (28, min (2 ^ 24 - 1) x.kcount)]
  | .org g => k.mash.org.get 0 g
  | .srSeed => k.mash.srSeed
  | .mashStat => pack [(0, k.mash.accCe), (16, k.mash.chkSkip), (32, k.mash.chkFail), (48, k.mash.resFail)]
  | .mashCtl => pack [(0, b2n k.mash.resChk)]
  | .kSeed => k.vec.seed
  | .kStep => pack [(0, k.vec.step.toNat)]
  | .kStat => pack [(0, min (2 ^ 32 - 1) (k.vec.elems / 65536)), (32, k.vec.transSub), (48, k.vec.lrTrunc)]
  | .lrStat n =>
    let x : LongReg := k.vec.lr.get {} n
    pack [(0, x.st), (4, b2n x.trunc), (16, ofSigned 16 x.e), (32, x.count % 2 ^ 32)]
  | .hopChan ch => (k.hop.chans.get {} ch).cfg
  | .hopChanStat ch => pack [(0, (k.hop.chans.get {} ch).received % 2 ^ 32), (32, (k.hop.chans.get {} ch).released % 2 ^ 32)]
  | .hopStat => pack [(0, k.hop.guardCnt), (16, k.hop.gatePush), (32, k.hop.gateDrop), (48, k.hop.discarded)]
  | .softStep => pack [(0, k.hop.softStep.toNat)]
  | .caskCtl => pack [(0, k.cask.epoch), (16, k.cask.layer.toNat)]
  | .caskStat => pack [(0, k.cask.spills), (16, k.cask.discStreams), (32, k.cask.discUnits)]
  | .caskMbase e => pack [(0, (k.epoch e).mbase)]
  | .caskMlen e => pack [(0, (k.epoch e).mlen)]
  | .caskRbase e => pack [(0, (k.epoch e).rbase)]
  | .caskRlen e => pack [(0, (k.epoch e).rlen)]
  | .caskEst e => pack [(0, b2n (k.epoch e).spill), (1, (k.epoch e).spillLayer), (17, (k.epoch e).spillAddr)]
  | .dwqCtl => k.dwq.ctl
  | .dwqPush => 0
  | .dwqForce => pack [(0, k.dwq.force.toNat)]
  | .dwqStat => pack [(0, k.dwq.pushed % 2 ^ 32), (32, k.dwq.heldCount)]
  | .dwqCnt => pack [(0, k.dwq.fullStall), (16, k.dwq.refill), (32, k.dwq.discarded), (48, k.dwq.entryFault)]
  | .dwqMcyc => pack [(0, k.dwq.mcyc)]
  | .phaseCtl => k.phase.ctl
  | .segCtl => k.phase.segCtl
  | .phaseCyc p => pack [(0, k.phaseCyc (s.mashOf c) p)]
  | .cinch => k.cinch
  | .ctx => pack [(0, k.sp.live.length), (18, k.sp.liveRows.length), (29, k.sched.code), (32, s.pin c)]
  | .bktArm => 0
  | .bktArmSt => pack [(0, k.bkt.armErr), (3, b2n k.bkt.relErr)]
  | .bktRel => 0
  | .bktCfg => k.bkt.cfg
  | .bktStat1 => pack [(0, k.bkt.carriedCnt), (16, k.bkt.lateDrop), (32, k.bkt.holdDrop), (48, k.bkt.dupDrop)]
  | .bktStat2 => pack [(0, k.bkt.epochDrop), (16, k.bkt.sizeDrop), (32, k.bkt.emptyClose), (48, min 65535 k.bkt.held.length)]
  | .sram => pack [(0, k.spCe), (16, k.spUe), (32, k.passes)]
  | .safe => pack [(0, k.safe.pass), (16, k.safe.fail), (32, k.safe.failStn.toNat), (40, b2n k.safe.failSeq),
      (41, b2n (match k.seq.kernel with | some x => x.enforced | none => false))]
/-- The clock-record entry that CLKREC_SEL shows: entry n of the ring holds the sequence numbers n modulo 64 (R475). -/
def State.clkShown (s : State) : Option ClkEntry :=
  (s.bay (fld s.glob.clkrecSel 0 4)).clk.find? (fun e => e.seq % 64 = fld s.glob.clkrecSel 4 6)
/-- What a read of a global register returns (R11, R515). -/
def State.readGlobReg (s : State) (r : GlobReg) : Word :=
  let g := s.glob
  let h := s.host
  match r with
  | .devId => pack [(0, 0x1AF7), (16, 0x1100), (32, Config.stepping.toNat), (36, if Config.orderIsL2 then 2 else 1)]
  | .ident w => pack [(0, fld s.sec.ident (64 * w) 64)]
  | .gstat => pack [(0, b2n s.rst.ready), (1, b2n s.sec.recovery),
      (2, (List.range 12).foldl (fun n b => n + b2n (((s.bay b).state = .on : Bool)) * 2 ^ b) 0),
      (14, (List.range 12).foldl (fun n b => n + b2n (((s.bay b).state = .reset : Bool)) * 2 ^ b) 0), (26, b2n s.sec.sealed_)]
  | .faultSeq => pack [(0, h.nextFseq), (32, h.faults.length)]
  | .faultSnap => 0
  | .faultSnapSt => pack [(0, g.snapSeq), (32, b2n g.snapValid)]
  | .faultCause => pack ((List.range 5).map (fun c => (12 * c, g.causeCnt.get 0 c)))
  | .faultLast w => pack [(0, fld g.snap (64 * w) 64)]
  | .acct w => pack [(0, match w with
      | 0 => g.acctHbm | 1 => g.acctLink | 2 => g.acctHost | 3 => g.acctFlash | 4 => g.acctSave | _ => g.acctEnergy)]
  | .partMap => pack ((List.range 12).map (fun b => (4 * b, s.partOfBay b)))
  | .partSet => 0
  | .partSt => pack [(0, g.partErr), (2, g.partRefused.toNat), (32, g.partChanges)]
  | .fabShare => g.fabShare
  | .fabWeight => g.fabWeight
  | .fabSt => pack [(0, b2n g.fabErr), (1, b2n g.fabPending)]
  | .fabCur => g.fabCur
  | .bayPwr b => pack [(0, (s.bay b).req)]
  | .bayPstat b =>
    let x := s.bay b
    pack [(0, x.state.code), (2, x.err), (4, b2n x.dip), (5, match x.clk.getLast? with | some e => e.freq | none => x.freq),
      (12, x.planBin), (17, x.thrBin), (22, x.offset)]
  | .bayPcnt b => pack [(0, (s.bay b).dipCnt), (32, (s.bay b).resets), (48, (s.bay b).overrun)]
  | .clkSel => g.clkrecSel
  | .clkData w => match s.clkShown with
      | some e => pack (match w with
          | 0 => [(0, e.ctl)] | 1 => [(0, e.mash)] | _ => [(0, e.freq), (8, e.cause), (32, e.seq % 2 ^ 32)])
      | none => 0
  | .pkgCap => g.pkgCap
  | .thermCtl => g.thermCtl
  | .age b =>
    let x := s.bay b
    pack [(0, x.horizon.toNat), (16, x.slack.toNat), (32, x.replans), (48, b2n x.dipStress)]
  | .ctlCount => pack [(0, s.now)]
  | .reinit => 0
  | .reinitSt => pack [(0, s.rst.state), (2, s.rst.err), (16, s.rst.count)]
  | .resetCtl => pack [(2, b2n s.rst.retainAuto)]
  | .bootStat => pack [(0, s.rst.phase), (3, b2n s.rst.retained), (4, s.rst.last), (7, s.rst.bayFail.toNat),
      (19, (allCores.filter (fun c => (s.core c).retired)).length)]
  | .coreRetire w => pack ((List.range 64).map (fun i => (i, b2n (64 * w + i < 360 && (s.core (64 * w + i)).retired))))
  | .secCmd => 0
  | .secCmdSt => pack [(0, s.sec.state), (8, s.sec.result), (16, s.sec.runMs)]
  | .secState =>
    let x := s.sec
    pack [(0, b2n x.sealed_), (1, b2n x.dbgOpen), (2, x.scope), (4, b2n x.recovery), (5, b2n x.logOverflow), (6, x.ownerSet),
      (10, x.ownerRev), (14, x.svnFuse), (22, x.imageSvn), (38, b2n x.presence)]
  | .secStat => pack [(0, s.sec.faults), (16, s.sec.presTmo), (32, s.sec.sigFail)]
  | .secCfg => s.sec.cfg
  | .mr n w => pack [(0, fld (s.sec.mr.get 0 n) (64 * w) 64)]
  | .identM w => pack [(0, fld s.sec.ident (64 * w) 64)]
  | .safeModel p => s.safety.model.get 0 p
  | .safeStat => pack [(0, s.safety.faults), (16, s.safety.lates), (32, s.safety.clock), (48, min 65535 (s.safety.releases / 256))]
  | .lcSafeCtl => s.safety.ctl
  | .lcSafeStat => pack [(0, s.safety.lcFaults), (16, s.safety.lcLates), (32, s.safety.dcrcFail), (48, s.safety.icrcFail)]
  | .cinchCfg => s.cinch.cfg
  | .cinchTmo => pack [(0, s.cinch.tmo.toNat)]
  | .cinchLs => s.cinch.ls
  | .cinchStep => pack [(0, s.cinch.committed.toNat), (32, s.cinch.epoch.toNat),
      (48, match s.cinch.state with | .idle => 0 | .collect => 1 | .decided => 2 | .prepared => 3 | .resolve => 4), (51, s.cinch.mboxWait)]
  | .cinchStat => pack [(0, s.cinch.skips), (16, s.cinch.aborts), (32, s.cinch.updateNf), (48, s.cinch.staleMsg)]
  | .cinchCores w => s.cinch.cores.get 0 w
  | .ckptCtl => s.ckpt.ctl
  | .ckptStep => pack [(0, s.ckpt.partnerStep.toNat), (32, s.ckpt.flashStep.toNat)]
  | .ckptStep2 => pack [(0, s.ckpt.storeStep.toNat), (32, s.ckpt.stalls), (48, s.ckpt.tierFail)]
  | .epochAddr => pack [(0, s.ckpt.epochAddr)]
  | .epochGo => 0
  | .epochSt => pack [(0, s.ckpt.epochErr), (2, b2n s.ckpt.mismatch)]
  | .fillStat =>
    let f := s.ckpt.fill
    pack [(0, f.state), (3, f.done), (20, f.total), (37, f.source), (49, f.switches)]
  | .fillStep => pack [(0, s.ckpt.fill.target.toNat), (32, b2n s.ckpt.fill.fromStore)]
  | .hbmRgn n => s.hbm.rgn.get 0 n
  | .hbmRgn2 n => s.hbm.rgn2.get 0 n
  | .hbmRgnSt => pack [(0, s.hbm.err), (16, s.hbm.unmapped), (32, s.hbm.denied)]
  | .hbmArb b => s.hbm.arbOf b
  | .hbmScrub => s.hbm.scrub
  | .hbmErr n => pack [(0, s.hbm.ce.get 0 n), (32, s.hbm.ue.get 0 n)]
  | .flCfg => s.flash.cfg
  | .flStat f => pack [(0, s.flash.state f), (2, s.flash.wear f), (32, min (2 ^ 32 - 1) (s.flash.written.get 0 f / 1000000000))]
  | .flCnt => pack [(0, s.flash.lost), (16, s.flash.ue)]
  | .hpCtl => h.ctl
  | .hpStat => pack [(0, b2n h.up), (1, h.mode), (4, h.pauseRx), (20, h.rxOther), (36, h.fecUncorr)]
  | .hpMac => pack [(0, h.mac.toNat)]
  | .hpIp4 => h.ip4
  | .hpIp6 w => h.ip6.get 0 w
  | .hpIp6Cfg => h.ip6cfg
  | .rhtCfg => h.rhtCfg
  | .rhtRto => h.rto
  | .rhtQos => h.qos
  | .rhtHold => h.hold
  | .rhtCnt => pack [(0, h.rxBad), (16, h.rxNobuf), (32, h.retx), (48, h.sessLost)]
  | .rhtCnt2 => pack [(0, h.lcOrphan), (16, h.telemDrop), (32, h.faultLost), (48, h.badDb)]
  | .ingTbl => pack [(0, h.ingTbl)]
  | .storeCtl => setFld (setFld h.storeCtl 47 1 (b2n s.flash.half)) 48 1 (b2n s.flash.latest)
  | .storeStat => pack [(0, h.gen % 2 ^ 32), (32, h.cnp), (48, h.roceDrop)]
  | .linkPkg => pack [(0, s.links.pkg.toNat), (12, b2n s.links.pkgSet)]
  | .routeCtl => pack [(0, b2n s.links.bankB), (2, b2n s.links.swapErr)]
  | .routeA m => s.links.routeA.get 0 m
  | .routeB m => s.links.routeB.get 0 m
  | .schedCtl p => (s.schedOf p).ctl
  | .saveBase p b => pack [(0, (s.schedOf p).saveBase.get 0 b)]
  | .clientW _ => 0
  | .acctSel p => pack [(0, (s.schedOf p).acctSel)]
  | .acctData p w => pack [(0, g.acctWord (s.schedOf p).acctSel w)]
  | .serveCtl p => (s.serveOf p).ctl
  | .serveStat p => pack [(0, (s.serveOf p).step.toNat), (32, (s.serveOf p).slotsUsed)]
  | .serveCnt p =>
    let v := s.serveOf p
    pack [(0, v.deferred), (16, v.memRefused), (32, v.cancelCnt), (48, v.pauses)]
  | .serveCnt2 p =>
    let v := s.serveOf p
    pack [(0, v.lateRoster), (16, v.expired), (32, v.ringFull), (48, v.adapterFreed)]
  | .serveKv p m => match (s.serveOf p).model m with | some x => pack [(0, x.mrec.kvPages), (24, x.free)] | none => 0
  | .serveKv2 p m => match (s.serveOf p).model m with | some x => pack [(0, x.pending), (24, x.prefPages)] | none => 0
  | .linkCtl p => (s.port p).ctl
  | .linkStat p =>
    let q := s.port p
    pack [(0, match q.state with | .down => 0 | .training => 1 | .up => 2 | .sparing => 3), (3, q.rate), (5, b2n q.wide)]
  | .laneStat p => pack [(0, (s.port p).active.toNat), (17, b2n (s.port p).spareUsed), (18, (s.port p).spareFor)]
  | .linkErr p => pack [(0, (s.port p).corrSym), (32, (s.port p).naks), (48, (s.port p).swaps), (56, (s.port p).retrains)]
  | .linkDrop p => pack [(0, (s.port p).routeDrop), (16, (s.port p).routeHops), (32, (s.port p).vcRefused), (48, (s.port p).e2eFail)]
  | .linkVcarb p => (s.port p).vcarb
  | .linkTrec p w => (s.port p).trec.get 0 w
/-- What a read returns. -/
def State.readReg (s : State) (r : Reg) : Word :=
  match r with
  | .core c r => s.readCoreReg c.val r
  | .tap d =>
    let x := s.die d
    pack [(0, x.suppressed), (16, x.nonfinite), (32, x.storeBytes / 1024), (48, x.rowFaults)]
  | .router d =>
    let x := s.die d
    pack [(0, x.addrDiscard), (16, x.partDiscard), (32, x.fc4Discard), (48, x.destReset)]
  | .glob g => s.readGlobReg g

/-! ## Writes -/

/-- The state a row's meaning leaves. -/
def State.after (s : State) (o : Host.Outcome State Fault Refusal) : State := match o with | .next t => t | _ => s
/-- Registers whose writable fields are all RWL (R11, R494). -/
def Reg.sealable : Reg → Bool
  | .core _ .mashCtl => true
  | .glob (.safeModel _) => true
  | .glob .lcSafeCtl => true
  | .glob .thermCtl => true
  | .glob .secCfg => true
  | _ => false
/-- The low `n` bits of a written word. -/
def low (v : Word) (n : Nat) : Word := BitVec.ofNat 64 (fld v 0 n)
/-- A write of a channel register: ENABLE = 1 enables; ENABLE = 0 disables a channel that is on, and otherwise sets the fields
(R196, R203, Table 7.13). -/
def State.writeChan (s : State) (c ch : Nat) (v : Word) : State :=
  if bit v 48 then s.chanEnable c ch v
  else s.modCore c (fun k =>
    if !(k.hopChan ch).on then k.modChan ch (fun h => { h with cfg := chanCfg v false 0 })
    else if k.chanBusy ch then k.modChan ch (fun h => { h with cfg := setFld h.cfg 49 2 1 })
    else k.chanOff ch)
/-- Set a field of a stash epoch. -/
def Core.setEpoch (k : Core) (e : Nat) (f : Epoch → Epoch) : Core :=
  k.modCask (fun q => { q with epochs := q.epochs.set e (f (k.epoch e)) })
/-- A write of a core register, by its access code (R11). -/
def State.writeCoreReg (s : State) (c : CoreId) (r : CoreReg) (v : Word) : State :=
  let n := c.val
  let up := fun (f : Core → Core) => s.modCore n f
  match r with
  | .stat => up (fun k => { k with yieldOverdue := (k.yieldOverdue && !bit v 0) })
  | .fpflags => up (fun k => { k with fpflags := k.fpflags &&& ~~~v })
  | .histCtl => up (fun k => { k with vec := { k.vec with
      expBase := v.setWidth 8
      hist := if bit v 8 then [] else k.vec.hist } })
  | .group g => if bit v 27 then up (·.abortGroup g) else s
  | .org g => up (fun k => { k with mash := { k.mash with org := k.mash.org.set g v } })
  | .srSeed => up (fun k => { k with mash := { k.mash with srSeed := v } })
  | .mashCtl => up (fun k => { k with mash := { k.mash with resChk := bit v 0 } })
  | .kSeed => up (fun k => { k with vec := { k.vec with seed := v } })
  | .kStep => up (fun k => { k with vec := { k.vec with step := v.setWidth 32 } })
  | .hopChan ch => s.writeChan n ch v
  | .softStep => up (fun k => { k with hop := { k.hop with softStep := v.setWidth 32 } })
  | .caskCtl => up (fun k => k.modCask (fun q => q.writeCtl v))
  | .caskMbase e => up (fun k => k.setEpoch e (fun x => { x with mbase := fld v 0 41 }))
  | .caskMlen e => up (fun k => k.setEpoch e (fun x => { x with mlen := fld v 0 41 }))
  | .caskRbase e => up (fun k => k.setEpoch e (fun x => { x with rbase := fld v 0 41 }))
  | .caskRlen e => up (fun k => k.setEpoch e (fun x => { x with rlen := fld v 0 41 }))
  | .dwqCtl => up (fun k => k.modDwq (fun q => { q with ctl := low v 32 }))
  | .dwqPush => if bit v 0 then up (fun k => if k.dwq.heldCount < 64 then k.pushOne else k.forceHead) else s
  | .dwqForce => up (fun k => k.modDwq (fun q => { q with force := v.setWidth 32 }))
  | .phaseCtl => up (fun k =>
      let k1 := k.phaseSync (s.mashOf n)
      { k1 with phase := { k1.phase with ctl := low v 16 } })
  | .segCtl => up (fun k => { k with phase := { k.phase with segCtl := low v 13 } })
  | .cinch => up (fun k => { k with cinch := setFld (setFld k.cinch 1 4 (fld v 1 4)) 5 3 (fld v 5 3) })
  | .bktArm => s.after (execBktArm c v s)
  | .bktRel => s.after (execBktRel c v s)
  | .bktCfg => up (fun k => k.modBkt (fun b => { b with cfg := low v 34 }))
  | _ => s
/-- Cinch takes a setting only while it is IDLE (chapter 9, after Table 9.9). -/
def State.cinchSet (s : State) (f : Cinch → Cinch) : State :=
  s.modCinch (fun x => if x.state = .idle then f x else x.stale)
/-- SEC_CMD: the write issues the command (Table 19.2). Whether the flash of a FW_INSTALL reads back is free here. -/
def State.writeSecCmd (s : State) (v : Word) : State :=
  let buf : BitVec 41 := v.setWidth 41
  match fld v 48 8 with
  | 1 => s.after (execAttest buf s)
  | 2 => s.after (execLogRead buf s)
  | 3 => s.after (execIdentity buf s)
  | 4 =>
    let r := s.draw 1
    r.2.after (execFwInstall buf (bit r.1 0) r.2)
  | 5 => s.after (execSvnAdvance buf s)
  | 6 => s.after (execOwnerProvision buf s)
  | 7 => s.after (execOwnerRevoke buf s)
  | 8 => s.after (execDebugChallenge buf s)
  | 9 => s.after (execDebugOpen buf s)
  | 10 => s.after (execSeal buf s)
  | _ => s.secCmd buf.toNat (fun s => s.secDone secBad)
/-- A write of HP_CTL (R401): MODE is ignored while ENABLE is 1. -/
def State.writeHpCtl (s : State) (v : Word) : State :=
  if bit s.host.ctl 3 then
    if bit v 3 then s
    else s.modHost (fun h => { h with
      ctl := setFld h.ctl 3 1 0
      up := false })
  else
    let s1 := s.modHost (fun h => { h with ctl := setFld h.ctl 0 3 (fld v 0 3) })
    if bit v 3 then s1.after (execHpEnable s1) else s1
/-- A write of LINK_CTL (Table 10.9): ENABLE trains a port that is DOWN, or takes the port DOWN; RETRAIN retrains an enabled port
(R275). -/
def State.writeLinkCtl (s : State) (p : Fin 16) (v : Word) : State :=
  let on := bit (s.port p.val).ctl 0
  let s1 := s.modPort p.val (fun q => { q with ctl := pack [(0, b2n on), (1, fld v 1 4), (32, fld v 32 32)] })
  if bit v 0 then
    let s2 := s1.after (execLinkEnable p s1)
    if bit v 5 && on then s2.after (execRetrain p s2) else s2
  else if on then
    let s2 := s1.modPort p.val (fun q => { q with ctl := setFld q.ctl 0 1 0 })
    if (s2.port p.val).state = .down then s2 else s2.portDown p.val
  else s1
/-- A write of an entry of a route bank: ignored and counted while the bank is active (chapter 10). -/
def State.writeRoute (s : State) (b : Bool) (m : Nat) (v : Word) : State :=
  if s.links.bankB = b then s.modPort 0 (fun q => { q with routeDrop := satAdd 16 q.routeDrop 1 })
  else s.modLinks (fun l => if b then { l with routeB := l.routeB.set m v } else { l with routeA := l.routeA.set m v })
/-- A write of THERM_CTL: TRIP_C is never set above 110 °C (R479). -/
def thermWrite (old v : Word) : Word :=
  pack [(0, fld v 0 8), (8, if fld v 8 8 ≤ 110 then fld v 8 8 else fld old 8 8), (16, fld v 16 16)]
/-- A partition of a number. -/
def part12 (p : Nat) : Fin 12 := Fin.ofNat 12 p
/-- A write of a global register, by its access code (R11). -/
def State.writeGlobReg (s : State) (r : GlobReg) (v : Word) : State :=
  let host := fun (f : HostPort → HostPort) => s.modHost f
  match r with
  | .faultSnap => if bit v 0 then s.takeSnap else s
  | .partSet => s.after (execPartSet (v.setWidth 12) (BitVec.ofNat 4 (fld v 12 4)) s)
  | .fabShare => s.after (execFabShareWrite v s)
  | .fabWeight => s.after (execFabWeightWrite v s)
  | .bayPwr b => if fld v 0 2 = 3 then s else s.bayRequest b (fld v 0 2)
  | .clkSel => s.modGlob (fun g => { g with clkrecSel := low v 10 })
  | .pkgCap => if 12000 < fld v 0 16 then s else s.modGlob (fun g => { g with pkgCap := low v 16 })
  | .thermCtl => s.modGlob (fun g => { g with thermCtl := thermWrite g.thermCtl v })
  | .reinit => s.reinit (fld v 0 4) (fld v 4 10)
  | .resetCtl =>
    let s1 := s.modRst (fun x => { x with retainAuto := bit v 2 })
    if bit v 0 then s1.packageReset 2 (bit v 1) else s1
  | .secCmd => s.writeSecCmd v
  | .secCfg => if fld v 0 8 < 5 then s else s.modSec (fun x => { x with cfg := low v 8 })
  | .safeModel p => s.modSafety (fun x => { x with model := x.model.set p (low v 16) })
  | .lcSafeCtl => s.modSafety (fun x => { x with ctl := low v 48 })
  | .cinchCfg => s.cinchSet (fun x => { x with cfg := low v 50 })
  | .cinchTmo => s.modCinch (fun x => { x with tmo := v.setWidth 32 })
  | .cinchLs => s.cinchSet (fun x => { x with ls := pack [(0, fld v 0 40), (40, fld x.ls 40 16)] })
  | .cinchCores w => s.cinchSet (fun x => { x with cores := x.cores.set w (if w = 5 then low v 40 else v) })
  | .ckptCtl => s.modCkpt (fun k => { k with ctl := low v 57 })
  | .epochAddr => s.modCkpt (fun k => { k with epochAddr := fld v 0 41 })
  | .epochGo => s.after (execEpochGo (v.setWidth 16) s)
  | .hbmRgn n => s.modHbm (fun h => h.writeRgn n v)
  | .hbmRgn2 n => s.modHbm (fun h => h.writeRgn2 n v)
  | .hbmArb b => s.modHbm (fun h => h.writeArb b v)
  | .hbmScrub => s.modHbm (fun h => { h with scrub := pack [(0, fld v 0 9), (16, fld v 16 8)] })
  | .flCfg => s.writeFlCfg v
  | .hpCtl => s.writeHpCtl v
  | .hpIp4 => host (fun h => { h with ip4 := low v 39 })
  | .hpIp6 w => host (fun h => { h with ip6 := h.ip6.set w v })
  | .hpIp6Cfg => host (fun h => { h with ip6cfg := low v 9 })
  | .rhtCfg => host (fun h => { h with rhtCfg := low v 30 })
  | .rhtRto => host (fun h => { h with rto := v })
  | .rhtQos => host (fun h => { h with qos := low v 45 })
  | .rhtHold => host (fun h => { h with hold := low v 48 })
  | .ingTbl => host (fun h => { h with ingTbl := fld v 0 41 })
  | .storeCtl => host (fun h => { h with storeCtl := low v 47 })
  | .linkPkg => s.after (execLinkPkgWrite v s)
  | .routeCtl => if bit v 1 then s.after (execRouteSwap s) else s
  | .routeA m => s.writeRoute false m v
  | .routeB m => s.writeRoute true m v
  | .schedCtl p => s.modSched p (fun d => { d with ctl := if d.placed.isEmpty then v else setFld v 0 17 (fld d.ctl 0 17) })
  | .saveBase p b => s.modSched p (fun d => { d with saveBase := d.saveBase.set b (fld v 0 41) })
  | .clientW p => s.after (execClientW (part12 p) v s)
  | .acctSel p => s.modSched p (fun d => { d with acctSel := fld v 0 10 })
  | .serveCtl p => s.modServe p (fun x => { x with ctl := low v 37 })
  | .linkCtl p => s.writeLinkCtl (Fin.ofNat 16 p) v
  | .linkVcarb p => s.after (execLinkVcarbWrite (Fin.ofNat 16 p) v s)
  | _ => s
/-- A write: after sealing, one to an RWL field is ignored and counted (R11, R494). -/
def State.writeReg (s : State) (r : Reg) (v : Word) : State :=
  if r.sealable && s.sec.sealed_ then s.modSec (fun x => { x with faults := satAdd 16 x.faults 1 })
  else match r with
    | .core c r => s.writeCoreReg c r v
    | .glob g => s.writeGlobReg g v
    | _ => s

/-! ## Accesses of a core (R94) -/

/-- CSRR (R87, R94). -/
def execCsrr (c : CoreId) (rd : BitVec 5) (off : BitVec 32) (s : State) : Host.Outcome State Fault Refusal :=
  .next (s.seqRun c.val (fun s =>
    match coreRegAt off.toNat with
    | some r => s.modCore c.val (fun k => (k.setS rd.toNat (s.readReg (.core c r))).step8)
    | none => s.seqFault c.val codeCsrDenied 0))
/-- CSRW (R87, R94). A write of DWQ_PUSH may stall (R235). -/
def execCsrw (c : CoreId) (ra : BitVec 5) (off : BitVec 32) (s : State) : Host.Outcome State Fault Refusal :=
  .next (s.seqRun c.val (fun s =>
    let v := (s.core c.val).s ra.toNat
    match coreRegAt off.toNat with
    | some .dwqPush => if bit v 0 then s.modCore c.val (·.pushWrite) else s.modCore c.val (·.step8)
    | some r => (s.writeReg (.core c r) v).modCore c.val (·.step8)
    | none => s.seqFault c.val codeCsrDenied 0))

/-! ## Accesses of the host (R412, R518) -/

/-- A core or Tap block of a bay that is not ON answers DEST_RESET (R518). -/
def State.inReset (s : State) (r : Reg) : Bool :=
  match r with
  | .core c _ => (s.bay (bayOf c.val)).state ≠ .on
  | .tap d => (s.bay (d / 5)).state ≠ .on
  | _ => false
/-- A register of the security block. -/
def Reg.isSec : Reg → Bool
  | .glob .secCmd | .glob .secCmdSt | .glob .secState | .glob .secStat | .glob .secCfg => true
  | .glob (.mr _ _) | .glob (.identM _) => true
  | _ => false
/-- The register a host access reaches: in RECOVERY only those of the security block (R489, R518). -/
def State.hostReg (s : State) (a : Nat) : Option Reg :=
  match regOf a with
  | some r => if s.sec.recovery && !r.isSec then none else some r
  | none => none
/-- Status of an access of `n` words from `a`, before any word is applied, and its registers (R412, R515, R518). -/
def State.access (s : State) (a n : Nat) : Nat × List Reg :=
  if a % 8 ≠ 0 || n = 0 || 64 < n || 4096 < a % 4096 + 8 * n then (2, [])
  else
    let l := (List.range n).map (fun i => s.hostReg (a + 8 * i))
    if l.any Option.isNone then (1, [])
    else
      let rs := l.filterMap id
      if rs.any s.inReset then (4, []) else (0, rs)
/-- A register that shows an account, which is brought up to date before it is read (R381). -/
def Reg.isAcct : Reg → Bool | .glob (.acctData ..) => true | _ => false
/-- CSR_READ (R412). -/
def execCsrRead (d : Datagram) (addr : Word) (count : BitVec 32) (s : State) : Host.Outcome State Fault Refusal :=
  .next (s.msgIn d 0 0x10 12 (fun s =>
    let x := s.access addr.toNat count.toNat
    let s := if x.2.any Reg.isAcct then s.chargeAll else s
    s.post d.session 0 (8 + 8 * x.2.length) (.csrResp d.session x.1 (x.2.map s.readReg))))
/-- CSR_WRITE: the words are applied in ascending order; status 3 when one was ignored after sealing (R11, R412). -/
def execCsrWrite (d : Datagram) (addr : Word) (data : List Word) (s : State) : Host.Outcome State Fault Refusal :=
  .next (s.msgIn d 0 0x11 (16 + 8 * data.length) (fun s =>
    let x := s.access addr.toNat data.length
    let late := x.2.any (fun r => r.sealable && s.sec.sealed_)
    let s1 := (x.2.zip data).foldl (fun s p => s.writeReg p.1 p.2) s
    s1.post d.session 0 8 (.csrResp d.session (if late then 3 else x.1) [])))
/-- REGISTER_WRITE: one word written to a register by its access code (R11, R515, R518). -/
def execRegisterWrite (addr v : Word) (s : State) : Host.Outcome State Fault Refusal :=
  .next (match s.access addr.toNat 1 with
    | (_, [r]) => s.writeReg r v
    | _ => s)

end Sys2Proof.Machine
end

