-- ==== Sys2Proof/Machine/Dispatch.lean ====
section
/-! DEFINITION. The meaning of each command, one arm per row of the opcode table. -/

namespace Sys2Proof.Machine

/-- What a command does to everything but the queue. -/
def exec (i : Instr) (s : State) : Host.Outcome State Fault Refusal :=
  match i with
  | .add c rd ra y => Sys2Proof.Machine.execAdd c rd ra y s
  | .sub c rd ra y => Sys2Proof.Machine.execSub c rd ra y s
  | .mul c rd ra y => Sys2Proof.Machine.execMul c rd ra y s
  | .and c rd ra y => Sys2Proof.Machine.execAnd c rd ra y s
  | .or c rd ra y => Sys2Proof.Machine.execOr c rd ra y s
  | .xor c rd ra y => Sys2Proof.Machine.execXor c rd ra y s
  | .shl c rd ra y => Sys2Proof.Machine.execShl c rd ra y s
  | .shr c rd ra y => Sys2Proof.Machine.execShr c rd ra y s
  | .sra c rd ra y => Sys2Proof.Machine.execSra c rd ra y s
  | .min c rd ra y => Sys2Proof.Machine.execMin c rd ra y s
  | .max c rd ra y => Sys2Proof.Machine.execMax c rd ra y s
  | .minu c rd ra y => Sys2Proof.Machine.execMinu c rd ra y s
  | .maxu c rd ra y => Sys2Proof.Machine.execMaxu c rd ra y s
  | .slt c rd ra y => Sys2Proof.Machine.execSlt c rd ra y s
  | .sltu c rd ra y => Sys2Proof.Machine.execSltu c rd ra y s
  | .aadd c rd ra y => Sys2Proof.Machine.execAadd c rd ra y s
  | .mova c rd ra => Sys2Proof.Machine.execMova c rd ra s
  | .movs c rd ra => Sys2Proof.Machine.execMovs c rd ra s
  | .lim c rd rda imm => Sys2Proof.Machine.execLim c rd rda imm s
  | .lih c rd rda imm => Sys2Proof.Machine.execLih c rd rda imm s
  | .br c ra rb cond off => Sys2Proof.Machine.execBr c ra rb cond off s
  | .jal c rd off => Sys2Proof.Machine.execJal c rd off s
  | .jr c ra => Sys2Proof.Machine.execJr c ra s
  | .lds c rd an imm => Sys2Proof.Machine.execLds c rd an imm s
  | .sts c rd an imm => Sys2Proof.Machine.execSts c rd an imm s
  | .ldd c rd an imm => Sys2Proof.Machine.execLdd c rd an imm s
  | .std c rd an imm => Sys2Proof.Machine.execStd c rd an imm s
  | .mboxr c rd => Sys2Proof.Machine.execMboxr c rd s
  | .waitt c tc y => Sys2Proof.Machine.execWaitt c tc y s
  | .sett c tc y => Sys2Proof.Machine.execSett c tc y s
  | .addt c tc y => Sys2Proof.Machine.execAddt c tc y s
  | .rdt c rd tc => Sys2Proof.Machine.execRdt c rd tc s
  | .fence c mask => Sys2Proof.Machine.execFence c mask s
  | .slotq c rd ra => Sys2Proof.Machine.execSlotq c rd ra s
  | .yield c => Sys2Proof.Machine.execYield c s
  | .rdcyc c rd => Sys2Proof.Machine.execRdcyc c rd s
  | .stream c rs rd ax ay az => Sys2Proof.Machine.execStream c rs rd ax ay az s
  | .nop c => Sys2Proof.Machine.execNop c s
  | .raise c code => Sys2Proof.Machine.execRaise c code s
  | .kend c => Sys2Proof.Machine.execKend c s
  | .csrr c rd off => Sys2Proof.Machine.execCsrr c rd off s
  | .csrw c ra off => Sys2Proof.Machine.execCsrw c ra off s
  | .msg c rs sel => Sys2Proof.Machine.execMsg c rs sel s
  | .sigchk c expect => Sys2Proof.Machine.execSigchk c expect s
  | .illegalOp c w => Sys2Proof.Machine.execIllegalOp c w s
  | .icacheFill c => Sys2Proof.Machine.execIcacheFill c s
  | .stallCycle c => Sys2Proof.Machine.execStallCycle c s
  | .waittPark c => Sys2Proof.Machine.execWaittPark c s
  | .yieldOverdue c => Sys2Proof.Machine.execYieldOverdue c s
  | .gateOpen r => Sys2Proof.Machine.execGateOpen r s
  | .slotFreed r => Sys2Proof.Machine.execSlotFreed r s
  | .streamTileWritten r => Sys2Proof.Machine.execStreamTileWritten r s
  | .streamComplete r => Sys2Proof.Machine.execStreamComplete r s
  | .loadStream r => Sys2Proof.Machine.execLoadStream r s
  | .stationaryFeed r => Sys2Proof.Machine.execStationaryFeed r s
  | .movingFeed r => Sys2Proof.Machine.execMovingFeed r s
  | .gather r => Sys2Proof.Machine.execGather r s
  | .drain r => Sys2Proof.Machine.execDrain r s
  | .narrow r => Sys2Proof.Machine.execNarrow r s
  | .stash r => Sys2Proof.Machine.execStash r s
  | .unstash r => Sys2Proof.Machine.execUnstash r s
  | .store r => Sys2Proof.Machine.execStore r s
  | .send r => Sys2Proof.Machine.execSend r s
  | .recv r => Sys2Proof.Machine.execRecv r s
  | .sample r => Sys2Proof.Machine.execSample r s
  | .kettleAdd r => Sys2Proof.Machine.execKettleAdd r s
  | .kettleSub r => Sys2Proof.Machine.execKettleSub r s
  | .kettleMul r => Sys2Proof.Machine.execKettleMul r s
  | .fma r => Sys2Proof.Machine.execFma r s
  | .axpby r => Sys2Proof.Machine.execAxpby r s
  | .kettleMin r => Sys2Proof.Machine.execKettleMin r s
  | .kettleMax r => Sys2Proof.Machine.execKettleMax r s
  | .abs r => Sys2Proof.Machine.execAbs r s
  | .neg r => Sys2Proof.Machine.execNeg r s
  | .cvt r => Sys2Proof.Machine.execCvt r s
  | .poly r => Sys2Proof.Machine.execPoly r s
  | .cmplt r => Sys2Proof.Machine.execCmplt r s
  | .cmple r => Sys2Proof.Machine.execCmple r s
  | .cmpeq r => Sys2Proof.Machine.execCmpeq r s
  | .sel r => Sys2Proof.Machine.execSel r s
  | .exp r => Sys2Proof.Machine.execExp r s
  | .log r => Sys2Proof.Machine.execLog r s
  | .rcp r => Sys2Proof.Machine.execRcp r s
  | .rsqrt r => Sys2Proof.Machine.execRsqrt r s
  | .iadd r => Sys2Proof.Machine.execIadd r s
  | .imax r => Sys2Proof.Machine.execImax r s
  | .i64acc r => Sys2Proof.Machine.execI64acc r s
  | .scalei r => Sys2Proof.Machine.execScalei r s
  | .maxexp r => Sys2Proof.Machine.execMaxexp r s
  | .lrclr r => Sys2Proof.Machine.execLrclr r s
  | .sum r => Sys2Proof.Machine.execSum r s
  | .sumsq r => Sys2Proof.Machine.execSumsq r s
  | .dot r => Sys2Proof.Machine.execDot r s
  | .lradd r => Sys2Proof.Machine.execLradd r s
  | .lrstore r => Sys2Proof.Machine.execLrstore r s
  | .lrread r => Sys2Proof.Machine.execLrread r s
  | .lwiden r => Sys2Proof.Machine.execLwiden r s
  | .lnarrow r => Sys2Proof.Machine.execLnarrow r s
  | .randb r => Sys2Proof.Machine.execRandb r s
  | .randu r => Sys2Proof.Machine.execRandu r s
  | .dropout r => Sys2Proof.Machine.execDropout r s
  | .adamw r => Sys2Proof.Machine.execAdamw r s
  | .lion r => Sys2Proof.Machine.execLion r s
  | .sgdm r => Sys2Proof.Machine.execSgdm r s
  | .passOne r => Sys2Proof.Machine.execPassOne r s
  | .emit r => Sys2Proof.Machine.execEmit r s
  | .passTwo r => Sys2Proof.Machine.execPassTwo r s
  | .gatePass r => Sys2Proof.Machine.execGatePass r s
  | .flitArrive hdr sender => Sys2Proof.Machine.execFlitArrive hdr sender s
  | .weltFlitArrive dst src => Sys2Proof.Machine.execWeltFlitArrive dst src s
  | .softDataFlit dst src => Sys2Proof.Machine.execSoftDataFlit dst src s
  | .creditFlit dst src => Sys2Proof.Machine.execCreditFlit dst src s
  | .flushFlit dst src => Sys2Proof.Machine.execFlushFlit dst src s
  | .mailboxMessage c => Sys2Proof.Machine.execMailboxMessage c s
  | .launchRecord c => Sys2Proof.Machine.execLaunchRecord c s
  | .preemptRequest c => Sys2Proof.Machine.execPreemptRequest c s
  | .coreParked c => Sys2Proof.Machine.execCoreParked c s
  | .histClr c => Sys2Proof.Machine.execHistClr c s
  | .groupAbort c g => Sys2Proof.Machine.execGroupAbort c g s
  | .channelEnable c ch v => Sys2Proof.Machine.execChannelEnable c ch v s
  | .channelDisable c ch => Sys2Proof.Machine.execChannelDisable c ch s
  | .dwqPush c => Sys2Proof.Machine.execDwqPush c s
  | .dwqEntryStart c => Sys2Proof.Machine.execDwqEntryStart c s
  | .dwqForcedStart c => Sys2Proof.Machine.execDwqForcedStart c s
  | .dwqDescIssue c => Sys2Proof.Machine.execDwqDescIssue c s
  | .caskNew c v => Sys2Proof.Machine.execCaskNew c v s
  | .norm c => Sys2Proof.Machine.execNorm c s
  | .cinchTotalExchange pkg step epoch tot => Sys2Proof.Machine.execCinchTotalExchange pkg step epoch tot s
  | .ready c => Sys2Proof.Machine.execReady c s
  | .mirrorIn c => Sys2Proof.Machine.execMirrorIn c s
  | .mirrorHeld pkg step epoch => Sys2Proof.Machine.execMirrorHeld pkg step epoch s
  | .prepared pkg step epoch nfUpd flash store => Sys2Proof.Machine.execPrepared pkg step epoch nfUpd flash store s
  | .cinchMboxRetry c => Sys2Proof.Machine.execCinchMboxRetry c s
  | .roundTimeout pkg => Sys2Proof.Machine.execRoundTimeout pkg s
  | .linkFailureNotice pkg => Sys2Proof.Machine.execLinkFailureNotice pkg s
  | .outcomeExchange epoch view => Sys2Proof.Machine.execOutcomeExchange epoch view s
  | .epochDigest pkg digest => Sys2Proof.Machine.execEpochDigest pkg digest s
  | .epochGo epoch => Sys2Proof.Machine.execEpochGo epoch s
  | .linkEnable p => Sys2Proof.Machine.execLinkEnable p s
  | .retrain p => Sys2Proof.Machine.execRetrain p s
  | .trainingAttemptEnd p pass peer => Sys2Proof.Machine.execTrainingAttemptEnd p pass peer s
  | .linkFrame p f => Sys2Proof.Machine.execLinkFrame p f s
  | .replayTimeout p => Sys2Proof.Machine.execReplayTimeout p s
  | .packetRoute k => Sys2Proof.Machine.execPacketRoute k s
  | .dataPacket k port lines => Sys2Proof.Machine.execDataPacket k port lines s
  | .grant k => Sys2Proof.Machine.execGrant k s
  | .msgPacket k payload => Sys2Proof.Machine.execMsgPacket k payload s
  | .notice k slot => Sys2Proof.Machine.execNotice k slot s
  | .lanectl p lane => Sys2Proof.Machine.execLanectl p lane s
  | .laneLockLoss p lane => Sys2Proof.Machine.execLaneLockLoss p lane s
  | .laneErrorWindow p lane corrected => Sys2Proof.Machine.execLaneErrorWindow p lane corrected s
  | .spareTrained p => Sys2Proof.Machine.execSpareTrained p s
  | .routeSwap => Sys2Proof.Machine.execRouteSwap s
  | .linkVcarbWrite p v => Sys2Proof.Machine.execLinkVcarbWrite p v s
  | .linkPkgWrite v => Sys2Proof.Machine.execLinkPkgWrite v s
  | .bucketHeader c vc score h => Sys2Proof.Machine.execBucketHeader c vc score h s
  | .holdMaxExpiry c => Sys2Proof.Machine.execHoldMaxExpiry c s
  | .bktArm c v => Sys2Proof.Machine.execBktArm c v s
  | .bktRel c v => Sys2Proof.Machine.execBktRel c v s
  | .slotDeadline c vc slot => Sys2Proof.Machine.execSlotDeadline c vc slot s
  | .join d part step j => Sys2Proof.Machine.execJoin d part step j s
  | .leave d part step req => Sys2Proof.Machine.execLeave d part step req s
  | .pause d part step req => Sys2Proof.Machine.execPause d part step req s
  | .rebind d part step req adapter gen => Sys2Proof.Machine.execRebind d part step req adapter gen s
  | .resume d part step j => Sys2Proof.Machine.execResume d part step j s
  | .prefixDrop d part handle => Sys2Proof.Machine.execPrefixDrop d part handle s
  | .cancel d part req => Sys2Proof.Machine.execCancel d part req s
  | .cancelNotice part req => Sys2Proof.Machine.execCancelNotice part req s
  | .cancelHoldExpiry part req => Sys2Proof.Machine.execCancelHoldExpiry part req s
  | .admissionDecision part => Sys2Proof.Machine.execAdmissionDecision part s
  | .stepTail part => Sys2Proof.Machine.execStepTail part s
  | .modelLoad sess part model m => Sys2Proof.Machine.execModelLoad sess part model m s
  | .adapterLoad sess part handle gen rank addr bytes => Sys2Proof.Machine.execAdapterLoad sess part handle gen rank addr bytes s
  | .tapTile r => Sys2Proof.Machine.execTapTile r s
  | .draftRecord part req => Sys2Proof.Machine.execDraftRecord part req s
  | .tokenLine c chan => Sys2Proof.Machine.execTokenLine c chan s
  | .tapToken part req => Sys2Proof.Machine.execTapToken part req s
  | .ringWriteTimer part req => Sys2Proof.Machine.execRingWriteTimer part req s
  | .pauseCopyDone part req => Sys2Proof.Machine.execPauseCopyDone part req s
  | .pausedCacheExpiry part req => Sys2Proof.Machine.execPausedCacheExpiry part req s
  | .resumeLoadDone part req => Sys2Proof.Machine.execResumeLoadDone part req s
  | .doorbellSubmit e part addr => Sys2Proof.Machine.execDoorbellSubmit e part addr s
  | .ringConsumed e part req consumed => Sys2Proof.Machine.execRingConsumed e part req consumed s
  | .submit c => Sys2Proof.Machine.execSubmit c s
  | .prefetch c => Sys2Proof.Machine.execPrefetch c s
  | .kernelEndReport c => Sys2Proof.Machine.execKernelEndReport c s
  | .parkedNotice c => Sys2Proof.Machine.execParkedNotice c s
  | .parkOverdue c => Sys2Proof.Machine.execParkOverdue c s
  | .saveStart c => Sys2Proof.Machine.execSaveStart c s
  | .saveDone c => Sys2Proof.Machine.execSaveDone c s
  | .restoreDone c => Sys2Proof.Machine.execRestoreDone c s
  | .accountInterval bays link host other => Sys2Proof.Machine.execAccountInterval bays link host other s
  | .clientW part v => Sys2Proof.Machine.execClientW part v s
  | .tierReadDone step => Sys2Proof.Machine.execTierReadDone step s
  | .tierPartWritten pkg step store ok => Sys2Proof.Machine.execTierPartWritten pkg step store ok s
  | .tierComplete step store => Sys2Proof.Machine.execTierComplete step store s
  | .fillChunkLanded chunk => Sys2Proof.Machine.execFillChunkLanded chunk s
  | .fillTimeout => Sys2Proof.Machine.execFillTimeout s
  | .rhtFragment d => Sys2Proof.Machine.execRhtFragment d s
  | .ack d => Sys2Proof.Machine.execAck d s
  | .ackTimer sess lane => Sys2Proof.Machine.execAckTimer sess lane s
  | .rhtRtoExpiry sess lane => Sys2Proof.Machine.execRhtRtoExpiry sess lane s
  | .rhtOpen d fault telem gate => Sys2Proof.Machine.execRhtOpen d fault telem gate s
  | .rhtClose d => Sys2Proof.Machine.execRhtClose d s
  | .csrRead d addr count => Sys2Proof.Machine.execCsrRead d addr count s
  | .csrWrite d addr data => Sys2Proof.Machine.execCsrWrite d addr data s
  | .registerWrite addr v => Sys2Proof.Machine.execRegisterWrite addr v s
  | .load d addr flags data => Sys2Proof.Machine.execLoad d addr flags data s
  | .ingest d queue sampleId data => Sys2Proof.Machine.execIngest d queue sampleId data s
  | .ingestNoteRetry queue => Sys2Proof.Machine.execIngestNoteRetry queue s
  | .ingestFree c => Sys2Proof.Machine.execIngestFree c s
  | .toHost c => Sys2Proof.Machine.execToHost c s
  | .lcQuery d q => Sys2Proof.Machine.execLcQuery d q s
  | .lcOutputArrive part req core dcrc out => Sys2Proof.Machine.execLcOutputArrive part req core dcrc out s
  | .release part req => Sys2Proof.Machine.execRelease part req s
  | .latePoint part req => Sys2Proof.Machine.execLatePoint part req s
  | .gateRecord c => Sys2Proof.Machine.execGateRecord c s
  | .gateFlush => Sys2Proof.Machine.execGateFlush s
  | .faultReport => Sys2Proof.Machine.execFaultReport s
  | .telemPeriod => Sys2Proof.Machine.execTelemPeriod s
  | .roceAck target stripes err => Sys2Proof.Machine.execRoceAck target stripes err s
  | .cnp target => Sys2Proof.Machine.execCnp target s
  | .roceRateRaise target => Sys2Proof.Machine.execRoceRateRaise target s
  | .neighborSolicitation addr => Sys2Proof.Machine.execNeighborSolicitation addr s
  | .arp addr => Sys2Proof.Machine.execArp addr s
  | .icmpEcho v6 addr data => Sys2Proof.Machine.execIcmpEcho v6 addr data s
  | .pauseFrame => Sys2Proof.Machine.execPauseFrame s
  | .hpEnable => Sys2Proof.Machine.execHpEnable s
  | .hostLinkUp => Sys2Proof.Machine.execHostLinkUp s
  | .hbmRequest q => Sys2Proof.Machine.execHbmRequest q s
  | .hbmRegionValidate r v => Sys2Proof.Machine.execHbmRegionValidate r v s
  | .hbmRegionInvalidate r v => Sys2Proof.Machine.execHbmRegionInvalidate r v s
  | .hbmArbWrite bay v => Sys2Proof.Machine.execHbmArbWrite bay v s
  | .patrolScrub t => Sys2Proof.Machine.execPatrolScrub t s
  | .ckptGbWrite v => Sys2Proof.Machine.execCkptGbWrite v s
  | .flashTransferDone ckpt step part req digest uncorr => Sys2Proof.Machine.execFlashTransferDone ckpt step part req digest uncorr s
  | .stiPeriodic c => Sys2Proof.Machine.execStiPeriodic c s
  | .closingTestDone c failStn failSeq => Sys2Proof.Machine.execClosingTestDone c failStn failSeq s
  | .cfsigOverdue c => Sys2Proof.Machine.execCfsigOverdue c s
  | .clockMonitorWindow clock measuredKHz => Sys2Proof.Machine.execClockMonitorWindow clock measuredKHz s
  | .saddleHeartbeat => Sys2Proof.Machine.execSaddleHeartbeat s
  | .saddleSilent => Sys2Proof.Machine.execSaddleSilent s
  | .saddleLockstep => Sys2Proof.Machine.execSaddleLockstep s
  | .lcEngineLockstep => Sys2Proof.Machine.execLcEngineLockstep s
  | .saddleFaultReport => Sys2Proof.Machine.execSaddleFaultReport s
  | .powerUp imageSvn imageOk imageDigest failedCores failedBays => Sys2Proof.Machine.execPowerUp imageSvn imageOk imageDigest failedCores failedBays s
  | .pkgResetAssert => Sys2Proof.Machine.execPkgResetAssert s
  | .powerLoss => Sys2Proof.Machine.execPowerLoss s
  | .dipStart bay mv => Sys2Proof.Machine.execDipStart bay mv s
  | .railAboveRestore bay => Sys2Proof.Machine.execRailAboveRestore bay s
  | .railBelowRestore bay => Sys2Proof.Machine.execRailBelowRestore bay s
  | .dipRestore bay => Sys2Proof.Machine.execDipRestore bay s
  | .baySupplyReset bay mv => Sys2Proof.Machine.execBaySupplyReset bay mv s
  | .supplyWarn rail mv => Sys2Proof.Machine.execSupplyWarn rail mv s
  | .serviceRailReset rail mv => Sys2Proof.Machine.execServiceRailReset rail mv s
  | .setpointAck bay mv => Sys2Proof.Machine.execSetpointAck bay mv s
  | .pllStep bay => Sys2Proof.Machine.execPllStep bay s
  | .thermalStep bay hottest => Sys2Proof.Machine.execThermalStep bay hottest s
  | .thermalTrip site celsius => Sys2Proof.Machine.execThermalTrip site celsius s
  | .powerMeasure watts => Sys2Proof.Machine.execPowerMeasure watts s
  | .marginReplan bay slackPs offsetMv bins afterDip => Sys2Proof.Machine.execMarginReplan bay slackPs offsetMv bins afterDip s
  | .bayPwrOn bay => Sys2Proof.Machine.execBayPwrOn bay s
  | .bayPwrRetention bay => Sys2Proof.Machine.execBayPwrRetention bay s
  | .bayPwrGated bay => Sys2Proof.Machine.execBayPwrGated bay s
  | .bayOnComplete bay => Sys2Proof.Machine.execBayOnComplete bay s
  | .attest buf => Sys2Proof.Machine.execAttest buf s
  | .logRead buf => Sys2Proof.Machine.execLogRead buf s
  | .identity buf => Sys2Proof.Machine.execIdentity buf s
  | .fwInstall buf flashOk => Sys2Proof.Machine.execFwInstall buf flashOk s
  | .svnAdvance buf => Sys2Proof.Machine.execSvnAdvance buf s
  | .ownerProvision buf => Sys2Proof.Machine.execOwnerProvision buf s
  | .ownerRevoke buf => Sys2Proof.Machine.execOwnerRevoke buf s
  | .debugChallenge buf => Sys2Proof.Machine.execDebugChallenge buf s
  | .debugOpen buf => Sys2Proof.Machine.execDebugOpen buf s
  | .seal buf => Sys2Proof.Machine.execSeal buf s
  | .presenceSample high => Sys2Proof.Machine.execPresenceSample high s
  | .presenceTimeout => Sys2Proof.Machine.execPresenceTimeout s
  | .nonceExpiry => Sys2Proof.Machine.execNonceExpiry s
  | .reinitCore c => Sys2Proof.Machine.execReinitCore c s
  | .reinitTap die => Sys2Proof.Machine.execReinitTap die s
  | .reinitHopback c => Sys2Proof.Machine.execReinitHopback c s
  | .reinitHbmChannel ch => Sys2Proof.Machine.execReinitHbmChannel ch s
  | .reinitLinkPort p => Sys2Proof.Machine.execReinitLinkPort p s
  | .reinitHostPort => Sys2Proof.Machine.execReinitHostPort s
  | .reinitBay bay => Sys2Proof.Machine.execReinitBay bay s
  | .reinitDone func target ok => Sys2Proof.Machine.execReinitDone func target ok s
  | .retestDone c pass => Sys2Proof.Machine.execRetestDone c pass s
  | .warmReset retain => Sys2Proof.Machine.execWarmReset retain s
  | .faultSnap => Sys2Proof.Machine.execFaultSnap s
  | .partSet bays part => Sys2Proof.Machine.execPartSet bays part s
  | .fabShareWrite v => Sys2Proof.Machine.execFabShareWrite v s
  | .fabWeightWrite v => Sys2Proof.Machine.execFabWeightWrite v s
  | .fabPendingTimeout => Sys2Proof.Machine.execFabPendingTimeout s
  | .pfcFrame classes quanta => Sys2Proof.Machine.execPfcFrame classes quanta s
  | .otherProtocolFrame => Sys2Proof.Machine.execOtherProtocolFrame s
  | .hostPortDown => Sys2Proof.Machine.execHostPortDown s
  | .flashStackFailure f => Sys2Proof.Machine.execFlashStackFailure f s
  | .modelUnload sess part model => Sys2Proof.Machine.execModelUnload sess part model s
  | .rdmaReadResponse offset data => Sys2Proof.Machine.execRdmaReadResponse offset data s
  | .testInjectionDone c signature failStn failSeq => Sys2Proof.Machine.execTestInjectionDone c signature failStn failSeq s
  | .debugAccess op => Sys2Proof.Machine.execDebugAccess op s

end Sys2Proof.Machine
end

