-- ==== Sys2Proof/Machine/Tick.lean ====
section
/-! DEFINITION. A cycle of the control clock in which no command waits (log entry 42): the control and mash counters
advance (R474), the idle time of each Mash counts from its last FEED (R233), lanes whose pause has ended send, and the ports send the
frames that have not filled (R278). -/

namespace Sys2Proof.Machine

/-- Mash cycles of one control cycle of 1 ns, with the fraction carried: the clock is `freq` units of 12.5 MHz. -/
def Bay.tick (x : Bay) : Bay :=
  if x.state = .on then
    { x with
      mash := (x.mash + (x.mashFrac + x.freq) / 80) % 2 ^ 64
      mashFrac := (x.mashFrac + x.freq) % 80 }
  else x
/-- While Mash has a FEED or a full shadow its idle time stands at the mash count (R233). -/
def Core.tick (k : Core) (mash : Nat) : Core := if k.mashIdle then k else k.modDwq (fun q => { q with idleSince := mash })
/-- One control cycle. -/
def State.tick (s : State) : State :=
  let s1 := { s with
    now := (s.now + 1) % 2 ^ 64
    bays := (List.range 12).foldl (fun m b => m.set b (s.bay b).tick) s.bays }
  let s2 := ({ s1 with cores := s1.cores.map (fun (e : Nat × Core) => (e.1, e.2.tick (s1.mashOf e.1))) }).drainAll
  (List.range 16).foldl (fun s p => s.frameTick p) s2

end Sys2Proof.Machine
end

