-- ==== Sys2Proof/Safety.lean ====
section
/-! DEFINITION. The terms in which claims are stated: the invariant that a safe state keeps, when a sequencer runs its next
instruction, and the frames that say what a command leaves alone. -/

namespace Sys2Proof.Machine

/-- Every byte memory of the machine has its canonical form: the HBM and the scratchpad of every core. -/
def State.Canon (s : State) : Prop := Memory.wf s.hbm.mem = true ∧ ∀ e ∈ s.cores, Memory.wf e.2.sp.mem = true

/-- The sequencer of core `c` runs the next instruction: a kernel runs on it, it is neither faulted, parking, parked, halted
without a debug step nor stalled, and PC is a multiple of 8 inside the program region (R64, R79, R95, R496). -/
def State.Ready (s : State) (c : CoreId) : Prop := (s.core c.val).canIssue = true ∧ (s.core c.val).pcOk = true

/-- Outside core `c` nothing differs. -/
def OnlyCore (s t : State) (c : Nat) : Prop := { t with cores := s.cores } = s ∧ ∀ d, d ≠ c → t.core d = s.core d
/-- Outside bay `b` nothing differs. -/
def OnlyBay (s t : State) (b : Nat) : Prop := { t with bays := s.bays } = s ∧ ∀ d, d ≠ b → t.bay d = s.bay d
/-- In core `c` and outside it, nothing but the sequencer of core `c` differs. -/
def OnlySeq (s t : State) (c : Nat) : Prop := OnlyCore s t c ∧ { t.core c with seq := (s.core c).seq } = s.core c
/-- The instruction changed s registers only: PC is the next word, a debug step is used up, every other part of the sequencer is
as before (R75, R496). -/
def WroteS (s t : State) (c : Nat) : Prop :=
  OnlySeq s t c ∧
  { (t.core c).seq with s := (s.core c).seq.s, pc := (s.core c).seq.pc, stepOne := (s.core c).seq.stepOne } = (s.core c).seq ∧
  (t.core c).seq.pc = (s.core c).seq.pc + 8
/-- The same for a registers. -/
def WroteA (s t : State) (c : Nat) : Prop :=
  OnlySeq s t c ∧
  { (t.core c).seq with a := (s.core c).seq.a, pc := (s.core c).seq.pc, stepOne := (s.core c).seq.stepOne } = (s.core c).seq ∧
  (t.core c).seq.pc = (s.core c).seq.pc + 8
/-- The same for token counters. -/
def WroteT (s t : State) (c : Nat) : Prop :=
  OnlySeq s t c ∧
  { (t.core c).seq with t := (s.core c).seq.t, pc := (s.core c).seq.pc, stepOne := (s.core c).seq.stepOne } = (s.core c).seq ∧
  (t.core c).seq.pc = (s.core c).seq.pc + 8
/-- s register `rd` of core `c` holds `v`, unless it is s0, which keeps nothing; every other s register is as before (R75). -/
def SetsS (s t : State) (c : Nat) (rd : BitVec 5) (v : Word) : Prop :=
  ∀ r : Nat, (t.core c).s r = if r = rd.toNat ∧ r ≠ 0 then v else (s.core c).s r
/-- The same for an a register. -/
def SetsA (s t : State) (c : Nat) (rd : BitVec 5) (v : Word) : Prop :=
  ∀ r : Nat, (t.core c).a r = if r = rd.toNat ∧ r ≠ 0 then v else (s.core c).a r
/-- The sequencer of core `c` has reported the fault at once: one report, with the code, the core and PC, is raised to N1 and to
Saddle, unless a re-initialisation in progress covers its place (R95, R506, R510). -/
def SeqReported (s t : State) (c code : Nat) : Prop :=
  ∃ r : Report, r.code = code ∧ r.core = c ∧ r.pc = (s.core c).seq.pc.toNat ∧
    if s.reinitCovers r then t.reports = s.reports ∧ t.saddleReports = s.saddleReports
    else t.reports = s.reports ++ [r] ∧ t.saddleReports = s.saddleReports ++ [r]
/-- The sequencer of core `c` has stopped with a fault: the code is kept and reported, a stall and a debug step are over, PC and
every other part of the sequencer are as before, and nothing outside the sequencer and the two report queues differs (R95, R510). -/
def SeqFaulted (s t : State) (c code : Nat) : Prop :=
  (t.core c).seq.faulted = some code ∧ (t.core c).seq.stall = none ∧
  { (t.core c).seq with
    faulted := (s.core c).seq.faulted
    stall := (s.core c).seq.stall
    stepOne := (s.core c).seq.stepOne } = (s.core c).seq ∧
  OnlySeq s { t with reports := s.reports, saddleReports := s.saddleReports } c ∧ SeqReported s t c code

/-- Token counter `tc` of core `c` holds `v`; every other token counter is as before (R58). -/
def SetsT (s t : State) (c : Nat) (tc : BitVec 3) (v : BitVec 32) : Prop :=
  ∀ r : Nat, (t.core c).tok r = if r = tc.toNat then v else (s.core c).tok r
/-- The sequencer goes to the next word; of the rest of the machine only a debug step is used up (R78, R496). -/
def Advanced (s t : State) (c : Nat) : Prop :=
  OnlySeq s t c ∧
  { (t.core c).seq with pc := (s.core c).seq.pc, stepOne := (s.core c).seq.stepOne } = (s.core c).seq ∧
  (t.core c).seq.pc = (s.core c).seq.pc + 8
/-- The sequencer stalls with `w` at the same PC, and of the rest of the machine only a debug step is used up (R87). -/
def Stalls (s t : State) (c : Nat) (w : Stall) : Prop :=
  OnlySeq s t c ∧
  { (t.core c).seq with stall := (s.core c).seq.stall, stepOne := (s.core c).seq.stepOne } = (s.core c).seq ∧
  (t.core c).seq.stall = some w
/-- A register of a core block that a program reads and writes: its offset, the register, and the bits it holds (Table 21.2). -/
def csrTable : List (Nat × CoreReg × Nat) :=
  [(0x0700, .srSeed, 64), (0x0800, .kSeed, 64), (0x0808, .kStep, 32), (0x0680, .org 0, 64), (0x06F8, .org 15, 64),
   (0x0A48, .softStep, 32), (0x0C00, .dwqCtl, 32), (0x0C10, .dwqForce, 32), (0x0D00, .phaseCtl, 16), (0x0D08, .segCtl, 13),
   (0x0B40, .caskMbase 0, 41), (0x0BE8, .caskRlen 3, 41), (0x1018, .bktCfg, 34)]

/-- The core registers all of whose fields are RO: a write is ignored (R11, Table 21.2). -/
def CoreReg.readOnly : CoreReg → Bool
  | .id | .cnt | .histBin _ | .mashStat | .kStat | .lrStat _ | .hopChanStat _ | .hopStat | .caskStat | .caskEst _ => true
  | .dwqStat | .dwqCnt | .dwqMcyc | .phaseCyc _ | .ctx | .bktArmSt | .bktStat1 | .bktStat2 | .sram | .safe => true
  | _ => false

/-- The 64-bit two's complement arithmetic of Table 3.4: each instruction with what it makes of s[RA] and op2 (R81). -/
def aluTable : List ((CoreId → BitVec 5 → BitVec 5 → Op2 → Instr) × (Word → Word → Word)) :=
  [(.add, fun x y => x + y), (.sub, fun x y => x - y), (.mul, fun x y => x * y), (.and, fun x y => x &&& y),
   (.or, fun x y => x ||| y), (.xor, fun x y => x ^^^ y), (.shl, fun x y => x <<< (y.toNat % 64)),
   (.shr, fun x y => x >>> (y.toNat % 64)), (.sra, fun x y => x.sshiftRight (y.toNat % 64)),
   (.min, fun x y => if x.toInt < y.toInt then x else y), (.max, fun x y => if x.toInt < y.toInt then y else x),
   (.minu, fun x y => if x.toNat < y.toNat then x else y), (.maxu, fun x y => if x.toNat < y.toNat then y else x),
   (.slt, fun x y => if x.toInt < y.toInt then 1 else 0), (.sltu, fun x y => if x.toNat < y.toNat then 1 else 0)]

/-! ## Streams -/

/-- No word of the scratchpad of core `c` is marked uncorrectable (Table 16.1). -/
def State.SpSound (s : State) (c : Nat) : Prop := ∀ e ∈ (s.core c).sp.err, e.2 ≠ 2
/-- `rows` rows of `bytes` bytes in scratchpad, at a base line and a row stride, lie in lines that exist, that the running kernel
may use and that no enabled soft-target channel outside `own` guards (R42, R201, R368). -/
def State.RowsOk (s : State) (c : Nat) (own : List Nat) (base str bytes rows : Nat) : Prop :=
  ∀ i, i < rows → s.runFault c own (rowAddr 0 base str i) bytes = none
/-- A byte of one of the lines that such rows occupy. -/
def InRows (base str bytes rows a : Nat) : Prop := ∃ i, i < rows ∧ a / 256 ∈ linesOf (rowAddr 0 base str i) bytes
/-- Core `j` differs from core `k` in what the stations keep only: the slots, the scratchpad, the state of Mash, Kettle, Hopback, Welt
and Cask, the direct paths, the exception flags and the counts of gather indices, of scratchpad errors, and of
deferred mash cycles and refills. -/
def StationsOnly (k j : Core) : Prop :=
  { j with
    slots := k.slots
    sp := k.sp
    mash := k.mash
    vec := k.vec
    hop := k.hop
    welt := k.welt
    cask := k.cask
    direct := k.direct
    fpflags := k.fpflags
    gatherRange := k.gatherRange
    spCe := k.spCe
    spUe := k.spUe
    dwq := { j.dwq with mcyc := k.dwq.mcyc, refill := k.dwq.refill } } = k
/-- The stream in slot `n` of core `c` has moved all its tiles: the slot is ACTIVE and its movement done. No other core, no other
slot, nothing of the core that no station keeps (no sequencer register among it) and nothing outside the cores differs (the model's
count of free values drawn apart), and every scratchpad byte outside `P` reads as before. -/
def Streamed (s t : State) (c n : Nat) (P : Nat → Prop) : Prop :=
  { t with cores := s.cores, free := s.free } = s ∧ (∀ d, d ≠ c → t.core d = s.core d) ∧ StationsOnly (s.core c) (t.core c) ∧
  (∀ m, m ≠ n → (t.core c).slot m = (s.core c).slot m) ∧ ((t.core c).slot n).desc = ((s.core c).slot n).desc ∧
  ((t.core c).slot n).state = .active ∧ ((t.core c).slot n).done = true ∧
  ∀ a, ¬ P a → memByte (t.core c).sp.mem a = memByte (s.core c).sp.mem a

/-- The stream in slot `n` of core `c` has been reported: one report with the code, the core and the slot is raised to N1 and to
Saddle, unless a re-initialisation in progress covers its place (R74, R506, R510). -/
def StreamReported (s t : State) (c n code : Nat) : Prop :=
  ∃ r : Report, r.code = code ∧ r.core = c ∧ r.slot = n ∧
    if s.reinitCovers r then t.reports = s.reports ∧ t.saddleReports = s.saddleReports
    else t.reports = s.reports ++ [r] ∧ t.saddleReports = s.saddleReports ++ [r]
/-- The stream in slot `n` of core `c` has stopped with a fault before it moved anything: the slot is FAULTED and reported, and
nothing outside the slot and the two report queues differs (R74). -/
def StreamStopped (s t : State) (c n code : Nat) : Prop :=
  ((t.core c).slot n).state = .faulted ∧ StreamReported s t c n code ∧ (∀ m, m ≠ n → (t.core c).slot m = (s.core c).slot m) ∧
  { t.core c with slots := (s.core c).slots } = s.core c ∧
  OnlyCore s { t with reports := s.reports, saddleReports := s.saddleReports } c

/-- A run of HBM bytes that a stream of core `c` can read, or write: every sector mapped by the region table and allowed to the
core's partition, no sector read that holds an uncorrectable error, no stack stopped (R433, R436, R441, R473). -/
def State.HbmOk (s : State) (c : Nat) (write : Bool) (a n : Nat) : Prop :=
  s.hbm.checkRun (s.partOf c) write a n = .ok ∧ s.hbm.badIn a n = none ∧ s.hbm.stoppedIn a n = none
/-- A run of bytes in scratchpad (space 0) or HBM (space 1) that a stream of core `c` can read, or write. -/
def State.RunOk (s : State) (c space : Nat) (write : Bool) (a n : Nat) : Prop :=
  if space = 0 then s.runFault c [] a n = none else s.HbmOk c write a n
/-- The element rows of a stream operand, and for an MX format its scale rows, can be read, or written (R42, R47, R97, R433). -/
def State.OperandOk (s : State) (c space : Nat) (write : Bool) (base str fmt cols rows aux scStr : Nat) : Prop :=
  ∀ i, i < rows → s.RunOk c space write (rowAddr space base str i) (rowBytes fmt cols) ∧
    (isMx fmt = true → s.RunOk c space write (scaleAddr space aux scStr i) (cdiv cols 32))
/-- What a stream with HBM operands may change in the HBM and in the accounts: bytes whose place is that of a package address in
`q`, error marks that it clears and their count, the codes of the sectors it writes, and the counts of moved bytes (R40, R381, R439,
R441, R523). -/
def HbmMoved (q : Nat → Prop) (s t : State) : Prop :=
  { t.hbm with mem := s.hbm.mem, bad := s.hbm.bad, ce := s.hbm.ce, home := s.hbm.home, moved := s.hbm.moved } = s.hbm ∧
  ((∀ k, t.hbm.bad.get 0 k = 2 → s.hbm.bad.get 0 k = 2) ∧ ∀ k ∈ t.hbm.moved, k ∈ s.hbm.moved) ∧
  (∀ a, (∀ b, q b → s.hbm.key b ≠ some a) → memByte t.hbm.mem a = memByte s.hbm.mem a) ∧
  { t.glob with acctHbm := s.glob.acctHbm, acct := s.glob.acct } = s.glob ∧ { t.fab with bytes := s.fab.bytes } = s.fab
/-- As `Streamed`, for a stream that also reads HBM and writes there the bytes in `q`. -/
def StreamedH (s t : State) (c n : Nat) (P q : Nat → Prop) : Prop :=
  Streamed s { t with hbm := s.hbm, glob := s.glob, fab := s.fab } c n P ∧ HbmMoved q s t

/-- A scratchpad byte of a line that an operand's element rows, or for an MX format its scale rows, occupy. -/
def InOperand (base str fmt cols rows aux scStr a : Nat) : Prop :=
  InRows base str (rowBytes fmt cols) rows a ∨
  (isMx fmt = true ∧ ∃ i, i < rows ∧ a / 256 ∈ linesOf (scaleAddr 0 aux scStr i) (cdiv cols 32))
/-- A package address of an operand's element rows, or for an MX format of its scale rows, in HBM. -/
def InHbm (base str fmt cols rows aux scStr b : Nat) : Prop :=
  ∃ i, i < rows ∧ ((rowAddr 1 base str i ≤ b ∧ b < rowAddr 1 base str i + rowBytes fmt cols) ∨
    (isMx fmt = true ∧ scaleAddr 1 aux scStr i ≤ b ∧ b < scaleAddr 1 aux scStr i + cdiv cols 32))
/-- A station can take the stream of kind `kind` in slot `n` of core `c` now, and no word of the scratchpad is uncorrectable. -/
def State.Taken (s : State) (c n kind : Nat) : Prop :=
  kindOf ((s.core c).slot n).desc = kind ∧ (s.core c).acceptable n = true ∧ s.SpSound c

/-- On the direct path into a station a stream can take `elems` elements of format `fmt` behind what waits there, and does not
refuse their format (R50, R99, R546). -/
def State.PathTakes (s : State) (c stn fmt elems : Nat) : Prop :=
  ∃ m, (s.core c).consumer stn = some m ∧ ((s.core c).path stn).elems.length + elems ≤ s.takes c m ∧
    (checksFeeder ((s.core c).slot m).desc = true →
      fmt = dSfmt ((s.core c).slot m).desc ∧ (s.core c).pathMismatch stn ((s.core c).slot m).desc = false)

/-! ## Kettle -/

/-- An element-wise operation of Table 6.3: its command, its KOP, which of A, O1 and O2 it reads, and what it makes of one
element. -/
structure ElemOp where
  cmd : StreamRef → Instr
  kop : Nat
  ra : Bool
  o1 : Bool
  o2 : Bool
  f : KElem → KOut

/-- The element-wise operations of Table 6.3. An exact value is rounded once into DFMT (R176), an FP32 result of the
transcendental unit once more (R178); a comparison gives 1 or 0. -/
def elemTable : List ElemOp :=
  [⟨.kettleAdd, 0x0001, true, true, false, fun e => e.put (e.a.add e.bv)⟩,
   ⟨.kettleSub, 0x0002, true, true, false, fun e => e.put (e.a.sub e.bv)⟩,
   ⟨.kettleMul, 0x0003, true, true, false, fun e => e.put (e.a.mul e.bv)⟩,
   ⟨.fma, 0x0004, true, true, true, fun e => e.put ((e.a.mul e.bv).add e.cv)⟩,
   ⟨.axpby, 0x0005, true, true, false, fun e => e.put (((e.b.pv 0).mul e.a).add ((e.b.pv 1).mul e.bv))⟩,
   ⟨.kettleMin, 0x0006, true, true, false, fun e => e.put (xmin e.a e.bv)⟩,
   ⟨.kettleMax, 0x0007, true, true, false, fun e => e.put (xmax e.a e.bv)⟩,
   ⟨.abs, 0x0008, true, false, false, fun e => e.put e.a.abs⟩,
   ⟨.neg, 0x0009, true, false, false, fun e => e.put e.a.neg⟩,
   ⟨.cvt, 0x000A, true, false, false, fun e =>
      let q := convert (dSfmt e.d) (dDfmt e.d) (dSat e.d) (dSatw e.d) e.a
      { code := q.1, flags := q.2 }⟩,
   ⟨.poly, 0x000B, true, false, false, fun e => e.put2 (horner e.b e.a e.b.deg (e.b.pv e.b.deg) {})⟩,
   ⟨.cmplt, 0x0010, true, true, false, fun e => { code := if e.a.lt e.bv then 1 else 0 }⟩,
   ⟨.cmple, 0x0011, true, true, false, fun e => { code := if e.a.le e.bv then 1 else 0 }⟩,
   ⟨.cmpeq, 0x0012, true, true, false, fun e => { code := if e.a.eqv e.bv then 1 else 0 }⟩,
   ⟨.sel, 0x0013, true, true, true, fun e => e.put (if e.bv.isZero then e.cv else e.a)⟩,
   ⟨.exp, 0x0020, true, false, false, fun e => e.trans (fun c => transExp c (Config.expUp (BitVec.ofNat 32 c)))⟩,
   ⟨.log, 0x0021, true, false, false, fun e => e.trans (fun c => transLog c (Config.logUp (BitVec.ofNat 32 c)))⟩,
   ⟨.rcp, 0x0022, true, false, false, fun e => e.trans (fun c => transRcp c (Config.rcpUp (BitVec.ofNat 32 c)))⟩,
   ⟨.rsqrt, 0x0023, true, false, false, fun e => e.trans (fun c => transRsqrt c (Config.rsqrtUp (BitVec.ofNat 32 c)))⟩,
   ⟨.iadd, 0x0030, true, true, false, fun e =>
      let q := narrowIntInt 32 (dSatw e.d) (e.a.toI + e.bv.toI)
      { code := q.1, flags := q.2 }⟩,
   ⟨.imax, 0x0031, true, true, false, fun e => { code := ofSigned 32 (max e.a.toI e.bv.toI) }⟩,
   ⟨.scalei, 0x0033, true, false, false, fun e => e.put (e.a.mul (e.b.pv 0))⟩,
   ⟨.randb, 0x0050, false, false, false, fun e => { code := e.word }⟩,
   ⟨.randu, 0x0051, false, false, false, fun e => e.put (.fin false (e.word / 256) (-24))⟩,
   ⟨.dropout, 0x0052, true, false, false, fun e =>
      if (match e.b.pv 0 with | .fin _ m x => rneAt m (x + 24) 0 | _ => 0) ≤ e.word / 256
      then e.put (e.a.mul (e.b.pv 1)) else { code := 0 }⟩]

/-- The operand block that a VECTOR in slot `x` names, when its KOP uses one (Table 6.2, R173). -/
def Core.kblock (k : Core) (kop : Nat) (x : Slot) : KBlock :=
  if kUsesBlock kop then blockOf (k.spRead (256 * x.auxBase) 256) else {}
/-- Its entry O(j + 1). -/
def KBlock.entry (b : KBlock) (j : Nat) : OEntry := b.o.getD j ⟨0, 0, 0, false, false, true⟩
/-- Kettle takes the VECTOR in slot `n` of core `c` now, with nothing to stop it before its first row: the KOP, an acceptable slot,
a scratchpad without an uncorrectable word, input A in accessible rows of `bytes` bytes or whole on the direct path, and an
operand block without defect where the KOP uses one (R99, R173, R174, R546). -/
def State.KettleReady (s : State) (c n kop bytes : Nat) : Prop :=
  let k := s.core c
  let x := k.slot n
  let d := x.desc
  kindOf d = 5 ∧ vKop d = kop ∧ k.acceptable n = true ∧ s.SpSound c ∧
  ((dSspace d ≠ 3 ∧ s.RowsOk c [] x.srcBase (dSstr d) bytes (dTiles d * dRows d)) ∨
    (dSspace d = 3 ∧ dElems d ≤ (k.path 4).elems.length ∧ (k.path 4).fmt = dSfmt d)) ∧
  (kUsesBlock kop = true → s.runFault c [] (256 * x.auxBase) 256 = none ∧ blockBad kop (k.kblock kop x) = false)
/-- The rows of entry O(j + 1), of `cols` columns, are accessible. -/
def State.ORowsOk (s : State) (c : Nat) (e : OEntry) (cols rows : Nat) : Prop :=
  s.RowsOk c [] e.line e.str (rowBytes e.fmt cols) rows

/-! ## Hopback -/

/-- The parameter block of the LOSS stream in slot `n` (R205). -/
def State.lossBlock (s : State) (c n : Nat) : HBlock := hBlockOf ((s.core c).spRead (256 * ((s.core c).slot n).auxBase) 256)
/-- Hopback can accept a LOSS stream of this pass, with its input whole on the direct path when it takes it there, a readable
parameter block and no fault as it begins (R193, R205, R208). -/
def State.LossReady (s : State) (c n pass : Nat) : Prop :=
  let x := (s.core c).slot n
  s.Taken c n 6 ∧ hPass x.desc = pass ∧ x.moved = 0 ∧
  (dSspace x.desc ≠ 3 ∨ (s.core c).pathHas 5 (dElems x.desc) = true) ∧
  s.runFault c [] (256 * x.auxBase) 256 = none ∧ (s.core c).hopFault x.desc (s.lossBlock c n) = none
/-- The teacher input of every row is there: the ring tiles from sequence number `first` on have arrived in the stream's shape and
step, the teacher tile's rows are accessible, or the record sets are accessible, well formed and none of the bytes in `P`
(R199, R207, R220, R223). -/
def State.TeacherOk (s : State) (c n first : Nat) (P : Nat → Prop) : Prop :=
  let d := ((s.core c).slot n).desc
  let b := s.lossBlock c n
  let h := (s.core c).hopChan (hChan d)
  let e := b.e 0
  ∀ i, i < dTiles d →
    (hNames d = true → first + i < h.received ∧ h.tileFault (first + i) d b.step = none) ∧
    ∀ r, r < dRows d → hKind d ≠ 7 →
      match hTsrc d with
      | 0 => s.runFault c [hChan d] (256 * (h.tileLine (first + i) + r * cdiv (dCols d) 64)) (rowBytes 0 (dCols d)) = none
      | 1 => s.runFault c [] (rowAddr 0 e.line e.str (i * dRows d + r)) (rowBytes e.fmt (dCols d)) = none
      | _ =>
        let a := rowAddr 0 e.line e.str r
        let len := 256 * cdiv (128 + 36 * bitsAt (bytesNat ((s.core c).spRead a 16)) 72 10) 2048
        s.runFault c [] a 16 = none ∧ s.runFault c [] a len = none ∧
          recordOk (bytesNat ((s.core c).spRead a len)) r b.classBase (hClasses d) = true ∧ ∀ j, j < len → ¬ P (a + j)
/-- The normaliser image in a scratchpad line (Table 6.5). -/
def State.lossImage (s : State) (c line rows pos r : Nat) : LongReg :=
  (lrParse ((s.core c).spRead (hImgAddr line rows pos r) 64)).getD { v := 0, e := -160, st := 3, trunc := false, count := 0 }
/-- The `kinds` image tiles at `line` are accessible (R206). -/
def State.ImagesOk (s : State) (c line rows kinds : Nat) : Prop :=
  ∀ pos r, pos < kinds → r < rows → s.runFault c [] (hImgAddr line rows pos r) 64 = none
/-- A scratchpad byte in one of the `kinds` image tiles at `line`. -/
def InImages (line rows kinds a : Nat) : Prop := line ≤ a / 256 ∧ a / 256 < line + kinds * rows
/-- An EMIT has kept its references, and the combined images of every row have the window of those it used (R213, R214). -/
def State.NormOk (s : State) (c n : Nat) : Prop :=
  let d := ((s.core c).slot n).desc
  let b := s.lossBlock c n
  let im := fun (pos r : Nat) => s.lossImage c (b.e 3).line (dRows d) pos r
  (s.core c).hop.refs ≠ [] ∧ ∀ r, r < dRows d → (s.core c).refOk 0 r (im 0 r) = true ∧ ((hImages d).contains 1 = true → (s.core c).refOk 1 r (im 1 r) = true)

/-- Two states of a core differ at most in the times from which the engine time of its streams is still to be charged (R381). -/
def SameCore (k j : Core) : Prop :=
  { j with slots := k.slots } = k ∧ ∀ n, { j.slot n with
    acceptedAt := (k.slot n).acceptedAt
    endedAt := (k.slot n).endedAt } = k.slot n

/-! ## The host port -/

/-- Outside the host port, the accounts and the output nothing differs. -/
def OnlyHost (s t : State) : Prop := { t with host := s.host, glob := s.glob, out := s.out } = s
/-- Lane `l` of session `i`. -/
def State.laneOf (s : State) (i l : Nat) : Lane := (s.sess i).lane l
/-- A message posted on lane `l` of session `i` leaves at once: the session is open, nothing waits on the lane, its window has room
and it may send (R402, R407, R460). -/
def State.laneFree (s : State) (i l : Nat) : Prop :=
  (s.sess i).isOpen = true ∧ (s.laneOf i l).waiting = [] ∧ (s.laneOf i l).flight.length < 256 ∧ s.laneHeld l = false
/-- No response of a query waits for lane 1 to take it, or the datagram is of another lane (R458). -/
def State.Calm (s : State) (d : Datagram) : Prop := d.lane = 1 → ∀ q, q ∈ s.host.queries → s.verdict q = none
/-- A datagram acknowledges nothing that is in flight on its lane, asks for nothing again, and lets no response leave (R407, R458). -/
def State.NoAck (s : State) (d : Datagram) : Prop :=
  let x := s.laneOf d.session d.lane
  let n := (d.ack + 1 - (x.txNext - BitVec.ofNat 32 x.flight.length)).toNat
  d.nak = false ∧ (n = 0 ∨ x.flight.length < n) ∧ s.Calm d
/-- A datagram comes from its session's peer with a right header, is the next of its lane, can be buffered and acknowledges nothing
new: it is accepted, and nothing leaves for it but an acknowledgement (R405 to R407, R410). -/
def State.InOrder (s : State) (d : Datagram) : Prop :=
  s.datagramOk d = true ∧ s.NoAck d ∧ d.buffered = true ∧ d.seq = (s.laneOf d.session d.lane).rxSeq
/-- Such a datagram is the last fragment of a whole message of TYPE `type` with a well-formed body of `bytes`, on its lane (R406,
Table 15.4). -/
def State.Message (s : State) (d : Datagram) (lane type bytes : Nat) : Prop :=
  s.InOrder d ∧ d.nfrag ≤ d.frag + 1 ∧ d.bodyOk = true ∧ s.wholeMsg d lane type bytes = true
/-- The state in which such a message takes effect: its lane has taken it, and its bytes are accounted (R381, R406). -/
def State.taken (s : State) (d : Datagram) : State := (s.laneTake d.session d.lane none).acctHost d.plen
/-- The command is discarded as one for a session that is not open: it is counted and nothing else differs (R410). -/
def Discarded (s t : State) : Prop := t = { s with host := { s.host with rxBad := min 65535 (s.host.rxBad + 1) } }

end Sys2Proof.Machine

namespace Sys2Proof

/-- The core of a command that is an instruction of Table 3.4; none for every other command. -/
def Instr.seqCore : Instr → Option CoreId
  | .add c _ _ _ => some c
  | .sub c _ _ _ => some c
  | .mul c _ _ _ => some c
  | .and c _ _ _ => some c
  | .or c _ _ _ => some c
  | .xor c _ _ _ => some c
  | .shl c _ _ _ => some c
  | .shr c _ _ _ => some c
  | .sra c _ _ _ => some c
  | .min c _ _ _ => some c
  | .max c _ _ _ => some c
  | .minu c _ _ _ => some c
  | .maxu c _ _ _ => some c
  | .slt c _ _ _ => some c
  | .sltu c _ _ _ => some c
  | .aadd c _ _ _ => some c
  | .mova c _ _ => some c
  | .movs c _ _ => some c
  | .lim c _ _ _ => some c
  | .lih c _ _ _ => some c
  | .br c _ _ _ _ => some c
  | .jal c _ _ => some c
  | .jr c _ => some c
  | .lds c _ _ _ => some c
  | .sts c _ _ _ => some c
  | .ldd c _ _ _ => some c
  | .std c _ _ _ => some c
  | .mboxr c _ => some c
  | .waitt c _ _ => some c
  | .sett c _ _ => some c
  | .addt c _ _ => some c
  | .rdt c _ _ => some c
  | .fence c _ => some c
  | .slotq c _ _ => some c
  | .yield c => some c
  | .rdcyc c _ => some c
  | .stream c _ _ _ _ _ => some c
  | .nop c => some c
  | .raise c _ => some c
  | .kend c => some c
  | .csrr c _ _ => some c
  | .csrw c _ _ => some c
  | .msg c _ _ => some c
  | .sigchk c _ => some c
  | _ => none

end Sys2Proof
end

