-- ==== Sys2Proof/Certificates/Slice0/Obligations.lean ====
section
/-! DEFINITION. The obligations: what is claimed of the model, each with the rules it formalises. -/

open Sys2Proof Sys2Proof.Machine

/-- For every command c, every rest of the queue and every state s, one step of s with c at the front of its queue is exec
of c on s with the rest of the queue. Every command, with any operands, in every state, completes: exec answers a next
state, never a fault or a refusal. The queue itself is the model's own field. (98_reader.md,
95_what_each_step_holds.md) -/
def Obligations.StepRunsFrontCommand : Prop :=
  (∀ (c : Instr) (rest : List Instr) (s : State), step { s with pending := c :: rest } = exec c { s with pending := rest }) ∧
  ∀ (c : Instr) (s : State), ∃ t, exec c s = .next t

/-- With an empty queue a step answers a next state in which CTL_COUNT has advanced by one modulo 2^64, the mash counter
of every bay that is not ON stands still, and the HBM, every scratchpad and every sequencer are as before. That a step
on an empty queue is a tick is the model's choice (log entry 42). (18_power_clocks_and_ageing.md, R474) -/
def Obligations.EmptyQueueAdvancesControlClock : Prop :=
  ∀ s : State, s.pending = [] → ∃ t, step s = .next t ∧ t.now = (s.now + 1) % 2 ^ 64 ∧ t.hbm.mem = s.hbm.mem ∧ t.pending = [] ∧
    (∀ b, b < 12 → (s.bay b).state ≠ .on → (t.bay b).mash = (s.bay b).mash) ∧
    ∀ c, (t.core c).sp = (s.core c).sp ∧ (t.core c).seq = (s.core c).seq

/-- In the state after reset all twelve bays are in partition 0 (R37), every byte memory has its canonical form with
nothing listed, no core runs a kernel, every s, a and t register of every core reads zero, and no command, report or
flit waits. What the spec gives no reset value reads as log entry 1 says; that the memories list nothing is the
model's choice (log entry 5). (R37, 01_package_bays_and_fabric.md, 20_bringup_reset_and_recovery.md) -/
def Obligations.ResetLeavesPartitionsAndMemories : Prop :=
  State.reset.Canon ∧ State.reset.hbm.mem = [] ∧ State.reset.pending = [] ∧ State.reset.reports = [] ∧ State.reset.flits = [] ∧
  (∀ b, b < 12 → State.reset.partOfBay b = 0) ∧
  (∀ c, c < 360 → State.reset.partOf c = 0 ∧ (State.reset.core c).seq.kernel = none ∧ (State.reset.core c).sp.mem = [] ∧
    (∀ r, (State.reset.core c).s r = 0 ∧ (State.reset.core c).a r = 0 ∧ (State.reset.core c).tok r = 0))

/-- For every state in which the HBM and the scratchpad of every core are in canonical form (addresses strictly rising, no
zero byte listed), whatever command a step runs, and also when it runs none, the next state has that form. The form is
the model's own; it makes equal memories equal data, so a claim about memory contents is one about the machine.
(02_tile_streams_and_stations.md, 16_hbm_and_flash.md) -/
def Obligations.StepKeepsMemoriesCanonical : Prop :=
  ∀ s t : State, s.Canon → step s = .next t → t.Canon

/-- For every well-formed command i that has an instruction word (the 44 sequencer instructions of Table 3.4), with every
operand at every value its format admits, decoding the word that the encoder gives answers i, for the core that i
names. No bit of a format is dropped or read twice. (03_aelium_instruction_set.md, R82, R83, R84) -/
def Obligations.DecodeOfEncodeIsTheInstruction : Prop :=
  ∀ (i : Instr) (w : BitVec 64), i.wf = true → encodeWord i = some w → ∀ c, i.seqCore = some c → decodeWord c w = some i

/-- For every core no word decodes whose opcode is not in Table 3.4, the all-zero word does not decode, and no word
decodes to an instruction that is not well formed, so an a-register field from 16 to 31 is never taken modulo 16
(R82). (R82, R84, 03_aelium_instruction_set.md) -/
def Obligations.IllegalWordsAreRefused : Prop :=
  (∀ c, decodeWord c 0 = none) ∧
  (∀ (c : CoreId) (w : BitVec 64), 0x40 ≤ (w.extractLsb' 56 8).toNat → decodeWord c w = none) ∧
  (∀ (c : CoreId) (w : BitVec 64) (i : Instr), decodeWord c w = some i → i.wf = true ∧ i.seqCore = some c)

/-- On a core whose sequencer is ready, each of ADD, SUB, MUL, AND, OR, XOR, SHL, SHR, SRA, MIN, MAX, MINU, MAXU, SLT and
SLTU answers a next state in which s[RD] holds the 64-bit two's complement result of s[RA] and op2 (unless RD is 0,
which keeps nothing), PC is the next word, and every other register, memory byte, stream, report and core is as
before. On the conditions on state and operands that each clause names, and on nothing else, exec answers a next
state, the one the clause describes, for: ADD, SUB, MUL, AND, OR, XOR, SHL, SHR, SRA, MIN, MAX, MINU, MAXU, SLT, SLTU.
(R75, R81, R84, 03_aelium_instruction_set.md) -/
def Obligations.ScalarArithmeticResult : Prop :=
  ∀ e ∈ aluTable, ∀ (s : State) (c : CoreId) (rd ra : BitVec 5) (y : Op2), s.Ready c →
    ∃ t, exec (e.1 c rd ra y) s = .next t ∧
      SetsS s t c.val rd (e.2 ((s.core c.val).s ra.toNat) ((s.core c.val).op2 y)) ∧ WroteS s t c.val

/-- On a ready core: AADD writes a[RA] + op2 to a[RD]; MOVA writes s[RA] to a[RD]; MOVS writes a[RA] to s[RD]; LIM writes
IMM48 sign-extended from bit 47, and LIH replaces bits [63:48] and keeps bits [47:0], each in s[RD] or, with RDA = 1,
in a[RD]. Where a field names an a register it holds 0 to 15. Register 0 keeps nothing. PC is the next word and
nothing else differs. On the conditions on state and operands that each clause names, and on nothing else, exec
answers a next state, the one the clause describes, for: AADD, MOVA, MOVS, LIM, LIH. (R75, R82, R84,
03_aelium_instruction_set.md) -/
def Obligations.AddressRegisterAndImmediateResult : Prop :=
  ∀ (s : State) (c : CoreId) (rd ra : BitVec 5), s.Ready c →
    (∀ y, aRegOk rd = true → aRegOk ra = true → ∃ t, exec (.aadd c rd ra y) s = .next t ∧
      SetsA s t c.val rd ((s.core c.val).a ra.toNat + (s.core c.val).op2 y) ∧ WroteA s t c.val) ∧
    (aRegOk rd = true → ∃ t, exec (.mova c rd ra) s = .next t ∧ SetsA s t c.val rd ((s.core c.val).s ra.toNat) ∧ WroteA s t c.val) ∧
    (aRegOk ra = true → ∃ t, exec (.movs c rd ra) s = .next t ∧ SetsS s t c.val rd ((s.core c.val).a ra.toNat) ∧ WroteS s t c.val) ∧
    (∀ imm, ∃ t, exec (.lim c rd false imm) s = .next t ∧ SetsS s t c.val rd (imm.signExtend 64) ∧ WroteS s t c.val) ∧
    (∀ imm, aRegOk rd = true → ∃ t, exec (.lim c rd true imm) s = .next t ∧ SetsA s t c.val rd (imm.signExtend 64) ∧ WroteA s t c.val) ∧
    (∀ imm : BitVec 16, ∃ t, exec (.lih c rd false imm) s = .next t ∧
      SetsS s t c.val rd (imm ++ ((s.core c.val).s rd.toNat).extractLsb' 0 48) ∧ WroteS s t c.val) ∧
    (∀ imm : BitVec 16, aRegOk rd = true → ∃ t, exec (.lih c rd true imm) s = .next t ∧
      SetsA s t c.val rd (imm ++ ((s.core c.val).a rd.toNat).extractLsb' 0 48) ∧ WroteA s t c.val)

/-- On a ready core BR with COND 0 to 6 goes to PC + 8 × OFF32, OFF32 signed, exactly when s[RA] and s[RB] are equal,
unequal, less (signed), not less (signed), less (unsigned), not less (unsigned), or always; otherwise to the next
word. COND 7 is reserved and faults with ILLEGAL_OP. JAL goes to PC + 8 × OFF32 and writes PC + 8 to s[RD]. On the
conditions on state and operands that each clause names, and on nothing else, exec answers a next state, the one the
clause describes, for: BR, JAL. (R83) -/
def Obligations.BranchTargetAndConditions : Prop :=
  ∀ (s : State) (c : CoreId) (ra rb : BitVec 5) (off : BitVec 32), s.Ready c →
    let k := s.core c.val
    let x := k.s ra.toNat
    let y := k.s rb.toNat
    let goes := fun (cond : BitVec 3) (p : Prop) => ∃ t, exec (.br c ra rb cond off) s = .next t ∧
      (p → (t.core c.val).seq.pc = k.seq.pc + 8 * off.signExtend 64) ∧ (¬ p → (t.core c.val).seq.pc = k.seq.pc + 8)
    goes 0 (x = y) ∧ goes 1 (x ≠ y) ∧ goes 2 (x.toInt < y.toInt) ∧ goes 3 (y.toInt ≤ x.toInt) ∧ goes 4 (x.toNat < y.toNat) ∧
    goes 5 (y.toNat ≤ x.toNat) ∧ goes 6 True ∧
    (∃ t, exec (.br c ra rb 7 off) s = .next t ∧ SeqFaulted s t c.val codeIllegalOp) ∧
    (∃ t, exec (.jal c ra off) s = .next t ∧ (t.core c.val).seq.pc = k.seq.pc + 8 * off.signExtend 64 ∧
      SetsS s t c.val ra (k.seq.pc + 8))

/-- On a ready core a taken BR (COND 0 to 6: equal, unequal, less and not less signed, less and not less unsigned, always)
and a JAL go to PC + 8 × OFF32 and a JR to s[RA]; each sets SIG to the chained CRC-32C of SIG and the four
little-endian bytes of the low 32 bits of the target. A BR that is not taken goes to the next word and keeps SIG. BR
and JR change PC, SIG and the debug step only; JAL also writes PC + 8 to s[RD]; no other part of the sequencer, no
memory byte, no stream and no other core differs. On the conditions on state and operands that each clause names, and
on nothing else, exec answers a next state, the one the clause describes, for: BR, JR, JAL. (R84, R90,
03_aelium_instruction_set.md) -/
def Obligations.TakenBranchesFoldTheirTargetIntoSig : Prop :=
  ∀ (s : State) (c : CoreId) (ra rb : BitVec 5) (cond : BitVec 3) (off : BitVec 32), s.Ready c →
    let k := s.core c.val
    let target := k.seq.pc + 8 * off.signExtend 64
    let keeps := fun (t : State) => OnlySeq s t c.val ∧
      { (t.core c.val).seq with pc := k.seq.pc, sig := k.seq.sig, stepOne := k.seq.stepOne } = k.seq
    let goes := fun (t : State) (v : Word) => (t.core c.val).seq.pc = v ∧
      (t.core c.val).seq.sig = crc32c k.seq.sig (natBytes 4 (v.toNat % 2 ^ 32))
    let taken := match cond.toNat with
      | 0 => k.s ra.toNat = k.s rb.toNat
      | 1 => k.s ra.toNat ≠ k.s rb.toNat
      | 2 => (k.s ra.toNat).toInt < (k.s rb.toNat).toInt
      | 3 => (k.s rb.toNat).toInt ≤ (k.s ra.toNat).toInt
      | 4 => (k.s ra.toNat).toNat < (k.s rb.toNat).toNat
      | 5 => (k.s rb.toNat).toNat ≤ (k.s ra.toNat).toNat
      | _ => True
    (cond.toNat ≠ 7 → ∃ t, exec (.br c ra rb cond off) s = .next t ∧ keeps t ∧ (taken → goes t target) ∧
      (¬ taken → (t.core c.val).seq.pc = k.seq.pc + 8 ∧ (t.core c.val).seq.sig = k.seq.sig)) ∧
    (∃ t, exec (.jr c ra) s = .next t ∧ keeps t ∧ goes t (k.s ra.toNat)) ∧
    (∃ t, exec (.jal c ra off) s = .next t ∧ goes t target ∧ SetsS s t c.val ra (k.seq.pc + 8) ∧ OnlySeq s t c.val ∧
      { (t.core c.val).seq with s := k.seq.s, pc := k.seq.pc, sig := k.seq.sig, stepOne := k.seq.stepOne } = k.seq)

/-- On a ready core, with the address a[AN] + IMM32 inside the scratchpad and a multiple of the size, in no reserve line
the kernel may not address, in no guarded line and with no uncorrectable word, LDS writes the 8 bytes there to s[RD]
and LDD the 32 bytes there to s[RD] to s[RD + 3], lowest bytes lowest, s[RD] being s4, s8 and so on. PC is the next
word; every scratchpad byte and every byte of HBM reads as before; no other core differs. On the conditions on state
and operands that each clause names, and on nothing else, exec answers a next state, the one the clause describes,
for: LDS, LDD. (R84, R86, R201, R368, R440) -/
def Obligations.ScratchpadLoadsReadTheirBytes : Prop :=
  ∀ (s : State) (c : CoreId) (rd : BitVec 5) (an : BitVec 4) (imm : BitVec 32), s.Ready c →
    let k := s.core c.val
    let a := (k.a an.toNat + imm.signExtend 64).toNat
    let clean := fun (size : Nat) => a % size = 0 ∧ a < 33554432 ∧ s.hotLine c.val (a / 256) = false ∧
      k.guarded [] (a / 256) = false ∧ k.spBad a size = false
    let keeps := fun (t : State) => OnlyCore s t c.val ∧ t.hbm = s.hbm ∧ (t.core c.val).seq.pc = k.seq.pc + 8 ∧
      ∀ x, memByte (t.core c.val).sp.mem x = memByte k.sp.mem x
    let word := fun (b : Nat) => BitVec.ofNat 64 (bytesNat (memRead k.sp.mem b 8))
    (clean 8 → ∃ t, exec (.lds c rd an imm) s = .next t ∧ keeps t ∧ SetsS s t c.val rd (word a)) ∧
    (clean 32 → groupOk rd = true → ∃ t, exec (.ldd c rd an imm) s = .next t ∧ keeps t ∧
      ∀ r : Nat, (t.core c.val).s r =
        if rd.toNat ≤ r ∧ r < rd.toNat + 4 then word (a + 8 * (r - rd.toNat)) else k.s r)

/-- On a ready core, with the address a[AN] + IMM32 inside the scratchpad and a multiple of the size, in no reserve line
the kernel may not address and in no guarded line, STS writes the 8 bytes of s[RD] there and STD the 32 bytes of s[RD]
to s[RD + 3], s[RD] being s4, s8 and so on. Every scratchpad byte outside those and every byte of HBM reads as before,
every register is as before, PC is the next word and no other core differs. On the conditions on state and operands
that each clause names, and on nothing else, exec answers a next state, the one the clause describes, for: STS, STD.
(R84, R86, R201, R368) -/
def Obligations.ScratchpadStoresWriteOnlyTheirBytes : Prop :=
  ∀ (s : State) (c : CoreId) (rd : BitVec 5) (an : BitVec 4) (imm : BitVec 32), s.Ready c →
    let k := s.core c.val
    let a := k.spAddr an imm
    let clean := fun (size : Nat) => a % size = 0 ∧ a < 33554432 ∧ s.hotLine c.val (a / 256) = false ∧
      k.guarded [] (a / 256) = false
    let stores := fun (t : State) (bs : List Byte) => OnlyCore s t c.val ∧
      { (t.core c.val).seq with pc := k.seq.pc, stepOne := k.seq.stepOne } = k.seq ∧ (t.core c.val).seq.pc = k.seq.pc + 8 ∧
      ∀ x, memByte (t.core c.val).sp.mem x = if a ≤ x ∧ x < a + bs.length then bs.getD (x - a) 0 else memByte k.sp.mem x
    (clean 8 → ∃ t, exec (.sts c rd an imm) s = .next t ∧ stores t (natBytes 8 (k.s rd.toNat).toNat)) ∧
    (clean 32 → groupOk rd = true → ∃ t, exec (.std c rd an imm) s = .next t ∧
      stores t ((List.range 4).flatMap (fun i => natBytes 8 (k.s (rd.toNat + i)).toNat)))

/-- On a ready core an address outside 0 to 33,554,431, or one that is not a multiple of 8 for LDS and STS or of 32 for
LDD and STD, stops the sequencer with SP_RANGE: PC stays, no register and no byte of memory differs. (R86, R95) -/
def Obligations.RefusedScratchpadAddressFaults : Prop :=
  ∀ (s : State) (c : CoreId) (rd : BitVec 5) (an : BitVec 4) (imm : BitVec 32), s.Ready c →
    let a := (s.core c.val).spAddr an imm
    let faults := fun (i : Instr) => ∃ t, exec i s = .next t ∧ SeqFaulted s t c.val codeSpRange ∧ t.hbm = s.hbm ∧
      (t.core c.val).sp = (s.core c.val).sp ∧ ∀ r, (t.core c.val).s r = (s.core c.val).s r
    (33554432 ≤ a ∨ a % 8 ≠ 0 → faults (.lds c rd an imm) ∧ faults (.sts c rd an imm)) ∧
    (33554432 ≤ a ∨ a % 32 ≠ 0 → groupOk rd = true → faults (.ldd c rd an imm) ∧ faults (.std c rd an imm))

/-- On a ready core, when the register that names a group of four is not one of s4, s8, s12, s16, s20, s24 and s28, each
of LDD, STD, MBOXR, STREAM and MSG (MSG with a SEL of Table 3.4) stops the sequencer with REG_ALIGN. When it is one of
them none of the five raises REG_ALIGN. (R85) -/
def Obligations.RegisterGroupsAreAligned : Prop :=
  ∀ (s : State) (c : CoreId) (r rd : BitVec 5) (an ax ay az dest : BitVec 4) (imm : BitVec 32), s.Ready c → dest.toNat < 3 →
    let named := r.toNat = 4 ∨ r.toNat = 8 ∨ r.toNat = 12 ∨ r.toNat = 16 ∨ r.toNat = 20 ∨ r.toNat = 24 ∨ r.toNat = 28
    ∀ i ∈ [Instr.ldd c r an imm, .std c r an imm, .mboxr c r, .stream c r rd ax ay az, .msg c r dest],
      ∃ t, exec i s = .next t ∧ (¬ named → SeqFaulted s t c.val codeRegAlign) ∧
        (named → (t.core c.val).seq.faulted ≠ some codeRegAlign)

/-- On a ready core, v being the value operand (IMM32, or the low 32 bits of s[RA]): SETT sets t[TC] to v; RDT writes
t[TC] zero-extended to s[RD]; ADDT adds v to t[TC] when the sum fits 32 bits, and otherwise leaves 0xFFFF_FFFF in
t[TC] and stops the sequencer with TOKEN_OVF, PC staying; WAITT goes to the next word when t[TC] is at least v and
otherwise stalls at the same PC. No other token counter, no other register and nothing outside the sequencer differs,
the fault report apart. On the conditions on state and operands that each clause names, and on nothing else, exec
answers a next state, the one the clause describes, for: SETT, RDT, ADDT, WAITT. (R58, R87, R91,
03_aelium_instruction_set.md) -/
def Obligations.TokenInstructionResults : Prop :=
  ∀ (s : State) (c : CoreId) (rd : BitVec 5) (tc : BitVec 3) (y : Op2), s.Ready c →
    let v := (s.core c.val).tval y
    let n := (s.core c.val).tok tc.toNat
    v = (match y with | .reg ra => ((s.core c.val).s ra.toNat).extractLsb' 0 32 | .imm i => i) ∧
    (∃ t, exec (.sett c tc y) s = .next t ∧ SetsT s t c.val tc v ∧ WroteT s t c.val) ∧
    (∃ t, exec (.rdt c rd tc) s = .next t ∧ SetsS s t c.val rd (n.setWidth 64) ∧ WroteS s t c.val) ∧
    (n.toNat + v.toNat < 2 ^ 32 → ∃ t, exec (.addt c tc y) s = .next t ∧ SetsT s t c.val tc (n + v) ∧ WroteT s t c.val) ∧
    (2 ^ 32 ≤ n.toNat + v.toNat → ∃ t, exec (.addt c tc y) s = .next t ∧ SetsT s t c.val tc 0xFFFFFFFF ∧
      SeqFaulted (s.modCore c.val (fun k => k.setTok tc.toNat 0xFFFFFFFF)) t c.val codeTokenOvf) ∧
    (v.toNat ≤ n.toNat → ∃ t, exec (.waitt c tc y) s = .next t ∧ Advanced s t c.val) ∧
    (n.toNat < v.toNat → ∃ t, exec (.waitt c tc y) s = .next t ∧ Stalls s t c.val (.waitt tc v 0))

/-- On a ready core, for a register group s4 to s28: with a message waiting, MBOXR writes its 256 bits to s[RD] to s[RD +
3], lowest 64 bits in s[RD], removes it and keeps the others in order; PC is the next word and no other register
differs. With none waiting the sequencer stops with MBOX_EMPTY. On the conditions on state and operands that each
clause names, and on nothing else, exec answers a next state, the one the clause describes, for: MBOXR. (R85, R93,
03_aelium_instruction_set.md) -/
def Obligations.MailboxReadTakesTheHead : Prop :=
  ∀ (s : State) (c : CoreId) (rd : BitVec 5), s.Ready c → groupOk rd = true →
    let k := s.core c.val
    (∀ m ms, k.seq.mbox = m :: ms → ∃ t, exec (.mboxr c rd) s = .next t ∧ OnlySeq s t c.val ∧
      (t.core c.val).seq.mbox = ms ∧ (t.core c.val).seq.pc = k.seq.pc + 8 ∧
      { (t.core c.val).seq with s := k.seq.s, mbox := k.seq.mbox, pc := k.seq.pc, stepOne := k.seq.stepOne } = k.seq ∧
      ∀ r : Nat, (t.core c.val).s r =
        if rd.toNat ≤ r ∧ r < rd.toNat + 4 then m.extractLsb' (64 * (r - rd.toNat)) 64 else k.s r) ∧
    (k.seq.mbox = [] → ∃ t, exec (.mboxr c rd) s = .next t ∧ SeqFaulted s t c.val codeMboxEmpty)

/-- On a ready core: FENCE goes to the next word when no QUEUED or ACTIVE stream has its first station in MASK and
otherwise stalls; SLOTQ writes 0 FREE, 1 GATED, 2 QUEUED, 3 ACTIVE or 4 FAULTED for slot s[RA] modulo 64 to s[RD];
RDCYC writes the mash count of the bay to s[RD]; NOP goes to the next word. YIELD goes to the next word; it restarts
the count since the last yield point, and with a pre-emption requested, no soft-target channel enabled, no SOFT SEND
issued since launch and every bucket buffer released the core is parking and can run no instruction; nothing else
differs. On the conditions on state and operands that each clause names, and on nothing else, exec answers a next
state, the one the clause describes, for: FENCE, SLOTQ, RDCYC, NOP, YIELD. (R64, R66, R86, R87,
03_aelium_instruction_set.md) -/
def Obligations.FenceSlotqRdcycNopYieldResults : Prop :=
  ∀ (s : State) (c : CoreId) (rd ra : BitVec 5) (mask : BitVec 8), s.Ready c →
    let k := s.core c.val
    let waits := ∃ n, n < 64 ∧ (k.slot n).live = true ∧ mask.getLsbD (stationOf (kindOf (k.slot n).desc)) = true
    let state : Nat := match (k.slot ((k.s ra.toNat).toNat % 64)).state with
      | .free => 0 | .gated => 1 | .queued => 2 | .active => 3 | .faulted => 4
    let pinned := k.welt.softSent || k.hop.chans.any (fun e => e.2.on) ||
      k.bkt.slots.any (fun e => e.2.released < e.2.landings.length)
    (¬ waits → ∃ t, exec (.fence c mask) s = .next t ∧ Advanced s t c.val) ∧
    (waits → ∃ t, exec (.fence c mask) s = .next t ∧ Stalls s t c.val (.fence mask)) ∧
    (∃ t, exec (.slotq c rd ra) s = .next t ∧ SetsS s t c.val rd (BitVec.ofNat 64 state) ∧ WroteS s t c.val) ∧
    (∃ t, exec (.rdcyc c rd) s = .next t ∧ SetsS s t c.val rd (BitVec.ofNat 64 (s.bay (c.val / 30)).mash) ∧ WroteS s t c.val) ∧
    (∃ t, exec (.nop c) s = .next t ∧ Advanced s t c.val) ∧
    (∃ t, exec (.yield c) s = .next t ∧ OnlySeq s t c.val ∧ (t.core c.val).seq.pc = k.seq.pc + 8 ∧
      (t.core c.val).seq.parking = (k.seq.preempt && !pinned) ∧ ((t.core c.val).seq.parking = true → (t.core c.val).canIssue = false) ∧
      (t.core c.val).seq.yieldMark = (s.bay (c.val / 30)).mash ∧
      { (t.core c.val).seq with
        pc := k.seq.pc
        stepOne := k.seq.stepOne
        yieldMark := k.seq.yieldMark
        overdueSeen := k.seq.overdueSeen
        parking := k.seq.parking } = k.seq)

/-- On a ready core RAISE stops the sequencer with SW_RAISE, PC stays, and (no function being re-initialised) the one new
report names the core, PC, the code SW_RAISE and the 16-bit code. SIGCHK with SIG equal to the expected value sets SIG
to zero and goes on, and otherwise stops with CFSIG. MSG to 0, 1 or 2 with fewer than 8 messages waiting appends the
256-bit group to them and goes on, and with 8 waiting it stalls; SEL 3 to 15 stops with ILLEGAL_OP. A word that no
format of Table 3.4 defines stops with ILLEGAL_OP. On the conditions on state and operands that each clause names, and
on nothing else, exec answers a next state, the one the clause describes, for: RAISE, SIGCHK, MSG, ILLEGAL_OP. (R82,
R87, R92, R95, 03_aelium_instruction_set.md) -/
def Obligations.RaiseSigchkMsgResults : Prop :=
  ∀ (s : State) (c : CoreId) (code : BitVec 16) (expect : BitVec 32) (rs : BitVec 5) (sel : BitVec 4) (w : Word), s.Ready c →
    let k := s.core c.val
    (∃ t, exec (.raise c code) s = .next t ∧ SeqFaulted s t c.val codeSwRaise ∧ (s.rst.running = [] →
      ∃ r, t.reports = s.reports ++ [r] ∧ r.code = codeSwRaise ∧ r.core = c.val ∧ r.pc = k.seq.pc.toNat ∧ r.detail = code.toNat)) ∧
    (k.seq.sig = expect → ∃ t, exec (.sigchk c expect) s = .next t ∧ OnlySeq s t c.val ∧ (t.core c.val).seq.sig = 0 ∧
      (t.core c.val).seq.pc = k.seq.pc + 8 ∧ (t.core c.val).seq.faulted = none) ∧
    (k.seq.sig ≠ expect → ∃ t, exec (.sigchk c expect) s = .next t ∧ SeqFaulted s t c.val codeCfsig) ∧
    (sel.toNat < 3 → groupOk rs = true → k.seq.outbound.length < 8 → ∃ t, exec (.msg c rs sel) s = .next t ∧ OnlySeq s t c.val ∧
      (t.core c.val).seq.outbound = k.seq.outbound ++ [(sel.toNat, k.quad rs.toNat)] ∧ (t.core c.val).seq.pc = k.seq.pc + 8) ∧
    (sel.toNat < 3 → groupOk rs = true → 8 ≤ k.seq.outbound.length → ∃ t, exec (.msg c rs sel) s = .next t ∧
      Stalls s t c.val (.msg rs sel)) ∧
    (3 ≤ sel.toNat → ∃ t, exec (.msg c rs sel) s = .next t ∧ SeqFaulted s t c.val codeIllegalOp) ∧
    (decodeWord c w = none → ∃ t, exec (.illegalOp c w) s = .next t ∧ SeqFaulted s t c.val codeIllegalOp)

/-- On a ready core, for an offset at which Table 21.2 has a register, CSRR writes what the register reads to s[RD] and
nothing else differs; at 0 that is the core number, the site, the bay and the partition. CSRW to each of the 13
registers of csrTable (seeds, step numbers, origins, the deferred queue, the phase counters, the stash epochs, the
bucket unit) makes it read the low bits of s[RA] it holds, goes to the next word and touches no other core, no memory
byte and no other part of the sequencer. CSRW to a register whose fields are all RO goes to the next word and changes
nothing else. An offset that is no multiple of 8, or has no register, stops the sequencer with CSR_DENIED: no register
is read or written. On the conditions on state and operands that each clause names, and on nothing else, exec answers
a next state, the one the clause describes, for: CSRR, CSRW. (R11, R94, R515, 03_aelium_instruction_set.md,
21_register_map.md) -/
def Obligations.CsrAccessResults : Prop :=
  ∀ (s : State) (c : CoreId) (rd ra : BitVec 5) (off : BitVec 32), s.Ready c →
    let k := s.core c.val
    (∀ r, coreRegAt off.toNat = some r → ∃ t, exec (.csrr c rd off) s = .next t ∧
      SetsS s t c.val rd (s.readCoreReg c.val r) ∧ WroteS s t c.val) ∧
    (off = 0 → ∃ t, exec (.csrr c rd off) s = .next t ∧ WroteS s t c.val ∧ SetsS s t c.val rd
      (BitVec.ofNat 64 (c.val + 2 ^ 9 * (5 * (c.val / 30) + c.val % 30 / 6) + 2 ^ 16 * (c.val / 30) + 2 ^ 20 * s.partOf c.val))) ∧
    (∀ e ∈ csrTable, off.toNat = e.1 → ∃ t, exec (.csrw c ra off) s = .next t ∧ OnlyCore s t c.val ∧
      (t.core c.val).seq.pc = k.seq.pc + 8 ∧ (t.core c.val).sp = k.sp ∧
      { (t.core c.val).seq with pc := k.seq.pc, stepOne := k.seq.stepOne } = k.seq ∧
      (t.readCoreReg c.val e.2.1).toNat = (k.s ra.toNat).toNat % 2 ^ e.2.2) ∧
    (∀ r, coreRegAt off.toNat = some r → r.readOnly = true → ∃ t, exec (.csrw c ra off) s = .next t ∧ Advanced s t c.val) ∧
    ((off.toNat % 8 ≠ 0 ∨ coreRegAt off.toNat = none) → ∀ i ∈ [Instr.csrr c rd off, .csrw c ra off],
      ∃ t, exec i s = .next t ∧ SeqFaulted s t c.val codeCsrDenied)

/-- On a ready core END stalls while a stream is QUEUED or ACTIVE. Otherwise the kernel has ended: no slot is GATED, every
slot that was FAULTED still is, and the kernel-end report waiting for the scheduler gives the number of slots that
were GATED and SIG; the lines of every enabled soft-target channel read zero, and no other byte of the scratchpad, no
byte of the HBM and no other core differs. On the conditions on state and operands that each clause names, and on
nothing else, exec answers a next state, the one the clause describes, for: END. (R87, R89, R203,
03_aelium_instruction_set.md) -/
def Obligations.EndFreesGatedStreamsAndReports : Prop :=
  ∀ (s : State) (c : CoreId), s.Ready c →
    let k := s.core c.val
    (k.anyLive = true → ∃ t, exec (.kend c) s = .next t ∧ Stalls s t c.val .kend) ∧
    (k.anyLive = false → ∃ t r, exec (.kend c) s = .next t ∧ (t.core c.val).seq.kernel = none ∧
      (∀ n, n < 64 → (t.core c.val).slot n = if (k.slot n).state = .gated then {} else k.slot n) ∧
      t.ends.find? c.val = some r ∧ r.core = c.val ∧ r.sig = k.seq.sig ∧
      r.gated = (Core.slotNums.filter (fun n => (k.slot n).state = .gated)).length ∧
      t.hbm = s.hbm ∧ (∀ d, d ≠ c.val → t.core d = s.core d) ∧
      ∀ x, memByte (t.core c.val).sp.mem x =
        if (List.range 4).any (fun ch => (k.hopChan ch).on && (k.hopChan ch).has (x / 256)) then 0 else memByte k.sp.mem x)

/-- On a ready core, the group register being one of s4 to s28: a reserved KIND (13 to 15) writes all ones to s[RD] and
changes no slot; with no slot free the sequencer stalls; otherwise n being the lowest free slot, slot n holds the
descriptor and the bases captured from it and the address registers, in state FAULTED, GATED (gate enabled) or QUEUED,
s[RD] is n, PC is the next word, and no other slot, no memory byte and no other core differs. On the conditions on
state and operands that each clause names, and on nothing else, exec answers a next state, the one the clause
describes, for: STREAM. (R51, R52, R53, R87, R98, 03_aelium_instruction_set.md) -/
def Obligations.StreamIssueTakesTheLowestFreeSlot : Prop :=
  ∀ (s : State) (c : CoreId) (rs rd : BitVec 5) (ax ay az : BitVec 4), s.Ready c → groupOk rs = true →
    let k := s.core c.val
    let d := k.quad rs.toNat
    (13 ≤ (d.extractLsb' 0 4).toNat → ∃ t, exec (.stream c rs rd ax ay az) s = .next t ∧ SetsS s t c.val rd (BitVec.allOnes 64) ∧
      (t.core c.val).slots = k.slots ∧ (t.core c.val).seq.pc = k.seq.pc + 8) ∧
    ((d.extractLsb' 0 4).toNat < 13 → (∀ m, m < 64 → (k.slot m).state ≠ .free) →
      ∃ t, exec (.stream c rs rd ax ay az) s = .next t ∧ Stalls s t c.val (.stream rs rd ax ay az)) ∧
    (∀ n, (d.extractLsb' 0 4).toNat < 13 → n < 64 → (k.slot n).state = .free → (∀ m, m < n → (k.slot m).state ≠ .free) →
      ∃ t, exec (.stream c rs rd ax ay az) s = .next t ∧ SetsS s t c.val rd (BitVec.ofNat 64 n) ∧
        (t.core c.val).seq.pc = k.seq.pc + 8 ∧ (∀ m, m ≠ n → (t.core c.val).slot m = k.slot m) ∧
        (t.core c.val).sp = k.sp ∧ t.hbm.mem = s.hbm.mem ∧ (∀ e, e ≠ c.val → t.core e = s.core e) ∧
        ((t.core c.val).slot n).desc = d ∧ ((t.core c.val).slot n).auxBase = (k.a az.toNat).toNat ∧
        (dSspace d ≠ 3 → ((t.core c.val).slot n).srcBase = (dSbase d + (k.a ax.toNat).toNat) % 2 ^ 64) ∧
        (dDspace d ≠ 3 → ((t.core c.val).slot n).dstBase = (dDbase d + (k.a ay.toNat).toNat) % 2 ^ 64) ∧
        (((t.core c.val).slot n).state = .faulted ∨ ((t.core c.val).slot n).state = if dGaten d then .gated else .queued))

/-- For each of the 25 element-wise commands of elemTable (ADD to SEL, EXP to RSQRT, IADD, IMAX, SCALEI, RANDB, RANDU,
DROPOUT), when Kettle can take the stream (KettleReady) and the rows of A, of the O inputs the operation reads and of
D lie in accessible lines, the command answers a next state in which the stream is done. No scratchpad byte outside
the lines of D, no other slot, no sequencer register, nothing of the core that no station keeps and nothing outside
the core differs. On the conditions on state and operands that each clause names, and on nothing else, exec answers a
next state, the one the clause describes, for: KETTLE_ADD, KETTLE_SUB, KETTLE_MUL, FMA, AXPBY, KETTLE_MIN, KETTLE_MAX,
ABS, NEG, CVT, POLY, CMPLT, CMPLE, CMPEQ, SEL, EXP, LOG, RCP, RSQRT, IADD, IMAX, SCALEI, RANDB, RANDU, DROPOUT. (R173,
R174, R175, R176, R177, 06_kettle_vector_engine.md) -/
def Obligations.ElementwiseVectorsRunToTheirEnd : Prop :=
  ∀ e ∈ elemTable, ∀ (s : State) (r : StreamRef),
    let c := r.core.val
    let n := r.slot.val
    let x := (s.core c).slot n
    let d := x.desc
    let rows := dTiles d * dRows d
    let b := (s.core c).kblock e.kop x
    s.KettleReady c n e.kop (rowBytes (dSfmt d) (dCols d)) →
    (e.o1 = true → s.ORowsOk c (b.entry 0) (dCols d) rows) → (e.o2 = true → s.ORowsOk c (b.entry 1) (dCols d) rows) →
    s.RowsOk c [] x.dstBase (dDstr d) (rowBytes (dDfmt d) (dCols d)) rows →
    ∃ t, exec (e.cmd r) s = .next t ∧ Streamed s t c n (InRows x.dstBase (dDstr d) (rowBytes (dDfmt d) (dCols d)) rows)

/-- When Kettle can take the stream and its rows lie in accessible lines, I64ACC (D rows of 64-bit elements), MAXEXP (one
INT32 at D), LWIDEN (D rows of 320-bit entries, six to a line) and LNARROW (A rows of 320-bit entries) each answer a
next state in which the stream is done. No scratchpad byte outside the lines of D, no other slot, no sequencer
register, nothing of the core that no station keeps and nothing outside the core differs. On the conditions on state
and operands that each clause names, and on nothing else, exec answers a next state, the one the clause describes,
for: I64ACC, MAXEXP, LWIDEN, LNARROW. (R173, R175, R176, R185, 06_kettle_vector_engine.md) -/
def Obligations.IntegerAndLongTileVectorsRunToTheirEnd : Prop :=
  ∀ (s : State) (r : StreamRef),
    let c := r.core.val
    let n := r.slot.val
    let x := (s.core c).slot n
    let d := x.desc
    let rows := dTiles d * dRows d
    let runs := fun (i : Instr) (str bytes rows : Nat) => s.RowsOk c [] x.dstBase str bytes rows →
      ∃ t, exec i s = .next t ∧ Streamed s t c n (InRows x.dstBase str bytes rows)
    (s.KettleReady c n 0x32 (rowBytes (dSfmt d) (dCols d)) → runs (.i64acc r) (dDstr d) (8 * dCols d) rows) ∧
    (s.KettleReady c n 0x34 (rowBytes (dSfmt d) (dCols d)) → runs (.maxexp r) 0 4 1) ∧
    (s.KettleReady c n 0x48 (rowBytes (dSfmt d) (dCols d)) → runs (.lwiden r) (dDstr d) (longBytes (dCols d)) rows) ∧
    (s.KettleReady c n 0x49 (longBytes (dCols d)) → dSspace d ≠ 3 →
      runs (.lnarrow r) (dDstr d) (rowBytes (dDfmt d) (dCols d)) rows)

/-- When Kettle can take the stream: LRCLR sets V to 0, E to LRE, STATE to FINITE, TRUNC to 0 and COUNT to 0 in register
LREG and leaves the others; LRSTORE, its 64 destination bytes accessible, writes the image of Table 6.5 there (V as
zero when STATE is not FINITE) and leaves every register. The stream is done; no other scratchpad byte, no other slot,
no sequencer register, nothing of the core that no station keeps and nothing outside the core differs. On the
conditions on state and operands that each clause names, and on nothing else, exec answers a next state, the one the
clause describes, for: LRCLR, LRSTORE. (R179, R182, 06_kettle_vector_engine.md) -/
def Obligations.LongRegisterClearAndStoreResults : Prop :=
  ∀ (s : State) (r : StreamRef),
    let c := r.core.val
    let n := r.slot.val
    let k := s.core c
    let x := k.slot n
    (s.KettleReady c n 0x40 0 → ∃ t, exec (.lrclr r) s = .next t ∧ Streamed s t c n (fun _ => False) ∧
      ∀ m, (t.core c).lr m = if m = vLreg x.desc
        then { v := 0, e := (k.kblock 0x40 x).lre, st := 0, trunc := false, count := 0 } else k.lr m) ∧
    (s.KettleReady c n 0x45 0 → s.RowsOk c [] x.dstBase 0 64 1 →
      let y := k.lr (vLreg x.desc)
      ∃ t, exec (.lrstore r) s = .next t ∧ Streamed s t c n (InRows x.dstBase 0 64 1) ∧ (∀ m, (t.core c).lr m = k.lr m) ∧
        (t.core c).spRead (256 * x.dstBase) 64 =
          natBytes 40 (ofSigned 320 (if y.st = 0 then y.v else 0)) ++ natBytes 2 (ofSigned 16 y.e) ++ natBytes 1 y.st ++
            natBytes 1 (if y.trunc then 1 else 0) ++ natBytes 4 y.count ++ natBytes 16 0)

/-- When Kettle can take the stream and its four destination bytes are accessible, LRREAD writes one FP32 value at D: V x
2^E rounded when STATE is FINITE, plus or minus infinity when it is POS_INF or NEG_INF, the canonical NaN when it is
NAN, and then NV is raised in FPFLAGS. Every long register is as before, and no other scratchpad byte differs. On the
conditions on state and operands that each clause names, and on nothing else, exec answers a next state, the one the
clause describes, for: LRREAD. (R183) -/
def Obligations.LrreadWritesOneRoundedValue : Prop :=
  ∀ (s : State) (r : StreamRef),
    let c := r.core.val
    let n := r.slot.val
    let k := s.core c
    let x := k.slot n
    let y := k.lr (vLreg x.desc)
    s.KettleReady c n 0x46 0 → dDfmt x.desc = 0 → s.RowsOk c [] x.dstBase 0 4 1 →
      ∃ t, exec (.lrread r) s = .next t ∧ Streamed s t c n (InRows x.dstBase 0 4 1) ∧ (∀ m, (t.core c).lr m = k.lr m) ∧
        bytesNat ((t.core c).spRead (256 * x.dstBase) 4) =
          (match y.st with
            | 0 => (f32 (.ofDy y.v y.e)).1 | 1 => 0x7F800000 | 2 => 0xFF800000 | _ => 0x7FC00000) ∧
        (3 ≤ y.st → (t.core c).fpflags.getLsbD 0 = true)

/-- When Kettle can take the stream, its operand rows are accessible and COUNT stays within 2^31, SUM, SUMSQ and DOT are
done with COUNT of register LREG raised by the number of elements. LRADD of images that are well formed and have the
register's E is done with COUNT raised by the sum of their COUNTs. No scratchpad byte, no other long register, no
other slot, no sequencer register and nothing outside the core differs. A SUM that finds COUNT at 2^31 already faults
with LR_LENGTH, which is reported, and changes no long register. On the conditions on state and operands that each
clause names, and on nothing else, exec answers a next state, the one the clause describes, for: SUM, SUMSQ, DOT,
LRADD. (R180, R181, R182, 06_kettle_vector_engine.md) -/
def Obligations.LongRegisterReductionsCountTheirContributions : Prop :=
  ∀ (s : State) (r : StreamRef),
    let c := r.core.val
    let n := r.slot.val
    let k := s.core c
    let x := k.slot n
    let d := x.desc
    let lr := k.lr (vLreg d)
    let rows := dTiles d * dRows d
    let image := fun (i : Nat) => lrParse (k.spRead (rowAddr 0 x.srcBase (dSstr d) i) 64)
    let counts := fun (i : Instr) (by_ : Nat) => ∃ t, exec i s = .next t ∧ Streamed s t c n (fun _ => False) ∧
      ((t.core c).lr (vLreg d)).count = lr.count + by_ ∧ ∀ m, m ≠ vLreg d → (t.core c).lr m = k.lr m
    (lr.count + dElems d ≤ 2 ^ 31 →
      (s.KettleReady c n 0x41 (rowBytes (dSfmt d) (dCols d)) → counts (.sum r) (dElems d)) ∧
      (s.KettleReady c n 0x42 (rowBytes (dSfmt d) (dCols d)) → counts (.sumsq r) (dElems d)) ∧
      (s.KettleReady c n 0x43 (rowBytes (dSfmt d) (dCols d)) → s.ORowsOk c ((k.kblock 0x43 x).entry 0) (dCols d) rows →
        counts (.dot r) (dElems d))) ∧
    (s.KettleReady c n 0x44 64 → dSspace d ≠ 3 → (∀ i, i < rows → ∃ y, image i = some y ∧ y.e = lr.e) →
      lr.count + ((List.range rows).map (fun i => match image i with | some y => y.count | none => 0)).sum ≤ 2 ^ 31 →
      counts (.lradd r) ((List.range rows).map (fun i => match image i with | some y => y.count | none => 0)).sum) ∧
    (2 ^ 31 ≤ lr.count → s.KettleReady c n 0x41 (rowBytes (dSfmt d) (dCols d)) → ∃ t, exec (.sum r) s = .next t ∧
      ((t.core c).slot n).state = .faulted ∧ StreamReported s t c n codeLrLength ∧ ∀ m, (t.core c).lr m = k.lr m)

/-- When Kettle can take the stream, A is FP32 and the rows of A, of the inputs O1 and O2, of D and of the outputs O3 and
O4 lie in accessible lines (for ADAMW the state tiles O2 and O3 have twice the columns of A), each of ADAMW, LION and
SGDM answers a next state in which the stream is done. No scratchpad byte outside the lines of D, O3 and O4, no other
slot, no sequencer register, nothing of the core that no station keeps and nothing outside the core differs. On the
conditions on state and operands that each clause names, and on nothing else, exec answers a next state, the one the
clause describes, for: ADAMW, LION, SGDM. (R173, R258, R259, 09_optimizer_and_step_commit.md) -/
def Obligations.UpdateKernelsRunToTheirEnd : Prop :=
  ∀ (s : State) (r : StreamRef), ∀ e ∈ [(Instr.adamw, 0x60, 2), (Instr.lion, 0x61, 1), (Instr.sgdm, 0x62, 1)],
    let c := r.core.val
    let n := r.slot.val
    let x := (s.core c).slot n
    let d := x.desc
    let rows := dTiles d * dRows d
    let o := ((s.core c).kblock e.2.1 x).entry
    let outs := fun (a : Nat) => InRows x.dstBase (dDstr d) (rowBytes (dDfmt d) (dCols d)) rows a ∨
      InRows (o 2).line (o 2).str (rowBytes (o 2).fmt (e.2.2 * dCols d)) rows a ∨
      InRows (o 3).line (o 3).str (rowBytes (o 3).fmt (dCols d)) rows a
    s.KettleReady c n e.2.1 (rowBytes (dSfmt d) (dCols d)) → dSfmt d = 0 →
    s.ORowsOk c (o 0) (dCols d) rows → s.ORowsOk c (o 1) (e.2.2 * dCols d) rows →
    s.ORowsOk c (o 2) (e.2.2 * dCols d) rows → s.ORowsOk c (o 3) (dCols d) rows →
    s.RowsOk c [] x.dstBase (dDstr d) (rowBytes (dDfmt d) (dCols d)) rows →
    ∃ t, exec (e.1 r) s = .next t ∧ Streamed s t c n outs

/-- A LOAD whose source rows (scratchpad or HBM) and destination rows are accessible, transposed or not, and for a
transposed MX source of one tile whose scale groups are uniform, is done with no scratchpad byte outside the lines of
the destination rows changed. A GATHER whose index lines, SLIM source elements and destination rows are accessible is
done likewise; one that feeds a station whose stream can take all its elements is done and changes no scratchpad byte.
No HBM byte, no other slot, no sequencer register and no other core differs; outside the core only error marks that
clear, the count of corrected errors and the counts of moved bytes may differ. On the conditions on state and operands
that each clause names, and on nothing else, exec answers a next state, the one the clause describes, for:
LOAD_STREAM, GATHER. (R55, R67, R69, R70, R73, R97, R545, 02_tile_streams_and_stations.md) -/
def Obligations.LoadAndGatherRunToTheirEnd : Prop :=
  ∀ (s : State) (r : StreamRef),
    let c := r.core.val
    let n := r.slot.val
    let x := (s.core c).slot n
    let d := x.desc
    let rows := dTiles d * loadRows d
    let slines := loadScaleBase d x.dstBase / 256
    let w := fmtBits (dSfmt d)
    (s.Taken c n 0 → dSspace d < 2 → dDspace d = 0 → dDfmt d = dSfmt d →
      (dTrans d = true → isMx (dSfmt d) = true → dTiles d = 1 ∧ s.scaleBad c d x.auxBase = false) →
      s.OperandOk c (dSspace d) false x.srcBase (dSstr d) (dSfmt d) (dCols d) (dTiles d * dRows d) x.auxBase (fld d 216 10) →
      s.OperandOk c 0 true x.dstBase (dDstr d) (dDfmt d) (loadCols d) rows slines (fld d 226 10) →
      ∃ t, exec (.loadStream r) s = .next t ∧
        StreamedH s t c n (InOperand x.dstBase (dDstr d) (dDfmt d) (loadCols d) rows slines (fld d 226 10)) (fun _ => False)) ∧
    (s.Taken c n 2 → dSspace d < 2 → dDspace d = 0 ∨ gDst d ≠ 0 → dDfmt d = dSfmt d →
      (gDst d ≠ 0 → s.PathTakes c (gatherStation d) (dSfmt d) (dElems d)) →
      (∀ l, l < cdiv (dElems d) 64 → s.runFault c [] (256 * (x.auxBase + l)) (4 * min 64 (dElems d - 64 * l)) = none) →
      (∀ i, i < gSlim d → s.RunOk c (dSspace d) false (unitAddr (dSspace d) x.srcBase + w * i / 8) ((w * i % 8 + w + 7) / 8)) →
      (gDst d = 0 → s.RowsOk c [] x.dstBase (dDstr d) (rowBytes (dDfmt d) (dCols d)) (dTiles d * dRows d)) →
      ∃ t, exec (.gather r) s = .next t ∧
        StreamedH s t c n (fun a => gDst d = 0 ∧
          InRows x.dstBase (dDstr d) (rowBytes (dDfmt d) (dCols d)) (dTiles d * dRows d) a) (fun _ => False))

/-- A STORE whose scratchpad rows are accessible and whose HBM rows are mapped and writable for the partition is done: no
scratchpad byte changes and no HBM byte outside the places of its rows. An UNSTASH whose HBM rows (with their scales)
are mapped, readable and below the spill address, and whose scratchpad rows are accessible, is done: no HBM byte
changes and no scratchpad byte outside the lines of its rows. An UNSTASH that reads discarded bytes of a spilled epoch
faults with CASK_SPILLED: its slot is FAULTED and reported and nothing else differs. In the two that run, no other
slot, no sequencer register and no other core differs; outside the core only those HBM bytes, their error marks and
sector codes and the counts of corrected errors and moved bytes may differ. On the conditions on state and operands
that each clause names, and on nothing else, exec answers a next state, the one the clause describes, for: STORE,
UNSTASH. (R55, R97, R241, R245, R433, R436, 08_backward_pass_and_stash.md) -/
def Obligations.StoreAndUnstashRunToTheirEnd : Prop :=
  ∀ (s : State) (r : StreamRef),
    let c := r.core.val
    let n := r.slot.val
    let x := (s.core c).slot n
    let d := x.desc
    let rows := dTiles d * dRows d
    (s.Taken c n 9 → dDfmt d = dSfmt d → s.RowsOk c [] x.srcBase (dSstr d) (rowBytes (dSfmt d) (dCols d)) rows →
      (∀ i, i < rows → s.HbmOk c true (rowAddr 1 x.dstBase (dDstr d) i) (rowBytes (dDfmt d) (dCols d))) →
      ∃ t, exec (.store r) s = .next t ∧
        StreamedH s t c n (fun _ => False) (fun b => ∃ i, i < rows ∧ rowAddr 1 x.dstBase (dDstr d) i ≤ b ∧
          b < rowAddr 1 x.dstBase (dDstr d) i + rowBytes (dDfmt d) (dCols d))) ∧
    (s.Taken c n 8 → spilledRead (s.core c).curEpoch d x.srcBase x.auxBase = false →
      s.OperandOk c 1 false x.srcBase (dSstr d) (dSfmt d) (dCols d) rows x.auxBase (sScstr d) →
      s.RowsOk c [] x.dstBase (dDstr d) (rowBytes (dDfmt d) (dCols d)) rows →
      ∃ t, exec (.unstash r) s = .next t ∧
        StreamedH s t c n (InRows x.dstBase (dDstr d) (rowBytes (dDfmt d) (dCols d)) rows) (fun _ => False)) ∧
    (s.Taken c n 8 → spilledRead (s.core c).curEpoch d x.srcBase x.auxBase = true →
      ∃ t, exec (.unstash r) s = .next t ∧ StreamStopped s t c n codeCaskSpilled)

/-- For a STASH that Cask can take with its input whole on the direct path or in accessible rows: inside the reserve
region, or inside the main region of an epoch without a spill, it is done having written only its HBM rows; inside the
main region of a spilled epoch, or one that first reaches past the main region, it is done having written nothing, the
epoch is marked spilled and the stream is counted as discarded; past the reserve region or outside both it faults and
moves nothing. On the conditions on state and operands that each clause names, and on nothing else, exec answers a
next state, the one the clause describes, for: STASH. (R241, R243, R244, 08_backward_pass_and_stash.md) -/
def Obligations.StashWritesSpillsOrDiscards : Prop :=
  ∀ (s : State) (r : StreamRef),
    let c := r.core.val
    let n := r.slot.val
    let x := (s.core c).slot n
    let d := x.desc
    let rows := dTiles d * dRows d
    let e := (s.core c).curEpoch
    let cls := stashClass e d x.dstBase x.auxBase
    s.Taken c n 7 →
    ((dSspace d ≠ 3 ∧ s.RowsOk c [] x.srcBase (dSstr d) (rowBytes (dSfmt d) (dCols d)) rows) ∨
      (dSspace d = 3 ∧ dElems d ≤ ((s.core c).path 6).elems.length ∧ ((s.core c).path 6).fmt = dSfmt d)) →
    ((cls = .reserve ∨ (cls = .main ∧ e.spill = false)) →
      s.OperandOk c 1 true x.dstBase (dDstr d) (dDfmt d) (dCols d) rows x.auxBase (sScstr d) →
      ∃ t, exec (.stash r) s = .next t ∧
        StreamedH s t c n (fun _ => False) (InHbm x.dstBase (dDstr d) (dDfmt d) (dCols d) rows x.auxBase (sScstr d)) ∧
        (t.core c).cask = (s.core c).cask) ∧
    ((cls = .spilling ∨ (cls = .main ∧ e.spill = true)) →
      ∃ t, exec (.stash r) s = .next t ∧ Streamed s t c n (fun _ => False) ∧ (t.core c).curEpoch.spill = true ∧
        (t.core c).cask.discStreams = satAdd 16 (s.core c).cask.discStreams 1) ∧
    ((cls = .reserveOver ∨ cls = .outside) →
      ∃ t, exec (.stash r) s = .next t ∧ ((t.core c).slot n).state = .faulted ∧ t.hbm = s.hbm ∧ (t.core c).sp = (s.core c).sp ∧
        (t.core c).cask = (s.core c).cask)

/-- A ROLE 0 FEED with accessible source rows is done and the shadow holds its tile: SFMT, K elements a row and one stored
row per delivered row. A ROLE 1 FEED that passes the acceptance checks of R154 with a tile of its own origin, beside
no QUEUED or ACTIVE DRAIN of its group, whose source rows are accessible and whose destination rows (when it opens no
group) read without error and in k-block order, is done: its group is open, no accumulator row outside its destination
rows (outside the opened range, when it opens) changes, no scratchpad or HBM byte changes. A transposed MX source is
of one tile with uniform scale groups. On the conditions on state and operands that each clause names, and on nothing
else, exec answers a next state, the one the clause describes, for: STATIONARY_FEED, MOVING_FEED. (R55, R134, R135,
R150, R153, R154, 05_mash_and_accumulation.md) -/
def Obligations.FeedsRunToTheirEnd : Prop :=
  ∀ (s : State) (r : StreamRef),
    let c := r.core.val
    let n := r.slot.val
    let k := s.core c
    let x := k.slot n
    let d := x.desc
    let srcOk := fun (rows : Nat) =>
      s.OperandOk c (dSspace d) false x.srcBase (dSstr d) (dSfmt d) (dCols d) rows x.auxBase (fScstr d)
    let rows := dTiles d * feedM d
    let exact := fAccm d = 0 && !isMx (dSfmt d)
    s.Taken c n 1 → dSspace d < 2 → (dTrans d = true → isMx (dSfmt d) = true → dTiles d = 1 ∧ s.scaleBad c d x.auxBase = false) →
    (fRole d = 0 → srcOk (dRows d) → ∃ t st, exec (.stationaryFeed r) s = .next t ∧
      StreamedH s t c n (fun _ => False) (fun _ => False) ∧ (t.core c).mash.shadow = some st ∧ st.fmt = dSfmt d ∧ st.k = feedK d ∧
      st.rows.length = feedM d ∧ (t.core c).mash.acc = k.mash.acc) ∧
    (∀ st, fRole d = 1 → dDstr d ≠ 0 → k.mash.shadow.or k.mash.stat = some st → st.deferred = x.deferred →
      k.feedFault x true = none → k.drainBeside (fGroup d) = false → srcOk (dTiles d * dRows d) →
      (fOpen d = false → ∀ i, i < rows → (k.readCheck exact (x.dstBase + i * dDstr d) st.rows.length).2 = none ∧
        (exact = true ∨ ∀ l, k.mash.lastKblk.find? (x.dstBase + i * dDstr d) = some l → l < fKblk d)) →
      ∃ t, exec (.movingFeed r) s = .next t ∧ StreamedH s t c n (fun _ => False) (fun _ => False) ∧
        ((t.core c).group (fGroup d)).isOpen = true ∧ (t.core c).mash.stat = some st ∧ (t.core c).mash.shadow = none ∧
        ∀ row col, col < 256 → (if fOpen d then row < x.dstBase ∨ feedLast d x.dstBase < row
            else ∀ i, i < rows → row ≠ x.dstBase + i * dDstr d) → (t.core c).acc row col = k.acc row col)

/-- A DRAIN of an open group that covers its rows, whose entries read without error, whose checksum comparisons (of a CHK
group) pass and whose bias and destination rows are accessible, or whose direct path has a stream that can take all
its elements, is done; the accumulator values are as before. With no stream to take them it stays ACTIVE and moves no
row (R50, R99). A NARROW whose source is accessible or whole on the direct path and whose destination rows (with scale
rows for an MX format) are accessible, or whose path into Cask has a stream that can take all its elements, is done.
Neither changes a scratchpad byte outside the lines of its destination rows, nor any when it feeds a station. On the
conditions on state and operands that each clause names, and on nothing else, exec answers a next state, the one the
clause describes, for: DRAIN, NARROW. (R50, R99, R119, R131, R155, R162, R165, R167, R170,
05_mash_and_accumulation.md, 04_number_formats.md) -/
def Obligations.DrainAndNarrowRunToTheirEnd : Prop :=
  ∀ (s : State) (r : StreamRef),
    let c := r.core.val
    let n := r.slot.val
    let k := s.core c
    let x := k.slot n
    let d := x.desc
    let rows := dTiles d * dRows d
    let g := k.group (drGroup d)
    (s.Taken c n 3 → (dDspace d = 0 ∨ s.PathTakes c (drStation d) 0 (dElems d)) → k.drainFault x = none →
      (drBias d = true → s.runFault c [] (256 * x.auxBase) (rowBytes 0 (dCols d)) = none) →
      (∀ i, i < rows → (k.readCheck (g.mode = 0 && !g.mx) (x.srcBase + i * dSstr d) (dCols d)).2 = none ∧
        (k.compareRow g (x.srcBase + i * dSstr d)).2 = none) →
      (drRelease d = true → (k.compareCols (drGroup d) g).2 = none) →
      (dDspace d = 0 → s.RowsOk c [] x.dstBase (dDstr d) (rowBytes (dDfmt d) (dCols d)) rows) →
      ∃ t, exec (.drain r) s = .next t ∧
        Streamed s t c n (fun a => dDspace d = 0 ∧ InRows x.dstBase (dDstr d) (rowBytes (dDfmt d) (dCols d)) rows a) ∧
        (t.core c).mash.acc = k.mash.acc) ∧
    (s.Taken c n 3 → dDspace d ≠ 0 → k.drainFault x = none → drBias d = false → k.consumer (drStation d) = none →
      ∃ t, exec (.drain r) s = .next t ∧ ((t.core c).slot n).state = .active ∧
        (t.core c).path (drStation d) = k.path (drStation d) ∧ (t.core c).mash = k.mash ∧ (t.core c).sp = k.sp) ∧
    (s.Taken c n 4 →
      ((dSspace d ≠ 3 ∧ s.RowsOk c [] x.srcBase (dSstr d) (rowBytes (dSfmt d) (dCols d)) rows) ∨
        (dSspace d = 3 ∧ k.pathHas 3 (dElems d) = true)) →
      (dDspace d = 0 ∨ s.PathTakes c 6 (dDfmt d) (dElems d)) →
      (dDspace d = 0 → s.OperandOk c 0 true x.dstBase (dDstr d) (dDfmt d) (dCols d) rows x.auxBase (fld d 226 10)) →
      ∃ t, exec (.narrow r) s = .next t ∧
        Streamed s t c n (fun a => dDspace d = 0 ∧
          InOperand x.dstBase (dDstr d) (dDfmt d) (dCols d) rows x.auxBase (fld d 226 10) a))

/-- For every state: HIST_CTL.CLR makes every histogram bin read zero. MASH_GROUP.ABORT closes a group that no ACTIVE
stream names (OPEN and COUNT read zero) and otherwise waits. Enabling a disabled channel: with a ring of 1 to 64 tiles
of 1 to 1,024 lines inside the scratchpad, a sender of the partition and no other enabled ring met, it is enabled and
sends a first credit of RING_TILES; otherwise it keeps ENABLE 0 with ERR 2, or ERR 3 when it meets another ring, and
sends none. Disabling an enabled channel zeroes its ring lines and clears ENABLE, or sets ERR 1 and stays enabled
while a LOSS that names it is QUEUED or ACTIVE. A write of CASK_CTL selects EPOCH and LAYER; with NEW the spill record
of that epoch is clear. No other core changes. On the conditions on state and operands that each clause names, and on
nothing else, exec answers a next state, the one the clause describes, for: HIST_CLR, GROUP_ABORT, CHANNEL_ENABLE,
CHANNEL_DISABLE, CASK_NEW. (R131, R156, R196, R200, R203, R240, 07_hopback_distillation.md) -/
def Obligations.CoreRegisterWriteResults : Prop :=
  ∀ (s : State) (c : CoreId) (g : Fin 16) (ch : Fin 4) (v : Word),
    let k := s.core c.val
    let h : HopChan := { cfg := v }
    (∃ t, exec (.histClr c) s = .next t ∧ OnlyCore s t c.val ∧ (∀ b, (t.core c.val).vec.hist.get 0 b = 0) ∧ (t.core c.val).sp = k.sp) ∧
    (∃ t, exec (.groupAbort c g) s = .next t ∧ OnlyCore s t c.val ∧
      (if k.groupBusy g.val then ((t.core c.val).group g.val).abortReq = true ∧
          ((t.core c.val).group g.val).isOpen = (k.group g.val).isOpen
        else ((t.core c.val).group g.val).isOpen = false ∧ ((t.core c.val).group g.val).count = 0) ∧
      ∀ j, j ≠ g.val → (t.core c.val).group j = k.group j) ∧
    ((k.hopChan ch.val).on = false → ∃ t, exec (.channelEnable c ch v) s = .next t ∧ (∀ d, d ≠ c.val → t.core d = s.core d) ∧
      let outside := 131072 < h.base + h.tiles * h.lines ∨ h.tiles = 0 ∨ 64 < h.tiles ∨ h.lines = 0 ∨ 1024 < h.lines ∨
        359 < h.sender ∨ s.partOf h.sender ≠ s.partOf c.val
      let meets := ∃ j, j < 4 ∧ j ≠ ch.val ∧ (k.hopChan j).on = true ∧ (k.hopChan j).base < h.base + h.tiles * h.lines ∧
        h.base < (k.hopChan j).base + (k.hopChan j).tiles * (k.hopChan j).lines
      let err := fun (e : Nat) => ((t.core c.val).hopChan ch.val).on = false ∧ t.flits = s.flits ∧
        fld ((t.core c.val).hopChan ch.val).cfg 49 2 = e
      (outside → err 2) ∧ (¬ outside → meets → err 3) ∧
      (¬ outside → ¬ meets → ((t.core c.val).hopChan ch.val).on = true ∧ ((t.core c.val).hopChan ch.val).received = 0 ∧
        ∃ f, t.flits = s.flits ++ [f] ∧ f.src = c.val ∧ f.dst = h.sender ∧ f.body = .credit ∧ f.cls = 4 ∧ f.schan = ch.val ∧
          f.grant = h.tiles ∧ f.isFirst = true)) ∧
    ((k.hopChan ch.val).on = true → ∃ t, exec (.channelDisable c ch) s = .next t ∧ OnlyCore s t c.val ∧
      (if k.chanBusy ch.val then ((t.core c.val).hopChan ch.val).on = true ∧ fld ((t.core c.val).hopChan ch.val).cfg 49 2 = 1
        else ((t.core c.val).hopChan ch.val).on = false ∧
          ∀ a, (k.hopChan ch.val).has (a / 256) = true → memByte (t.core c.val).sp.mem a = 0)) ∧
    (∃ t, exec (.caskNew c v) s = .next t ∧ OnlyCore s t c.val ∧ (t.core c.val).cask.epoch = fld v 0 2 ∧
      (t.core c.val).cask.layer.toNat = fld v 16 16 ∧ (bit v 2 = true → (t.core c.val).curEpoch.spill = false))

/-- A launch record for a core whose bay is ON and that accepts kernels starts its kernel: s1, s2, s3 hold the instance,
the width and the record address + 128, the arguments follow, every other s register, a register and token counter is
zero, PC is the entry point, SIG is zero and the mailbox empty. A fetch of a readable line caches its 256 bytes. A
stall cycle of WAITT goes on when its counter has reached the value and otherwise counts; one of FENCE goes on when no
masked station is busy. A core 26,000 cycles past its yield point is counted overdue. A pre-emption request is kept
until taken. A WAITT that has waited 1,024 cycles with every active stream waiting remotely is a yield point and,
without an enabled soft-target channel, a soft SEND (R2) or an unreleased bucket buffer, takes a pending pre-emption
at its PC: its SENDs and RECVs that wait are withdrawn. A parking core with no live stream is parked and its notice
leaves. On the conditions on state and operands that each clause names, and on nothing else, exec answers a next
state, the one the clause describes, for: LAUNCH_RECORD, ICACHE_FILL, WAITT, STALL_CYCLE, FENCE, YIELD_OVERDUE,
PREEMPT_REQUEST, WAITT_PARK, CORE_PARKED. (R2, R64, R65, R66, R76, R77, R79, R87, R363, R372,
03_aelium_instruction_set.md) -/
def Obligations.SequencerEventsTakeEffect : Prop :=
  ∀ (s : State) (c : CoreId),
    let k := s.core c.val
    let runs := k.seq.kernel.isSome = true ∧ k.seq.faulted = none ∧ k.seq.parking = false ∧ k.seq.parked = false ∧ k.seq.halted = false
    let pc := k.seq.pc.toNat
    let keeps := k.welt.softSent || k.hop.chans.any (fun e => e.2.on) ||
      k.bkt.slots.any (fun e => e.2.released < e.2.landings.length)
    (∀ l, s.launches.find? c.val = some l → (s.bay (c.val / 30)).state = .on → k.retired = false → k.safe.barred = false →
      let regs := [BitVec.ofNat 64 l.inst, BitVec.ofNat 64 l.krec.width, BitVec.ofNat 64 (l.krec.addr + 128)] ++ l.krec.args
      ∃ t, exec (.launchRecord c) s = .next t ∧ { t with cores := s.cores, launches := s.launches } = s ∧
        (∀ d, d ≠ c.val → t.core d = s.core d) ∧ t.launches.find? c.val = none ∧
        (∀ r, (t.core c.val).s r = if r = 0 then 0 else regs.getD (r - 1) 0) ∧ (∀ r, (t.core c.val).a r = 0) ∧
        (∀ r, (t.core c.val).tok r = 0) ∧ (t.core c.val).seq.pc = l.krec.entry ∧ (t.core c.val).seq.sig = 0 ∧
        (t.core c.val).seq.mbox = [] ∧ (t.core c.val).sp = k.sp) ∧
    (s.Ready c → s.hbm.checkRun (s.partOf c.val) false pc 8 = .ok → s.hbm.badIn (pc / 256 * 256) 256 = none →
      ∃ t, exec (.icacheFill c) s = .next t ∧ { t with cores := s.cores, hbm := s.hbm, fab := s.fab } = s ∧
        { t.fab with bytes := s.fab.bytes } = s.fab ∧ t.hbm.mem = s.hbm.mem ∧
        (∀ d, d ≠ c.val → t.core d = s.core d) ∧
        (t.core c.val).seq.icache.find? (pc / 256 * 256) = some (s.hbm.read (pc / 256 * 256) 256) ∧
        { t.core c.val with seq := { (t.core c.val).seq with icache := k.seq.icache } } = k) ∧
    (∀ tc v w, runs → k.seq.stall = some (.waitt tc v w) → ∃ t, exec (.stallCycle c) s = .next t ∧ OnlySeq s t c.val ∧
      (if v.toNat ≤ (k.tok tc.toNat).toNat then (t.core c.val).seq.pc = k.seq.pc + 8 ∧ (t.core c.val).seq.stall = none
        else (t.core c.val).seq.pc = k.seq.pc ∧
          (t.core c.val).seq.stall = some (.waitt tc v (if w = 0xFFFFFFFF then w else w + 1)))) ∧
    (∀ mask, runs → k.seq.stall = some (.fence mask) →
      (∀ n, n < 64 → (k.slot n).live = true → mask.getLsbD (stationOf (kindOf (k.slot n).desc)) = false) →
      ∃ t, exec (.stallCycle c) s = .next t ∧ OnlySeq s t c.val ∧ (t.core c.val).seq.pc = k.seq.pc + 8 ∧
        (t.core c.val).seq.stall = none) ∧
    (k.seq.kernel.isSome = true → k.seq.parking = false → k.seq.parked = false → k.seq.overdueSeen = false →
      k.seq.yieldMark + 26000 < s.mashOf c.val → ∃ t, exec (.yieldOverdue c) s = .next t ∧ OnlyCore s t c.val ∧
        (t.core c.val).yieldOverdue = true ∧ (t.core c.val).overdueCnt = min 0xFFFFFFFF (k.overdueCnt + 1) ∧
        (t.core c.val).seq.overdueSeen = true) ∧
    (k.seq.kernel.isSome = true → k.sched = .parking → k.seq.parked = false → ∃ t, exec (.preemptRequest c) s = .next t ∧
      OnlySeq s t c.val ∧ { (t.core c.val).seq with preempt := k.seq.preempt } = k.seq ∧ (t.core c.val).seq.preempt = true) ∧
    (∀ tc v w, runs → k.seq.stall = some (.waitt tc v w) → 1024 ≤ w.toNat →
      (∀ n, n < 64 → (k.slot n).state = .active → s.remoteWait c.val n = true) →
      ∃ t, exec (.waittPark c) s = .next t ∧ { t with cores := s.cores, flits := s.flits, fab := s.fab, glob := s.glob } = s ∧
        { t.glob with acct := s.glob.acct } = s.glob ∧ (∀ d, d ≠ c.val → t.core d = s.core d) ∧
        (t.core c.val).seq.pc = k.seq.pc ∧ (t.core c.val).seq.yieldMark = s.mashOf c.val ∧
        ((t.core c.val).seq.parking = true ↔ k.seq.preempt = true ∧ keeps = false) ∧
        ∀ n, n < 64 → ∃ b, (t.core c.val).slot n =
          if k.seq.preempt = true ∧ keeps = false ∧ (kindOf (k.slot n).desc = 10 ∨ kindOf (k.slot n).desc = 11) ∧
              s.remoteWait c.val n = true then
            { k.slot n with state := .gated, withdrawn := true, blocked := false, flushed := b } else k.slot n) ∧
    (k.seq.parking = true → k.seq.parked = false → (∀ n, n < 64 → (k.slot n).live = false) →
      ∃ t, exec (.coreParked c) s = .next t ∧ { t with cores := s.cores, parkedMsgs := s.parkedMsgs } = s ∧
        (∀ d, d ≠ c.val → t.core d = s.core d) ∧ { t.core c.val with seq := k.seq } = k ∧ (t.core c.val).seq.parked = true ∧
        t.parkedMsgs = s.parkedMsgs ++ [c.val])

/-- On a core that is not parked a GATED stream whose counter has reached its gate value is QUEUED. An ACTIVE stream that
counts tiles, with a written tile not yet counted, counts it on its token counter. A stream of the sequencer that is
done, its tiles counted and what it feeds absorbed, frees its slot and (with TKEN and no TKEV) increments its counter,
below the largest value. A FAULTED slot whose report N1 has taken is FREE. No other slot, no scratchpad byte and
nothing outside the core but the accounts changes. On the conditions on state and operands that each clause names, and
on nothing else, exec answers a next state, the one the clause describes, for: GATE_OPEN, STREAM_TILE_WRITTEN,
STREAM_COMPLETE, SLOT_FREED. (R50, R53, R57, R58, R59, R381, 02_tile_streams_and_stations.md) -/
def Obligations.SlotEventsTakeEffect : Prop :=
  ∀ (s : State) (r : StreamRef),
    let c := r.core.val
    let n := r.slot.val
    let k := s.core c
    let x := k.slot n
    let d := x.desc
    let others := fun (t : State) => ∀ m, m ≠ n → (t.core c).slot m = k.slot m
    (x.state = .gated → k.seq.parked = false → x.withdrawn = false → dGatev d ≤ (k.tok (dGatet d)).toNat →
      ∃ t, exec (.gateOpen r) s = .next t ∧ OnlyCore s t c ∧ { t.core c with slots := k.slots } = k ∧ others t ∧
        (t.core c).slot n = { x with state := .queued }) ∧
    (x.state = .active → dTken d = true → dTkev d = true → x.tiles < x.tilesWritten → (k.tok (dTokt d)).toNat ≠ 0xFFFFFFFF →
      ∃ t, exec (.streamTileWritten r) s = .next t ∧ OnlyCore s t c ∧ others t ∧ (t.core c).slot n = { x with tiles := x.tiles + 1 } ∧
        (∀ q, (t.core c).tok q = if q = dTokt d then k.tok q + 1 else k.tok q) ∧
        { (t.core c).seq with t := k.seq.t } = k.seq ∧ (t.core c).sp = k.sp) ∧
    (k.completable x = true → x.origin = .seq → (dTken d = true → dTkev d = false → (k.tok (dTokt d)).toNat ≠ 0xFFFFFFFF) →
      ∃ t, exec (.streamComplete r) s = .next t ∧ { t with cores := s.cores, glob := s.glob } = s ∧
        { t.glob with acct := s.glob.acct } = s.glob ∧ (∀ e, e ≠ c → t.core e = s.core e) ∧ others t ∧ (t.core c).slot n = {} ∧
        (∀ q, (t.core c).tok q = if q = dTokt d ∧ dTken d = true ∧ dTkev d = false then k.tok q + 1 else k.tok q) ∧
        { (t.core c).seq with t := k.seq.t } = k.seq ∧ (t.core c).sp.mem = k.sp.mem) ∧
    (x.state = .faulted → x.taken = true → x.origin = .seq → ∃ t, exec (.slotFreed r) s = .next t ∧
      { t with cores := s.cores, glob := s.glob } = s ∧ { t.glob with acct := s.glob.acct } = s.glob ∧
      (∀ e, e ≠ c → t.core e = s.core e) ∧ others t ∧ (t.core c).slot n = {} ∧ (t.core c).seq = k.seq ∧ (t.core c).sp.mem = k.sp.mem)

/-- A message for a core, before which none for that core waits, is offered: a new one, or one of Cinch refused earlier
whose wait is over, while the Saddle pair is not stopped by its lockstep. On a core whose bay is ON it joins the
mailbox when fewer than four messages wait there and increments its counter (which stays at its largest value); with
four there the sender keeps it and offers it again after 1 us (Cinch, which counts it) or 10 us (an ingest note). For
a core whose bay is not ON it is discarded and counted (R41). Nothing else differs. On the conditions on state and
operands that each clause names, and on nothing else, exec answers a next state, the one the clause describes, for:
MAILBOX_MESSAGE, CINCH_MBOX_RETRY. (R23, R41, R93, R268, R417, 03_aelium_instruction_set.md) -/
def Obligations.MessagesReachTheMailbox : Prop :=
  ∀ (s : State) (c : CoreId) (before after : List MboxMsg) (m : MboxMsg), s.mboxes = before ++ m :: after → m.core = c.val →
    (∀ b, b ∈ before → b.core ≠ c.val) →
    let k := s.core c.val
    let result := fun (t : State) =>
      if k.seq.mbox.length < 4 then
        { t with cores := s.cores, mboxes := s.mboxes } = s ∧ (∀ d, d ≠ c.val → t.core d = s.core d) ∧ t.mboxes = before ++ after ∧
          (t.core c.val).seq.mbox = k.seq.mbox ++ [m.payload] ∧
          (∀ q, (t.core c.val).tok q = if q = m.tc ∧ k.tok q ≠ 0xFFFFFFFF then k.tok q + 1 else k.tok q) ∧
          { t.core c.val with seq := { (t.core c.val).seq with mbox := k.seq.mbox, t := k.seq.t } } = k
      else
        { t with mboxes := s.mboxes, cinch := s.cinch } = s ∧
          t.mboxes = before ++ { m with retryAt := some (s.now + (if m.source = .cinch then 1000 else 10000)) } :: after ∧
          t.cinch = if m.source = .cinch then { s.cinch with mboxWait := min 8191 (s.cinch.mboxWait + 1) } else s.cinch
    let discarded := fun (t : State) => { t with dies := s.dies, mboxes := s.mboxes } = s ∧ t.mboxes = before ++ after ∧
      (t.die (c.val / 6)).destReset = min 65535 ((s.die (c.val / 6)).destReset + 1)
    (m.retryAt = none → ∃ t, exec (.mailboxMessage c) s = .next t ∧
      ((s.bay (c.val / 30)).state = .on → result t) ∧ ((s.bay (c.val / 30)).state ≠ .on → discarded t)) ∧
    (∀ w, m.retryAt = some w → m.source = .cinch → w ≤ s.now → s.safety.saddleStopped = false →
      ∃ t, exec (.cinchMboxRetry c) s = .next t ∧
        ((s.bay (c.val / 30)).state = .on → result t) ∧ ((s.bay (c.val / 30)).state ≠ .on → discarded t))

/-- An accepted SEND within the package from accessible scratchpad, for which the receiver has posted enough lines (on the
same die, or with at most 64 lines and none waiting at its endpoint), sends every line in row order to its channel and
is done. An accepted RECV (not REMOTE) is ACTIVE, and the lines posted on its channel grow by its lines not yet
filled, from which its own positions begin. An accepted SAMPLE is ACTIVE. A tile of an ACTIVE SAMPLE whose rows are
accessible, belong to the pass and die of a model and do not exceed its classes adds its values to its rows at the
Tap, a row that reaches all classes is sampled, and the stream has moved one tile more and is done with its last. None
of the four changes a scratchpad byte of its core. On the conditions on state and operands that each clause names, and
on nothing else, exec answers a next state, the one the clause describes, for: SEND, RECV, SAMPLE, TAP_TILE. (R48,
R55, R57, R60, R63, R285, R335, R336, R337, 02_tile_streams_and_stations.md, 12_serving.md) -/
def Obligations.SendRecvSampleTakeEffect : Prop :=
  ∀ (s : State) (r : StreamRef),
    let c := r.core.val
    let n := r.slot.val
    let k := s.core c
    let x := k.slot n
    let d := x.desc
    let lineAt := fun (i : Nat) => 256 * (x.srcBase + wRow d i * dSstr d + wCol d i)
    let p := s.partOf c
    let v := s.serveOf p
    let j := if bit d 243 then fld d 244 4 + 1 else 0
    let row0 := fld d 228 15 + x.moved * dRows d
    (s.Taken c n 10 → wRemote d = false → wSoft d = false → dSspace d = 0 → x.moved = 0 →
      (∀ i, i < wLines d → s.runFault c [] (lineAt i) (wBytes d i) = none) →
      (s.core (wCore d)).welt.next.get 0 (wChan d) + s.inFlight (wCore d) (wChan d) + wLines d ≤
        (s.core (wCore d)).welt.posted.get 0 (wChan d) →
      (dieOf c = dieOf (wCore d) ∨
        (wLines d ≤ 64 ∧ ∀ f ∈ s.flits, f.cls = wClass d → f.isLocal = false → f.place ≠ .queue c)) →
      ∃ t fs, exec (.send r) s = .next t ∧ Streamed s { t with flits := s.flits, fab := s.fab } c n (fun _ => False) ∧
        ((t.core c).slot n).moved = wLines d ∧ t.flits = s.flits ++ fs ∧
        fs.map (fun f => (f.src, f.slot, f.dst, f.body)) = (List.range (wLines d)).map (fun i =>
          (c, n, wCore d, .data (wChan d) (k.spRead (lineAt i) (wBytes d i))))) ∧
    (s.Taken c n 11 → wRemote d = false → ∃ t, exec (.recv r) s = .next t ∧ OnlyCore s t c ∧ (t.core c).seq = k.seq ∧
      (t.core c).sp = k.sp ∧ (∀ m, m ≠ n → (t.core c).slot m = k.slot m) ∧ ((t.core c).slot n).state = .active ∧
      ((t.core c).slot n).desc = d ∧ ((t.core c).slot n).moved = x.moved ∧
      ((t.core c).slot n).start = k.welt.posted.get 0 (wChan d) - x.moved ∧
      ∀ ch, (t.core c).welt.posted.get 0 ch = k.welt.posted.get 0 ch + (if ch = wChan d then wLines d - x.moved else 0)) ∧
    (s.Taken c n 12 → ∃ t, exec (.sample r) s = .next t ∧ OnlyCore s t c ∧ { t.core c with slots := k.slots } = k ∧
      (∀ m, m ≠ n → (t.core c).slot m = k.slot m) ∧
      (t.core c).slot n = { x with state := .active, acceptedAt := s.mashOf c }) ∧
    (∀ m y, kindOf d = 12 → x.state = .active → x.done = false → s.SpSound c →
      (∀ i, i < dRows d → s.runFault c [] (rowAddr 0 x.srcBase (dSstr d) (x.moved * dRows d + i)) (rowBytes (dSfmt d) (dCols d)) = none) →
      v.tapModel (dieOf c) j = some m → v.passModel m j = some y → row0 + dRows d ≤ (v.passRows m j).length →
      256 * fld d 216 12 + dCols d ≤ y.classes →
      (∀ i, i < dRows d → samplingDie y (v.passRows m j).length (row0 + i) = dieOf c ∧
        (s.tapRow p m j (row0 + i)).vals.length + dCols d ≤ y.classes) →
      ∃ t, exec (.tapTile r) s = .next t ∧ ((t.core c).slot n).moved = x.moved + 1 ∧ ((t.core c).slot n).state = .active ∧
        (((t.core c).slot n).done = true ↔ dTiles d ≤ x.moved + 1) ∧ (t.core c).sp.mem = k.sp.mem ∧
        ∀ i, i < dRows d →
          (t.tapRow p m j (row0 + i)).vals = (s.tapRow p m j (row0 + i)).vals ++
            (((s.sampleRows c x).2.getD i []).zipIdx.map (fun z => (256 * fld d 216 12 + z.2, z.1))) ∧
          ((s.tapRow p m j (row0 + i)).vals.length + dCols d = y.classes → (t.tapRow p m j (row0 + i)).sampled = true))

/-- A flit that has arrived, with no earlier flit between its two cores (on one die, or its bay ON and PART right), leaves
the fabric and those behind it go on. A Welt line for an open position of a RECV that names the sender fills its line
and no other byte; a soft-target line of the sender of an enabled channel, inside the ring tile, is stored there and
nowhere else, and RECEIVED counts the tile it expects once it is whole; a first credit flit sets the grant with
nothing sent, creating the entry when fewer than 16 are held, and a later one raises it; a flush flit marks the
withdrawn RECVs of its channel and sender, and with none is kept. A header is discarded and counted when its
destination site does not exist, is not ON, is of another partition, or cannot take flit class 4; one for a service
port is presented to the sites behind it; any other header changes nothing. Which check comes first, and that
endpoints 7 to 31 belong to no bay, is the model's choice (log entry 70). On the conditions on state and operands that
each clause names, and on nothing else, exec answers a next state, the one the clause describes, for:
WELT_FLIT_ARRIVE, SOFT_DATA_FLIT, CREDIT_FLIT, FLUSH_FLIT, FLIT_ARRIVE. (R18, R32, R39, R41, R60, R61, R198, R199,
R373, 02_tile_streams_and_stations.md, 07_hopback_distillation.md) -/
def Obligations.FlitsArriveAtTheirCore : Prop :=
  ∀ (s : State) (dst src : CoreId) (before after : List Flit) (f : Flit), s.flits = before ++ f :: after →
    f.src = src.val → f.dst = dst.val → f.arrived = true → (∀ b, b ∈ before → b.src ≠ src.val ∨ b.dst ≠ dst.val) →
    let k := s.core dst.val
    (dieOf src.val = dieOf dst.val ∨
      ((s.bay (bayOf dst.val)).state = .on ∧ (f.part = 15 ∨ f.part = s.partOf dst.val))) →
    let gone := fun (t : State) => { t with cores := s.cores, flits := s.flits } = s ∧ t.flits = settleFlits (before ++ after) ∧
      (∀ d, d ≠ dst.val → t.core d = s.core d) ∧ (t.core dst.val).seq = k.seq
    (∀ ch line m, f.body = .data ch line → k.recvAt ch (k.welt.next.get 0 ch) = some m →
      k.welt.ahead.contains (ch, k.welt.next.get 0 ch) = false →
      let x := k.slot m
      let d := x.desc
      let i := k.welt.next.get 0 ch - x.start
      let a := 256 * (x.dstBase + wRow d i * dDstr d + wCol d i)
      wRemote d = false → wCore d = src.val → wBytes d i ≤ line.length → s.runFault dst.val [] a (wBytes d i) = none →
      ∃ t, exec (.weltFlitArrive dst src) s = .next t ∧ gone t ∧ (t.core dst.val).spRead a (wBytes d i) = line.take (wBytes d i) ∧
        (∀ b, b < a ∨ a + wBytes d i ≤ b → memByte (t.core dst.val).sp.mem b = memByte k.sp.mem b) ∧
        ((t.core dst.val).slot m).moved = x.moved + 1 ∧ (∀ j, j ≠ m → (t.core dst.val).slot j = k.slot j) ∧
        k.welt.next.get 0 ch < (t.core dst.val).welt.next.get 0 ch) ∧
    (∀ line, f.body = .soft line →
      let ch := f.schan
      let h := k.hopChan ch
      let q := h.seqOf f.seq
      let a := 256 * (h.tileLine q + f.tline)
      h.on = true → h.sender = src.val → f.tline < h.lines →
      ∃ t, exec (.softDataFlit dst src) s = .next t ∧ gone t ∧ (t.core dst.val).spRead a line.length = line ∧
        (∀ b, b < a ∨ a + line.length ≤ b → memByte (t.core dst.val).sp.mem b = memByte k.sp.mem b) ∧
        (t.core dst.val).slots = k.slots ∧ ((t.core dst.val).hopChan ch).cfg = h.cfg ∧
        ((t.core dst.val).hopChan ch).received = h.received +
          (if q = h.received ∧ (insertSet f.tline (h.tile q).got).length = min h.lines ((f.trows + 1) * cdiv (f.tcols + 1) 64) then 1 else 0)) ∧
    (∀ e, f.body = .credit → k.credit src.val f.schan = some e →
      ∃ t, exec (.creditFlit dst src) s = .next t ∧ gone t ∧ (t.core dst.val).sp = k.sp ∧ (t.core dst.val).slots = k.slots ∧
        (t.core dst.val).credit src.val f.schan =
          some (if f.isFirst then { e with grant := f.grant, sent := 0 } else { e with grant := max e.grant f.grant })) ∧
    (f.body = .credit → f.isFirst = true → k.credit src.val f.schan = none → k.welt.credits.length < 16 →
      ∃ t, exec (.creditFlit dst src) s = .next t ∧ gone t ∧ (t.core dst.val).sp = k.sp ∧ (t.core dst.val).slots = k.slots ∧
        (t.core dst.val).credit src.val f.schan = some ⟨src.val, f.schan, f.grant, 0⟩) ∧
    (∀ ch, f.body = .flush ch → ∃ t, exec (.flushFlit dst src) s = .next t ∧ gone t ∧ (t.core dst.val).sp = k.sp ∧
      let names := fun (n : Nat) => (k.slot n).withdrawn = true ∧ kindOf (k.slot n).desc = 11 ∧ wChan (k.slot n).desc = ch ∧
        wCore (k.slot n).desc = src.val
      (∀ n, n < 64 → (names n → (t.core dst.val).slot n = { k.slot n with flushed := true }) ∧
        (¬ names n → (t.core dst.val).slot n = k.slot n)) ∧
      ((∀ n, n < 64 → ¬ names n) → (t.core dst.val).welt.flushes = k.welt.flushes ++ [(ch, src.val)])) ∧
    (∀ (hdr : BitVec 32) (who : Option StreamRef),
      let site := fld hdr 0 7
      let frm := fld hdr 7 7
      let ep := fld hdr 14 5
      let named := who.bind (fun r => s.flitOf hdr r.core.val)
      let dropped := fun (t : State) => t.fab = s.fab ∧ t.flits = match named with | some q => settleFlits q.2 | none => s.flits
      ∃ t, exec (.flitArrive hdr who) s = .next t ∧
        { t with cores := s.cores, dies := s.dies, flits := s.flits, fab := s.fab, reports := s.reports, saddleReports := s.saddleReports } = s ∧
        (if 100 ≤ site then dropped t ∧ (t.die frm).addrDiscard = min 65535 ((s.die frm).addrDiscard + 1)
          else if fld hdr 19 3 = 4 ∧ (60 ≤ site ∨ 6 ≤ ep) then dropped t ∧
            (t.die frm).fc4Discard = min 65535 ((s.die frm).fc4Discard + 1)
          else if site < 60 ∧ ep ≤ 6 ∧ (s.bay (site / 5)).state ≠ .on then
            dropped t ∧ (t.die site).destReset = min 65535 ((s.die site).destReset + 1)
          else if site < 60 ∧ frm < 60 ∧ fld hdr 23 4 ≠ 15 ∧ fld hdr 23 4 ≠ s.partOfBay (site / 5) then
            dropped t ∧ (t.die site).partDiscard = min 65535 ((s.die site).partDiscard + 1) ∧
            ∀ r, who = some r → kindOf ((s.core r.core.val).slot r.slot.val).desc = 10 →
              ((s.core r.core.val).slot r.slot.val).live = true →
              (∀ q, named = some q → q.1.order = ((s.core r.core.val).slot r.slot.val).order) → ((t.core r.core.val).slot r.slot.val).state = .faulted
          else if 84 ≤ site then t = s.present site else t = s))

/-- On a ready core a push with room goes on and counts one entry more; with 64 entries held it stalls, is counted, and
the head entry is forced. With a kernel running, no entry started and one held, the head entry, well formed and in
accessible lines, is started: unforced only when the queue is enabled, more than KEEP slots are free, no unforced
deferred stream is live and, for a FEED, Mash has been idle long enough; forced otherwise. A started entry that may go
on issues its next descriptor, of an accessible line and passing the issue checks, into the lowest free slot with the
address values of the entry; with its last descriptor it leaves the queue. No scratchpad byte changes. On the
conditions on state and operands that each clause names, and on nothing else, exec answers a next state, the one the
clause describes, for: DWQ_PUSH, DWQ_ENTRY_START, DWQ_FORCED_START, DWQ_DESC_ISSUE. (R98, R231, R232, R233, R234,
R235, 08_backward_pass_and_stash.md) -/
def Obligations.DeferredQueueIssuesInOrder : Prop :=
  ∀ (s : State) (c : CoreId),
    let k := s.core c.val
    let q := k.dwq
    let i := fun (f : Bool) => entryOf q.head (k.spRead (q.entryAddr q.head) 64) f
    let starts := k.seq.kernel.isSome = true ∧ k.seq.parking = false ∧ k.seq.parked = false ∧ k.seq.stall ≠ some .kend ∧ q.started = none ∧ q.head < q.pushed ∧
      s.SpSound c.val ∧ s.runFault c.val [] (q.entryAddr q.head) 64 = none
    (s.Ready c → q.heldCount < 64 → ∃ t, exec (.dwqPush c) s = .next t ∧ OnlyCore s t c.val ∧
      { (t.core c.val) with dwq := q, seq := k.seq } = k ∧ { (t.core c.val).dwq with pushed := q.pushed } = q ∧
      (t.core c.val).dwq.pushed = q.pushed + 1 ∧ (t.core c.val).seq.pc = k.seq.pc + 8) ∧
    (s.Ready c → 64 ≤ q.heldCount → ∃ t, exec (.dwqPush c) s = .next t ∧ OnlyCore s t c.val ∧
      (t.core c.val).dwq.pushed = q.pushed ∧ (t.core c.val).dwq.fullForce = some q.head ∧
      (t.core c.val).dwq.fullStall = min 65535 (q.fullStall + 1) ∧ (t.core c.val).seq.stall = some .dwqPush ∧
      (t.core c.val).seq.pc = k.seq.pc) ∧
    (starts → q.forced q.head = false → q.enable = true → q.keep < k.freeSlots → k.unforcedLive = false → (i false).ok = true →
      (k.firstKind (i false).e ≠ 1 ∨ s.idleLong c.val = true) →
      ∃ t, exec (.dwqEntryStart c) s = .next t ∧ OnlyCore s t c.val ∧ { (t.core c.val).dwq with started := none } = q ∧
        (t.core c.val).dwq.started = some (i false).e ∧ (t.core c.val).slots = k.slots ∧ (t.core c.val).sp.mem = k.sp.mem ∧
        (t.core c.val).seq = k.seq) ∧
    (starts → q.forced q.head = true → (i true).ok = true →
      ∃ t, exec (.dwqForcedStart c) s = .next t ∧ OnlyCore s t c.val ∧ { (t.core c.val).dwq with started := none } = q ∧
        (t.core c.val).dwq.started = some (i true).e ∧ (t.core c.val).slots = k.slots ∧ (t.core c.val).sp.mem = k.sp.mem ∧
        (t.core c.val).seq = k.seq) ∧
    (∀ e n, q.started = some e → k.lowestFree = some n → k.descMay e = true → s.SpSound c.val →
      s.runFault c.val [] (256 * e.line + 32 * e.idx) 32 = none →
      let d : BitVec 256 := BitVec.ofNat 256 (bytesNat (k.spRead (256 * e.line + 32 * e.idx) 32))
      let x := slotOf d e.ax e.ay e.az k.nextOrder (.dwq e.n)
      kindOf d < 13 → s.issueCheck c.val x = none →
      ∃ t, exec (.dwqDescIssue c) s = .next t ∧ OnlyCore s t c.val ∧ (t.core c.val).slot n = x ∧
        (∀ m, m ≠ n → (t.core c.val).slot m = k.slot m) ∧ (t.core c.val).nextOrder = k.nextOrder + 1 ∧
        (t.core c.val).sp.mem = k.sp.mem ∧ (t.core c.val).seq.pc = k.seq.pc ∧
        (if e.idx + 1 < e.count then (t.core c.val).dwq.started = some { e with idx := e.idx + 1, open_ := e.open_ ++ [n] }
          else (t.core c.val).dwq.started = none ∧ (t.core c.val).dwq.head = q.head + 1))

/-- With no packet waiting behind a held header, and for headers of other packages the bay of the core ON: a header that
no slot decides is held with its time, at its sender or, from another package, at its port; a header held alone for
HOLD_MAX is dropped and counted. A header for an open slot of its channel, bucket, step, epoch and kind, its size and
buffers right and its source new, joins the landings. An arm that no check refuses stores an open slot with its
deadline counted from now and ERR 0; a refused one keeps the slots and sets ERR. A release of at most the counted
unreleased buffers frees them, a larger one sets REL_ERR only. Past its deadline an open slot closes, and with no
landing outstanding counts its closing token. On the conditions on state and operands that each clause names, and on
nothing else, exec answers a next state, the one the clause describes, for: BUCKET_HEADER, HOLD_MAX_EXPIRY, BKT_ARM,
BKT_REL, SLOT_DEADLINE. (R299, R301, R302, R303, R304, R305, R306, 11_gradient_reduction.md) -/
def Obligations.BucketHeadersLandOrAreHeld : Prop :=
  ∀ (s : State) (c : CoreId) (vc : BitVec 3) (score : BitVec 9) (port : Fin 16) (h : BktHeader) (v : Word) (slot : Fin 64),
    let k := s.core c.val
    let b := k.bkt
    let line := fld v 9 17
    let av := fld v 0 3
    let sl := fld v 3 6
    let y : BktSlot := { line := line, cfg := k.spRead (256 * line) 64, armedAt := s.now }
    let err := k.armErr av sl line y
    let key := bktKey vc.toNat slot.val
    let own := h.srcPkg.toNat = s.ownPkg
    let on := (s.bay (c.val / 30)).state = .on
    let clear := ∀ p, p < 16 → (s.port p).behind = []
    (own → b.outcome s.now vc.toNat h = .held →
      ∃ t, exec (.bucketHeader c vc score ⟨port, h⟩) s = .next t ∧ OnlyCore s t c.val ∧ { (t.core c.val) with bkt := b } = k ∧
        { (t.core c.val).bkt with held := b.held } = b ∧ (t.core c.val).bkt.held = b.held ++ [⟨vc.toNat, score.toNat, 0, h, [], none, s.now⟩]) ∧
    (¬ own → on → s.ownPkg < 4096 → clear → s.barred port.val vc.toNat = false → b.outcome s.now vc.toNat h = .held →
      ∃ t x, exec (.bucketHeader c vc score ⟨port, h⟩) s = .next t ∧ (∀ d, d ≠ c.val → t.core d = s.core d) ∧
        { (t.core c.val) with bkt := b } = k ∧ { (t.core c.val).bkt with held := b.held } = b ∧
        (t.core c.val).bkt.held = b.held ++ [x] ∧ x.hdr = h ∧ x.since = s.now ∧ x.via.isSome = true) ∧
    (∀ i x, clear → (own ∨ (on ∧ s.ownPkg < 4096 ∧ s.barred port.val vc.toNat = false)) → b.outcome s.now vc.toNat h = .current i →
      b.held = [] → b.slots.find? (bktKey vc.toNat i) = some x →
      ∃ t z, exec (.bucketHeader c vc score ⟨port, h⟩) s = .next t ∧ (own → { t with cores := s.cores } = s) ∧
        (∀ d, d ≠ c.val → d ≠ score.toNat → t.core d = s.core d) ∧
        (t.core c.val).bkt.slots.find? (bktKey vc.toNat i) = some z ∧ z.landings.length = x.landings.length + 1 ∧
        (∀ j, j ≠ bktKey vc.toNat i → (t.core c.val).bkt.slots.find? j = b.slots.find? j) ∧
        ∃ l, z.landings.getLast? = some l ∧ l.src = h.srcPkg.toNat ∧ l.count = h.count.toNat ∧ l.carried = false ∧ l.got = [0]) ∧
    (∀ x, clear → b.held = [x] → x.since + fld b.cfg 0 32 ≤ s.now → ∃ t, exec (.holdMaxExpiry c) s = .next t ∧
      (t.core c.val).bkt.held = [] ∧ (t.core c.val).bkt.holdDrop = min 65535 (b.holdDrop + 1) ∧
      (t.core c.val).bkt.slots = b.slots ∧ (t.core c.val).sp = k.sp) ∧
    (err = 0 → clear → b.held = [] → ∃ t z, exec (.bktArm c v) s = .next t ∧ OnlyCore s t c.val ∧
      (t.core c.val).bkt.slots.find? (bktKey av sl) = some z ∧ z = y ∧ z.state = 0 ∧ (t.core c.val).bkt.armErr = 0 ∧
      (∀ j, j ≠ bktKey av sl → (t.core c.val).bkt.slots.find? j = b.slots.find? j) ∧
      ∀ a, a < 256 * line + 64 ∨ 256 * line + 1280 ≤ a → memByte (t.core c.val).sp.mem a = memByte k.sp.mem a) ∧
    (err ≠ 0 → ∃ t, exec (.bktArm c v) s = .next t ∧ OnlyCore s t c.val ∧
      { (t.core c.val) with bkt := { (t.core c.val).bkt with armErr := b.armErr } } = k ∧ (t.core c.val).bkt.armErr = err) ∧
    (∀ x, b.slots.find? (bktKey av sl) = some x → fld v 9 7 ≤ x.counted - x.released → clear → b.held = [] →
      ∃ t, exec (.bktRel c v) s = .next t ∧ OnlyCore s t c.val ∧ (t.core c.val).bkt.relErr = false ∧
        (t.core c.val).bkt.slots.find? (bktKey av sl) = some { x with released := x.released + fld v 9 7 } ∧
        (t.core c.val).sp = k.sp) ∧
    (∀ x, b.slots.find? (bktKey av sl) = some x → x.counted - x.released < fld v 9 7 →
      ∃ t, exec (.bktRel c v) s = .next t ∧ OnlyCore s t c.val ∧
        { (t.core c.val) with bkt := { (t.core c.val).bkt with relErr := b.relErr } } = k ∧ (t.core c.val).bkt.relErr = true) ∧
    (∀ x, b.slots.find? key = some x → x.state = 0 → x.landings = [] → x.armedAt + x.deadline < s.now → clear → b.held = [] →
      ∃ t z, exec (.slotDeadline c vc slot) s = .next t ∧ OnlyCore s t c.val ∧ (t.core c.val).bkt.slots.find? key = some z ∧
        z.state = 2 ∧ z.byDeadline = true ∧ z.closeAt = max x.deadline (x.touchedAt - x.armedAt) ∧
        (∀ q, (t.core c.val).tok q = if q = x.tcc ∧ k.tok q ≠ 0xFFFFFFFF then k.tok q + 1 else k.tok q) ∧
        (t.core c.val).bkt.emptyClose = min 65535 (b.emptyClose + 1))

/-- With LINK_PKG written and no recovery, enabling a DOWN port, a retrain of an enabled one, and an UP port with a frame
resent 8 times or a replay buffer full for 10 us start training at the highest allowed rate, a retrain also at the
current one (retrains counted). An attempt in which enough lanes pass brings the port UP at the rate tried on those
lanes, its record sent and the unacknowledged frames sent again; one in which too few pass falls to the next allowed
rate. A good frame in order is taken: its FSEQ becomes RXACK, its ACKSEQ frees replayed frames, its corrected symbols
count and a NAK has the rest sent again; any other frame sets the request for a resend. A failing active lane of an UP
port with a spare makes it SPARING with a LANECTL packet on VC0 that names the lane in LINE (log entry 90), sent, or
waiting for credit or for the replay buffer; the trained spare takes the place of the failing lane. With no packet
waiting at the port (and, after a swap, no second failing lane) nothing but this port and what leaves by it changes.
On the conditions on state and operands that each clause names, and on nothing else, exec answers a next state, the
one the clause describes, for: LINK_ENABLE, RETRAIN, REPLAY_TIMEOUT, TRAINING_ATTEMPT_END, LINK_FRAME, LANE_LOCK_LOSS,
LANECTL, LANE_ERROR_WINDOW, SPARE_TRAINED. (R273, R275, R276, R281, R282, R292, 10_chip_to_chip_links.md) -/
def Obligations.LinkPortsTrainAndRecover : Prop :=
  ∀ (s : State) (p : Fin 16) (pass : BitVec 17) (peer : TrainRec) (f : FrameIn) (lane : Fin 17) (corrected : BitVec 32),
    let q := s.port p.val
    let again : Port := { q with alsoRate := q.rate }
    let only := fun (t : State) => { t with links := s.links, out := s.out } = s ∧ { t.links with ports := s.links.ports } = s.links ∧
      ∀ j, j ≠ p.val → t.port j = s.port j
    let mayTrain := s.links.pkgSet = true ∧ s.sec.recovery = false
    let trains := fun (t : State) => only t ∧ (t.port p.val).state = .training ∧ some (t.port p.val).trying = again.rateBelow 4 ∧
      (t.port p.val).retrains = min 255 (q.retrains + 1)
    let fails := fun (t : State) => only { t with free := s.free } ∧ (t.port p.val).state = .sparing ∧ (t.port p.val).swapLane = lane.val ∧
      ∃ (k : Packet) (data : List Byte), k.pkind = 4 ∧ k.vc = 0 ∧ k.dpkg.toNat = q.trecPkg.getD 0 % 4096 ∧ k.line.toNat = lane.val ∧
        if q.room 0 0 2 = true ∧ q.replayRoom 2 = true then Out.packet p.val k data ∈ t.out else (t.port p.val).outq.map (·.k) = [k]
    (mayTrain → q.state = .down → (q.rateBelow 4).isSome = true →
      ∃ t, exec (.linkEnable p) s = .next t ∧ only t ∧ (t.port p.val).state = .training ∧ bit (t.port p.val).ctl 0 = true ∧
        some (t.port p.val).trying = q.rateBelow 4) ∧
    (mayTrain → bit q.ctl 0 = true → (again.rateBelow 4).isSome = true → ∃ t, exec (.retrain p) s = .next t ∧ trains t) ∧
    (mayTrain → q.state = .up → (again.rateBelow 4).isSome = true →
      ((∃ x, x ∈ q.replay ∧ 8 ≤ x.resent) ∨ ∃ w, q.replayFullAt = some w ∧ w + 10000 ≤ s.now) →
      ∃ t, exec (.replayTimeout p) s = .next t ∧ trains t) ∧
    (∀ l, q.state = .training → bit peer.rates (q.trying - 1) = true → laneChoice q.minw pass = some l →
      (∀ c, c < 360 → (s.core c).welt.undelivered = []) → q.outq = [] →
      ∃ t, exec (.trainingAttemptEnd p pass peer) s = .next t ∧ only t ∧ (t.port p.val).state = .up ∧
        (t.port p.val).rate = q.trying ∧ (t.port p.val).active = l.1 ∧ (t.port p.val).spare = l.2 ∧
        (t.port p.val).trecPkg = some peer.pkg.toNat ∧ (t.port p.val).gen1 = peer.gen ∧
        t.out = s.out ++ [.trainRec p.val (s.ownRecord p.val)] ++ q.replay.map (fun x => .frame p.val x.hdr x.slots)) ∧
    (∀ r, q.state = .training → laneChoice q.minw pass = none → q.rateBelow q.trying = some r →
      ∃ t, exec (.trainingAttemptEnd p pass peer) s = .next t ∧ only t ∧ t.port p.val = { q with trying := r }) ∧
    (q.state = .up ∨ q.state = .sparing → f.good = true → f.fseq = q.rxAck + 1 →
      ∃ t, exec (.linkFrame p f) s = .next t ∧ { t with links := s.links, out := s.out, glob := s.glob } = s ∧
        (t.port p.val).rxAck = f.fseq ∧ (t.port p.val).nakSent = false ∧
        (t.port p.val).corrSym = min 0xFFFFFFFF (q.corrSym + f.corrected) ∧ (t.port p.val).state = q.state ∧
        (q.outq = [] → only t ∧
          (t.port p.val).replay.map (·.fseq) = (q.replay.filter (fun x => decide (2048 ≤ (f.ackseq - x.fseq).toNat))).map (·.fseq) ∧
          t.out = s.out ++ (if f.nak = true ∧ q.state = .up then
            (q.replay.filter (fun x => decide (2048 ≤ (f.ackseq - x.fseq).toNat))).map (fun x => .frame p.val x.hdr x.slots) else []))) ∧
    (q.state = .up ∨ q.state = .sparing → ¬ (f.good = true ∧ f.fseq = q.rxAck + 1) →
      ∃ t, exec (.linkFrame p f) s = .next t ∧ only t ∧ t.port p.val =
        { q with nakSent := true, nakDue := q.nakDue || !f.good || !q.nakSent }) ∧
    (q.state = .up → bit q.active lane.val = true → q.spare.isSome = true → q.outq = [] →
      (∃ t, exec (.laneLockLoss p lane) s = .next t ∧ fails t) ∧ (∃ t, exec (.lanectl p lane) s = .next t ∧ fails t) ∧
      (fld q.ctl 32 32 < corrected.toNat → ∃ t, exec (.laneErrorWindow p lane corrected) s = .next t ∧ fails t)) ∧
    (∀ sp, q.state = .sparing → q.spare = some sp → sp < 17 → bit q.active sp = false → q.failing = [] → q.outq = [] →
      (∀ c, c < 360 → (s.core c).welt.undelivered = []) → ∃ t, exec (.spareTrained p) s = .next t ∧ only t ∧
      (t.port p.val).state = .up ∧ (t.port p.val).spare = none ∧ (t.port p.val).swaps = min 255 (q.swaps + 1) ∧
      (t.port p.val).spareFor = q.swapLane ∧
      ∀ i, i < 17 → (bit (t.port p.val).active i = true ↔ i = sp ∨ (bit q.active i = true ∧ i ≠ q.swapLane)))

/-- With no packet waiting behind a held bucket header, and for packets to a core its bay ON: a packet for another package
with a usable port at which none waits and fewer than two hops leaves by that port with one hop more and its data, or
waits there, still in the buffer it came by; with two hops it is dropped and counted. A one-line DATA packet for the
open position of a RECV that names its source fills that line and no other byte; one whose PCRC fails is counted. A
GRANT raises the granted count of its sender or joins a table of fewer than 32 entries; one whose count is no larger
starts the sent count afresh where all is sent and no SEND is under way, and else changes nothing (log entry 89). A
NOTICE that answers a packet of an ACTIVE SEND faults it, one that answers a GRANT notes it as undelivered. A Cinch
message packet of an older epoch is discarded and counted. A route swap 100 us after the last changes the bank in
force, an earlier one only sets its error; LINK_VCARB takes shares of at most 100 in total and rejects others;
LINK_PKG takes its number. On the conditions on state and operands that each clause names, and on nothing else, exec
answers a next state, the one the clause describes, for: PACKET_ROUTE, DATA_PACKET, GRANT, NOTICE, MSG_PACKET,
ROUTE_SWAP, LINK_VCARB_WRITE, LINK_PKG_WRITE. (R273, R280, R284, R285, R286, R288, R289, R290, R291,
10_chip_to_chip_links.md) -/
def Obligations.PacketsReachTheirEndpoint : Prop :=
  ∀ (s : State) (k : Packet) (port p : Fin 16) (line data : List Byte) (slot : SlotId) (about : Packet) (payload : BitVec 256) (v : Word),
    let c := k.dcore.toNat
    let w := (s.core c).welt
    let ch := k.chan.toNat
    let pos := (s.core c).sendBase ch k.line.toNat + k.line.toNat
    let comes := (∀ j, j < 16 → (s.port j).behind = []) ∧ s.barred port.val k.vc.toNat = false
    let on : Packet := { k with hops := k.hops + 1 }
    let mine := k.dpkg.toNat = s.ownPkg
    let whole := mine ∧ k.ok (natBytes 32 payload.toNat) = true
    let reached := c < 360 → (s.bay (c / 30)).state = .on
    let early := ∃ t0, s.links.lastSwap = some t0 ∧ s.now < t0 + 100000
    (∀ j, ¬ mine → comes → s.routeOf k.dpkg.toNat k.vc.toNat = .via j → k.hops.toNat < 2 → (s.port j).outq = [] →
      ∃ t, exec (.packetRoute ⟨k, port, data⟩) s = .next t ∧ { t with links := s.links, glob := s.glob, out := s.out, fab := s.fab } = s ∧
        (∀ i, i ≠ j → i ≠ port.val → t.port i = s.port i) ∧
        (if (s.port j).mayStart on then (t.port j).outq = [] ∧ Out.packet j on data ∈ t.out
          else (t.port j).outq = [⟨on, data, 0, some (port.val, k)⟩] ∧ t.out = s.out)) ∧
    (∀ j, ¬ mine → comes → s.routeOf k.dpkg.toNat k.vc.toNat = .via j → 2 ≤ k.hops.toNat →
      ∃ t, exec (.packetRoute ⟨k, port, data⟩) s = .next t ∧
      (t.port j).routeHops = min 65535 ((s.port j).routeHops + 1) ∧ t.hbm = s.hbm ∧ ∀ d, (t.core d).sp = (s.core d).sp) ∧
    (∀ n, mine → comes → reached → k.ok line = true → line.length = 256 → c < 360 → ch ≠ 31 → (s.core c).recvAt ch pos = some n →
      (s.core c).filled ch pos = false →
      let d := ((s.core c).slot n).desc
      let i := pos - ((s.core c).slot n).start
      let a := 256 * (((s.core c).slot n).dstBase + wRow d i * dDstr d + wCol d i)
      wRemote d = true → wPkg d = k.spkg.toNat → wCore d = k.score.toNat →
      s.runFault c [] a (wBytes d i) = none →
      ∃ t, exec (.dataPacket k port [line]) s = .next t ∧ { t with cores := s.cores, links := s.links } = s ∧ (∀ e, e ≠ c → t.core e = s.core e) ∧
        (t.core c).spRead a (wBytes d i) = line.take (wBytes d i) ∧
        (∀ b, b < a ∨ a + wBytes d i ≤ b → memByte (t.core c).sp.mem b = memByte (s.core c).sp.mem b) ∧
        ((t.core c).slot n).moved = ((s.core c).slot n).moved + 1 ∧ ∀ m, m ≠ n → (t.core c).slot m = (s.core c).slot m) ∧
    (mine → comes → reached → k.ok line = false → ∃ t, exec (.dataPacket k port [line]) s = .next t ∧
      (t.port port.val).e2eFail = min 65535 ((s.port port.val).e2eFail + 1) ∧ ∀ d, (t.core d).sp = (s.core d).sp) ∧
    (∀ e, whole → reached → c < 360 → w.grants.find? (fun g => g.pkg = k.spkg.toNat && g.core = k.score.toNat && g.chan = ch) = some e →
      ∃ t, exec (.grant ⟨k, port, natBytes 32 payload.toNat⟩) s = .next t ∧ OnlyCore s { t with links := s.links } c ∧ { (t.core c) with welt := w } = s.core c ∧
        (t.core c).welt.grants.find? (fun g => g.pkg = k.spkg.toNat && g.core = k.score.toNat && g.chan = ch) =
          some (if e.granted < k.line.toNat then { e with granted := k.line.toNat }
            else if e.granted ≤ e.sent ∧ (s.core c).sendBegun k = false then { e with granted := k.line.toNat, sent := 0 } else e)) ∧
    (whole → reached → c < 360 → w.grants.length < 32 →
      w.grants.find? (fun g => g.pkg = k.spkg.toNat && g.core = k.score.toNat && g.chan = ch) = none →
      ∃ t, exec (.grant ⟨k, port, natBytes 32 payload.toNat⟩) s = .next t ∧ OnlyCore s { t with links := s.links } c ∧
        (t.core c).welt.grants = w.grants ++ [⟨k.spkg.toNat, k.score.toNat, ch, k.line.toNat, 0⟩]) ∧
    (mine → reached → k.ok (natBytes 32 about.hdr.toNat) = true → about.pkind = 0 → s.sendActive about slot.val = true →
      (noticeCode k.line.toNat).isSome = true →
      ∃ t, exec (.notice ⟨k, port, about⟩ slot) s = .next t ∧ ((t.core about.score.toNat).slot slot.val).state = .faulted ∧
        { t with cores := s.cores, links := s.links, fab := s.fab, reports := s.reports, saddleReports := s.saddleReports } = s ∧
        ∀ m, m ≠ slot.val → (t.core about.score.toNat).slot m = (s.core about.score.toNat).slot m) ∧
    (mine → reached → k.ok (natBytes 32 about.hdr.toNat) = true → about.pkind = 1 → about.score.toNat < 360 →
      ∃ t, exec (.notice ⟨k, port, about⟩ slot) s = .next t ∧
        (about.dpkg.toNat, about.dcore.toNat, about.chan.toNat) ∈ (t.core about.score.toNat).welt.undelivered ∧
        { t with cores := s.cores, links := s.links, fab := s.fab, reports := s.reports, saddleReports := s.saddleReports } = s ∧
        ∀ d, (t.core d).sp = (s.core d).sp) ∧
    (whole → reached → k.epoch.toNat < s.cinch.epoch.toNat → ∃ t, exec (.msgPacket ⟨k, port⟩ payload) s = .next t ∧
      { t with cinch := s.cinch, links := s.links, fab := s.fab } = s ∧ t.cinch = { s.cinch with staleMsg := min 65535 (s.cinch.staleMsg + 1) }) ∧
    (¬ early → (∀ d, d < 360 → (s.core d).welt.undelivered = []) → ∃ t, exec .routeSwap s = .next t ∧
      { t with links := s.links } = s ∧ t.links = { s.links with
        bankB := !s.links.bankB
        swapErr := false
        lastSwap := some s.now }) ∧
    (early → ∃ t, exec .routeSwap s = .next t ∧ { t with links := s.links } = s ∧ t.links = { s.links with swapErr := true }) ∧
    (vcarbTotal v ≤ 100 → ∃ t, exec (.linkVcarbWrite p v) s = .next t ∧ { t with links := s.links } = s ∧
      (∀ i, i < 6 → fld (t.port p.val).vcarb (7 * i) 7 = fld v (7 * i) 7) ∧ ∀ j, j ≠ p.val → t.port j = s.port j) ∧
    (100 < vcarbTotal v → exec (.linkVcarbWrite p v) s = .next s) ∧
    (∃ t, exec (.linkPkgWrite v) s = .next t ∧ { t with links := s.links } = s ∧ t.links = { s.links with
      pkg := v.setWidth 12
      pkgSet := true })

/-- A NORM part of a listed core for the current round, with its CLIP_E, not sent before, leaves its core and adds its
value, count and flags to the own norm of the package. Another member's total for the round joins the step norm while
own parts are missing. When it completes the norm of a package alone in its group, with no total added before, no tier
read outstanding and a listed core not yet ready, the step is decided: an update only when no part is NF, the state is
finite and the norm is below infinity, and one message goes to every listed core. A message for another step or epoch
only counts as stale. On the conditions on state and operands that each clause names, and on nothing else, exec
answers a next state, the one the clause describes, for: NORM, CINCH_TOTAL_EXCHANGE. (R261, R262, R263, R386,
09_optimizer_and_step_commit.md) -/
def Obligations.NormPartsAreSummedAndDecided : Prop :=
  ∀ (s : State) (c : CoreId) (p0 : BitVec 256) (pkg : BitVec 12) (step epoch : BitVec 32) (tot : NormTotal),
    let x := s.cinch
    let p := (s.core c.val).nfOut p0
    let part := c.val * 4 + fld p 8 2
    let own := normPlus x.own (partTotal p)
    let sum := normPlus x.total own
    let nsq := (f32 (match sum.state with | 0 => XVal.ofDy sum.v x.clipE | 1 => .inf false | 2 => .inf true | _ => .nan)).1
    let full := ∀ d, x.lists d = true → ∀ i, i < 3 → d * 4 + i ∈ x.parts ∨ d * 4 + i = part
    (x.state = .idle ∨ x.state = .collect → (s.core c.val).headOut 0 = some p0 → fld p0 0 8 = 1 → x.normBad c.val p = false →
      (¬ full → ∃ t, exec (.norm c) s = .next t ∧ { t with cores := s.cores, cinch := s.cinch, fab := s.fab } = s ∧
        (t.core c.val).seq.outbound = (s.core c.val).seq.outbound.drop 1 ∧ (∀ d, d ≠ c.val → t.core d = s.core d) ∧
        t.cinch.state = .collect ∧ t.cinch.parts = x.parts ++ [part] ∧ t.cinch.own = own ∧ t.cinch.total = x.total ∧
        t.cinch.committed = x.committed) ∧
      (full → x.members = [] → x.totals = [] → s.tierWaits = false → s.safety.saddleStopped = false →
        (∃ d, x.lists d = true ∧ d ∉ x.ready) → ∃ t, exec (.norm c) s = .next t ∧ t.cinch.state = .decided ∧
        t.cinch.total = sum ∧ t.cinch.decision = some (!sum.nf && sum.state = 0 && !(f32v nsq).isInf) ∧
        t.cinch.normsq = BitVec.ofNat 32 nsq ∧ t.mboxes.map (·.core) = s.mboxes.map (·.core) ++ x.listed ∧
        t.cinch.committed = x.committed ∧ ∀ d, (t.core d).sp = (s.core d).sp)) ∧
    (x.current step.toNat epoch.toNat = true → x.state = .idle ∨ x.state = .collect → pkg.toNat ∈ s.others → pkg.toNat ∉ x.totals →
      x.ownDone = false → ∃ t, exec (.cinchTotalExchange pkg step epoch tot) s = .next t ∧ { t with cinch := x } = s ∧
        t.cinch.state = .collect ∧ t.cinch.totals = x.totals ++ [pkg.toNat] ∧ t.cinch.total = normPlus x.total tot ∧
        t.cinch.own = x.own ∧ t.cinch.parts = x.parts ∧ t.cinch.committed = x.committed) ∧
    (x.current step.toNat epoch.toNat = false → ∃ t, exec (.cinchTotalExchange pkg step epoch tot) s = .next t ∧
      { t with cinch := x } = s ∧ t.cinch = { x with staleMsg := min 65535 (x.staleMsg + 1) })

/-- For the current round: a READY of a listed core while another listed core is not ready is kept with its NF_UPD. The
last READY of a decided step, for a package alone in its group, commits: COMMITTED_STEP rises by one, the round is
over and LIVE of every listed core flips exactly when the step was an update and no core voted NF_UPD. MIRROR_IN is
kept with its core and package, and with the last of them the mirror of the package is held; MIRROR_HELD and PREPARED
(before the own PREPARED) are kept with their package, the latter with NF_UPD. On the conditions on state and operands
that each clause names, and on nothing else, exec answers a next state, the one the clause describes, for: READY,
MIRROR_IN, MIRROR_HELD, PREPARED. (R265, R266, R267, R268, R269, 09_optimizer_and_step_commit.md) -/
def Obligations.ReadyMirrorsAndPreparedCommitTheStep : Prop :=
  ∀ (s : State) (c : CoreId) (p : BitVec 256) (pkg : BitVec 12) (step epoch : BitVec 32) (nf flash store : Bool),
    let x := s.cinch
    let k := s.core c.val
    let now := x.current step.toNat epoch.toNat = true ∧ x.state ≠ .resolve
    let head := fun (type : Nat) => k.headOut 0 = some p ∧ fld p 0 8 = type ∧ x.current (fld p 32 32) (fld p 64 32) = true ∧
      x.state ≠ .resolve
    let waits := ∃ d, x.lists d = true ∧ d ≠ c.val ∧ d ∉ x.ready
    let popped := fun (t : State) => (t.core c.val).seq.outbound = k.seq.outbound.drop 1
    (head 2 → x.lists c.val = true → waits → ∃ t, exec (.ready c) s = .next t ∧ { t with cores := s.cores, cinch := x, fab := s.fab } = s ∧ popped t ∧
      (∀ d, d ≠ c.val → t.core d = s.core d) ∧ t.cinch.ready = insertSet c.val x.ready ∧
      t.cinch.nfUpd = (x.nfUpd || bit p 128) ∧ t.cinch.state = x.state ∧ t.cinch.committed = x.committed) ∧
    (head 2 → x.lists c.val = true → (∀ d, x.lists d = true → d = c.val ∨ d ∈ x.ready) → x.state = .decided → x.members = [] →
      ∃ t, exec (.ready c) s = .next t ∧ popped t ∧ t.cinch.committed = x.committed + 1 ∧ t.cinch.state = .idle ∧ t.cinch.ready = [] ∧
        t.cinch.parts = [] ∧ (∀ d, (t.core d).sp = (s.core d).sp) ∧
        ∀ d, (t.core d).cinch = if x.lists d = true ∧ x.decision = some true ∧ x.nfUpd = false ∧ bit p 128 = false ∧ x.groupNf = false
          then (s.core d).cinch ^^^ 1 else (s.core d).cinch) ∧
    (head 3 → ∃ t, exec (.mirrorIn c) s = .next t ∧ popped t ∧ (c.val, fld p 128 12) ∈ t.cinch.mirrorIn ∧
      (∀ e, e ∈ x.mirrorIn → e ∈ t.cinch.mirrorIn) ∧ { t.cinch with mirrorIn := x.mirrorIn, mirrors := x.mirrors } = x ∧
      ((∀ d, d < 360 → Config.mirrorReceiver (fld p 128 12) d = true → (d, fld p 128 12) ∈ t.cinch.mirrorIn) →
        (fld p 128 12, x.round) ∈ t.cinch.mirrors)) ∧
    (now → (∃ d, x.lists d = true ∧ d ∉ x.ready) → ∃ t, exec (.mirrorHeld pkg step epoch) s = .next t ∧ { t with cinch := x } = s ∧
      t.cinch = { x with mirrorHeld := insertSet pkg.toNat x.mirrorHeld }) ∧
    (now → x.state ≠ .prepared → pkg.toNat ∈ s.others → ∃ t, exec (.prepared pkg step epoch nf flash store) s = .next t ∧
      { t with cinch := x, ckpt := s.ckpt } = s ∧
      t.cinch = { x with
        preparedBy := insertSet pkg.toNat x.preparedBy
        groupNf := x.groupNf || nf } ∧
      t.ckpt = if pkg.toNat = s.leader then { s.ckpt with
        markStore := store
        markFlash := flash || store
        lastStore := if store then s.now else s.ckpt.lastStore
        lastFlash := if flash || store then s.now else s.ckpt.lastFlash } else s.ckpt)

/-- A member that owes a message for longer than the timeout, or whose loss a link-failure notice reports, puts Cinch into
RESOLVE and joins the packages reported lost; with no bucket slot armed no core is touched. EPOCH_GO with a sound
table that names this package and other members, none of whose digests has come before, takes the epoch and the
members, forgets digests and views and keeps its own digest; any other sets EPOCH_ST.ERR only, beside what the read of
the table corrects or reports. A digest for the loaded epoch that differs from the own one sets the mismatch, with
RESOLVE and a report; an equal one is kept while others are missing; one of a newer epoch waits for it, and one of an
older epoch only counts as stale. A survivor's view for the epoch is kept while another survivor's is missing, and one
for an older epoch only counts as stale. On the conditions on state and operands that each clause names, and on
nothing else, exec answers a next state, the one the clause describes, for: ROUND_TIMEOUT, LINK_FAILURE_NOTICE,
EPOCH_GO, EPOCH_DIGEST, OUTCOME_EXCHANGE. (R270, R293, R307, R391, R392, 09_optimizer_and_step_commit.md) -/
def Obligations.LostMembersAndNewEpochs : Prop :=
  ∀ (s : State) (pkg : BitVec 12) (epoch : BitVec 16) (e32 : BitVec 32) (digest : TableHash) (view : StepView),
    let x := s.cinch
    let z := s.ckpt
    let u := (s.readTable epoch.toNat).1
    let tbl := (s.readTable epoch.toNat).2
    let err := s.epochError epoch.toNat tbl
    let known := digest.epoch = x.epoch ∧ pkg.toNat ∈ s.others
    (s.owes pkg.toNat = true → x.roundAt + x.tmo.toNat ≤ s.now → ∃ t, exec (.roundTimeout pkg) s = .next t ∧
      { t with cinch := x, ckpt := z, reports := s.reports, saddleReports := s.saddleReports } = s ∧
      t.cinch = { x with
        state := .resolve
        roundAt := s.now } ∧ t.ckpt.lost = insertSet pkg.toNat z.lost ∧
      (s.rst.running = [] → ∃ r, t.reports = s.reports ++ [r] ∧ r.code = codeMemberLost ∧ r.detail = pkg.toNat)) ∧
    (pkg.toNat ∉ s.links.notices → exec (.linkFailureNotice pkg) s = .next s) ∧
    (pkg.toNat ∈ s.links.notices → ∃ t, exec (.linkFailureNotice pkg) s = .next t ∧ t.ckpt.lost = insertSet pkg.toNat z.lost ∧
      t.cinch.state = (if pkg.toNat ∈ s.others then .resolve else x.state) ∧ t.cinch.committed = x.committed ∧
      ((∀ c, c < 360 → (s.core c).bkt.slots = []) → t.cores = s.cores)) ∧
    (∀ tb, tbl = some tb → err = 0 → (∃ m, m ∈ tb.members ∧ m.pkg ≠ s.ownPkg) → (∀ e, e ∈ z.early → e.2.epoch ≠ epoch) →
      ∃ t, exec (.epochGo epoch) s = .next t ∧
      t.cinch.epoch = epoch ∧ t.cinch.members = tb.members ∧ t.cinch.oldMembers = x.members ∧ t.cinch.committed = x.committed ∧
      t.ckpt.epochErr = 0 ∧ t.ckpt.ownDigest = tb.digest ∧ t.ckpt.digests = [] ∧ t.ckpt.views = [] ∧ t.ckpt.mismatch = false ∧
      ∀ c, (t.core c).sp = (s.core c).sp) ∧
    (err ≠ 0 → ∃ t, exec (.epochGo epoch) s = .next t ∧ { t with ckpt := u.ckpt } = u ∧ t.ckpt = { u.ckpt with epochErr := err }) ∧
    (known → digest.value ≠ z.ownDigest → ∃ t, exec (.epochDigest pkg digest) s = .next t ∧ t.ckpt = { z with mismatch := true } ∧
      t.cinch = { x with state := .resolve } ∧
      (s.rst.running = [] → ∃ r, t.reports = s.reports ++ [r] ∧ r.code = codeEpochMismatch ∧ r.detail = pkg.toNat)) ∧
    (known → digest.value = z.ownDigest → (∃ p, p ∈ s.others ∧ p ≠ pkg.toNat ∧ p ∉ z.digests) →
      ∃ t, exec (.epochDigest pkg digest) s = .next t ∧ { t with ckpt := z } = s ∧
        t.ckpt = { z with digests := insertSet pkg.toNat z.digests }) ∧
    (x.epoch.toNat < digest.epoch.toNat → ∃ t, exec (.epochDigest pkg digest) s = .next t ∧ { t with ckpt := z } = s ∧
      (pkg.toNat, digest) ∈ t.ckpt.early ∧ { t.ckpt with early := z.early } = z ∧ ∀ e, e ∈ z.early → e ∈ t.ckpt.early) ∧
    (digest.epoch.toNat < x.epoch.toNat → ∃ t, exec (.epochDigest pkg digest) s = .next t ∧ { t with cinch := x } = s ∧
      t.cinch = { x with staleMsg := min 65535 (x.staleMsg + 1) }) ∧
    (e32.toNat = x.epoch.toNat → view.pkg ∈ s.survivors → view.pkg ≠ s.ownPkg →
      (∃ p, p ∈ s.survivors ∧ p ≠ view.pkg ∧ ∀ w, w ∈ z.views → w.pkg ≠ p) →
      ∃ t, exec (.outcomeExchange e32 view) s = .next t ∧ { t with ckpt := z } = s ∧
        t.ckpt = { z with views := z.views.filter (fun w => decide (w.pkg ≠ view.pkg)) ++ [view] }) ∧
    (e32.toNat < x.epoch.toNat → ∃ t, exec (.outcomeExchange e32 view) s = .next t ∧ { t with cinch := x } = s ∧
      t.cinch = { x with staleMsg := min 65535 (x.staleMsg + 1) })

/-- TIER_READ_DONE of an outstanding step forgets it and, for a partner step, sets PARTNER_STEP. A member's flash part is
kept at the leader while others are missing; with the last one, or at the leader's announcement, FLASH_STEP is the
step, and for the store STORE_STEP. The next chunk of a running fill counts as done; its bytes, from a package, are
written to the shard; a spare takes the step of the fill with the record that came before its first chunk. With its
last chunk a fill of part of the shard, or one from the store, is COMPLETE when no other fill or rebuilding waits. A
fill whose chunk does not land in time counts a switch, does not ask that source again and reads from the other live
partner with its position kept, else from the store, where a new target restarts the count at the chunk that was next;
one that reads from the store tries again. On the conditions on state and operands that each clause names, and on
nothing else, exec answers a next state, the one the clause describes, for: TIER_READ_DONE, TIER_PART_WRITTEN,
TIER_COMPLETE, FILL_CHUNK_LANDED, FILL_TIMEOUT. (R386, R387, R388, R396, R397, R398, 14_failure_survival.md) -/
def Obligations.TiersAndFillsProgress : Prop :=
  ∀ (s : State) (step : BitVec 32) (pkg : BitVec 12) (store : Bool) (chunk : ChunkIn),
    let z := s.ckpt
    let f := z.fill
    let n := step.toNat
    let due := n % max 1 (fld z.ctl 0 8) = 0 ∧ s.partners s.ownPkg ≠ []
    let running := 1 ≤ f.state ∧ f.state ≤ 3
    let late := f.chunkAt + fld z.ctl 41 16 * 1000 ≤ s.now
    let other := if f.state = 1 then f.partnerB else f.partnerA
    let alive := other ≠ 0xFFFF ∧ other ∉ z.lost
    let next := running ∧ chunk.chunk.toNat = (f.redo + f.done) % f.total
    let part := f.fromStore = true ∨ ∀ m, s.cinch.member s.ownPkg = some m → m.shardBase ≠ f.base ∨ m.shardLen ≠ f.len
    (n ∈ z.reads → s.cinch.state ≠ .collect → ∃ t, exec (.tierReadDone step) s = .next t ∧ { t with ckpt := z } = s ∧
      n ∉ t.ckpt.reads ∧ (∀ m, m ≠ n → (m ∈ t.ckpt.reads ↔ m ∈ z.reads)) ∧
      (due → t.ckpt.partnerStep = step) ∧ (¬ due → t.ckpt.partnerStep = z.partnerStep)) ∧
    (pkg.toNat ∈ s.group → s.leader = s.ownPkg → (pkg.toNat, n, store) ∉ z.parts →
      ((∃ p, p ∈ s.group ∧ p ≠ pkg.toNat ∧ (p, n, store) ∉ z.parts) → ∃ t, exec (.tierPartWritten pkg step store true) s = .next t ∧
        { t with ckpt := z } = s ∧ t.ckpt = { z with parts := z.parts ++ [(pkg.toNat, n, store)] }) ∧
      ((∀ p, p ∈ s.group → p = pkg.toNat ∨ (p, n, store) ∈ z.parts) → ∃ t, exec (.tierPartWritten pkg step store true) s = .next t ∧
        (if store then t.ckpt.storeStep = step ∧ t.ckpt.flashStep = z.flashStep ∧ t.flash.latest = true
          else t.ckpt.flashStep = step ∧ t.ckpt.storeStep = z.storeStep) ∧ ∀ c, (t.core c).sp = (s.core c).sp)) ∧
    (∃ t, exec (.tierComplete step store) s = .next t ∧
      { t with gens := s.gens, ckpt := z, flash := s.flash, storeRec := s.storeRec } = s ∧
      (if store then t.ckpt = { z with storeStep := step } ∧ t.flash.latest = true else t.ckpt = { z with flashStep := step }) ∧
      ∀ g, g ∈ t.gens → g.step = n → if store then g.store = true else g.done = true) ∧
    (next → f.done + 1 < f.total → ∃ t, exec (.fillChunkLanded chunk) s = .next t ∧
      { t with ckpt := z, cinch := s.cinch, hbm := s.hbm } = s ∧
      t.hbm = (if f.fromStore then s else s.shardPut (s.fillOff + 67108864 * chunk.chunk.toNat) (chunk.data.take 67108864)).hbm ∧
      t.cinch.committed = (if f.record = none ∧ s.cinch.isSpare s.ownPkg = true then f.target else s.cinch.committed) ∧
      t.ckpt.fill = { f with
        done := f.done + 1
        chunkAt := s.now
        record := some (f.record.getD chunk.record) }) ∧
    (next → f.done + 1 = f.total → part → z.fills = [] → z.rebuild = none → ∃ t, exec (.fillChunkLanded chunk) s = .next t ∧
      t.ckpt.fill.state = 4 ∧ t.ckpt.fill.done = f.total ∧ t.ckpt.fill.total = f.total) ∧
    (f.state = 1 ∨ f.state = 2 → late → ∃ t, exec .fillTimeout s = .next t ∧
      t.ckpt.fill.switches = min 32767 (f.switches + 1) ∧ t.ckpt.fill.chunkAt = s.now ∧ t.ckpt.fill.total = f.total ∧
      (if f.state = 1 then t.ckpt.fill.partnerA else t.ckpt.fill.partnerB) = 0xFFFF ∧
      (alive → t.ckpt.fill.state = 3 - f.state ∧ t.ckpt.fill.source = other ∧ t.ckpt.fill.done = f.done ∧ t.ckpt.fill.redo = f.redo ∧
        { t with ckpt := z, reports := s.reports, saddleReports := s.saddleReports } = s) ∧
      (¬ alive → t.ckpt.fill.state = 3 ∧ t.ckpt.fill.target = z.storeStep ∧
        if f.target = z.storeStep then t.ckpt.fill.done = f.done ∧ t.ckpt.fill.redo = f.redo
        else t.ckpt.fill.done = 0 ∧ t.ckpt.fill.redo = (f.redo + f.done) % max 1 f.total)) ∧
    (f.state = 3 → late → ∃ t, exec .fillTimeout s = .next t ∧ { t with ckpt := z } = s ∧
      t.ckpt = { z with fill := { f with chunkAt := s.now } })

/-- Each message whose last datagram comes in order from the peer of its session is taken by its lane and completes. A
JOIN that nothing refuses, for a request the partition does not know and no held CANCEL names, and a RESUME of a
paused request join the waiting joins at the end with the next order number; LEAVE, PAUSE and REBIND join the waiting
operations with their step tag; one that arrives after its decision is counted. PREFIX_DROP marks its handle. A CANCEL
of a running request makes it leave with one final CANCELLED entry held for its ring; one of an unknown request is
held with its time. No core and no other partition changes. A datagram with a wrong header, on a session that is not
open or from another peer is only counted. On the conditions on state and operands that each clause names, and on
nothing else, exec answers a next state, the one the clause describes, for: JOIN, RESUME, LEAVE, PAUSE, PREFIX_DROP,
REBIND, CANCEL. (R325, R326, R350, R357, R358, R405, R406, R410, R419, 12_serving.md, 15_host_port_and_transport.md) -/
def Obligations.RosterMessagesAreQueued : Prop :=
  ∀ (s : State) (d : Datagram) (part : Fin 12) (step : BitVec 32) (j : JoinRec) (req : Word) (h : BitVec 32) (g : BitVec 16),
    let p := part.val
    let v := s.serveOf p
    let late := if step.toNat ≤ v.step.toNat then min 65535 (v.lateRoster + 1) else v.lateRoster
    let roster := fun (bytes : Nat) => s.Message d 3 0x38 bytes
    let apart := fun (t : State) => { t with serve := s.serve } = s.taken d ∧ ∀ q, q ≠ p → t.serveOf q = s.serveOf q
    let queued := fun (t : State) => apart t ∧ t.serveOf p = { v.queueJoin d.asker step.toNat j with lateRoster := late }
    let op := fun (o : RosterOp) (t : State) => apart t ∧ t.serveOf p = { v with
      lateRoster := late
      ops := v.ops ++ [(step.toNat, d.asker, o)] }
    (roster (rosterBytes j.prompt) → promptOk j = true →
      (v.knows j.req.toNat = false → j.resume = false → v.joinRefused j = none → s.cancelHeld p j.req.toNat = false →
        ∃ t, exec (.join d part step j) s = .next t ∧ queued t) ∧
      (∀ r, j.resume = true → (∀ x, x ∈ v.joins → x.jrec.req ≠ j.req) → v.req j.req.toNat = some r → r.paused = true →
        ∃ t, exec (.resume d part step j) s = .next t ∧ queued t)) ∧
    (roster 16 →
      (∃ t, exec (.leave d part step req) s = .next t ∧ op (.leave req) t) ∧
      (∃ t, exec (.pause d part step req) s = .next t ∧ op (.pause req) t) ∧
      (∀ x, v.handle req.toNat = some x → ∃ t, exec (.prefixDrop d part req) s = .next t ∧ apart t ∧
        (t.serveOf p).handle req.toNat = some { x with dropped := true })) ∧
    (roster 32 → ∃ t, exec (.rebind d part step req h g) s = .next t ∧ op (.rebind req h.toNat g.toNat) t) ∧
    (s.Message d 0 0x39 16 →
      (v.knows req.toNat = false → s.query p req.toNat = none → ∃ t, exec (.cancel d part req) s = .next t ∧ apart t ∧
        t.serveOf p = { v with cancels := v.cancels ++ [(req.toNat, d.asker, s.now)] }) ∧
      (∀ r, (∀ x, x ∈ v.joins → x.jrec.req ≠ req) → v.req req.toNat = some r → r.paused = false → r.leaving = 0 → r.finalSent = false →
        ∃ t r', exec (.cancel d part req) s = .next t ∧ t.cores = s.cores ∧ t.hbm = s.hbm ∧
          (∀ q, q ≠ p → t.serveOf q = s.serveOf q) ∧ (t.serveOf p).req req.toNat = some r' ∧ r'.leaving = 3 ∧
          r'.leaveStep = v.step.toNat ∧ r'.queue = [r.noToken flagCancelled v.step] ∧
          r'.slot = r.slot ∧ r'.pages = r.pages ∧ (t.serveOf p).cancelCnt = min 65535 (v.cancelCnt + 1))) ∧
    (s.datagramOk d = false → ∀ c, c ∈ ([.join d part step j, .resume d part step j, .leave d part step req, .pause d part step req,
        .rebind d part step req h g, .prefixDrop d part req, .cancel d part req] : List Instr) →
      ∃ t, exec c s = .next t ∧ Discarded s t)

/-- A model that is not resident and whose entry is sound enters the table with all its pages free, and its hot set is
listed; an unload removes both. An adapter load makes its generation the current one of its handle. With the tail of
the step before done and outside RECOVERY, the decision counts the step up and opens its tail; a lone new join that
fits is admitted into slot 0 with its prompt still to be read. A tail leaves no request with a slot that was due to
leave. A cancel notice marks its request and drops its tokens in flight, and an expired held CANCEL is forgotten.
Neither a decision nor a tail changes a core. On the conditions on state and operands that each clause names, and on
nothing else, exec answers a next state, the one the clause describes, for: MODEL_LOAD, MODEL_UNLOAD, ADAPTER_LOAD,
ADMISSION_DECISION, STEP_TAIL, CANCEL_NOTICE, CANCEL_HOLD_EXPIRY. (R323, R326, R328, R329, R352, R353, R358, R368,
R419, 12_serving.md) -/
def Obligations.ServingStepsModelsAndAdapters : Prop :=
  ∀ (s : State) (i : Fin 16) (part : Fin 12) (model : Fin 16) (m : ModelRec) (h : BitVec 32) (g : BitVec 16) (rank bytes : Nat)
      (addr : BitVec 41) (req : Word),
    let p := part.val
    let v := s.serveOf p
    let n := v.step.toNat + 1
    (v.model model.val = none → s.modelBad p model.val m = false → m.maxctx / 256 + 1 ≤ m.kvPages →
      ∃ t, exec (.modelLoad i part model m) s = .next t ∧ (t.serveOf p).model model.val = some ({ mrec := m, free := m.kvPages, pending := 0, prefPages := 0, lines := [] } : Model) ∧
        (∀ k, k ≠ model.val → (t.serveOf p).model k = v.model k) ∧ (∀ q, q ≠ p → t.serveOf q = s.serveOf q) ∧
        model.val ∈ (t.schedOf p).lcHot ∧ t.hbm.mem = s.hbm.mem ∧ ∀ c, (t.core c).seq = (s.core c).seq) ∧
    (∃ t, exec (.modelUnload i part model) s = .next t ∧ { t with serve := s.serve, sched := s.sched } = s ∧
      (t.serveOf p).model model.val = none ∧ (∀ k, k ≠ model.val → (t.serveOf p).model k = v.model k) ∧
      model.val ∉ (t.schedOf p).lcHot) ∧
    (h ≠ 0 → g ≠ 0 → 0 < rank → rank ≤ 256 → v.adapters.length < 4096 →
      ∃ t a, exec (.adapterLoad i part h g rank addr bytes) s = .next t ∧ (t.serveOf p).adapter h.toNat 0 = some a ∧
        a.gen = g.toNat ∧ a.rank = rank ∧ t.cores = s.cores ∧ t.hbm.mem = s.hbm.mem ∧ ∀ q, q ≠ p → t.serveOf q = s.serveOf q) ∧
    (v.tailOpen = false → s.sec.recovery = false → ∃ t, exec (.admissionDecision part) s = .next t ∧ t.cores = s.cores ∧ t.hbm = s.hbm ∧
      (t.serveOf p).step = BitVec.ofNat 32 n ∧ (t.serveOf p).tailOpen = true ∧ (t.serveOf p).pstate = fld v.ctl 0 2 ∧
      (∀ q, q ≠ p → t.serveOf q = s.serveOf q) ∧
      ∀ x y, v.joins = [x] → v.reqs = [] → v.owed = [] → v.ops = [] → v.fieldNew = 0 → x.jrec.resume = false → x.step ≤ n → v.joinRefused x.jrec = none →
        v.model x.jrec.model = some y → cdiv (v.needOf x.jrec y.mrec + 256 * x.jrec.chunk) 256 ≤ y.free + y.pending →
        s.draftFits y.mrec (storeNeed x.jrec y.mrec) = true →
        (t.serveOf p).joins = [] ∧ ∃ r, (t.serveOf p).reqs = [r] ∧ r.jrec = x.jrec ∧ r.sess = x.sess ∧ r.slot = some 0 ∧
          r.promptLeft = x.jrec.prompt ∧ r.emitted = 0 ∧ r.pages = cdiv (v.needOf x.jrec y.mrec + 256 * x.jrec.chunk) 256) ∧
    (v.tailOpen = true → ∃ t, exec (.stepTail part) s = .next t ∧ t.cores = s.cores ∧ t.hbm = s.hbm ∧
      (t.serveOf p).tailOpen = false ∧ (t.serveOf p).step = v.step ∧ (∀ q, q ≠ p → t.serveOf q = s.serveOf q) ∧
      ∀ r, r ∈ (t.serveOf p).reqs → r.leaving ≠ 0 → r.leaveStep + 1 ≤ v.step.toNat → r.slot = none) ∧
    (∀ r, v.req req.toNat = some r → r.leaving = 3 → r.noticed = false → r.slot.isSome = true →
      ∃ t, exec (.cancelNotice part req) s = .next t ∧ t.cores = s.cores ∧ (∀ q, q ≠ p → t.serveOf q = s.serveOf q) ∧
        (t.serveOf p).req req.toNat = some { r with
          noticed := true
          fly := [] }) ∧
    (∀ c, v.cancels.find? (fun x => decide (x.1 = req.toNat)) = some c → c.2.2 + 1000 * fld s.host.hold 0 16 < s.now →
      ∃ t, exec (.cancelHoldExpiry part req) s = .next t ∧ t.cores = s.cores ∧ (∀ q, q ≠ p → t.serveOf q = s.serveOf q) ∧
        t.serveOf p = { v with cancels := v.cancels.erase c })

/-- A draft record with all drafts of its slot is kept at the target Tap. In an ON bay a token line fills its group's line
of the first RECV for Tap that still lacks it, at its offset in that pass, and no other byte, and a line of an input
without its CRC the next line of the channel, when that is such a RECV's; a token line without such a RECV of its
partition, or for another die whose bay is not ON, is discarded. A token in flight joins the entries held for the ring
while fewer than 64 wait, and the time from which they coalesce is kept. When they are due and lane 3 can send,
entries that fit in one write leave the queue, the count of entries started grows by their number, and a final one is
marked as sent. The end of a pause copy is kept with its time and its one final PAUSED entry follows the tokens on
their way; a paused cache at its TTL is discarded, counted, and its request no longer paused; a loaded cache leaves
the flash and its request may run. On the conditions on state and operands that each clause names, and on nothing
else, exec answers a next state, the one the clause describes, for: DRAFT_RECORD, TOKEN_LINE, TAP_TOKEN,
RING_WRITE_TIMER, PAUSE_COPY_DONE, PAUSED_CACHE_EXPIRY, RESUME_LOAD_DONE. (R61, R341, R342, R347, R348, R355, R356,
R357, R420, 12_serving.md) -/
def Obligations.TokensReachTheirRing : Prop :=
  ∀ (s : State) (c : CoreId) (chan : BitVec 5) (part : Fin 12) (req : Word),
    let p := part.val
    let v := s.serveOf p
    let id := req.toNat
    let mine := fun (x : PausedCache) => x.part = p ∧ x.req = id
    (∀ r, v.req id = some r → 0 < r.kNow → r.draftHere = false → (∀ j, j < r.kNow → (r.drafts.find? (j + 1)).isSome = true) →
      ∃ t r', exec (.draftRecord part req) s = .next t ∧ t.cores = s.cores ∧ (t.serveOf p).req id = some r' ∧ r'.draftHere = true) ∧
    (∀ before after e, s.tapLines = before ++ e :: after → e.core = c.val → e.chan = chan.toNat →
      (∀ b, b ∈ before → b.core ≠ c.val ∨ b.chan ≠ chan.toNat) →
      let on := (s.bay (c.val / 30)).state = .on
      let lands := fun (t : State) (n i : Nat) (bs : List Byte) =>
        let x := (s.core c.val).slot n
        let a := 256 * (x.dstBase + wRow x.desc i * dDstr x.desc + wCol x.desc i)
        { t with cores := s.cores, tapLines := s.tapLines, fab := s.fab } = s ∧ t.tapLines = before ++ after ∧
          (∀ d, d ≠ c.val → t.core d = s.core d) ∧ (t.core c.val).spRead a (wBytes x.desc i) = bs.take (wBytes x.desc i) ∧
          (∀ b, b < a ∨ a + wBytes x.desc i ≤ b → memByte (t.core c.val).sp.mem b = memByte (s.core c.val).sp.mem b) ∧
          ((t.core c.val).slot n).moved = x.moved + 1 ∧ (t.core c.val).filled chan.toNat (x.start + i) = true
      let open_ := fun (n i : Nat) (bs : List Byte) =>
        let x := (s.core c.val).slot n
        let a := 256 * (x.dstBase + wRow x.desc i * dDstr x.desc + wCol x.desc i)
        wBytes x.desc i ≤ bs.length ∧ s.runFault c.val [] a (wBytes x.desc i) = none
      let o := e.offset
      let lacks := fun (m : Nat) =>
        let x := (s.core c.val).slot m
        kindOf x.desc = 11 && wChan x.desc = chan.toNat && wCore x.desc = 0x1FE && x.state = .active && !x.done &&
          o < wLines x.desc && !(s.core c.val).filled chan.toNat (x.start + o) && s.partOfBay (e.die / 5) = s.partOf c.val
      let line := e.entries.flatMap (fun z => natBytes 4 z.toNat)
      (e.input = none → Core.slotNums.find? lacks = none ∨ (¬ on ∧ e.die ≠ dieOf c.val) →
        ∃ t, exec (.tokenLine c chan) s = .next t ∧ t.tapLines = before ++ after ∧ t.cores = s.cores ∧ t.hbm = s.hbm) ∧
      (∀ n, e.input = none → on → Core.slotNums.find? lacks = some n → open_ n o line →
        ∃ t, exec (.tokenLine c chan) s = .next t ∧ lands t n o line) ∧
      (∀ n w, e.input = some w → w.crc = none → on → w.part = s.partOf c.val →
        let q := (s.core c.val).welt.next.get 0 chan.toNat
        let x := (s.core c.val).slot n
        (s.core c.val).recvAt chan.toNat q = some n → wRemote x.desc = false → wCore x.desc = 0x1FE →
        (chan.toNat, q) ∉ (s.core c.val).welt.ahead → open_ n (q - x.start) w.bytes →
        ∃ t, exec (.tokenLine c chan) s = .next t ∧ lands t n (q - x.start) w.bytes)) ∧
    (∀ r tok rest, v.req id = some r → r.fly = tok :: rest → r.leaving ≠ 3 → r.queue.length < 63 →
      ∃ t, exec (.tapToken part req) s = .next t ∧ { t with serve := s.serve, fab := s.fab } = s ∧ (∀ q, q ≠ p → t.serveOf q = s.serveOf q) ∧
        (t.serveOf p).req id = some { r with
          fly := rest
          queue := r.queue ++ [tok]
          coalesceAt := r.coalesceAt.or (some s.now) }) ∧
    (∀ r, v.req id = some r → s.ringDue r = true → r.slot.isSome = true → r.queue ≠ [] → r.queue.length ≤ 64 →
      r.ringS % 4096 + r.queue.length ≤ 4096 → r.ringS - r.consumed + r.queue.length ≤ 4096 → (s.sess r.sess).isOpen = true →
      s.canSend r.sess 3 = true →
      ∃ t, exec (.ringWriteTimer part req) s = .next t ∧ t.cores = s.cores ∧ t.hbm = s.hbm ∧
        (∀ q, q ≠ p → t.serveOf q = s.serveOf q) ∧
        (t.serveOf p).req id = some { r with
          queue := []
          ringS := r.ringS + r.queue.length
          coalesceAt := none
          finalSent := r.finalSent || r.queue.any (fun z => decide (z.flags % 2 = 1)) }) ∧
    (∀ r x, v.req id = some r → s.flash.paused.find? (fun y => decide (mine y) && y.done.isNone) = some x →
      ∃ t r', exec (.pauseCopyDone part req) s = .next t ∧ t.cores = s.cores ∧ (t.serveOf p).req id = some r' ∧ r'.copied = true ∧
        (if r.fly.isEmpty then r'.queue = r.queue ++ [r.noToken flagPaused v.step]
          else r'.fly = r.fly ++ [r.noToken flagPaused v.step]) ∧
        ∀ y, y ∈ t.flash.paused → mine y → y.done = some s.now ∨ (y ∈ s.flash.paused ∧ y.done.isSome = true)) ∧
    (∀ r x w, v.req id = some r → s.flash.paused.find? (fun y => decide (mine y)) = some x → x.done = some w → r.paused = true →
      x.loading = false → w + r.jrec.ttl * 1000000 ≤ s.now →
      ∃ t, exec (.pausedCacheExpiry part req) s = .next t ∧ t.cores = s.cores ∧ (∀ y, y ∈ t.flash.paused → ¬ mine y) ∧
        (t.serveOf p).expired = min 65535 (v.expired + 1) ∧ ∀ r', r' ∈ (t.serveOf p).reqs → r'.id = id → r'.paused = false) ∧
    (∀ r x, v.req id = some r → s.flash.paused.find? (fun y => decide (mine y) && y.loading) = some x → r.loading = true →
      ∃ t, exec (.resumeLoadDone part req) s = .next t ∧ t.cores = s.cores ∧ (∀ y, y ∈ t.flash.paused → ¬ mine y) ∧
        (t.serveOf p).req id = some { r with loading := false })

/-- A submission from a core, or by the next entry of a DOORBELL message that its lane takes or has just taken, whose
record lies in readable mapped HBM and passes the checks, of a BE kernel or a request without an open query, waits or
is placed; one whose record is refused changes no queue. A prefetch whose hot set is resident or fits is resident on
its cores afterwards. A weight of 1 to 1,000 is kept, any other is ignored. A consumed count between the ones before
and the entries started is kept, one above is counted. The end report of a placed kernel is taken: with nothing
waiting, saved or being restored its core is free, and a kernel whose last core ended leaves while any other keeps its
place with the core ended. On the conditions on state and operands that each clause names, and on nothing else, exec
answers a next state, the one the clause describes, for: SUBMIT, DOORBELL_SUBMIT, PREFETCH, CLIENT_W, RING_CONSUMED,
KERNEL_END_REPORT. (R347, R361, R362, R366, R369, R382, R414, R544, 13_scheduling_and_preemption.md) -/
def Obligations.TheSchedulerTakesItsWork : Prop :=
  ∀ (s : State) (c : CoreId) (part : Fin 12) (d : Datagram) (entry : Fin 256) (addr : BitVec 41) (msg : BitVec 256) (v req : Word) (consumed : Nat),
    let k := s.core c.val
    let pc := s.partOf c.val
    let head := fun (type : Nat) => k.headOut 1 = some msg ∧ fld msg 0 8 = type ∧ fld msg 8 56 = 0 ∧ fld msg 144 112 = 0
    let rec_ := fun (a : Nat) => recordOf a (s.hbm.read a 128)
    let readable := fun (a : Nat) => s.recMapped a = true ∧ s.hbm.badIn a 128 = none
    let simple := fun (r : KernelRec) => r.be = true ∨ s.query r.part r.req.toNat = none
    let has := fun (t : State) (p kid : Nat) => (∃ w, w ∈ (t.schedOf p).waiting ∧ w.krec.kid = kid) ∨
      ∃ w, w ∈ (t.schedOf p).placed ∧ w.krec.kid = kid
    let a := fld msg 64 64
    let hot := fld msg 128 16
    let comes := fun (u : State) =>
      (entry.val = 0 ∧ ∃ n, 1 ≤ n ∧ n ≤ 256 ∧ s.Message d 0 0x18 (24 * n) ∧
        u = (s.taken d).modSess d.session (fun y => { y with
          bells := n
          bellNext := 1 })) ∨
      (0 < entry.val ∧ s.datagramOk d = true ∧ d.lane = 0 ∧ d.type = 0x18 ∧ d.seq + 1 = (s.laneOf d.session 0).rxSeq ∧
        entry.val < (s.sess d.session).bells ∧ entry.val = (s.sess d.session).bellNext ∧
        u = s.modSess d.session (fun y => { y with bellNext := y.bellNext + 1 }))
    let on := (s.coresOf pc).filter (fun d => Config.hotCore pc hot d)
    (head 1 → readable a → s.submitBad pc (rec_ a) = false → simple (rec_ a).1 → ∃ t, exec (.submit c) s = .next t ∧
      has t pc (rec_ a).1.kid ∧ (t.core c.val).seq.outbound = k.seq.outbound.drop 1) ∧
    (head 1 → readable a → s.submitBad pc (rec_ a) = true → ∃ t, exec (.submit c) s = .next t ∧ t.sched = s.sched ∧
      (t.core c.val).seq.outbound = k.seq.outbound.drop 1 ∧ t.hbm.mem = s.hbm.mem) ∧
    (∀ u, comes u → readable addr.toNat → s.submitBad part.val (rec_ addr.toNat) = false → simple (rec_ addr.toNat).1 →
      ∃ t, exec (.doorbellSubmit ⟨d, entry⟩ part addr) s = .next t ∧ has t part.val (rec_ addr.toNat).1.kid) ∧
    (∀ u, comes u → readable addr.toNat → s.submitBad part.val (rec_ addr.toNat) = true →
      ∃ t, exec (.doorbellSubmit ⟨d, entry⟩ part addr) s = .next t ∧ t.sched = s.sched ∧ t.cores = s.cores) ∧
    (head 2 → hot ≠ 0 → ((s.schedOf pc).resident hot on = true ∨
        ((s.schedOf pc).makeRoom hot on (s.hotRange pc hot).1 (s.hotRange pc hot).2).isSome = true) →
      ∃ t, exec (.prefetch c) s = .next t ∧ (t.schedOf pc).resident hot on = true ∧ t.hbm.mem = s.hbm.mem ∧
        (t.core c.val).seq.outbound = k.seq.outbound.drop 1 ∧ ∀ d, d ∉ on → d ≠ c.val → t.core d = s.core d) ∧
    (1 ≤ fld v 10 10 → fld v 10 10 ≤ 1000 → ∃ t, exec (.clientW part v) s = .next t ∧ (∀ d, SameCore (s.core d) (t.core d)) ∧
      ((t.schedOf part.val).client (fld v 0 10)).weight = fld v 10 10 ∧ (t.schedOf part.val).waiting = (s.schedOf part.val).waiting) ∧
    (¬ (1 ≤ fld v 10 10 ∧ fld v 10 10 ≤ 1000) → exec (.clientW part v) s = .next s) ∧
    (∀ u r, comes u → (s.serveOf part.val).req req.toNat = some r →
      (r.ringS < consumed → ∃ t, exec (.ringConsumed ⟨d, entry⟩ part req consumed) s = .next t ∧
        t = { u with host := { u.host with badDb := min 65535 (s.host.badDb + 1) } }) ∧
      (consumed ≤ r.ringS → r.consumed < consumed → s.ringDue r = false →
        ∃ t, exec (.ringConsumed ⟨d, entry⟩ part req consumed) s = .next t ∧ { t with serve := s.serve } = u ∧
          (t.serveOf part.val).req req.toNat = some { r with consumed := consumed })) ∧
    (∀ r w, s.ends.find? c.val = some r → (s.schedOf pc).holder c.val = some w → (s.schedOf pc).waiting = [] →
      (∀ x, x ∈ (s.schedOf pc).placed → x.state ≠ .saved ∧ x.state ≠ .restoring) → ∃ t, exec (.kernelEndReport c) s = .next t ∧
        t.ends.find? c.val = none ∧ (t.core c.val).sched = .free ∧ (∀ d, d ≠ c.val → SameCore (s.core d) (t.core d)) ∧ t.hbm = s.hbm ∧
        (if ∀ d, d ∈ w.cores → d = c.val ∨ d ∈ w.ended then ∀ x, x ∈ (t.schedOf pc).placed → x.krec.kid ≠ w.krec.kid
          else ∃ x, x ∈ (t.schedOf pc).placed ∧ x.krec.kid = w.krec.kid ∧ x.ended = insertSet c.val w.ended))

/-- A parked notice behind the core's own reports makes the core parked for the scheduler. A core that has not parked
within its limit is reported once. The save of a kernel all of whose cores have parked begins on a core that holds no
soft targets and no unreleased bucket buffers; when it is done with no uncorrectable word the saved context holds the
sequencer without the messages that wait in the core, the flags and every saved line, and the flags of the core are
zero. When a restore is done the core has the saved s, a and t registers and PC and, for a kernel without a hot set,
every saved line; with the last core of the kernel, and its hot set resident, it runs; before that it stays parked. An
account interval adds its energies to the bays and to the package. On the conditions on state and operands that each
clause names, and on nothing else, exec answers a next state, the one the clause describes, for: PARKED_NOTICE,
PARK_OVERDUE, SAVE_START, SAVE_DONE, RESTORE_DONE, ACCOUNT_INTERVAL. (R36, R372, R374, R375, R377, R381, R523,
13_scheduling_and_preemption.md) -/
def Obligations.CoresAreParkedSavedAndRestored : Prop :=
  ∀ (s : State) (c : CoreId) (bays : List Nat) (link host other : Nat),
    let p := s.partOf c.val
    let k := s.core c.val
    let all := fun (w : Placed) => ∀ d, d ∈ w.holds → d = c.val ∨ d ∈ w.moved
    (c.val ∈ s.parkedMsgs → k.sched = .parking → (∀ r, r ∈ s.saddleReports → r.core ≠ c.val) →
      ∃ t, exec (.parkedNotice c) s = .next t ∧ { t with cores := s.cores, parkedMsgs := s.parkedMsgs } = s ∧
        { t.core c.val with sched := .parking } = k ∧ (t.core c.val).sched = .parked ∧ (∀ d, d ≠ c.val → t.core d = s.core d) ∧
        c.val ∉ t.parkedMsgs) ∧
    (∀ w, (s.schedOf p).holder c.val = some w → k.sched = .parking → k.preemptAt + fld (s.schedOf p).ctl 48 16 < s.mashOf c.val →
      c.val ∉ w.late → ∃ t, exec (.parkOverdue c) s = .next t ∧ t.cores = s.cores ∧
        (∃ x, x ∈ (t.schedOf p).placed ∧ x.krec.kid = w.krec.kid ∧ c.val ∈ x.late) ∧
        (s.rst.running = [] → ∃ r, t.reports = s.reports ++ [r] ∧ r.code = codeParkOverdue ∧ r.core = c.val)) ∧
    (∀ w, (s.schedOf p).holder c.val = some w → w.state = .parking ∨ w.state = .saving → k.sched = .parked →
      (∀ d, d ∈ w.holds → d ∈ w.moved ∨ (s.core d).sched = .parked ∨ (s.core d).sched = .saving) → s.flushed c.val = true → k.keeps = false →
      ∃ t, exec (.saveStart c) s = .next t ∧ SameCore { k with sched := .saving } (t.core c.val) ∧
        (∀ d, d ≠ c.val → SameCore (s.core d) (t.core d)) ∧ ∃ x, x ∈ (t.schedOf p).placed ∧ x.krec.kid = w.krec.kid ∧ x.state = .saving) ∧
    (∀ w, (s.schedOf p).holder c.val = some w → w.state = .saving → k.sched = .saving → k.softPinned = false → s.saveBad c.val w = none →
      (∀ y, y ∈ (s.schedOf p).placed → y.state ≠ .restoring) → ∃ t x, exec (.saveDone c) s = .next t ∧ t.saved.find? (savedKey c.val w.krec.kid) = some x ∧ x.seq = { k.seq with outbound := [] } ∧
        x.fpflags = k.fpflags ∧ x.sp.live = s.savedLines c.val w ∧ (t.core c.val).fpflags = 0 ∧
        ∀ a, a / 256 ∈ s.savedLines c.val w → memByte x.sp.mem a = memByte k.sp.mem a) ∧
    (∀ w x, (s.schedOf p).holder c.val = some w → s.saved.find? (savedKey c.val w.krec.kid) = some x → w.state = .restoring →
      k.sched = .restoring → c.val ∉ w.moved → w.cores.Nodup →
      ((s.schedOf p).placed.map (fun y => y.krec.kid)).Nodup → (∀ y, y ∈ (s.schedOf p).placed → y.state = .restoring → y = w) → ∃ t, exec (.restoreDone c) s = .next t ∧ (t.core c.val).seq.s = x.seq.s ∧
        (t.core c.val).seq.a = x.seq.a ∧ (t.core c.val).seq.t = x.seq.t ∧ (t.core c.val).seq.pc = x.seq.pc ∧
        (all w → w.krec.hotset = 0 ∨ (s.schedOf p).resident w.krec.hotset w.cores = true →
          (t.core c.val).seq.parked = false ∧ (t.core c.val).sched = .running ∧ (t.core c.val).fpflags = x.fpflags) ∧
        (¬ all w → (t.core c.val).seq.parked = true ∧ (t.core c.val).sched = .restoring) ∧
        (w.krec.hotset = 0 → Memory.wf x.sp.mem = true →
          ∀ a, a / 256 ∈ x.sp.live → memByte (t.core c.val).sp.mem a = memByte x.sp.mem a)) ∧
    (∃ t, exec (.accountInterval bays link host other) s = .next t ∧ (∀ d, SameCore (s.core d) (t.core d)) ∧ t.glob.heldInt = [] ∧ t.glob.bytesInt = [] ∧
      (∀ b, b < 12 → (t.bay b).energy = (s.bay b).energy + bays.getD b 0) ∧
      t.glob.acctEnergy = min (2 ^ 64 - 1) (s.glob.acctEnergy + ((bays.take 12).foldl (· + ·) 0 + link + host + other)))

/-- A pass ONE that Hopback can accept, with its student rows accessible or whole on the direct path, its teacher input
there and its image and reference places accessible, is done; it writes only the copy of A, the local images and the
two reference rows, and moves a named channel's ONE pointer on by its tiles. An EMIT whose references are at least the
images' or out of range is done and writes only the images. A pass TWO with its teacher input there, its operands
accessible and, for kinds with normalisers, combined images that agree with the references an EMIT has kept, is done;
it writes only its gradient rows and row-loss images (TOPK: its record sets), moves the TWO pointer on, and a
releasing one frees its tiles and ends with a credit flit of RING_TILES + RELEASED. A GATE pass with its rows
accessible is done, writes only its divergences and adds at most one gate record a sample. On the conditions on state
and operands that each clause names, and on nothing else, exec answers a next state, the one the clause describes,
for: PASS_ONE, EMIT, PASS_TWO, GATE_PASS. (R193, R200, R205, R206, R207, R212, R213, R216, R219, R222, R225,
07_hopback_distillation.md) -/
def Obligations.HopbackPassesRunToTheirEnd : Prop :=
  ∀ (s : State) (g : StreamRef),
    let c := g.core.val
    let n := g.slot.val
    let k := s.core c
    let x := k.slot n
    let d := x.desc
    let b := s.lossBlock c n
    let rows := dTiles d * dRows d
    let kinds := (hImages d).length
    let h := k.hopChan (hChan d)
    let inD := InRows x.dstBase (dDstr d) (rowBytes (dDfmt d) (dCols d)) rows
    let ref := fun (j r : Nat) => 256 * ((b.e 1).line + j * (b.e 1).str) + 4 * r
    let recLen := 256 * cdiv (128 + 36 * b.k) 2048
    (s.LossReady c n 0 →
      (dSspace d = 3 → s.RowsOk c [] x.dstBase (dDstr d) (rowBytes (dDfmt d) (dCols d)) rows) →
      (dSspace d ≠ 3 → s.RowsOk c [] x.srcBase (dSstr d) (rowBytes (dSfmt d) (dCols d)) rows) →
      s.TeacherOk c n h.onePtr (fun a => dSspace d = 3 ∧ inD a) → s.ImagesOk c (b.e 2).line (dRows d) kinds →
      (hNorms (hKind d) = true → ∀ j r, j < 2 → r < dRows d → s.runFault c [] (ref j r) 4 = none) →
      ∃ t, exec (.passOne g) s = .next t ∧
        Streamed s t c n (fun a => (dSspace d = 3 ∧ inD a) ∨ InImages (b.e 2).line (dRows d) kinds a ∨
          (hNorms (hKind d) = true ∧ ∃ j r, j < 2 ∧ r < dRows d ∧ ref j r ≤ a ∧ a < ref j r + 4)) ∧
        (hNames d = true → (t.core c).hopChan (hChan d) = { h with onePtr := h.onePtr + dTiles d })) ∧
    (s.LossReady c n 1 → s.ImagesOk c (b.e 2).line (dRows d) kinds →
      (∀ r, r < dRows d → s.runFault c [] (ref 0 r) 4 = none) →
      (∀ p r, p ∈ (hImages d).zipIdx → r < dRows d →
        let a := ref (if p.1 = 1 then 1 else 0) r
        s.runFault c [] a 4 = none ∧ ¬ InImages (b.e 2).line (dRows d) kinds a ∧
          (emitImage (toSigned 32 (bytesNat (k.spRead a 4))) (s.lossImage c (b.e 2).line (dRows d) p.2 r)).isSome = true) →
      ∃ t, exec (.emit g) s = .next t ∧ Streamed s t c n (InImages (b.e 2).line (dRows d) kinds)) ∧
    (s.LossReady c n 2 → hKind d ≠ 7 → s.RowsOk c [] x.srcBase (dSstr d) (rowBytes (dSfmt d) (dCols d)) rows →
      s.TeacherOk c n h.twoPtr inD → s.RowsOk c [] x.dstBase (dDstr d) (rowBytes (dDfmt d) (dCols d)) rows →
      (hGacc d = true → s.RowsOk c [] x.dstBase (dDstr d) (rowBytes 0 (dCols d)) rows) →
      (hNames d = true → h.twoPtr + dTiles d ≤ h.onePtr) →
      (hNames d = true → hRelease d = true → dTiles d ≤ h.tiles) →
      (hNorms (hKind d) = true ∨ hKind d = 5 → s.ImagesOk c (b.e 3).line (dRows d) kinds) →
      (hNorms (hKind d) = true → s.NormOk c n ∧ ∀ a, InImages (b.e 3).line (dRows d) kinds a → ¬ inD a) →
      s.ImagesOk c (b.e 1).line (dRows d) 1 →
      ∃ t, exec (.passTwo g) s = .next t ∧
        Streamed s { t with flits := s.flits, fab := s.fab } c n (fun a => inD a ∨ InImages (b.e 1).line (dRows d) 1 a) ∧
        (hNames d = true → ((t.core c).hopChan (hChan d)).twoPtr = h.twoPtr + dTiles d) ∧
        (if hNames d = true ∧ hRelease d = true then
          ((t.core c).hopChan (hChan d)).released = h.released + dTiles d ∧
            ∃ f, t.flits.getLast? = some f ∧ f.src = c ∧ f.dst = h.sender ∧ f.cls = 4 ∧ f.body = .credit ∧ f.schan = hChan d ∧
              f.grant = (h.tiles + (h.released + dTiles d)) % 2 ^ 32 ∧ f.isFirst = false
          else t.flits = s.flits ∧ t.fab = s.fab)) ∧
    (s.LossReady c n 2 → hKind d = 7 → s.RowsOk c [] x.srcBase (dSstr d) (rowBytes (dSfmt d) (dCols d)) rows →
      s.ImagesOk c (b.e 2).line (dRows d) 1 → s.ImagesOk c (b.e 3).line (dRows d) 1 → s.NormOk c n →
      s.RowsOk c [] x.dstBase (dDstr d) recLen (dRows d) →
      (∀ a, InImages (b.e 2).line (dRows d) 1 a ∨ InImages (b.e 3).line (dRows d) 1 a →
        ¬ InRows x.dstBase (dDstr d) recLen (dRows d) a) →
      ∃ t, exec (.passTwo g) s = .next t ∧ Streamed s t c n (InRows x.dstBase (dDstr d) recLen (dRows d))) ∧
    (s.LossReady c n 3 → s.RowsOk c [] x.srcBase (dSstr d) 64 (dRows d) → s.RowsOk c [] (b.e 0).line (b.e 0).str 12 (dRows d) →
      s.RowsOk c [] x.dstBase (dDstr d) 4 (dRows d) →
      ∃ t, exec (.gatePass g) s = .next t ∧ Streamed s t c n (InRows x.dstBase (dDstr d) 4 (dRows d)) ∧
        ∃ l, (t.core c).hop.gates = k.hop.gates ++ l ∧ l.length ≤ dRows d ∧ ∀ v, v ∈ l → fld v 64 32 = b.step)

/-- A fragment from the session's peer with a right header moves its lane on and joins its message when it is next and
buffered, is counted without a buffer, draws one NAK after a gap, and an older one changes no sequence number; any
other is counted. An acknowledgement frees exactly the datagrams it covers; a NAK, or a lane without progress for its
RTO, sends every unacknowledged datagram again with its header, or loses the session after 8 sendings. The ACK timer
answers what is pending, or owes the answer while the lane may not send. On lane 1 these hold while no response waits.
A well-formed OPEN with a right header that can be buffered opens its session with its sender as peer and its
subscriptions, a CLOSE returns it to the closed state. A CSR_READ answers status and values, with accounts brought up
to date, and changes nothing else; a one-word CSR_WRITE, or a register write, of each register of csrTable makes it
read the written bits; a refused one writes nothing; a sealed register keeps its value with status 3. Each of these
commands completes. On the conditions on state and operands that each clause names, and on nothing else, exec answers
a next state, the one the clause describes, for: RHT_FRAGMENT, ACK, CLOSE, CSR_READ, CSR_WRITE, ACK_TIMER,
RHT_RTO_EXPIRY, OPEN, REGISTER_WRITE. (R405, R406, R407, R408, R410, R411, R412, R494, R515,
15_host_port_and_transport.md, 21_register_map.md) -/
def Obligations.DatagramsSessionsAndRegisterAccess : Prop :=
  ∀ (s : State) (d : Datagram) (i : Fin 16) (l : Fin 4) (fault telem gate : Bool) (addr v : Word) (count : BitVec 32),
    let x := s.laneOf d.session d.lane
    let lane := fun (t : State) => t.laneOf d.session d.lane
    let n := (d.ack + 1 - (x.txNext - BitVec.ofNat 32 x.flight.length)).toNat
    let new := 1 ≤ n ∧ n ≤ x.flight.length
    let gap := (d.seq - x.rxSeq).toNat
    let y := s.laneOf i.val l.val
    let again := fun (z : Lane) (a b : Nat) (t : State) => OnlyHost s t ∧
      (t.laneOf a b).flight = z.flight.map (fun g => { g with sent := g.sent + 1 }) ∧
      (t.laneOf a b).txNext = z.txNext ∧ t.host.retx = min 65535 (s.host.retx + z.flight.length) ∧
      t.out = s.out ++ z.flight.zipIdx.map (fun e => z.gram s.host a b (z.txNext.toNat + 2 ^ 32 - z.flight.length + e.2) e.1)
    let u := s.taken d
    let answers := fun (t : State) (o : Out) => s.laneFree d.session 0 → ∃ q, t.out = s.out ++ q ∧ o ∈ q
    let part := d.frag + 1 < d.nfrag
    (s.datagramOk d = false → (part ∨ hostTypes.contains d.type = false → ∃ t, exec (.rhtFragment d) s = .next t ∧ Discarded s t) ∧
      (d.type = 1 → ∃ t, exec (.ack d) s = .next t ∧ Discarded s t) ∧
      ∀ c, c ∈ ([.rhtClose d, .csrRead d addr count, .csrWrite d addr [v]] : List Instr) →
        ∃ t, exec c s = .next t ∧ Discarded s t) ∧
    (s.datagramOk d = true → d.nak = false → s.Calm d → part →
      (d.buffered = true → gap = 0 → ∃ t, exec (.rhtFragment d) s = .next t ∧ OnlyHost s t ∧ (lane t).rxSeq = d.seq + 1 ∧
        (lane t).nakSent = false ∧ (lane t).part = d.joins x.part ∧
        t.glob.acctHost = min (2 ^ 64 - 1) (s.glob.acctHost + d.plen)) ∧
      (d.buffered = false → ∃ t, exec (.rhtFragment d) s = .next t ∧ OnlyHost s t ∧ (lane t).rxSeq = x.rxSeq ∧
        t.host.rxNobuf = min 65535 (s.host.rxNobuf + 1)) ∧
      (d.buffered = true → 0 < gap → gap < 2 ^ 31 → x.nakSent = false → ∃ t, exec (.rhtFragment d) s = .next t ∧ OnlyHost s t ∧
        (lane t).rxSeq = x.rxSeq ∧ (lane t).nakSent = true ∧
        (s.laneHeld d.lane = false → t.out.getLast? = some ((lane t).ackOnly s.host d.session d.lane true))) ∧
      (d.buffered = true → 2 ^ 31 ≤ gap ∨ (0 < gap ∧ x.nakSent = true) → ∃ t, exec (.rhtFragment d) s = .next t ∧ OnlyHost s t ∧
        (lane t).rxSeq = x.rxSeq ∧ (lane t).nakSent = x.nakSent)) ∧
    (s.datagramOk d = true → d.nak = false → s.Calm d → d.type = 1 →
      (new → x.waiting = [] → ∃ t, exec (.ack d) s = .next t ∧ OnlyHost s t ∧ (lane t).flight = x.flight.drop n ∧
        (lane t).progressAt = s.now ∧ (lane t).rxSeq = x.rxSeq) ∧
      (¬ new → exec (.ack d) s = .next s)) ∧
    (∀ f, s.datagramOk d = true → d.nak = true → s.Calm d → d.type = 1 → ¬ new → x.flight.head? = some f → f.sent < 8 →
      s.laneHeld d.lane = false → ∃ t, exec (.ack d) s = .next t ∧ again x d.session d.lane t) ∧
    (if 0 < y.rxPend ∧ y.rxAt + 2000 ≤ s.now then ∃ t, exec (.ackTimer i l) s = .next t ∧ OnlyHost s t ∧
        if s.laneHeld l.val then t.laneOf i.val l.val = { y with ackDue := some (y.ackDue.getD false) } ∧ t.out = s.out
        else t.laneOf i.val l.val = { y with
          rxPend := 0
          ackDue := none } ∧ t.out = s.out ++ [y.ackOnly s.host i.val l.val false]
      else exec (.ackTimer i l) s = .next s) ∧
    (∀ f, (s.sess i.val).isOpen = true → y.progressAt + 1000 * fld s.host.rto (16 * l.val) 16 ≤ s.now → y.flight.head? = some f →
      (f.sent < 8 → s.laneHeld l.val = false → ∃ t, exec (.rhtRtoExpiry i l) s = .next t ∧ again y i.val l.val t) ∧
      (8 ≤ f.sent → ∃ t, exec (.rhtRtoExpiry i l) s = .next t ∧ t.sess i.val = {} ∧
        t.host.sessLost = min 65535 (s.host.sessLost + 1))) ∧
    (s.openOk d = true → d.buffered = true → d.bodyOk = true → d.type = 2 → d.lane = 0 → d.nfrag = 1 → d.frag = 0 → d.plen ≠ 0 →
      ∃ t, exec (.rhtOpen d fault telem gate) s = .next t ∧ (t.sess d.session).isOpen = true ∧ (t.sess d.session).addr = d.addr ∧
        (t.sess d.session).port = d.port ∧ (∀ b, (t.sess d.session).subs.getLsbD b = (b = 0 && fault || b = 1 && telem || b = 2 && gate)) ∧ (t.laneOf d.session 0).rxSeq = 1 ∧
        (∀ j, j ≠ d.session → (t.sess j).isOpen = (s.sess j).isOpen) ∧ ((s.sess d.session).isOpen = false → OnlyHost s t)) ∧
    (s.openOk d = false → ∃ t, exec (.rhtOpen d fault telem gate) s = .next t ∧ Discarded s t) ∧
    (s.Message d 0 0x04 0 → ∃ t, exec (.rhtClose d) s = .next t ∧ t.sess d.session = {} ∧
      ∀ j, j ≠ d.session → (t.sess j).isOpen = (s.sess j).isOpen) ∧
    (s.Message d 0 0x10 12 →
      let w := if (s.access addr.toNat count.toNat).2.any Reg.isAcct then u.chargeAll else u
      ∃ t, exec (.csrRead d addr count) s = .next t ∧ OnlyHost w t ∧
        answers t (.csrResp d.session (s.access addr.toNat count.toNat).1 ((s.access addr.toNat count.toNat).2.map w.readReg))) ∧
    (∀ (c : CoreId) (e : Nat × CoreReg × Nat), e ∈ csrTable → s.access addr.toNat 1 = (0, [.core c e.2.1]) →
      (∃ t, exec (.registerWrite addr v) s = .next t ∧ OnlyCore s t c.val ∧ (t.core c.val).sp = (s.core c.val).sp ∧
        (t.readCoreReg c.val e.2.1).toNat = v.toNat % 2 ^ e.2.2) ∧
      (s.Message d 0 0x11 24 → ∃ t, exec (.csrWrite d addr [v]) s = .next t ∧ OnlyHost s { t with cores := s.cores } ∧
        (∀ e, e ≠ c.val → t.core e = s.core e) ∧ (t.core c.val).sp = (s.core c.val).sp ∧
        (t.readCoreReg c.val e.2.1).toNat = v.toNat % 2 ^ e.2.2 ∧ answers t (.csrResp d.session 0 []))) ∧
    ((s.access addr.toNat 1).2 = [] → exec (.registerWrite addr v) s = .next s ∧
      (s.Message d 0 0x11 24 → ∃ t, exec (.csrWrite d addr [v]) s = .next t ∧ OnlyHost s t ∧
        answers t (.csrResp d.session (s.access addr.toNat 1).1 []))) ∧
    (∀ r, s.access addr.toNat 1 = (0, [r]) → r.sealable = true → s.sec.sealed_ = true →
      exec (.registerWrite addr v) s = .next { s with sec := { s.sec with faults := min 65535 (s.sec.faults + 1) } } ∧
      (s.Message d 0 0x11 24 → ∃ t, exec (.csrWrite d addr [v]) s = .next t ∧ OnlyHost s { t with sec := s.sec } ∧
        t.sec.faults = min 65535 (s.sec.faults + 1) ∧ answers t (.csrResp d.session 3 [])))

/-- Messages come whole and in order from the peer of an open session. Outside RECOVERY a LOAD of HBM that takes it is
written and added up, and with FINAL answered LOAD_DONE with the total; a reserved class or a malformed one writes
nothing. With its table entry readable, a sample that fits a queue with room is written, where its place takes it, as
the queue's next record and counted; else it is answered TOO_LARGE or QUEUE_FULL. A due note is offered again to an ON
bay with the newer count. INGEST_FREE raises FREED, TO_HOST queues the core's message, other TYPEs are discarded. An
LC query that nothing refuses is open with its arrival and deadline. Its output is kept, or with a wrong DCRC counted;
RELEASE with the whole output answers VALID, the LATE point answers LATE, each as soon as lane 1 can take it. A gate
record is held, or dropped with 4,096 held, and flushed when due; a report takes the next FSEQ and marks its slot
taken, or is counted with 1,024 held; a due telemetry period restarts. On the conditions on state and operands that
each clause names, and on nothing else, exec answers a next state, the one the clause describes, for: LOAD, INGEST,
INGEST_NOTE_RETRY, INGEST_FREE, TO_HOST, LC_QUERY, LC_OUTPUT_ARRIVE, RELEASE, LATE_POINT, GATE_RECORD, GATE_FLUSH,
FAULT_REPORT, TELEM_PERIOD. (R415, R416, R417, R422, R423, R425, R426, R427, R457, R458, R459,
15_host_port_and_transport.md) -/
def Obligations.LoadsIngestQueriesAndReports : Prop :=
  ∀ (s : State) (d : Datagram) (addr : BitVec 41) (flags queue : BitVec 8) (data : List Byte) (id : Word) (q : Fin 16) (c : CoreId)
      (lq : LcQuery) (part : Fin 12) (crc : BitVec 32),
    let a := addr.toNat
    let cls := fld flags 1 3
    let k := s.core c.val
    let p := part.val
    let i := d.session
    let sends := fun (t : State) (j l : Nat) (o : Out) => s.laneFree j l → ∃ q, t.out = s.out ++ q ∧ o ∈ q
    let load := s.Message d 2 0x20 (16 + data.length)
    let query := s.Message d 1 0x30 (64 + lq.input.length)
    let ready := s.sec.recovery = false ∧ (∀ x, x ∈ sectorsOf a data.length → s.hbm.sysCheck x 1 = .ok) ∧
      s.hbm.stoppedIn a data.length = none ∧
      ∀ j, j < data.length → ∃ y, s.hbm.key (a + j) = some y ∧ s.hbm.takes (y / stackBytes) = true
    (load → cls < 4 → a % 64 = 0 → fld flags 4 4 = 0 → ready → ∃ t, exec (.load d addr flags data) s = .next t ∧
      OnlyHost s { t with hbm := s.hbm, sec := s.sec } ∧ t.hbm = s.hbm.write a data ∧
      (if bit flags 0 = true then (t.sess i).loadBytes = 0 ∧
          sends t i 2 (.loadDone i 0 ((s.sess i).loadBytes + data.length))
        else t.sec = s.sec ∧ (t.sess i).loadBytes = (s.sess i).loadBytes + data.length)) ∧
    (load → 4 ≤ cls → ∃ t, exec (.load d addr flags data) s = .next t ∧ OnlyHost s t ∧ sends t i 2 (.loadDone i 2 0)) ∧
    (load → cls < 4 → (a % 64 ≠ 0 ∨ fld flags 4 4 ≠ 0) → ∃ t, exec (.load d addr flags data) s = .next t ∧ OnlyHost s t ∧
      sends t i 2 (.status i d.msgid stMalformed 0 0 0)) ∧
    (let n := queue.toNat;
      let e := s.host.ingest.get {} n;
      let g := (s.ingEntry n).2;
      let at_ := g.base + e.produced % g.entries * g.recsz;
      let sample := natBytes 8 id.toNat ++ natBytes 4 data.length ++ natBytes 4 0 ++ data;
      let u := (s.ingEntry n).1.hbm;
      s.Message d 2 0x28 (16 + data.length) → n < 16 → s.hbm.sysCheck (s.host.ingTbl + 32 * n) 32 = .ok →
        s.hbm.badIn (s.host.ingTbl + 32 * n) 32 = none →
        (g.recsz < data.length + 16 → ∃ t, exec (.ingest d queue id data) s = .next t ∧ OnlyHost s { t with hbm := s.hbm } ∧
          t.hbm = u ∧ t.host.ingest = s.host.ingest ∧ sends t i 2 (.status i d.msgid stTooLarge 0 id.toNat 0)) ∧
        (data.length + 16 ≤ g.recsz → g.entries ≤ e.produced - e.freed →
          ∃ t, exec (.ingest d queue id data) s = .next t ∧ OnlyHost s { t with hbm := s.hbm } ∧ t.hbm = u ∧
            t.host.ingest = s.host.ingest ∧ sends t i 2 (.status i d.msgid stQueueFull 0 id.toNat 0)) ∧
        (data.length + 16 ≤ g.recsz → e.produced - e.freed < g.entries → u.sysCheck at_ sample.length = .ok →
          u.stoppedIn at_ sample.length = none →
          ∃ t, exec (.ingest d queue id data) s = .next t ∧ OnlyHost s { t with hbm := s.hbm, mboxes := s.mboxes } ∧
            t.host.ingest.get {} n = { e with produced := e.produced + 1 } ∧
            (∀ m, m ≠ n → t.host.ingest.get {} m = s.host.ingest.get {} m) ∧ t.hbm = u.write at_ sample)) ∧
    (∀ before after m w, s.mboxes = before ++ m :: after → (∀ b, b ∈ before → b.source ≠ .ingest q.val) → m.source = .ingest q.val →
      m.retryAt = some w → w ≤ s.now → m.core < 360 → (s.bay (m.core / 30)).state = .on →
      ∃ t, exec (.ingestNoteRetry q) s = .next t ∧ { t with cores := s.cores, mboxes := s.mboxes } = s ∧
        (∀ e, e ≠ m.core → t.core e = s.core e) ∧ (t.core m.core).sp = (s.core m.core).sp ∧
        (if (s.core m.core).seq.mbox.length < 4 then
          t.mboxes = before ++ after ∧ (t.core m.core).seq.mbox = (s.core m.core).seq.mbox ++ [s.ingNote q.val]
        else t.core m.core = s.core m.core ∧ t.mboxes = before ++ { m with
          payload := s.ingNote q.val
          retryAt := some (s.now + 10000) } :: after)) ∧
    (∀ msg, k.headOut 2 = some msg →
      (fld msg 0 8 = 2 → ∃ t, exec (.ingestFree c) s = .next t ∧ (t.core c.val).seq.outbound = k.seq.outbound.drop 1 ∧
        OnlyHost s { t with cores := s.cores, fab := s.fab } ∧ (∀ e, e ≠ c.val → t.core e = s.core e) ∧
        (if fld msg 8 8 < 16 then (t.host.ingest.get {} (fld msg 8 8)).freed = max (s.host.ingest.get {} (fld msg 8 8)).freed (fld msg 32 32)
          else t.host = s.host)) ∧
      (fld msg 0 8 = 1 → exec (.ingestFree c) s = .next s) ∧
      (fld msg 0 8 = 1 → s.host.hostMsgs.length < 256 → ∃ t, exec (.toHost c) s = .next t ∧ OnlyHost s { t with cores := s.cores, fab := s.fab } ∧
        (t.core c.val).seq.outbound = k.seq.outbound.drop 1 ∧ (∀ e, e ≠ c.val → t.core e = s.core e) ∧
        (t.host.hostMsgs.map (·.item)) = s.host.hostMsgs.map (·.item) ++ [(c.val, msg)] ∧
        (s.subscribers subFault = [] → ∀ h, t.host.hostMsgs.getLast? = some h → h.sent = false) ∧
        (s.subscribers subFault ≠ [] → ∀ h, h ∈ t.host.hostMsgs → h.sent = true)) ∧
      (fld msg 0 8 = 1 → 256 ≤ s.host.hostMsgs.length → exec (.toHost c) s = .next s) ∧
      (fld msg 0 8 ≠ 1 → fld msg 0 8 ≠ 2 → ∀ x, x ∈ [.ingestFree c, .toHost c] → ∃ t, exec x s = .next t ∧
        (t.core c.val).seq.outbound = k.seq.outbound.drop 1 ∧ t.host = s.host ∧ t.mboxes = s.mboxes)) ∧
    (query → s.query lq.part lq.req.toNat = none → s.queryBad lq = false →
      (s.schedOf lq.part).waiting.find? (fun w => !w.krec.be && w.krec.req.toNat = lq.req.toNat) = none →
      ∃ t e, exec (.lcQuery d lq) s = .next t ∧ t.host.queries = s.host.queries ++ [e] ∧ e.is lq.part lq.req.toNat = true ∧
        e.sess = i ∧ e.model = lq.model ∧ e.arrive = s.now ∧ e.deadline = s.now + lq.deadlineUs * 1000 ∧ e.outMax = lq.outMax ∧
        e.fault = false ∧ e.released = false ∧ e.output = none ∧ t.cores = s.cores ∧ t.hbm = s.hbm) ∧
    (query → (s.query lq.part lq.req.toNat).isSome = true ∨ s.queryBad lq = true → ∃ t, exec (.lcQuery d lq) s = .next t ∧
      OnlyHost s t ∧ t.host.queries = s.host.queries ∧ sends t i 1
        (.status i d.msgid (if (s.query lq.part lq.req.toNat).isSome = true then stDupReq else stBadParam) 0 lq.req.toNat 0)) ∧
    (s.query p id.toNat = none → ∃ t, exec (.lcOutputArrive part id c crc data) s = .next t ∧ t.host = s.host ∧ t.cores = s.cores ∧
      t.safety = { s.safety with dcrcFail := min 65535 (s.safety.dcrcFail + 1) }) ∧
    (∀ x, s.query p id.toNat = some x → x.fault = false → x.orphan = false →
      let notes := b2n x.fallback + 2 * b2n x.dip
      let gone := fun (t : State) (v : Nat) (d : BitVec 32) (o : List Byte) (y : Query) => t.cores = s.cores ∧ t.hbm = s.hbm ∧
        (if s.canSend x.sess 1 = true ∨ (s.sess x.sess).isOpen = false then t.query p id.toNat = none
          else t.query p id.toNat = some y) ∧ sends t x.sess 1 (.lcResponse x.sess x.req v notes x.answering x.arrive s.now d o)
      (x.schedLate = false → s.now < s.latePoint x →
        (crc32c 0 data = crc → data.length ≤ x.outMax → ∃ t, exec (.lcOutputArrive part id c crc data) s = .next t ∧
          let y := { x with
            output := some data
            dcrc := crc }
          if x.released = true then gone t 0 crc data y else OnlyHost s { t with fab := s.fab } ∧ t.query p id.toNat = some y) ∧
        (crc32c 0 data ≠ crc ∨ x.outMax < data.length → ∃ t, exec (.lcOutputArrive part id c crc data) s = .next t ∧
          gone t 1 0 [] { x with fault := true } ∧ t.safety.dcrcFail = min 65535 (s.safety.dcrcFail + 1)) ∧
        (s.mayRelease x = true → ∃ t, exec (.release part id) s = .next t ∧ t.safety.releases = s.safety.releases + 1 ∧
          (match x.output with
            | some o => gone t 0 x.dcrc o { x with released := true }
            | none => t.query p id.toNat = some { x with released := true })) ∧
        exec (.latePoint part id) s = .next s) ∧
      (s.mayRelease x = false → exec (.release part id) s = .next s) ∧
      (s.latePoint x ≤ s.now → ∃ t, exec (.latePoint part id) s = .next t ∧ gone t 2 0 [] x)) ∧
    (∀ r rest, k.hop.gates = r :: rest → ∃ t, exec (.gateRecord c) s = .next t ∧ (t.core c.val).hop.gates = rest ∧
      OnlyHost s { t with cores := s.cores } ∧ (∀ e, e ≠ c.val → t.core e = s.core e) ∧
      (if s.host.gates.length < 4096 then t.host.gates.map (·.item) = s.host.gates.map (·.item) ++ [(s.now, r)] else
        t.host = s.host ∧ (t.core c.val).hop.gateDrop = min 65535 (k.hop.gateDrop + 1))) ∧
    (let n := (s.host.gates.filter (fun h => !h.sent)).length;
      ∀ w, s.host.gateAt = some w →
        (s.now < w + 1000 * fld s.host.hold 16 16 → exec .gateFlush s = .next s) ∧
        (w + 1000 * fld s.host.hold 16 16 ≤ s.now → s.subscribers subGate ≠ [] → ∃ t, exec .gateFlush s = .next t ∧ OnlyHost s t ∧
          t.host.gates.map (·.item) = s.host.gates.map (·.item) ∧
          (t.host.gates.filter (fun h => !h.sent)).length = n - min 256 n)) ∧
    (∀ r rest, s.reports = r :: rest → ∃ t, exec .faultReport s = .next t ∧ t.reports = rest ∧ t.hbm = s.hbm ∧
      (r.core < 360 → r.slot < 64 → ((s.core r.core).slot r.slot).state = .faulted → ((t.core r.core).slot r.slot).taken = true) ∧
      (if s.host.faults.length < 1024 then t.host.nextFseq = (s.host.nextFseq + 1) % 2 ^ 32 ∧
          t.glob.newest = some (s.host.nextFseq, r) ∧ ∃ h, h ∈ t.host.faults ∧ h.item.1 = s.host.nextFseq ∧ h.item.2.2 = r
        else t.host.faultLost = min 65535 (s.host.faultLost + 1) ∧ t.host.faults = s.host.faults)) ∧
    (if s.host.telemAt + 1000000 * fld s.host.hold 32 16 ≤ s.now then ∃ t, exec .telemPeriod s = .next t ∧ t.host.telemAt = s.now ∧
        OnlyHost s { t with bays := s.bays, free := s.free, sched := s.sched, cores := s.cores } ∧ (∀ c, SameCore (s.core c) (t.core c)) ∧ ∀ b, b < 12 → (t.bay b).energy = 0
      else exec .telemPeriod s = .next s)

/-- A neighbour solicitation, an ARP request or an echo request for an address in use is answered once and nothing else
differs; for any other address nothing differs. A pause frame and another protocol's frame are counted. A PFC frame
sets the pause of each named priority and no other. ENABLE brings a port with a defined mode up in it, training
completes only on an enabled port, a lost link is reported. Acknowledged stripes are subtracted from the write in
progress, the last of a part removes it, an error marks the queue pair and fails the tier write; a packet for no local
queue pair is counted. A CNP halves the rate once in 50 us and 100 us without one raises it by 1/16 of the line rate
up to that rate. A read response in a restore from the store counts its bytes, keeps those of the 4 KiB block and
writes those behind it to the shard; any other is counted. No core changes and, but for what a lane then sends,
nothing outside the named state. On the conditions on state and operands that each clause names, and on nothing else,
exec answers a next state, the one the clause describes, for: NEIGHBOR_SOLICITATION, ICMP_ECHO, ARP, PAUSE_FRAME,
OTHER_PROTOCOL_FRAME, PFC_FRAME, HP_ENABLE, HOST_LINK_UP, HOST_PORT_DOWN, CNP, ROCE_ACK, ROCE_RATE_RAISE,
RDMA_READ_RESPONSE. (R387, R401, R402, R404, R428, R429, R430, R514, 15_host_port_and_transport.md) -/
def Obligations.FramesAndQueuePairsTakeEffect : Prop :=
  ∀ (s : State) (a6 : BitVec 128) (a4 : BitVec 32) (data : List Byte) (cl : BitVec 8) (quanta : List Nat) (g : BitVec 6) (p : BitVec 24) (n : Nat) (at_ : ReadAt),
    let h := s.host
    let sends := fun (c : Instr) (o : Out) => exec c s = .next { s with out := s.out ++ [o] }
    let counts := fun (c : Instr) (x : HostPort) => exec c s = .next { s with host := x }
    let mode := fld h.ctl 0 3
    let same := fun (t : State) => ∀ e, e < 360 → t.core e = s.core e
    let pair := fun (t : State) (j : Nat) (x : Qp) => t.host.qps.get {} j = x ∧ ∀ m, m ≠ j → t.host.qps.get {} m = h.qps.get {} m
    (if h.ownIp6 a6 = true then sends (.neighborSolicitation a6) (.neighborAdvert a6) ∧ sends (.icmpEcho true a6 data) (.echoReply a6 data)
      else exec (.neighborSolicitation a6) s = .next s ∧ exec (.icmpEcho true a6 data) s = .next s) ∧
    (if h.ownIp4 a4 = true then sends (.arp a4) (.arpReply a4) ∧
        sends (.icmpEcho false (a4.setWidth 128) data) (.echoReply (a4.setWidth 128) data)
      else exec (.arp a4) s = .next s ∧ exec (.icmpEcho false (a4.setWidth 128) data) s = .next s) ∧
    counts .pauseFrame { h with pauseRx := min 65535 (h.pauseRx + 1) } ∧
    counts .otherProtocolFrame { h with rxOther := min 65535 (h.rxOther + 1) } ∧
    (∃ t, exec (.pfcFrame cl quanta) s = .next t ∧ OnlyHost s { t with safety := s.safety } ∧ ∀ j, j < 8 → t.host.pfc.get 0 j =
      if bit cl j = true then s.now + cdiv (512 * (quanta.getD j 0 % 65536)) (modeRate h.mode) else h.pfc.get 0 j) ∧
    (if bit h.ctl 3 = false ∧ 1 ≤ mode ∧ mode ≤ 5 then ∃ t, exec .hpEnable s = .next t ∧ { t with host := h } = s ∧
        { t.host with ctl := h.ctl, mode := h.mode } = h ∧ bit t.host.ctl 3 = true ∧ fld t.host.ctl 0 3 = mode ∧ t.host.mode = mode
      else exec .hpEnable s = .next s) ∧
    (if bit h.ctl 3 = true then counts .hostLinkUp { h with up := true } else exec .hostLinkUp s = .next s) ∧
    (if h.up = true then ∃ t, exec .hostPortDown s = .next t ∧ { t with host := h, reports := s.reports, saddleReports := s.saddleReports } = s ∧
        t.host = { h with up := false } ∧ (s.rst.running = [] → ∃ r, t.reports = s.reports ++ [r] ∧ r.code = codeHostPortDown)
      else exec .hostPortDown s = .next s) ∧
    (s.qpTarget p.toNat = none → counts (.cnp p) { h with roceDrop := min 65535 (h.roceDrop + 1) } ∧
      ∀ e, counts (.roceAck p n e) { h with roceDrop := min 65535 (h.roceDrop + 1) }) ∧
    (∀ j, s.qpTarget p.toNat = some j →
      let q := h.qps.get {} j
      let cut := ∀ w, q.lastCut = some w → w + 50000 ≤ s.now
      (∀ w, s.ckpt.writes.find? (fun w => w.2.1) = some w →
        (n < w.2.2 → ∃ t, exec (.roceAck p n false) s = .next t ∧ { t with ckpt := s.ckpt } = s ∧
          t.ckpt = { s.ckpt with writes := s.ckpt.writes.map (fun x => if x = w then (w.1, true, w.2.2 - n) else x) }) ∧
        (w.2.2 ≤ n → ∃ t, exec (.roceAck p n false) s = .next t ∧ same t ∧ t.hbm = s.hbm ∧ t.host.qps = h.qps ∧
          t.ckpt.writes = s.ckpt.writes.filter (fun x => x ≠ w)) ∧
        ∃ t, exec (.roceAck p n true) s = .next t ∧ same t ∧ t.hbm = s.hbm ∧ pair t j { q with error := true } ∧
          t.ckpt.writes = s.ckpt.writes.filter (fun x => x ≠ w) ∧ t.ckpt.tierFail = min 65535 (s.ckpt.tierFail + 1)) ∧
      (s.ckpt.writes.find? (fun w => w.2.1) = none → exec (.roceAck p n false) s = .next s) ∧
      ∃ t, exec (.cnp p) s = .next t ∧ { t with host := h } = s ∧ { t.host with cnp := h.cnp, qps := h.qps } = h ∧
        t.host.cnp = min 65535 (h.cnp + 1) ∧ (cut → pair t j { q with
          rate := q.rate / 2
          lastCut := some s.now
          lastCnp := s.now }) ∧ (¬ cut → pair t j { q with lastCnp := s.now })) ∧
    (let q := h.qps.get {} g.toNat;
      if q.lastCnp + 100000 ≤ s.now then ∃ t, exec (.roceRateRaise g) s = .next t ∧ { t with host := h } = s ∧
        { t.host with qps := h.qps } = h ∧ pair t g.toNat { q with
          rate := min (2 ^ 40) (q.rate + 2 ^ 36)
          lastCnp := s.now }
      else exec (.roceRateRaise g) s = .next s) ∧
    (if s.ckpt.fill.fromStore = true ∧ s.ckpt.fill.state = 3 ∧ (s.qpTarget at_.qpn.toNat).isSome = true then
        ∃ t, exec (.rdmaReadResponse at_ data) s = .next t ∧ OnlyHost s { t with ckpt := s.ckpt, hbm := s.hbm } ∧
          t.host = { h with restoreBytes := h.restoreBytes + data.length } ∧
          t.glob.acctHost = min (2 ^ 64 - 1) (s.glob.acctHost + data.length) ∧
          t.ckpt = { s.ckpt with block := memWrite s.ckpt.block at_.offset (data.take (4096 - at_.offset)) } ∧
          t.hbm = (s.shardPut (s.fillOff + (at_.offset - 4096)) (data.drop (4096 - at_.offset))).hbm
      else counts (.rdmaReadResponse at_ data) { h with roceDrop := min 65535 (h.roceDrop + 1) })

/-- An allowed write stores its 64 bytes through the region table and changes no core; an allowed read corrects a
correctable sector and changes no byte; one of an uncorrectable sector, an unmapped and a denied one are reported and
counted and change no byte. VALID is set on an entry that nothing refuses and stays clear with the reason otherwise; a
valid entry changes only by clearing VALID; no byte of memory changes. Shares above 100 are ignored. Scrub corrects,
counts or reports and changes no byte. CKPT_GB is taken while nothing is held on flash and the size fits, and is
rejected otherwise. A read generation with the recorded digest, no stack FAILED, restores its shard, its step and the
sample cursor, another or an uncorrectable one does not; a written part is accounted, a failed one counted; an
unreadable paused cache, and every paused cache of a failed stack, is lost. On the conditions on state and operands
that each clause names, and on nothing else, exec answers a next state, the one the clause describes, for:
FLASH_TRANSFER_DONE, HBM_REQUEST, HBM_REGION_VALIDATE, HBM_REGION_INVALIDATE, HBM_ARB_WRITE, PATROL_SCRUB,
CKPT_GB_WRITE, FLASH_STACK_FAILURE. (R387, R389, R433, R434, R435, R436, R438, R441, R442, R444, R445, R447) -/
def Obligations.MemoryAndFlashCommandsTakeEffect : Prop :=
  ∀ (s : State) (q : HbmReq) (r : Fin 64) (v : Word) (bay : Fin 12) (st : Fin 24) (sec : Nat) (c : CoreId) (ln : BitVec 17)
      (row : BitVec 10) (step : BitVec 32) (part : Fin 12) (req : Word) (dg : BitVec 512) (f : Fin 4),
    let h := s.hbm
    let a := q.addr.toNat / 64 * 64
    let k := s.core c.val
    let n := step.toNat
    let same := fun (t : State) => ∀ e, e < 360 → t.core e = s.core e
    let onlyHbm := fun (t : State) => { t with hbm := h } = s
    let tells := fun (t : State) (code : Nat) => s.rst.running = [] → ∃ x, x ∈ t.reports.drop s.reports.length ∧ x.code = code
    let quiet := fun (t : State) => { t with hbm := h, reports := s.reports, saddleReports := s.saddleReports } = s ∧ t.hbm.mem = h.mem
    let rgn := fun (t : State) => { t.hbm with rgn := h.rgn, rgn2 := h.rgn2, err := h.err, moved := h.moved } = h ∧ onlyHbm t ∧ t.hbm.rgn2 = h.rgn2 ∧
      ∀ m, m ≠ r.val → t.hbm.rgn.get 0 m = h.rgn.get 0 m
    let key := st.val * stackBytes / 64 + sec
    let flash := fun (digest : BitVec 512) (u : Bool) => exec (.flashTransferDone true step part req digest u) s
    (hbmReqCheck s q = .ok →
      (∀ bs, q.write = some bs → h.stoppedIn a 64 = none → exec (.hbmRequest q) s = .next { s with hbm := h.write a (bs.take 64) }) ∧
      (∀ bs x, q.write = some bs → h.stoppedIn a 64 = some x → ∃ t, exec (.hbmRequest q) s = .next t ∧ quiet t ∧ tells t codeMemUncorr) ∧
      (q.write = none → h.mark a ≠ 2 → ∃ t, exec (.hbmRequest q) s = .next t ∧ onlyHbm t ∧ t.hbm.mem = h.mem ∧
        ∀ b, h.key a = some b → h.bad.get 0 (b / 64) = 1 → t.hbm.bad.get 0 (b / 64) = 0 ∧
          t.hbm.ce.get 0 (b / stackBytes) = min (2 ^ 32 - 1) (h.ce.get 0 (b / stackBytes) + 1)) ∧
      (q.write = none → h.mark a = 2 → ∃ t, exec (.hbmRequest q) s = .next t ∧ t.hbm.mem = h.mem ∧
        tells t codeMemUncorr ∧ ((∀ c, q.who ≠ .saveRestore c) → same t) ∧
        (q.who = .n1 → t.ckpt.writes = s.ckpt.writes.filter (fun w => !w.2.1)) ∧
        (q.who = .flash → t.ckpt.writes = s.ckpt.writes.filter (fun w => w.2.1)))) ∧
    (hbmReqCheck s q = .unmapped → ∃ t, exec (.hbmRequest q) s = .next t ∧ quiet t ∧ tells t codeHbmUnmapped ∧
      t.hbm = { h with unmapped := min 65535 (h.unmapped + 1) }) ∧
    (hbmReqCheck s q = .denied → ∃ t, exec (.hbmRequest q) s = .next t ∧ quiet t ∧ tells t codeHbmDenied ∧
      t.hbm = { h with denied := min 65535 (h.denied + 1) }) ∧
    (bit v 41 = true → h.valid r.val = false → ∃ t, exec (.hbmRegionValidate r v) s = .next t ∧ rgn t ∧
      (let e := h.refusal r.val (regionOf v (h.rgn2.get 0 r.val));
        t.hbm.err = e ∧ t.hbm.valid r.val = decide (e = 0) ∧ t.hbm.region r.val = regionOf v (h.rgn2.get 0 r.val))) ∧
    (bit v 41 = true → h.valid r.val = true → ∃ t, exec (.hbmRegionValidate r v) s = .next t ∧ rgn t ∧ t.hbm.rgn = h.rgn) ∧
    (bit v 41 = false → ∃ t, exec (.hbmRegionInvalidate r v) s = .next t ∧ rgn t ∧ t.hbm.valid r.val = false ∧
      (h.valid r.val = true → t.hbm.region r.val = h.region r.val)) ∧
    (if 100 < fld v 0 7 + fld v 7 7 then exec (.hbmArbWrite bay v) s = .next s
      else ∃ t, exec (.hbmArbWrite bay v) s = .next t ∧ onlyHbm t ∧ { t.hbm with arb := h.arb } = h ∧
        (t.hbm.arbOf bay.val).toNat = fld v 0 14 ∧ ∀ b, b ≠ bay.val → t.hbm.arbOf b = h.arbOf b) ∧
    (bit h.scrub 8 = false → exec (.patrolScrub (.sector st sec)) s = .next s) ∧
    (bit h.scrub 8 = true → sec < 1000000000 →
      (key ∉ h.moved → h.bad.get 0 key = 0 → exec (.patrolScrub (.sector st sec)) s = .next s) ∧
      (key ∉ h.moved → h.bad.get 0 key = 1 → ∃ t, exec (.patrolScrub (.sector st sec)) s = .next t ∧ onlyHbm t ∧ t.hbm.mem = h.mem ∧
        t.hbm.bad.get 0 key = 0 ∧ t.hbm.ce.get 0 st.val = min (2 ^ 32 - 1) (h.ce.get 0 st.val + 1)) ∧
      (key ∈ h.moved ∨ h.bad.get 0 key = 2 → ∃ t, exec (.patrolScrub (.sector st sec)) s = .next t ∧ quiet t ∧ tells t codeMemUncorr)) ∧
    (∃ t, exec (.patrolScrub (.line c ln)) s = .next t ∧
      OnlyCore s { t with reports := s.reports, saddleReports := s.saddleReports } c.val ∧ (t.core c.val).sp.mem = k.sp.mem ∧
      (t.core c.val).seq = k.seq ∧ ((k.spFix (256 * ln.toNat) 256).spBad (256 * ln.toNat) 256 = true → tells t codeMemUncorr)) ∧
    (∃ t, exec (.patrolScrub (.row c row)) s = .next t ∧
      OnlyCore s { t with reports := s.reports, saddleReports := s.saddleReports } c.val ∧ (t.core c.val).mash.acc = k.mash.acc ∧
      (t.core c.val).passes = (if row.toNat = 1023 then min (2 ^ 32 - 1) (k.passes + 1) else k.passes)) ∧
    (∃ t, exec (.ckptGbWrite v) s = .next t ∧ { t with flash := s.flash } = s ∧ { t.flash with cfg := s.flash.cfg } = s.flash ∧
      (if s.gens = [] ∧ s.flash.paused = [] ∧ fld v 0 13 ≤ 7996 then t.flash.cfg.toNat = fld v 0 13
        else bit t.flash.cfg 13 = true ∧ fld t.flash.cfg 0 13 = fld s.flash.cfg 0 13)) ∧
    (∀ g, s.ckpt.restore = some n → s.gens.find? (fun x => decide (x.step = n)) = some g →
      ((∀ i, i < 4 → s.flash.state i ≠ 3) → ∃ t, flash g.digest false = .next t ∧ t.ckpt.restore = none ∧ t.cinch.committed.toNat = g.srec.step % 2 ^ 32 ∧
        t.cinch.ls = g.srec.ls ∧
        t.hbm = (s.shardPut 0 g.shard).rebuildWeights.hbm.write Config.cursorAddr g.srec.cursor) ∧
      (∀ u, dg ≠ g.digest ∨ u = true → ∃ t, flash dg u = .next t ∧ t.cinch.committed = s.cinch.committed ∧ t.cores = s.cores ∧
        tells t codeCkptDigest)) ∧
    (s.ckpt.restore ≠ some n → (∃ w, w ∈ s.ckpt.writes ∧ w.1 = n ∧ w.2.1 = false) →
      (s.flash.stopped = false → ∃ t, flash dg false = .next t ∧ same t ∧ t.hbm = h ∧
        t.ckpt.writes = s.ckpt.writes.filter (fun w => !(w.1 = n && !w.2.1)) ∧ t.ckpt.tierFail = s.ckpt.tierFail ∧
        ∀ i, i < 4 → t.flash.written.get 0 i = s.flash.written.get 0 i + flashShare (s.shardBytes + 4096) i) ∧
      (∃ t, flash dg true = .next t ∧ same t ∧ t.hbm = h ∧ t.ckpt.tierFail = min 65535 (s.ckpt.tierFail + 1))) ∧
    (∀ x, x ∈ s.flash.paused → x.part = part.val → x.req = req.toNat →
      ∃ t, exec (.flashTransferDone false step part req dg true) s = .next t ∧ t.cores = s.cores ∧ t.hbm = h ∧
        t.flash.ue = min 65535 (s.flash.ue + 1) ∧ t.flash.lost = min 65535 (s.flash.lost + 1) ∧
        ∀ y, y ∈ t.flash.paused ↔ y ∈ s.flash.paused ∧ ¬ (y.part = part.val ∧ y.req = req.toNat)) ∧
    (∃ t, exec (.flashStackFailure f) s = .next t ∧ t.cores = s.cores ∧ t.hbm = h ∧ t.flash.st.get 0 f.val = 3 ∧ t.flash.paused = [] ∧
      tells t codeFlashStack)

/-- When 500 us have passed without a test on a core of an ON bay its stations take no stream until a test has run. A test
without an ACTIVE stream ends with the counts of PASS or FAIL; a failed one bars the core and is reported. A closing
test that passes is noted for the launched queries of its core, one that fails bars the core. A kernel of an enforced
model more than 13,000 cycles past its SIGCHK faults. A clock window outside 2 % is counted and reported, on the
control clock the package resets; one inside changes nothing. A heartbeat is noted. Silence, an LC fault or a lockstep
mismatch stops what the rules say: silence marks every query FAULT, answers those whose lane can take it, and after a
mismatch resets the package. A report at Saddle marks FAULT each launched query it names, answers it when its lane can
take it, and touches no other. Every other core is as before, but for when its engine time was last charged. On the
conditions on state and operands that each clause names, and on nothing else, exec answers a next state, the one the
clause describes, for: CLOCK_MONITOR_WINDOW, STI_PERIODIC, TEST_INJECTION_DONE, CLOSING_TEST_DONE, CFSIG_OVERDUE,
SADDLE_HEARTBEAT, SADDLE_SILENT, SADDLE_LOCKSTEP, LC_ENGINE_LOCKSTEP, SADDLE_FAULT_REPORT. (R23, R454, R455, R456,
R459, R460, R461, R462, R504, 17_functional_safety.md) -/
def Obligations.SafetyMonitorsTakeEffect : Prop :=
  ∀ (s : State) (c : CoreId) (sig : Word) (fs : BitVec 8) (fq : Bool) (bay : Fin 12) (site : Fin 100) (khz : Nat),
    let k := s.core c.val
    let x := s.bay bay.val
    let p := s.partOf c.val
    let on := (s.bay (bayOf c.val)).state = .on
    let calm := s.rst.running = []
    let quiet := fun (t : State) => { t with cores := s.cores, reports := s.reports, saddleReports := s.saddleReports } = s ∧
      ∀ d, d ≠ c.val → t.core d = s.core d
    let ends := fun (pass : Bool) (t : State) =>
      (t.core c.val).safe.testing = false ∧ (t.core c.val).safe.lastTest = s.now ∧
      (if pass = true then (t.core c.val).safe.pass = min 65535 (k.safe.pass + 1) ∧ (t.core c.val).safe.fail = k.safe.fail ∧
          (t.core c.val).safe.barred = k.safe.barred
        else (t.core c.val).safe.fail = min 65535 (k.safe.fail + 1) ∧ (t.core c.val).safe.failStn = fs ∧
          (t.core c.val).safe.failSeq = fq ∧ (t.core c.val).safe.barred = true ∧
          (calm → ∃ r, t.reports = s.reports ++ [r] ∧ r.code = codeSafetySti ∧ r.core = c.val))
    let watched := k.seq.kernel.any (fun r => r.enforced) = true ∧ k.seq.faulted = none ∧ k.seq.parked = false ∧
      k.seq.sigMark + 13000 < s.mashOf c.val
    let window := fun (n : ClockName) (f : Nat) =>
      (outOfRange khz f = false → exec (.clockMonitorWindow n khz) s = .next s) ∧
      (outOfRange khz f = true → ∃ t, exec (.clockMonitorWindow n khz) s = .next t ∧
        { t with safety := s.safety, reports := s.reports, saddleReports := s.saddleReports } = s ∧
        t.safety = { s.safety with clock := min 65535 (s.safety.clock + 1) } ∧
        (calm → ∃ r, t.reports = s.reports ++ [r] ∧ r.code = codeClockRange ∧ r.detail = khz))
    (if on ∧ k.safe.lastTest + 500000 ≤ s.now then ∃ t, exec (.stiPeriodic c) s = .next t ∧ OnlyCore s t c.val ∧
        t.core c.val = { k with safe := { k.safe with testing := true } }
      else exec (.stiPeriodic c) s = .next s) ∧
    (if on ∧ Core.slotNums.all (fun n => decide ((k.slot n).state ≠ .active)) = true then ∃ t, exec (.testInjectionDone c sig fs fq) s = .next t ∧ quiet t ∧
        { t.core c.val with safe := k.safe } = k ∧ ends (decide (sig = Config.romSignature)) t
      else exec (.testInjectionDone c sig fs fq) s = .next s) ∧
    (k.safe.closing = false → exec (.closingTestDone c fs fq) s = .next s) ∧
    (k.safe.closing = true → (s.schedOf p).waiting = [] → (∀ w, w ∈ (s.schedOf p).placed → w.state ≠ .saved ∧ w.state ≠ .restoring) →
      ∃ t, exec (.closingTestDone c fs fq) s = .next t ∧ ends (decide (fs = 0) && !fq) t ∧ (t.core c.val).safe.closing = false ∧
        SameCore { k with safe := (t.core c.val).safe } (t.core c.val) ∧ (∀ d, d ≠ c.val → SameCore (s.core d) (t.core d)) ∧
        (fs = 0 → fq = false → ∀ q, q ∈ t.host.queries → q.launched = true → q.released = false → c.val ∈ q.cores → c.val ∈ q.passed)) ∧
    (watched → ∃ t, exec (.cfsigOverdue c) s = .next t ∧ SeqFaulted s t c.val codeCfsigOverdue) ∧
    (¬ watched → exec (.cfsigOverdue c) s = .next s) ∧
    (x.state = .on → window (.mash bay) (((x.clk.getLast?.map (·.freq)).getD x.freq) * 12500)) ∧
    (x.state ≠ .on → exec (.clockMonitorWindow (.mash bay) khz) s = .next s) ∧
    window (.fabric site) 1465000 ∧
    (if outOfRange khz 1000000 = true then ∃ t, exec (.clockMonitorWindow .control khz) s = .next t ∧ t.rst.last = 6 ∧ t.cores = [] ∧
        t.rst.phase = 0 ∧ t.rst.retained = s.rst.retainAuto ∧ (t.reports.head?.map (·.code)) = some codeResetCause
      else exec (.clockMonitorWindow .control khz) s = .next s) ∧
    (if s.safety.saddleStopped = true then exec .saddleHeartbeat s = .next s
      else exec .saddleHeartbeat s = .next { s with safety := { s.safety with
        lastBeat := s.now
        saddleSilent := false } }) ∧
    (let due := s.safety.saddleSilent = false ∧ s.safety.lastBeat + 1000 * fld s.safety.ctl 32 16 ≤ s.now;
      (¬ due → exec .saddleSilent s = .next s) ∧
      (due → s.safety.saddleStopped = false → ∃ t, exec .saddleSilent s = .next t ∧ t.safety.saddleSilent = true ∧ t.cores = s.cores ∧
        t.hbm = s.hbm ∧ ∀ a r q, t.query a r = some q → q.fault = true ∧ q.orphan = false ∧ t.canSend q.sess 1 = false) ∧
      (due → s.safety.saddleStopped = true → ∃ t, exec .saddleSilent s = .next t ∧ t.rst.last = 5 ∧ t.cores = [])) ∧
    (∃ t, exec .saddleLockstep s = .next t ∧ { t with safety := s.safety, reports := s.reports, saddleReports := s.saddleReports } = s ∧
      t.safety = { s.safety with saddleStopped := true } ∧
      (calm → ∃ r, t.reports = s.reports ++ [r] ∧ r.code = codeSaddleLockstep)) ∧
    exec .lcEngineLockstep s = .next { s with host := { s.host with lcStopped := true } } ∧
    (∀ r rest, s.saddleReports = r :: rest → ∃ t, exec .saddleFaultReport s = .next t ∧ t.saddleReports = rest ∧ t.cores = s.cores ∧
      t.reports = s.reports ∧ ((∀ q, q ∈ s.host.queries → s.names r q = false) → t = { s with saddleReports := rest }) ∧
      (∀ q, s.query q.part q.req = some q → s.names r q = true → q.launched = true → q.released = false → q.fault = false →
        match t.query q.part q.req with
        | none => True
        | some y => y.fault = true ∧ t.canSend y.sess 1 = false) ∧
      ∀ q, q ∈ s.host.queries → (∀ y, y ∈ s.host.queries → y.part = q.part → y.req = q.req → s.names r y = false) → q ∈ t.host.queries)

/-- A core rail below its warning level puts an ON or RESET bay in a dip at half clock, the restore timer runs only above
the restore level and ends the dip after 20 us at the clock of its bins; a rail below the reset level resets that bay
alone, with its cores' state lost. A service rail below its warning level is reported, and below its reset level
resets the package, takes its ports down, or stops its stacks. An acknowledged setpoint is kept; the PLL moves one bin
towards its target; at THROTTLE_C THR_BIN rises, and falls when cool; a trip resets a bay or the package; mean power
above the cap raises THR_BIN of every ON bay. A re-plan keeps the slack and lowers neither setpoint nor PLAN_BIN. A
power request refused changes no bay state; RETENTION and GATED are entered with the stacks dark, GATED with their
data and the cores' state lost; a bay asked back is ON, after RETENTION with empty scratchpads. Every other bay is as
before. On the conditions on state and operands that each clause names, and on nothing else, exec answers a next
state, the one the clause describes, for: DIP_START, RAIL_ABOVE_RESTORE, RAIL_BELOW_RESTORE, DIP_RESTORE,
BAY_SUPPLY_RESET, SUPPLY_WARN, SERVICE_RAIL_RESET, SETPOINT_ACK, PLL_STEP, THERMAL_STEP, THERMAL_TRIP, POWER_MEASURE,
MARGIN_REPLAN, BAY_PWR_ON, BAY_PWR_RETENTION, BAY_PWR_GATED, BAY_ON_COMPLETE. (R466, R467, R468, R469, R470, R472,
R473, R478, R479, R480, R482, 18_power_clocks_and_ageing.md) -/
def Obligations.PowerEventsTakeEffect : Prop :=
  ∀ (s : State) (bay : Fin 12) (mv offsetMv bins : Nat) (rail : Rail) (hot : BitVec 8) (w16 slack : BitVec 16) (site : Fin 100)
      (after : Bool),
    let b := bay.val
    let x := s.bay b
    let calm := s.rst.running = []
    let only := fun (c : Instr) (y : Bay → Prop) => ∃ t, exec c s = .next t ∧ OnlyBay s t b ∧ y (t.bay b)
    let others := fun (t : State) (a : Nat) => ∀ d, d ≠ a → t.bay d = s.bay d
    let lost := fun (t : State) (a : Nat) => ∀ c, c ∈ bayCores a → (t.core c).sp.mem = [] ∧ (t.core c).seq.kernel = none ∧ (t.core c).slots = []
    let resets := fun (t : State) (a : Nat) => (t.bay a).state = .reset ∧ (t.bay a).resets = min 65535 ((s.bay a).resets + 1) ∧
      (t.bay a).mash = 0 ∧ (t.bay a).dip = false ∧ others t a ∧ lost t a
    let thr := fld s.glob.thermCtl 0 8
    let up := fun (z : Bay) => if z.planBin + z.thrBin < 20 then z.thrBin + 1 else z.thrBin
    let falls := 0 < x.thrBin ∧ x.lastBin + 1000000 ≤ s.now ∧ hot.toNat + 3 < thr ∧ x.temp + 3 < thr ∧
      x.coolSince + 1000000 ≤ s.now ∧ s.meanBelow 95 = true
    let mean := (w16.toNat :: s.glob.watts).take 10
    let asks := fun (c : Instr) (req : Nat) (st : BayState) =>
      (s.bayReqErr b req ≠ 0 → only c (fun y => y = { x with err := s.bayReqErr b req })) ∧
      (s.bayReqErr b req = 0 → ∃ t, exec c s = .next t ∧ others t b ∧ (t.bay b).req = req ∧ (t.bay b).err = 0 ∧
        (t.bay b).state = (if x.state = .reset ∨ req = 0 then x.state else st) ∧
        (if x.state ≠ .reset ∧ req = 2 then lost t b else t.cores = s.cores) ∧
        (x.state ≠ .reset → req ≠ 0 → t.hbm.asleep (2 * b) = true ∧ t.hbm.asleep (2 * b + 1) = true) ∧
        ∀ a, memByte t.hbm.mem a = if x.state ≠ .reset ∧ req = 2 ∧ a / stackBytes / 2 = b then 0 else memByte s.hbm.mem a)
    (if (x.state = .on ∨ x.state = .reset) ∧ x.below mv 94 = true then ∃ t, exec (.dipStart bay mv) s = .next t ∧ t.cores = s.cores ∧ t.hbm = s.hbm ∧
        others t b ∧ (t.bay b).dip = true ∧ (t.bay b).lowMv = (if x.dip = true then min x.lowMv mv else mv) ∧
        (t.bay b).freq = 52 - x.pllBin ∧ (t.bay b).restoreAt = none ∧ (x.dip = false → ((t.bay b).clk.getLast?.map (·.cause)) = some causeDip)
      else exec (.dipStart bay mv) s = .next s) ∧
    only (.railAboveRestore bay) (fun y => y = if x.dip = true ∧ x.restoreAt = none then { x with restoreAt := some s.now } else x) ∧
    only (.railBelowRestore bay) (fun y => y = if x.dip = true then { x with restoreAt := none } else x) ∧
    only (.dipRestore bay) (fun y =>
      if x.dip = true ∧ x.restoreAt.any (fun a => decide (a + 20000 ≤ s.now)) = true then y.dip = false ∧ y.restoreAt = none ∧ y.freq = 104 - 2 * x.bins ∧
        y.dipCnt = min (2 ^ 32 - 1) (x.dipCnt + 1) ∧ y.planDue = true ∧ y.state = x.state ∧ (y.clk.getLast?.map (·.cause)) = some causeRestore
      else y = x) ∧
    (if x.state = .on ∧ x.below mv 88 = true then ∃ t, exec (.baySupplyReset bay mv) s = .next t ∧ resets t b ∧
        (calm → ∃ r, r ∈ t.reports.drop s.reports.length ∧ r.code = codeBaySupplyReset ∧ r.unit = b)
      else exec (.baySupplyReset bay mv) s = .next s) ∧
    (railBelow rail mv 94 = false → exec (.supplyWarn rail mv) s = .next s) ∧
    (railBelow rail mv 94 = true → ∃ t, exec (.supplyWarn rail mv) s = .next t ∧ { t with reports := s.reports, saddleReports := s.saddleReports } = s ∧
      (calm → ∃ r, t.reports = s.reports ++ [r] ∧ r.code = codeSupplyWarn ∧ r.detail = mv)) ∧
    (railBelow rail mv 88 = false → exec (.serviceRailReset rail mv) s = .next s) ∧
    (railBelow rail mv 88 = true → ∃ t, exec (.serviceRailReset rail mv) s = .next t ∧
      (match rail with
        | .fab => t.rst.last = 3 ∧ t.rst.retained = false ∧ t.cores = []
        | .ctl => t.rst.last = 3 ∧ t.rst.retained = s.rst.retainAuto ∧ t.cores = []
        | .link => t.host.up = false ∧ ∀ p, p < 16 → (t.port p).state = .down
        | .hbm pair => { t with hbm := s.hbm } = s ∧ { t.hbm with stopped := s.hbm.stopped } = s.hbm ∧
            ∀ z, z ∈ t.hbm.stopped ↔ z / 2 = pair.val ∨ z ∈ s.hbm.stopped
        | .flash => t.flash.railDown = true ∧ t.flash.stopped = true ∧ t.flash.paused = [] ∧ t.cores = s.cores)) ∧
    only (.setpointAck bay mv) (fun y => y = { x with acked := mv }) ∧
    only (.pllStep bay) (fun y => if x.state ≠ .on ∨ x.pllBin = x.bins then y = x else
      y.pllBin = (if x.pllBin < x.bins then x.pllBin + 1 else x.pllBin - 1) ∧ y.state = .on ∧ (y.clk.getLast?.map (·.cause)) = some x.binCause) ∧
    (∃ t, exec (.thermalStep bay hot) s = .next t ∧ OnlyBay s { t with out := s.out } b ∧ (t.bay b).temp = hot.toNat ∧
      (t.bay b).planBin = x.planBin ∧ (t.bay b).thrBin =
        if thr ≤ hot.toNat then (if x.state = .on ∧ (x.lastRise = 0 ∨ x.lastRise + 100000 ≤ s.now) then up x else x.thrBin)
        else if falls then x.thrBin - 1 else x.thrBin) ∧
    (hot.toNat < fld s.glob.thermCtl 8 8 → exec (.thermalTrip site hot) s = .next s) ∧
    (fld s.glob.thermCtl 8 8 ≤ hot.toNat →
      (site.val < 60 → (s.bay (site.val / 5)).state ≠ .reset → ∃ t, exec (.thermalTrip site hot) s = .next t ∧ resets t (site.val / 5) ∧
        t.rst.thermAlert = true ∧ t.alertLow = true) ∧
      (site.val < 60 → (s.bay (site.val / 5)).state = .reset → exec (.thermalTrip site hot) s = .next s) ∧
      (60 ≤ site.val → ∃ t, exec (.thermalTrip site hot) s = .next t ∧ t.rst.last = 4 ∧ t.cores = [])) ∧
    (s.now < s.glob.wattsAt + 100000 → exec (.powerMeasure w16) s = .next s) ∧
    (s.glob.wattsAt + 100000 ≤ s.now → ∃ t, exec (.powerMeasure w16) s = .next t ∧ { t with bays := s.bays, glob := s.glob } = s ∧
      t.glob.watts = mean ∧ t.glob.wattsAt = s.now ∧
      (fld s.glob.pkgCap 0 16 * mean.length < mean.foldl (· + ·) 0 → t.glob.capping = true ∧
        ∀ d, d < 12 → (t.bay d).thrBin = if (s.bay d).state = .on then up (s.bay d) else (s.bay d).thrBin)) ∧
    (let due := x.dip = false ∧ (if after = true then x.planDue = true else x.lastPlan + 86400000000000 ≤ s.now);
      (¬ due → exec (.marginReplan bay slack offsetMv bins after) s = .next s) ∧
      (due → ∃ t, exec (.marginReplan bay slack offsetMv bins after) s = .next t ∧
        OnlyBay s { t with
          out := s.out
          free := s.free } b ∧ (t.bay b).slack = slack ∧ x.offset ≤ (t.bay b).offset ∧
        x.planBin ≤ (t.bay b).planBin ∧ (t.bay b).replans = min 65535 (x.replans + 1) ∧ (t.bay b).planDue = false ∧
        (t.bay b).lastPlan = (if after = true then x.lastPlan else s.now) ∧
        (fld s.glob.thermCtl 16 16 ≤ slack.toNat → (t.bay b).offset = x.offset ∧ (t.bay b).planBin = x.planBin))) ∧
    asks (.bayPwrOn bay) 0 .on ∧ asks (.bayPwrRetention bay) 1 .retention ∧ asks (.bayPwrGated bay) 2 .gated ∧
    (let back := x.req = 0 ∧ (x.state = .retention ∨ x.state = .gated);
      let p := s.partOfBay b;
      (¬ back → exec (.bayOnComplete bay) s = .next s) ∧
      (back → (s.schedOf p).waiting = [] → (∀ w, w ∈ (s.schedOf p).placed → w.state ≠ .saved ∧ w.state ≠ .restoring) →
        ∃ t, exec (.bayOnComplete bay) s = .next t ∧ others t b ∧ (t.bay b).state = .on ∧ (t.bay b).mash = 0 ∧
          (t.bay b).pllBin = x.bins ∧ (if x.state = .retention then lost t b else ∀ c, c ∈ bayCores b → SameCore (s.core c) (t.core c)) ∧
          (∀ c, c ∉ bayCores b → SameCore (s.core c) (t.core c)) ∧
          ∀ st, t.hbm.dark.contains st = (s.hbm.dark.contains st && decide (st / 2 ≠ b))))

/-- A command reads its buffer corrected and writes its response there (in RECOVERY, in the staging range). With no
command pending or running and a usable buffer (in RECOVERY, one in the staging range): ATTEST, LOG_READ of 1 to 128
entries, IDENTITY and DEBUG_CHALLENGE write their response from offset 8,192 and end OK; FW_INSTALL ends with the
result of the image check, and writes a checked image to flash (with good flash the image is marked good); SEAL seals
and extends MR4; SVN_ADVANCE, OWNER_PROVISION, OWNER_REVOKE and DEBUG_OPEN become PENDING. With an unusable buffer the
result is BAD_CMD and while one is PENDING or RUNNING it is BUSY, and nothing else differs. A sample is due at
acceptance and every millisecond from then on, to the end of the window; at a due one the pending command counts
consecutive low samples after a high one, a high one starts again, and the 1,000th runs it: the SVN fuse rises, an
owner slot is taken or revoked, a debug session is opened or refused. Past its window it ends with TIMEOUT. A stale
nonce is forgotten. On the conditions on state and operands that each clause names, and on nothing else, exec answers
a next state, the one the clause describes, for: ATTEST, LOG_READ, IDENTITY, FW_INSTALL, SVN_ADVANCE, OWNER_PROVISION,
DEBUG_CHALLENGE, DEBUG_OPEN, SEAL, PRESENCE_SAMPLE, OWNER_REVOKE, PRESENCE_TIMEOUT, NONCE_EXPIRY. (R490, R491, R492,
R493, R494, R495, R497, R500, 19_security_and_physical_presence.md) -/
def Obligations.SecurityCommandsAndPresence : Prop :=
  ∀ (s : State) (buf : BitVec 41) (ok : Bool),
    let a := buf.toNat
    let x := s.sec
    let free := (x.state ≠ 1 ∧ x.state ≠ 2) ∧ s.bufOk a = true
    let ends := fun (t : State) (r : Nat) => t.sec.state = 3 ∧ t.sec.result = r
    let onlySec := fun (t : State) => { t with sec := x } = s
    let reply := fun (c : Instr) (s0 : State) (bs : List Byte) => ∃ t, exec c s = .next t ∧
      { t with sec := x } = s0.cmdReply a bs ∧ ends t secOk ∧ t.sec.mr = x.mr ∧ t.sec.log = x.log
    let report := s.report0 (s.cmdData a 64).2
    let n := bytesNat ((s.cmdData a 8).2.drop 4)
    let after := fun (s0 t : State) => { t with sec := x } = s0
    let all : List Instr := [.attest buf, .logRead buf, .identity buf, .fwInstall buf ok, .svnAdvance buf, .ownerProvision buf,
      .ownerRevoke buf, .debugChallenge buf, .debugOpen buf, .seal buf]
    let pend := fun (c : Instr) (op : Nat) => exec c s = .next { s with sec := { x with
      state := 1
      result := 0
      runMs := 0
      pendOp := op
      pendBuf := a
      pendAt := s.now
      seenHigh := false
      samples := 0 } }
    let inWindow := x.state = 1 ∧ x.pendAt + 1000000 * x.samples ≤ s.now ∧ s.now ≤ x.pendAt + s.presWindow
    let last := inWindow ∧ x.seenHigh = true ∧ 999 ≤ x.runMs
    let runs := fun (op r bytes : Nat) (y : Security → Prop) => last → x.pendOp = op →
      ∃ t, exec (.presenceSample false) s = .next t ∧ after (if bytes = 0 then s else (s.cmdData x.pendBuf bytes).1) t ∧ ends t r ∧
        t.sec.presence = false ∧ y t.sec
    let slot := bytesNat (s.cmdData x.pendBuf 1).2
    ((∀ e m, x.recovery = true → s.cmdData e m = (s, s.stage e m)) ∧
      (∀ e m, x.recovery = false → s.hbm.sysCheck e m = .ok → s.hbm.badIn e m = none →
        s.cmdData e m = ({ s with hbm := s.hbm.fix e m }, s.hbm.read e m)) ∧
      (∀ e bs, x.recovery = true → s.cmdReply e bs = { s with hbm := s.hbm.stageWrite (e + 8192) bs }) ∧
      (∀ e bs, x.recovery = false → s.hbm.sysCheck (e + 8192) bs.length = .ok → s.hbm.stoppedIn (e + 8192) bs.length = none →
        s.cmdReply e bs = { s with hbm := s.hbm.write (e + 8192) bs })) ∧
    (free →
      reply (.attest buf) (s.cmdData a 64).1 (report ++ Config.mldsaSign identSeed report) ∧
      (1 ≤ n → n ≤ 128 → reply (.logRead buf) (s.cmdData a 8).1
        (((x.log.drop (bytesNat ((s.cmdData a 8).2.take 4))).take n).flatMap (·.bytes96))) ∧
      (¬ (1 ≤ n ∧ n ≤ 128) → ∃ t, exec (.logRead buf) s = .next t ∧ after (s.cmdData a 8).1 t ∧ ends t secBad) ∧
      reply (.identity buf) s (identKey ++ Config.certificate) ∧
      reply (.debugChallenge buf) s (Config.nonceSource x.nonces) ∧
      (∃ t, exec (.debugChallenge buf) s = .next t ∧ t.sec.nonce = some (Config.nonceSource x.nonces) ∧ t.sec.nonceAt = s.now) ∧
      (∃ t, exec (.fwInstall buf ok) s = .next t ∧
        after (if s.imageCheck = secOk then s.flashWrite (8192 + bytesNat (((s.stage 0 8192).drop 8).take 8)) else s) t ∧ ends t (if s.imageCheck = secOk then (if ok = true then secOk else secFlash)
          else s.imageCheck) ∧ (s.imageCheck = secOk → t.sec.imageGood = ok ∧ t.sec.imageHdr = if ok = true then some (s.stage 0 8192) else none) ∧
        (s.imageCheck ≠ secOk → t.sec.imageGood = x.imageGood ∧ t.sec.imageHdr = x.imageHdr) ∧ t.sec.vkey = x.vkey ∧ t.sec.svnFuse = x.svnFuse) ∧
      (∃ t, exec (.seal buf) s = .next t ∧ onlySec t ∧ ends t secOk ∧ t.sec.sealed_ = true ∧
        (∀ m, m ≠ 4 → t.sec.mr.get 0 m = x.mr.get 0 m) ∧ (x.log.length < 4096 → t.sec.log.length = x.log.length + 1)) ∧
      pend (.svnAdvance buf) 5 ∧ pend (.ownerProvision buf) 6 ∧ pend (.ownerRevoke buf) 7 ∧ pend (.debugOpen buf) 9) ∧
    (x.state ≠ 1 → x.state ≠ 2 → s.bufOk a = false → ∀ c, c ∈ all → ∃ t, exec c s = .next t ∧ onlySec t ∧ ends t secBad ∧
      { t.sec with state := x.state, result := x.result, runMs := x.runMs, seenHigh := x.seenHigh } = x) ∧
    (x.state = 1 ∨ x.state = 2 → ∀ c, c ∈ all → exec c s = .next { s with sec := { x with result := secBusy } }) ∧
    (¬ inWindow → exec (.presenceSample ok) s = .next { s with sec := { x with presence := ok } }) ∧
    (inWindow → exec (.presenceSample true) s = .next { s with sec := { x with
      presence := true
      seenHigh := true
      runMs := 0
      samples := x.samples + 1 } }) ∧
    (inWindow → x.seenHigh = false → exec (.presenceSample false) s = .next { s with sec := { x with presence := false, samples := x.samples + 1 } }) ∧
    (inWindow → x.seenHigh = true → x.runMs < 999 → exec (.presenceSample false) s = .next { s with sec := { x with
      presence := false
      runMs := x.runMs + 1
      samples := x.samples + 1 } }) ∧
    runs 5 secOk 0 (fun y => y.svnFuse = max x.svnFuse (min 128 x.imageSvn) ∧ y.ownerSet = x.ownerSet) ∧
    (∀ i, (List.range 4).find? (fun i => decide (x.ownerSet / 2 ^ i % 2 = 0)) = some i → runs 6 secOk 2592 (fun y =>
      y.ownerSet = x.ownerSet + 2 ^ i ∧ y.ownerHash.get 0 i = sha3 (s.cmdData x.pendBuf 2592).2 ∧ y.svnFuse = x.svnFuse)) ∧
    ((∀ i, i < 4 → x.ownerSet / 2 ^ i % 2 = 1) → runs 6 secNoSlot 0 (fun y => y.ownerSet = x.ownerSet ∧ y.ownerHash = x.ownerHash)) ∧
    (1 ≤ slot → slot ≤ 4 → runs 7 secOk 1 (fun y => y.ownerRev = x.ownerRev ||| 2 ^ (slot - 1) ∧ y.ownerSet = x.ownerSet)) ∧
    (¬ (1 ≤ slot ∧ slot ≤ 4) → runs 7 secBad 1 (fun y => y.ownerRev = x.ownerRev ∧ y.ownerSet = x.ownerSet)) ∧
    (let d := (s.cmdData x.pendBuf 4629).2;
      let scope := bytesNat (d.take 1);
      let key := bytesNat ((d.drop 1).take 1);
      let fine := 1 ≤ scope ∧ scope ≤ 2 ∧ key ≤ 4 ∧ (key = 0 ∨ scope = 1);
      (¬ fine → runs 9 secBad 4629 (fun y => y.dbgOpen = x.dbgOpen)) ∧
      (fine → x.nonce = none → runs 9 secStale 4629 (fun y => y.dbgOpen = x.dbgOpen)) ∧
      (∀ nc, fine → x.nonce = some nc → x.nonceAt + 300000000000 ≤ s.now → runs 9 secStale 4629 (fun y => y.dbgOpen = x.dbgOpen ∧ y.nonce = none)) ∧
      (∀ nc, fine → x.nonce = some nc → s.now < x.nonceAt + 300000000000 → x.debugKey key = none → runs 9 secSig 4629 (fun y =>
          y.dbgOpen = x.dbgOpen ∧ y.nonce = none ∧ y.sigFail = min 65535 (x.sigFail + 1))) ∧
      (∀ nc k, fine → x.nonce = some nc → s.now < x.nonceAt + 300000000000 → x.debugKey key = some k →
        (Config.mldsaVerify k (nc ++ digestBytes x.ident ++ natBytes 1 scope) (d.drop 2) = true → runs 9 secOk 4629 (fun y =>
          y.dbgOpen = true ∧ y.scope = scope ∧ y.nonce = none)) ∧
        (Config.mldsaVerify k (nc ++ digestBytes x.ident ++ natBytes 1 scope) (d.drop 2) = false → runs 9 secSig 4629 (fun y =>
          y.dbgOpen = x.dbgOpen ∧ y.nonce = none ∧ y.sigFail = min 65535 (x.sigFail + 1))))) ∧
    (if x.state = 1 ∧ x.pendAt + s.presWindow ≤ s.now then ∃ t, exec .presenceTimeout s = .next t ∧ onlySec t ∧ ends t secTimeout ∧
        t.sec.presTmo = min 65535 (x.presTmo + 1) ∧ t.sec.ownerSet = x.ownerSet ∧ t.sec.svnFuse = x.svnFuse
      else exec .presenceTimeout s = .next s) ∧
    (if x.nonce.isSome = true ∧ x.nonceAt + 300000000000 ≤ s.now then exec .nonceExpiry s = .next { s with sec := { x with nonce := none } }
      else exec .nonceExpiry s = .next s)

/-- POWER_UP with a sound image brings every bay that does not fail ON, retires failed cores and raises READY; with a bad
one it enters RECOVERY. A package reset keeps fuses, flash and its cause, and with retention the region table and the
data outside the staging range; power loss keeps no byte of HBM. An accepted REINIT is running and has reset its
scope, a refused one sets only ERR; its end frees the function, counts, and a failed one is reported. A retest clears
the core or retires it. FAULT_SNAP copies the newest report. PART_SET moves all its bays or none. Fabric shares within
100 stand pending and come into force between steps; above 100 they set the error. Debug access acts only in an open
session: halt, one step, read and write of an s register, scan under vendor scope. On the conditions on state and
operands that each clause names, and on nothing else, exec answers a next state, the one the clause describes, for:
POWER_UP, WARM_RESET, PKG_RESET_ASSERT, POWER_LOSS, REINIT_CORE, REINIT_TAP, REINIT_HOPBACK, REINIT_HBM_CHANNEL,
REINIT_LINK_PORT, REINIT_HOST_PORT, REINIT_BAY, REINIT_DONE, RETEST_DONE, FAULT_SNAP, PART_SET, FAB_SHARE_WRITE,
FAB_WEIGHT_WRITE, FAB_PENDING_TIMEOUT, DEBUG_ACCESS. (R496, R502, R503, R504, R505, R506, R507, R508, R522, R524,
R526, 20_bringup_reset_and_recovery.md) -/
def Obligations.ResetsReinitialisationsAndGlobalBlocks : Prop :=
  ∀ (s : State) (svn : BitVec 8) (ok : Bool) (dg : BitVec 512) (fc : List Nat) (fb : BitVec 12) (c : CoreId) (die : Fin 60) (ch : Fin 768)
      (p : Fin 16) (bay : Fin 12) (f : Fin 7) (tgt : Nat) (v : Word) (part : BitVec 4) (r : BitVec 5) (site : Fin 100) (data : Nat),
    let calm := s.rst.running = []
    let k := s.core c.val
    let pc := s.partOf c.val
    let idle := fun (q : Nat) => (s.schedOf q).waiting = [] ∧ ∀ w, w ∈ (s.schedOf q).placed → w.state ≠ .saved ∧ w.state ≠ .restoring
    let boots := s.rst.phase ≠ 4 ∧ s.sec.recovery = false
    let good := ok = true ∧ s.sec.imageGood = true ∧ s.sec.svnFuse ≤ s.sec.bootSvn svn.toNat
    let resetBy := fun (t : State) (last : Nat) (keep : Bool) => t.rst.last = last ∧ t.rst.retained = keep ∧ t.cores = [] ∧ t.rst.phase = 0 ∧
      t.pending = s.pending ∧ t.now = s.now ∧ t.sec.svnFuse = s.sec.svnFuse ∧ t.sec.ownerSet = s.sec.ownerSet ∧ t.gens = s.gens ∧
      t.sec.imageHdr = s.sec.imageHdr ∧ t.flash.written = s.flash.written ∧ (t.reports.head?.map (fun r => (r.code, r.detail))) = some (codeResetCause, last) ∧
      t.hbm.rgn = (if keep = true then s.hbm.rgn else []) ∧ ∀ a, memByte t.hbm.mem a =
        if keep = true ∧ notStaged a = true then memByte s.hbm.mem a else 0
    let begun := fun (i : Instr) (fn t0 : Nat) (y : State → Prop) =>
      (s.reinitErr fn t0 = 0 → ∃ t, exec i s = .next t ∧ t.rst = { s.rst with
        err := 0
        state := 1
        running := s.rst.running ++ [(fn, t0)] } ∧ y t) ∧
      (s.reinitErr fn t0 ≠ 0 → exec i s = .next { s with rst := { s.rst with err := s.reinitErr fn t0 } })
    let clear := fun (t : State) (e : Nat) => (t.core e).sp.mem = [] ∧ (t.core e).slots = [] ∧ (t.core e).seq.kernel = none
    let sc := s.sec.debugScope
    let seq := fun (y : Sequencer) (i : Instr) => ∃ t, exec i s = .next t ∧ OnlyCore s t c.val ∧ t.core c.val = { k with seq := y }
    let bays := (List.range 12).filter (fun b => bit fb b)
    (¬ boots → exec (.powerUp svn ok dg fc fb) s = .next s) ∧
    (boots → good → ∃ t, exec (.powerUp svn ok dg fc fb) s = .next t ∧ t.rst.phase = 4 ∧ t.rst.ready = true ∧ t.sec.recovery = false ∧
      t.sec.imageSvn = s.sec.bootSvn svn.toNat ∧ t.sec.vkey = s.sec.bootKey ∧ t.sec.ident = identOf ∧ t.host.mac = macOf identOf ∧ t.out.getLast? = some (.pin pinReady true) ∧
      (∀ b, b < 12 → (t.bay b).state = if bit fb b = true then .reset else .on) ∧
      ∀ e, e ∈ fc → e < 360 → bit fb (bayOf e) = false → (t.core e).retired = true) ∧
    (boots → ¬ good → ∃ t, exec (.powerUp svn ok dg fc fb) s = .next t ∧ { t with sec := s.sec, rst := s.rst, host := s.host } = s ∧
      t.sec.recovery = true ∧ t.rst.phase = 1 ∧ t.sec.sigFail = min 65535 (s.sec.sigFail + 1)) ∧
    (∃ t, exec (.warmReset ok) s = .next t ∧ resetBy t 2 ok) ∧ (∃ t, exec .pkgResetAssert s = .next t ∧ resetBy t 1 s.rst.retainAuto) ∧
    (∃ t, exec .powerLoss s = .next t ∧ t.cores = [] ∧ t.hbm.mem = [] ∧ t.hbm.rgn = [] ∧ t.now = 0 ∧ t.reports = [] ∧ t.rst = {} ∧
      t.gens = s.gens ∧ t.sec.svnFuse = s.sec.svnFuse ∧ t.sec.ownerSet = s.sec.ownerSet ∧ t.pending = s.pending) ∧
    begun (.reinitCore c) 0 c.val (fun t => clear t c.val ∧ (t.core c.val).retired = k.retired ∧ t.hbm = s.hbm) ∧
    begun (.reinitTap die) 1 die.val (fun t => (t.die die.val).rows = [] ∧ (t.die die.val).storeBytes = 0 ∧
      ((∀ q, q < 12 → ∀ x, x ∈ (s.serveOf q).reqs → x.slot.isSome = true → ∀ m, (s.serveOf q).model x.jrec.model = some m →
        die.val ∉ m.mrec.sdies) → ∀ d, d ≠ die.val → t.die d = s.die d)) ∧
    begun (.reinitHopback c) 2 c.val (fun t => (∀ j, j < 4 → ((t.core c.val).hopChan j).on = false) ∧
      (t.core c.val).hop.work = [] ∧ ∀ e, e ∈ (t.core c.val).slots → kindOf e.2.desc = 6 → e.2.live = false) ∧
    begun (.reinitHbmChannel ch) 3 ch.val (fun t => { t with
      hbm := s.hbm
      rst := s.rst } = s ∧ ∀ z, z ∈ t.hbm.down ↔ z = ch.val ∨ z ∈ s.hbm.down) ∧
    begun (.reinitLinkPort p) 4 p.val (fun t => (t.port p.val).state = (if bit (s.port p.val).ctl 0 = true ∧ s.links.pkgSet = true ∧
      s.sec.recovery = false ∧ (({ s.port p.val with alsoRate := 0 } : Port).rateBelow 4).isSome = true then .training else .down) ∧ t.hbm = s.hbm) ∧
    begun .reinitHostPort 5 0 (fun t => { t with
      host := s.host
      rst := s.rst } = s ∧ t.host.up = false ∧ bit t.host.ctl 3 = false) ∧
    begun (.reinitBay bay) 6 bay.val (fun t => (t.bay bay.val).state = .reset ∧ (t.bay bay.val).mash = 0 ∧
      (∀ d, d ≠ bay.val → t.bay d = s.bay d) ∧ ∀ e, e ∈ bayCores bay.val → clear t e) ∧
    ((f.val, tgt) ∉ s.rst.running → exec (.reinitDone f tgt ok) s = .next s) ∧
    ((f.val, tgt) ∈ s.rst.running → ∃ t, exec (.reinitDone f tgt ok) s = .next t ∧ (f.val, tgt) ∉ t.rst.running ∧
      t.rst.state = (if ok = true then 2 else 3) ∧ t.rst.count = (if ok = true then min 65535 (s.rst.count + 1) else s.rst.count) ∧
      (f.val = 0 → (t.core tgt).safe.retest = true) ∧ (f.val = 3 → tgt ∉ t.hbm.down) ∧ (f.val = 5 → bit t.host.ctl 3 = true) ∧
      (f.val = 6 → ok = true → (t.bay tgt).state = .on ∧ ∀ e, e ∈ bayCores tgt → (t.core e).safe.retest = true)) ∧
    (k.safe.retest = false → exec (.retestDone c ok) s = .next s) ∧
    (k.safe.retest = true → idle pc → ∃ t, exec (.retestDone c ok) s = .next t ∧ (∀ d, d ≠ c.val → SameCore (s.core d) (t.core d)) ∧
      (t.core c.val).safe.retest = false ∧ (t.core c.val).safe.lastTest = s.now ∧ (t.core c.val).retired = (k.retired || !ok) ∧
      (if ok = true then (t.core c.val).safe.pass = min 65535 (k.safe.pass + 1) else
        (t.core c.val).safe.fail = min 65535 (k.safe.fail + 1) ∧
          (calm → ∃ x, t.reports = s.reports ++ [x] ∧ x.code = codeCoreRetired ∧ x.core = c.val))) ∧
    (match s.glob.newest with
      | some x => exec .faultSnap s = .next { s with glob := { s.glob with
          snapSeq := x.1
          snapValid := true
          snap := BitVec.ofNat 512 (bytesNat x.2.bytes64) } }
      | none => exec .faultSnap s = .next s) ∧
    (s.partErr bays part.toNat = 0 → idle part.toNat → ∃ t, exec (.partSet fb part) s = .next t ∧ (∀ d, SameCore (s.core d) (t.core d)) ∧ t.glob.partErr = 0 ∧
      t.glob.partChanges = min (2 ^ 32 - 1) (s.glob.partChanges + 1) ∧
      ∀ b, t.bay b = if b ∈ bays then { s.bay b with part := part.toNat } else s.bay b) ∧
    (s.partErr bays part.toNat ≠ 0 → ∃ t, exec (.partSet fb part) s = .next t ∧ { t with glob := s.glob } = s ∧
      t.glob.partErr = s.partErr bays part.toNat ∧ t.glob.partChanges = s.glob.partChanges) ∧
    (100 < vcarbTotal v → exec (.fabShareWrite v) s = .next { s with glob := { s.glob with fabErr := true } }) ∧
    (vcarbTotal v ≤ 100 → ∃ t, exec (.fabShareWrite v) s = .next t ∧ { t with glob := s.glob } = s ∧ t.glob.fabShare = setFld v 42 22 0 ∧
      t.glob.fabWeight = s.glob.fabWeight ∧ t.glob.fabPending = true ∧ t.glob.fabErr = false ∧ t.glob.fabCur = s.glob.fabCur) ∧
    (∃ t, exec (.fabWeightWrite v) s = .next t ∧ { t with glob := s.glob } = s ∧ t.glob.fabWeight = setFld v 24 40 0 ∧
      t.glob.fabShare = s.glob.fabShare ∧ t.glob.fabPending = true ∧ t.glob.fabCurW = s.glob.fabCurW) ∧
    (if s.glob.fabPending = true ∧ s.glob.fabIdle = true ∧ s.noneServing = true then exec .fabPendingTimeout s = .next { s with glob := { s.glob with
        fabCur := s.glob.fabShare
        fabCurW := s.glob.fabWeight
        fabPending := false } }
      else exec .fabPendingTimeout s = .next s) ∧
    (sc = 0 → ∀ op, exec (.debugAccess op) s = .next s) ∧
    (sc ≠ 0 → seq { k.seq with halted := true } (.debugAccess (.halt c)) ∧
      seq { k.seq with stepOne := k.seq.halted } (.debugAccess (.step c)) ∧
      exec (.debugAccess (.readS c r)) s = .next { s with out := s.out ++ [.debugRead c.val (k.s r.toNat)] } ∧
      (∃ t, exec (.debugAccess (.writeS c r v)) s = .next t ∧ OnlySeq s t c.val ∧ SetsS s t c.val r v ∧
        { (t.core c.val).seq with s := k.seq.s } = k.seq) ∧
      exec (.debugAccess (.scan site data)) s = .next (if sc = 2 then { s with out := s.out ++ [.scan site.val] } else s))
end

