-- ==== Sys2Proof/Laws/Host.lean ====
section
/-! SUPPORT. RHT datagrams as a sender forms them: the checksum of the header covers its other bits and the payload, and a
datagram sealed with it is accepted on its fields alone. -/

namespace Sys2Proof
open Sys2Proof.Machine

/-- A datagram with a value in place of HCRC. -/
def Datagram.withCrc (d : Datagram) (c : BitVec 32) : Datagram :=
  { d with hdr := BitVec.ofNat 256 (fld d.hdr 0 224 + c.toNat * 2 ^ 224) }
/-- A datagram with HCRC computed for its other header bits and its payload (R405). -/
def Datagram.seal (d : Datagram) : Datagram := d.withCrc d.crc

variable (d : Datagram) (c : BitVec 32)

theorem Datagram.withCrc_hdr : (d.withCrc c).hdr.toNat = d.hdr.toNat % 2 ^ 224 + c.toNat * 2 ^ 224 := by
  have hc := c.isLt
  have h : fld d.hdr 0 224 < 2 ^ 224 := Nat.mod_lt _ (by decide)
  have e : fld d.hdr 0 224 = d.hdr.toNat % 2 ^ 224 := rfl
  rw [withCrc, BitVec.toNat_ofNat, Nat.mod_eq_of_lt (by omega), e]

/-- The header bits below HCRC do not depend on it. -/
theorem Datagram.fld_withCrc {lo len : Nat} (h : lo + len ≤ 224) : fld (d.withCrc c).hdr lo len = fld d.hdr lo len := by
  rw [fld, fld, withCrc_hdr, Nat.shiftRight_eq_div_pow, Nat.shiftRight_eq_div_pow]
  have split : ∀ x : Nat, x / 2 ^ lo % 2 ^ len = x % 2 ^ (lo + len) / 2 ^ lo := by
    intro x
    rw [Nat.pow_add, Nat.mod_mul_right_div_self]
  have hd : 2 ^ (lo + len) ∣ 2 ^ 224 := Nat.pow_dvd_pow 2 h
  rw [split, split, Nat.add_mod, Nat.mod_mod_of_dvd _ hd, Nat.mod_eq_zero_of_dvd (Dvd.dvd.mul_left hd _), Nat.add_zero, Nat.mod_mod]

/-- HCRC itself. -/
theorem Datagram.fld_withCrc_crc : fld (d.withCrc c).hdr 224 32 = c.toNat := by
  have hc := c.isLt
  have h : d.hdr.toNat % 2 ^ 224 < 2 ^ 224 := Nat.mod_lt _ (by decide)
  rw [fld, withCrc_hdr, Nat.shiftRight_eq_div_pow]
  omega

theorem Datagram.withCrc_payload : (d.withCrc c).payload = d.payload := by
  cases d with | mk addr port hdr payload buffered bodyOk => exact (rfl : payload = payload)
theorem Datagram.withCrc_buffered : (d.withCrc c).buffered = d.buffered := by
  cases d with | mk addr port hdr payload buffered bodyOk => exact (rfl : buffered = buffered)
theorem Datagram.withCrc_addr : (d.withCrc c).addr = d.addr := by
  cases d with | mk addr port hdr payload buffered bodyOk => exact (rfl : addr = addr)
theorem Datagram.withCrc_port : (d.withCrc c).port = d.port := by
  cases d with | mk addr port hdr payload buffered bodyOk => exact (rfl : port = port)
theorem Datagram.withCrc_bodyOk : (d.withCrc c).bodyOk = d.bodyOk := by
  cases d with | mk addr port hdr payload buffered bodyOk => exact (rfl : bodyOk = bodyOk)
theorem Datagram.withCrc_type : (d.withCrc c).type = d.type := fld_withCrc d c (by decide)
theorem Datagram.withCrc_lane : (d.withCrc c).lane = d.lane := fld_withCrc d c (by decide)
theorem Datagram.withCrc_session : (d.withCrc c).session = d.session := fld_withCrc d c (by decide)
theorem Datagram.withCrc_msgid : (d.withCrc c).msgid = d.msgid := fld_withCrc d c (by decide)
theorem Datagram.withCrc_frag : (d.withCrc c).frag = d.frag := fld_withCrc d c (by decide)
theorem Datagram.withCrc_nfrag : (d.withCrc c).nfrag = d.nfrag := fld_withCrc d c (by decide)
theorem Datagram.withCrc_plen : (d.withCrc c).plen = d.plen := fld_withCrc d c (by decide)
theorem Datagram.withCrc_nak : (d.withCrc c).nak = d.nak := by rw [nak, nak, bit, bit, fld_withCrc d c (by decide)]
theorem Datagram.withCrc_seq : (d.withCrc c).seq = d.seq := by rw [seq, seq, fld_withCrc d c (by decide)]
theorem Datagram.withCrc_ack : (d.withCrc c).ack = d.ack := by rw [ack, ack, fld_withCrc d c (by decide)]
theorem Datagram.withCrc_crc : (d.withCrc c).crc = d.crc := by rw [crc, crc, fld_withCrc d c (by decide), withCrc_payload]

@[simp] theorem Datagram.seal_payload : d.seal.payload = d.payload := withCrc_payload d d.crc
@[simp] theorem Datagram.seal_buffered : d.seal.buffered = d.buffered := withCrc_buffered d d.crc
@[simp] theorem Datagram.seal_addr : d.seal.addr = d.addr := withCrc_addr d d.crc
@[simp] theorem Datagram.seal_port : d.seal.port = d.port := withCrc_port d d.crc
@[simp] theorem Datagram.seal_bodyOk : d.seal.bodyOk = d.bodyOk := withCrc_bodyOk d d.crc
@[simp] theorem Datagram.seal_type : d.seal.type = d.type := withCrc_type d d.crc
@[simp] theorem Datagram.seal_lane : d.seal.lane = d.lane := withCrc_lane d d.crc
@[simp] theorem Datagram.seal_session : d.seal.session = d.session := withCrc_session d d.crc
@[simp] theorem Datagram.seal_msgid : d.seal.msgid = d.msgid := withCrc_msgid d d.crc
@[simp] theorem Datagram.seal_frag : d.seal.frag = d.frag := withCrc_frag d d.crc
@[simp] theorem Datagram.seal_nfrag : d.seal.nfrag = d.nfrag := withCrc_nfrag d d.crc
@[simp] theorem Datagram.seal_plen : d.seal.plen = d.plen := withCrc_plen d d.crc
@[simp] theorem Datagram.seal_nak : d.seal.nak = d.nak := withCrc_nak d d.crc
@[simp] theorem Datagram.seal_seq : d.seal.seq = d.seq := withCrc_seq d d.crc
@[simp] theorem Datagram.seal_ack : d.seal.ack = d.ack := withCrc_ack d d.crc
@[simp] theorem Datagram.seal_crc : d.seal.crc = d.crc := withCrc_crc d d.crc

/-- The header of a sealed datagram is right when its version, its zero fields and its length are (R405). -/
theorem Datagram.formOk_seal (n : Nat) : d.seal.formOk n =
    (fld d.hdr 0 8 = 1 && fld d.hdr 19 5 = 0 && fld d.hdr 24 8 = 0 && fld d.hdr 48 16 = 0 && fld d.hdr 208 16 = 0 &&
      d.plen = d.payload.length && d.plen ≤ n) := by
  have low : ∀ {lo len : Nat}, lo + len ≤ 224 → fld d.seal.hdr lo len = fld d.hdr lo len := fld_withCrc d d.crc
  have top : fld d.seal.hdr 224 32 = d.crc.toNat := fld_withCrc_crc d d.crc
  rw [formOk, low (by decide), low (by decide), low (by decide), low (by decide), low (by decide), top, seal_plen, seal_payload,
    seal_crc]
  simp only [decide_true, Bool.and_true]

theorem Datagram.datagramOk_seal (s : State) : s.datagramOk d.seal =
    (d.seal.formOk s.host.maxpl && (s.sess d.session).isOpen && decide (d.addr = (s.sess d.session).addr) &&
      decide (d.port = (s.sess d.session).port)) := by
  simp only [State.datagramOk, seal_session, seal_addr, seal_port]

theorem Datagram.noAck_seal (s : State) : s.NoAck d.seal ↔ s.NoAck d := by
  simp only [State.NoAck, State.Calm, seal_session, seal_lane, seal_ack, seal_nak]

theorem Datagram.joins_seal (p : Option RxPart) : d.seal.joins p = d.joins p := by
  unfold joins
  rw [seal_frag, seal_nfrag, seal_msgid, seal_type, seal_plen]

theorem Datagram.wholeMsg_seal (s : State) (lane type bytes : Nat) :
    s.wholeMsg d.seal lane type bytes = s.wholeMsg d lane type bytes := by
  rw [State.wholeMsg, State.wholeMsg, State.joined, State.joined, joins_seal, seal_session, seal_lane, seal_type]

/-- A sealed datagram is the last of a whole message on the fields that it carries (R405, R406, R410). -/
theorem Datagram.message_seal {d : Datagram} {s : State} {lane type bytes : Nat}
    (h1 : (fld d.hdr 0 8 = 1 && fld d.hdr 19 5 = 0 && fld d.hdr 24 8 = 0 && fld d.hdr 48 16 = 0 && fld d.hdr 208 16 = 0 &&
      d.plen = d.payload.length && d.plen ≤ s.host.maxpl) = true)
    (h2 : (s.sess d.session).isOpen = true ∧ d.addr = (s.sess d.session).addr ∧ d.port = (s.sess d.session).port)
    (h3 : s.NoAck d) (h4 : d.buffered = true) (h5 : d.seq = (s.laneOf d.session d.lane).rxSeq) (h6 : d.nfrag ≤ d.frag + 1)
    (h8 : d.bodyOk = true) (h7 : s.wholeMsg d lane type bytes = true) : s.Message d.seal lane type bytes := by
  rw [State.Message, State.InOrder, datagramOk_seal, noAck_seal, wholeMsg_seal, formOk_seal, h1, seal_buffered, seal_seq,
    seal_session, seal_lane, seal_nfrag, seal_frag, seal_bodyOk]
  exact ⟨⟨by simp only [h2, Bool.true_and, decide_true], h3, h4, h5⟩, h6, h8, h7⟩

end Sys2Proof
end

