-- ==== Sys2Proof/Laws/Maps.lean ====
section
/-! SUPPORT. Laws of the sparse maps and of the small list operations: a read after a write, and what a write leaves alone. -/

namespace Sys2Proof

variable {α : Type}

@[simp] theorem FMap.get_set_self (d : α) (m : FMap α) (k : Nat) (v : α) : FMap.get d (FMap.set m k v) k = v := by
  induction m with
  | nil => simp [FMap.set, FMap.get]
  | cons e m ih =>
    obtain ⟨j, u⟩ := e
    simp only [FMap.set]
    split
    · simp [FMap.get]
    · split <;> simp_all [FMap.get]

theorem FMap.get_set_ne (d : α) (m : FMap α) {k j : Nat} (h : j ≠ k) (v : α) :
    FMap.get d (FMap.set m k v) j = FMap.get d m j := by
  induction m with
  | nil => simp [FMap.set, FMap.get, Ne.symm h]
  | cons e m ih =>
    obtain ⟨i, u⟩ := e
    simp only [FMap.set]
    split
    · simp [FMap.get, Ne.symm h]
    · split
      · subst_vars; simp [FMap.get, Ne.symm h]
      · simp [FMap.get, ih]

/-- A read after a write, for any two keys. -/
theorem FMap.get_set (d : α) (m : FMap α) (k j : Nat) (v : α) :
    FMap.get d (FMap.set m k v) j = if j = k then v else FMap.get d m j := by
  split
  · next h => rw [h, FMap.get_set_self]
  · next h => exact FMap.get_set_ne d m h v

/-- Every entry after a write is the written one or was there before. -/
theorem FMap.mem_set {m : FMap α} {k : Nat} {v : α} {e : Nat × α} (h : e ∈ FMap.set m k v) : e = (k, v) ∨ e ∈ m := by
  induction m with
  | nil => simpa [FMap.set] using h
  | cons i m ih =>
    obtain ⟨j, u⟩ := i
    simp only [FMap.set] at h
    split at h
    · simpa using h
    · split at h
      · rcases List.mem_cons.1 h with h | h <;> simp_all
      · rcases List.mem_cons.1 h with h | h
        · simp_all
        · rcases ih h with h | h <;> simp_all

/-- A read gives an entry of the map or the default. -/
theorem FMap.get_mem (d : α) (m : FMap α) (k : Nat) : (k, FMap.get d m k) ∈ m ∨ FMap.get d m k = d := by
  induction m with
  | nil => simp [FMap.get]
  | cons e m ih =>
    obtain ⟨j, u⟩ := e
    simp only [FMap.get]
    split
    · next h => simp [h]
    · rcases ih with h | h
      · exact .inl (List.mem_cons_of_mem _ h)
      · exact .inr h

@[simp] theorem FMap.find?_set_self (m : FMap α) (k : Nat) (v : α) : FMap.find? (FMap.set m k v) k = some v := by
  induction m with
  | nil => simp [FMap.set, FMap.find?]
  | cons e m ih =>
    obtain ⟨j, u⟩ := e
    simp only [FMap.set]
    split
    · simp [FMap.find?]
    · split <;> simp_all [FMap.find?]

@[simp] theorem FMap.get_nil (d : α) (k : Nat) : FMap.get d [] k = d := rfl
@[simp] theorem FMap.find?_nil (k : Nat) : FMap.find? ([] : FMap α) k = none := rfl

end Sys2Proof
end

