-- ==== Sys2Proof/Laws/Memory.lean ====
section
/-! SUPPORT. Laws of the byte memories: the canonical form is kept by every operation that writes one, a read gives what was
written, and a write leaves every other byte alone. -/

namespace Sys2Proof.Machine

open Sys2Proof

/-- The canonical form as a pairwise order and a condition on every cell. -/
theorem Memory.wf_iff (m : Memory) : Memory.wf m = true ↔ (m.Pairwise (fun c d => c.1 < d.1) ∧ ∀ c ∈ m, c.2 ≠ 0) := by
  induction m with
  | nil => simp [Memory.wf]
  | cons c m ih =>
    cases m with
    | nil => simp [Memory.wf]
    | cons d m =>
      simp only [Memory.wf, Bool.and_eq_true, decide_eq_true_eq, ih]
      constructor
      · rintro ⟨⟨h1, h2⟩, h3, h4⟩
        refine ⟨List.pairwise_cons.2 ⟨?_, h3⟩, ?_⟩
        · intro e he
          rcases List.mem_cons.1 he with he | he
          · rw [he]; exact h2
          · exact Nat.lt_trans h2 ((List.pairwise_cons.1 h3).1 e he)
        · intro e he
          rcases List.mem_cons.1 he with he | he
          · rw [he]; exact h1
          · exact h4 e he
      · rintro ⟨h1, h2⟩
        have h1' := List.pairwise_cons.1 h1
        exact ⟨⟨h2 c (by simp), h1'.1 d (by simp)⟩, h1'.2, fun e he => h2 e (List.mem_cons_of_mem _ he)⟩

theorem Memory.wf_nil : Memory.wf [] = true := rfl

/-- Forgetting cells keeps the canonical form. -/
theorem Memory.wf_filter {m : Memory} (p : Host.Cell → Bool) (h : Memory.wf m = true) : Memory.wf (m.filter p) = true := by
  rw [Memory.wf_iff] at h ⊢
  exact ⟨h.1.filter p, fun c hc => h.2 c (List.mem_filter.1 hc).1⟩

/-- The cells of a run lie inside it and are nonzero. -/
theorem cellsOf_bound {bs : List Byte} : ∀ {a : Nat} {c : Host.Cell}, c ∈ cellsOf a bs → a ≤ c.1 ∧ c.1 < a + bs.length ∧ c.2 ≠ 0 := by
  induction bs with
  | nil => intro a c h; simp [cellsOf] at h
  | cons b bs ih =>
    intro a c h
    simp only [cellsOf] at h
    simp only [List.length_cons]
    split at h
    · obtain ⟨h1, h2, h3⟩ := ih h
      exact ⟨by omega, by omega, h3⟩
    · next hb =>
      rcases List.mem_cons.1 h with h | h
      · subst h; exact ⟨by simp, by simp, hb⟩
      · obtain ⟨h1, h2, h3⟩ := ih h
        exact ⟨by omega, by omega, h3⟩

theorem cellsOf_pairwise (bs : List Byte) : ∀ a, (cellsOf a bs).Pairwise (fun c d => c.1 < d.1) := by
  induction bs with
  | nil => intro a; simp [cellsOf]
  | cons b bs ih =>
    intro a
    simp only [cellsOf]
    split
    · exact ih _
    · refine List.pairwise_cons.2 ⟨fun c hc => ?_, ih _⟩
      have := (cellsOf_bound hc).1
      show a < c.1
      omega

/-- A write keeps the canonical form. -/
theorem memWrite_wf {m : Memory} (h : Memory.wf m = true) (a : Nat) (bs : List Byte) : Memory.wf (memWrite m a bs) = true := by
  rw [Memory.wf_iff] at h ⊢
  obtain ⟨h1, h2⟩ := h
  constructor
  · refine List.pairwise_append.2 ⟨List.pairwise_append.2 ⟨h1.filter _, cellsOf_pairwise bs a, ?_⟩, h1.filter _, ?_⟩
    · intro c hc d hd
      have := (cellsOf_bound hd).1
      have := of_decide_eq_true (List.mem_filter.1 hc).2
      omega
    · intro c hc d hd
      have hd' := of_decide_eq_true (List.mem_filter.1 hd).2
      rcases List.mem_append.1 hc with hc | hc
      · have := of_decide_eq_true (List.mem_filter.1 hc).2
        omega
      · have := (cellsOf_bound hc).2.1
        omega
  · intro c hc
    rcases List.mem_append.1 hc with hc | hc
    · rcases List.mem_append.1 hc with hc | hc
      · exact h2 c (List.mem_filter.1 hc).1
      · exact (cellsOf_bound hc).2.2
    · exact h2 c (List.mem_filter.1 hc).1

theorem memByte_append (m r : Memory) (x : Nat) :
    memByte (m ++ r) x = if m.any (fun c => c.1 == x) then memByte m x else memByte r x := by
  induction m with
  | nil => simp
  | cons c m ih =>
    obtain ⟨j, v⟩ := c
    simp only [memByte, List.cons_append, FMap.get, List.any_cons] at ih ⊢
    by_cases hj : j = x
    · simp [hj]
    · simp only [hj, if_false, ih]
      simp [hj]

theorem memByte_none {m : Memory} {x : Nat} (h : ∀ c ∈ m, c.1 ≠ x) : memByte m x = 0 := by
  induction m with
  | nil => rfl
  | cons c m ih =>
    obtain ⟨j, v⟩ := c
    simp only [memByte, FMap.get]
    rw [if_neg (h (j, v) (by simp))]
    exact ih (fun c hc => h c (List.mem_cons_of_mem _ hc))

theorem memByte_filter {m : Memory} {x : Nat} {p : Host.Cell → Bool} (h : ∀ v, p (x, v) = true) :
    memByte (m.filter p) x = memByte m x := by
  induction m with
  | nil => rfl
  | cons c m ih =>
    obtain ⟨j, v⟩ := c
    by_cases hj : j = x
    · subst hj; simp [List.filter, h, memByte, FMap.get]
    · have e : memByte ((j, v) :: m) x = memByte m x := by rw [memByte, FMap.get, if_neg hj]; rfl
      rw [e, ← ih]
      by_cases hp : p (j, v) = true
      · rw [List.filter_cons_of_pos hp, memByte, FMap.get, if_neg hj]; rfl
      · rw [List.filter_cons_of_neg hp]

theorem memByte_cellsOf (bs : List Byte) : ∀ a i, memByte (cellsOf a bs) (a + i) = bs.getD i 0 := by
  induction bs with
  | nil => intro a i; simp [cellsOf, memByte]
  | cons b bs ih =>
    intro a i
    cases i with
    | zero =>
      simp only [cellsOf]
      split
      · next hb =>
        rw [memByte_none]
        · simp [hb]
        · intro c hc
          have := (cellsOf_bound hc).1
          omega
      · simp [memByte, FMap.get]
    | succ i =>
      have h := ih (a + 1) i
      rw [show a + 1 + i = a + (i + 1) by omega] at h
      simp only [cellsOf]
      split
      · simpa using h
      · rw [memByte, FMap.get, if_neg (by omega)]
        simpa [memByte] using h

/-- No cell of a list holds address `x`. -/
theorem any_key_false {m : Memory} {x : Nat} (h : ∀ c ∈ m, c.1 ≠ x) : (m.any (fun c => c.1 == x)) = false := by
  rw [List.any_eq_false]
  intro c hc
  simpa using h c hc

theorem memByte_of_not_any {m : Memory} {x : Nat} (h : (m.any (fun c => c.1 == x)) = false) : memByte m x = 0 := by
  rw [List.any_eq_false] at h
  exact memByte_none (fun c hc => by simpa using h c hc)

/-- A byte after a write: the written byte inside the run, the byte before outside it. -/
theorem memByte_memWrite (m : Memory) (a x : Nat) (bs : List Byte) :
    memByte (memWrite m a bs) x = if a ≤ x ∧ x < a + bs.length then bs.getD (x - a) 0 else memByte m x := by
  have hlo : ∀ c ∈ m.filter (fun c => decide (c.1 < a)), c.1 < a := fun c hc => of_decide_eq_true (List.mem_filter.1 hc).2
  have hhi : ∀ c ∈ m.filter (fun c => decide (a + bs.length ≤ c.1)), a + bs.length ≤ c.1 :=
    fun c hc => of_decide_eq_true (List.mem_filter.1 hc).2
  rw [memWrite, memByte_append, List.any_append]
  by_cases h1 : x < a
  · have hc := any_key_false (m := cellsOf a bs) (x := x) (fun c hc => by have := (cellsOf_bound hc).1; omega)
    have hr := memByte_none (m := m.filter (fun c => decide (a + bs.length ≤ c.1))) (x := x)
      (fun c hc => by have := hhi c hc; omega)
    have hf := memByte_filter (m := m) (x := x) (p := fun c => decide (c.1 < a)) (by simp [h1])
    have hn : ¬(a ≤ x ∧ x < a + bs.length) := by omega
    rw [memByte_append, hc, hr, hf, Bool.or_false]
    simp only [hn, if_false]
    by_cases hm : ((m.filter (fun c => decide (c.1 < a))).any (fun c => c.1 == x)) = true
    · simp [hm]
    · have := memByte_of_not_any (Bool.eq_false_iff.2 hm)
      rw [hf] at this
      simp [hm, this]
  · have hm := any_key_false (m := m.filter (fun c => decide (c.1 < a))) (x := x) (fun c hc => by have := hlo c hc; omega)
    rw [memByte_append, hm, Bool.false_or]
    by_cases h2 : x < a + bs.length
    · have hv := memByte_cellsOf bs a (x - a)
      rw [show a + (x - a) = x by omega] at hv
      have hr := memByte_none (m := m.filter (fun c => decide (a + bs.length ≤ c.1))) (x := x)
        (fun c hc => by have := hhi c hc; omega)
      have hy : a ≤ x ∧ x < a + bs.length := ⟨by omega, h2⟩
      rw [hr, hv]
      simp only [hy, and_self, if_true]
      by_cases hc : ((cellsOf a bs).any (fun c => c.1 == x)) = true
      · simp [hc]
      · have := memByte_of_not_any (Bool.eq_false_iff.2 hc)
        rw [hv] at this
        rw [if_neg hc, this]
    · have hc := any_key_false (m := cellsOf a bs) (x := x) (fun c hc => by have := (cellsOf_bound hc).2.1; omega)
      have hn : ¬(a ≤ x ∧ x < a + bs.length) := by omega
      have hf := memByte_filter (m := m) (x := x) (p := fun c => decide (a + bs.length ≤ c.1)) (by simp; omega)
      rw [hc, hf]
      simp only [hn, if_false]
      simp

/-- The bytes of a write through the region table keep the canonical form. -/
theorem Hbm.writeBytes_wf : ∀ (bs : List Byte) (h : Hbm) (a : Nat),
    Memory.wf h.mem = true → Memory.wf (Hbm.writeBytes h a bs).mem = true := by
  intro bs
  induction bs with
  | nil => intro h a hw; exact hw
  | cons b bs ih =>
    intro h a hw
    simp only [Hbm.writeBytes]
    split
    · split
      · exact ih _ _ (memWrite_wf hw _ _)
      · exact ih _ _ hw
    · exact ih _ _ hw
/-- Forming the code of a sector changes its marks and its home, and nothing else. -/
theorem Hbm.sealOne_same (a n : Nat) (h : Hbm) (x : Nat) :
    { Hbm.sealOne a n h x with bad := h.bad, home := h.home, moved := h.moved } = h := by
  unfold Hbm.sealOne
  split
  · split
    · rfl
    · split
      · rfl
      · split <;> rfl
  · rfl
/-- Forming the codes of sectors changes their marks and homes, and nothing else. -/
theorem Hbm.seal_same (a n : Nat) : ∀ (l : List Nat) (h : Hbm),
    { l.foldl (Hbm.sealOne a n) h with bad := h.bad, home := h.home, moved := h.moved } = h := by
  intro l
  induction l with
  | nil => intro h; rfl
  | cons x l ih =>
    intro h
    have h1 := ih (Hbm.sealOne a n h x)
    have h2 := Hbm.sealOne_same a n h x
    rw [List.foldl_cons]
    generalize l.foldl (Hbm.sealOne a n) (Hbm.sealOne a n h x) = t at h1
    generalize Hbm.sealOne a n h x = u at h1 h2
    cases t; cases u; cases h
    simp_all
/-- A write leaves the bytes that `writeBytes` has put there. -/
theorem Hbm.write_mem (h : Hbm) (a : Nat) (bs : List Byte) : (Hbm.write h a bs).mem = (h.writeBytes a bs).mem :=
  (Hbm.mk.inj (Hbm.seal_same a bs.length (sectorsOf a bs.length) (h.writeBytes a bs))).1
/-- A write through the region table keeps the canonical form. -/
theorem Hbm.write_wf (bs : List Byte) (h : Hbm) (a : Nat) (hw : Memory.wf h.mem = true) : Memory.wf (Hbm.write h a bs).mem = true := by
  rw [Hbm.write_mem]
  exact Hbm.writeBytes_wf bs h a hw

/-- A scratchpad write keeps the canonical form. -/
theorem Core.spWrite_wf (k : Core) (a : Nat) (bs : List Byte) (h : Memory.wf k.sp.mem = true) :
    Memory.wf (k.spWrite a bs).sp.mem = true := memWrite_wf h a bs

/-- A scratchpad byte after a write. -/
theorem Core.spWrite_byte (k : Core) (a x : Nat) (bs : List Byte) :
    memByte (k.spWrite a bs).sp.mem x = if a ≤ x ∧ x < a + bs.length then bs.getD (x - a) 0 else memByte k.sp.mem x :=
  memByte_memWrite k.sp.mem a x bs

end Sys2Proof.Machine
end

