-- ==== Sys2Proof/Laws/State.lean ====
section
/-! SUPPORT. One lemma per field per update of the state and of a core, so that no proof unfolds a record update; and what a
core, a bay, a register, a counter or a slot reads as after a write. -/

namespace Sys2Proof.Machine

open Sys2Proof

/-! ## Updates of one part of the state -/

@[simp] theorem State.setCore_bays (s : State) (c : Nat) (k : Core) : (s.setCore c k).bays = s.bays := rfl
@[simp] theorem State.setCore_dies (s : State) (c : Nat) (k : Core) : (s.setCore c k).dies = s.dies := rfl
@[simp] theorem State.setCore_flits (s : State) (c : Nat) (k : Core) : (s.setCore c k).flits = s.flits := rfl
@[simp] theorem State.setCore_fab (s : State) (c : Nat) (k : Core) : (s.setCore c k).fab = s.fab := rfl
@[simp] theorem State.setCore_tapLines (s : State) (c : Nat) (k : Core) : (s.setCore c k).tapLines = s.tapLines := rfl
@[simp] theorem State.setCore_mboxes (s : State) (c : Nat) (k : Core) : (s.setCore c k).mboxes = s.mboxes := rfl
@[simp] theorem State.setCore_launches (s : State) (c : Nat) (k : Core) : (s.setCore c k).launches = s.launches := rfl
@[simp] theorem State.setCore_ends (s : State) (c : Nat) (k : Core) : (s.setCore c k).ends = s.ends := rfl
@[simp] theorem State.setCore_parkedMsgs (s : State) (c : Nat) (k : Core) : (s.setCore c k).parkedMsgs = s.parkedMsgs := rfl
@[simp] theorem State.setCore_reports (s : State) (c : Nat) (k : Core) : (s.setCore c k).reports = s.reports := rfl
@[simp] theorem State.setCore_saddleReports (s : State) (c : Nat) (k : Core) : (s.setCore c k).saddleReports = s.saddleReports := rfl
@[simp] theorem State.setCore_hbm (s : State) (c : Nat) (k : Core) : (s.setCore c k).hbm = s.hbm := rfl
@[simp] theorem State.setCore_flash (s : State) (c : Nat) (k : Core) : (s.setCore c k).flash = s.flash := rfl
@[simp] theorem State.setCore_gens (s : State) (c : Nat) (k : Core) : (s.setCore c k).gens = s.gens := rfl
@[simp] theorem State.setCore_lastRec (s : State) (c : Nat) (k : Core) : (s.setCore c k).lastRec = s.lastRec := rfl
@[simp] theorem State.setCore_storeRec (s : State) (c : Nat) (k : Core) : (s.setCore c k).storeRec = s.storeRec := rfl
@[simp] theorem State.setCore_cinch (s : State) (c : Nat) (k : Core) : (s.setCore c k).cinch = s.cinch := rfl
@[simp] theorem State.setCore_ckpt (s : State) (c : Nat) (k : Core) : (s.setCore c k).ckpt = s.ckpt := rfl
@[simp] theorem State.setCore_links (s : State) (c : Nat) (k : Core) : (s.setCore c k).links = s.links := rfl
@[simp] theorem State.setCore_sched (s : State) (c : Nat) (k : Core) : (s.setCore c k).sched = s.sched := rfl
@[simp] theorem State.setCore_saved (s : State) (c : Nat) (k : Core) : (s.setCore c k).saved = s.saved := rfl
@[simp] theorem State.setCore_serve (s : State) (c : Nat) (k : Core) : (s.setCore c k).serve = s.serve := rfl
@[simp] theorem State.setCore_host (s : State) (c : Nat) (k : Core) : (s.setCore c k).host = s.host := rfl
@[simp] theorem State.setCore_safety (s : State) (c : Nat) (k : Core) : (s.setCore c k).safety = s.safety := rfl
@[simp] theorem State.setCore_sec (s : State) (c : Nat) (k : Core) : (s.setCore c k).sec = s.sec := rfl
@[simp] theorem State.setCore_rst (s : State) (c : Nat) (k : Core) : (s.setCore c k).rst = s.rst := rfl
@[simp] theorem State.setCore_glob (s : State) (c : Nat) (k : Core) : (s.setCore c k).glob = s.glob := rfl
@[simp] theorem State.setCore_now (s : State) (c : Nat) (k : Core) : (s.setCore c k).now = s.now := rfl
@[simp] theorem State.setCore_free (s : State) (c : Nat) (k : Core) : (s.setCore c k).free = s.free := rfl
@[simp] theorem State.setCore_out (s : State) (c : Nat) (k : Core) : (s.setCore c k).out = s.out := rfl
@[simp] theorem State.setCore_pending (s : State) (c : Nat) (k : Core) : (s.setCore c k).pending = s.pending := rfl
@[simp] theorem State.modCore_bays (s : State) (c : Nat) (f : Core → Core) : (s.modCore c f).bays = s.bays := rfl
@[simp] theorem State.modCore_dies (s : State) (c : Nat) (f : Core → Core) : (s.modCore c f).dies = s.dies := rfl
@[simp] theorem State.modCore_flits (s : State) (c : Nat) (f : Core → Core) : (s.modCore c f).flits = s.flits := rfl
@[simp] theorem State.modCore_fab (s : State) (c : Nat) (f : Core → Core) : (s.modCore c f).fab = s.fab := rfl
@[simp] theorem State.modCore_tapLines (s : State) (c : Nat) (f : Core → Core) : (s.modCore c f).tapLines = s.tapLines := rfl
@[simp] theorem State.modCore_mboxes (s : State) (c : Nat) (f : Core → Core) : (s.modCore c f).mboxes = s.mboxes := rfl
@[simp] theorem State.modCore_launches (s : State) (c : Nat) (f : Core → Core) : (s.modCore c f).launches = s.launches := rfl
@[simp] theorem State.modCore_ends (s : State) (c : Nat) (f : Core → Core) : (s.modCore c f).ends = s.ends := rfl
@[simp] theorem State.modCore_parkedMsgs (s : State) (c : Nat) (f : Core → Core) : (s.modCore c f).parkedMsgs = s.parkedMsgs := rfl
@[simp] theorem State.modCore_reports (s : State) (c : Nat) (f : Core → Core) : (s.modCore c f).reports = s.reports := rfl
@[simp] theorem State.modCore_saddleReports (s : State) (c : Nat) (f : Core → Core) : (s.modCore c f).saddleReports = s.saddleReports := rfl
@[simp] theorem State.modCore_hbm (s : State) (c : Nat) (f : Core → Core) : (s.modCore c f).hbm = s.hbm := rfl
@[simp] theorem State.modCore_flash (s : State) (c : Nat) (f : Core → Core) : (s.modCore c f).flash = s.flash := rfl
@[simp] theorem State.modCore_gens (s : State) (c : Nat) (f : Core → Core) : (s.modCore c f).gens = s.gens := rfl
@[simp] theorem State.modCore_lastRec (s : State) (c : Nat) (f : Core → Core) : (s.modCore c f).lastRec = s.lastRec := rfl
@[simp] theorem State.modCore_storeRec (s : State) (c : Nat) (f : Core → Core) : (s.modCore c f).storeRec = s.storeRec := rfl
@[simp] theorem State.modCore_cinch (s : State) (c : Nat) (f : Core → Core) : (s.modCore c f).cinch = s.cinch := rfl
@[simp] theorem State.modCore_ckpt (s : State) (c : Nat) (f : Core → Core) : (s.modCore c f).ckpt = s.ckpt := rfl
@[simp] theorem State.modCore_links (s : State) (c : Nat) (f : Core → Core) : (s.modCore c f).links = s.links := rfl
@[simp] theorem State.modCore_sched (s : State) (c : Nat) (f : Core → Core) : (s.modCore c f).sched = s.sched := rfl
@[simp] theorem State.modCore_saved (s : State) (c : Nat) (f : Core → Core) : (s.modCore c f).saved = s.saved := rfl
@[simp] theorem State.modCore_serve (s : State) (c : Nat) (f : Core → Core) : (s.modCore c f).serve = s.serve := rfl
@[simp] theorem State.modCore_host (s : State) (c : Nat) (f : Core → Core) : (s.modCore c f).host = s.host := rfl
@[simp] theorem State.modCore_safety (s : State) (c : Nat) (f : Core → Core) : (s.modCore c f).safety = s.safety := rfl
@[simp] theorem State.modCore_sec (s : State) (c : Nat) (f : Core → Core) : (s.modCore c f).sec = s.sec := rfl
@[simp] theorem State.modCore_rst (s : State) (c : Nat) (f : Core → Core) : (s.modCore c f).rst = s.rst := rfl
@[simp] theorem State.modCore_glob (s : State) (c : Nat) (f : Core → Core) : (s.modCore c f).glob = s.glob := rfl
@[simp] theorem State.modCore_now (s : State) (c : Nat) (f : Core → Core) : (s.modCore c f).now = s.now := rfl
@[simp] theorem State.modCore_free (s : State) (c : Nat) (f : Core → Core) : (s.modCore c f).free = s.free := rfl
@[simp] theorem State.modCore_out (s : State) (c : Nat) (f : Core → Core) : (s.modCore c f).out = s.out := rfl
@[simp] theorem State.modCore_pending (s : State) (c : Nat) (f : Core → Core) : (s.modCore c f).pending = s.pending := rfl
@[simp] theorem State.setBay_cores (s : State) (b : Nat) (k : Bay) : (s.setBay b k).cores = s.cores := rfl
@[simp] theorem State.setBay_dies (s : State) (b : Nat) (k : Bay) : (s.setBay b k).dies = s.dies := rfl
@[simp] theorem State.setBay_flits (s : State) (b : Nat) (k : Bay) : (s.setBay b k).flits = s.flits := rfl
@[simp] theorem State.setBay_fab (s : State) (b : Nat) (k : Bay) : (s.setBay b k).fab = s.fab := rfl
@[simp] theorem State.setBay_tapLines (s : State) (b : Nat) (k : Bay) : (s.setBay b k).tapLines = s.tapLines := rfl
@[simp] theorem State.setBay_mboxes (s : State) (b : Nat) (k : Bay) : (s.setBay b k).mboxes = s.mboxes := rfl
@[simp] theorem State.setBay_launches (s : State) (b : Nat) (k : Bay) : (s.setBay b k).launches = s.launches := rfl
@[simp] theorem State.setBay_ends (s : State) (b : Nat) (k : Bay) : (s.setBay b k).ends = s.ends := rfl
@[simp] theorem State.setBay_parkedMsgs (s : State) (b : Nat) (k : Bay) : (s.setBay b k).parkedMsgs = s.parkedMsgs := rfl
@[simp] theorem State.setBay_reports (s : State) (b : Nat) (k : Bay) : (s.setBay b k).reports = s.reports := rfl
@[simp] theorem State.setBay_saddleReports (s : State) (b : Nat) (k : Bay) : (s.setBay b k).saddleReports = s.saddleReports := rfl
@[simp] theorem State.setBay_hbm (s : State) (b : Nat) (k : Bay) : (s.setBay b k).hbm = s.hbm := rfl
@[simp] theorem State.setBay_flash (s : State) (b : Nat) (k : Bay) : (s.setBay b k).flash = s.flash := rfl
@[simp] theorem State.setBay_gens (s : State) (b : Nat) (k : Bay) : (s.setBay b k).gens = s.gens := rfl
@[simp] theorem State.setBay_lastRec (s : State) (b : Nat) (k : Bay) : (s.setBay b k).lastRec = s.lastRec := rfl
@[simp] theorem State.setBay_storeRec (s : State) (b : Nat) (k : Bay) : (s.setBay b k).storeRec = s.storeRec := rfl
@[simp] theorem State.setBay_cinch (s : State) (b : Nat) (k : Bay) : (s.setBay b k).cinch = s.cinch := rfl
@[simp] theorem State.setBay_ckpt (s : State) (b : Nat) (k : Bay) : (s.setBay b k).ckpt = s.ckpt := rfl
@[simp] theorem State.setBay_links (s : State) (b : Nat) (k : Bay) : (s.setBay b k).links = s.links := rfl
@[simp] theorem State.setBay_sched (s : State) (b : Nat) (k : Bay) : (s.setBay b k).sched = s.sched := rfl
@[simp] theorem State.setBay_saved (s : State) (b : Nat) (k : Bay) : (s.setBay b k).saved = s.saved := rfl
@[simp] theorem State.setBay_serve (s : State) (b : Nat) (k : Bay) : (s.setBay b k).serve = s.serve := rfl
@[simp] theorem State.setBay_host (s : State) (b : Nat) (k : Bay) : (s.setBay b k).host = s.host := rfl
@[simp] theorem State.setBay_safety (s : State) (b : Nat) (k : Bay) : (s.setBay b k).safety = s.safety := rfl
@[simp] theorem State.setBay_sec (s : State) (b : Nat) (k : Bay) : (s.setBay b k).sec = s.sec := rfl
@[simp] theorem State.setBay_rst (s : State) (b : Nat) (k : Bay) : (s.setBay b k).rst = s.rst := rfl
@[simp] theorem State.setBay_glob (s : State) (b : Nat) (k : Bay) : (s.setBay b k).glob = s.glob := rfl
@[simp] theorem State.setBay_now (s : State) (b : Nat) (k : Bay) : (s.setBay b k).now = s.now := rfl
@[simp] theorem State.setBay_free (s : State) (b : Nat) (k : Bay) : (s.setBay b k).free = s.free := rfl
@[simp] theorem State.setBay_out (s : State) (b : Nat) (k : Bay) : (s.setBay b k).out = s.out := rfl
@[simp] theorem State.setBay_pending (s : State) (b : Nat) (k : Bay) : (s.setBay b k).pending = s.pending := rfl
@[simp] theorem State.modBay_cores (s : State) (b : Nat) (f : Bay → Bay) : (s.modBay b f).cores = s.cores := rfl
@[simp] theorem State.modBay_dies (s : State) (b : Nat) (f : Bay → Bay) : (s.modBay b f).dies = s.dies := rfl
@[simp] theorem State.modBay_flits (s : State) (b : Nat) (f : Bay → Bay) : (s.modBay b f).flits = s.flits := rfl
@[simp] theorem State.modBay_fab (s : State) (b : Nat) (f : Bay → Bay) : (s.modBay b f).fab = s.fab := rfl
@[simp] theorem State.modBay_tapLines (s : State) (b : Nat) (f : Bay → Bay) : (s.modBay b f).tapLines = s.tapLines := rfl
@[simp] theorem State.modBay_mboxes (s : State) (b : Nat) (f : Bay → Bay) : (s.modBay b f).mboxes = s.mboxes := rfl
@[simp] theorem State.modBay_launches (s : State) (b : Nat) (f : Bay → Bay) : (s.modBay b f).launches = s.launches := rfl
@[simp] theorem State.modBay_ends (s : State) (b : Nat) (f : Bay → Bay) : (s.modBay b f).ends = s.ends := rfl
@[simp] theorem State.modBay_parkedMsgs (s : State) (b : Nat) (f : Bay → Bay) : (s.modBay b f).parkedMsgs = s.parkedMsgs := rfl
@[simp] theorem State.modBay_reports (s : State) (b : Nat) (f : Bay → Bay) : (s.modBay b f).reports = s.reports := rfl
@[simp] theorem State.modBay_saddleReports (s : State) (b : Nat) (f : Bay → Bay) : (s.modBay b f).saddleReports = s.saddleReports := rfl
@[simp] theorem State.modBay_hbm (s : State) (b : Nat) (f : Bay → Bay) : (s.modBay b f).hbm = s.hbm := rfl
@[simp] theorem State.modBay_flash (s : State) (b : Nat) (f : Bay → Bay) : (s.modBay b f).flash = s.flash := rfl
@[simp] theorem State.modBay_gens (s : State) (b : Nat) (f : Bay → Bay) : (s.modBay b f).gens = s.gens := rfl
@[simp] theorem State.modBay_lastRec (s : State) (b : Nat) (f : Bay → Bay) : (s.modBay b f).lastRec = s.lastRec := rfl
@[simp] theorem State.modBay_storeRec (s : State) (b : Nat) (f : Bay → Bay) : (s.modBay b f).storeRec = s.storeRec := rfl
@[simp] theorem State.modBay_cinch (s : State) (b : Nat) (f : Bay → Bay) : (s.modBay b f).cinch = s.cinch := rfl
@[simp] theorem State.modBay_ckpt (s : State) (b : Nat) (f : Bay → Bay) : (s.modBay b f).ckpt = s.ckpt := rfl
@[simp] theorem State.modBay_links (s : State) (b : Nat) (f : Bay → Bay) : (s.modBay b f).links = s.links := rfl
@[simp] theorem State.modBay_sched (s : State) (b : Nat) (f : Bay → Bay) : (s.modBay b f).sched = s.sched := rfl
@[simp] theorem State.modBay_saved (s : State) (b : Nat) (f : Bay → Bay) : (s.modBay b f).saved = s.saved := rfl
@[simp] theorem State.modBay_serve (s : State) (b : Nat) (f : Bay → Bay) : (s.modBay b f).serve = s.serve := rfl
@[simp] theorem State.modBay_host (s : State) (b : Nat) (f : Bay → Bay) : (s.modBay b f).host = s.host := rfl
@[simp] theorem State.modBay_safety (s : State) (b : Nat) (f : Bay → Bay) : (s.modBay b f).safety = s.safety := rfl
@[simp] theorem State.modBay_sec (s : State) (b : Nat) (f : Bay → Bay) : (s.modBay b f).sec = s.sec := rfl
@[simp] theorem State.modBay_rst (s : State) (b : Nat) (f : Bay → Bay) : (s.modBay b f).rst = s.rst := rfl
@[simp] theorem State.modBay_glob (s : State) (b : Nat) (f : Bay → Bay) : (s.modBay b f).glob = s.glob := rfl
@[simp] theorem State.modBay_now (s : State) (b : Nat) (f : Bay → Bay) : (s.modBay b f).now = s.now := rfl
@[simp] theorem State.modBay_free (s : State) (b : Nat) (f : Bay → Bay) : (s.modBay b f).free = s.free := rfl
@[simp] theorem State.modBay_out (s : State) (b : Nat) (f : Bay → Bay) : (s.modBay b f).out = s.out := rfl
@[simp] theorem State.modBay_pending (s : State) (b : Nat) (f : Bay → Bay) : (s.modBay b f).pending = s.pending := rfl
@[simp] theorem State.modDie_cores (s : State) (d : Nat) (f : Die → Die) : (s.modDie d f).cores = s.cores := rfl
@[simp] theorem State.modDie_bays (s : State) (d : Nat) (f : Die → Die) : (s.modDie d f).bays = s.bays := rfl
@[simp] theorem State.modDie_flits (s : State) (d : Nat) (f : Die → Die) : (s.modDie d f).flits = s.flits := rfl
@[simp] theorem State.modDie_fab (s : State) (d : Nat) (f : Die → Die) : (s.modDie d f).fab = s.fab := rfl
@[simp] theorem State.modDie_tapLines (s : State) (d : Nat) (f : Die → Die) : (s.modDie d f).tapLines = s.tapLines := rfl
@[simp] theorem State.modDie_mboxes (s : State) (d : Nat) (f : Die → Die) : (s.modDie d f).mboxes = s.mboxes := rfl
@[simp] theorem State.modDie_launches (s : State) (d : Nat) (f : Die → Die) : (s.modDie d f).launches = s.launches := rfl
@[simp] theorem State.modDie_ends (s : State) (d : Nat) (f : Die → Die) : (s.modDie d f).ends = s.ends := rfl
@[simp] theorem State.modDie_parkedMsgs (s : State) (d : Nat) (f : Die → Die) : (s.modDie d f).parkedMsgs = s.parkedMsgs := rfl
@[simp] theorem State.modDie_reports (s : State) (d : Nat) (f : Die → Die) : (s.modDie d f).reports = s.reports := rfl
@[simp] theorem State.modDie_saddleReports (s : State) (d : Nat) (f : Die → Die) : (s.modDie d f).saddleReports = s.saddleReports := rfl
@[simp] theorem State.modDie_hbm (s : State) (d : Nat) (f : Die → Die) : (s.modDie d f).hbm = s.hbm := rfl
@[simp] theorem State.modDie_flash (s : State) (d : Nat) (f : Die → Die) : (s.modDie d f).flash = s.flash := rfl
@[simp] theorem State.modDie_gens (s : State) (d : Nat) (f : Die → Die) : (s.modDie d f).gens = s.gens := rfl
@[simp] theorem State.modDie_lastRec (s : State) (d : Nat) (f : Die → Die) : (s.modDie d f).lastRec = s.lastRec := rfl
@[simp] theorem State.modDie_storeRec (s : State) (d : Nat) (f : Die → Die) : (s.modDie d f).storeRec = s.storeRec := rfl
@[simp] theorem State.modDie_cinch (s : State) (d : Nat) (f : Die → Die) : (s.modDie d f).cinch = s.cinch := rfl
@[simp] theorem State.modDie_ckpt (s : State) (d : Nat) (f : Die → Die) : (s.modDie d f).ckpt = s.ckpt := rfl
@[simp] theorem State.modDie_links (s : State) (d : Nat) (f : Die → Die) : (s.modDie d f).links = s.links := rfl
@[simp] theorem State.modDie_sched (s : State) (d : Nat) (f : Die → Die) : (s.modDie d f).sched = s.sched := rfl
@[simp] theorem State.modDie_saved (s : State) (d : Nat) (f : Die → Die) : (s.modDie d f).saved = s.saved := rfl
@[simp] theorem State.modDie_serve (s : State) (d : Nat) (f : Die → Die) : (s.modDie d f).serve = s.serve := rfl
@[simp] theorem State.modDie_host (s : State) (d : Nat) (f : Die → Die) : (s.modDie d f).host = s.host := rfl
@[simp] theorem State.modDie_safety (s : State) (d : Nat) (f : Die → Die) : (s.modDie d f).safety = s.safety := rfl
@[simp] theorem State.modDie_sec (s : State) (d : Nat) (f : Die → Die) : (s.modDie d f).sec = s.sec := rfl
@[simp] theorem State.modDie_rst (s : State) (d : Nat) (f : Die → Die) : (s.modDie d f).rst = s.rst := rfl
@[simp] theorem State.modDie_glob (s : State) (d : Nat) (f : Die → Die) : (s.modDie d f).glob = s.glob := rfl
@[simp] theorem State.modDie_now (s : State) (d : Nat) (f : Die → Die) : (s.modDie d f).now = s.now := rfl
@[simp] theorem State.modDie_free (s : State) (d : Nat) (f : Die → Die) : (s.modDie d f).free = s.free := rfl
@[simp] theorem State.modDie_out (s : State) (d : Nat) (f : Die → Die) : (s.modDie d f).out = s.out := rfl
@[simp] theorem State.modDie_pending (s : State) (d : Nat) (f : Die → Die) : (s.modDie d f).pending = s.pending := rfl
@[simp] theorem State.modSched_cores (s : State) (p : Nat) (f : Sched → Sched) : (s.modSched p f).cores = s.cores := rfl
@[simp] theorem State.modSched_bays (s : State) (p : Nat) (f : Sched → Sched) : (s.modSched p f).bays = s.bays := rfl
@[simp] theorem State.modSched_dies (s : State) (p : Nat) (f : Sched → Sched) : (s.modSched p f).dies = s.dies := rfl
@[simp] theorem State.modSched_flits (s : State) (p : Nat) (f : Sched → Sched) : (s.modSched p f).flits = s.flits := rfl
@[simp] theorem State.modSched_fab (s : State) (p : Nat) (f : Sched → Sched) : (s.modSched p f).fab = s.fab := rfl
@[simp] theorem State.modSched_tapLines (s : State) (p : Nat) (f : Sched → Sched) : (s.modSched p f).tapLines = s.tapLines := rfl
@[simp] theorem State.modSched_mboxes (s : State) (p : Nat) (f : Sched → Sched) : (s.modSched p f).mboxes = s.mboxes := rfl
@[simp] theorem State.modSched_launches (s : State) (p : Nat) (f : Sched → Sched) : (s.modSched p f).launches = s.launches := rfl
@[simp] theorem State.modSched_ends (s : State) (p : Nat) (f : Sched → Sched) : (s.modSched p f).ends = s.ends := rfl
@[simp] theorem State.modSched_parkedMsgs (s : State) (p : Nat) (f : Sched → Sched) : (s.modSched p f).parkedMsgs = s.parkedMsgs := rfl
@[simp] theorem State.modSched_reports (s : State) (p : Nat) (f : Sched → Sched) : (s.modSched p f).reports = s.reports := rfl
@[simp] theorem State.modSched_saddleReports (s : State) (p : Nat) (f : Sched → Sched) : (s.modSched p f).saddleReports = s.saddleReports := rfl
@[simp] theorem State.modSched_hbm (s : State) (p : Nat) (f : Sched → Sched) : (s.modSched p f).hbm = s.hbm := rfl
@[simp] theorem State.modSched_flash (s : State) (p : Nat) (f : Sched → Sched) : (s.modSched p f).flash = s.flash := rfl
@[simp] theorem State.modSched_gens (s : State) (p : Nat) (f : Sched → Sched) : (s.modSched p f).gens = s.gens := rfl
@[simp] theorem State.modSched_lastRec (s : State) (p : Nat) (f : Sched → Sched) : (s.modSched p f).lastRec = s.lastRec := rfl
@[simp] theorem State.modSched_storeRec (s : State) (p : Nat) (f : Sched → Sched) : (s.modSched p f).storeRec = s.storeRec := rfl
@[simp] theorem State.modSched_cinch (s : State) (p : Nat) (f : Sched → Sched) : (s.modSched p f).cinch = s.cinch := rfl
@[simp] theorem State.modSched_ckpt (s : State) (p : Nat) (f : Sched → Sched) : (s.modSched p f).ckpt = s.ckpt := rfl
@[simp] theorem State.modSched_links (s : State) (p : Nat) (f : Sched → Sched) : (s.modSched p f).links = s.links := rfl
@[simp] theorem State.modSched_saved (s : State) (p : Nat) (f : Sched → Sched) : (s.modSched p f).saved = s.saved := rfl
@[simp] theorem State.modSched_serve (s : State) (p : Nat) (f : Sched → Sched) : (s.modSched p f).serve = s.serve := rfl
@[simp] theorem State.modSched_host (s : State) (p : Nat) (f : Sched → Sched) : (s.modSched p f).host = s.host := rfl
@[simp] theorem State.modSched_safety (s : State) (p : Nat) (f : Sched → Sched) : (s.modSched p f).safety = s.safety := rfl
@[simp] theorem State.modSched_sec (s : State) (p : Nat) (f : Sched → Sched) : (s.modSched p f).sec = s.sec := rfl
@[simp] theorem State.modSched_rst (s : State) (p : Nat) (f : Sched → Sched) : (s.modSched p f).rst = s.rst := rfl
@[simp] theorem State.modSched_glob (s : State) (p : Nat) (f : Sched → Sched) : (s.modSched p f).glob = s.glob := rfl
@[simp] theorem State.modSched_now (s : State) (p : Nat) (f : Sched → Sched) : (s.modSched p f).now = s.now := rfl
@[simp] theorem State.modSched_free (s : State) (p : Nat) (f : Sched → Sched) : (s.modSched p f).free = s.free := rfl
@[simp] theorem State.modSched_out (s : State) (p : Nat) (f : Sched → Sched) : (s.modSched p f).out = s.out := rfl
@[simp] theorem State.modSched_pending (s : State) (p : Nat) (f : Sched → Sched) : (s.modSched p f).pending = s.pending := rfl
@[simp] theorem State.modServe_cores (s : State) (p : Nat) (f : Serve → Serve) : (s.modServe p f).cores = s.cores := rfl
@[simp] theorem State.modServe_bays (s : State) (p : Nat) (f : Serve → Serve) : (s.modServe p f).bays = s.bays := rfl
@[simp] theorem State.modServe_dies (s : State) (p : Nat) (f : Serve → Serve) : (s.modServe p f).dies = s.dies := rfl
@[simp] theorem State.modServe_flits (s : State) (p : Nat) (f : Serve → Serve) : (s.modServe p f).flits = s.flits := rfl
@[simp] theorem State.modServe_fab (s : State) (p : Nat) (f : Serve → Serve) : (s.modServe p f).fab = s.fab := rfl
@[simp] theorem State.modServe_tapLines (s : State) (p : Nat) (f : Serve → Serve) : (s.modServe p f).tapLines = s.tapLines := rfl
@[simp] theorem State.modServe_mboxes (s : State) (p : Nat) (f : Serve → Serve) : (s.modServe p f).mboxes = s.mboxes := rfl
@[simp] theorem State.modServe_launches (s : State) (p : Nat) (f : Serve → Serve) : (s.modServe p f).launches = s.launches := rfl
@[simp] theorem State.modServe_ends (s : State) (p : Nat) (f : Serve → Serve) : (s.modServe p f).ends = s.ends := rfl
@[simp] theorem State.modServe_parkedMsgs (s : State) (p : Nat) (f : Serve → Serve) : (s.modServe p f).parkedMsgs = s.parkedMsgs := rfl
@[simp] theorem State.modServe_reports (s : State) (p : Nat) (f : Serve → Serve) : (s.modServe p f).reports = s.reports := rfl
@[simp] theorem State.modServe_saddleReports (s : State) (p : Nat) (f : Serve → Serve) : (s.modServe p f).saddleReports = s.saddleReports := rfl
@[simp] theorem State.modServe_hbm (s : State) (p : Nat) (f : Serve → Serve) : (s.modServe p f).hbm = s.hbm := rfl
@[simp] theorem State.modServe_flash (s : State) (p : Nat) (f : Serve → Serve) : (s.modServe p f).flash = s.flash := rfl
@[simp] theorem State.modServe_gens (s : State) (p : Nat) (f : Serve → Serve) : (s.modServe p f).gens = s.gens := rfl
@[simp] theorem State.modServe_lastRec (s : State) (p : Nat) (f : Serve → Serve) : (s.modServe p f).lastRec = s.lastRec := rfl
@[simp] theorem State.modServe_storeRec (s : State) (p : Nat) (f : Serve → Serve) : (s.modServe p f).storeRec = s.storeRec := rfl
@[simp] theorem State.modServe_cinch (s : State) (p : Nat) (f : Serve → Serve) : (s.modServe p f).cinch = s.cinch := rfl
@[simp] theorem State.modServe_ckpt (s : State) (p : Nat) (f : Serve → Serve) : (s.modServe p f).ckpt = s.ckpt := rfl
@[simp] theorem State.modServe_links (s : State) (p : Nat) (f : Serve → Serve) : (s.modServe p f).links = s.links := rfl
@[simp] theorem State.modServe_sched (s : State) (p : Nat) (f : Serve → Serve) : (s.modServe p f).sched = s.sched := rfl
@[simp] theorem State.modServe_saved (s : State) (p : Nat) (f : Serve → Serve) : (s.modServe p f).saved = s.saved := rfl
@[simp] theorem State.modServe_host (s : State) (p : Nat) (f : Serve → Serve) : (s.modServe p f).host = s.host := rfl
@[simp] theorem State.modServe_safety (s : State) (p : Nat) (f : Serve → Serve) : (s.modServe p f).safety = s.safety := rfl
@[simp] theorem State.modServe_sec (s : State) (p : Nat) (f : Serve → Serve) : (s.modServe p f).sec = s.sec := rfl
@[simp] theorem State.modServe_rst (s : State) (p : Nat) (f : Serve → Serve) : (s.modServe p f).rst = s.rst := rfl
@[simp] theorem State.modServe_glob (s : State) (p : Nat) (f : Serve → Serve) : (s.modServe p f).glob = s.glob := rfl
@[simp] theorem State.modServe_now (s : State) (p : Nat) (f : Serve → Serve) : (s.modServe p f).now = s.now := rfl
@[simp] theorem State.modServe_free (s : State) (p : Nat) (f : Serve → Serve) : (s.modServe p f).free = s.free := rfl
@[simp] theorem State.modServe_out (s : State) (p : Nat) (f : Serve → Serve) : (s.modServe p f).out = s.out := rfl
@[simp] theorem State.modServe_pending (s : State) (p : Nat) (f : Serve → Serve) : (s.modServe p f).pending = s.pending := rfl
@[simp] theorem State.modPort_cores (s : State) (p : Nat) (f : Port → Port) : (s.modPort p f).cores = s.cores := rfl
@[simp] theorem State.modPort_bays (s : State) (p : Nat) (f : Port → Port) : (s.modPort p f).bays = s.bays := rfl
@[simp] theorem State.modPort_dies (s : State) (p : Nat) (f : Port → Port) : (s.modPort p f).dies = s.dies := rfl
@[simp] theorem State.modPort_flits (s : State) (p : Nat) (f : Port → Port) : (s.modPort p f).flits = s.flits := rfl
@[simp] theorem State.modPort_fab (s : State) (p : Nat) (f : Port → Port) : (s.modPort p f).fab = s.fab := rfl
@[simp] theorem State.modPort_tapLines (s : State) (p : Nat) (f : Port → Port) : (s.modPort p f).tapLines = s.tapLines := rfl
@[simp] theorem State.modPort_mboxes (s : State) (p : Nat) (f : Port → Port) : (s.modPort p f).mboxes = s.mboxes := rfl
@[simp] theorem State.modPort_launches (s : State) (p : Nat) (f : Port → Port) : (s.modPort p f).launches = s.launches := rfl
@[simp] theorem State.modPort_ends (s : State) (p : Nat) (f : Port → Port) : (s.modPort p f).ends = s.ends := rfl
@[simp] theorem State.modPort_parkedMsgs (s : State) (p : Nat) (f : Port → Port) : (s.modPort p f).parkedMsgs = s.parkedMsgs := rfl
@[simp] theorem State.modPort_reports (s : State) (p : Nat) (f : Port → Port) : (s.modPort p f).reports = s.reports := rfl
@[simp] theorem State.modPort_saddleReports (s : State) (p : Nat) (f : Port → Port) : (s.modPort p f).saddleReports = s.saddleReports := rfl
@[simp] theorem State.modPort_hbm (s : State) (p : Nat) (f : Port → Port) : (s.modPort p f).hbm = s.hbm := rfl
@[simp] theorem State.modPort_flash (s : State) (p : Nat) (f : Port → Port) : (s.modPort p f).flash = s.flash := rfl
@[simp] theorem State.modPort_gens (s : State) (p : Nat) (f : Port → Port) : (s.modPort p f).gens = s.gens := rfl
@[simp] theorem State.modPort_lastRec (s : State) (p : Nat) (f : Port → Port) : (s.modPort p f).lastRec = s.lastRec := rfl
@[simp] theorem State.modPort_storeRec (s : State) (p : Nat) (f : Port → Port) : (s.modPort p f).storeRec = s.storeRec := rfl
@[simp] theorem State.modPort_cinch (s : State) (p : Nat) (f : Port → Port) : (s.modPort p f).cinch = s.cinch := rfl
@[simp] theorem State.modPort_ckpt (s : State) (p : Nat) (f : Port → Port) : (s.modPort p f).ckpt = s.ckpt := rfl
@[simp] theorem State.modPort_sched (s : State) (p : Nat) (f : Port → Port) : (s.modPort p f).sched = s.sched := rfl
@[simp] theorem State.modPort_saved (s : State) (p : Nat) (f : Port → Port) : (s.modPort p f).saved = s.saved := rfl
@[simp] theorem State.modPort_serve (s : State) (p : Nat) (f : Port → Port) : (s.modPort p f).serve = s.serve := rfl
@[simp] theorem State.modPort_host (s : State) (p : Nat) (f : Port → Port) : (s.modPort p f).host = s.host := rfl
@[simp] theorem State.modPort_safety (s : State) (p : Nat) (f : Port → Port) : (s.modPort p f).safety = s.safety := rfl
@[simp] theorem State.modPort_sec (s : State) (p : Nat) (f : Port → Port) : (s.modPort p f).sec = s.sec := rfl
@[simp] theorem State.modPort_rst (s : State) (p : Nat) (f : Port → Port) : (s.modPort p f).rst = s.rst := rfl
@[simp] theorem State.modPort_glob (s : State) (p : Nat) (f : Port → Port) : (s.modPort p f).glob = s.glob := rfl
@[simp] theorem State.modPort_now (s : State) (p : Nat) (f : Port → Port) : (s.modPort p f).now = s.now := rfl
@[simp] theorem State.modPort_free (s : State) (p : Nat) (f : Port → Port) : (s.modPort p f).free = s.free := rfl
@[simp] theorem State.modPort_out (s : State) (p : Nat) (f : Port → Port) : (s.modPort p f).out = s.out := rfl
@[simp] theorem State.modPort_pending (s : State) (p : Nat) (f : Port → Port) : (s.modPort p f).pending = s.pending := rfl
@[simp] theorem State.modLinks_cores (s : State) (f : Links → Links) : (s.modLinks f).cores = s.cores := rfl
@[simp] theorem State.modLinks_bays (s : State) (f : Links → Links) : (s.modLinks f).bays = s.bays := rfl
@[simp] theorem State.modLinks_dies (s : State) (f : Links → Links) : (s.modLinks f).dies = s.dies := rfl
@[simp] theorem State.modLinks_flits (s : State) (f : Links → Links) : (s.modLinks f).flits = s.flits := rfl
@[simp] theorem State.modLinks_fab (s : State) (f : Links → Links) : (s.modLinks f).fab = s.fab := rfl
@[simp] theorem State.modLinks_tapLines (s : State) (f : Links → Links) : (s.modLinks f).tapLines = s.tapLines := rfl
@[simp] theorem State.modLinks_mboxes (s : State) (f : Links → Links) : (s.modLinks f).mboxes = s.mboxes := rfl
@[simp] theorem State.modLinks_launches (s : State) (f : Links → Links) : (s.modLinks f).launches = s.launches := rfl
@[simp] theorem State.modLinks_ends (s : State) (f : Links → Links) : (s.modLinks f).ends = s.ends := rfl
@[simp] theorem State.modLinks_parkedMsgs (s : State) (f : Links → Links) : (s.modLinks f).parkedMsgs = s.parkedMsgs := rfl
@[simp] theorem State.modLinks_reports (s : State) (f : Links → Links) : (s.modLinks f).reports = s.reports := rfl
@[simp] theorem State.modLinks_saddleReports (s : State) (f : Links → Links) : (s.modLinks f).saddleReports = s.saddleReports := rfl
@[simp] theorem State.modLinks_hbm (s : State) (f : Links → Links) : (s.modLinks f).hbm = s.hbm := rfl
@[simp] theorem State.modLinks_flash (s : State) (f : Links → Links) : (s.modLinks f).flash = s.flash := rfl
@[simp] theorem State.modLinks_gens (s : State) (f : Links → Links) : (s.modLinks f).gens = s.gens := rfl
@[simp] theorem State.modLinks_lastRec (s : State) (f : Links → Links) : (s.modLinks f).lastRec = s.lastRec := rfl
@[simp] theorem State.modLinks_storeRec (s : State) (f : Links → Links) : (s.modLinks f).storeRec = s.storeRec := rfl
@[simp] theorem State.modLinks_cinch (s : State) (f : Links → Links) : (s.modLinks f).cinch = s.cinch := rfl
@[simp] theorem State.modLinks_ckpt (s : State) (f : Links → Links) : (s.modLinks f).ckpt = s.ckpt := rfl
@[simp] theorem State.modLinks_sched (s : State) (f : Links → Links) : (s.modLinks f).sched = s.sched := rfl
@[simp] theorem State.modLinks_saved (s : State) (f : Links → Links) : (s.modLinks f).saved = s.saved := rfl
@[simp] theorem State.modLinks_serve (s : State) (f : Links → Links) : (s.modLinks f).serve = s.serve := rfl
@[simp] theorem State.modLinks_host (s : State) (f : Links → Links) : (s.modLinks f).host = s.host := rfl
@[simp] theorem State.modLinks_safety (s : State) (f : Links → Links) : (s.modLinks f).safety = s.safety := rfl
@[simp] theorem State.modLinks_sec (s : State) (f : Links → Links) : (s.modLinks f).sec = s.sec := rfl
@[simp] theorem State.modLinks_rst (s : State) (f : Links → Links) : (s.modLinks f).rst = s.rst := rfl
@[simp] theorem State.modLinks_glob (s : State) (f : Links → Links) : (s.modLinks f).glob = s.glob := rfl
@[simp] theorem State.modLinks_now (s : State) (f : Links → Links) : (s.modLinks f).now = s.now := rfl
@[simp] theorem State.modLinks_free (s : State) (f : Links → Links) : (s.modLinks f).free = s.free := rfl
@[simp] theorem State.modLinks_out (s : State) (f : Links → Links) : (s.modLinks f).out = s.out := rfl
@[simp] theorem State.modLinks_pending (s : State) (f : Links → Links) : (s.modLinks f).pending = s.pending := rfl
@[simp] theorem State.modSess_cores (s : State) (i : Nat) (f : Session → Session) : (s.modSess i f).cores = s.cores := rfl
@[simp] theorem State.modSess_bays (s : State) (i : Nat) (f : Session → Session) : (s.modSess i f).bays = s.bays := rfl
@[simp] theorem State.modSess_dies (s : State) (i : Nat) (f : Session → Session) : (s.modSess i f).dies = s.dies := rfl
@[simp] theorem State.modSess_flits (s : State) (i : Nat) (f : Session → Session) : (s.modSess i f).flits = s.flits := rfl
@[simp] theorem State.modSess_fab (s : State) (i : Nat) (f : Session → Session) : (s.modSess i f).fab = s.fab := rfl
@[simp] theorem State.modSess_tapLines (s : State) (i : Nat) (f : Session → Session) : (s.modSess i f).tapLines = s.tapLines := rfl
@[simp] theorem State.modSess_mboxes (s : State) (i : Nat) (f : Session → Session) : (s.modSess i f).mboxes = s.mboxes := rfl
@[simp] theorem State.modSess_launches (s : State) (i : Nat) (f : Session → Session) : (s.modSess i f).launches = s.launches := rfl
@[simp] theorem State.modSess_ends (s : State) (i : Nat) (f : Session → Session) : (s.modSess i f).ends = s.ends := rfl
@[simp] theorem State.modSess_parkedMsgs (s : State) (i : Nat) (f : Session → Session) : (s.modSess i f).parkedMsgs = s.parkedMsgs := rfl
@[simp] theorem State.modSess_reports (s : State) (i : Nat) (f : Session → Session) : (s.modSess i f).reports = s.reports := rfl
@[simp] theorem State.modSess_saddleReports (s : State) (i : Nat) (f : Session → Session) : (s.modSess i f).saddleReports = s.saddleReports := rfl
@[simp] theorem State.modSess_hbm (s : State) (i : Nat) (f : Session → Session) : (s.modSess i f).hbm = s.hbm := rfl
@[simp] theorem State.modSess_flash (s : State) (i : Nat) (f : Session → Session) : (s.modSess i f).flash = s.flash := rfl
@[simp] theorem State.modSess_gens (s : State) (i : Nat) (f : Session → Session) : (s.modSess i f).gens = s.gens := rfl
@[simp] theorem State.modSess_lastRec (s : State) (i : Nat) (f : Session → Session) : (s.modSess i f).lastRec = s.lastRec := rfl
@[simp] theorem State.modSess_storeRec (s : State) (i : Nat) (f : Session → Session) : (s.modSess i f).storeRec = s.storeRec := rfl
@[simp] theorem State.modSess_cinch (s : State) (i : Nat) (f : Session → Session) : (s.modSess i f).cinch = s.cinch := rfl
@[simp] theorem State.modSess_ckpt (s : State) (i : Nat) (f : Session → Session) : (s.modSess i f).ckpt = s.ckpt := rfl
@[simp] theorem State.modSess_links (s : State) (i : Nat) (f : Session → Session) : (s.modSess i f).links = s.links := rfl
@[simp] theorem State.modSess_sched (s : State) (i : Nat) (f : Session → Session) : (s.modSess i f).sched = s.sched := rfl
@[simp] theorem State.modSess_saved (s : State) (i : Nat) (f : Session → Session) : (s.modSess i f).saved = s.saved := rfl
@[simp] theorem State.modSess_serve (s : State) (i : Nat) (f : Session → Session) : (s.modSess i f).serve = s.serve := rfl
@[simp] theorem State.modSess_safety (s : State) (i : Nat) (f : Session → Session) : (s.modSess i f).safety = s.safety := rfl
@[simp] theorem State.modSess_sec (s : State) (i : Nat) (f : Session → Session) : (s.modSess i f).sec = s.sec := rfl
@[simp] theorem State.modSess_rst (s : State) (i : Nat) (f : Session → Session) : (s.modSess i f).rst = s.rst := rfl
@[simp] theorem State.modSess_glob (s : State) (i : Nat) (f : Session → Session) : (s.modSess i f).glob = s.glob := rfl
@[simp] theorem State.modSess_now (s : State) (i : Nat) (f : Session → Session) : (s.modSess i f).now = s.now := rfl
@[simp] theorem State.modSess_free (s : State) (i : Nat) (f : Session → Session) : (s.modSess i f).free = s.free := rfl
@[simp] theorem State.modSess_out (s : State) (i : Nat) (f : Session → Session) : (s.modSess i f).out = s.out := rfl
@[simp] theorem State.modSess_pending (s : State) (i : Nat) (f : Session → Session) : (s.modSess i f).pending = s.pending := rfl
@[simp] theorem State.modHost_cores (s : State) (f : HostPort → HostPort) : (s.modHost f).cores = s.cores := rfl
@[simp] theorem State.modHost_bays (s : State) (f : HostPort → HostPort) : (s.modHost f).bays = s.bays := rfl
@[simp] theorem State.modHost_dies (s : State) (f : HostPort → HostPort) : (s.modHost f).dies = s.dies := rfl
@[simp] theorem State.modHost_flits (s : State) (f : HostPort → HostPort) : (s.modHost f).flits = s.flits := rfl
@[simp] theorem State.modHost_fab (s : State) (f : HostPort → HostPort) : (s.modHost f).fab = s.fab := rfl
@[simp] theorem State.modHost_tapLines (s : State) (f : HostPort → HostPort) : (s.modHost f).tapLines = s.tapLines := rfl
@[simp] theorem State.modHost_mboxes (s : State) (f : HostPort → HostPort) : (s.modHost f).mboxes = s.mboxes := rfl
@[simp] theorem State.modHost_launches (s : State) (f : HostPort → HostPort) : (s.modHost f).launches = s.launches := rfl
@[simp] theorem State.modHost_ends (s : State) (f : HostPort → HostPort) : (s.modHost f).ends = s.ends := rfl
@[simp] theorem State.modHost_parkedMsgs (s : State) (f : HostPort → HostPort) : (s.modHost f).parkedMsgs = s.parkedMsgs := rfl
@[simp] theorem State.modHost_reports (s : State) (f : HostPort → HostPort) : (s.modHost f).reports = s.reports := rfl
@[simp] theorem State.modHost_saddleReports (s : State) (f : HostPort → HostPort) : (s.modHost f).saddleReports = s.saddleReports := rfl
@[simp] theorem State.modHost_hbm (s : State) (f : HostPort → HostPort) : (s.modHost f).hbm = s.hbm := rfl
@[simp] theorem State.modHost_flash (s : State) (f : HostPort → HostPort) : (s.modHost f).flash = s.flash := rfl
@[simp] theorem State.modHost_gens (s : State) (f : HostPort → HostPort) : (s.modHost f).gens = s.gens := rfl
@[simp] theorem State.modHost_lastRec (s : State) (f : HostPort → HostPort) : (s.modHost f).lastRec = s.lastRec := rfl
@[simp] theorem State.modHost_storeRec (s : State) (f : HostPort → HostPort) : (s.modHost f).storeRec = s.storeRec := rfl
@[simp] theorem State.modHost_cinch (s : State) (f : HostPort → HostPort) : (s.modHost f).cinch = s.cinch := rfl
@[simp] theorem State.modHost_ckpt (s : State) (f : HostPort → HostPort) : (s.modHost f).ckpt = s.ckpt := rfl
@[simp] theorem State.modHost_links (s : State) (f : HostPort → HostPort) : (s.modHost f).links = s.links := rfl
@[simp] theorem State.modHost_sched (s : State) (f : HostPort → HostPort) : (s.modHost f).sched = s.sched := rfl
@[simp] theorem State.modHost_saved (s : State) (f : HostPort → HostPort) : (s.modHost f).saved = s.saved := rfl
@[simp] theorem State.modHost_serve (s : State) (f : HostPort → HostPort) : (s.modHost f).serve = s.serve := rfl
@[simp] theorem State.modHost_safety (s : State) (f : HostPort → HostPort) : (s.modHost f).safety = s.safety := rfl
@[simp] theorem State.modHost_sec (s : State) (f : HostPort → HostPort) : (s.modHost f).sec = s.sec := rfl
@[simp] theorem State.modHost_rst (s : State) (f : HostPort → HostPort) : (s.modHost f).rst = s.rst := rfl
@[simp] theorem State.modHost_glob (s : State) (f : HostPort → HostPort) : (s.modHost f).glob = s.glob := rfl
@[simp] theorem State.modHost_now (s : State) (f : HostPort → HostPort) : (s.modHost f).now = s.now := rfl
@[simp] theorem State.modHost_free (s : State) (f : HostPort → HostPort) : (s.modHost f).free = s.free := rfl
@[simp] theorem State.modHost_out (s : State) (f : HostPort → HostPort) : (s.modHost f).out = s.out := rfl
@[simp] theorem State.modHost_pending (s : State) (f : HostPort → HostPort) : (s.modHost f).pending = s.pending := rfl
@[simp] theorem State.modHbm_cores (s : State) (f : Hbm → Hbm) : (s.modHbm f).cores = s.cores := rfl
@[simp] theorem State.modHbm_bays (s : State) (f : Hbm → Hbm) : (s.modHbm f).bays = s.bays := rfl
@[simp] theorem State.modHbm_dies (s : State) (f : Hbm → Hbm) : (s.modHbm f).dies = s.dies := rfl
@[simp] theorem State.modHbm_flits (s : State) (f : Hbm → Hbm) : (s.modHbm f).flits = s.flits := rfl
@[simp] theorem State.modHbm_fab (s : State) (f : Hbm → Hbm) : (s.modHbm f).fab = s.fab := rfl
@[simp] theorem State.modHbm_tapLines (s : State) (f : Hbm → Hbm) : (s.modHbm f).tapLines = s.tapLines := rfl
@[simp] theorem State.modHbm_mboxes (s : State) (f : Hbm → Hbm) : (s.modHbm f).mboxes = s.mboxes := rfl
@[simp] theorem State.modHbm_launches (s : State) (f : Hbm → Hbm) : (s.modHbm f).launches = s.launches := rfl
@[simp] theorem State.modHbm_ends (s : State) (f : Hbm → Hbm) : (s.modHbm f).ends = s.ends := rfl
@[simp] theorem State.modHbm_parkedMsgs (s : State) (f : Hbm → Hbm) : (s.modHbm f).parkedMsgs = s.parkedMsgs := rfl
@[simp] theorem State.modHbm_reports (s : State) (f : Hbm → Hbm) : (s.modHbm f).reports = s.reports := rfl
@[simp] theorem State.modHbm_saddleReports (s : State) (f : Hbm → Hbm) : (s.modHbm f).saddleReports = s.saddleReports := rfl
@[simp] theorem State.modHbm_flash (s : State) (f : Hbm → Hbm) : (s.modHbm f).flash = s.flash := rfl
@[simp] theorem State.modHbm_gens (s : State) (f : Hbm → Hbm) : (s.modHbm f).gens = s.gens := rfl
@[simp] theorem State.modHbm_lastRec (s : State) (f : Hbm → Hbm) : (s.modHbm f).lastRec = s.lastRec := rfl
@[simp] theorem State.modHbm_storeRec (s : State) (f : Hbm → Hbm) : (s.modHbm f).storeRec = s.storeRec := rfl
@[simp] theorem State.modHbm_cinch (s : State) (f : Hbm → Hbm) : (s.modHbm f).cinch = s.cinch := rfl
@[simp] theorem State.modHbm_ckpt (s : State) (f : Hbm → Hbm) : (s.modHbm f).ckpt = s.ckpt := rfl
@[simp] theorem State.modHbm_links (s : State) (f : Hbm → Hbm) : (s.modHbm f).links = s.links := rfl
@[simp] theorem State.modHbm_sched (s : State) (f : Hbm → Hbm) : (s.modHbm f).sched = s.sched := rfl
@[simp] theorem State.modHbm_saved (s : State) (f : Hbm → Hbm) : (s.modHbm f).saved = s.saved := rfl
@[simp] theorem State.modHbm_serve (s : State) (f : Hbm → Hbm) : (s.modHbm f).serve = s.serve := rfl
@[simp] theorem State.modHbm_host (s : State) (f : Hbm → Hbm) : (s.modHbm f).host = s.host := rfl
@[simp] theorem State.modHbm_safety (s : State) (f : Hbm → Hbm) : (s.modHbm f).safety = s.safety := rfl
@[simp] theorem State.modHbm_sec (s : State) (f : Hbm → Hbm) : (s.modHbm f).sec = s.sec := rfl
@[simp] theorem State.modHbm_rst (s : State) (f : Hbm → Hbm) : (s.modHbm f).rst = s.rst := rfl
@[simp] theorem State.modHbm_glob (s : State) (f : Hbm → Hbm) : (s.modHbm f).glob = s.glob := rfl
@[simp] theorem State.modHbm_now (s : State) (f : Hbm → Hbm) : (s.modHbm f).now = s.now := rfl
@[simp] theorem State.modHbm_free (s : State) (f : Hbm → Hbm) : (s.modHbm f).free = s.free := rfl
@[simp] theorem State.modHbm_out (s : State) (f : Hbm → Hbm) : (s.modHbm f).out = s.out := rfl
@[simp] theorem State.modHbm_pending (s : State) (f : Hbm → Hbm) : (s.modHbm f).pending = s.pending := rfl
@[simp] theorem State.modGlob_cores (s : State) (f : Global → Global) : (s.modGlob f).cores = s.cores := rfl
@[simp] theorem State.modGlob_bays (s : State) (f : Global → Global) : (s.modGlob f).bays = s.bays := rfl
@[simp] theorem State.modGlob_dies (s : State) (f : Global → Global) : (s.modGlob f).dies = s.dies := rfl
@[simp] theorem State.modGlob_flits (s : State) (f : Global → Global) : (s.modGlob f).flits = s.flits := rfl
@[simp] theorem State.modGlob_fab (s : State) (f : Global → Global) : (s.modGlob f).fab = s.fab := rfl
@[simp] theorem State.modGlob_tapLines (s : State) (f : Global → Global) : (s.modGlob f).tapLines = s.tapLines := rfl
@[simp] theorem State.modGlob_mboxes (s : State) (f : Global → Global) : (s.modGlob f).mboxes = s.mboxes := rfl
@[simp] theorem State.modGlob_launches (s : State) (f : Global → Global) : (s.modGlob f).launches = s.launches := rfl
@[simp] theorem State.modGlob_ends (s : State) (f : Global → Global) : (s.modGlob f).ends = s.ends := rfl
@[simp] theorem State.modGlob_parkedMsgs (s : State) (f : Global → Global) : (s.modGlob f).parkedMsgs = s.parkedMsgs := rfl
@[simp] theorem State.modGlob_reports (s : State) (f : Global → Global) : (s.modGlob f).reports = s.reports := rfl
@[simp] theorem State.modGlob_saddleReports (s : State) (f : Global → Global) : (s.modGlob f).saddleReports = s.saddleReports := rfl
@[simp] theorem State.modGlob_hbm (s : State) (f : Global → Global) : (s.modGlob f).hbm = s.hbm := rfl
@[simp] theorem State.modGlob_flash (s : State) (f : Global → Global) : (s.modGlob f).flash = s.flash := rfl
@[simp] theorem State.modGlob_gens (s : State) (f : Global → Global) : (s.modGlob f).gens = s.gens := rfl
@[simp] theorem State.modGlob_lastRec (s : State) (f : Global → Global) : (s.modGlob f).lastRec = s.lastRec := rfl
@[simp] theorem State.modGlob_storeRec (s : State) (f : Global → Global) : (s.modGlob f).storeRec = s.storeRec := rfl
@[simp] theorem State.modGlob_cinch (s : State) (f : Global → Global) : (s.modGlob f).cinch = s.cinch := rfl
@[simp] theorem State.modGlob_ckpt (s : State) (f : Global → Global) : (s.modGlob f).ckpt = s.ckpt := rfl
@[simp] theorem State.modGlob_links (s : State) (f : Global → Global) : (s.modGlob f).links = s.links := rfl
@[simp] theorem State.modGlob_sched (s : State) (f : Global → Global) : (s.modGlob f).sched = s.sched := rfl
@[simp] theorem State.modGlob_saved (s : State) (f : Global → Global) : (s.modGlob f).saved = s.saved := rfl
@[simp] theorem State.modGlob_serve (s : State) (f : Global → Global) : (s.modGlob f).serve = s.serve := rfl
@[simp] theorem State.modGlob_host (s : State) (f : Global → Global) : (s.modGlob f).host = s.host := rfl
@[simp] theorem State.modGlob_safety (s : State) (f : Global → Global) : (s.modGlob f).safety = s.safety := rfl
@[simp] theorem State.modGlob_sec (s : State) (f : Global → Global) : (s.modGlob f).sec = s.sec := rfl
@[simp] theorem State.modGlob_rst (s : State) (f : Global → Global) : (s.modGlob f).rst = s.rst := rfl
@[simp] theorem State.modGlob_now (s : State) (f : Global → Global) : (s.modGlob f).now = s.now := rfl
@[simp] theorem State.modGlob_free (s : State) (f : Global → Global) : (s.modGlob f).free = s.free := rfl
@[simp] theorem State.modGlob_out (s : State) (f : Global → Global) : (s.modGlob f).out = s.out := rfl
@[simp] theorem State.modGlob_pending (s : State) (f : Global → Global) : (s.modGlob f).pending = s.pending := rfl
@[simp] theorem State.modCinch_cores (s : State) (f : Cinch → Cinch) : (s.modCinch f).cores = s.cores := rfl
@[simp] theorem State.modCinch_bays (s : State) (f : Cinch → Cinch) : (s.modCinch f).bays = s.bays := rfl
@[simp] theorem State.modCinch_dies (s : State) (f : Cinch → Cinch) : (s.modCinch f).dies = s.dies := rfl
@[simp] theorem State.modCinch_flits (s : State) (f : Cinch → Cinch) : (s.modCinch f).flits = s.flits := rfl
@[simp] theorem State.modCinch_fab (s : State) (f : Cinch → Cinch) : (s.modCinch f).fab = s.fab := rfl
@[simp] theorem State.modCinch_tapLines (s : State) (f : Cinch → Cinch) : (s.modCinch f).tapLines = s.tapLines := rfl
@[simp] theorem State.modCinch_mboxes (s : State) (f : Cinch → Cinch) : (s.modCinch f).mboxes = s.mboxes := rfl
@[simp] theorem State.modCinch_launches (s : State) (f : Cinch → Cinch) : (s.modCinch f).launches = s.launches := rfl
@[simp] theorem State.modCinch_ends (s : State) (f : Cinch → Cinch) : (s.modCinch f).ends = s.ends := rfl
@[simp] theorem State.modCinch_parkedMsgs (s : State) (f : Cinch → Cinch) : (s.modCinch f).parkedMsgs = s.parkedMsgs := rfl
@[simp] theorem State.modCinch_reports (s : State) (f : Cinch → Cinch) : (s.modCinch f).reports = s.reports := rfl
@[simp] theorem State.modCinch_saddleReports (s : State) (f : Cinch → Cinch) : (s.modCinch f).saddleReports = s.saddleReports := rfl
@[simp] theorem State.modCinch_hbm (s : State) (f : Cinch → Cinch) : (s.modCinch f).hbm = s.hbm := rfl
@[simp] theorem State.modCinch_flash (s : State) (f : Cinch → Cinch) : (s.modCinch f).flash = s.flash := rfl
@[simp] theorem State.modCinch_gens (s : State) (f : Cinch → Cinch) : (s.modCinch f).gens = s.gens := rfl
@[simp] theorem State.modCinch_lastRec (s : State) (f : Cinch → Cinch) : (s.modCinch f).lastRec = s.lastRec := rfl
@[simp] theorem State.modCinch_storeRec (s : State) (f : Cinch → Cinch) : (s.modCinch f).storeRec = s.storeRec := rfl
@[simp] theorem State.modCinch_ckpt (s : State) (f : Cinch → Cinch) : (s.modCinch f).ckpt = s.ckpt := rfl
@[simp] theorem State.modCinch_links (s : State) (f : Cinch → Cinch) : (s.modCinch f).links = s.links := rfl
@[simp] theorem State.modCinch_sched (s : State) (f : Cinch → Cinch) : (s.modCinch f).sched = s.sched := rfl
@[simp] theorem State.modCinch_saved (s : State) (f : Cinch → Cinch) : (s.modCinch f).saved = s.saved := rfl
@[simp] theorem State.modCinch_serve (s : State) (f : Cinch → Cinch) : (s.modCinch f).serve = s.serve := rfl
@[simp] theorem State.modCinch_host (s : State) (f : Cinch → Cinch) : (s.modCinch f).host = s.host := rfl
@[simp] theorem State.modCinch_safety (s : State) (f : Cinch → Cinch) : (s.modCinch f).safety = s.safety := rfl
@[simp] theorem State.modCinch_sec (s : State) (f : Cinch → Cinch) : (s.modCinch f).sec = s.sec := rfl
@[simp] theorem State.modCinch_rst (s : State) (f : Cinch → Cinch) : (s.modCinch f).rst = s.rst := rfl
@[simp] theorem State.modCinch_glob (s : State) (f : Cinch → Cinch) : (s.modCinch f).glob = s.glob := rfl
@[simp] theorem State.modCinch_now (s : State) (f : Cinch → Cinch) : (s.modCinch f).now = s.now := rfl
@[simp] theorem State.modCinch_free (s : State) (f : Cinch → Cinch) : (s.modCinch f).free = s.free := rfl
@[simp] theorem State.modCinch_out (s : State) (f : Cinch → Cinch) : (s.modCinch f).out = s.out := rfl
@[simp] theorem State.modCinch_pending (s : State) (f : Cinch → Cinch) : (s.modCinch f).pending = s.pending := rfl
@[simp] theorem State.modCkpt_cores (s : State) (f : Ckpt → Ckpt) : (s.modCkpt f).cores = s.cores := rfl
@[simp] theorem State.modCkpt_bays (s : State) (f : Ckpt → Ckpt) : (s.modCkpt f).bays = s.bays := rfl
@[simp] theorem State.modCkpt_dies (s : State) (f : Ckpt → Ckpt) : (s.modCkpt f).dies = s.dies := rfl
@[simp] theorem State.modCkpt_flits (s : State) (f : Ckpt → Ckpt) : (s.modCkpt f).flits = s.flits := rfl
@[simp] theorem State.modCkpt_fab (s : State) (f : Ckpt → Ckpt) : (s.modCkpt f).fab = s.fab := rfl
@[simp] theorem State.modCkpt_tapLines (s : State) (f : Ckpt → Ckpt) : (s.modCkpt f).tapLines = s.tapLines := rfl
@[simp] theorem State.modCkpt_mboxes (s : State) (f : Ckpt → Ckpt) : (s.modCkpt f).mboxes = s.mboxes := rfl
@[simp] theorem State.modCkpt_launches (s : State) (f : Ckpt → Ckpt) : (s.modCkpt f).launches = s.launches := rfl
@[simp] theorem State.modCkpt_ends (s : State) (f : Ckpt → Ckpt) : (s.modCkpt f).ends = s.ends := rfl
@[simp] theorem State.modCkpt_parkedMsgs (s : State) (f : Ckpt → Ckpt) : (s.modCkpt f).parkedMsgs = s.parkedMsgs := rfl
@[simp] theorem State.modCkpt_reports (s : State) (f : Ckpt → Ckpt) : (s.modCkpt f).reports = s.reports := rfl
@[simp] theorem State.modCkpt_saddleReports (s : State) (f : Ckpt → Ckpt) : (s.modCkpt f).saddleReports = s.saddleReports := rfl
@[simp] theorem State.modCkpt_hbm (s : State) (f : Ckpt → Ckpt) : (s.modCkpt f).hbm = s.hbm := rfl
@[simp] theorem State.modCkpt_flash (s : State) (f : Ckpt → Ckpt) : (s.modCkpt f).flash = s.flash := rfl
@[simp] theorem State.modCkpt_gens (s : State) (f : Ckpt → Ckpt) : (s.modCkpt f).gens = s.gens := rfl
@[simp] theorem State.modCkpt_lastRec (s : State) (f : Ckpt → Ckpt) : (s.modCkpt f).lastRec = s.lastRec := rfl
@[simp] theorem State.modCkpt_storeRec (s : State) (f : Ckpt → Ckpt) : (s.modCkpt f).storeRec = s.storeRec := rfl
@[simp] theorem State.modCkpt_cinch (s : State) (f : Ckpt → Ckpt) : (s.modCkpt f).cinch = s.cinch := rfl
@[simp] theorem State.modCkpt_links (s : State) (f : Ckpt → Ckpt) : (s.modCkpt f).links = s.links := rfl
@[simp] theorem State.modCkpt_sched (s : State) (f : Ckpt → Ckpt) : (s.modCkpt f).sched = s.sched := rfl
@[simp] theorem State.modCkpt_saved (s : State) (f : Ckpt → Ckpt) : (s.modCkpt f).saved = s.saved := rfl
@[simp] theorem State.modCkpt_serve (s : State) (f : Ckpt → Ckpt) : (s.modCkpt f).serve = s.serve := rfl
@[simp] theorem State.modCkpt_host (s : State) (f : Ckpt → Ckpt) : (s.modCkpt f).host = s.host := rfl
@[simp] theorem State.modCkpt_safety (s : State) (f : Ckpt → Ckpt) : (s.modCkpt f).safety = s.safety := rfl
@[simp] theorem State.modCkpt_sec (s : State) (f : Ckpt → Ckpt) : (s.modCkpt f).sec = s.sec := rfl
@[simp] theorem State.modCkpt_rst (s : State) (f : Ckpt → Ckpt) : (s.modCkpt f).rst = s.rst := rfl
@[simp] theorem State.modCkpt_glob (s : State) (f : Ckpt → Ckpt) : (s.modCkpt f).glob = s.glob := rfl
@[simp] theorem State.modCkpt_now (s : State) (f : Ckpt → Ckpt) : (s.modCkpt f).now = s.now := rfl
@[simp] theorem State.modCkpt_free (s : State) (f : Ckpt → Ckpt) : (s.modCkpt f).free = s.free := rfl
@[simp] theorem State.modCkpt_out (s : State) (f : Ckpt → Ckpt) : (s.modCkpt f).out = s.out := rfl
@[simp] theorem State.modCkpt_pending (s : State) (f : Ckpt → Ckpt) : (s.modCkpt f).pending = s.pending := rfl
@[simp] theorem State.modSafety_cores (s : State) (f : SafetyRegs → SafetyRegs) : (s.modSafety f).cores = s.cores := rfl
@[simp] theorem State.modSafety_bays (s : State) (f : SafetyRegs → SafetyRegs) : (s.modSafety f).bays = s.bays := rfl
@[simp] theorem State.modSafety_dies (s : State) (f : SafetyRegs → SafetyRegs) : (s.modSafety f).dies = s.dies := rfl
@[simp] theorem State.modSafety_flits (s : State) (f : SafetyRegs → SafetyRegs) : (s.modSafety f).flits = s.flits := rfl
@[simp] theorem State.modSafety_fab (s : State) (f : SafetyRegs → SafetyRegs) : (s.modSafety f).fab = s.fab := rfl
@[simp] theorem State.modSafety_tapLines (s : State) (f : SafetyRegs → SafetyRegs) : (s.modSafety f).tapLines = s.tapLines := rfl
@[simp] theorem State.modSafety_mboxes (s : State) (f : SafetyRegs → SafetyRegs) : (s.modSafety f).mboxes = s.mboxes := rfl
@[simp] theorem State.modSafety_launches (s : State) (f : SafetyRegs → SafetyRegs) : (s.modSafety f).launches = s.launches := rfl
@[simp] theorem State.modSafety_ends (s : State) (f : SafetyRegs → SafetyRegs) : (s.modSafety f).ends = s.ends := rfl
@[simp] theorem State.modSafety_parkedMsgs (s : State) (f : SafetyRegs → SafetyRegs) : (s.modSafety f).parkedMsgs = s.parkedMsgs := rfl
@[simp] theorem State.modSafety_reports (s : State) (f : SafetyRegs → SafetyRegs) : (s.modSafety f).reports = s.reports := rfl
@[simp] theorem State.modSafety_saddleReports (s : State) (f : SafetyRegs → SafetyRegs) : (s.modSafety f).saddleReports = s.saddleReports := rfl
@[simp] theorem State.modSafety_hbm (s : State) (f : SafetyRegs → SafetyRegs) : (s.modSafety f).hbm = s.hbm := rfl
@[simp] theorem State.modSafety_flash (s : State) (f : SafetyRegs → SafetyRegs) : (s.modSafety f).flash = s.flash := rfl
@[simp] theorem State.modSafety_gens (s : State) (f : SafetyRegs → SafetyRegs) : (s.modSafety f).gens = s.gens := rfl
@[simp] theorem State.modSafety_lastRec (s : State) (f : SafetyRegs → SafetyRegs) : (s.modSafety f).lastRec = s.lastRec := rfl
@[simp] theorem State.modSafety_storeRec (s : State) (f : SafetyRegs → SafetyRegs) : (s.modSafety f).storeRec = s.storeRec := rfl
@[simp] theorem State.modSafety_cinch (s : State) (f : SafetyRegs → SafetyRegs) : (s.modSafety f).cinch = s.cinch := rfl
@[simp] theorem State.modSafety_ckpt (s : State) (f : SafetyRegs → SafetyRegs) : (s.modSafety f).ckpt = s.ckpt := rfl
@[simp] theorem State.modSafety_links (s : State) (f : SafetyRegs → SafetyRegs) : (s.modSafety f).links = s.links := rfl
@[simp] theorem State.modSafety_sched (s : State) (f : SafetyRegs → SafetyRegs) : (s.modSafety f).sched = s.sched := rfl
@[simp] theorem State.modSafety_saved (s : State) (f : SafetyRegs → SafetyRegs) : (s.modSafety f).saved = s.saved := rfl
@[simp] theorem State.modSafety_serve (s : State) (f : SafetyRegs → SafetyRegs) : (s.modSafety f).serve = s.serve := rfl
@[simp] theorem State.modSafety_host (s : State) (f : SafetyRegs → SafetyRegs) : (s.modSafety f).host = s.host := rfl
@[simp] theorem State.modSafety_sec (s : State) (f : SafetyRegs → SafetyRegs) : (s.modSafety f).sec = s.sec := rfl
@[simp] theorem State.modSafety_rst (s : State) (f : SafetyRegs → SafetyRegs) : (s.modSafety f).rst = s.rst := rfl
@[simp] theorem State.modSafety_glob (s : State) (f : SafetyRegs → SafetyRegs) : (s.modSafety f).glob = s.glob := rfl
@[simp] theorem State.modSafety_now (s : State) (f : SafetyRegs → SafetyRegs) : (s.modSafety f).now = s.now := rfl
@[simp] theorem State.modSafety_free (s : State) (f : SafetyRegs → SafetyRegs) : (s.modSafety f).free = s.free := rfl
@[simp] theorem State.modSafety_out (s : State) (f : SafetyRegs → SafetyRegs) : (s.modSafety f).out = s.out := rfl
@[simp] theorem State.modSafety_pending (s : State) (f : SafetyRegs → SafetyRegs) : (s.modSafety f).pending = s.pending := rfl
@[simp] theorem State.modRst_cores (s : State) (f : Reset → Reset) : (s.modRst f).cores = s.cores := rfl
@[simp] theorem State.modRst_bays (s : State) (f : Reset → Reset) : (s.modRst f).bays = s.bays := rfl
@[simp] theorem State.modRst_dies (s : State) (f : Reset → Reset) : (s.modRst f).dies = s.dies := rfl
@[simp] theorem State.modRst_flits (s : State) (f : Reset → Reset) : (s.modRst f).flits = s.flits := rfl
@[simp] theorem State.modRst_fab (s : State) (f : Reset → Reset) : (s.modRst f).fab = s.fab := rfl
@[simp] theorem State.modRst_tapLines (s : State) (f : Reset → Reset) : (s.modRst f).tapLines = s.tapLines := rfl
@[simp] theorem State.modRst_mboxes (s : State) (f : Reset → Reset) : (s.modRst f).mboxes = s.mboxes := rfl
@[simp] theorem State.modRst_launches (s : State) (f : Reset → Reset) : (s.modRst f).launches = s.launches := rfl
@[simp] theorem State.modRst_ends (s : State) (f : Reset → Reset) : (s.modRst f).ends = s.ends := rfl
@[simp] theorem State.modRst_parkedMsgs (s : State) (f : Reset → Reset) : (s.modRst f).parkedMsgs = s.parkedMsgs := rfl
@[simp] theorem State.modRst_reports (s : State) (f : Reset → Reset) : (s.modRst f).reports = s.reports := rfl
@[simp] theorem State.modRst_saddleReports (s : State) (f : Reset → Reset) : (s.modRst f).saddleReports = s.saddleReports := rfl
@[simp] theorem State.modRst_hbm (s : State) (f : Reset → Reset) : (s.modRst f).hbm = s.hbm := rfl
@[simp] theorem State.modRst_flash (s : State) (f : Reset → Reset) : (s.modRst f).flash = s.flash := rfl
@[simp] theorem State.modRst_gens (s : State) (f : Reset → Reset) : (s.modRst f).gens = s.gens := rfl
@[simp] theorem State.modRst_lastRec (s : State) (f : Reset → Reset) : (s.modRst f).lastRec = s.lastRec := rfl
@[simp] theorem State.modRst_storeRec (s : State) (f : Reset → Reset) : (s.modRst f).storeRec = s.storeRec := rfl
@[simp] theorem State.modRst_cinch (s : State) (f : Reset → Reset) : (s.modRst f).cinch = s.cinch := rfl
@[simp] theorem State.modRst_ckpt (s : State) (f : Reset → Reset) : (s.modRst f).ckpt = s.ckpt := rfl
@[simp] theorem State.modRst_links (s : State) (f : Reset → Reset) : (s.modRst f).links = s.links := rfl
@[simp] theorem State.modRst_sched (s : State) (f : Reset → Reset) : (s.modRst f).sched = s.sched := rfl
@[simp] theorem State.modRst_saved (s : State) (f : Reset → Reset) : (s.modRst f).saved = s.saved := rfl
@[simp] theorem State.modRst_serve (s : State) (f : Reset → Reset) : (s.modRst f).serve = s.serve := rfl
@[simp] theorem State.modRst_host (s : State) (f : Reset → Reset) : (s.modRst f).host = s.host := rfl
@[simp] theorem State.modRst_safety (s : State) (f : Reset → Reset) : (s.modRst f).safety = s.safety := rfl
@[simp] theorem State.modRst_sec (s : State) (f : Reset → Reset) : (s.modRst f).sec = s.sec := rfl
@[simp] theorem State.modRst_glob (s : State) (f : Reset → Reset) : (s.modRst f).glob = s.glob := rfl
@[simp] theorem State.modRst_now (s : State) (f : Reset → Reset) : (s.modRst f).now = s.now := rfl
@[simp] theorem State.modRst_free (s : State) (f : Reset → Reset) : (s.modRst f).free = s.free := rfl
@[simp] theorem State.modRst_out (s : State) (f : Reset → Reset) : (s.modRst f).out = s.out := rfl
@[simp] theorem State.modRst_pending (s : State) (f : Reset → Reset) : (s.modRst f).pending = s.pending := rfl
@[simp] theorem State.modSec_cores (s : State) (f : Security → Security) : (s.modSec f).cores = s.cores := rfl
@[simp] theorem State.modSec_bays (s : State) (f : Security → Security) : (s.modSec f).bays = s.bays := rfl
@[simp] theorem State.modSec_dies (s : State) (f : Security → Security) : (s.modSec f).dies = s.dies := rfl
@[simp] theorem State.modSec_flits (s : State) (f : Security → Security) : (s.modSec f).flits = s.flits := rfl
@[simp] theorem State.modSec_fab (s : State) (f : Security → Security) : (s.modSec f).fab = s.fab := rfl
@[simp] theorem State.modSec_tapLines (s : State) (f : Security → Security) : (s.modSec f).tapLines = s.tapLines := rfl
@[simp] theorem State.modSec_mboxes (s : State) (f : Security → Security) : (s.modSec f).mboxes = s.mboxes := rfl
@[simp] theorem State.modSec_launches (s : State) (f : Security → Security) : (s.modSec f).launches = s.launches := rfl
@[simp] theorem State.modSec_ends (s : State) (f : Security → Security) : (s.modSec f).ends = s.ends := rfl
@[simp] theorem State.modSec_parkedMsgs (s : State) (f : Security → Security) : (s.modSec f).parkedMsgs = s.parkedMsgs := rfl
@[simp] theorem State.modSec_reports (s : State) (f : Security → Security) : (s.modSec f).reports = s.reports := rfl
@[simp] theorem State.modSec_saddleReports (s : State) (f : Security → Security) : (s.modSec f).saddleReports = s.saddleReports := rfl
@[simp] theorem State.modSec_hbm (s : State) (f : Security → Security) : (s.modSec f).hbm = s.hbm := rfl
@[simp] theorem State.modSec_flash (s : State) (f : Security → Security) : (s.modSec f).flash = s.flash := rfl
@[simp] theorem State.modSec_gens (s : State) (f : Security → Security) : (s.modSec f).gens = s.gens := rfl
@[simp] theorem State.modSec_lastRec (s : State) (f : Security → Security) : (s.modSec f).lastRec = s.lastRec := rfl
@[simp] theorem State.modSec_storeRec (s : State) (f : Security → Security) : (s.modSec f).storeRec = s.storeRec := rfl
@[simp] theorem State.modSec_cinch (s : State) (f : Security → Security) : (s.modSec f).cinch = s.cinch := rfl
@[simp] theorem State.modSec_ckpt (s : State) (f : Security → Security) : (s.modSec f).ckpt = s.ckpt := rfl
@[simp] theorem State.modSec_links (s : State) (f : Security → Security) : (s.modSec f).links = s.links := rfl
@[simp] theorem State.modSec_sched (s : State) (f : Security → Security) : (s.modSec f).sched = s.sched := rfl
@[simp] theorem State.modSec_saved (s : State) (f : Security → Security) : (s.modSec f).saved = s.saved := rfl
@[simp] theorem State.modSec_serve (s : State) (f : Security → Security) : (s.modSec f).serve = s.serve := rfl
@[simp] theorem State.modSec_host (s : State) (f : Security → Security) : (s.modSec f).host = s.host := rfl
@[simp] theorem State.modSec_safety (s : State) (f : Security → Security) : (s.modSec f).safety = s.safety := rfl
@[simp] theorem State.modSec_rst (s : State) (f : Security → Security) : (s.modSec f).rst = s.rst := rfl
@[simp] theorem State.modSec_glob (s : State) (f : Security → Security) : (s.modSec f).glob = s.glob := rfl
@[simp] theorem State.modSec_now (s : State) (f : Security → Security) : (s.modSec f).now = s.now := rfl
@[simp] theorem State.modSec_free (s : State) (f : Security → Security) : (s.modSec f).free = s.free := rfl
@[simp] theorem State.modSec_out (s : State) (f : Security → Security) : (s.modSec f).out = s.out := rfl
@[simp] theorem State.modSec_pending (s : State) (f : Security → Security) : (s.modSec f).pending = s.pending := rfl
@[simp] theorem State.emit_cores (s : State) (o : Out) : (s.emit o).cores = s.cores := rfl
@[simp] theorem State.emit_bays (s : State) (o : Out) : (s.emit o).bays = s.bays := rfl
@[simp] theorem State.emit_dies (s : State) (o : Out) : (s.emit o).dies = s.dies := rfl
@[simp] theorem State.emit_flits (s : State) (o : Out) : (s.emit o).flits = s.flits := rfl
@[simp] theorem State.emit_fab (s : State) (o : Out) : (s.emit o).fab = s.fab := rfl
@[simp] theorem State.emit_tapLines (s : State) (o : Out) : (s.emit o).tapLines = s.tapLines := rfl
@[simp] theorem State.emit_mboxes (s : State) (o : Out) : (s.emit o).mboxes = s.mboxes := rfl
@[simp] theorem State.emit_launches (s : State) (o : Out) : (s.emit o).launches = s.launches := rfl
@[simp] theorem State.emit_ends (s : State) (o : Out) : (s.emit o).ends = s.ends := rfl
@[simp] theorem State.emit_parkedMsgs (s : State) (o : Out) : (s.emit o).parkedMsgs = s.parkedMsgs := rfl
@[simp] theorem State.emit_reports (s : State) (o : Out) : (s.emit o).reports = s.reports := rfl
@[simp] theorem State.emit_saddleReports (s : State) (o : Out) : (s.emit o).saddleReports = s.saddleReports := rfl
@[simp] theorem State.emit_hbm (s : State) (o : Out) : (s.emit o).hbm = s.hbm := rfl
@[simp] theorem State.emit_flash (s : State) (o : Out) : (s.emit o).flash = s.flash := rfl
@[simp] theorem State.emit_gens (s : State) (o : Out) : (s.emit o).gens = s.gens := rfl
@[simp] theorem State.emit_lastRec (s : State) (o : Out) : (s.emit o).lastRec = s.lastRec := rfl
@[simp] theorem State.emit_storeRec (s : State) (o : Out) : (s.emit o).storeRec = s.storeRec := rfl
@[simp] theorem State.emit_cinch (s : State) (o : Out) : (s.emit o).cinch = s.cinch := rfl
@[simp] theorem State.emit_ckpt (s : State) (o : Out) : (s.emit o).ckpt = s.ckpt := rfl
@[simp] theorem State.emit_links (s : State) (o : Out) : (s.emit o).links = s.links := rfl
@[simp] theorem State.emit_sched (s : State) (o : Out) : (s.emit o).sched = s.sched := rfl
@[simp] theorem State.emit_saved (s : State) (o : Out) : (s.emit o).saved = s.saved := rfl
@[simp] theorem State.emit_serve (s : State) (o : Out) : (s.emit o).serve = s.serve := rfl
@[simp] theorem State.emit_host (s : State) (o : Out) : (s.emit o).host = s.host := rfl
@[simp] theorem State.emit_safety (s : State) (o : Out) : (s.emit o).safety = s.safety := rfl
@[simp] theorem State.emit_sec (s : State) (o : Out) : (s.emit o).sec = s.sec := rfl
@[simp] theorem State.emit_rst (s : State) (o : Out) : (s.emit o).rst = s.rst := rfl
@[simp] theorem State.emit_glob (s : State) (o : Out) : (s.emit o).glob = s.glob := rfl
@[simp] theorem State.emit_now (s : State) (o : Out) : (s.emit o).now = s.now := rfl
@[simp] theorem State.emit_free (s : State) (o : Out) : (s.emit o).free = s.free := rfl
@[simp] theorem State.emit_pending (s : State) (o : Out) : (s.emit o).pending = s.pending := rfl

@[simp] theorem State.modLinks_links (s : State) (f : Links → Links) : (s.modLinks f).links = f s.links := rfl
@[simp] theorem State.modHost_host (s : State) (f : HostPort → HostPort) : (s.modHost f).host = f s.host := rfl
@[simp] theorem State.modHbm_hbm (s : State) (f : Hbm → Hbm) : (s.modHbm f).hbm = f s.hbm := rfl
@[simp] theorem State.modGlob_glob (s : State) (f : Global → Global) : (s.modGlob f).glob = f s.glob := rfl
@[simp] theorem State.modCinch_cinch (s : State) (f : Cinch → Cinch) : (s.modCinch f).cinch = f s.cinch := rfl
@[simp] theorem State.modCkpt_ckpt (s : State) (f : Ckpt → Ckpt) : (s.modCkpt f).ckpt = f s.ckpt := rfl
@[simp] theorem State.modSafety_safety (s : State) (f : SafetyRegs → SafetyRegs) : (s.modSafety f).safety = f s.safety := rfl
@[simp] theorem State.modRst_rst (s : State) (f : Reset → Reset) : (s.modRst f).rst = f s.rst := rfl
@[simp] theorem State.modSec_sec (s : State) (f : Security → Security) : (s.modSec f).sec = f s.sec := rfl
@[simp] theorem State.emit_out (s : State) (o : Out) : (s.emit o).out = s.out ++ [o] := rfl

/-! ## Reading a core, a bay, a die, a scheduler after an update -/

@[simp] theorem State.core_setCore_self (s : State) (c : Nat) (k : Core) : (s.setCore c k).core c = k := FMap.get_set_self _ _ _ _
theorem State.core_setCore (s : State) (c d : Nat) (k : Core) : (s.setCore c k).core d = if d = c then k else s.core d :=
  FMap.get_set _ _ _ _ _
@[simp] theorem State.core_modCore_self (s : State) (c : Nat) (f : Core → Core) : (s.modCore c f).core c = f (s.core c) :=
  FMap.get_set_self _ _ _ _
theorem State.core_modCore (s : State) (c d : Nat) (f : Core → Core) :
    (s.modCore c f).core d = if d = c then f (s.core c) else s.core d := FMap.get_set _ _ _ _ _
@[simp] theorem State.bay_setBay_self (s : State) (b : Nat) (k : Bay) : (s.setBay b k).bay b = k := FMap.get_set_self _ _ _ _
theorem State.bay_setBay (s : State) (b d : Nat) (k : Bay) : (s.setBay b k).bay d = if d = b then k else s.bay d :=
  FMap.get_set _ _ _ _ _
@[simp] theorem State.bay_modBay_self (s : State) (b : Nat) (f : Bay → Bay) : (s.modBay b f).bay b = f (s.bay b) :=
  FMap.get_set_self _ _ _ _
theorem State.bay_modBay (s : State) (b d : Nat) (f : Bay → Bay) :
    (s.modBay b f).bay d = if d = b then f (s.bay b) else s.bay d := FMap.get_set _ _ _ _ _
@[simp] theorem State.die_modDie_self (s : State) (d : Nat) (f : Die → Die) : (s.modDie d f).die d = f (s.die d) :=
  FMap.get_set_self _ _ _ _
@[simp] theorem State.schedOf_modSched_self (s : State) (p : Nat) (f : Sched → Sched) :
    (s.modSched p f).schedOf p = f (s.schedOf p) := FMap.get_set_self _ _ _ _
@[simp] theorem State.serveOf_modServe_self (s : State) (p : Nat) (f : Serve → Serve) :
    (s.modServe p f).serveOf p = f (s.serveOf p) := FMap.get_set_self _ _ _ _
@[simp] theorem State.port_modPort_self (s : State) (p : Nat) (f : Port → Port) : (s.modPort p f).port p = f (s.port p) :=
  FMap.get_set_self _ _ _ _
@[simp] theorem State.sess_modSess_self (s : State) (i : Nat) (f : Session → Session) : (s.modSess i f).sess i = f (s.sess i) :=
  FMap.get_set_self _ _ _ _
@[simp] theorem State.bay_setCore (s : State) (c b : Nat) (k : Core) : (s.setCore c k).bay b = s.bay b := rfl
@[simp] theorem State.bay_modCore (s : State) (c b : Nat) (f : Core → Core) : (s.modCore c f).bay b = s.bay b := rfl
@[simp] theorem State.partOf_modCore (s : State) (c d : Nat) (f : Core → Core) : (s.modCore c f).partOf d = s.partOf d := rfl
@[simp] theorem State.mashOf_modCore (s : State) (c d : Nat) (f : Core → Core) : (s.modCore c f).mashOf d = s.mashOf d := rfl
@[simp] theorem State.core_modBay (s : State) (c b : Nat) (f : Bay → Bay) : (s.modBay b f).core c = s.core c := rfl
@[simp] theorem State.core_modHbm (s : State) (c : Nat) (f : Hbm → Hbm) : (s.modHbm f).core c = s.core c := rfl
@[simp] theorem State.core_emit (s : State) (c : Nat) (o : Out) : (s.emit o).core c = s.core c := rfl
@[simp] theorem State.modCore_modCore (s : State) (c : Nat) (f g : Core → Core) :
    ((s.modCore c f).modCore c g).core c = g (f (s.core c)) := by simp

/-! ## Updates of one part of a core -/

@[simp] theorem Core.setPc_slots (k : Core) (v : Word) : (k.setPc v).slots = k.slots := rfl
@[simp] theorem Core.setPc_nextOrder (k : Core) (v : Word) : (k.setPc v).nextOrder = k.nextOrder := rfl
@[simp] theorem Core.setPc_sp (k : Core) (v : Word) : (k.setPc v).sp = k.sp := rfl
@[simp] theorem Core.setPc_mash (k : Core) (v : Word) : (k.setPc v).mash = k.mash := rfl
@[simp] theorem Core.setPc_vec (k : Core) (v : Word) : (k.setPc v).vec = k.vec := rfl
@[simp] theorem Core.setPc_hop (k : Core) (v : Word) : (k.setPc v).hop = k.hop := rfl
@[simp] theorem Core.setPc_welt (k : Core) (v : Word) : (k.setPc v).welt = k.welt := rfl
@[simp] theorem Core.setPc_cask (k : Core) (v : Word) : (k.setPc v).cask = k.cask := rfl
@[simp] theorem Core.setPc_dwq (k : Core) (v : Word) : (k.setPc v).dwq = k.dwq := rfl
@[simp] theorem Core.setPc_bkt (k : Core) (v : Word) : (k.setPc v).bkt = k.bkt := rfl
@[simp] theorem Core.setPc_phase (k : Core) (v : Word) : (k.setPc v).phase = k.phase := rfl
@[simp] theorem Core.setPc_safe (k : Core) (v : Word) : (k.setPc v).safe = k.safe := rfl
@[simp] theorem Core.setPc_direct (k : Core) (v : Word) : (k.setPc v).direct = k.direct := rfl
@[simp] theorem Core.setPc_fpflags (k : Core) (v : Word) : (k.setPc v).fpflags = k.fpflags := rfl
@[simp] theorem Core.setPc_cinch (k : Core) (v : Word) : (k.setPc v).cinch = k.cinch := rfl
@[simp] theorem Core.setPc_yieldOverdue (k : Core) (v : Word) : (k.setPc v).yieldOverdue = k.yieldOverdue := rfl
@[simp] theorem Core.setPc_overdueCnt (k : Core) (v : Word) : (k.setPc v).overdueCnt = k.overdueCnt := rfl
@[simp] theorem Core.setPc_slotStall (k : Core) (v : Word) : (k.setPc v).slotStall = k.slotStall := rfl
@[simp] theorem Core.setPc_gatherRange (k : Core) (v : Word) : (k.setPc v).gatherRange = k.gatherRange := rfl
@[simp] theorem Core.setPc_retired (k : Core) (v : Word) : (k.setPc v).retired = k.retired := rfl
@[simp] theorem Core.setPc_sched (k : Core) (v : Word) : (k.setPc v).sched = k.sched := rfl
@[simp] theorem Core.setPc_preemptAt (k : Core) (v : Word) : (k.setPc v).preemptAt = k.preemptAt := rfl
@[simp] theorem Core.setPc_spCe (k : Core) (v : Word) : (k.setPc v).spCe = k.spCe := rfl
@[simp] theorem Core.setPc_spUe (k : Core) (v : Word) : (k.setPc v).spUe = k.spUe := rfl
@[simp] theorem Core.setPc_passes (k : Core) (v : Word) : (k.setPc v).passes = k.passes := rfl
@[simp] theorem Core.setPc_seq_s (k : Core) (v : Word) : (k.setPc v).seq.s = k.seq.s := rfl
@[simp] theorem Core.setPc_seq_a (k : Core) (v : Word) : (k.setPc v).seq.a = k.seq.a := rfl
@[simp] theorem Core.setPc_seq_t (k : Core) (v : Word) : (k.setPc v).seq.t = k.seq.t := rfl
@[simp] theorem Core.setPc_seq_sig (k : Core) (v : Word) : (k.setPc v).seq.sig = k.seq.sig := rfl
@[simp] theorem Core.setPc_seq_regionBase (k : Core) (v : Word) : (k.setPc v).seq.regionBase = k.seq.regionBase := rfl
@[simp] theorem Core.setPc_seq_regionLen (k : Core) (v : Word) : (k.setPc v).seq.regionLen = k.seq.regionLen := rfl
@[simp] theorem Core.setPc_seq_mbox (k : Core) (v : Word) : (k.setPc v).seq.mbox = k.seq.mbox := rfl
@[simp] theorem Core.setPc_seq_outbound (k : Core) (v : Word) : (k.setPc v).seq.outbound = k.seq.outbound := rfl
@[simp] theorem Core.setPc_seq_stall (k : Core) (v : Word) : (k.setPc v).seq.stall = k.seq.stall := rfl
@[simp] theorem Core.setPc_seq_faulted (k : Core) (v : Word) : (k.setPc v).seq.faulted = k.seq.faulted := rfl
@[simp] theorem Core.setPc_seq_kernel (k : Core) (v : Word) : (k.setPc v).seq.kernel = k.seq.kernel := rfl
@[simp] theorem Core.setPc_seq_preempt (k : Core) (v : Word) : (k.setPc v).seq.preempt = k.seq.preempt := rfl
@[simp] theorem Core.setPc_seq_parking (k : Core) (v : Word) : (k.setPc v).seq.parking = k.seq.parking := rfl
@[simp] theorem Core.setPc_seq_parked (k : Core) (v : Word) : (k.setPc v).seq.parked = k.seq.parked := rfl
@[simp] theorem Core.setPc_seq_halted (k : Core) (v : Word) : (k.setPc v).seq.halted = k.seq.halted := rfl
@[simp] theorem Core.setPc_seq_stepOne (k : Core) (v : Word) : (k.setPc v).seq.stepOne = k.seq.stepOne := rfl
@[simp] theorem Core.setPc_seq_yieldMark (k : Core) (v : Word) : (k.setPc v).seq.yieldMark = k.seq.yieldMark := rfl
@[simp] theorem Core.setPc_seq_overdueSeen (k : Core) (v : Word) : (k.setPc v).seq.overdueSeen = k.seq.overdueSeen := rfl
@[simp] theorem Core.setPc_seq_sigMark (k : Core) (v : Word) : (k.setPc v).seq.sigMark = k.seq.sigMark := rfl
@[simp] theorem Core.setPc_seq_icache (k : Core) (v : Word) : (k.setPc v).seq.icache = k.seq.icache := rfl
@[simp] theorem Core.step8_slots (k : Core) : (k.step8).slots = k.slots := rfl
@[simp] theorem Core.step8_nextOrder (k : Core) : (k.step8).nextOrder = k.nextOrder := rfl
@[simp] theorem Core.step8_sp (k : Core) : (k.step8).sp = k.sp := rfl
@[simp] theorem Core.step8_mash (k : Core) : (k.step8).mash = k.mash := rfl
@[simp] theorem Core.step8_vec (k : Core) : (k.step8).vec = k.vec := rfl
@[simp] theorem Core.step8_hop (k : Core) : (k.step8).hop = k.hop := rfl
@[simp] theorem Core.step8_welt (k : Core) : (k.step8).welt = k.welt := rfl
@[simp] theorem Core.step8_cask (k : Core) : (k.step8).cask = k.cask := rfl
@[simp] theorem Core.step8_dwq (k : Core) : (k.step8).dwq = k.dwq := rfl
@[simp] theorem Core.step8_bkt (k : Core) : (k.step8).bkt = k.bkt := rfl
@[simp] theorem Core.step8_phase (k : Core) : (k.step8).phase = k.phase := rfl
@[simp] theorem Core.step8_safe (k : Core) : (k.step8).safe = k.safe := rfl
@[simp] theorem Core.step8_direct (k : Core) : (k.step8).direct = k.direct := rfl
@[simp] theorem Core.step8_fpflags (k : Core) : (k.step8).fpflags = k.fpflags := rfl
@[simp] theorem Core.step8_cinch (k : Core) : (k.step8).cinch = k.cinch := rfl
@[simp] theorem Core.step8_yieldOverdue (k : Core) : (k.step8).yieldOverdue = k.yieldOverdue := rfl
@[simp] theorem Core.step8_overdueCnt (k : Core) : (k.step8).overdueCnt = k.overdueCnt := rfl
@[simp] theorem Core.step8_slotStall (k : Core) : (k.step8).slotStall = k.slotStall := rfl
@[simp] theorem Core.step8_gatherRange (k : Core) : (k.step8).gatherRange = k.gatherRange := rfl
@[simp] theorem Core.step8_retired (k : Core) : (k.step8).retired = k.retired := rfl
@[simp] theorem Core.step8_sched (k : Core) : (k.step8).sched = k.sched := rfl
@[simp] theorem Core.step8_preemptAt (k : Core) : (k.step8).preemptAt = k.preemptAt := rfl
@[simp] theorem Core.step8_spCe (k : Core) : (k.step8).spCe = k.spCe := rfl
@[simp] theorem Core.step8_spUe (k : Core) : (k.step8).spUe = k.spUe := rfl
@[simp] theorem Core.step8_passes (k : Core) : (k.step8).passes = k.passes := rfl
@[simp] theorem Core.step8_seq_s (k : Core) : (k.step8).seq.s = k.seq.s := rfl
@[simp] theorem Core.step8_seq_a (k : Core) : (k.step8).seq.a = k.seq.a := rfl
@[simp] theorem Core.step8_seq_t (k : Core) : (k.step8).seq.t = k.seq.t := rfl
@[simp] theorem Core.step8_seq_sig (k : Core) : (k.step8).seq.sig = k.seq.sig := rfl
@[simp] theorem Core.step8_seq_regionBase (k : Core) : (k.step8).seq.regionBase = k.seq.regionBase := rfl
@[simp] theorem Core.step8_seq_regionLen (k : Core) : (k.step8).seq.regionLen = k.seq.regionLen := rfl
@[simp] theorem Core.step8_seq_mbox (k : Core) : (k.step8).seq.mbox = k.seq.mbox := rfl
@[simp] theorem Core.step8_seq_outbound (k : Core) : (k.step8).seq.outbound = k.seq.outbound := rfl
@[simp] theorem Core.step8_seq_stall (k : Core) : (k.step8).seq.stall = k.seq.stall := rfl
@[simp] theorem Core.step8_seq_faulted (k : Core) : (k.step8).seq.faulted = k.seq.faulted := rfl
@[simp] theorem Core.step8_seq_kernel (k : Core) : (k.step8).seq.kernel = k.seq.kernel := rfl
@[simp] theorem Core.step8_seq_preempt (k : Core) : (k.step8).seq.preempt = k.seq.preempt := rfl
@[simp] theorem Core.step8_seq_parking (k : Core) : (k.step8).seq.parking = k.seq.parking := rfl
@[simp] theorem Core.step8_seq_parked (k : Core) : (k.step8).seq.parked = k.seq.parked := rfl
@[simp] theorem Core.step8_seq_halted (k : Core) : (k.step8).seq.halted = k.seq.halted := rfl
@[simp] theorem Core.step8_seq_stepOne (k : Core) : (k.step8).seq.stepOne = k.seq.stepOne := rfl
@[simp] theorem Core.step8_seq_yieldMark (k : Core) : (k.step8).seq.yieldMark = k.seq.yieldMark := rfl
@[simp] theorem Core.step8_seq_overdueSeen (k : Core) : (k.step8).seq.overdueSeen = k.seq.overdueSeen := rfl
@[simp] theorem Core.step8_seq_sigMark (k : Core) : (k.step8).seq.sigMark = k.seq.sigMark := rfl
@[simp] theorem Core.step8_seq_icache (k : Core) : (k.step8).seq.icache = k.seq.icache := rfl
@[simp] theorem Core.stepUsed_slots (k : Core) : (k.stepUsed).slots = k.slots := rfl
@[simp] theorem Core.stepUsed_nextOrder (k : Core) : (k.stepUsed).nextOrder = k.nextOrder := rfl
@[simp] theorem Core.stepUsed_sp (k : Core) : (k.stepUsed).sp = k.sp := rfl
@[simp] theorem Core.stepUsed_mash (k : Core) : (k.stepUsed).mash = k.mash := rfl
@[simp] theorem Core.stepUsed_vec (k : Core) : (k.stepUsed).vec = k.vec := rfl
@[simp] theorem Core.stepUsed_hop (k : Core) : (k.stepUsed).hop = k.hop := rfl
@[simp] theorem Core.stepUsed_welt (k : Core) : (k.stepUsed).welt = k.welt := rfl
@[simp] theorem Core.stepUsed_cask (k : Core) : (k.stepUsed).cask = k.cask := rfl
@[simp] theorem Core.stepUsed_dwq (k : Core) : (k.stepUsed).dwq = k.dwq := rfl
@[simp] theorem Core.stepUsed_bkt (k : Core) : (k.stepUsed).bkt = k.bkt := rfl
@[simp] theorem Core.stepUsed_phase (k : Core) : (k.stepUsed).phase = k.phase := rfl
@[simp] theorem Core.stepUsed_safe (k : Core) : (k.stepUsed).safe = k.safe := rfl
@[simp] theorem Core.stepUsed_direct (k : Core) : (k.stepUsed).direct = k.direct := rfl
@[simp] theorem Core.stepUsed_fpflags (k : Core) : (k.stepUsed).fpflags = k.fpflags := rfl
@[simp] theorem Core.stepUsed_cinch (k : Core) : (k.stepUsed).cinch = k.cinch := rfl
@[simp] theorem Core.stepUsed_yieldOverdue (k : Core) : (k.stepUsed).yieldOverdue = k.yieldOverdue := rfl
@[simp] theorem Core.stepUsed_overdueCnt (k : Core) : (k.stepUsed).overdueCnt = k.overdueCnt := rfl
@[simp] theorem Core.stepUsed_slotStall (k : Core) : (k.stepUsed).slotStall = k.slotStall := rfl
@[simp] theorem Core.stepUsed_gatherRange (k : Core) : (k.stepUsed).gatherRange = k.gatherRange := rfl
@[simp] theorem Core.stepUsed_retired (k : Core) : (k.stepUsed).retired = k.retired := rfl
@[simp] theorem Core.stepUsed_sched (k : Core) : (k.stepUsed).sched = k.sched := rfl
@[simp] theorem Core.stepUsed_preemptAt (k : Core) : (k.stepUsed).preemptAt = k.preemptAt := rfl
@[simp] theorem Core.stepUsed_spCe (k : Core) : (k.stepUsed).spCe = k.spCe := rfl
@[simp] theorem Core.stepUsed_spUe (k : Core) : (k.stepUsed).spUe = k.spUe := rfl
@[simp] theorem Core.stepUsed_passes (k : Core) : (k.stepUsed).passes = k.passes := rfl
@[simp] theorem Core.stepUsed_seq_s (k : Core) : (k.stepUsed).seq.s = k.seq.s := rfl
@[simp] theorem Core.stepUsed_seq_a (k : Core) : (k.stepUsed).seq.a = k.seq.a := rfl
@[simp] theorem Core.stepUsed_seq_t (k : Core) : (k.stepUsed).seq.t = k.seq.t := rfl
@[simp] theorem Core.stepUsed_seq_pc (k : Core) : (k.stepUsed).seq.pc = k.seq.pc := rfl
@[simp] theorem Core.stepUsed_seq_sig (k : Core) : (k.stepUsed).seq.sig = k.seq.sig := rfl
@[simp] theorem Core.stepUsed_seq_regionBase (k : Core) : (k.stepUsed).seq.regionBase = k.seq.regionBase := rfl
@[simp] theorem Core.stepUsed_seq_regionLen (k : Core) : (k.stepUsed).seq.regionLen = k.seq.regionLen := rfl
@[simp] theorem Core.stepUsed_seq_mbox (k : Core) : (k.stepUsed).seq.mbox = k.seq.mbox := rfl
@[simp] theorem Core.stepUsed_seq_outbound (k : Core) : (k.stepUsed).seq.outbound = k.seq.outbound := rfl
@[simp] theorem Core.stepUsed_seq_stall (k : Core) : (k.stepUsed).seq.stall = k.seq.stall := rfl
@[simp] theorem Core.stepUsed_seq_faulted (k : Core) : (k.stepUsed).seq.faulted = k.seq.faulted := rfl
@[simp] theorem Core.stepUsed_seq_kernel (k : Core) : (k.stepUsed).seq.kernel = k.seq.kernel := rfl
@[simp] theorem Core.stepUsed_seq_preempt (k : Core) : (k.stepUsed).seq.preempt = k.seq.preempt := rfl
@[simp] theorem Core.stepUsed_seq_parking (k : Core) : (k.stepUsed).seq.parking = k.seq.parking := rfl
@[simp] theorem Core.stepUsed_seq_parked (k : Core) : (k.stepUsed).seq.parked = k.seq.parked := rfl
@[simp] theorem Core.stepUsed_seq_halted (k : Core) : (k.stepUsed).seq.halted = k.seq.halted := rfl
@[simp] theorem Core.stepUsed_seq_yieldMark (k : Core) : (k.stepUsed).seq.yieldMark = k.seq.yieldMark := rfl
@[simp] theorem Core.stepUsed_seq_overdueSeen (k : Core) : (k.stepUsed).seq.overdueSeen = k.seq.overdueSeen := rfl
@[simp] theorem Core.stepUsed_seq_sigMark (k : Core) : (k.stepUsed).seq.sigMark = k.seq.sigMark := rfl
@[simp] theorem Core.stepUsed_seq_icache (k : Core) : (k.stepUsed).seq.icache = k.seq.icache := rfl
@[simp] theorem Core.setPc_seq_pc (k : Core) (v : Word) : (k.setPc v).seq.pc = v := rfl
@[simp] theorem Core.step8_seq_pc (k : Core) : k.step8.seq.pc = k.seq.pc + 8 := rfl
@[simp] theorem Core.setTok_slots (k : Core) (t : Nat) (v : BitVec 32) : (k.setTok t v).slots = k.slots := rfl
@[simp] theorem Core.setTok_nextOrder (k : Core) (t : Nat) (v : BitVec 32) : (k.setTok t v).nextOrder = k.nextOrder := rfl
@[simp] theorem Core.setTok_sp (k : Core) (t : Nat) (v : BitVec 32) : (k.setTok t v).sp = k.sp := rfl
@[simp] theorem Core.setTok_mash (k : Core) (t : Nat) (v : BitVec 32) : (k.setTok t v).mash = k.mash := rfl
@[simp] theorem Core.setTok_vec (k : Core) (t : Nat) (v : BitVec 32) : (k.setTok t v).vec = k.vec := rfl
@[simp] theorem Core.setTok_hop (k : Core) (t : Nat) (v : BitVec 32) : (k.setTok t v).hop = k.hop := rfl
@[simp] theorem Core.setTok_welt (k : Core) (t : Nat) (v : BitVec 32) : (k.setTok t v).welt = k.welt := rfl
@[simp] theorem Core.setTok_cask (k : Core) (t : Nat) (v : BitVec 32) : (k.setTok t v).cask = k.cask := rfl
@[simp] theorem Core.setTok_dwq (k : Core) (t : Nat) (v : BitVec 32) : (k.setTok t v).dwq = k.dwq := rfl
@[simp] theorem Core.setTok_bkt (k : Core) (t : Nat) (v : BitVec 32) : (k.setTok t v).bkt = k.bkt := rfl
@[simp] theorem Core.setTok_phase (k : Core) (t : Nat) (v : BitVec 32) : (k.setTok t v).phase = k.phase := rfl
@[simp] theorem Core.setTok_safe (k : Core) (t : Nat) (v : BitVec 32) : (k.setTok t v).safe = k.safe := rfl
@[simp] theorem Core.setTok_direct (k : Core) (t : Nat) (v : BitVec 32) : (k.setTok t v).direct = k.direct := rfl
@[simp] theorem Core.setTok_fpflags (k : Core) (t : Nat) (v : BitVec 32) : (k.setTok t v).fpflags = k.fpflags := rfl
@[simp] theorem Core.setTok_cinch (k : Core) (t : Nat) (v : BitVec 32) : (k.setTok t v).cinch = k.cinch := rfl
@[simp] theorem Core.setTok_yieldOverdue (k : Core) (t : Nat) (v : BitVec 32) : (k.setTok t v).yieldOverdue = k.yieldOverdue := rfl
@[simp] theorem Core.setTok_overdueCnt (k : Core) (t : Nat) (v : BitVec 32) : (k.setTok t v).overdueCnt = k.overdueCnt := rfl
@[simp] theorem Core.setTok_slotStall (k : Core) (t : Nat) (v : BitVec 32) : (k.setTok t v).slotStall = k.slotStall := rfl
@[simp] theorem Core.setTok_gatherRange (k : Core) (t : Nat) (v : BitVec 32) : (k.setTok t v).gatherRange = k.gatherRange := rfl
@[simp] theorem Core.setTok_retired (k : Core) (t : Nat) (v : BitVec 32) : (k.setTok t v).retired = k.retired := rfl
@[simp] theorem Core.setTok_sched (k : Core) (t : Nat) (v : BitVec 32) : (k.setTok t v).sched = k.sched := rfl
@[simp] theorem Core.setTok_preemptAt (k : Core) (t : Nat) (v : BitVec 32) : (k.setTok t v).preemptAt = k.preemptAt := rfl
@[simp] theorem Core.setTok_spCe (k : Core) (t : Nat) (v : BitVec 32) : (k.setTok t v).spCe = k.spCe := rfl
@[simp] theorem Core.setTok_spUe (k : Core) (t : Nat) (v : BitVec 32) : (k.setTok t v).spUe = k.spUe := rfl
@[simp] theorem Core.setTok_passes (k : Core) (t : Nat) (v : BitVec 32) : (k.setTok t v).passes = k.passes := rfl
@[simp] theorem Core.setTok_seq_s (k : Core) (t : Nat) (v : BitVec 32) : (k.setTok t v).seq.s = k.seq.s := rfl
@[simp] theorem Core.setTok_seq_a (k : Core) (t : Nat) (v : BitVec 32) : (k.setTok t v).seq.a = k.seq.a := rfl
@[simp] theorem Core.setTok_seq_pc (k : Core) (t : Nat) (v : BitVec 32) : (k.setTok t v).seq.pc = k.seq.pc := rfl
@[simp] theorem Core.setTok_seq_sig (k : Core) (t : Nat) (v : BitVec 32) : (k.setTok t v).seq.sig = k.seq.sig := rfl
@[simp] theorem Core.setTok_seq_regionBase (k : Core) (t : Nat) (v : BitVec 32) : (k.setTok t v).seq.regionBase = k.seq.regionBase := rfl
@[simp] theorem Core.setTok_seq_regionLen (k : Core) (t : Nat) (v : BitVec 32) : (k.setTok t v).seq.regionLen = k.seq.regionLen := rfl
@[simp] theorem Core.setTok_seq_mbox (k : Core) (t : Nat) (v : BitVec 32) : (k.setTok t v).seq.mbox = k.seq.mbox := rfl
@[simp] theorem Core.setTok_seq_outbound (k : Core) (t : Nat) (v : BitVec 32) : (k.setTok t v).seq.outbound = k.seq.outbound := rfl
@[simp] theorem Core.setTok_seq_stall (k : Core) (t : Nat) (v : BitVec 32) : (k.setTok t v).seq.stall = k.seq.stall := rfl
@[simp] theorem Core.setTok_seq_faulted (k : Core) (t : Nat) (v : BitVec 32) : (k.setTok t v).seq.faulted = k.seq.faulted := rfl
@[simp] theorem Core.setTok_seq_kernel (k : Core) (t : Nat) (v : BitVec 32) : (k.setTok t v).seq.kernel = k.seq.kernel := rfl
@[simp] theorem Core.setTok_seq_preempt (k : Core) (t : Nat) (v : BitVec 32) : (k.setTok t v).seq.preempt = k.seq.preempt := rfl
@[simp] theorem Core.setTok_seq_parking (k : Core) (t : Nat) (v : BitVec 32) : (k.setTok t v).seq.parking = k.seq.parking := rfl
@[simp] theorem Core.setTok_seq_parked (k : Core) (t : Nat) (v : BitVec 32) : (k.setTok t v).seq.parked = k.seq.parked := rfl
@[simp] theorem Core.setTok_seq_halted (k : Core) (t : Nat) (v : BitVec 32) : (k.setTok t v).seq.halted = k.seq.halted := rfl
@[simp] theorem Core.setTok_seq_stepOne (k : Core) (t : Nat) (v : BitVec 32) : (k.setTok t v).seq.stepOne = k.seq.stepOne := rfl
@[simp] theorem Core.setTok_seq_yieldMark (k : Core) (t : Nat) (v : BitVec 32) : (k.setTok t v).seq.yieldMark = k.seq.yieldMark := rfl
@[simp] theorem Core.setTok_seq_overdueSeen (k : Core) (t : Nat) (v : BitVec 32) : (k.setTok t v).seq.overdueSeen = k.seq.overdueSeen := rfl
@[simp] theorem Core.setTok_seq_sigMark (k : Core) (t : Nat) (v : BitVec 32) : (k.setTok t v).seq.sigMark = k.seq.sigMark := rfl
@[simp] theorem Core.setTok_seq_icache (k : Core) (t : Nat) (v : BitVec 32) : (k.setTok t v).seq.icache = k.seq.icache := rfl
@[simp] theorem Core.incTok_slots (k : Core) (t : Nat) : (k.incTok t).slots = k.slots := rfl
@[simp] theorem Core.incTok_nextOrder (k : Core) (t : Nat) : (k.incTok t).nextOrder = k.nextOrder := rfl
@[simp] theorem Core.incTok_sp (k : Core) (t : Nat) : (k.incTok t).sp = k.sp := rfl
@[simp] theorem Core.incTok_mash (k : Core) (t : Nat) : (k.incTok t).mash = k.mash := rfl
@[simp] theorem Core.incTok_vec (k : Core) (t : Nat) : (k.incTok t).vec = k.vec := rfl
@[simp] theorem Core.incTok_hop (k : Core) (t : Nat) : (k.incTok t).hop = k.hop := rfl
@[simp] theorem Core.incTok_welt (k : Core) (t : Nat) : (k.incTok t).welt = k.welt := rfl
@[simp] theorem Core.incTok_cask (k : Core) (t : Nat) : (k.incTok t).cask = k.cask := rfl
@[simp] theorem Core.incTok_dwq (k : Core) (t : Nat) : (k.incTok t).dwq = k.dwq := rfl
@[simp] theorem Core.incTok_bkt (k : Core) (t : Nat) : (k.incTok t).bkt = k.bkt := rfl
@[simp] theorem Core.incTok_phase (k : Core) (t : Nat) : (k.incTok t).phase = k.phase := rfl
@[simp] theorem Core.incTok_safe (k : Core) (t : Nat) : (k.incTok t).safe = k.safe := rfl
@[simp] theorem Core.incTok_direct (k : Core) (t : Nat) : (k.incTok t).direct = k.direct := rfl
@[simp] theorem Core.incTok_fpflags (k : Core) (t : Nat) : (k.incTok t).fpflags = k.fpflags := rfl
@[simp] theorem Core.incTok_cinch (k : Core) (t : Nat) : (k.incTok t).cinch = k.cinch := rfl
@[simp] theorem Core.incTok_yieldOverdue (k : Core) (t : Nat) : (k.incTok t).yieldOverdue = k.yieldOverdue := rfl
@[simp] theorem Core.incTok_overdueCnt (k : Core) (t : Nat) : (k.incTok t).overdueCnt = k.overdueCnt := rfl
@[simp] theorem Core.incTok_slotStall (k : Core) (t : Nat) : (k.incTok t).slotStall = k.slotStall := rfl
@[simp] theorem Core.incTok_gatherRange (k : Core) (t : Nat) : (k.incTok t).gatherRange = k.gatherRange := rfl
@[simp] theorem Core.incTok_retired (k : Core) (t : Nat) : (k.incTok t).retired = k.retired := rfl
@[simp] theorem Core.incTok_sched (k : Core) (t : Nat) : (k.incTok t).sched = k.sched := rfl
@[simp] theorem Core.incTok_preemptAt (k : Core) (t : Nat) : (k.incTok t).preemptAt = k.preemptAt := rfl
@[simp] theorem Core.incTok_spCe (k : Core) (t : Nat) : (k.incTok t).spCe = k.spCe := rfl
@[simp] theorem Core.incTok_spUe (k : Core) (t : Nat) : (k.incTok t).spUe = k.spUe := rfl
@[simp] theorem Core.incTok_passes (k : Core) (t : Nat) : (k.incTok t).passes = k.passes := rfl
@[simp] theorem Core.incTok_seq_s (k : Core) (t : Nat) : (k.incTok t).seq.s = k.seq.s := rfl
@[simp] theorem Core.incTok_seq_a (k : Core) (t : Nat) : (k.incTok t).seq.a = k.seq.a := rfl
@[simp] theorem Core.incTok_seq_pc (k : Core) (t : Nat) : (k.incTok t).seq.pc = k.seq.pc := rfl
@[simp] theorem Core.incTok_seq_sig (k : Core) (t : Nat) : (k.incTok t).seq.sig = k.seq.sig := rfl
@[simp] theorem Core.incTok_seq_regionBase (k : Core) (t : Nat) : (k.incTok t).seq.regionBase = k.seq.regionBase := rfl
@[simp] theorem Core.incTok_seq_regionLen (k : Core) (t : Nat) : (k.incTok t).seq.regionLen = k.seq.regionLen := rfl
@[simp] theorem Core.incTok_seq_mbox (k : Core) (t : Nat) : (k.incTok t).seq.mbox = k.seq.mbox := rfl
@[simp] theorem Core.incTok_seq_outbound (k : Core) (t : Nat) : (k.incTok t).seq.outbound = k.seq.outbound := rfl
@[simp] theorem Core.incTok_seq_stall (k : Core) (t : Nat) : (k.incTok t).seq.stall = k.seq.stall := rfl
@[simp] theorem Core.incTok_seq_faulted (k : Core) (t : Nat) : (k.incTok t).seq.faulted = k.seq.faulted := rfl
@[simp] theorem Core.incTok_seq_kernel (k : Core) (t : Nat) : (k.incTok t).seq.kernel = k.seq.kernel := rfl
@[simp] theorem Core.incTok_seq_preempt (k : Core) (t : Nat) : (k.incTok t).seq.preempt = k.seq.preempt := rfl
@[simp] theorem Core.incTok_seq_parking (k : Core) (t : Nat) : (k.incTok t).seq.parking = k.seq.parking := rfl
@[simp] theorem Core.incTok_seq_parked (k : Core) (t : Nat) : (k.incTok t).seq.parked = k.seq.parked := rfl
@[simp] theorem Core.incTok_seq_halted (k : Core) (t : Nat) : (k.incTok t).seq.halted = k.seq.halted := rfl
@[simp] theorem Core.incTok_seq_stepOne (k : Core) (t : Nat) : (k.incTok t).seq.stepOne = k.seq.stepOne := rfl
@[simp] theorem Core.incTok_seq_yieldMark (k : Core) (t : Nat) : (k.incTok t).seq.yieldMark = k.seq.yieldMark := rfl
@[simp] theorem Core.incTok_seq_overdueSeen (k : Core) (t : Nat) : (k.incTok t).seq.overdueSeen = k.seq.overdueSeen := rfl
@[simp] theorem Core.incTok_seq_sigMark (k : Core) (t : Nat) : (k.incTok t).seq.sigMark = k.seq.sigMark := rfl
@[simp] theorem Core.incTok_seq_icache (k : Core) (t : Nat) : (k.incTok t).seq.icache = k.seq.icache := rfl
@[simp] theorem Core.setStall_slots (k : Core) (w : Option Stall) : (k.setStall w).slots = k.slots := rfl
@[simp] theorem Core.setStall_nextOrder (k : Core) (w : Option Stall) : (k.setStall w).nextOrder = k.nextOrder := rfl
@[simp] theorem Core.setStall_sp (k : Core) (w : Option Stall) : (k.setStall w).sp = k.sp := rfl
@[simp] theorem Core.setStall_mash (k : Core) (w : Option Stall) : (k.setStall w).mash = k.mash := rfl
@[simp] theorem Core.setStall_vec (k : Core) (w : Option Stall) : (k.setStall w).vec = k.vec := rfl
@[simp] theorem Core.setStall_hop (k : Core) (w : Option Stall) : (k.setStall w).hop = k.hop := rfl
@[simp] theorem Core.setStall_welt (k : Core) (w : Option Stall) : (k.setStall w).welt = k.welt := rfl
@[simp] theorem Core.setStall_cask (k : Core) (w : Option Stall) : (k.setStall w).cask = k.cask := rfl
@[simp] theorem Core.setStall_dwq (k : Core) (w : Option Stall) : (k.setStall w).dwq = k.dwq := rfl
@[simp] theorem Core.setStall_bkt (k : Core) (w : Option Stall) : (k.setStall w).bkt = k.bkt := rfl
@[simp] theorem Core.setStall_phase (k : Core) (w : Option Stall) : (k.setStall w).phase = k.phase := rfl
@[simp] theorem Core.setStall_safe (k : Core) (w : Option Stall) : (k.setStall w).safe = k.safe := rfl
@[simp] theorem Core.setStall_direct (k : Core) (w : Option Stall) : (k.setStall w).direct = k.direct := rfl
@[simp] theorem Core.setStall_fpflags (k : Core) (w : Option Stall) : (k.setStall w).fpflags = k.fpflags := rfl
@[simp] theorem Core.setStall_cinch (k : Core) (w : Option Stall) : (k.setStall w).cinch = k.cinch := rfl
@[simp] theorem Core.setStall_yieldOverdue (k : Core) (w : Option Stall) : (k.setStall w).yieldOverdue = k.yieldOverdue := rfl
@[simp] theorem Core.setStall_overdueCnt (k : Core) (w : Option Stall) : (k.setStall w).overdueCnt = k.overdueCnt := rfl
@[simp] theorem Core.setStall_slotStall (k : Core) (w : Option Stall) : (k.setStall w).slotStall = k.slotStall := rfl
@[simp] theorem Core.setStall_gatherRange (k : Core) (w : Option Stall) : (k.setStall w).gatherRange = k.gatherRange := rfl
@[simp] theorem Core.setStall_retired (k : Core) (w : Option Stall) : (k.setStall w).retired = k.retired := rfl
@[simp] theorem Core.setStall_sched (k : Core) (w : Option Stall) : (k.setStall w).sched = k.sched := rfl
@[simp] theorem Core.setStall_preemptAt (k : Core) (w : Option Stall) : (k.setStall w).preemptAt = k.preemptAt := rfl
@[simp] theorem Core.setStall_spCe (k : Core) (w : Option Stall) : (k.setStall w).spCe = k.spCe := rfl
@[simp] theorem Core.setStall_spUe (k : Core) (w : Option Stall) : (k.setStall w).spUe = k.spUe := rfl
@[simp] theorem Core.setStall_passes (k : Core) (w : Option Stall) : (k.setStall w).passes = k.passes := rfl
@[simp] theorem Core.setStall_seq_s (k : Core) (w : Option Stall) : (k.setStall w).seq.s = k.seq.s := rfl
@[simp] theorem Core.setStall_seq_a (k : Core) (w : Option Stall) : (k.setStall w).seq.a = k.seq.a := rfl
@[simp] theorem Core.setStall_seq_t (k : Core) (w : Option Stall) : (k.setStall w).seq.t = k.seq.t := rfl
@[simp] theorem Core.setStall_seq_pc (k : Core) (w : Option Stall) : (k.setStall w).seq.pc = k.seq.pc := rfl
@[simp] theorem Core.setStall_seq_sig (k : Core) (w : Option Stall) : (k.setStall w).seq.sig = k.seq.sig := rfl
@[simp] theorem Core.setStall_seq_regionBase (k : Core) (w : Option Stall) : (k.setStall w).seq.regionBase = k.seq.regionBase := rfl
@[simp] theorem Core.setStall_seq_regionLen (k : Core) (w : Option Stall) : (k.setStall w).seq.regionLen = k.seq.regionLen := rfl
@[simp] theorem Core.setStall_seq_mbox (k : Core) (w : Option Stall) : (k.setStall w).seq.mbox = k.seq.mbox := rfl
@[simp] theorem Core.setStall_seq_outbound (k : Core) (w : Option Stall) : (k.setStall w).seq.outbound = k.seq.outbound := rfl
@[simp] theorem Core.setStall_seq_faulted (k : Core) (w : Option Stall) : (k.setStall w).seq.faulted = k.seq.faulted := rfl
@[simp] theorem Core.setStall_seq_kernel (k : Core) (w : Option Stall) : (k.setStall w).seq.kernel = k.seq.kernel := rfl
@[simp] theorem Core.setStall_seq_preempt (k : Core) (w : Option Stall) : (k.setStall w).seq.preempt = k.seq.preempt := rfl
@[simp] theorem Core.setStall_seq_parking (k : Core) (w : Option Stall) : (k.setStall w).seq.parking = k.seq.parking := rfl
@[simp] theorem Core.setStall_seq_parked (k : Core) (w : Option Stall) : (k.setStall w).seq.parked = k.seq.parked := rfl
@[simp] theorem Core.setStall_seq_halted (k : Core) (w : Option Stall) : (k.setStall w).seq.halted = k.seq.halted := rfl
@[simp] theorem Core.setStall_seq_stepOne (k : Core) (w : Option Stall) : (k.setStall w).seq.stepOne = k.seq.stepOne := rfl
@[simp] theorem Core.setStall_seq_yieldMark (k : Core) (w : Option Stall) : (k.setStall w).seq.yieldMark = k.seq.yieldMark := rfl
@[simp] theorem Core.setStall_seq_overdueSeen (k : Core) (w : Option Stall) : (k.setStall w).seq.overdueSeen = k.seq.overdueSeen := rfl
@[simp] theorem Core.setStall_seq_sigMark (k : Core) (w : Option Stall) : (k.setStall w).seq.sigMark = k.seq.sigMark := rfl
@[simp] theorem Core.setStall_seq_icache (k : Core) (w : Option Stall) : (k.setStall w).seq.icache = k.seq.icache := rfl
@[simp] theorem Core.setStall_seq_stall (k : Core) (w : Option Stall) : (k.setStall w).seq.stall = w := rfl
@[simp] theorem Core.setSlot_seq (k : Core) (n : Nat) (x : Slot) : (k.setSlot n x).seq = k.seq := rfl
@[simp] theorem Core.setSlot_nextOrder (k : Core) (n : Nat) (x : Slot) : (k.setSlot n x).nextOrder = k.nextOrder := rfl
@[simp] theorem Core.setSlot_sp (k : Core) (n : Nat) (x : Slot) : (k.setSlot n x).sp = k.sp := rfl
@[simp] theorem Core.setSlot_mash (k : Core) (n : Nat) (x : Slot) : (k.setSlot n x).mash = k.mash := rfl
@[simp] theorem Core.setSlot_vec (k : Core) (n : Nat) (x : Slot) : (k.setSlot n x).vec = k.vec := rfl
@[simp] theorem Core.setSlot_hop (k : Core) (n : Nat) (x : Slot) : (k.setSlot n x).hop = k.hop := rfl
@[simp] theorem Core.setSlot_welt (k : Core) (n : Nat) (x : Slot) : (k.setSlot n x).welt = k.welt := rfl
@[simp] theorem Core.setSlot_cask (k : Core) (n : Nat) (x : Slot) : (k.setSlot n x).cask = k.cask := rfl
@[simp] theorem Core.setSlot_dwq (k : Core) (n : Nat) (x : Slot) : (k.setSlot n x).dwq = k.dwq := rfl
@[simp] theorem Core.setSlot_bkt (k : Core) (n : Nat) (x : Slot) : (k.setSlot n x).bkt = k.bkt := rfl
@[simp] theorem Core.setSlot_phase (k : Core) (n : Nat) (x : Slot) : (k.setSlot n x).phase = k.phase := rfl
@[simp] theorem Core.setSlot_safe (k : Core) (n : Nat) (x : Slot) : (k.setSlot n x).safe = k.safe := rfl
@[simp] theorem Core.setSlot_direct (k : Core) (n : Nat) (x : Slot) : (k.setSlot n x).direct = k.direct := rfl
@[simp] theorem Core.setSlot_fpflags (k : Core) (n : Nat) (x : Slot) : (k.setSlot n x).fpflags = k.fpflags := rfl
@[simp] theorem Core.setSlot_cinch (k : Core) (n : Nat) (x : Slot) : (k.setSlot n x).cinch = k.cinch := rfl
@[simp] theorem Core.setSlot_yieldOverdue (k : Core) (n : Nat) (x : Slot) : (k.setSlot n x).yieldOverdue = k.yieldOverdue := rfl
@[simp] theorem Core.setSlot_overdueCnt (k : Core) (n : Nat) (x : Slot) : (k.setSlot n x).overdueCnt = k.overdueCnt := rfl
@[simp] theorem Core.setSlot_slotStall (k : Core) (n : Nat) (x : Slot) : (k.setSlot n x).slotStall = k.slotStall := rfl
@[simp] theorem Core.setSlot_gatherRange (k : Core) (n : Nat) (x : Slot) : (k.setSlot n x).gatherRange = k.gatherRange := rfl
@[simp] theorem Core.setSlot_retired (k : Core) (n : Nat) (x : Slot) : (k.setSlot n x).retired = k.retired := rfl
@[simp] theorem Core.setSlot_sched (k : Core) (n : Nat) (x : Slot) : (k.setSlot n x).sched = k.sched := rfl
@[simp] theorem Core.setSlot_preemptAt (k : Core) (n : Nat) (x : Slot) : (k.setSlot n x).preemptAt = k.preemptAt := rfl
@[simp] theorem Core.setSlot_spCe (k : Core) (n : Nat) (x : Slot) : (k.setSlot n x).spCe = k.spCe := rfl
@[simp] theorem Core.setSlot_spUe (k : Core) (n : Nat) (x : Slot) : (k.setSlot n x).spUe = k.spUe := rfl
@[simp] theorem Core.setSlot_passes (k : Core) (n : Nat) (x : Slot) : (k.setSlot n x).passes = k.passes := rfl
@[simp] theorem Core.modSlot_seq (k : Core) (n : Nat) (f : Slot → Slot) : (k.modSlot n f).seq = k.seq := rfl
@[simp] theorem Core.modSlot_nextOrder (k : Core) (n : Nat) (f : Slot → Slot) : (k.modSlot n f).nextOrder = k.nextOrder := rfl
@[simp] theorem Core.modSlot_sp (k : Core) (n : Nat) (f : Slot → Slot) : (k.modSlot n f).sp = k.sp := rfl
@[simp] theorem Core.modSlot_mash (k : Core) (n : Nat) (f : Slot → Slot) : (k.modSlot n f).mash = k.mash := rfl
@[simp] theorem Core.modSlot_vec (k : Core) (n : Nat) (f : Slot → Slot) : (k.modSlot n f).vec = k.vec := rfl
@[simp] theorem Core.modSlot_hop (k : Core) (n : Nat) (f : Slot → Slot) : (k.modSlot n f).hop = k.hop := rfl
@[simp] theorem Core.modSlot_welt (k : Core) (n : Nat) (f : Slot → Slot) : (k.modSlot n f).welt = k.welt := rfl
@[simp] theorem Core.modSlot_cask (k : Core) (n : Nat) (f : Slot → Slot) : (k.modSlot n f).cask = k.cask := rfl
@[simp] theorem Core.modSlot_dwq (k : Core) (n : Nat) (f : Slot → Slot) : (k.modSlot n f).dwq = k.dwq := rfl
@[simp] theorem Core.modSlot_bkt (k : Core) (n : Nat) (f : Slot → Slot) : (k.modSlot n f).bkt = k.bkt := rfl
@[simp] theorem Core.modSlot_phase (k : Core) (n : Nat) (f : Slot → Slot) : (k.modSlot n f).phase = k.phase := rfl
@[simp] theorem Core.modSlot_safe (k : Core) (n : Nat) (f : Slot → Slot) : (k.modSlot n f).safe = k.safe := rfl
@[simp] theorem Core.modSlot_direct (k : Core) (n : Nat) (f : Slot → Slot) : (k.modSlot n f).direct = k.direct := rfl
@[simp] theorem Core.modSlot_fpflags (k : Core) (n : Nat) (f : Slot → Slot) : (k.modSlot n f).fpflags = k.fpflags := rfl
@[simp] theorem Core.modSlot_cinch (k : Core) (n : Nat) (f : Slot → Slot) : (k.modSlot n f).cinch = k.cinch := rfl
@[simp] theorem Core.modSlot_yieldOverdue (k : Core) (n : Nat) (f : Slot → Slot) : (k.modSlot n f).yieldOverdue = k.yieldOverdue := rfl
@[simp] theorem Core.modSlot_overdueCnt (k : Core) (n : Nat) (f : Slot → Slot) : (k.modSlot n f).overdueCnt = k.overdueCnt := rfl
@[simp] theorem Core.modSlot_slotStall (k : Core) (n : Nat) (f : Slot → Slot) : (k.modSlot n f).slotStall = k.slotStall := rfl
@[simp] theorem Core.modSlot_gatherRange (k : Core) (n : Nat) (f : Slot → Slot) : (k.modSlot n f).gatherRange = k.gatherRange := rfl
@[simp] theorem Core.modSlot_retired (k : Core) (n : Nat) (f : Slot → Slot) : (k.modSlot n f).retired = k.retired := rfl
@[simp] theorem Core.modSlot_sched (k : Core) (n : Nat) (f : Slot → Slot) : (k.modSlot n f).sched = k.sched := rfl
@[simp] theorem Core.modSlot_preemptAt (k : Core) (n : Nat) (f : Slot → Slot) : (k.modSlot n f).preemptAt = k.preemptAt := rfl
@[simp] theorem Core.modSlot_spCe (k : Core) (n : Nat) (f : Slot → Slot) : (k.modSlot n f).spCe = k.spCe := rfl
@[simp] theorem Core.modSlot_spUe (k : Core) (n : Nat) (f : Slot → Slot) : (k.modSlot n f).spUe = k.spUe := rfl
@[simp] theorem Core.modSlot_passes (k : Core) (n : Nat) (f : Slot → Slot) : (k.modSlot n f).passes = k.passes := rfl
@[simp] theorem Core.setS_slots (k : Core) (r : Nat) (v : Word) : (k.setS r v).slots = k.slots := by unfold Core.setS; split <;> rfl
@[simp] theorem Core.setS_nextOrder (k : Core) (r : Nat) (v : Word) : (k.setS r v).nextOrder = k.nextOrder := by unfold Core.setS; split <;> rfl
@[simp] theorem Core.setS_sp (k : Core) (r : Nat) (v : Word) : (k.setS r v).sp = k.sp := by unfold Core.setS; split <;> rfl
@[simp] theorem Core.setS_mash (k : Core) (r : Nat) (v : Word) : (k.setS r v).mash = k.mash := by unfold Core.setS; split <;> rfl
@[simp] theorem Core.setS_vec (k : Core) (r : Nat) (v : Word) : (k.setS r v).vec = k.vec := by unfold Core.setS; split <;> rfl
@[simp] theorem Core.setS_hop (k : Core) (r : Nat) (v : Word) : (k.setS r v).hop = k.hop := by unfold Core.setS; split <;> rfl
@[simp] theorem Core.setS_welt (k : Core) (r : Nat) (v : Word) : (k.setS r v).welt = k.welt := by unfold Core.setS; split <;> rfl
@[simp] theorem Core.setS_cask (k : Core) (r : Nat) (v : Word) : (k.setS r v).cask = k.cask := by unfold Core.setS; split <;> rfl
@[simp] theorem Core.setS_dwq (k : Core) (r : Nat) (v : Word) : (k.setS r v).dwq = k.dwq := by unfold Core.setS; split <;> rfl
@[simp] theorem Core.setS_bkt (k : Core) (r : Nat) (v : Word) : (k.setS r v).bkt = k.bkt := by unfold Core.setS; split <;> rfl
@[simp] theorem Core.setS_phase (k : Core) (r : Nat) (v : Word) : (k.setS r v).phase = k.phase := by unfold Core.setS; split <;> rfl
@[simp] theorem Core.setS_safe (k : Core) (r : Nat) (v : Word) : (k.setS r v).safe = k.safe := by unfold Core.setS; split <;> rfl
@[simp] theorem Core.setS_direct (k : Core) (r : Nat) (v : Word) : (k.setS r v).direct = k.direct := by unfold Core.setS; split <;> rfl
@[simp] theorem Core.setS_fpflags (k : Core) (r : Nat) (v : Word) : (k.setS r v).fpflags = k.fpflags := by unfold Core.setS; split <;> rfl
@[simp] theorem Core.setS_cinch (k : Core) (r : Nat) (v : Word) : (k.setS r v).cinch = k.cinch := by unfold Core.setS; split <;> rfl
@[simp] theorem Core.setS_yieldOverdue (k : Core) (r : Nat) (v : Word) : (k.setS r v).yieldOverdue = k.yieldOverdue := by unfold Core.setS; split <;> rfl
@[simp] theorem Core.setS_overdueCnt (k : Core) (r : Nat) (v : Word) : (k.setS r v).overdueCnt = k.overdueCnt := by unfold Core.setS; split <;> rfl
@[simp] theorem Core.setS_slotStall (k : Core) (r : Nat) (v : Word) : (k.setS r v).slotStall = k.slotStall := by unfold Core.setS; split <;> rfl
@[simp] theorem Core.setS_gatherRange (k : Core) (r : Nat) (v : Word) : (k.setS r v).gatherRange = k.gatherRange := by unfold Core.setS; split <;> rfl
@[simp] theorem Core.setS_retired (k : Core) (r : Nat) (v : Word) : (k.setS r v).retired = k.retired := by unfold Core.setS; split <;> rfl
@[simp] theorem Core.setS_sched (k : Core) (r : Nat) (v : Word) : (k.setS r v).sched = k.sched := by unfold Core.setS; split <;> rfl
@[simp] theorem Core.setS_preemptAt (k : Core) (r : Nat) (v : Word) : (k.setS r v).preemptAt = k.preemptAt := by unfold Core.setS; split <;> rfl
@[simp] theorem Core.setS_spCe (k : Core) (r : Nat) (v : Word) : (k.setS r v).spCe = k.spCe := by unfold Core.setS; split <;> rfl
@[simp] theorem Core.setS_spUe (k : Core) (r : Nat) (v : Word) : (k.setS r v).spUe = k.spUe := by unfold Core.setS; split <;> rfl
@[simp] theorem Core.setS_passes (k : Core) (r : Nat) (v : Word) : (k.setS r v).passes = k.passes := by unfold Core.setS; split <;> rfl
@[simp] theorem Core.setS_seq_a (k : Core) (r : Nat) (v : Word) : (k.setS r v).seq.a = k.seq.a := by
  unfold Core.setS; split <;> rfl
@[simp] theorem Core.setS_seq_t (k : Core) (r : Nat) (v : Word) : (k.setS r v).seq.t = k.seq.t := by
  unfold Core.setS; split <;> rfl
@[simp] theorem Core.setS_seq_pc (k : Core) (r : Nat) (v : Word) : (k.setS r v).seq.pc = k.seq.pc := by
  unfold Core.setS; split <;> rfl
@[simp] theorem Core.setS_seq_sig (k : Core) (r : Nat) (v : Word) : (k.setS r v).seq.sig = k.seq.sig := by
  unfold Core.setS; split <;> rfl
@[simp] theorem Core.setS_seq_regionBase (k : Core) (r : Nat) (v : Word) : (k.setS r v).seq.regionBase = k.seq.regionBase := by
  unfold Core.setS; split <;> rfl
@[simp] theorem Core.setS_seq_regionLen (k : Core) (r : Nat) (v : Word) : (k.setS r v).seq.regionLen = k.seq.regionLen := by
  unfold Core.setS; split <;> rfl
@[simp] theorem Core.setS_seq_mbox (k : Core) (r : Nat) (v : Word) : (k.setS r v).seq.mbox = k.seq.mbox := by
  unfold Core.setS; split <;> rfl
@[simp] theorem Core.setS_seq_outbound (k : Core) (r : Nat) (v : Word) : (k.setS r v).seq.outbound = k.seq.outbound := by
  unfold Core.setS; split <;> rfl
@[simp] theorem Core.setS_seq_stall (k : Core) (r : Nat) (v : Word) : (k.setS r v).seq.stall = k.seq.stall := by
  unfold Core.setS; split <;> rfl
@[simp] theorem Core.setS_seq_faulted (k : Core) (r : Nat) (v : Word) : (k.setS r v).seq.faulted = k.seq.faulted := by
  unfold Core.setS; split <;> rfl
@[simp] theorem Core.setS_seq_kernel (k : Core) (r : Nat) (v : Word) : (k.setS r v).seq.kernel = k.seq.kernel := by
  unfold Core.setS; split <;> rfl
@[simp] theorem Core.setS_seq_preempt (k : Core) (r : Nat) (v : Word) : (k.setS r v).seq.preempt = k.seq.preempt := by
  unfold Core.setS; split <;> rfl
@[simp] theorem Core.setS_seq_parking (k : Core) (r : Nat) (v : Word) : (k.setS r v).seq.parking = k.seq.parking := by
  unfold Core.setS; split <;> rfl
@[simp] theorem Core.setS_seq_parked (k : Core) (r : Nat) (v : Word) : (k.setS r v).seq.parked = k.seq.parked := by
  unfold Core.setS; split <;> rfl
@[simp] theorem Core.setS_seq_halted (k : Core) (r : Nat) (v : Word) : (k.setS r v).seq.halted = k.seq.halted := by
  unfold Core.setS; split <;> rfl
@[simp] theorem Core.setS_seq_stepOne (k : Core) (r : Nat) (v : Word) : (k.setS r v).seq.stepOne = k.seq.stepOne := by
  unfold Core.setS; split <;> rfl
@[simp] theorem Core.setS_seq_yieldMark (k : Core) (r : Nat) (v : Word) : (k.setS r v).seq.yieldMark = k.seq.yieldMark := by
  unfold Core.setS; split <;> rfl
@[simp] theorem Core.setS_seq_overdueSeen (k : Core) (r : Nat) (v : Word) : (k.setS r v).seq.overdueSeen = k.seq.overdueSeen := by
  unfold Core.setS; split <;> rfl
@[simp] theorem Core.setS_seq_sigMark (k : Core) (r : Nat) (v : Word) : (k.setS r v).seq.sigMark = k.seq.sigMark := by
  unfold Core.setS; split <;> rfl
@[simp] theorem Core.setS_seq_icache (k : Core) (r : Nat) (v : Word) : (k.setS r v).seq.icache = k.seq.icache := by
  unfold Core.setS; split <;> rfl
@[simp] theorem Core.setA_slots (k : Core) (r : Nat) (v : Word) : (k.setA r v).slots = k.slots := by unfold Core.setA; split <;> rfl
@[simp] theorem Core.setA_nextOrder (k : Core) (r : Nat) (v : Word) : (k.setA r v).nextOrder = k.nextOrder := by unfold Core.setA; split <;> rfl
@[simp] theorem Core.setA_sp (k : Core) (r : Nat) (v : Word) : (k.setA r v).sp = k.sp := by unfold Core.setA; split <;> rfl
@[simp] theorem Core.setA_mash (k : Core) (r : Nat) (v : Word) : (k.setA r v).mash = k.mash := by unfold Core.setA; split <;> rfl
@[simp] theorem Core.setA_vec (k : Core) (r : Nat) (v : Word) : (k.setA r v).vec = k.vec := by unfold Core.setA; split <;> rfl
@[simp] theorem Core.setA_hop (k : Core) (r : Nat) (v : Word) : (k.setA r v).hop = k.hop := by unfold Core.setA; split <;> rfl
@[simp] theorem Core.setA_welt (k : Core) (r : Nat) (v : Word) : (k.setA r v).welt = k.welt := by unfold Core.setA; split <;> rfl
@[simp] theorem Core.setA_cask (k : Core) (r : Nat) (v : Word) : (k.setA r v).cask = k.cask := by unfold Core.setA; split <;> rfl
@[simp] theorem Core.setA_dwq (k : Core) (r : Nat) (v : Word) : (k.setA r v).dwq = k.dwq := by unfold Core.setA; split <;> rfl
@[simp] theorem Core.setA_bkt (k : Core) (r : Nat) (v : Word) : (k.setA r v).bkt = k.bkt := by unfold Core.setA; split <;> rfl
@[simp] theorem Core.setA_phase (k : Core) (r : Nat) (v : Word) : (k.setA r v).phase = k.phase := by unfold Core.setA; split <;> rfl
@[simp] theorem Core.setA_safe (k : Core) (r : Nat) (v : Word) : (k.setA r v).safe = k.safe := by unfold Core.setA; split <;> rfl
@[simp] theorem Core.setA_direct (k : Core) (r : Nat) (v : Word) : (k.setA r v).direct = k.direct := by unfold Core.setA; split <;> rfl
@[simp] theorem Core.setA_fpflags (k : Core) (r : Nat) (v : Word) : (k.setA r v).fpflags = k.fpflags := by unfold Core.setA; split <;> rfl
@[simp] theorem Core.setA_cinch (k : Core) (r : Nat) (v : Word) : (k.setA r v).cinch = k.cinch := by unfold Core.setA; split <;> rfl
@[simp] theorem Core.setA_yieldOverdue (k : Core) (r : Nat) (v : Word) : (k.setA r v).yieldOverdue = k.yieldOverdue := by unfold Core.setA; split <;> rfl
@[simp] theorem Core.setA_overdueCnt (k : Core) (r : Nat) (v : Word) : (k.setA r v).overdueCnt = k.overdueCnt := by unfold Core.setA; split <;> rfl
@[simp] theorem Core.setA_slotStall (k : Core) (r : Nat) (v : Word) : (k.setA r v).slotStall = k.slotStall := by unfold Core.setA; split <;> rfl
@[simp] theorem Core.setA_gatherRange (k : Core) (r : Nat) (v : Word) : (k.setA r v).gatherRange = k.gatherRange := by unfold Core.setA; split <;> rfl
@[simp] theorem Core.setA_retired (k : Core) (r : Nat) (v : Word) : (k.setA r v).retired = k.retired := by unfold Core.setA; split <;> rfl
@[simp] theorem Core.setA_sched (k : Core) (r : Nat) (v : Word) : (k.setA r v).sched = k.sched := by unfold Core.setA; split <;> rfl
@[simp] theorem Core.setA_preemptAt (k : Core) (r : Nat) (v : Word) : (k.setA r v).preemptAt = k.preemptAt := by unfold Core.setA; split <;> rfl
@[simp] theorem Core.setA_spCe (k : Core) (r : Nat) (v : Word) : (k.setA r v).spCe = k.spCe := by unfold Core.setA; split <;> rfl
@[simp] theorem Core.setA_spUe (k : Core) (r : Nat) (v : Word) : (k.setA r v).spUe = k.spUe := by unfold Core.setA; split <;> rfl
@[simp] theorem Core.setA_passes (k : Core) (r : Nat) (v : Word) : (k.setA r v).passes = k.passes := by unfold Core.setA; split <;> rfl
@[simp] theorem Core.setA_seq_s (k : Core) (r : Nat) (v : Word) : (k.setA r v).seq.s = k.seq.s := by
  unfold Core.setA; split <;> rfl
@[simp] theorem Core.setA_seq_t (k : Core) (r : Nat) (v : Word) : (k.setA r v).seq.t = k.seq.t := by
  unfold Core.setA; split <;> rfl
@[simp] theorem Core.setA_seq_pc (k : Core) (r : Nat) (v : Word) : (k.setA r v).seq.pc = k.seq.pc := by
  unfold Core.setA; split <;> rfl
@[simp] theorem Core.setA_seq_sig (k : Core) (r : Nat) (v : Word) : (k.setA r v).seq.sig = k.seq.sig := by
  unfold Core.setA; split <;> rfl
@[simp] theorem Core.setA_seq_regionBase (k : Core) (r : Nat) (v : Word) : (k.setA r v).seq.regionBase = k.seq.regionBase := by
  unfold Core.setA; split <;> rfl
@[simp] theorem Core.setA_seq_regionLen (k : Core) (r : Nat) (v : Word) : (k.setA r v).seq.regionLen = k.seq.regionLen := by
  unfold Core.setA; split <;> rfl
@[simp] theorem Core.setA_seq_mbox (k : Core) (r : Nat) (v : Word) : (k.setA r v).seq.mbox = k.seq.mbox := by
  unfold Core.setA; split <;> rfl
@[simp] theorem Core.setA_seq_outbound (k : Core) (r : Nat) (v : Word) : (k.setA r v).seq.outbound = k.seq.outbound := by
  unfold Core.setA; split <;> rfl
@[simp] theorem Core.setA_seq_stall (k : Core) (r : Nat) (v : Word) : (k.setA r v).seq.stall = k.seq.stall := by
  unfold Core.setA; split <;> rfl
@[simp] theorem Core.setA_seq_faulted (k : Core) (r : Nat) (v : Word) : (k.setA r v).seq.faulted = k.seq.faulted := by
  unfold Core.setA; split <;> rfl
@[simp] theorem Core.setA_seq_kernel (k : Core) (r : Nat) (v : Word) : (k.setA r v).seq.kernel = k.seq.kernel := by
  unfold Core.setA; split <;> rfl
@[simp] theorem Core.setA_seq_preempt (k : Core) (r : Nat) (v : Word) : (k.setA r v).seq.preempt = k.seq.preempt := by
  unfold Core.setA; split <;> rfl
@[simp] theorem Core.setA_seq_parking (k : Core) (r : Nat) (v : Word) : (k.setA r v).seq.parking = k.seq.parking := by
  unfold Core.setA; split <;> rfl
@[simp] theorem Core.setA_seq_parked (k : Core) (r : Nat) (v : Word) : (k.setA r v).seq.parked = k.seq.parked := by
  unfold Core.setA; split <;> rfl
@[simp] theorem Core.setA_seq_halted (k : Core) (r : Nat) (v : Word) : (k.setA r v).seq.halted = k.seq.halted := by
  unfold Core.setA; split <;> rfl
@[simp] theorem Core.setA_seq_stepOne (k : Core) (r : Nat) (v : Word) : (k.setA r v).seq.stepOne = k.seq.stepOne := by
  unfold Core.setA; split <;> rfl
@[simp] theorem Core.setA_seq_yieldMark (k : Core) (r : Nat) (v : Word) : (k.setA r v).seq.yieldMark = k.seq.yieldMark := by
  unfold Core.setA; split <;> rfl
@[simp] theorem Core.setA_seq_overdueSeen (k : Core) (r : Nat) (v : Word) : (k.setA r v).seq.overdueSeen = k.seq.overdueSeen := by
  unfold Core.setA; split <;> rfl
@[simp] theorem Core.setA_seq_sigMark (k : Core) (r : Nat) (v : Word) : (k.setA r v).seq.sigMark = k.seq.sigMark := by
  unfold Core.setA; split <;> rfl
@[simp] theorem Core.setA_seq_icache (k : Core) (r : Nat) (v : Word) : (k.setA r v).seq.icache = k.seq.icache := by
  unfold Core.setA; split <;> rfl

/-! ## Sequencer registers, token counters and slots after a write -/

/-- An s register after a write: s0 reads zero and keeps nothing (R75). -/
theorem Core.s_setS (k : Core) (r j : Nat) (v : Word) : (k.setS r v).s j = if j = r ∧ r ≠ 0 then v else k.s j := by
  unfold Core.setS Core.s
  by_cases hr : r = 0
  · simp [hr]
  · by_cases hj : j = 0
    · simp [hj, hr, Ne.symm hr]
    · simp [hr, hj, FMap.get_set]
/-- An a register after a write: a0 reads zero and keeps nothing (R75). -/
theorem Core.a_setA (k : Core) (r j : Nat) (v : Word) : (k.setA r v).a j = if j = r ∧ r ≠ 0 then v else k.a j := by
  unfold Core.setA Core.a
  by_cases hr : r = 0
  · simp [hr]
  · by_cases hj : j = 0
    · simp [hj, hr, Ne.symm hr]
    · simp [hr, hj, FMap.get_set]
@[simp] theorem Core.s_zero (k : Core) : k.s 0 = 0 := rfl
@[simp] theorem Core.a_zero (k : Core) : k.a 0 = 0 := rfl
@[simp] theorem Core.s_setA (k : Core) (r j : Nat) (v : Word) : (k.setA r v).s j = k.s j := by simp [Core.s]
@[simp] theorem Core.a_setS (k : Core) (r j : Nat) (v : Word) : (k.setS r v).a j = k.a j := by simp [Core.a]
@[simp] theorem Core.s_step8 (k : Core) (j : Nat) : k.step8.s j = k.s j := rfl
@[simp] theorem Core.a_step8 (k : Core) (j : Nat) : k.step8.a j = k.a j := rfl
@[simp] theorem Core.s_stepUsed (k : Core) (j : Nat) : k.stepUsed.s j = k.s j := rfl
@[simp] theorem Core.a_stepUsed (k : Core) (j : Nat) : k.stepUsed.a j = k.a j := rfl
@[simp] theorem Core.tok_stepUsed (k : Core) (j : Nat) : k.stepUsed.tok j = k.tok j := rfl
@[simp] theorem Core.slot_stepUsed (k : Core) (n : Nat) : k.stepUsed.slot n = k.slot n := rfl
@[simp] theorem Core.op2_stepUsed (k : Core) (y : Op2) : k.stepUsed.op2 y = k.op2 y := by cases y <;> rfl
@[simp] theorem Core.tval_stepUsed (k : Core) (y : Op2) : k.stepUsed.tval y = k.tval y := by cases y <;> rfl
@[simp] theorem Core.quad_stepUsed (k : Core) (r : Nat) : k.stepUsed.quad r = k.quad r := rfl
@[simp] theorem Core.tok_step8 (k : Core) (j : Nat) : k.step8.tok j = k.tok j := rfl
@[simp] theorem Core.slot_step8 (k : Core) (n : Nat) : k.step8.slot n = k.slot n := rfl
@[simp] theorem Core.tok_setS (k : Core) (r j : Nat) (v : Word) : (k.setS r v).tok j = k.tok j := by simp [Core.tok]
theorem Core.tok_setTok (k : Core) (t j : Nat) (v : BitVec 32) : (k.setTok t v).tok j = if j = t then v else k.tok j :=
  FMap.get_set _ _ _ _ _
@[simp] theorem Core.slot_setSlot_self (k : Core) (n : Nat) (x : Slot) : (k.setSlot n x).slot n = x := FMap.get_set_self _ _ _ _
theorem Core.slot_setSlot (k : Core) (n m : Nat) (x : Slot) : (k.setSlot n x).slot m = if m = n then x else k.slot m :=
  FMap.get_set _ _ _ _ _
@[simp] theorem Core.slot_modSlot_self (k : Core) (n : Nat) (f : Slot → Slot) : (k.modSlot n f).slot n = f (k.slot n) :=
  FMap.get_set_self _ _ _ _
theorem Core.slot_modSlot (k : Core) (n m : Nat) (f : Slot → Slot) :
    (k.modSlot n f).slot m = if m = n then f (k.slot n) else k.slot m := FMap.get_set _ _ _ _ _

end Sys2Proof.Machine
end

