-- ==== Sys2Proof/Laws/Streams.lean ====
section
/-! SUPPORT. What a stream's movement can do to the machine: the frame of a movement, and for each operation on rows that it goes
on without a stop and stays in the frame when its lines are accessible. -/

namespace Sys2Proof.Machine

open Sys2Proof

/-- What a movement may do to the HBM and the accounts: nothing, or what `HbmMoved` says. -/
def HbmRel (Q : Option (Nat → Prop)) (s t : State) : Prop :=
  match Q with
  | none => t.hbm = s.hbm ∧ t.glob = s.glob ∧ t.fab = s.fab
  | some q => HbmMoved q s t

theorem HbmRel.same {Q : Option (Nat → Prop)} {s t : State} (h : t.hbm = s.hbm) (g : t.glob = s.glob)
    (f : t.fab = s.fab) : HbmRel Q s t := by
  cases Q with
  | none => exact ⟨h, g, f⟩
  | some q =>
    refine ⟨?_, ?_, ?_, ?_, ?_⟩
    · rw [h]
    · rw [h]; exact ⟨fun _ h => h, fun _ h => h⟩
    · rw [h]; exact fun _ _ => rfl
    · rw [g]
    · rw [f]

theorem HbmRel.refl (Q : Option (Nat → Prop)) (s : State) : HbmRel Q s s := HbmRel.same rfl rfl rfl

/-- Places do not move while the region table stands. -/
theorem HbmMoved.key {q : Nat → Prop} {s t : State} (h : HbmMoved q s t) (a : Nat) : t.hbm.key a = s.hbm.key a := by
  have := congrArg (fun x : Hbm => x.key a) h.1
  exact this

theorem HbmRel.trans {Q : Option (Nat → Prop)} {s t u : State} (h : HbmRel Q s t) (g : HbmRel Q t u) : HbmRel Q s u := by
  cases Q with
  | none => exact ⟨g.1.trans h.1, g.2.1.trans h.2.1, g.2.2.trans h.2.2⟩
  | some q =>
    refine ⟨?_, ⟨fun k hk => h.2.1.1 k (g.2.1.1 k hk), fun k hk => h.2.1.2 k (g.2.1.2 k hk)⟩, fun a ha => ?_, ?_, ?_⟩
    · have h1 := congrArg (fun x : Hbm =>
        { x with mem := s.hbm.mem, bad := s.hbm.bad, ce := s.hbm.ce, home := s.hbm.home, moved := s.hbm.moved }) g.1
      exact h1.trans h.1
    · exact (g.2.2.1 a (fun b hb => by rw [HbmMoved.key h]; exact ha b hb)).trans (h.2.2.1 a ha)
    · have h1 := congrArg (fun x : Global => { x with acctHbm := s.glob.acctHbm, acct := s.glob.acct }) g.2.2.2.1
      exact h1.trans h.2.2.2.1
    · have h1 := congrArg (fun x : Fabric => { x with bytes := s.fab.bytes }) g.2.2.2.2
      exact h1.trans h.2.2.2.2

/-- What the movement of slot `n` of core `c` keeps: everything outside the core but the count of free values; in the core what
no station keeps, the other slots, the channel settings; no new error mark; every scratchpad byte outside `P`. -/
structure Frame (c n : Nat) (P : Nat → Prop) (Q : Option (Nat → Prop)) (s t : State) : Prop where
  rest : { t with cores := s.cores, free := s.free, hbm := s.hbm, glob := s.glob, fab := s.fab } = s
  hbm : HbmRel Q s t
  other : ∀ d, d ≠ c → t.core d = s.core d
  keep : StationsOnly (s.core c) (t.core c)
  slot : ∀ m, m ≠ n → (t.core c).slot m = (s.core c).slot m
  desc : ((t.core c).slot n).desc = ((s.core c).slot n).desc
  chan : ∀ ch, ((t.core c).hopChan ch).cfg = ((s.core c).hopChan ch).cfg
  err : ∀ e ∈ (t.core c).sp.err, e ∈ (s.core c).sp.err
  mem : ∀ a, ¬ P a → memByte (t.core c).sp.mem a = memByte (s.core c).sp.mem a

theorem StationsOnly.refl (k : Core) : StationsOnly k k := rfl
theorem StationsOnly.trans {k j i : Core} (h : StationsOnly k j) (g : StationsOnly j i) : StationsOnly k i := by
  have e := congrArg (fun x : Core => { x with
    slots := k.slots
    sp := k.sp
    mash := k.mash
    vec := k.vec
    hop := k.hop
    welt := k.welt
    cask := k.cask
    direct := k.direct
    fpflags := k.fpflags
    gatherRange := k.gatherRange
    spCe := k.spCe
    spUe := k.spUe
    dwq := { x.dwq with mcyc := k.dwq.mcyc, refill := k.dwq.refill } }) g
  exact e.trans h
/-- In particular the sequencer is as before. -/
theorem StationsOnly.seq {k j : Core} (h : StationsOnly k j) : j.seq = k.seq := by
  have e := congrArg Core.seq (show _ = k from h)
  exact e

theorem Frame.refl (c n : Nat) (P : Nat → Prop) (Q : Option (Nat → Prop)) (s : State) : Frame c n P Q s s :=
  ⟨rfl, HbmRel.refl Q s, fun _ _ => rfl, StationsOnly.refl _, fun _ _ => rfl, rfl, fun _ => rfl, fun _ h => h, fun _ _ => rfl⟩

theorem Frame.trans {c n : Nat} {P : Nat → Prop} {Q : Option (Nat → Prop)} {s t u : State} (h : Frame c n P Q s t) (g : Frame c n P Q t u) : Frame c n P Q s u where
  rest := by
    have h1 := congrArg (fun v : State => { v with cores := s.cores, free := s.free, hbm := s.hbm, glob := s.glob, fab := s.fab }) g.rest
    exact h1.trans h.rest
  hbm := h.hbm.trans g.hbm
  other := fun d hd => (g.other d hd).trans (h.other d hd)
  keep := h.keep.trans g.keep
  slot := fun m hm => (g.slot m hm).trans (h.slot m hm)
  desc := g.desc.trans h.desc
  chan := fun ch => (g.chan ch).trans (h.chan ch)
  err := fun e he => h.err e (g.err e he)
  mem := fun a ha => (g.mem a ha).trans (h.mem a ha)

/-- An update of the core that keeps what the frame keeps. -/
theorem Frame.modCore {c n : Nat} {P : Nat → Prop} {Q : Option (Nat → Prop)} {s : State} {f : Core → Core}
    (hq : StationsOnly (s.core c) (f (s.core c))) (hs : ∀ m, m ≠ n → (f (s.core c)).slot m = (s.core c).slot m)
    (hd : ((f (s.core c)).slot n).desc = ((s.core c).slot n).desc)
    (hc : ∀ ch, ((f (s.core c)).hopChan ch).cfg = ((s.core c).hopChan ch).cfg)
    (he : ∀ e ∈ (f (s.core c)).sp.err, e ∈ (s.core c).sp.err)
    (hm : ∀ a, ¬ P a → memByte (f (s.core c)).sp.mem a = memByte (s.core c).sp.mem a) : Frame c n P Q s (s.modCore c f) where
  rest := rfl
  hbm := HbmRel.same rfl rfl rfl
  other := fun d hd => by rw [State.core_modCore, if_neg hd]
  keep := by rw [State.core_modCore_self]; exact hq
  slot := fun m h => by rw [State.core_modCore_self]; exact hs m h
  desc := by rw [State.core_modCore_self]; exact hd
  chan := fun ch => by rw [State.core_modCore_self]; exact hc ch
  err := fun e h => by rw [State.core_modCore_self] at h; exact he e h
  mem := fun a h => by rw [State.core_modCore_self]; exact hm a h

/-- An update of the core's mash, vector, direct-path, flag and counter parts only. -/
theorem Frame.quiet {c n : Nat} {P : Nat → Prop} {Q : Option (Nat → Prop)} {s : State} {f : Core → Core}
    (hq : StationsOnly (s.core c) (f (s.core c))) (hs : (f (s.core c)).slots = (s.core c).slots)
    (hh : (f (s.core c)).hop.chans = (s.core c).hop.chans) (he : (f (s.core c)).sp.err = (s.core c).sp.err)
    (hm : (f (s.core c)).sp.mem = (s.core c).sp.mem) : Frame c n P Q s (s.modCore c f) :=
  Frame.modCore hq (fun m _ => by rw [Core.slot, Core.slot, hs]) (by rw [Core.slot, Core.slot, hs])
    (fun ch => by rw [Core.hopChan, Core.hopChan, hh]) (fun e h => by rw [he] at h; exact h) (fun a _ => by rw [hm])

/-- What may be accessed does not change. -/
theorem Frame.runFault {c n : Nat} {P : Nat → Prop} {Q : Option (Nat → Prop)} {s t : State} (h : Frame c n P Q s t) (own : List Nat) (a k : Nat) :
    t.runFault c own a k = s.runFault c own a k := by
  have hs : t.sched = s.sched := by have := congrArg State.sched h.rest; exact this
  have hb : t.bays = s.bays := by have := congrArg State.bays h.rest; exact this
  have hl : ∀ l, t.lineFault c own l = s.lineFault c own l := by
    intro l
    have e1 : t.hotLine c l = s.hotLine c l := by
      simp only [State.hotLine, h.keep.seq, State.resvLines, State.schedOf, State.partOf, State.partOfBay, State.bay, hs, hb]
      try rfl
    have e2 : (t.core c).guarded own l = (s.core c).guarded own l := by
      simp only [Core.guarded, HopChan.on, HopChan.has, HopChan.base, HopChan.tiles, HopChan.lines, h.chan]
      try rfl
    rw [State.lineFault, State.lineFault, e1, e2]
  unfold State.runFault
  congr 1
  funext l
  rw [hl]

theorem Frame.sound {c n : Nat} {P : Nat → Prop} {Q : Option (Nat → Prop)} {s t : State} (h : Frame c n P Q s t) (hs : s.SpSound c) : t.SpSound c :=
  fun e he => hs e (h.err e he)

theorem State.SpSound.spBad {s : State} {c : Nat} (h : s.SpSound c) (a n : Nat) : (s.core c).spBad a n = false := by
  rw [Core.spBad, List.any_eq_false]
  intro e he
  simp [h e he]

/-- The movement has not stopped and is inside the frame. -/
def Good (c n : Nat) (P : Nat → Prop) (Q : Option (Nat → Prop)) (s : State) (m : Mv) : Prop := m.stop = none ∧ Frame c n P Q s m.s

theorem Good.start (c n : Nat) (P : Nat → Prop) (Q : Option (Nat → Prop)) (s : State) : Good c n P Q s { s := s } := ⟨rfl, Frame.refl ..⟩

theorem Good.mod {c n : Nat} {P : Nat → Prop} {Q : Option (Nat → Prop)} {s : State} {m : Mv} (h : Good c n P Q s m) {f : State → State}
    (hf : Frame c n P Q m.s (f m.s)) : Good c n P Q s (m.mod f) := by
  obtain ⟨h1, h2⟩ := h
  unfold Mv.mod
  rw [h1]
  exact ⟨rfl, h2.trans hf⟩

theorem Good.andThen {c n : Nat} {P : Nat → Prop} {Q : Option (Nat → Prop)} {s : State} {m : Mv} (h : Good c n P Q s m) {f : State → Mv}
    (hf : ∀ t, Frame c n P Q s t → Good c n P Q s (f t)) : Good c n P Q s (m.andThen f) := by
  obtain ⟨h1, h2⟩ := h
  unfold Mv.andThen
  rw [h1]
  exact hf _ h2

/-- A fold of steps that keep the movement good. -/
theorem Good.foldl {c n : Nat} {P : Nat → Prop} {Q : Option (Nat → Prop)} {s : State} {α : Type} {l : List α} {f : Mv → α → Mv} {m : Mv} (h : Good c n P Q s m)
    (hf : ∀ m x, x ∈ l → Good c n P Q s m → Good c n P Q s (f m x)) : Good c n P Q s (l.foldl f m) := by
  induction l generalizing m with
  | nil => exact h
  | cons a l ih => exact ih (hf m a (by simp) h) (fun m x hx => hf m x (by simp [hx]))

theorem Good.each {c n : Nat} {P : Nat → Prop} {Q : Option (Nat → Prop)} {s : State} {α : Type} {l : List α} {f : State → α → Mv} {m : Mv} (h : Good c n P Q s m)
    (hf : ∀ t x, x ∈ l → Frame c n P Q s t → Good c n P Q s (f t x)) : Good c n P Q s (m.each l f) :=
  h.foldl (fun _ x hx hm => hm.andThen (fun t ht => hf t x hx ht))

/-- A fold that carries a result along. -/
theorem Good.foldl2 {c n : Nat} {P : Nat → Prop} {Q : Option (Nat → Prop)} {s : State} {α β : Type} {l : List α} {f : Mv × β → α → Mv × β} {a : Mv × β}
    (h : Good c n P Q s a.1) (hf : ∀ a x, x ∈ l → Good c n P Q s a.1 → Good c n P Q s (f a x).1) : Good c n P Q s (l.foldl f a).1 := by
  induction l generalizing a with
  | nil => exact h
  | cons x l ih => exact ih (hf a x (by simp) h) (fun a y hy => hf a y (by simp [hy]))

theorem spFix_frame (k : Core) (a n : Nat) : StationsOnly k (k.spFix a n) ∧ (k.spFix a n).slots = k.slots ∧
    (k.spFix a n).hop = k.hop ∧ (k.spFix a n).sp.mem = k.sp.mem ∧ ∀ e ∈ (k.spFix a n).sp.err, e ∈ k.sp.err := by
  unfold Core.spFix
  dsimp only
  split
  · exact ⟨rfl, rfl, rfl, rfl, fun _ h => h⟩
  · exact ⟨rfl, rfl, rfl, rfl, fun _ h => (List.mem_filter.1 h).1⟩

theorem Core.slot_congr {k j : Core} (h : k.slots = j.slots) (m : Nat) : k.slot m = j.slot m := by rw [Core.slot, Core.slot, h]
theorem Core.hopChan_congr {k j : Core} (h : k.hop = j.hop) (m : Nat) : k.hopChan m = j.hopChan m := by
  rw [Core.hopChan, Core.hopChan, h]

/-- A scratchpad read of accessible lines goes on, stays in the frame and answers the bytes. -/
theorem Good.readSp {c n : Nat} {P : Nat → Prop} {Q : Option (Nat → Prop)} {s : State} {m : Mv} (h : Good c n P Q s m) (hs : s.SpSound c) {own : List Nat}
    {a k : Nat} (hr : s.runFault c own a k = none) (last : Bool) :
    Good c n P Q s (m.readSp c own last a k).1 ∧ (m.readSp c own last a k).2 = (m.s.core c).spRead a k := by
  obtain ⟨h1, h2⟩ := h
  have e : m.readSp c own last a k =
      ({ m with s := m.s.modCore c (fun k' => (if last then (k'.spFix a k).clearLive (linesOf a k) else k'.spFix a k)) },
        (m.s.core c).spRead a k) := by
    unfold Mv.readSp
    rw [h1]
    dsimp only
    rw [h2.runFault, hr]
    dsimp only
    rw [if_neg (by rw [(h2.sound hs).spBad]; simp)]
  rw [e]
  obtain ⟨f1, f2, f3, f4, f5⟩ := spFix_frame (m.s.core c) a k
  refine ⟨⟨h1, h2.trans ?_⟩, rfl⟩
  show Frame c n P Q m.s (m.s.modCore c (fun k' => if last then (k'.spFix a k).clearLive (linesOf a k) else k'.spFix a k))
  cases last
  · exact Frame.modCore f1 (fun j _ => Core.slot_congr f2 j)
      (congrArg Slot.desc (Core.slot_congr (j := m.s.core c) (k := (m.s.core c).spFix a k) f2 n))
      (fun ch => congrArg HopChan.cfg (Core.hopChan_congr (j := m.s.core c) (k := (m.s.core c).spFix a k) f3 ch)) f5
      (fun x _ => congrArg (fun l : Memory => memByte l x) f4)
  · exact Frame.modCore f1 (fun j _ => Core.slot_congr f2 j)
      (congrArg Slot.desc (Core.slot_congr (j := m.s.core c) (k := ((m.s.core c).spFix a k).clearLive (linesOf a k)) f2 n))
      (fun ch => congrArg HopChan.cfg
        (Core.hopChan_congr (j := m.s.core c) (k := ((m.s.core c).spFix a k).clearLive (linesOf a k)) f3 ch)) f5
      (fun x _ => congrArg (fun l : Memory => memByte l x) f4)

/-- Writing bytes inside `P`. -/
theorem Frame.spWrite {c n : Nat} {P : Nat → Prop} {Q : Option (Nat → Prop)} {s : State} {a : Nat} {bs : List Byte} (hP : ∀ x, a ≤ x → x < a + bs.length → P x)
    (g : Core → Core) (hg : ∀ k, StationsOnly k (g k) ∧ (g k).slots = k.slots ∧ (g k).hop = k.hop ∧ (g k).sp.err = k.sp.err ∧
      (g k).sp.mem = k.sp.mem) : Frame c n P Q s (s.modCore c (fun k => g (k.spWrite a bs))) := by
  obtain ⟨g1, g2, g3, g4, g5⟩ := hg ((s.core c).spWrite a bs)
  refine Frame.modCore ?_ ?_ ?_ ?_ ?_ ?_
  · exact StationsOnly.trans (j := (s.core c).spWrite a bs) rfl g1
  · exact fun j _ => Core.slot_congr (j := s.core c) g2 j
  · exact congrArg Slot.desc (Core.slot_congr (j := s.core c) g2 n)
  · exact fun ch => congrArg HopChan.cfg (Core.hopChan_congr (j := s.core c) g3 ch)
  · exact fun e he => by rw [g4] at he; exact (List.mem_filter.1 he).1
  · intro x hx
    rw [g5, Core.spWrite_byte, if_neg]
    exact fun h => hx (hP x h.1 h.2)

/-- A scratchpad write to accessible lines inside `P` goes on and stays in the frame. -/
theorem Good.writeSp {c n : Nat} {P : Nat → Prop} {Q : Option (Nat → Prop)} {s : State} {m : Mv} (h : Good c n P Q s m) {own : List Nat} {a : Nat} {bs : List Byte}
    (hr : s.runFault c own a bs.length = none) (hP : ∀ x, a ≤ x → x < a + bs.length → P x) :
    Good c n P Q s (m.writeSp c own a bs) := by
  refine h.andThen (fun t ht => ?_)
  rw [ht.runFault, hr]
  exact ⟨rfl, ht.trans (Frame.spWrite hP (fun k => k.setLive (linesOf a bs.length)) (fun k => ⟨rfl, rfl, rfl, rfl, rfl⟩))⟩

theorem natBytes_length (n v : Nat) : (natBytes n v).length = n := by
  induction n generalizing v with
  | zero => rfl
  | succ n ih => simp [natBytes, ih]

theorem bytesOf_length (fmt : Nat) (cs : List Nat) (old : List Byte) : (bytesOf fmt cs old).length = rowBytes fmt cs.length := by
  unfold bytesOf
  exact natBytes_length _ _

/-- A byte of a run lies in one of its lines. -/
theorem mem_linesOf {a n x : Nat} (h1 : a ≤ x) (h2 : x < a + n) : x / 256 ∈ linesOf a n := by
  unfold linesOf
  rw [if_neg (by omega)]
  refine List.mem_map.2 ⟨x / 256 - a / 256, List.mem_range.2 ?_, ?_⟩
  · have := Nat.div_le_div_right (c := 256) (show x ≤ a + n - 1 by omega)
    omega
  · have := Nat.div_le_div_right (c := 256) h1
    omega

/-- A row read from accessible scratchpad lines. -/
theorem Good.readRow {c n : Nat} {P : Nat → Prop} {Q : Option (Nat → Prop)} {s : State} {m : Mv} (h : Good c n P Q s m) (hs : s.SpSound c) {own : List Nat}
    {a fmt k : Nat} (hr : s.runFault c own a (rowBytes fmt k) = none) (last : Bool) :
    Good c n P Q s (m.readRow c 0 own last a fmt k).1 ∧
      (m.readRow c 0 own last a fmt k).2 = codesOf fmt k ((m.s.core c).spRead a (rowBytes fmt k)) := by
  have := h.readSp hs hr last
  exact ⟨this.1, by rw [Mv.readRow, Mv.read, if_pos rfl, this.2]⟩

/-- A row written to accessible scratchpad lines inside `P`. -/
theorem Good.writeRow {c n : Nat} {P : Nat → Prop} {Q : Option (Nat → Prop)} {s : State} {m : Mv} (h : Good c n P Q s m) {own : List Nat} {a fmt : Nat}
    {cs : List Nat} (hr : s.runFault c own a (rowBytes fmt cs.length) = none)
    (hP : ∀ x, x / 256 ∈ linesOf a (rowBytes fmt cs.length) → P x) : Good c n P Q s (m.writeRow c 0 own a fmt cs) := by
  unfold Mv.writeRow Mv.write
  rw [if_pos rfl]
  refine h.writeSp (by rw [bytesOf_length]; exact hr) (fun x h1 h2 => hP x (mem_linesOf h1 ?_))
  rw [bytesOf_length] at h2
  exact h2

/-- Raising flags and counting stay in the frame. -/
theorem Good.raise {c n : Nat} {P : Nat → Prop} {Q : Option (Nat → Prop)} {s : State} {m : Mv} (h : Good c n P Q s m) (stn : Nat) (f : Flags) :
    Good c n P Q s (m.mod (fun s => s.raise c stn f)) := h.mod (Frame.quiet rfl rfl rfl rfl rfl)

/-- A good movement ends with the stream done. -/
theorem Good.finish' {c n : Nat} {P : Nat → Prop} {Q : Option (Nat → Prop)} {s : State} {m : Mv} (h : Good c n P Q s m) :
    Streamed s { m.finish c n with hbm := s.hbm, glob := s.glob, fab := s.fab } c n P ∧ HbmRel Q s (m.finish c n) := by
  obtain ⟨h1, h2⟩ := h
  have e : m.finish c n = m.s.doneSlot c n := by unfold Mv.finish; rw [h1]
  have hc : (m.finish c n).core c = (m.s.core c).doneSlot n := by rw [e, State.doneSlot, State.core_modCore_self]
  refine ⟨⟨?_, ?_, ?_, ?_, ?_, ?_, ?_, ?_⟩, ?_⟩
  · rw [e]; exact h2.rest
  · intro d hd
    show (m.finish c n).core d = _
    rw [e, State.doneSlot, State.core_modCore, if_neg hd]
    exact h2.other d hd
  · show StationsOnly (s.core c) ((m.finish c n).core c)
    rw [hc]; exact h2.keep
  · intro j hj
    show ((m.finish c n).core c).slot j = _
    rw [hc, Core.doneSlot, Core.slot_modSlot, if_neg hj]
    exact h2.slot j hj
  · show (((m.finish c n).core c).slot n).desc = _
    rw [hc, Core.doneSlot, Core.slot_modSlot_self]
    exact h2.desc
  · show (((m.finish c n).core c).slot n).state = _
    rw [hc, Core.doneSlot, Core.slot_modSlot_self]
  · show (((m.finish c n).core c).slot n).done = _
    rw [hc, Core.doneSlot, Core.slot_modSlot_self]
  · intro a ha
    show memByte ((m.finish c n).core c).sp.mem a = _
    rw [hc]; exact h2.mem a ha
  · rw [e]; exact h2.hbm

theorem Good.finish {c n : Nat} {P : Nat → Prop} {s : State} {m : Mv} (h : Good c n P none s m) :
    Streamed s (m.finish c n) c n P := by
  obtain ⟨h1, h2, h3, h4⟩ := h.finish'
  have e : { m.finish c n with hbm := s.hbm, glob := s.glob, fab := s.fab } = m.finish c n := by rw [← h2, ← h3, ← h4]
  rw [e] at h1
  exact h1

theorem Good.finishH {c n : Nat} {P q : Nat → Prop} {s : State} {m : Mv} (h : Good c n P (some q) s m) :
    StreamedH s (m.finish c n) c n P q := h.finish'

/-- Acceptance notes the time only. -/
theorem accept_frame (s : State) (c n : Nat) (P : Nat → Prop) (Q : Option (Nat → Prop)) :
    Frame c n P Q s (s.modCore c (fun k => k.setSlot n { (s.core c).slot n with acceptedAt := s.mashOf c })) := by
  refine Frame.modCore rfl ?_ ?_ (fun _ => rfl) (fun _ h => h) (fun _ _ => rfl)
  · exact fun m hm => by rw [Core.slot_setSlot, if_neg hm]
  · rw [Core.slot_setSlot_self]

/-- A stream that its station can take is accepted. -/
theorem accept_runs {s : State} {c n : Nat} {mine : BitVec 256 → Bool} (hm : mine ((s.core c).slot n).desc = true)
    (ha : (s.core c).acceptable n = true) (f : State → Slot → State) :
    s.accept c n mine f =
      f (s.modCore c (fun k => k.setSlot n { (s.core c).slot n with acceptedAt := s.mashOf c })) ((s.core c).slot n) := by
  unfold State.accept
  simp [hm, ha]

/-- Filling lines inside `P` with free values stays in the frame. -/
theorem scramble_frame {c n : Nat} {P : Nat → Prop} {Q : Option (Nat → Prop)} (l : List Nat) (hP : ∀ x, x / 256 ∈ l → P x) (s : State) :
    Frame c n P Q s (s.scramble c l) := by
  induction l generalizing s with
  | nil => exact Frame.refl ..
  | cons a l ih =>
    refine Frame.trans ?_ (ih (fun x hx => hP x (by simp [hx])) _)
    have hw : Frame c n P Q { s with free := s.free + 1 }
        (({ s with free := s.free + 1 } : State).modCore c (fun k => k.spWrite (256 * a) (natBytes 256 (s.draw 2048).1.toNat))) := by
      refine Frame.spWrite (fun x h1 h2 => hP x ?_) id (fun k => ⟨rfl, rfl, rfl, rfl, rfl⟩)
      rw [natBytes_length] at h2
      have : x / 256 = a := by omega
      simp [this]
    have h0 : Frame c n P Q s { s with free := s.free + 1 } :=
      ⟨rfl, HbmRel.same rfl rfl rfl, fun _ _ => rfl, StationsOnly.refl _, fun _ _ => rfl, rfl, fun _ => rfl, fun _ h => h, fun _ _ => rfl⟩
    exact h0.trans hw

/-! ## HBM -/

theorem FMap.get_erase {α : Type} (d : α) (m : FMap α) (k j : Nat) :
    FMap.get d (FMap.erase m k) j = if j = k then d else FMap.get d m j := by
  induction m with
  | nil => simp [FMap.erase, FMap.get]
  | cons e m ih =>
    obtain ⟨i, v⟩ := e
    unfold FMap.erase at ih ⊢
    by_cases hik : i = k
    · rw [List.filter_cons_of_neg (by simp [hik]), ih]
      subst hik
      by_cases h : j = i
      · simp [h]
      · simp [h, FMap.get, Ne.symm h]
    · rw [List.filter_cons_of_pos (by simp [hik])]
      by_cases h : i = j
      · subst h; simp [FMap.get, hik]
      · rw [FMap.get, if_neg h, FMap.get, if_neg h]; exact ih

/-- What the region table says of a run does not change in a movement. -/
theorem HbmMoved.checkRun {q : Nat → Prop} {s t : State} (h : HbmMoved q s t) (p : Nat) (w : Bool) (a k : Nat) :
    t.hbm.checkRun p w a k = s.hbm.checkRun p w a k := by
  have := congrArg (fun x : Hbm => x.checkRun p w a k) h.1
  exact this

theorem HbmMoved.stoppedIn {q : Nat → Prop} {s t : State} (h : HbmMoved q s t) (a k : Nat) :
    t.hbm.stoppedIn a k = s.hbm.stoppedIn a k := by
  have := congrArg (fun x : Hbm => x.stoppedIn a k) h.1
  exact this

theorem HbmMoved.mark {q : Nat → Prop} {s t : State} (h : HbmMoved q s t) {a : Nat} (hm : t.hbm.mark a = 2) : s.hbm.mark a = 2 := by
  have hs : t.hbm.stopped = s.hbm.stopped := by have := congrArg Hbm.stopped h.1; exact this
  unfold Hbm.mark at hm ⊢
  rw [h.key, hs] at hm
  cases hk : s.hbm.key a with
  | none => rw [hk] at hm; cases hm
  | some k =>
    rw [hk] at hm
    dsimp only at hm ⊢
    by_cases hc : (s.hbm.stopped.contains (k / stackBytes) || s.hbm.moved.contains (k / 64)) = true
    · rw [if_pos hc]
    · rw [if_neg hc]
      have hn : ¬ (s.hbm.stopped.contains (k / stackBytes) || t.hbm.moved.contains (k / 64)) = true := by
        simp only [Bool.or_eq_true, List.contains_iff_mem, not_or] at hc ⊢
        exact ⟨hc.1, fun h' => hc.2 (h.2.1.2 _ h')⟩
      rw [if_neg hn] at hm
      exact h.2.1.1 _ hm

theorem HbmMoved.badIn {q : Nat → Prop} {s t : State} (h : HbmMoved q s t) {a k : Nat} (hb : s.hbm.badIn a k = none) :
    t.hbm.badIn a k = none := by
  unfold Hbm.badIn at hb ⊢
  rw [List.find?_eq_none] at hb ⊢
  intro x hx hm
  exact hb x hx (decide_eq_true (h.mark (of_decide_eq_true hm)))

theorem Frame.hbmOk {c n : Nat} {P q : Nat → Prop} {s t : State} (h : Frame c n P (some q) s t) {w : Bool} {a k : Nat}
    (ok : s.HbmOk c w a k) : t.HbmOk c w a k := by
  have hb : t.bays = s.bays := by have := congrArg State.bays h.rest; exact this
  have hp : t.partOf c = s.partOf c := by simp only [State.partOf, State.partOfBay, State.bay, hb]
  obtain ⟨h1, h2, h3⟩ := ok
  refine ⟨?_, HbmMoved.badIn h.hbm h2, ?_⟩
  · rw [hp, HbmMoved.checkRun h.hbm]; exact h1
  · rw [HbmMoved.stoppedIn h.hbm]; exact h3

/-- Correcting the sectors of a run. -/
theorem fix_moved (h : Hbm) (a k : Nat) : { h.fix a k with bad := h.bad, ce := h.ce } = h ∧
    ∀ j, (h.fix a k).bad.get 0 j = 2 → h.bad.get 0 j = 2 := by
  unfold Hbm.fix
  generalize sectorsOf a k = l
  induction l generalizing h with
  | nil => exact ⟨rfl, fun _ h => h⟩
  | cons x l ih =>
    rw [List.foldl_cons]
    split
    · next kk _ =>
      split
      · obtain ⟨i1, i2⟩ := ih { h with
          bad := h.bad.erase (kk / 64)
          ce := h.ce.set (kk / stackBytes) (satAdd 32 (h.ce.get 0 (kk / stackBytes)) 1) }
        refine ⟨?_, fun j hj => ?_⟩
        · have := congrArg (fun y : Hbm => { y with bad := h.bad, ce := h.ce }) i1
          exact this
        · have := i2 j hj
          rw [FMap.get_erase] at this
          split at this
          · cases this
          · exact this
      · exact ih h
    · exact ih h

/-- The bytes of a write lie in `q`, and it changes nothing else. -/
theorem writeBytes_moved {q : Nat → Prop} (bs : List Byte) : ∀ (h : Hbm) (a : Nat), (∀ i, i < bs.length → q (a + i)) →
    { h.writeBytes a bs with mem := h.mem } = h ∧
    ∀ x, (∀ b, q b → h.key b ≠ some x) → memByte (h.writeBytes a bs).mem x = memByte h.mem x := by
  induction bs with
  | nil => exact fun h a _ => ⟨rfl, fun _ _ => rfl⟩
  | cons b bs ih =>
    intro h a hq
    have hq' : ∀ i, i < bs.length → q (a + 1 + i) := fun i hi => by
      have := hq (i + 1) (by simp; omega)
      rwa [show a + 1 + i = a + (i + 1) by omega]
    unfold Hbm.writeBytes
    split
    · next k hk =>
      split
      · obtain ⟨i1, i3⟩ := ih { h with mem := memWrite h.mem k [b] } (a + 1) hq'
        refine ⟨congrArg (fun y : Hbm => { y with mem := h.mem }) i1, fun x hx => (i3 x hx).trans ?_⟩
        have hne : x ≠ k := by
          intro he
          have h0 := hx a (by simpa using hq 0 (by simp))
          rw [hk, he] at h0
          exact h0 rfl
        show memByte (memWrite h.mem k [b]) x = _
        rw [memByte_memWrite, if_neg (by simp; omega)]
      · exact ih h (a + 1) hq'
    · exact ih h (a + 1) hq'
/-- Forming the codes of sectors marks no sector. -/
theorem seal_marks (a n : Nat) (l : List Nat) : ∀ h : Hbm,
    (∀ j, (l.foldl (Hbm.sealOne a n) h).bad.get 0 j = 2 → h.bad.get 0 j = 2) ∧ ∀ j ∈ (l.foldl (Hbm.sealOne a n) h).moved, j ∈ h.moved := by
  induction l with
  | nil => exact fun h => ⟨fun _ h => h, fun _ h => h⟩
  | cons x l ih =>
    intro h
    rw [List.foldl_cons]
    obtain ⟨i1, i2⟩ := ih (Hbm.sealOne a n h x)
    have one : (∀ j, (Hbm.sealOne a n h x).bad.get 0 j = 2 → h.bad.get 0 j = 2) ∧ ∀ j ∈ (Hbm.sealOne a n h x).moved, j ∈ h.moved := by
      unfold Hbm.sealOne
      split
      · split
        · exact ⟨fun _ h => h, fun _ h => h⟩
        · split
          · refine ⟨fun j hj => ?_, fun j hj => (List.mem_filter.1 hj).1⟩
            dsimp only at hj
            rw [FMap.get_erase] at hj
            split at hj
            · cases hj
            · exact hj
          · split <;> exact ⟨fun _ h => h, fun _ h => h⟩
      · exact ⟨fun _ h => h, fun _ h => h⟩
    exact ⟨fun j hj => one.1 j (i1 j hj), fun j hj => one.2 j (i2 j hj)⟩
/-- Writing HBM bytes of `q`. -/
theorem write_moved {q : Nat → Prop} (bs : List Byte) (h : Hbm) (a : Nat) (hq : ∀ i, i < bs.length → q (a + i)) :
    { h.write a bs with mem := h.mem, bad := h.bad, home := h.home, moved := h.moved } = h ∧
    ((∀ j, (h.write a bs).bad.get 0 j = 2 → h.bad.get 0 j = 2) ∧ ∀ j ∈ (h.write a bs).moved, j ∈ h.moved) ∧
    ∀ x, (∀ b, q b → h.key b ≠ some x) → memByte (h.write a bs).mem x = memByte h.mem x := by
  obtain ⟨w1, w2⟩ := writeBytes_moved bs h a hq
  have hs := Hbm.seal_same a bs.length (sectorsOf a bs.length) (h.writeBytes a bs)
  have hm := seal_marks a bs.length (sectorsOf a bs.length) (h.writeBytes a bs)
  have hb : (h.writeBytes a bs).bad = h.bad := by have := congrArg Hbm.bad w1; exact this
  have hv : (h.writeBytes a bs).moved = h.moved := by have := congrArg Hbm.moved w1; exact this
  rw [hb, hv] at hm
  refine ⟨?_, hm, fun x hx => by rw [Hbm.write_mem]; exact w2 x hx⟩
  have h1 := congrArg (fun y : Hbm => { y with mem := h.mem, bad := h.bad, home := h.home, moved := h.moved }) hs
  have h2 := congrArg (fun y : Hbm => { y with bad := h.bad, home := h.home, moved := h.moved }) w1
  exact h1.trans h2

/-- A change of the accounts and of the fabric's byte counts stays in the frame. -/
theorem Frame.counts {c n : Nat} {P q : Nat → Prop} {s t : State} (r : { t with glob := s.glob, fab := s.fab } = s)
    (g : { t.glob with acctHbm := s.glob.acctHbm, acct := s.glob.acct } = s.glob) (f : { t.fab with bytes := s.fab.bytes } = s.fab) :
    Frame c n P (some q) s t := by
  have hc : t.cores = s.cores := by have := congrArg State.cores r; exact this
  have hh : t.hbm = s.hbm := by have := congrArg State.hbm r; exact this
  have hr : { t with cores := s.cores, free := s.free, hbm := s.hbm, glob := s.glob, fab := s.fab } = s := by
    have := congrArg (fun x : State => { x with cores := s.cores, free := s.free, hbm := s.hbm }) r
    exact this
  have hk : ∀ d, t.core d = s.core d := fun d => by rw [State.core, State.core, hc]
  refine ⟨hr, ⟨by rw [hh], by rw [hh]; exact ⟨fun _ h => h, fun _ h => h⟩, by rw [hh]; exact fun _ _ => rfl, g, f⟩, fun d _ => hk d, ?_, ?_, ?_, ?_, ?_, ?_⟩
  all_goals rw [hk c]
  · exact StationsOnly.refl _
  · exact fun _ _ => rfl
  · exact fun _ => rfl
  · exact fun _ h => h
  · exact fun _ _ => rfl
/-- Counting moved bytes stays in the frame. -/
theorem Frame.acctHbm (c n : Nat) (P q : Nat → Prop) (s : State) (bytes : Nat) : Frame c n P (some q) s (s.acctHbm c bytes) :=
  Frame.counts rfl rfl rfl
/-- Counting the bytes of flits stays in the frame. -/
theorem Frame.across (c n : Nat) (P q : Nat → Prop) (s : State) (e : Ends) (k : Nat) : Frame c n P (some q) s (s.across e k) := by
  unfold State.across State.fabBytes
  split
  · exact Frame.refl ..
  · split
    · exact Frame.refl ..
    · exact Frame.counts rfl rfl rfl
/-- The flits of a memory access over the fabric stay in the frame. -/
theorem Frame.farAccess (c n : Nat) (P q : Nat → Prop) (s : State) (a k : Nat) : Frame c n P (some q) s (s.farAccess c a k) := by
  unfold State.farAccess
  dsimp only
  generalize (s.farDies c a k).eraseDups = l
  generalize s.farDies c a k = far
  generalize s.partOf c = p
  induction l generalizing s with
  | nil => exact Frame.refl ..
  | cons d l ih => exact ((Frame.across ..).trans (Frame.across ..)).trans (ih _)

/-- An HBM read of an accessible run goes on, stays in the frame and answers the bytes. -/
theorem Good.readHbm {c n : Nat} {P q : Nat → Prop} {s : State} {m : Mv} (h : Good c n P (some q) s m) {w : Bool} {a k : Nat}
    (ok : s.HbmOk c w a k) (hw : w = false) :
    Good c n P (some q) s (m.readHbm c a k).1 ∧ (m.readHbm c a k).2 = m.s.hbm.read a k := by
  subst hw
  obtain ⟨h1, h2⟩ := h
  obtain ⟨o1, o2, o3⟩ := h2.hbmOk ok
  have e : m.readHbmRaw c a k = ({ m with s := m.s.modHbm (fun h => h.fix a k) }, m.s.hbm.read a k) := by
    unfold Mv.readHbmRaw
    rw [h1]
    dsimp only
    rw [o1]
    dsimp only
    rw [o2]
  unfold Mv.readHbm
  rw [e]
  refine ⟨?_, rfl⟩
  have g : Good c n P (some q) s { m with s := m.s.modHbm (fun h => h.fix a k) } := by
    refine ⟨h1, h2.trans ⟨rfl, ?_, fun _ _ => rfl, StationsOnly.refl _, fun _ _ => rfl, rfl, fun _ => rfl, fun _ h => h, fun _ _ => rfl⟩⟩
    obtain ⟨f1, f2⟩ := fix_moved m.s.hbm a k
    refine ⟨?_, ⟨f2, fun j hj => ?_⟩, ?_, rfl, rfl⟩
    · have := congrArg (fun y : Hbm => { y with mem := m.s.hbm.mem, home := m.s.hbm.home, moved := m.s.hbm.moved }) f1
      exact this
    · have e : (m.s.hbm.fix a k).moved = m.s.hbm.moved := by have := congrArg Hbm.moved f1; exact this
      exact e ▸ hj
    · have : (m.s.hbm.fix a k).mem = m.s.hbm.mem := by have := congrArg Hbm.mem f1; exact this
      exact fun x _ => congrArg (fun y : Memory => memByte y x) this
  exact g.mod ((Frame.acctHbm ..).trans (Frame.farAccess ..))

/-- Writing HBM bytes of `q` stays in the frame. -/
theorem Frame.hbmWrite {c n : Nat} {P q : Nat → Prop} (s : State) {a : Nat} {bs : List Byte} (hq : ∀ i, i < bs.length → q (a + i)) :
    Frame c n P (some q) s (s.modHbm (fun h => h.write a bs)) := by
  obtain ⟨w1, w2, w3⟩ := write_moved bs s.hbm a hq
  refine ⟨rfl, ⟨?_, w2, w3, rfl, rfl⟩, fun _ _ => rfl, StationsOnly.refl _, fun _ _ => rfl, rfl, fun _ => rfl, fun _ h => h, fun _ _ => rfl⟩
  have := congrArg (fun y : Hbm => { y with ce := s.hbm.ce }) w1
  exact this
/-- Writing some of the bytes of `q`, one by one, stays in the frame. -/
theorem Frame.hbmWrites {c n : Nat} {P q : Nat → Prop} {a : Nat} (l : List (Byte × Nat)) (hq : ∀ e ∈ l, q (a + e.2)) (s : State) :
    Frame c n P (some q) s (s.modHbm (fun h => l.foldl (fun h e => h.write (a + e.2) [e.1]) h)) := by
  induction l generalizing s with
  | nil => exact Frame.refl ..
  | cons e l ih =>
    have h1 : Frame c n P (some q) s (s.modHbm (fun h => h.write (a + e.2) [e.1])) := Frame.hbmWrite s (fun i hi => by
      have : i = 0 := by simpa using hi
      subst this
      simpa using hq e (by simp))
    exact h1.trans (ih (fun x hx => hq x (by simp [hx])) (s.modHbm (fun h => h.write (a + e.2) [e.1])))
/-- An HBM write of an accessible run inside `q` goes on and stays in the frame. -/
theorem Good.writeHbm {c n : Nat} {P q : Nat → Prop} {s : State} {m : Mv} (h : Good c n P (some q) s m) {a : Nat} {bs : List Byte}
    (ok : s.HbmOk c true a bs.length) (hq : ∀ i, i < bs.length → q (a + i)) : Good c n P (some q) s (m.writeHbm c a bs) := by
  refine h.andThen (fun t ht => ?_)
  obtain ⟨o1, _, o3⟩ := ht.hbmOk ok
  rw [o1]
  dsimp only
  rw [o3]
  dsimp only
  split
  · refine ⟨rfl, (ht.trans (Frame.hbmWrites _ (fun e he => hq e.2 ?_) t)).trans ((Frame.acctHbm ..).trans (Frame.farAccess ..))⟩
    have hm := (List.mem_filter.1 he).1
    have := (List.mem_zipIdx hm).2.1
    omega
  · exact ⟨rfl, (ht.trans (Frame.hbmWrite t hq)).trans ((Frame.acctHbm ..).trans (Frame.farAccess ..))⟩

/-- A read of an accessible run in either space. -/
theorem Good.read {c n : Nat} {P q : Nat → Prop} {s : State} {m : Mv} (h : Good c n P (some q) s m) (hs : s.SpSound c) {space a k : Nat}
    (ok : s.RunOk c space false a k) (last : Bool) : Good c n P (some q) s (m.read c space [] last a k).1 := by
  unfold Mv.read
  unfold State.RunOk at ok
  by_cases h0 : space = 0
  · rw [if_pos h0] at ok ⊢; exact (h.readSp hs ok last).1
  · rw [if_neg h0] at ok ⊢; exact (h.readHbm ok rfl).1

/-- A row with its scale row read from accessible runs in either space. -/
theorem Good.readRowMx {c n : Nat} {P q : Nat → Prop} {s : State} {m : Mv} (h : Good c n P (some q) s m) (hs : s.SpSound c)
    {space base str fmt cols rows aux scStr i : Nat} (ok : s.OperandOk c space false base str fmt cols rows aux scStr) (hi : i < rows)
    (last : Bool) :
    Good c n P (some q) s (m.readRowMx c space [] last (rowAddr space base str i) fmt cols (scaleAddr space aux scStr i)).1 := by
  obtain ⟨o1, o2⟩ := ok i hi
  have g : Good c n P (some q) s (m.readRow c space [] last (rowAddr space base str i) fmt cols).1 := h.read hs o1 last
  unfold Mv.readRowMx
  by_cases hm : isMx fmt = true
  · rw [if_pos hm]; exact g.read hs (o2 hm) last
  · rw [if_neg hm]; exact g

end Sys2Proof.Machine
end

