-- ==== Sys2Proof/Laws/Kettle.lean ====
section
/-! SUPPORT. When a VECTOR stream runs to its end: the acceptance, the operand block, and the rows of the operations. -/

namespace Sys2Proof.Machine

open Sys2Proof

/-- A core as acceptance leaves it reads the same scratchpad. -/
theorem accept_spRead (s : State) (c n : Nat) (x : Slot) (a k : Nat) :
    ((s.modCore c (fun k => k.setSlot n x)).core c).spRead a k = (s.core c).spRead a k := by
  rw [State.core_modCore_self]; rfl

theorem accept_path (s : State) (c n : Nat) (x : Slot) (st : Nat) :
    ((s.modCore c (fun k => k.setSlot n x)).core c).path st = (s.core c).path st := by
  rw [State.core_modCore_self]; rfl

/-- The slot of an accepted VECTOR: it keeps the seed and the step of its random numbers (R174, R189). -/
def Core.kettleSlot (k : Core) (mash : Nat) (x : Slot) : Slot :=
  { x with acceptedAt := mash, seed := k.vec.seed, kStep := k.vec.step }

/-- The operand block is read and kept, without a stop, where it is accessible and has no defect. -/
theorem readBlock_ok {c n kop aux : Nat} {P : Nat → Prop} {s : State} {m : Mv} (h : Good c n P none s m) (hs : s.SpSound c)
    (hB : kUsesBlock kop = true → s.runFault c [] (256 * aux) 256 = none ∧ blockBad kop (blockOf ((m.s.core c).spRead (256 * aux) 256)) = false) :
    Good c n P none s (m.readBlock c kop aux) ∧ ∃ b : List Byte, (m.readBlock c kop aux).s =
      (if kUsesBlock kop then (m.readSp c [] false (256 * aux) 256).1.s.modCore c (fun k => { k with vec := { k.vec with block := b } }) else m.s) ∧
      (kUsesBlock kop = true → b = (m.s.core c).spRead (256 * aux) 256) := by
  unfold Mv.readBlock
  by_cases hu : kUsesBlock kop = true
  · obtain ⟨hr, hbad⟩ := hB hu
    obtain ⟨g1, g2⟩ := h.readSp hs hr false
    simp only [if_pos hu]
    rw [g2, hbad]
    have e : ((m.readSp c [] false (256 * aux) 256).1.andThen (fun s =>
        if false = true then ({ s := s, stop := some (codeKettleOpnd, aux) } : Mv)
        else { s := s.modCore c (fun k => { k with vec := { k.vec with block := (m.s.core c).spRead (256 * aux) 256 } }) })).s =
        (m.readSp c [] false (256 * aux) 256).1.s.modCore c
          (fun k => { k with vec := { k.vec with block := (m.s.core c).spRead (256 * aux) 256 } }) := by
      unfold Mv.andThen
      rw [g1.1]
      rfl
    refine ⟨g1.andThen (fun t ht => ?_), _, e, fun _ => rfl⟩
    rw [if_neg (by simp)]
    exact ⟨rfl, ht.trans (Frame.quiet
      (f := fun k => { k with vec := { k.vec with block := (m.s.core c).spRead (256 * aux) 256 } }) rfl rfl rfl rfl rfl)⟩
  · simp only [if_neg hu]
    exact ⟨h, [], trivial, fun h => absurd h hu⟩

/-- A read of accessible lines keeps slots, paths and the random numbers' seed and step. -/
theorem readSp_keeps {c n : Nat} {P : Nat → Prop} {Q : Option (Nat → Prop)} {s : State} {m : Mv} (h : Good c n P Q s m) (hs : s.SpSound c)
    {a k : Nat} (hr : s.runFault c [] a k = none) :
    let t := (m.readSp c [] false a k).1.s
    (t.core c).slots = (m.s.core c).slots ∧ (t.core c).direct = (m.s.core c).direct ∧ (t.core c).vec = (m.s.core c).vec := by
  obtain ⟨h1, h2⟩ := h
  have e : (m.readSp c [] false a k).1.s = m.s.modCore c (fun k' => k'.spFix a k) := by
    unfold Mv.readSp
    rw [h1]
    dsimp only
    rw [h2.runFault, hr]
    dsimp only
    rw [if_neg (by rw [(h2.sound hs).spBad]; simp)]
    rfl
  dsimp only
  rw [e, State.core_modCore_self]
  unfold Core.spFix
  dsimp only
  split <;> exact ⟨rfl, rfl, rfl⟩

/-- A step KOP with FP32 weights is not refused for its format (R258). -/
theorem kettleStart_eq {s : State} {c n kop : Nat} {x : Slot} (h : 0x0060 ≤ kop → dSfmt x.desc = 0) :
    s.kettleStart c n kop x = (({ s := s } : Mv).readBlock c kop x.auxBase).mod (fun s =>
      s.modCore c (fun k => k.modSlot n (fun y => { y with seed := k.vec.seed, kStep := k.vec.step }))) := by
  unfold State.kettleStart
  dsimp only
  by_cases h6 : 0x0060 ≤ kop
  · rw [h h6]; simp
  · simp [h6]

/-- A VECTOR that Kettle takes, whose body moves its rows without a stop, runs to its end. -/
theorem kettleRun_ok {s : State} {r : StreamRef} {kop bytes : Nat} {P : Nat → Prop} {outs ins : BitVec 256 → Slot → List KRegion}
    {body : State → Slot → KBlock → Mv} (h : s.KettleReady r.core.val r.slot.val kop bytes)
    (h60 : 0x0060 ≤ kop → dSfmt ((s.core r.core.val).slot r.slot.val).desc = 0) :
    let c := r.core.val
    let n := r.slot.val
    let y := (s.core c).kettleSlot (s.mashOf c) ((s.core c).slot n)
    let d := ((s.core c).slot n).desc
    let b := (s.core c).kblock kop ((s.core c).slot n)
    (hb : ∀ t, Frame c n P none s t → Good c n P none s (body t y b)) →
    (hP : ∀ a, a / 256 ∈ overlapLines (dTiles d * dRows d) (dTiles d * dRows d) (outs d y ++ oRegions kop b (dCols d) true)
      (ins d y ++ oRegions kop b (dCols d) false) → P a) →
    Streamed s (s.kettleRun r kop outs ins body) c n P := by
  obtain ⟨hk, hv, ha, hs, hA, hB⟩ := h
  generalize hc : r.core.val = c at *
  generalize hn : r.slot.val = n at *
  generalize hx : (s.core c).slot n = x at *
  dsimp only
  intro hb hP
  rw [hx] at hb hP
  have f0 : Frame c n P none s (s.modCore c (fun k => k.setSlot n { (s.core c).slot n with acceptedAt := s.mashOf c })) := accept_frame s c n P none
  have hq : x.state = .queued := by
    unfold Core.acceptable at ha
    rw [hx] at ha
    simp only [Bool.and_eq_true, decide_eq_true_eq] at ha
    exact ha.1.1
  unfold State.kettleRun State.pathRun
  dsimp only
  rw [hc, hn, hx, if_neg (by simp [hq]), accept_runs (by rw [hx]; simp [hk, hv]) ha, hx]
  generalize hs1 : (s.modCore c (fun k => k.setSlot n { x with acceptedAt := s.mashOf c })) = s1
  rw [hx, hs1] at f0
  have hcore : s1.core c = (s.core c).setSlot n { x with acceptedAt := s.mashOf c } := by rw [← hs1, State.core_modCore_self]
  have hbl : blockOf ((s1.core c).spRead (256 * x.auxBase) 256) = blockOf ((s.core c).spRead (256 * x.auxBase) 256) := by rw [hcore]; rfl
  obtain ⟨g1, bb, g2, g3⟩ := readBlock_ok (m := { s := s1 }) (kop := kop) (aux := x.auxBase) ⟨rfl, f0⟩ hs (fun hu => by
    obtain ⟨hr, hbad⟩ := hB hu
    rw [Core.kblock, if_pos hu] at hbad
    exact ⟨hr, by rw [hbl]; exact hbad⟩)
  -- the state after acceptance
  have keep : let t := (({ s := s1 } : Mv).readBlock c kop x.auxBase).s
      (t.core c).slots = (s1.core c).slots ∧ (t.core c).direct = (s1.core c).direct ∧ (t.core c).vec.seed = (s1.core c).vec.seed ∧
        (t.core c).vec.step = (s1.core c).vec.step ∧ (t.core c).kBlock kop = (s.core c).kblock kop x := by
    dsimp only
    rw [g2]
    unfold Core.kBlock Core.kblock
    by_cases hu : kUsesBlock kop = true
    · obtain ⟨k1, k2, k3⟩ := readSp_keeps (m := { s := s1 }) (c := c) (n := n) (P := P) (Q := none) (s := s) ⟨rfl, f0⟩ hs (hB hu).1
      simp only [if_pos hu, State.core_modCore_self]
      refine ⟨k1, k2, ?_, ?_, ?_⟩
      · exact congrArg Vec.seed k3
      · exact congrArg Vec.step k3
      · rw [g3 hu]; exact hbl
    · simp only [if_neg hu]
      exact ⟨trivial, trivial, trivial, trivial, trivial⟩
  rw [kettleStart_eq h60]
  generalize hm : (({ s := s1 } : Mv).readBlock c kop x.auxBase) = m at *
  obtain ⟨k1, k2, k3, k4, k5⟩ := keep
  have g4 : Good c n P none s (m.mod (fun s => s.modCore c (fun k => k.modSlot n (fun y => { y with seed := k.vec.seed, kStep := k.vec.step })))) := by
    refine g1.mod (Frame.modCore rfl (fun j hj => ?_) ?_ (fun _ => rfl) (fun _ h => h) (fun _ _ => rfl))
    · rw [Core.slot_modSlot, if_neg hj]
    · rw [Core.slot_modSlot_self]
  have e4 : (m.mod (fun s => s.modCore c (fun k => k.modSlot n (fun y => { y with seed := k.vec.seed, kStep := k.vec.step })))).s =
      m.s.modCore c (fun k => k.modSlot n (fun y => { y with seed := k.vec.seed, kStep := k.vec.step })) := by
    unfold Mv.mod; rw [g1.1]
  rw [g4.1]
  dsimp only
  rw [e4]
  generalize hu : m.s.modCore c (fun k => k.modSlot n (fun y => { y with seed := k.vec.seed, kStep := k.vec.step })) = u
  have f4 : Frame c n P none s u := by have := g4.2; rwa [e4, hu] at this
  have hslot : (u.core c).slot n = (s.core c).kettleSlot (s.mashOf c) x := by
    rw [← hu, State.core_modCore_self, Core.slot_modSlot_self, k3, k4, Core.slot_congr k1, hcore, Core.slot_setSlot_self]
    rfl
  have hpath : (u.core c).path 4 = (s.core c).path 4 := by
    rw [← hu, State.core_modCore_self]
    show FMap.get _ (m.s.core c).direct 4 = _
    rw [k2, hcore]
    rfl
  have hblock : (u.core c).kBlock kop = (s.core c).kblock kop x := by
    rw [← hu, State.core_modCore_self, ← k5]
    rfl
  have hd : ((s.core c).kettleSlot (s.mashOf c) x).desc = x.desc := rfl
  rw [hslot, hd, hblock]
  have hmis : (u.core c).pathMismatch 4 x.desc = false := by
    rw [Core.pathMismatch, Core.pathFree, hpath]
    rcases hA with hA | hA
    · simp [hA.1]
    · simp [hA.2.2]
  have hin : (decide (dSspace x.desc ≠ 3) || (u.core c).pathHas 4 (dElems x.desc)) = true := by
    rcases hA with hA | hA
    · simp [hA.1]
    · rw [Core.pathHas, hpath, decide_eq_true hA.2.1, Bool.or_true]
  rw [if_neg (by rw [hmis]; simp), if_pos hin]
  have hbody := hb u f4
  generalize body u ((s.core c).kettleSlot (s.mashOf c) x) ((s.core c).kblock kop x) = w at hbody
  unfold State.kettleEnd
  dsimp only
  rw [hbody.1, hd]
  exact Good.finish (Good.mod (m := { s := w.s.scramble c _, stop := none, tiles := w.tiles, rows := w.rows })
    ⟨rfl, hbody.2.trans (scramble_frame _ hP _)⟩ (Frame.quiet rfl rfl rfl rfl rfl))

/-- Reading a row of input A. -/
theorem Good.readA {c n : Nat} {P : Nat → Prop} {s : State} {m : Mv} (h : Good c n P none s m) (hs : s.SpSound c) {x : Slot} {i : Nat}
    (hr : dSspace x.desc = 3 ∨
      s.runFault c [] (rowAddr 0 x.srcBase (dSstr x.desc) i) (rowBytes (dSfmt x.desc) (dCols x.desc)) = none) :
    Good c n P none s (m.readA c x i).1 := by
  unfold Mv.readA
  dsimp only
  by_cases h3 : dSspace x.desc = 3
  · rw [if_pos h3]
    exact h.mod (Frame.quiet (s := m.s) (f := fun _ => ((m.s.core c).takePath 4 (dCols x.desc)).1) rfl rfl rfl rfl rfl)
  · rw [if_neg h3]
    exact (h.readRow hs (hr.resolve_left h3) _).1

/-- Reading a row of an O input. -/
theorem Good.readO {c n : Nat} {P : Nat → Prop} {s : State} {m : Mv} (h : Good c n P none s m) (hs : s.SpSound c) {b : KBlock}
    {j i cols rows : Nat} (hi : i < rows) (hr : s.ORowsOk c (b.entry j) cols rows) : Good c n P none s (m.readO c b j i cols).1 := by
  unfold Mv.readO
  split
  · next e he =>
    have : b.entry j = e := by rw [KBlock.entry, List.getD_eq_getElem?_getD, he]; rfl
    rw [this] at hr
    exact (h.readRow hs (hr i hi) false).1
  · exact h

/-- Writing a row of D. -/
theorem Good.writeD {c n : Nat} {P : Nat → Prop} {s : State} {m : Mv} (h : Good c n P none s m) {x : Slot} {i : Nat} {cs : List Nat}
    (hr : s.runFault c [] (rowAddr 0 x.dstBase (dDstr x.desc) i) (rowBytes (dDfmt x.desc) cs.length) = none)
    (hP : ∀ a, a / 256 ∈ linesOf (rowAddr 0 x.dstBase (dDstr x.desc) i) (rowBytes (dDfmt x.desc) cs.length) → P a) :
    Good c n P none s (m.writeD c x i cs) := h.writeRow hr hP

/-- Writing a row of an O output. -/
theorem Good.writeO {c n : Nat} {P : Nat → Prop} {s : State} {m : Mv} (h : Good c n P none s m) {b : KBlock} {j i : Nat} {cs : List Nat}
    {rows : Nat} (hi : i < rows) (hr : s.ORowsOk c (b.entry j) cs.length rows)
    (hP : ∀ a, InRows (b.entry j).line (b.entry j).str (rowBytes (b.entry j).fmt cs.length) rows a → P a) :
    Good c n P none s (m.writeO c b j i cs) := by
  unfold Mv.writeO
  split
  · next e he =>
    have : b.entry j = e := by rw [KBlock.entry, List.getD_eq_getElem?_getD, he]; rfl
    rw [this] at hr hP
    exact h.writeRow (hr i hi) (fun a ha => hP a ⟨i, hi, ha⟩)
  · exact h

/-- A row counted as begun or done keeps a movement good. -/
theorem Good.rowBegun {c n : Nat} {P : Nat → Prop} {Q : Option (Nat → Prop)} {s : State} {m : Mv} (h : Good c n P Q s m) :
    Good c n P Q s m.rowBegun := by
  unfold Mv.rowBegun
  obtain ⟨h1, h2⟩ := h
  rw [h1]
  exact ⟨rfl, h2⟩
theorem Good.rowDone {c n : Nat} {P : Nat → Prop} {Q : Option (Nat → Prop)} {s : State} {m : Mv} (h : Good c n P Q s m) (d : BitVec 256)
    (i : Nat) : Good c n P Q s (m.rowDone d i) := by
  unfold Mv.rowDone Mv.tile
  obtain ⟨h1, h2⟩ := h
  rw [h1]
  dsimp only
  split
  · exact ⟨rfl, h2⟩
  · exact ⟨h1, h2⟩

/-- Rows read first and written after: good when every read is good and every write of what a read gives is. -/
theorem Good.rowsThen {c n : Nat} {P : Nat → Prop} {Q : Option (Nat → Prop)} {s : State} {α : Type} (p : α → Prop) {d : BitVec 256}
    {rd : Mv → Nat → Mv × α} {wr : Mv → Nat → α → Mv} {m : Mv} (h : Good c n P Q s m)
    (hr : ∀ m i, i < dTiles d * dRows d → Good c n P Q s m → Good c n P Q s (rd m i).1 ∧ p (rd m i).2)
    (hw : ∀ m i v, i < dTiles d * dRows d → p v → Good c n P Q s m → Good c n P Q s (wr m i v)) :
    Good c n P Q s (m.rowsThen d rd wr) := by
  unfold Mv.rowsThen
  have key : ∀ (l : List Nat) (a : Mv × List α), (∀ i ∈ l, i < dTiles d * dRows d) → Good c n P Q s a.1 → (∀ v ∈ a.2, p v) →
      let q := l.foldl (fun (a : Mv × List α) i =>
        match a.1.stop with
        | some _ => a
        | none => let r := rd a.1 i; if r.1.stop.isSome then (r.1, a.2) else (r.1, a.2 ++ [r.2])) a
      Good c n P Q s q.1 ∧ (∀ v ∈ q.2, p v) ∧ q.2.length ≤ a.2.length + l.length := by
    intro l
    induction l with
    | nil => exact fun a _ h1 h2 => ⟨h1, h2, Nat.le_refl _⟩
    | cons i l ih =>
      intro a hl h1 h2
      simp only [List.foldl_cons]
      rw [h1.1]
      dsimp only
      obtain ⟨g1, g2⟩ := hr a.1 i (hl i (by simp)) h1
      have e : (rd a.1 i).1.stop.isSome = false := by rw [g1.1]; rfl
      rw [if_neg (by rw [e]; simp)]
      have := ih ((rd a.1 i).1, a.2 ++ [(rd a.1 i).2]) (fun j hj => hl j (by simp [hj])) g1 (by
        intro v hv
        rcases List.mem_append.1 hv with hv | hv
        · exact h2 v hv
        · rw [List.mem_singleton.1 hv]; exact g2)
      refine ⟨this.1, this.2.1, ?_⟩
      have h3 := this.2.2
      simp only [List.length_append, List.length_cons, List.length_nil] at h3 ⊢
      omega
  obtain ⟨k1, k2, k3⟩ := key (List.range (dTiles d * dRows d)) (m, []) (fun i hi => List.mem_range.1 hi) h (by simp)
  dsimp only at k1 k2 k3 ⊢
  generalize List.foldl _ (m, []) (List.range (dTiles d * dRows d)) = q at k1 k2 k3 ⊢
  simp only [List.length_nil, List.length_range, Nat.zero_add] at k3
  have w : Good c n P Q s (q.2.zipIdx.foldl (fun m p => (wr m.rowBegun p.2 p.1).rowDone d p.2) { q.1 with stop := none }) := by
    refine Good.foldl ⟨rfl, k1.2⟩ (fun m v hv hm => ?_)
    obtain ⟨v, i⟩ := v
    have hv' := List.mem_zipIdx' hv
    exact (hw m.rowBegun i v (Nat.lt_of_lt_of_le hv'.1 k3) (k2 _ (hv'.2 ▸ List.getElem_mem _)) hm.rowBegun).rowDone d i
  generalize List.foldl _ _ q.2.zipIdx = u at w ⊢
  rw [w.1]
  dsimp only
  rw [k1.1]
  exact ⟨rfl, w.2⟩

/-- An element-wise operation moves its rows without a stop. -/
theorem elemMove_ok {c n : Nat} {P : Nat → Prop} {s t : State} (ht : Frame c n P none s t) (hs : s.SpSound c) {x : Slot} {b : KBlock}
    {ra o1 o2 : Bool} (f : KElem → KOut)
    (hA : dSspace x.desc = 3 ∨
      s.RowsOk c [] x.srcBase (dSstr x.desc) (rowBytes (dSfmt x.desc) (dCols x.desc)) (dTiles x.desc * dRows x.desc))
    (h1 : o1 = true → s.ORowsOk c (b.entry 0) (dCols x.desc) (dTiles x.desc * dRows x.desc))
    (h2 : o2 = true → s.ORowsOk c (b.entry 1) (dCols x.desc) (dTiles x.desc * dRows x.desc))
    (hD : s.RowsOk c [] x.dstBase (dDstr x.desc) (rowBytes (dDfmt x.desc) (dCols x.desc)) (dTiles x.desc * dRows x.desc))
    (hP : ∀ a, InRows x.dstBase (dDstr x.desc) (rowBytes (dDfmt x.desc) (dCols x.desc)) (dTiles x.desc * dRows x.desc) a → P a) :
    Good c n P none s (t.elemMove c x b ra o1 o2 f) := by
  unfold State.elemMove
  refine Good.rowsThen (fun rs => rs.length = dCols x.desc) ⟨rfl, ht⟩ (fun m i hi hm => ?_) (fun m i rs hi hl hm => ?_)
  rotate_left
  · refine Good.writeD (hm.mod (by apply Frame.quiet <;> rfl)) ?_ ?_
    · simpa [hl] using hD i hi
    · intro a ha
      exact hP a ⟨i, hi, by simpa [hl] using ha⟩
  dsimp only
  have ga : Good c n P none s (if ra then m.readA c x i else (m, [])).1 := by
    split
    · exact hm.readA hs (hA.imp id (fun h => h i hi))
    · exact hm
  generalize (if ra then m.readA c x i else (m, [])) = qa at *
  have gb : Good c n P none s (if o1 then qa.1.readO c b 0 i (dCols x.desc) else (qa.1, [])).1 := by
    split
    · next h => exact ga.readO hs hi (h1 h)
    · exact ga
  generalize (if o1 then qa.1.readO c b 0 i (dCols x.desc) else (qa.1, [])) = qb at *
  have gc : Good c n P none s (if o2 then qb.1.readO c b 1 i (dCols x.desc) else (qb.1, [])).1 := by
    split
    · next h => exact gb.readO hs hi (h2 h)
    · exact gb
  generalize (if o2 then qb.1.readO c b 1 i (dCols x.desc) else (qb.1, [])) = qc at *
  exact ⟨gc, by simp⟩

/-- The lines of a region are those of its rows. -/
theorem mem_regionLines {o : KRegion} {rows l : Nat} (h : l ∈ o.lines rows) :
    ∃ i, i < rows ∧ l ∈ linesOf (rowAddr 0 o.base o.str i) o.bytes := by
  unfold KRegion.lines at h
  obtain ⟨i, hi, hl⟩ := List.mem_flatMap.1 h
  refine ⟨i, Nat.lt_of_lt_of_le (List.mem_range.1 hi) (by split <;> omega), ?_⟩
  have : rowAddr 0 o.base o.str i = 256 * (o.base + i * o.str) := by
    unfold rowAddr unitAddr unitStride
    simp only [if_true]
    ring
  rw [this]
  exact hl

/-- An overlapping line is a line of an output. -/
theorem mem_overlapLines {wrote rows l : Nat} {outs ins : List KRegion} (h : l ∈ overlapLines wrote rows outs ins) :
    ∃ o ∈ outs, ∃ i, i < wrote ∧ l ∈ linesOf (rowAddr 0 o.base o.str i) o.bytes := by
  unfold overlapLines at h
  rw [List.mem_dedup] at h
  obtain ⟨o, ho, h⟩ := List.mem_flatMap.1 h
  obtain ⟨i, _, h⟩ := List.mem_flatMap.1 h
  refine ⟨o, ho, mem_regionLines ?_⟩
  split at h
  · cases h
  · exact (List.mem_filter.1 h).1

end Sys2Proof.Machine
end

