-- ==== Sys2Proof/Laws/Links.lean ====
section
/-! SUPPORT. The checks that packets and frames carry: what an endpoint seals and what a port sends passes its check. -/

namespace Sys2Proof
open Sys2Proof.Machine

/-- A packet as its source endpoint forms it passes the check at its destination (R280). -/
@[simp] theorem Packet.ok_seal (k : Packet) (data : List Byte) : (k.seal data).ok data = true := by
  simp [Packet.ok, Packet.seal, Packet.crc, Packet.bits]

/-- The check does not depend on HOPS, which changes on the way (R289). -/
theorem Packet.ok_hops (k : Packet) (h : BitVec 2) (data : List Byte) : { k with hops := h }.ok data = k.ok data := rfl

/-- FCRC covers header bits [223:0] only. -/
theorem frameCrc_low (a c : Nat) (slots : List (BitVec 256)) (ha : a < 2 ^ 224) :
    frameCrc (BitVec.ofNat 256 (a + c * 2 ^ 224)) slots = frameCrc (BitVec.ofNat 256 a) slots := by
  have h1 : (a + c * 2 ^ 224) % 2 ^ 256 % 2 ^ 224 = a := by omega
  have h2 : a % 2 ^ 256 % 2 ^ 224 = a := by omega
  simp only [frameCrc, fld, BitVec.toNat_ofNat, Nat.shiftRight_zero, h1, h2]

/-- A frame whose header carries the FCRC of its other bits is a good frame once its codewords decode (R281). -/
theorem FrameIn.good_of_crc (a n : Nat) (slots : List (BitVec 256)) (ha : a < 2 ^ 224) :
    (⟨true, n, BitVec.ofNat 256 (a + (frameCrc (BitVec.ofNat 256 a) slots).toNat * 2 ^ 224), slots⟩ : FrameIn).good = true := by
  have hc := (frameCrc (BitVec.ofNat 256 a) slots).isLt
  simp only [FrameIn.good, frameCrc_low a _ slots ha, Bool.true_and, decide_eq_true_eq, fld, BitVec.toNat_ofNat,
    Nat.shiftRight_eq_div_pow]
  omega

/-- Its sequence number stands in the lowest 12 bits (Table 10.3). -/
theorem FrameIn.fseq_of_crc (d : Bool) (a c n : Nat) (slots : List (BitVec 256)) :
    (⟨d, n, BitVec.ofNat 256 (a + c * 2 ^ 224), slots⟩ : FrameIn).fseq = BitVec.ofNat 12 a := by
  apply BitVec.eq_of_toNat_eq
  simp only [FrameIn.fseq, fld, BitVec.toNat_ofNat, Nat.shiftRight_zero]
  omega

end Sys2Proof
end

