-- ==== Sys2Proof/Laws/Sequencer.lean ====
section
/-! SUPPORT. What running an instruction of a ready sequencer, stopping one with a fault, and using up a debug step can do. -/

namespace Sys2Proof.Machine

open Sys2Proof

/-- Using up a debug step changes that one bit of the core. -/
@[simp] theorem State.core_stepDone (s : State) (c : Nat) : (s.stepDone c).core c = (s.core c).stepUsed :=
  State.core_modCore_self s c _

theorem State.core_stepDone_ne (s : State) {c d : Nat} (h : d ≠ c) : (s.stepDone c).core d = s.core d := by
  rw [State.stepDone, State.core_modCore, if_neg h]

theorem State.stepDone_rest (s : State) (c : Nat) : { s.stepDone c with cores := s.cores } = s := rfl

/-- A ready sequencer runs its instruction. -/
theorem State.seqRun_ready {s : State} {c : CoreId} (h : s.Ready c) (f : State → State) :
    s.seqRun c.val f = f (s.stepDone c.val) := by
  rw [State.seqRun, State.seqTry, if_pos h.1, if_pos h.2]

/-- A sequencer that may not issue does nothing. -/
theorem State.seqRun_idle {s : State} {c : Nat} (h : (s.core c).canIssue = false) (f : State → State) : s.seqRun c f = s := by
  rw [State.seqRun, State.seqTry, h]; rfl

/-- An update of one core after the debug step leaves everything outside the core alone. -/
theorem onlyCore_modCore (s : State) (c : Nat) (f : Core → Core) : OnlyCore s ((s.stepDone c).modCore c f) c := by
  constructor
  · rfl
  · intro d hd
    rw [State.core_modCore, if_neg hd, State.core_stepDone_ne s hd]

/-- An update of one core leaves everything outside the core alone. -/
theorem onlyCore_setCore (s : State) (c : Nat) (k : Core) : OnlyCore s (s.setCore c k) c :=
  ⟨rfl, fun d hd => by rw [State.core_setCore, if_neg hd]⟩

/-- An instruction that changes only its own core runs its update there. -/
theorem State.scalarOp_ready {s : State} {c : CoreId} (h : s.Ready c) (f : Core → Core) :
    s.scalarOp c.val f = (s.stepDone c.val).modCore c.val (fun k => (f k).step8) := State.seqRun_ready h _

/-- Raising a report changes the two report queues only. -/
theorem State.report_rest (s : State) (r : Report) :
    { s.report r with reports := s.reports, saddleReports := s.saddleReports } = s := by
  unfold State.report
  split <;> rfl

theorem State.core_report (s : State) (r : Report) (c : Nat) : (s.report r).core c = s.core c := by
  unfold State.report
  split <;> rfl

theorem State.report_rest' (s u : State) (r : Report) :
    { s.report r with cores := u.cores, reports := u.reports, saddleReports := u.saddleReports } =
      { s with cores := u.cores, reports := u.reports, saddleReports := u.saddleReports } := by
  unfold State.report
  split <;> rfl

/-- Raising a report appends it to both queues, or to neither while a re-initialisation covers its place (R506, R510). -/
theorem seqReported_report (s u : State) (r : Report) (h1 : u.rst = s.rst) (h2 : u.reports = s.reports)
    (h3 : u.saddleReports = s.saddleReports) :
    if s.reinitCovers r then (u.report r).reports = s.reports ∧ (u.report r).saddleReports = s.saddleReports
    else (u.report r).reports = s.reports ++ [r] ∧ (u.report r).saddleReports = s.saddleReports ++ [r] := by
  have h : u.reinitCovers r = s.reinitCovers r := by unfold State.reinitCovers; rw [h1]
  unfold State.report
  rw [h]
  split <;> simp [h2, h3]

/-- A sequencer fault after the debug step is a stop of that sequencer (R95). -/
theorem seqFaulted_seqFaultAt (s : State) (c code detail addr : Nat) :
    SeqFaulted s ((s.stepDone c).seqFaultAt c code detail addr) c code := by
  have hc : ((s.stepDone c).seqFaultAt c code detail addr).core c =
      { (s.core c).stepUsed with seq := { (s.core c).stepUsed.seq with faulted := some code, stall := none } } := by
    rw [State.seqFaultAt, State.core_report, State.core_setCore_self, State.core_stepDone]
  refine ⟨by rw [hc], by rw [hc], by rw [hc]; rfl, ⟨⟨?_, ?_⟩, ?_⟩, ?_⟩
  · refine (State.report_rest' _ s _).trans ?_
    have h := congrArg (fun u : State => { u with reports := s.reports, saddleReports := s.saddleReports }) (State.stepDone_rest s c)
    exact h
  · intro d hd
    show ((s.stepDone c).seqFaultAt c code detail addr).core d = s.core d
    rw [State.seqFaultAt, State.core_report, State.core_setCore, if_neg hd, State.core_stepDone_ne s hd]
  · show { ((s.stepDone c).seqFaultAt c code detail addr).core c with seq := (s.core c).seq } = s.core c
    rw [hc]; rfl
  · refine ⟨{ (s.stepDone c).coreReport c code with
      pc := ((s.stepDone c).core c).seq.pc.toNat, detail := detail, addr := addr }, rfl, rfl, by rw [State.core_stepDone]; rfl, ?_⟩
    rw [State.seqFaultAt]
    exact seqReported_report s _ _ rfl rfl rfl

theorem seqFaulted_seqFault (s : State) (c code detail : Nat) : SeqFaulted s ((s.stepDone c).seqFault c code detail) c code :=
  seqFaulted_seqFaultAt s c code detail 0

/-- The core after an instruction that updates only its own core. -/
@[simp] theorem State.core_stepDone_modCore (s : State) (c : Nat) (f : Core → Core) :
    ((s.stepDone c).modCore c f).core c = f (s.core c).stepUsed := by
  rw [State.core_modCore_self, State.core_stepDone]


/-- A write of an s register changes the s registers only. -/
theorem Core.setS_eq (k : Core) (r : Nat) (v : Word) : ∃ m, k.setS r v = { k with seq := { k.seq with s := m } } := by
  unfold Core.setS
  split
  · exact ⟨k.seq.s, rfl⟩
  · exact ⟨_, rfl⟩

/-- Going to the next word changes nothing else. -/
theorem advanced_step8 (s : State) (c : Nat) : Advanced s ((s.stepDone c).modCore c (·.step8)) c := by
  refine ⟨⟨onlyCore_modCore _ _ _, ?_⟩, ?_, ?_⟩ <;> rw [State.core_stepDone_modCore] <;> rfl

/-- Stalling changes nothing else. -/
theorem stalls_setStall (s : State) (c : Nat) (w : Stall) : Stalls s ((s.stepDone c).modCore c (·.setStall (some w))) c w := by
  refine ⟨⟨onlyCore_modCore _ _ _, ?_⟩, ?_, ?_⟩ <;> rw [State.core_stepDone_modCore] <;> rfl

/-- Writing one s register and going on changes nothing else. -/
theorem wroteS_setS (s : State) (c : Nat) (rd : BitVec 5) (v : Core → Word) :
    SetsS s ((s.stepDone c).modCore c (fun k => (k.setS rd.toNat (v k)).step8)) c rd (v (s.core c).stepUsed) ∧
    WroteS s ((s.stepDone c).modCore c (fun k => (k.setS rd.toNat (v k)).step8)) c := by
  obtain ⟨m, hm⟩ := Core.setS_eq (s.core c).stepUsed rd.toNat (v (s.core c).stepUsed)
  refine ⟨?_, ⟨onlyCore_modCore _ _ _, ?_⟩, ?_, ?_⟩
  · intro r
    rw [State.core_stepDone_modCore, Core.s_step8, Core.s_setS, Core.s_stepUsed]
    by_cases h : r = rd.toNat <;> simp [h]
  all_goals rw [State.core_stepDone_modCore, hm]; rfl

end Sys2Proof.Machine
end

