-- ==== Sys2Proof/Tests/Slice0.lean ====
section
/-! SUPPORT. The model's own tests: the smoke test of well-formedness, instruction words written out from Table 3.3, single
steps with results taken from the spec, and for every statement with hypotheses a state that meets them. -/

namespace Sys2Proof.Tests

open Sys2Proof Sys2Proof.Machine

set_option Elab.async false

/-! ## Ill-formed commands -/

theorem test_wf_refuses_a_register_16 :
    (Instr.aadd 0 16 1 (.reg 0)).wf = false ∧ (Instr.aadd 0 1 16 (.reg 0)).wf = false ∧ (Instr.mova 0 16 1).wf = false ∧
    (Instr.movs 0 1 16).wf = false ∧ (Instr.lim 0 16 true 0).wf = false ∧ (Instr.lih 0 31 true 0).wf = false ∧
    (Instr.lim 0 16 false 0).wf = true ∧ (Instr.aadd 0 15 15 (.reg 0)).wf = true := by decide +kernel

theorem test_wf_refuses_reserved_cond_and_destination :
    (Instr.br 0 1 2 7 0).wf = false ∧ (Instr.br 0 1 2 6 0).wf = true ∧ (Instr.msg 0 4 3).wf = false ∧
    (Instr.msg 0 4 2).wf = true := by decide +kernel

/-- A packet header with the least in it. -/
def pkt : Packet := ⟨0, 0, 0, 0, 0, 0, 0, 0, 0, 0, 0, 0⟩
/-- An RHT datagram with nothing in it. -/
def gram0 : Datagram := ⟨0, 0, 0, [], true, true⟩

theorem test_wf_refuses_wrong_lengths :
    (Instr.dataPacket { pkt with nslot := 7 } 0 [[0]]).wf = false ∧ (Instr.dataPacket pkt 0 [List.replicate 256 0]).wf = false ∧
    (Instr.dataPacket { pkt with nslot := 7 } 0 [List.replicate 256 0]).wf = true ∧
    (Instr.dataPacket { pkt with pkind := 1, nslot := 7 } 0 [List.replicate 256 0]).wf = false ∧ (Instr.csrWrite gram0 0 []).wf = false ∧
    (Instr.csrWrite gram0 0 (List.replicate 65 0)).wf = false ∧ (Instr.csrRead gram0 0 0).wf = false ∧
    (Instr.csrRead gram0 0 65).wf = false ∧ (Instr.csrRead gram0 0 64).wf = true ∧ (Instr.pfcFrame 0 [1]).wf = false := by
  decide +kernel

theorem test_wf_refuses_misaligned_requests_and_frames :
    (Instr.hbmRequest ⟨.n1, 32, none⟩).wf = false ∧ (Instr.hbmRequest ⟨.n1, 64, some [0]⟩).wf = false ∧
    (Instr.hbmRequest ⟨.n1, 64, none⟩).wf = true ∧ (Instr.linkFrame 0 ⟨true, 32, 0, List.replicate 28 0⟩).wf = false ∧
    (Instr.linkFrame 0 ⟨true, 33, 0, List.replicate 29 0⟩).wf = false := by decide +kernel

/-! ## Instruction words from Tables 3.3 and 3.4 -/

theorem test_decode_format_a :
    decodeWord 0 0x0118420000000000 = some (.add 0 3 1 (.reg 2)) ∧ decodeWord 7 0x02FFA000FFFFFFFF = some (.sub 7 31 30 (.imm 0xFFFFFFFF)) ∧
    decodeWord 0 0x0F39850000000000 = some (.sltu 0 7 6 (.reg 5)) ∧ decodeWord 0 0x1078600000000008 = some (.aadd 0 15 1 (.imm 8)) ∧
    decodeWord 0 0x1115000000000000 = some (.mova 0 2 20) ∧ decodeWord 0 0x12A0800000000000 = some (.movs 0 20 2) := by decide +kernel

theorem test_decode_formats_l_and_b :
    decodeWord 0 0x1828000000000001 = some (.lim 0 5 false 1) ∧ decodeWord 0 0x182CFFFFFFFFFFFF = some (.lim 0 5 true 0xFFFFFFFFFFFF) ∧
    decodeWord 0 0x1928000000001234 = some (.lih 0 5 false 0x1234) ∧ decodeWord 0 0x2008A000FFFFFFFE = some (.br 0 1 2 4 0xFFFFFFFE) ∧
    decodeWord 0 0x2108000000000003 = some (.jal 0 1 3) ∧ decodeWord 0 0x22F8000000000000 = some (.jr 0 31) := by decide +kernel

theorem test_decode_formats_m_t_and_s :
    decodeWord 0 0x284F800000000008 = some (.lds 0 9 15 8) ∧ decodeWord 0 0x2BE08000FFFFFFE0 = some (.std 0 28 1 0xFFFFFFE0) ∧
    decodeWord 0 0x3000270000000009 = some (.waitt 0 7 (.imm 9)) ∧ decodeWord 0 0x3201010000000000 = some (.addt 0 1 (.reg 4)) ∧
    decodeWord 0 0x3318050000000000 = some (.rdt 0 3 5) ∧ decodeWord 0 0x3820848C00000000 = some (.stream 0 4 2 1 2 3) := by decide +kernel

theorem test_decode_format_c :
    decodeWord 0 0x2C40000000000000 = some (.mboxr 0 8) ∧ decodeWord 0 0x3400000000000081 = some (.fence 0 0x81) ∧
    decodeWord 0 0x3508800000000000 = some (.slotq 0 1 2) ∧ decodeWord 0 0x3A0000000000BEEF = some (.raise 0 0xBEEF) ∧
    decodeWord 0 0x3B00000000000000 = some (.kend 0) ∧ decodeWord 0 0x3C08000000000700 = some (.csrr 0 1 0x700) ∧
    decodeWord 0 0x3D00800000000700 = some (.csrw 0 2 0x700) ∧ decodeWord 0 0x3E40000200000000 = some (.msg 0 8 2) ∧
    decodeWord 0 0x3F0000000000CAFE = some (.sigchk 0 0xCAFE) ∧ decodeWord 0 0x3900000000000000 = some (.nop 0) := by decide +kernel

theorem test_decode_refuses :
    decodeWord 0 0x1080600000000008 = none ∧ decodeWord 0 0x2008B800FFFFFFFE = none ∧ decodeWord 0 0x3900000000000001 = none ∧
    decodeWord 0 0x4000000000000000 = none ∧ decodeWord 0 0x0118420000000001 = none ∧ decodeWord 0 0x3400000000000181 = none := by
  decide +kernel

/-! ## Small states -/

/-- A kernel on one core. -/
def kern : KernelRef := ⟨0, 1, 0, 1, false, false, 1⟩
/-- The state after reset with core 0 as given. -/
def one (k : Core) : State := { State.reset with cores := [(0, k)] }
/-- Core 0 runs a kernel of eight words with the sequencer given. -/
def run (q : Sequencer) : State := one { seq := { q with kernel := some kern, regionLen := 64 } }
/-- Core 0 runs a kernel and slot 0 holds a stream. -/
def slot0 (x : Slot) : State := one { slots := [(0, x)] }
/-- Slot 0 of core 0 holds a QUEUED stream. -/
def queued (d : BitVec 256) : Slot := { state := .queued, desc := d }

/-! ## Witnesses: the sequencer -/

theorem test_hyp_EmptyQueueAdvancesControlClock :
    State.reset.pending = [] ∧ ({ State.reset with bays := [(11, { state := .gated })] } : State).pending = [] ∧
    (({ State.reset with bays := [(11, { state := .gated })] } : State).bay 11).state ≠ .on := by decide +kernel

theorem test_hyp_StepKeepsMemoriesCanonical :
    (one { sp := { mem := [(0, 1), (33554431, 255)] } }).Canon ∧
    ∃ t, step (one { sp := { mem := [(0, 1), (33554431, 255)] } }) = .next t := by
  refine ⟨?_, _, rfl⟩
  unfold State.Canon
  decide +kernel

theorem test_hyp_DecodeOfEncodeIsTheInstruction :
    (Instr.add 359 31 31 (.imm 0xFFFFFFFF)).wf = true ∧
    encodeWord (.add 359 31 31 (.imm 0xFFFFFFFF)) = some 0x01FFE000FFFFFFFF ∧
    (Instr.add 359 31 31 (.imm 0xFFFFFFFF)).seqCore = some 359 := by decide +kernel

theorem test_hyp_IllegalWordsAreRefused :
    0x40 ≤ ((0x4000000000000000 : BitVec 64).extractLsb' 56 8).toNat ∧ decodeWord 0 0x3900000000000000 = some (.nop 0) := by
  decide +kernel

theorem test_hyp_sequencer_is_ready : (run {}).Ready 0 ∧ (run { pc := 56 }).Ready 0 ∧ (run { halted := true, stepOne := true }).Ready 0 := by
  unfold State.Ready
  decide +kernel

theorem test_hyp_ScalarArithmeticResult : (run {}).Ready 0 ∧ aluTable.length = 15 := by
  unfold State.Ready
  decide +kernel

theorem test_hyp_AddressRegisterAndImmediateResult : (run {}).Ready 0 ∧ aRegOk 15 = true ∧ aRegOk 0 = true := by
  unfold State.Ready
  decide +kernel

theorem test_hyp_BranchTargetAndConditions :
    (run { s := [(1, 1), (2, 1)] }).Ready 0 ∧ ((run { s := [(1, 1)] }).core 0).s 1 ≠ ((run { s := [(1, 1)] }).core 0).s 2 ∧
    ((run { s := [(1, 1), (2, 1)] }).core 0).s 1 = ((run { s := [(1, 1), (2, 1)] }).core 0).s 2 := by
  unfold State.Ready
  decide +kernel

theorem test_hyp_TakenBranchesFoldTheirTargetIntoSig : (run {}).Ready 0 ∧ (0 : BitVec 3).toNat ≠ 7 ∧ (6 : BitVec 3).toNat ≠ 7 := by
  unfold State.Ready
  decide +kernel

/-- a1 addresses the last aligned group of the scratchpad. -/
def top (a : Word) : State := run { a := [(1, a)] }

theorem test_hyp_scratchpad_accesses :
    (top 33554424).Ready 0 ∧ ((top 33554424).core 0).spAddr 1 0 = 33554424 ∧ (top 33554424).hotLine 0 131071 = false ∧
    ((top 33554424).core 0).guarded [] 131071 = false ∧ ((top 33554424).core 0).spBad 33554424 8 = false ∧
    ((top 33554400).core 0).spAddr 1 0 = 33554400 ∧ ((top 33554400).core 0).spBad 33554400 32 = false ∧
    ((top 0).core 0).spAddr 1 0 = 0 ∧ (top 0).hotLine 0 0 = false ∧ groupOk 4 = true ∧ groupOk 28 = true := by
  unfold State.Ready
  decide +kernel

theorem test_hyp_RefusedScratchpadAddressFaults :
    (top 0).Ready 0 ∧ ((top 33554432).core 0).spAddr 1 0 = 33554432 ∧ ((top 0).core 0).spAddr 1 4 = 4 ∧
    ((top 0).core 0).spAddr 1 8 % 32 = 8 ∧ groupOk 28 = true := by
  unfold State.Ready
  decide +kernel

theorem test_hyp_RegisterGroupsAreAligned :
    (run {}).Ready 0 ∧ (2 : BitVec 4).toNat < 3 ∧ groupOk 28 = true ∧ groupOk 0 = false ∧ groupOk 31 = false := by
  unfold State.Ready
  decide +kernel

theorem test_hyp_TokenInstructionResults :
    (run { t := [(7, 0xFFFFFFFF)] }).Ready 0 ∧
    (((run { t := [(7, 0xFFFFFFFE)] }).core 0).tok 7).toNat + (((run {}).core 0).tval (.imm 1)).toNat < 2 ^ 32 ∧
    2 ^ 32 ≤ (((run { t := [(7, 0xFFFFFFFF)] }).core 0).tok 7).toNat + (((run {}).core 0).tval (.imm 1)).toNat ∧
    (((run {}).core 0).tval (.imm 0)).toNat ≤ (((run {}).core 0).tok 0).toNat ∧
    (((run {}).core 0).tok 0).toNat < (((run {}).core 0).tval (.imm 1)).toNat := by
  unfold State.Ready
  decide +kernel

theorem test_hyp_MailboxReadTakesTheHead :
    (run { mbox := [7, 8] }).Ready 0 ∧ ((run { mbox := [7, 8] }).core 0).seq.mbox = 7 :: [8] ∧ ((run {}).core 0).seq.mbox = [] ∧
    groupOk 28 = true := by
  unfold State.Ready
  decide +kernel

/-- Core 0 runs a kernel with a LOAD in slot 63, QUEUED. -/
def busy : State := one { seq := { kernel := some kern, regionLen := 64 }, slots := [(63, queued 0)] }

theorem test_hyp_FenceSlotqRdcycNopYieldResults :
    busy.Ready 0 ∧ ((busy.core 0).slot 63).live = true ∧
    (1 : BitVec 8).getLsbD (stationOf (kindOf ((busy.core 0).slot 63).desc)) = true ∧
    (2 : BitVec 8).getLsbD (stationOf (kindOf ((busy.core 0).slot 63).desc)) = false ∧
    (run { preempt := true }).Ready 0 := by
  unfold State.Ready
  decide +kernel

theorem test_hyp_RaiseSigchkMsgResults :
    (run { sig := 5 }).Ready 0 ∧ (run {}).rst.running = [] ∧ ((run { sig := 5 }).core 0).seq.sig = 5 ∧
    ((run { outbound := List.replicate 7 (0, 1) }).core 0).seq.outbound.length < 8 ∧
    8 ≤ ((run { outbound := List.replicate 8 (0, 1) }).core 0).seq.outbound.length ∧ groupOk 4 = true ∧ (2 : BitVec 4).toNat < 3 ∧
    3 ≤ (3 : BitVec 4).toNat ∧ decodeWord 0 0 = none := by
  unfold State.Ready
  decide +kernel

theorem test_hyp_CsrAccessResults :
    (run {}).Ready 0 ∧ coreRegAt 0x0700 = some .srSeed ∧ (∀ e ∈ csrTable, coreRegAt e.1 = some e.2.1) ∧
    coreRegAt 0 = some .id ∧ CoreReg.id.readOnly = true ∧ coreRegAt 0x0FF8 = none ∧ coreRegAt 0x0704 = none := by
  unfold State.Ready
  decide +kernel

theorem test_hyp_EndFreesGatedStreamsAndReports :
    busy.Ready 0 ∧ (busy.core 0).anyLive = true ∧ (run {}).Ready 0 ∧ ((run {}).core 0).anyLive = false := by
  unfold State.Ready
  decide +kernel

/-- Core 0 runs a kernel with slots 0 to n − 1 QUEUED and the descriptor kind in s4. -/
def slotsUsed (n : Nat) (v : Word) : State :=
  one { seq := { kernel := some kern, regionLen := 64, s := [(4, v)] }, slots := (List.range n).map (fun i => (i, queued 0)) }

theorem test_hyp_StreamIssueTakesTheLowestFreeSlot :
    (slotsUsed 63 0).Ready 0 ∧ groupOk 4 = true ∧ 13 ≤ ((((slotsUsed 0 13).core 0).quad 4).extractLsb' 0 4).toNat ∧
    ((((slotsUsed 63 12).core 0).quad 4).extractLsb' 0 4).toNat < 13 ∧
    (∀ m, m < 64 → (((slotsUsed 64 0).core 0).slot m).state ≠ .free) ∧ (((slotsUsed 63 0).core 0).slot 63).state = .free ∧
    (∀ m, m < 63 → (((slotsUsed 63 0).core 0).slot m).state ≠ .free) ∧ dSspace (((slotsUsed 63 0).core 0).quad 4) ≠ 3 ∧
    dDspace (((slotsUsed 63 0).core 0).quad 4) ≠ 3 := by
  unfold State.Ready
  decide +kernel

/-! ## Witnesses: streams -/

/-- A 256-bit descriptor from (position, value) pairs. -/
def dsc (l : List (Nat × Nat)) : BitVec 256 := BitVec.ofNat 256 (l.map (fun p => p.2 * 2 ^ p.1)).sum
/-- HBM with one region of 4,096 bytes at address 0, of partition 0. -/
def page : Hbm := { rgn := [(0, 0x20000000000)], rgn2 := [(0, 1)] }
/-- Core 0 as given with the stream in slot 0, and one mapped region of HBM. -/
def strm (x : Slot) (k : Core) : State := { one { k with slots := [(0, x)] } with hbm := page }
/-- The same with a second stream in slot 1, which takes its input from a direct path. -/
def strm2 (x y : Slot) (k : Core) : State := { one { k with slots := [(0, x), (1, y)] } with hbm := page }
/-- A VECTOR that takes one FP32 element from Kettle's direct path, and a NARROW that takes one from its own. -/
def takesKettle : Slot := { queued (dsc [(0, 5), (64, 3), (216, 0x20)]) with order := 1 }
def takesNarrow : Slot := { queued (dsc [(0, 4), (64, 3)]) with order := 1, dstBase := 3 }
/-- Operand block bytes of line 1 that name the entries an operation needs, all at line 0 (Table 6.2). -/
def blockMem (kop : Nat) : Memory :=
  if kop = 0x30 ∨ kop = 0x31 then [(260, 0x90)] else if kop = 0x13 then [(260, 0x92), (268, 0x80)]
  else if kop = 0x04 then [(260, 0x80), (268, 0x80)] else if kop = 0x33 then [(290, 0x80), (291, 0x3F)]
  else if 0x60 ≤ kop ∧ kop ≤ 0x62 then [(260, 0x80), (268, 0x80), (276, 0xC0), (284, 0xC2)]
  else if (kNeeds kop).isEmpty then [] else [(260, 0x80)]
/-- Core 0 with one VECTOR of one element from line 0 to line 2, its operand block in line 1. -/
def vec (kop : Nat) (lr : LongReg) : State :=
  strm { queued (dsc [(0, 5), (216, kop)]) with auxBase := 1, dstBase := 2 } { sp := { mem := blockMem kop }, vec := { lr := [(0, lr)] } }
/-- The same with a long-register image whose E is −160 in line 0. -/
def vecImage : State :=
  strm { queued (dsc [(0, 5), (216, 0x44)]) with dstBase := 2 } { sp := { mem := [(40, 0x60), (41, 0xFF)] } }

theorem test_hyp_ElementwiseVectorsRunToTheirEnd : ∀ e ∈ elemTable,
    let s := vec e.kop {}
    let x := (s.core 0).slot 0
    let b := (s.core 0).kblock e.kop x
    s.KettleReady 0 0 e.kop (rowBytes (dSfmt x.desc) (dCols x.desc)) ∧ (e.o1 = true → s.ORowsOk 0 (b.entry 0) (dCols x.desc) 1) ∧
    (e.o2 = true → s.ORowsOk 0 (b.entry 1) (dCols x.desc) 1) ∧
    s.RowsOk 0 [] x.dstBase (dDstr x.desc) (rowBytes (dDfmt x.desc) (dCols x.desc)) 1 := by
  unfold State.KettleReady State.ORowsOk State.SpSound State.RowsOk
  dsimp only
  decide +kernel

theorem test_hyp_IntegerAndLongTileVectorsRunToTheirEnd :
    (vec 0x32 {}).KettleReady 0 0 0x32 4 ∧ (vec 0x32 {}).RowsOk 0 [] 2 0 8 1 ∧ (vec 0x34 {}).KettleReady 0 0 0x34 4 ∧
    (vec 0x34 {}).RowsOk 0 [] 2 0 4 1 ∧ (vec 0x48 {}).KettleReady 0 0 0x48 4 ∧ (vec 0x48 {}).RowsOk 0 [] 2 0 (longBytes 1) 1 ∧
    (vec 0x49 {}).KettleReady 0 0 0x49 (longBytes 1) ∧ (vec 0x49 {}).RowsOk 0 [] 2 0 4 1 ∧
    dSspace (((vec 0x49 {}).core 0).slot 0).desc ≠ 3 := by
  unfold State.KettleReady State.SpSound State.RowsOk
  dsimp only
  and_intros <;> decide +kernel

theorem test_hyp_LongRegisterClearAndStoreResults :
    (vec 0x40 {}).KettleReady 0 0 0x40 0 ∧ (vec 0x45 {}).KettleReady 0 0 0x45 0 ∧ (vec 0x45 {}).RowsOk 0 [] 2 0 64 1 := by
  unfold State.KettleReady State.SpSound State.RowsOk
  dsimp only
  and_intros <;> decide +kernel

theorem test_hyp_LrreadWritesOneRoundedValue :
    (vec 0x46 { v := 1 }).KettleReady 0 0 0x46 0 ∧ dDfmt (((vec 0x46 { v := 1 }).core 0).slot 0).desc = 0 ∧
    (vec 0x46 { v := 1 }).RowsOk 0 [] 2 0 4 1 ∧ 3 ≤ (((vec 0x46 { st := 3 }).core 0).lr 0).st := by
  unfold State.KettleReady State.SpSound State.RowsOk
  dsimp only
  and_intros <;> decide +kernel

theorem test_hyp_LongRegisterReductionsCountTheirContributions :
    (((vec 0x41 { count := 2 ^ 31 - 1 }).core 0).lr 0).count + dElems (((vec 0x41 {}).core 0).slot 0).desc ≤ 2 ^ 31 ∧
    (vec 0x41 { count := 2 ^ 31 - 1 }).KettleReady 0 0 0x41 4 ∧ (vec 0x42 {}).KettleReady 0 0 0x42 4 ∧
    (vec 0x43 {}).KettleReady 0 0 0x43 4 ∧
    (vec 0x43 {}).ORowsOk 0 ((((vec 0x43 {}).core 0).kblock 0x43 (((vec 0x43 {}).core 0).slot 0)).entry 0) 1 1 ∧
    vecImage.KettleReady 0 0 0x44 64 ∧ dSspace ((vecImage.core 0).slot 0).desc ≠ 3 ∧
    (lrParse ((vecImage.core 0).spRead 0 64)).map (fun y => (y.e, y.count)) = some (((vecImage.core 0).lr 0).e, 0) ∧
    2 ^ 31 ≤ (((vec 0x41 { count := 2 ^ 31 }).core 0).lr 0).count ∧ (vec 0x41 { count := 2 ^ 31 }).KettleReady 0 0 0x41 4 := by
  unfold State.KettleReady State.ORowsOk State.SpSound State.RowsOk
  dsimp only
  and_intros <;> decide +kernel

theorem test_hyp_UpdateKernelsRunToTheirEnd : ∀ e ∈ [(0x60, 2), (0x61, 1), (0x62, 1)],
    let s := vec e.1 {}
    let x := (s.core 0).slot 0
    let o := ((s.core 0).kblock e.1 x).entry
    s.KettleReady 0 0 e.1 4 ∧ dSfmt x.desc = 0 ∧ s.ORowsOk 0 (o 0) 1 1 ∧ s.ORowsOk 0 (o 1) e.2 1 ∧ s.ORowsOk 0 (o 2) e.2 1 ∧
    s.ORowsOk 0 (o 3) 1 1 ∧ s.RowsOk 0 [] x.dstBase (dDstr x.desc) 4 1 := by
  unfold State.KettleReady State.ORowsOk State.SpSound State.RowsOk
  dsimp only
  decide +kernel

/-- A LOAD from scratchpad line 0, and one from HBM address 0, to line 2; a transposed MX LOAD; a GATHER of two elements, into
scratchpad and into Kettle. -/
def loads : List State :=
  [strm { queued 0 with dstBase := 2 } {}, strm { queued (dsc [(64, 1)]) with dstBase := 2 } {},
   strm { queued (dsc [(14, 1), (18, 19), (23, 19), (28, 31), (36, 31)]) with auxBase := 40, dstBase := 64 } {}]
def gathers : List State :=
  [strm { queued (dsc [(0, 2), (36, 1), (216, 2)]) with auxBase := 1, dstBase := 2 } {},
   strm2 { queued (dsc [(0, 2), (128, 3), (216, 2), (248, 2)]) with auxBase := 1, dstBase := 2 } takesKettle {}]

theorem test_hyp_LoadAndGatherRunToTheirEnd :
    (∀ s ∈ loads,
      let x := (s.core 0).slot 0
      let d := x.desc
      let rows := dTiles d * loadRows d
      s.Taken 0 0 0 ∧ dSspace d < 2 ∧ dDspace d = 0 ∧ dDfmt d = dSfmt d ∧
      (dTrans d = true → isMx (dSfmt d) = true → dTiles d = 1 ∧ s.scaleBad 0 d x.auxBase = false) ∧
      s.OperandOk 0 (dSspace d) false x.srcBase (dSstr d) (dSfmt d) (dCols d) (dTiles d * dRows d) x.auxBase (fld d 216 10) ∧
      s.OperandOk 0 0 true x.dstBase (dDstr d) (dDfmt d) (loadCols d) rows (loadScaleBase d x.dstBase / 256) (fld d 226 10)) ∧
    (∀ s ∈ gathers,
      let x := (s.core 0).slot 0
      let d := x.desc
      s.Taken 0 0 2 ∧ dSspace d < 2 ∧ (dDspace d = 0 ∨ gDst d ≠ 0) ∧ dDfmt d = dSfmt d ∧
      (gDst d ≠ 0 → s.PathTakes 0 (gatherStation d) (dSfmt d) (dElems d)) ∧
      (∀ l, l < cdiv (dElems d) 64 → s.runFault 0 [] (256 * (x.auxBase + l)) (4 * min 64 (dElems d - 64 * l)) = none) ∧
      (∀ i, i < gSlim d → s.RunOk 0 (dSspace d) false (unitAddr (dSspace d) x.srcBase + fmtBits (dSfmt d) * i / 8)
        ((fmtBits (dSfmt d) * i % 8 + fmtBits (dSfmt d) + 7) / 8)) ∧
      (gDst d = 0 → s.RowsOk 0 [] x.dstBase (dDstr d) (rowBytes (dDfmt d) (dCols d)) (dTiles d * dRows d))) := by
  unfold State.OperandOk State.RunOk State.HbmOk State.Taken State.SpSound State.RowsOk
  dsimp only
  constructor
  · intro s h
    fin_cases h <;> and_intros <;> decide +kernel
  · intro s h
    fin_cases h
    · and_intros <;> first | exact fun h => absurd rfl h | decide +kernel
    · and_intros <;> first | exact fun _ => ⟨1, by decide +kernel⟩ | decide +kernel

/-- A STORE to HBM address 0; an UNSTASH from it; the same of a spilled epoch. -/
def storeSt : State := strm (queued (dsc [(0, 9), (128, 1)])) {}
def unstashSt (spill : Bool) : State :=
  strm { queued (dsc [(0, 8), (64, 1)]) with dstBase := 2 } { cask := { epochs := [(0, { mlen := 4096, spill := spill })] } }

theorem test_hyp_StoreAndUnstashRunToTheirEnd :
    storeSt.Taken 0 0 9 ∧ dDfmt ((storeSt.core 0).slot 0).desc = dSfmt ((storeSt.core 0).slot 0).desc ∧ storeSt.RowsOk 0 [] 0 0 4 1 ∧ storeSt.HbmOk 0 true 0 4 ∧ (unstashSt false).Taken 0 0 8 ∧
    spilledRead ((unstashSt false).core 0).curEpoch (((unstashSt false).core 0).slot 0).desc 0 0 = false ∧
    (unstashSt false).OperandOk 0 1 false 0 0 0 1 1 0 0 ∧ (unstashSt false).RowsOk 0 [] 2 0 4 1 ∧ (unstashSt true).Taken 0 0 8 ∧
    spilledRead ((unstashSt true).core 0).curEpoch (((unstashSt true).core 0).slot 0).desc 0 0 = true := by
  unfold State.OperandOk State.RunOk State.HbmOk State.Taken State.SpSound State.RowsOk
  and_intros <;> decide +kernel

/-- A STASH to the HBM address given, of an epoch whose main region is [0, 64) and whose reserve region is [128, 192). -/
def stashSt (a : Nat) (spill : Bool) : State :=
  strm { queued (dsc [(0, 7), (128, 1)]) with dstBase := a }
    { cask := { epochs := [(0, { mlen := 64, rbase := 128, rlen := 64, spill := spill })] } }
def stashClassOf (s : State) : StashClass :=
  stashClass (s.core 0).curEpoch ((s.core 0).slot 0).desc ((s.core 0).slot 0).dstBase ((s.core 0).slot 0).auxBase
/-- A STASH that takes its input from the direct path. -/
def stashDirect : State :=
  strm (queued (dsc [(0, 7), (64, 3), (128, 1)])) { cask := { epochs := [(0, { mlen := 64 })] }, direct := [(6, ⟨0, [1]⟩)] }

theorem test_hyp_StashWritesSpillsOrDiscards :
    (∀ a ∈ [0, 60, 62, 128, 190, 64], (stashSt a false).Taken 0 0 7 ∧ (stashSt a false).RowsOk 0 [] 0 0 4 1) ∧
    stashClassOf (stashSt 0 false) = .main ∧ stashClassOf (stashSt 60 false) = .main ∧ (stashSt 60 false).OperandOk 0 1 true 60 0 0 1 1 0 0 ∧
    stashClassOf (stashSt 128 false) = .reserve ∧ stashClassOf (stashSt 62 false) = .spilling ∧ stashClassOf (stashSt 0 true) = .main ∧
    ((stashSt 0 true).core 0).curEpoch.spill = true ∧ stashClassOf (stashSt 190 false) = .reserveOver ∧
    stashClassOf (stashSt 64 false) = .outside ∧ stashDirect.Taken 0 0 7 ∧
    dElems ((stashDirect.core 0).slot 0).desc ≤ ((stashDirect.core 0).path 6).elems.length ∧ ((stashDirect.core 0).path 6).fmt = 0 := by
  unfold State.OperandOk State.RunOk State.HbmOk State.Taken State.SpSound State.RowsOk
  and_intros <;> decide +kernel

/-- A stationary tile of one INT8 element, and a moving FEED of one element that opens, or continues, group 0. -/
def tile1 : StatTile := ⟨9, 0, 1, [[0]], [[]], false⟩
def feedDsc (role opens : Nat) : BitVec 256 := dsc [(0, 1), (18, 9), (23, 9), (171, 1), (216, role), (224, opens)]
def feedSt (role opens : Nat) : State :=
  strm (queued (feedDsc role opens)) { mash := { shadow := some tile1, groups := [(0, { count := 1, isOpen := opens == 0 })] } }

theorem test_hyp_FeedsRunToTheirEnd :
    (feedSt 0 0).Taken 0 0 1 ∧ fRole (feedDsc 0 0) = 0 ∧ dSspace (feedDsc 0 0) < 2 ∧ dTrans (feedDsc 0 0) = false ∧
    (feedSt 0 0).OperandOk 0 0 false 0 0 9 1 1 0 0 ∧ (feedSt 1 1).Taken 0 0 1 ∧ fRole (feedDsc 1 1) = 1 ∧ dDstr (feedDsc 1 1) ≠ 0 ∧
    fOpen (feedDsc 1 1) = true ∧ ((feedSt 1 1).core 0).feedFault (((feedSt 1 1).core 0).slot 0) true = none ∧
    ((feedSt 1 1).core 0).drainBeside (fGroup (feedDsc 1 1)) = false ∧
    ((feedSt 1 1).core 0).mash.shadow.or ((feedSt 1 1).core 0).mash.stat = some tile1 ∧
    tile1.deferred = (((feedSt 1 1).core 0).slot 0).deferred ∧ (feedSt 1 1).OperandOk 0 0 false 0 0 9 1 1 0 0 ∧
    fOpen (feedDsc 1 0) = false ∧ ((feedSt 1 0).core 0).feedFault (((feedSt 1 0).core 0).slot 0) true = none ∧
    (((feedSt 1 0).core 0).readCheck true 0 1).2 = none := by
  unfold State.OperandOk State.RunOk State.HbmOk State.Taken State.SpSound
  and_intros <;> decide +kernel

/-- A DRAIN of one row of the open group 0 that releases it: to line 2, or to the NARROW in slot 1, or with none to take its row; a
NARROW from line 0, or from its direct path, to line 2, or into Cask with a STASH to take its row. -/
def drainDsc (dspace direct : Nat) : BitVec 256 := dsc [(0, 3), (128, dspace), (220, 1), (242, direct)]
def openMash : Mash := { groups := [(0, { count := 1, isOpen := true })] }
def drainSt : State := strm { queued (drainDsc 0 0) with dstBase := 2 } { mash := openMash }
def drainTo : State := strm2 (queued (drainDsc 3 1)) takesNarrow { mash := openMash }
def drainStalls : State := strm (queued (drainDsc 3 1)) { mash := openMash }
def narrowSt (sspace : Nat) : State :=
  strm { queued (dsc [(0, 4), (64, sspace)]) with dstBase := 2 } { direct := [(3, ⟨0, [1]⟩)] }
def narrowTo : State :=
  strm2 (queued (dsc [(0, 4), (128, 3)])) { queued (dsc [(0, 7), (64, 3), (128, 1)]) with order := 1 } {}

theorem test_hyp_DrainRunsToItsEnd : ∀ s ∈ [drainSt, drainTo],
    let k := s.core 0
    let x := k.slot 0
    let g := k.group (drGroup x.desc)
    s.Taken 0 0 3 ∧ (dDspace x.desc = 0 ∨ s.PathTakes 0 (drStation x.desc) 0 (dElems x.desc)) ∧ k.drainFault x = none ∧
    drBias x.desc = false ∧ (k.readCheck (g.mode = 0 && !g.mx) x.srcBase 1).2 = none ∧ (k.compareRow g x.srcBase).2 = none ∧
    drRelease x.desc = true ∧ (k.compareCols (drGroup x.desc) g).2 = none ∧ s.RowsOk 0 [] x.dstBase 0 4 1 := by
  unfold State.Taken State.SpSound State.RowsOk
  dsimp only
  intro s h
  fin_cases h <;> and_intros <;>
    first | exact Or.inr ⟨1, by decide +kernel⟩ | exact Or.inl (by decide +kernel) | decide +kernel

theorem test_hyp_DrainAndNarrowRunToTheirEnd :
    drainStalls.Taken 0 0 3 ∧ dDspace (drainDsc 3 1) ≠ 0 ∧ (drainStalls.core 0).drainFault ((drainStalls.core 0).slot 0) = none ∧
    drBias (drainDsc 3 1) = false ∧ (drainStalls.core 0).consumer (drStation (drainDsc 3 1)) = none ∧
    (narrowSt 0).Taken 0 0 4 ∧ (narrowSt 0).RowsOk 0 [] 0 0 4 1 ∧ (narrowSt 0).OperandOk 0 0 true 2 0 0 1 1 0 0 ∧
    (narrowSt 3).Taken 0 0 4 ∧ ((narrowSt 3).core 0).pathHas 3 (dElems (((narrowSt 3).core 0).slot 0).desc) = true ∧
    narrowTo.Taken 0 0 4 ∧ narrowTo.RowsOk 0 [] 0 0 4 1 ∧ narrowTo.PathTakes 0 6 0 1 := by
  unfold State.OperandOk State.RunOk State.HbmOk State.Taken State.SpSound State.RowsOk
  and_intros <;> first | exact ⟨1, by decide +kernel⟩ | decide +kernel
/-! ## Witnesses: registers, events, flits, the deferred queue, buckets -/

theorem test_hyp_CoreRegisterWriteResults :
    ((one {}).core 0).hopChan 3 = {} ∧ (((one {}).core 0).hopChan 3).on = false ∧
    (one {}).chanErr 0 3 { cfg := 0x1000801020000 } = 0 ∧
    (((one { hop := { chans := [(3, { cfg := 0x1000000000000 })] } }).core 0).hopChan 3).on = true ∧ bit (4 : Word) 2 = true := by
  and_intros <;> decide +kernel

/-- A kernel to launch. -/
def krec0 : KernelRec := ⟨1, 1, true, false, 1, 0, 0, 0, 0, 64, [5], 0, 0, 0, 0, 0, 0, 0⟩
/-- Core 0 runs a kernel that waits in WAITT on t0 for 1 after the cycles given, with a RECV in slot 0. -/
def waits (w : BitVec 32) (pre : Bool) : State :=
  one { seq := { kernel := some kern, regionLen := 64, stall := some (.waitt 0 1 w), preempt := pre },
        slots := [(0, { state := .active, desc := 11 })] }

theorem test_hyp_SequencerEventsTakeEffect :
    ({ State.reset with launches := [(359, ⟨krec0, 0, false⟩)] } : State).launches.find? 359 = some ⟨krec0, 0, false⟩ ∧
    ({ run {} with hbm := page } : State).Ready 0 ∧ page.checkRun (({ run {} with hbm := page } : State).partOf 0) false 0 8 = .ok ∧
    page.badIn 0 256 = none ∧ ((waits 0 false).core 0).seq.stall = some (.waitt 0 1 0) ∧ ((waits 0 false).core 0).seq.kernel.isSome = true ∧
    ((run { stall := some (.fence 1) }).core 0).seq.stall = some (.fence 1) ∧
    (∀ n, n < 64 → (((run { stall := some (.fence 1) }).core 0).slot n).live = false) ∧
    ((run {}).core 0).seq.yieldMark + 26000 < ({ run {} with bays := [(0, { mash := 26001 })] } : State).mashOf 0 ∧
    (one { seq := { kernel := some kern }, sched := .parking } |>.core 0).sched = .parking ∧ 1024 ≤ (1024 : BitVec 32).toNat ∧
    (∀ n, n < 64 → (((waits 1024 true).core 0).slot n).state = .active → (waits 1024 true).remoteWait 0 n = true) ∧
    ((run { parking := true }).core 0).seq.parking = true ∧ (∀ n, n < 64 → (((run { parking := true }).core 0).slot n).live = false) := by
  unfold State.Ready
  and_intros <;> decide +kernel

theorem test_hyp_SlotEventsTakeEffect :
    (({ state := .gated } : Slot).state = .gated ∧ dGatev 0 ≤ (({} : Core).tok (dGatet 0)).toNat) ∧
    (let x : Slot := { state := .active, desc := dsc [(8, 1), (12, 1)], done := true }
     dTken x.desc = true ∧ dTkev x.desc = true ∧ x.tiles < x.tilesWritten) ∧
    ({} : Core).completable { state := .active, done := true } = true ∧
    ({ state := .faulted, taken := true } : Slot).origin = .seq := by
  and_intros <;> decide +kernel

theorem test_hyp_MessagesReachTheMailbox :
    let m : MboxMsg := ⟨0, 5, 7, .cinch, none⟩
    let old : MboxMsg := ⟨0, 5, 7, .cinch, some 0⟩
    ({ State.reset with mboxes := [⟨3, 1, 0, .cinch, none⟩, m] } : State).mboxes = [⟨3, 1, 0, .cinch, none⟩] ++ m :: [] ∧
    m.core = (0 : CoreId).val ∧ State.reset.safety.saddleStopped = false ∧ (State.reset.bay 0).state = .on ∧
      (({ State.reset with bays := [(0, { state := .retention })] } : State).bay 0).state ≠ .on ∧ m.retryAt = none ∧ old.retryAt = some 0 ∧ old.source = .cinch ∧ 0 ≤ State.reset.now := by
  and_intros <;> decide +kernel

/-- A request of model 0 in slot 0 with one row in the target pass, and a model of four classes sampled on die 0. -/
def join0 : JoinRec := ⟨7, 0, true, 0, 0, 0, 0, 0, 0, 1, 4, 0, 0, 0, 0, 0, 0, 0, 1, 0, false, []⟩
def req0 : Request :=
  { jrec := join0, sess := 0, msgid := 0, slot := some 0, order := 0, pages := 1, chunk := 0, adapter := 0, gen := 0, start := 0, promptLeft := 0,
    emitted := 0, k := 0, zeros := 0, leaving := 0, leaveStep := 0, sitOut := false, kNow := 0, chunkNow := 0, rowsNow := 1, ringS := 0,
    consumed := 0, fly := [], queue := [], coalesceAt := none, finalSent := false, noticed := false, paused := false, copied := false,
    loading := false, drafts := [], draftHere := false, store := 0, given := 0 }
def model0 : ModelRec := ⟨false, 4, 1024, 4096, 5, [], false, 0, [0], 0, 0, 0, 0, none⟩
def serve0 (r : Request) : Serve := { reqs := [r], models := [(0, ⟨model0, 4, 0, 0, [], []⟩)] }
/-- Partition 0 serves request `r`. -/
def served (r : Request) : State := { State.reset with serve := [(0, serve0 r)] }
/-- A SAMPLE of one row of four classes is ACTIVE in slot 0. -/
def sampling : State :=
  { served req0 with cores := [(0, { slots := [(0, { state := .active, desc := dsc [(0, 12), (36, 3)] })] })] }

theorem test_hyp_SendRecvSampleTakeEffect :
    (let s := strm (queued 10) { welt := { posted := [(0, 1)] } }
     s.Taken 0 0 10 ∧ wRemote 10 = false ∧ wSoft 10 = false ∧ dSspace 10 = 0 ∧ wLines 10 = 1 ∧ s.runFault 0 [] 0 (wBytes 10 0) = none ∧
     (s.core (wCore 10)).welt.next.get 0 (wChan 10) + s.inFlight (wCore 10) (wChan 10) + wLines 10 ≤
       (s.core (wCore 10)).welt.posted.get 0 (wChan 10)) ∧
    (strm (queued 11) {}).Taken 0 0 11 ∧ wRemote 11 = false ∧ (strm (queued 12) {}).Taken 0 0 12 ∧
    (let d := ((sampling.core 0).slot 0).desc
     let v := sampling.serveOf 0
     kindOf d = 12 ∧ sampling.SpSound 0 ∧ sampling.runFault 0 [] 0 (rowBytes (dSfmt d) (dCols d)) = none ∧ v.tapModel (dieOf 0) 0 = some 0 ∧
     v.passModel 0 0 = some model0 ∧ (v.passRows 0 0).length = 1 ∧ 256 * fld d 216 12 + dCols d ≤ model0.classes ∧
     samplingDie model0 1 0 = dieOf 0 ∧ (sampling.tapRow 0 0 0 0).vals.length + dCols d = model0.classes) := by
  unfold State.Taken State.SpSound
  and_intros <;> decide +kernel

/-- A flit from core `src` to core 0 on a class, with the header bits [255:32], that has left `hops` places behind; core 0 holds an
ACTIVE RECV that names core 1 on channel 0 in slot 0, and a soft-target channel. -/
def flitFrom (src cls more hops : Nat) (b : FlitBody) : Flit := ⟨flitHdr src 0 cls 0 more, src, 0, 0, 0, hops, b⟩
def flitTo (b : FlitBody) (h : HopChan) : State :=
  { one { slots := [(0, { state := .active, desc := dsc [(0, 11), (229, 1)] })],
          hop := { chans := [(0, h)] } } with
    flits := [flitFrom 1 4 0 0 b] }

theorem test_hyp_FlitsArriveAtTheirCore :
    (∀ h, (flitTo (.flush 0) h).flits = [] ++ flitFrom 1 4 0 0 (.flush 0) :: []) ∧ (flitFrom 1 4 0 0 .credit).arrived = true ∧
    (flitFrom 6 4 0 3 .credit).arrived = true ∧ dieOf 6 ≠ dieOf 0 ∧ (State.reset.bay 0).state = .on ∧
    (flitFrom 6 4 0 3 .credit).part = State.reset.partOf 0 ∧
    (let s := flitTo (.data 0 [7, 0, 0, 0]) {}
     let d := ((s.core 0).slot 0).desc
     (s.core 0).recvAt 0 ((s.core 0).welt.next.get 0 0) = some 0 ∧ dieOf 1 = dieOf 0 ∧ wRemote d = false ∧ wCore d = 1 ∧
     (s.core 0).welt.ahead.contains (0, (s.core 0).welt.next.get 0 0) = false ∧
     wBytes d 0 = 4 ∧ s.runFault 0 [] (256 * wRow d 0) (wBytes d 0) = none) ∧
    (let h := ((flitTo (.soft [1]) { cfg := 0x1000801020000 }).core 0).hopChan (flitFrom 1 4 0 0 (.soft [1])).schan
     h.on = true ∧ h.sender = 1 ∧ (flitFrom 1 4 0 0 (.soft [1])).tline < h.lines) ∧
    (({ welt := { credits := [⟨1, 0, 4, 2⟩] } } : Core).credit 1 (flitFrom 1 4 0 0 .credit).schan = some ⟨1, 0, 4, 2⟩) ∧
    ((flitFrom 1 4 (2 ^ 35) 0 .credit).isFirst = true ∧ ({} : Core).credit 1 0 = none ∧ ({} : Core).welt.credits.length < 16) := by
  refine ⟨fun _ => rfl, ?_⟩
  and_intros <;> decide +kernel

/-- Headers that meet each clause of FLIT_ARRIVE: a site past 99, class 4 to the service port of L0, a bay that is not ON, another
partition, and a flit of a SEND. -/
theorem test_hyp_flit_headers :
    100 ≤ fld (100 : BitVec 32) 0 7 ∧
    (let h : BitVec 32 := BitVec.ofNat 32 (84 + 6 * 2 ^ 14 + 4 * 2 ^ 19)
     fld h 0 7 = 84 ∧ fld h 19 3 = 4 ∧ 6 ≤ fld h 14 5) ∧
    (({ State.reset with bays := [(0, { state := .gated })] } : State).bay (fld (0 : BitVec 32) 0 7 / 5)).state ≠ .on ∧
    (let h : BitVec 32 := BitVec.ofNat 32 (3 * 2 ^ 23)
     fld h 23 4 ≠ 15 ∧ fld h 23 4 ≠ State.reset.partOfBay (fld h 0 7 / 5)) ∧
    (let s := strm { state := .active, desc := 10 } {}
     kindOf ((s.core 0).slot 0).desc = 10 ∧ ((s.core 0).slot 0).live = true ∧ s.flitOf 0 0 = none) := by
  and_intros <;> decide +kernel

/-- The descriptor queue enabled with one entry of one descriptor, a LOAD at line 1, in the first ring place. -/
def queue1 (q : Dwq) : State :=
  one { seq := { kernel := some kern, regionLen := 64 }, dwq := { q with ctl := 0x0000000040420000 }, sp := { mem := [(0, 1), (4, 1)] } }
def entry1 : DwqEntry := ⟨0, 1, 1, 0, false, 0, 0, 0, 0, false, [], false⟩

theorem test_hyp_DeferredQueueIssuesInOrder :
    (run {}).Ready 0 ∧ ({ pushed := 63 } : Dwq).heldCount < 64 ∧ 64 ≤ ({ pushed := 64 } : Dwq).heldCount ∧
    (let s := queue1 { pushed := 1 }
     let k := s.core 0
     let q := k.dwq
     let i := entryOf q.head (k.spRead (q.entryAddr q.head) 64) false
     k.seq.kernel.isSome = true ∧ k.seq.parking = false ∧ k.seq.parked = false ∧ k.seq.stall ≠ some .kend ∧ q.started = none ∧ q.head < q.pushed ∧ s.SpSound 0 ∧ s.runFault 0 [] (q.entryAddr q.head) 64 = none ∧
     q.forced q.head = false ∧ q.enable = true ∧ q.keep < k.freeSlots ∧ k.unforcedLive = false ∧ i.ok = true ∧ k.firstKind i.e ≠ 1) ∧
    (let k := (queue1 { pushed := 1, force := 1 }).core 0
     k.dwq.forced k.dwq.head = true ∧ (entryOf 0 (k.spRead (k.dwq.entryAddr 0) 64) true).ok = true) ∧
    (let s := queue1 { pushed := 1, started := some entry1 }
     let k := s.core 0
     k.dwq.started = some entry1 ∧ k.lowestFree = some 0 ∧ kindOf (BitVec.ofNat 256 (bytesNat (k.spRead 256 32))) < 13 ∧ k.descMay entry1 = true ∧ s.SpSound 0 ∧ s.runFault 0 [] 256 32 = none ∧
     s.issueCheck 0 (slotOf (BitVec.ofNat 256 (bytesNat (k.spRead 256 32))) 0 0 0 0 (.dwq 0)) = none) := by
  unfold State.Ready State.SpSound
  and_intros <;> decide +kernel

/-- A slot line for bucket 0 of kind 0 with one buffer of one line at ring line 8, one expected source, a deadline of 1. -/
def bktLine : List (Nat × Byte) := [(16, 8), (20, 1), (22, 1), (24, 1), (28, 1)]
def bktCfg : List Byte := (List.range 64).map (fun i => bktLine.foldl (fun v p => if p.1 = i then p.2 else v) 0)
def bkt1 : BktSlot := { line := 0, cfg := bktCfg, armedAt := 0 }
def hdr0 : BktHeader := ⟨0, 0, 0, 0, 0, 1, 0, 0⟩
def hdr5 : BktHeader := { hdr0 with srcPkg := 5 }
def bktKeep : Bkt := { slots := [(bktKey 1 0, { bkt1 with counted := 2 })] }

theorem test_hyp_BucketHeadersLandOrAreHeld :
    (hdr0.srcPkg.toNat = State.reset.ownPkg ∧ ({} : Bkt).outcome 0 1 hdr0 = .held) ∧
    (hdr5.srcPkg.toNat ≠ State.reset.ownPkg ∧ State.reset.ownPkg < 4096 ∧ (∀ p, p < 16 → (State.reset.port p).behind = []) ∧
      State.reset.barred 15 1 = false ∧ ({} : Bkt).outcome 0 1 hdr5 = .held) ∧
    (({ slots := [(bktKey 1 0, bkt1)] } : Bkt).outcome 0 1 hdr0 = .current 0 ∧
      ({ slots := [(bktKey 1 0, bkt1)] } : Bkt).outcome 0 1 hdr5 = .current 0 ∧
      ({ slots := [(bktKey 1 0, bkt1)] } : Bkt).slots.find? (bktKey 1 0) = some bkt1) ∧
    (let b : Bkt := { held := [⟨1, 0, 0, hdr0, [], none, 0⟩] }
     b.held = [⟨1, 0, 0, hdr0, [], none, 0⟩] ∧ 0 + fld b.cfg 0 32 ≤ 10000000) ∧
    (let k : Core := { sp := { mem := bktLine } }
     k.spRead 0 64 = bktCfg ∧ k.armErr 1 0 0 { line := 0, cfg := k.spRead 0 64, armedAt := 0 } = 0 ∧ k.armErr 0 0 0 bkt1 ≠ 0) ∧
    (bktKeep.slots.find? (bktKey 1 0) = some { bkt1 with counted := 2 } ∧
      2 ≤ ({ bkt1 with counted := 2 } : BktSlot).counted - ({ bkt1 with counted := 2 } : BktSlot).released ∧
      ({ bkt1 with counted := 2 } : BktSlot).counted - ({ bkt1 with counted := 2 } : BktSlot).released < 3) ∧
    (bkt1.state = 0 ∧ bkt1.landings = [] ∧ bkt1.armedAt + bkt1.deadline < 2) := by
  and_intros <;> decide +kernel

/-! ## Witnesses: links, packets, Cinch and survival -/

/-- LINK_PKG is written and port 15 is as given. -/
def linked (q : Port) : State := { State.reset with links := { pkgSet := true, ports := [(15, q)] }, now := 10000 }
/-- An idle frame, next in order for a port that has received none. -/
def idle : List (BitVec 256) := List.replicate 29 0
def first : Nat := (({} : Port).rxAck + 1).toNat
def frame0 : FrameIn :=
  ⟨true, 32, BitVec.ofNat 256 (first + (frameCrc (BitVec.ofNat 256 first) idle).toNat * 2 ^ 224), idle⟩
def again (q : Port) : Port := { q with alsoRate := q.rate }

theorem test_hyp_LinkPortsTrainAndRecover :
    ((linked {}).links.pkgSet = true ∧ (linked {}).sec.recovery = false ∧ ((linked {}).port 15).state = .down ∧
      (((linked {}).port 15).rateBelow 4).isSome = true) ∧
    (bit ((linked { ctl := 0x1F }).port 15).ctl 0 = true ∧ ((again ((linked { ctl := 0x1F }).port 15)).rateBelow 4).isSome = true) ∧
    (let q := (linked { state := .up, replay := [⟨0, 8, 0, idle, []⟩], replayFullAt := some 0 }).port 15
     q.state = .up ∧ ((again q).rateBelow 4).isSome = true ∧ q.replay = [⟨0, 8, 0, idle, []⟩] ∧ q.replayFullAt = some 0) ∧
    (let q := (linked { state := .training, trying := 3 }).port 15
     q.state = .training ∧ bit (4 : BitVec 3) (q.trying - 1) = true ∧ laneChoice q.minw 0xFFFF = some (0xFFFF, some 16) ∧
     laneChoice q.minw 0 = none ∧ q.rateBelow q.trying = some 2 ∧ q.outq = []) ∧
    (∀ c, c < 360 → ((linked {}).core c).welt.undelivered = []) ∧
    (let q := (linked { state := .up, active := 0xFFFF, spare := some 16 }).port 15
     q.state = .up ∧ bit q.active 15 = true ∧ q.spare.isSome = true ∧ fld q.ctl 32 32 < (65537 : BitVec 32).toNat) ∧
    (let q := (linked { state := .sparing, active := 0xFFFF, spare := some 16, spareFor := 3 }).port 15
     q.state = .sparing ∧ q.spare = some 16 ∧ bit q.active 16 = false ∧ q.failing = [] ∧ q.outq = []) := by
  and_intros <;> decide +kernel

theorem test_hyp_frames :
    (frame0.good = true ∧ frame0.fseq = ({} : Port).rxAck + 1) ∧ (⟨false, 0, 0, idle⟩ : FrameIn).good = false :=
  ⟨⟨FrameIn.good_of_crc first 32 idle (by decide +kernel), FrameIn.fseq_of_crc true first _ 32 idle⟩, rfl⟩

/-- Package 1 is reached by port 0, which is UP. -/
def routed : State :=
  { State.reset with links := { pkgSet := true, ports := [(0, { state := .up })], routeA := [(0, 0x100000)] } }
/-- Core 0 as given. -/
def grants (g : List RemoteGrant) : Core := { welt := { grants := g } }
/-- A remote RECV of one line on channel 0 from core 2 of package 5, and a remote SEND to core 2 of package 5 on channel 0. -/
def remoteRecv : Core := { slots := [(0, { state := .active, desc := dsc [(0, 11), (216, 5), (228, 1), (229, 2)] })] }
def remoteSend : Core := { slots := [(0, { state := .active, desc := dsc [(0, 10), (216, 5), (228, 1), (229, 2)] })] }
/-- A packet of one line of zeros from core 2 of package 5 to core 0. -/
def pktFrom : Packet := ({ pkt with spkg := 5, score := 2, nslot := 7 } : Packet).seal (List.replicate 256 0)
/-- A packet with one data slot of zeros. -/
def pktShort (kind : BitVec 4) : Packet := ({ pkt with pkind := kind, spkg := 5, score := 2 } : Packet).seal (natBytes 32 0)
/-- A NOTICE with a reason that holds the header of `about` in its data slot. -/
def noticeOf (reason : BitVec 32) (about : Packet) : Packet :=
  ({ pkt with pkind := 2, spkg := 5, line := reason } : Packet).seal (natBytes 32 about.hdr.toNat)
def toFive (kind : BitVec 4) : Packet := { pkt with pkind := kind, dpkg := 5, dcore := 2 }

theorem test_hyp_PacketsReachTheirEndpoint :
    ((1 : BitVec 12).toNat ≠ routed.ownPkg ∧ (∀ j, j < 16 → (routed.port j).behind = []) ∧ routed.barred 0 0 = false ∧
      routed.routeOf 1 0 = .via 0 ∧ ({ pkt with hops := 1 } : Packet).hops.toNat < 2 ∧ (routed.port 0).outq = []) ∧
    2 ≤ ({ pkt with hops := 2 } : Packet).hops.toNat ∧
    (let s := one remoteRecv
     let d := ((s.core 0).slot 0).desc
     pktFrom.dpkg.toNat = s.ownPkg ∧ (s.bay 0).state = .on ∧ (∀ j, j < 16 → (s.port j).behind = []) ∧ s.barred 15 0 = false ∧
     pktFrom.dcore.toNat < 360 ∧ pktFrom.chan.toNat ≠ 31 ∧ (s.core 0).recvAt 0 ((s.core 0).sendBase 0 0 + 0) = some 0 ∧
     (s.core 0).filled 0 ((s.core 0).sendBase 0 0 + 0) = false ∧ wRemote d = true ∧ wPkg d = 5 ∧ wCore d = 2 ∧
     s.runFault 0 [] 0 (wBytes d 0) = none) ∧
    (grants [⟨5, 2, 0, 1, 1⟩]).welt.grants.find? (fun g => g.pkg = pktFrom.spkg.toNat && g.core = pktFrom.score.toNat && g.chan = 0) =
      some ⟨5, 2, 0, 1, 1⟩ ∧
    ((grants []).welt.grants.length < 32 ∧
      (grants []).welt.grants.find? (fun g => g.pkg = pktFrom.spkg.toNat && g.core = pktFrom.score.toNat && g.chan = 0) = none) ∧
    ((one remoteSend).sendActive (toFive 0) 0 = true ∧ (toFive 0).pkind = 0 ∧ (noticeCode 8).isSome = true) ∧
    ((toFive 1).pkind = 1 ∧ (toFive 1).score.toNat < 360) ∧ (pktShort 3).epoch.toNat < ({ epoch := 1 } : Cinch).epoch.toNat ∧
    (({ State.reset with links := { lastSwap := some 0 }, now := 99999 } : State).links.lastSwap = some 0 ∧ 99999 < 0 + 100000) ∧
    State.reset.links.lastSwap = none ∧ (∀ d, d < 360 → (State.reset.core d).welt.undelivered = []) ∧ vcarbTotal 100 ≤ 100 ∧
    100 < vcarbTotal 101 := by
  and_intros <;> decide +kernel

theorem test_hyp_packet_checks :
    pktFrom.ok (List.replicate 256 0) = true ∧
    (∀ data, { pktFrom with pcrc := pktFrom.crc data + 1 }.ok data = false) ∧
    (pktShort 1).ok (natBytes 32 (0 : BitVec 256).toNat) = true ∧
    (noticeOf 8 (toFive 0)).ok (natBytes 32 (toFive 0).hdr.toNat) = true ∧ (noticeOf 8 (toFive 0)).line.toNat = 8 ∧
    (noticeOf 1 (toFive 1)).ok (natBytes 32 (toFive 1).hdr.toNat) = true := by
  refine ⟨Packet.ok_seal _ _, fun data => ?_, Packet.ok_seal _ _, Packet.ok_seal _ _, rfl, Packet.ok_seal _ _⟩
  simp [Packet.ok, Packet.crc, Packet.bits]

/-- The payload of a core message from (position, value) pairs. -/
def msg (l : List (Nat × Nat)) : BitVec 256 := dsc l
/-- Core 0 owns a part of the norm and has a message for Cinch at its head. -/
def cinched (x : Cinch) (p : BitVec 256) : State :=
  { run { outbound := [(0, p)] } with cinch := { x with cores := [(0, 1)] } }
def norm2 : BitVec 256 := msg [(0, 1), (8, 2), (16, 0xFFC0), (32, 1)]
def member (p : Nat) : Member := ⟨p, false, 0xFFFF, 0xFFFF, 0, 0⟩

theorem test_hyp_NormPartsAreSummedAndDecided :
    (let s := cinched {} norm2
     let p := (s.core 0).nfOut norm2
     s.cinch.state = .idle ∧ (s.core 0).headOut 0 = some norm2 ∧ fld norm2 0 8 = 1 ∧ s.cinch.normBad 0 p = false ∧ fld p 8 2 = 2 ∧
     s.cinch.lists 0 = true ∧ 0 ∉ s.cinch.parts) ∧
    (let s := cinched { state := .collect, parts := [0, 1] } norm2
     s.cinch.normBad 0 ((s.core 0).nfOut norm2) = false ∧ (∀ d, d < 360 → s.cinch.lists d = true → d = 0) ∧ 0 ∈ s.cinch.parts ∧
     1 ∈ s.cinch.parts ∧ s.cinch.lists 0 = true ∧ 0 ∉ s.cinch.ready ∧ s.cinch.members = [] ∧ s.cinch.totals = [] ∧ s.tierWaits = false ∧ s.safety.saddleStopped = false) ∧
    (let s := cinched { members := [member 0, member 5] } 0
     s.cinch.current 1 0 = true ∧ s.cinch.state = .idle ∧ 5 ∈ s.others ∧ 5 ∉ s.cinch.totals ∧ s.cinch.ownDone = false) ∧
    ({} : Cinch).current 2 0 = false := by
  and_intros <;> decide +kernel

theorem test_hyp_ReadyMirrorsAndPreparedCommitTheStep :
    (let p := msg [(0, 2), (32, 1)]
     let s : State := { cinched {} p with cinch := { cores := [(0, 3)] } }
     (s.core 0).headOut 0 = some p ∧ fld p 0 8 = 2 ∧ s.cinch.current (fld p 32 32) (fld p 64 32) = true ∧ s.cinch.state ≠ .resolve ∧
     s.cinch.lists 0 = true ∧ s.cinch.lists 1 = true ∧ 1 ∉ s.cinch.ready) ∧
    (let p := msg [(0, 2), (32, 1)]
     let s := cinched { state := .decided } p
     (s.core 0).headOut 0 = some p ∧ (∀ d, d < 360 → s.cinch.lists d = true → d = 0) ∧ s.cinch.lists 0 = true ∧ s.cinch.state = .decided ∧
     s.cinch.members = []) ∧
    (let p := msg [(0, 3), (32, 1)]
     let s := cinched {} p
     (s.core 0).headOut 0 = some p ∧ fld p 0 8 = 3 ∧ s.cinch.current (fld p 32 32) (fld p 64 32) = true) ∧
    (let s := cinched { members := [member 0, member 5] } 0
     s.cinch.current 1 0 = true ∧ s.cinch.state ≠ .resolve ∧ s.cinch.state ≠ .prepared ∧ s.cinch.lists 0 = true ∧ 0 ∉ s.cinch.ready ∧
     5 ∈ s.others) := by
  and_intros <;> decide +kernel

/-- HBM holds at address 0 the member table of epoch 1 with the packages 0 and 5. -/
def tableSt : State :=
  { State.reset with hbm := { page with mem := [(0, 1), (2, 2), (38, 0xFF), (39, 0xFF), (64, 5), (70, 0xFF), (71, 0xFF)] } }
/-- Packages 0 and 5 are members; the phase and the views as given. -/
def members (x : Cinch) (v : List StepView) : State :=
  { State.reset with cinch := { x with members := [member 0, member 5, member 9] }, ckpt := { views := v } }

theorem test_hyp_LostMembersAndNewEpochs :
    (let s : State := { members { state := .prepared } [] with now := 1000000 }
     s.owes 5 = true ∧ s.cinch.roundAt + s.cinch.tmo.toNat ≤ s.now ∧ s.rst.running = []) ∧
    (5 ∈ ({ members {} [] with links := { notices := [5] } } : State).links.notices ∧ 5 ∉ (members {} []).links.notices) ∧
    (∀ c, c < 360 → ((members {} []).core c).bkt.slots = []) ∧
    ((tableSt.readTable 1).2.map (fun t => t.members.map (·.pkg)) = some [0, 5] ∧ tableSt.epochError 1 (tableSt.readTable 1).2 = 0 ∧
      tableSt.ckpt.early = [] ∧
      tableSt.cinch.epoch.toNat < 1 ∧ tableSt.ownPkg = 0) ∧
    State.reset.epochError 0 (State.reset.readTable 0).2 ≠ 0 ∧ ({ epoch := 1 } : Cinch).epoch.toNat < (2 : BitVec 16).toNat ∧
    (0 : BitVec 16).toNat < ({ epoch := 1 } : Cinch).epoch.toNat ∧ 5 ∈ (members {} []).others ∧ (1 : Word) ≠ (members {} []).ckpt.ownDigest ∧
    (0 : Word) = (members {} []).ckpt.ownDigest ∧ (9 ∈ (members {} []).others ∧ 9 ∉ (members {} []).ckpt.digests) ∧
    ((0 : BitVec 32).toNat = (members {} []).cinch.epoch.toNat ∧ 5 ∈ (members {} []).survivors ∧ 5 ≠ (members {} []).ownPkg ∧
      9 ∈ (members {} []).survivors ∧ (members {} []).ckpt.views = []) ∧
    (0 : BitVec 32).toNat < (members { epoch := 1 } []).cinch.epoch.toNat := by
  and_intros <;> decide +kernel

/-- Cinch and the tiers as given, with packages 0 and 5. -/
def tiers (z : Ckpt) : State := { members {} [] with ckpt := z }

theorem test_hyp_TiersAndFillsProgress :
    ((tiers { reads := [1] }).ckpt.reads = [1] ∧ (tiers { reads := [1] }).cinch.state ≠ .collect) ∧
    (let s := tiers {}
     5 ∈ s.group ∧ s.leader = s.ownPkg ∧ (5, 1, true) ∉ s.ckpt.parts ∧ 9 ∈ s.group ∧ (9, 1, true) ∉ s.ckpt.parts) ∧
    (let s := tiers { parts := [(0, 1, false), (9, 1, false)] }
     (5, 1, false) ∉ s.ckpt.parts ∧ (∀ p, p ∈ s.group → p = 5 ∨ (p, 1, false) ∈ s.ckpt.parts)) ∧
    (let f : Fill := { state := 1, done := 3, total := 4, redo := 2 }
     1 ≤ f.state ∧ f.state ≤ 3 ∧ f.done < f.total ∧ (1 : BitVec 17).toNat = (f.redo + f.done) % f.total) ∧
    (let s : State := { tiers { fill := { state := 1, partnerB := 5 } } with now := 2000000000 }
     s.ckpt.fill.chunkAt + fld s.ckpt.ctl 41 16 * 1000 ≤ s.now ∧ s.ckpt.fill.partnerB ≠ 0xFFFF ∧ s.ckpt.fill.partnerB ∉ s.ckpt.lost) ∧
    (let s : State := { tiers { fill := { state := 2, partnerA := 0xFFFF } } with now := 2000000000 }
     s.ckpt.fill.state = 2 ∧ s.ckpt.fill.chunkAt + fld s.ckpt.ctl 41 16 * 1000 ≤ s.now ∧ s.ckpt.fill.partnerA = 0xFFFF) ∧
    (let f : Fill := { state := 3, done := 3, total := 4, fromStore := true }
     f.done + 1 = f.total ∧ f.fromStore = true ∧ (3 : BitVec 17).toNat = (f.redo + f.done) % f.total ∧ (tiers { fill := f }).ckpt.fills = [] ∧
     (tiers { fill := f }).ckpt.rebuild = none) ∧
    ({ state := 3 } : Fill).state = 3 := by
  and_intros <;> decide +kernel

/-! ## Witnesses: serving and scheduling -/

/-- Session 0 is open from address 1 and port 2, with lane 0 as given. -/
def openSess (x : Lane) : Session := { isOpen := true, addr := 1, port := 2, subs := 5, lanes := [(0, x)] }
def hostPort : HostPort := { sessions := [(0, openSess {})] }
/-- A datagram of session 0 with a SEQ on a lane: one whole message of a TYPE with a body of `bytes` zeros, before its HCRC. -/
def gramAt (seq lane type bytes : Nat) : Datagram :=
  ⟨1, 2, BitVec.ofNat 256 (1 + type * 2 ^ 8 + lane * 2 ^ 16 + seq * 2 ^ 64 + 2 ^ 176 + bytes * 2 ^ 192), List.replicate bytes 0, true, true⟩
def gramOf (e : Nat × Nat × Nat) : Datagram := gramAt 0 e.1 e.2.1 e.2.2
/-- The messages of the witnesses: lane, TYPE, bytes. -/
def msgs : List (Nat × Nat × Nat) :=
  [(3, 0x38, 116), (3, 0x38, 16), (3, 0x38, 32), (0, 0x39, 16), (0, 0x18, 24), (0, 0x04, 0), (0, 0x10, 12), (0, 0x11, 24), (2, 0x20, 80),
   (2, 0x28, 65), (2, 0x28, 64), (1, 0x30, 65)]

/-- What a datagram of session 0 carries decides whether it comes whole and in order to a state with that session. -/
def whole (d : Datagram) (lane type bytes : Nat) : Bool :=
  fld d.hdr 0 8 = 1 && fld d.hdr 19 5 = 0 && fld d.hdr 24 8 = 0 && fld d.hdr 48 16 = 0 && fld d.hdr 208 16 = 0 &&
    d.plen = d.payload.length && d.plen ≤ ({} : HostPort).maxpl && d.session = 0 && d.addr = 1 && d.port = 2 && d.nak = false &&
    d.ack = 0 && d.buffered && d.bodyOk && d.seq = 0 && d.nfrag ≤ d.frag + 1 &&
    (match d.joins none with | some x => x.next = x.nfrag && x.bytes = bytes && d.lane = lane && d.type = type | none => false)

theorem lane0 (l : Nat) : (openSess {}).lane l = {} := by
  unfold Session.lane openSess FMap.get
  rcases l with _ | l <;> rfl

theorem comes_of {s : State} {d : Datagram} {lane type bytes : Nat} (h1 : s.sess 0 = openSess {})
    (h2 : s.host.maxpl = ({} : HostPort).maxpl) (h3 : ∀ q, q ∈ s.host.queries → s.verdict q = none) (h : whole d lane type bytes = true) : s.Message d.seal lane type bytes := by
  simp only [whole, Bool.and_eq_true, decide_eq_true_eq] at h
  obtain ⟨⟨⟨⟨⟨⟨⟨⟨⟨⟨⟨⟨⟨⟨⟨⟨a1, a2⟩, a3⟩, a4⟩, a5⟩, a6⟩, a7⟩, hs⟩, a8⟩, a9⟩, a10⟩, a11⟩, a12⟩, a16⟩, a13⟩, a14⟩, a15⟩ := h
  apply Datagram.message_seal
  · simp only [a1, a2, a3, a4, a5, a6, h2, decide_true, Bool.true_and]
    rw [← a6]
    exact decide_eq_true a7
  · rw [hs, h1]; exact ⟨rfl, a8, a9⟩
  · refine ⟨a10, Or.inr ?_, fun _ q hq => ?_⟩
    · rw [State.laneOf, hs, h1, lane0, a11]
      decide
    · exact h3 q hq
  · exact a12
  · rw [State.laneOf, hs, h1, lane0]; exact a13
  · exact a14
  · exact a16
  · rw [State.wholeMsg, State.joined, hs, h1, lane0]; exact a15

/-- Each of the messages does. -/
theorem comes {s : State} (h1 : s.sess 0 = openSess {}) (h2 : s.host.maxpl = ({} : HostPort).maxpl) (h3 : ∀ q, q ∈ s.host.queries → s.verdict q = none) {e : Nat × Nat × Nat}
    (he : e ∈ msgs) : s.Message (gramOf e).seal e.1 e.2.1 e.2.2 :=
  comes_of h1 h2 h3 ((by decide +kernel : ∀ e ∈ msgs, whole (gramOf e) e.1 e.2.1 e.2.2 = true) e he)

/-- Partition 0 serves as given, and session 0 is open. -/
def opened (v : Serve) : State := { State.reset with host := hostPort, serve := [(0, v)] }
/-- A join that nothing refuses. -/
def joinOk : JoinRec := { join0 with topp := 0x3F800000, chunk := 1, ttl := 1000, toks := [0] }
def empty0 : Serve := { models := [(0, ⟨model0, 4, 0, 0, [], []⟩)] }

theorem opened_sess (v : Serve) : (opened v).sess 0 = openSess {} := rfl
theorem opened_maxpl (v : Serve) : (opened v).host.maxpl = ({} : HostPort).maxpl := rfl
theorem opened_comes (v : Serve) {e : Nat × Nat × Nat} (he : e ∈ msgs) : (opened v).Message (gramOf e).seal e.1 e.2.1 e.2.2 :=
  comes (opened_sess v) (opened_maxpl v) (fun _ h => nomatch h) he

theorem test_hyp_roster_messages (v : Serve) :
    (opened v).Message (gramOf (3, 0x38, 116)).seal 3 0x38 116 ∧ rosterBytes joinOk.prompt = 116 ∧ promptOk joinOk = true ∧
    (opened v).Message (gramOf (3, 0x38, 16)).seal 3 0x38 16 ∧ (opened v).Message (gramOf (3, 0x38, 32)).seal 3 0x38 32 ∧
    (opened v).Message (gramOf (0, 0x39, 16)).seal 0 0x39 16 :=
  ⟨opened_comes v (e := (3, 0x38, 116)) (by decide), by decide +kernel, by decide +kernel, opened_comes v (e := (3, 0x38, 16)) (by decide),
   opened_comes v (e := (3, 0x38, 32)) (by decide), opened_comes v (e := (0, 0x39, 16)) (by decide)⟩

/-- A datagram on a session that is not open is discarded. -/
theorem test_hyp_datagram_discarded (d : Datagram) : State.reset.datagramOk d = false := by
  rw [State.datagramOk, show (State.reset.sess d.session).isOpen = false from rfl]
  simp only [Bool.and_false, Bool.false_and]

theorem test_hyp_RosterMessagesAreQueued :
    (let s := opened empty0
     let v := s.serveOf 0
     v.knows 7 = false ∧ joinOk.resume = false ∧ v.joinRefused joinOk = none ∧ s.cancelHeld 0 7 = false ∧ s.query 0 7 = none) ∧
    (let v := serve0 { req0 with paused := true }
     v.joins = [] ∧ v.req 7 = some { req0 with paused := true } ∧ ({ joinOk with resume := true } : JoinRec).resume = true) ∧
    (({ handles := [⟨9, 0, 0, 0, 256, 1, false, 0, true⟩] } : Serve).handle 9 = some ⟨9, 0, 0, 0, 256, 1, false, 0, true⟩) ∧
    ((serve0 req0).joins = [] ∧ (serve0 req0).req 7 = some req0 ∧ req0.paused = false ∧ req0.leaving = 0 ∧ req0.finalSent = false) := by
  and_intros <;> decide +kernel

def modelOk : ModelRec := { model0 with classes := 256, eos := [] }
/-- One new join waits. -/
def joining : State := opened { empty0 with joins := [⟨joinOk, 0, 0, 1, 0, 0, false⟩] }

theorem test_hyp_ServingStepsModelsAndAdapters :
    (State.reset.modelBad 0 0 modelOk = false ∧ (State.reset.serveOf 0).model 0 = none ∧
      ({ modelOk with kvPages := 5 } : ModelRec).maxctx / 256 + 1 ≤ 5) ∧
    (1 : BitVec 32) ≠ 0 ∧ ({} : Serve).adapters.length < 4096 ∧ (({} : Serve).tailOpen = false ∧ State.reset.sec.recovery = false) ∧
    (let v := joining.serveOf 0
     v.joins = [⟨joinOk, 0, 0, 1, 0, 0, false⟩] ∧ v.reqs = [] ∧ v.owed = [] ∧ v.ops = [] ∧ v.fieldNew = 0 ∧ v.step.toNat + 1 = 1 ∧ joinOk.resume = false ∧ v.joinRefused joinOk = none ∧
     v.model 0 = some ⟨model0, 4, 0, 0, [], []⟩ ∧ cdiv (v.needOf joinOk model0 + 256 * 1) 256 ≤ 4 + 0 ∧
     joining.draftFits model0 (storeNeed joinOk model0) = true) ∧
    ({ tailOpen := true } : Serve).tailOpen = true ∧
    (let r := { req0 with leaving := 3 }
     (serve0 r).req 7 = some r ∧ r.leaving = 3 ∧ r.noticed = false ∧ r.slot.isSome = true) ∧
    (let s : State := { opened { cancels := [(7, ⟨0, 0⟩, 0)] } with now := 20000000 }
     (s.serveOf 0).cancels.find? (fun x => decide (x.1 = 7)) = some (7, ⟨0, 0⟩, 0) ∧ 0 + 1000 * fld s.host.hold 0 16 < s.now) := by
  and_intros <;> decide +kernel

def tok0 : Token := ⟨3, 0, 0, 0, some 0⟩
/-- One entry has waited for 1 us. -/
def coalesced : State :=
  { opened (serve0 { req0 with queue := [tok0], coalesceAt := some 0 }) with now := 1000 }
/-- A line of tokens from die 0 for channel 2 of core 0, whose slot 0 holds the RECV that names Tap. -/
def line0 : TokenLine := ⟨0, 2, 0, 0, 0, [8, 9], none⟩
def lineFor (x : Slot) : State := { one { slots := [(0, x)] } with tapLines := [line0] }
def tapRecv : Slot := { state := .active, desc := dsc [(0, 11), (229, 0x1FE), (238, 2)] }
def lacks (s : State) (n : Nat) : Bool :=
  let x := (s.core 0).slot n
  kindOf x.desc = 11 && wChan x.desc = 2 && wCore x.desc = 0x1FE && x.state = .active && !x.done && line0.offset < wLines x.desc &&
    !(s.core 0).filled 2 (x.start + line0.offset) && s.partOfBay (line0.die / 5) = s.partOf 0
/-- Flash holds a paused cache of request 7. -/
def pausedSt (r : Request) (x : PausedCache) : State := { opened (serve0 r) with flash := { paused := [x] }, now := 1000000 }

theorem test_hyp_TokensReachTheirRing :
    (let r := { req0 with kNow := 1, drafts := [(1, (0, []))] }
     (serve0 r).req 7 = some r ∧ 0 < r.kNow ∧ r.draftHere = false ∧ ∀ j, j < r.kNow → (r.drafts.find? (j + 1)).isSome = true) ∧
    ((lineFor tapRecv).tapLines = [] ++ line0 :: [] ∧ Core.slotNums.find? (lacks (lineFor tapRecv)) = some 0 ∧
      Core.slotNums.find? (lacks (lineFor {})) = none ∧ wBytes tapRecv.desc line0.offset ≤ 4 * line0.entries.length ∧
      (lineFor tapRecv).runFault 0 [] 0 (wBytes tapRecv.desc line0.offset) = none ∧ ((lineFor tapRecv).bay 0).state = .on) ∧
    (let w : InputLine := ⟨7, 0, [8, 9, 10, 11], true, none⟩
     let s : State := { lineFor tapRecv with tapLines := [{ line0 with input := some w }] }
     ({ line0 with input := some w } : TokenLine).input = some w ∧ w.part = s.partOf 0 ∧ (s.core 0).recvAt 2 ((s.core 0).welt.next.get 0 2) = some 0 ∧
     wRemote tapRecv.desc = false ∧ wCore tapRecv.desc = 0x1FE ∧ (2, 0) ∉ (s.core 0).welt.ahead ∧ wBytes tapRecv.desc 0 ≤ w.bytes.length ∧
     s.runFault 0 [] 0 (wBytes tapRecv.desc 0) = none) ∧
    (let r := { req0 with fly := [tok0] }
     (serve0 r).req 7 = some r ∧ r.fly = tok0 :: [] ∧ r.leaving ≠ 3 ∧ r.queue.length < 63) ∧
    (let r := { req0 with queue := [tok0], coalesceAt := some 0 }
     (coalesced.serveOf 0).req 7 = some r ∧ coalesced.ringDue r = true ∧ r.slot.isSome = true ∧ r.queue ≠ [] ∧
     r.queue.length ≤ 64 ∧ r.ringS % 4096 + r.queue.length ≤ 4096 ∧ r.ringS - r.consumed + r.queue.length ≤ 4096 ∧ (coalesced.sess r.sess).isOpen = true ∧ ((coalesced.sess 0).lane 3).waiting = [] ∧
     ((coalesced.sess 0).lane 3).flight.length < 256 ∧ coalesced.canSend r.sess 3 = true) ∧
    (let x : PausedCache := ⟨0, 7, 1, none, false, []⟩
     (pausedSt req0 x).flash.paused.find? (fun y => decide (y.part = 0 ∧ y.req = 7) && y.done.isNone) = some x) ∧
    (let x : PausedCache := ⟨0, 7, 1, some 0, false, []⟩
     let r := { req0 with paused := true }
     ((pausedSt r x).serveOf 0).req 7 = some r ∧ x.done = some 0 ∧ r.paused = true ∧ x.loading = false ∧
     0 + r.jrec.ttl * 1000000 ≤ (pausedSt r x).now) ∧
    (let x : PausedCache := ⟨0, 7, 1, some 0, true, []⟩
     let r := { req0 with loading := true }
     ((pausedSt r x).serveOf 0).req 7 = some r ∧
     (pausedSt r x).flash.paused.find? (fun y => decide (y.part = 0 ∧ y.req = 7) && y.loading) = some x) := by
  and_intros <;> decide +kernel

/-- A best-effort submission record for one core at HBM address 64; bytes of HBM address 64 + i. -/
def recMem (width : Byte) : Memory := [(64, 1), (68, 1), (70, 1), (72, width)]
/-- Core 0 has a SUBMIT of that record at its head. -/
def submits (width : Byte) : State :=
  { run { outbound := [(1, msg [(0, 1), (64, 64)])] } with hbm := { page with mem := recMem width } }
def placed0 (st : PlacedState) (cs ended moved : List Nat) : Placed := ⟨krec0, cs, ended, 0, 0, st, moved, false, 0, [], []⟩
/-- Core 0 holds a placed kernel and is as given. -/
def holds (st : PlacedState) (k : Core) : State := { one k with sched := [(0, { placed := [placed0 st [0] [] []] })] }

theorem test_hyp_TheSchedulerTakesItsWork :
    (let s := submits 1
     let p := msg [(0, 1), (64, 64)]
     let r := recordOf 64 (s.hbm.read 64 128)
     (s.core 0).headOut 1 = some p ∧ fld p 0 8 = 1 ∧ fld p 8 56 = 0 ∧ fld p 144 112 = 0 ∧ fld p 64 64 = 64 ∧ s.recMapped 64 = true ∧
     s.hbm.badIn 64 128 = none ∧ s.submitBad (s.partOf 0) r = false ∧ r.1.be = true) ∧
    (let s := submits 0
     s.submitBad (s.partOf 0) (recordOf 64 (s.hbm.read 64 128)) = true) ∧
    (let p := msg [(0, 2), (128, 5)]
     let s := run { outbound := [(1, p)] }
     (s.core 0).headOut 1 = some p ∧ fld p 0 8 = 2 ∧ fld p 8 56 = 0 ∧ fld p 144 112 = 0 ∧ fld p 128 16 ≠ 0 ∧
     ((s.schedOf 0).makeRoom 5 ((s.coresOf 0).filter (fun d => Config.hotCore 0 5 d)) (s.hotRange 0 5).1 (s.hotRange 0 5).2).isSome = true) ∧
    (1 ≤ fld (0xFA000 : Word) 10 10 ∧ fld (0xFA000 : Word) 10 10 ≤ 1000 ∧ ¬ (1 ≤ fld (0 : Word) 10 10)) ∧
    (let r := { req0 with ringS := 5, consumed := 3 }
     ((opened (serve0 r)).serveOf 0).req 7 = some r ∧ r.ringS < 6 ∧ 5 ≤ r.ringS ∧ r.consumed < 5 ∧ (opened (serve0 r)).ringDue r = false) ∧
    (let s : State := { holds .running {} with ends := [(0, ⟨0, 0, 0, 0, false, 0, false, false⟩)] }
     s.ends.find? 0 = some ⟨0, 0, 0, 0, false, 0, false, false⟩ ∧ (s.schedOf 0).holder 0 = some (placed0 .running [0] [] []) ∧
     (s.schedOf 0).waiting = [] ∧ ∀ x, x ∈ (s.schedOf 0).placed → x.state ≠ .saved ∧ x.state ≠ .restoring) := by
  and_intros <;> decide +kernel

/-- What a datagram of session 0 carries decides whether its header is right and its peer the session's. -/
theorem headerOk {s : State} {d : Datagram} (h1 : (s.sess 0).isOpen = true ∧ 1 = (s.sess 0).addr ∧ 2 = (s.sess 0).port) (h2 : s.host.maxpl = ({} : HostPort).maxpl)
    (h : (fld d.hdr 0 8 = 1 && fld d.hdr 19 5 = 0 && fld d.hdr 24 8 = 0 && fld d.hdr 48 16 = 0 && fld d.hdr 208 16 = 0 &&
      d.plen = d.payload.length && d.plen ≤ ({} : HostPort).maxpl) = true) (hs : d.session = 0) (ha : d.addr = 1) (hp : d.port = 2) :
    s.datagramOk d.seal = true := by
  rw [Datagram.datagramOk_seal, Datagram.formOk_seal, h2, h, hs, ha, hp, h1.1, ← h1.2.1, ← h1.2.2]
  rfl
/-- A DOORBELL message of two entries has run its first. -/
def rung (v : Serve) : State :=
  { opened v with host := { sessions := [(0, { openSess {} with bells := 2, bellNext := 1 })] } }

/-- A DOORBELL message of one entry comes, and the datagram that lane 0 has just taken brings a later entry. -/
theorem test_hyp_doorbell_entries (v : Serve) :
    (opened v).Message (gramOf (0, 0x18, 24)).seal 0 0x18 (24 * 1) ∧
    (rung v).datagramOk (gramAt 0xFFFFFFFF 0 0x18 24).seal = true ∧ (gramAt 0xFFFFFFFF 0 0x18 24).seal.lane = 0 ∧
    (gramAt 0xFFFFFFFF 0 0x18 24).seal.type = 0x18 ∧
    (gramAt 0xFFFFFFFF 0 0x18 24).seal.seq + 1 = ((rung v).laneOf (gramAt 0xFFFFFFFF 0 0x18 24).seal.session 0).rxSeq ∧
    (1 : Fin 256).val < ((rung v).sess 0).bells ∧ (1 : Fin 256).val = ((rung v).sess 0).bellNext := by
  rw [Datagram.seal_lane, Datagram.seal_type, Datagram.seal_seq, Datagram.seal_session, State.laneOf,
    show (gramAt 0xFFFFFFFF 0 0x18 24).session = 0 by decide +kernel,
    show ((rung v).sess 0).lane 0 = {} from rfl]
  refine ⟨opened_comes v (e := (0, 0x18, 24)) (by decide), headerOk (s := rung v) ⟨rfl, rfl, rfl⟩ rfl ?_ ?_ ?_ ?_, ?_, ?_, ?_, (by change 1 < 2; decide), rfl⟩ <;>
    decide +kernel

/-- The context of core 0 saved for kernel 1, with one live line. -/
def ctx0 : SavedCtx :=
  ⟨0, 1, { s := [(1, 9)] }, [], { mem := [(0, 7)], live := [0] }, {}, {}, {}, {}, 0, 0, 0, 6, []⟩

theorem test_hyp_CoresAreParkedSavedAndRestored :
    (let s : State := { one { sched := .parking } with parkedMsgs := [0] }
     0 ∈ s.parkedMsgs ∧ (s.core 0).sched = .parking ∧ ∀ r, r ∈ s.saddleReports → r.core ≠ 0) ∧
    (let s : State := { holds .parking { sched := .parking } with bays := [(0, { mash := 100000000 })] }
     (s.schedOf 0).holder 0 = some (placed0 .parking [0] [] []) ∧ (s.core 0).preemptAt + fld (s.schedOf 0).ctl 48 16 < s.mashOf 0 ∧
     0 ∉ (placed0 .parking [0] [] []).late ∧ s.rst.running = []) ∧
    (let s := holds .parking { sched := .parked }
     let w := placed0 .parking [0] [] []
     (s.schedOf 0).holder 0 = some w ∧ w.state = .parking ∧ (s.core 0).sched = .parked ∧ s.flushed 0 = true ∧ (s.core 0).keeps = false ∧
     ∀ d, d ∈ w.holds → (s.core d).sched = .parked) ∧
    (let s := holds .saving { sched := .saving, sp := { mem := [(0, 7)], live := [0] } }
     (s.schedOf 0).holder 0 = some (placed0 .saving [0] [] []) ∧ (s.core 0).sched = .saving ∧
     (s.core 0).softPinned = false ∧ s.saveBad 0 (placed0 .saving [0] [] []) = none ∧ ∀ y, y ∈ (s.schedOf 0).placed → y.state ≠ .restoring) ∧
    (let s : State := { holds .restoring { sched := .restoring } with saved := [(savedKey 0 1, ctx0)] }
     let w := placed0 .restoring [0] [] []
     (s.schedOf 0).holder 0 = some w ∧ s.saved.find? (savedKey 0 w.krec.kid) = some ctx0 ∧ (s.core 0).sched = .restoring ∧ 0 ∉ w.moved ∧
     w.cores.Nodup ∧ ((s.schedOf 0).placed.map (fun y => y.krec.kid)).Nodup ∧
     (∀ y, y ∈ (s.schedOf 0).placed → y.state = .restoring → y = w) ∧ (∀ d, d ∈ w.holds → d = 0 ∨ d ∈ w.moved) ∧ w.krec.hotset = 0 ∧ Memory.wf ctx0.sp.mem = true ∧ ctx0.sp.live = [0]) := by
  and_intros <;> decide +kernel

/-! ## Witnesses: Hopback -/

/-- A LOSS stream of one element: the parameter block in line 1 with Q1 at line 2, Q2 at lines 3 and 4, Q3 at line 8, Q4 at line
16, temperature 1, both references 160 and kept so; channel 0 is enabled with one tile of one line received. -/
def lossSt (kind pass tsrc rel : Nat) : State :=
  strm { queued (dsc [(0, 6), (216, kind), (220, pass), (222, tsrc), (227, rel)]) with auxBase := 1, dstBase := 5 }
    { sp := { mem := [(256, 2), (260, 0x80), (264, 3), (266, 2), (268, 0x80), (272, 8), (276, 0x80), (280, 16), (284, 0x80), (290, 0x80),
        (291, 0x3F), (768, 160), (1024, 160)] },
      hop := { chans := [(0, { cfg := 0x1000801020020, received := 1, onePtr := 1 })], refs := [[(160, 160)]] } }

/-- A teacher tile at Q1 in accessible rows is a teacher input that is there. -/
theorem teacherOk_of_tile (s : State) (c n first : Nat) (P : Nat → Prop) (hn : hNames ((s.core c).slot n).desc = false)
    (ht : hTsrc ((s.core c).slot n).desc = 1)
    (h : ∀ i, i < dTiles ((s.core c).slot n).desc → ∀ r, r < dRows ((s.core c).slot n).desc →
      s.runFault c [] (rowAddr 0 ((s.lossBlock c n).e 0).line ((s.lossBlock c n).e 0).str (i * dRows ((s.core c).slot n).desc + r))
        (rowBytes ((s.lossBlock c n).e 0).fmt (dCols ((s.core c).slot n).desc)) = none) : s.TeacherOk c n first P := by
  intro i hi
  refine ⟨fun h' => by simp [hn] at h', fun r hr _ => ?_⟩
  simp only [ht]
  exact h i hi r hr

/-- So is a ring tile that has arrived in the stream's shape and step. -/
theorem teacherOk_of_ring (s : State) (c n first : Nat) (P : Nat → Prop) (ht : hTsrc ((s.core c).slot n).desc = 0)
    (h : ∀ i, i < dTiles ((s.core c).slot n).desc →
      first + i < ((s.core c).hopChan (hChan ((s.core c).slot n).desc)).received ∧
      ((s.core c).hopChan (hChan ((s.core c).slot n).desc)).tileFault (first + i) ((s.core c).slot n).desc (s.lossBlock c n).step = none ∧
      ∀ r, r < dRows ((s.core c).slot n).desc → s.runFault c [hChan ((s.core c).slot n).desc]
        (256 * (((s.core c).hopChan (hChan ((s.core c).slot n).desc)).tileLine (first + i) + r * cdiv (dCols ((s.core c).slot n).desc) 64))
        (rowBytes 0 (dCols ((s.core c).slot n).desc)) = none) : s.TeacherOk c n first P := by
  intro i hi
  refine ⟨fun _ => ⟨(h i hi).1, (h i hi).2.1⟩, fun r hr _ => ?_⟩
  simp only [ht]
  exact (h i hi).2.2 r hr

theorem test_hyp_HopbackPassOne :
    (lossSt 0 0 1 0).LossReady 0 0 0 ∧ (lossSt 0 0 1 0).RowsOk 0 [] 0 0 4 1 ∧ (lossSt 0 0 1 0).TeacherOk 0 0 0 (fun _ => False) ∧
    (lossSt 0 0 1 0).ImagesOk 0 8 1 2 ∧ hImages (((lossSt 0 0 1 0).core 0).slot 0).desc = [0, 1] ∧
    (∀ j, j < 2 → (lossSt 0 0 1 0).runFault 0 [] (256 * (3 + j)) 4 = none) ∧ ((lossSt 0 0 1 0).lossBlock 0 0).e 1 = ⟨3, 1, 0, false, true, true⟩ := by
  refine ⟨?_, ?_, teacherOk_of_tile _ _ _ _ _ (by decide +kernel) (by decide +kernel) (by decide +kernel), ?_, ?_, ?_, ?_⟩
  · unfold State.LossReady State.Taken State.SpSound
    decide +kernel
  · unfold State.RowsOk
    decide +kernel
  · intro pos r hp hr
    exact (by decide +kernel : ∀ pos, pos < 2 → ∀ r, r < 1 → (lossSt 0 0 1 0).runFault 0 [] (hImgAddr 8 1 pos r) 64 = none) pos hp r hr
  · decide +kernel
  · decide +kernel
  · decide +kernel

theorem test_hyp_HopbackEmit :
    (lossSt 0 1 1 0).LossReady 0 0 1 ∧
    (∀ p ∈ (hImages (((lossSt 0 1 1 0).core 0).slot 0).desc).zipIdx, ∀ r, r < 1 →
      let a := 256 * (3 + (if p.1 = 1 then 1 else 0)) + 4 * r
      (lossSt 0 1 1 0).runFault 0 [] a 4 = none ∧ ¬ (8 ≤ a / 256 ∧ a / 256 < 8 + 2 * 1) ∧
      (emitImage (toSigned 32 (bytesNat (((lossSt 0 1 1 0).core 0).spRead a 4))) ((lossSt 0 1 1 0).lossImage 0 8 1 p.2 r)).isSome = true) := by
  unfold State.LossReady State.Taken State.SpSound
  and_intros <;> decide +kernel

/-- Kind SQ from channel 0 with release. -/
theorem test_hyp_HopbackPassTwoOnAChannel :
    (lossSt 2 2 0 1).LossReady 0 0 2 ∧ hKind (((lossSt 2 2 0 1).core 0).slot 0).desc = 2 ∧ hNames (((lossSt 2 2 0 1).core 0).slot 0).desc = true ∧
    hRelease (((lossSt 2 2 0 1).core 0).slot 0).desc = true ∧ (lossSt 2 2 0 1).RowsOk 0 [] 0 0 4 1 ∧
    (lossSt 2 2 0 1).TeacherOk 0 0 0 (InRows 5 0 4 1) ∧ (lossSt 2 2 0 1).RowsOk 0 [] 5 0 4 1 ∧
    dTiles (((lossSt 2 2 0 1).core 0).slot 0).desc ≤ (((lossSt 2 2 0 1).core 0).hopChan 0).tiles := by
  refine ⟨?_, ?_, ?_, ?_, ?_, teacherOk_of_ring _ _ _ _ _ (by decide +kernel) (by decide +kernel), ?_, ?_⟩
  · unfold State.LossReady State.Taken State.SpSound
    decide +kernel
  all_goals first | decide +kernel | (unfold State.RowsOk; decide +kernel)

/-- Kind FKL from a teacher tile. -/
theorem test_hyp_HopbackPassTwoWithNormalisers :
    (lossSt 0 2 1 0).LossReady 0 0 2 ∧ (lossSt 0 2 1 0).TeacherOk 0 0 0 (InRows 5 0 4 1) ∧ (lossSt 0 2 1 0).NormOk 0 0 ∧
    ∀ a, InImages 16 1 2 a → ¬ InRows 5 0 4 1 a := by
  refine ⟨?_, teacherOk_of_tile _ _ _ _ _ (by decide +kernel) (by decide +kernel) (by decide +kernel), ?_, ?_⟩
  · unfold State.LossReady State.Taken State.SpSound
    decide +kernel
  · unfold State.NormOk
    decide +kernel
  · rintro a ⟨h1, _⟩ ⟨i, hi, hm⟩
    have : linesOf (rowAddr 0 5 0 0) 4 = [5] := by decide +kernel
    obtain rfl : i = 0 := by omega
    rw [this, List.mem_singleton] at hm
    omega

theorem test_hyp_HopbackTopkAndGate :
    (lossSt 7 2 1 0).LossReady 0 0 2 ∧ (lossSt 7 2 1 0).NormOk 0 0 ∧ ((lossSt 7 2 1 0).lossBlock 0 0).k = 0 ∧
    (lossSt 7 2 1 0).RowsOk 0 [] 5 0 256 1 ∧ (lossSt 0 3 1 0).LossReady 0 0 3 ∧ (lossSt 0 3 1 0).RowsOk 0 [] 0 0 64 1 ∧
    (lossSt 0 3 1 0).RowsOk 0 [] 2 0 12 1 ∧ (lossSt 0 3 1 0).RowsOk 0 [] 5 0 4 1 ∧ ∀ a, InImages 8 1 1 a ∨ InImages 16 1 1 a → ¬ InRows 5 0 256 1 a := by
  refine ⟨?_, ?_, ?_, ?_, ?_, ?_, ?_, ?_, ?_⟩
  · unfold State.LossReady State.Taken State.SpSound
    decide +kernel
  · unfold State.NormOk
    decide +kernel
  · decide +kernel
  · unfold State.RowsOk
    decide +kernel
  · unfold State.LossReady State.Taken State.SpSound
    decide +kernel
  · unfold State.RowsOk
    decide +kernel
  · unfold State.RowsOk
    decide +kernel
  · unfold State.RowsOk
    decide +kernel
  · rintro a h ⟨i, hi, hm⟩
    have : linesOf (rowAddr 0 5 0 0) 256 = [5] := by decide +kernel
    obtain rfl : i = 0 := by omega
    rw [this, List.mem_singleton] at hm
    unfold InImages at h
    omega

/-- Their image tiles are accessible, and the channel's ONE pointer lets pass TWO start. -/
theorem imagesOk_of (s : State) (line rows kinds : Nat)
    (h : ∀ pos, pos < kinds → ∀ r, r < rows → s.runFault 0 [] (hImgAddr line rows pos r) 64 = none) : s.ImagesOk 0 line rows kinds :=
  fun pos r hp hr => h pos hp r hr

theorem test_hyp_HopbackImages :
    (((lossSt 0 2 1 0).lossBlock 0 0).e 1).line = 3 ∧ (((lossSt 0 2 1 0).lossBlock 0 0).e 2).line = 8 ∧
    (((lossSt 0 2 1 0).lossBlock 0 0).e 3).line = 16 ∧ (lossSt 2 2 0 1).ImagesOk 0 3 1 1 ∧ (lossSt 0 2 1 0).ImagesOk 0 3 1 1 ∧
    (lossSt 0 2 1 0).ImagesOk 0 16 1 2 ∧ (lossSt 7 2 1 0).ImagesOk 0 8 1 1 ∧ (lossSt 7 2 1 0).ImagesOk 0 16 1 1 ∧
    (((lossSt 2 2 0 1).core 0).hopChan 0).twoPtr + dTiles (((lossSt 2 2 0 1).core 0).slot 0).desc ≤ (((lossSt 2 2 0 1).core 0).hopChan 0).onePtr := by
  refine ⟨?_, ?_, ?_, imagesOk_of _ _ _ _ ?_, imagesOk_of _ _ _ _ ?_, imagesOk_of _ _ _ _ ?_, imagesOk_of _ _ _ _ ?_,
    imagesOk_of _ _ _ _ ?_, ?_⟩ <;> decide +kernel
/-! ## Witnesses: the host port -/

/-- Session 0 is open from address 1 and port 2, with lane 0 as given. -/
def sess0 (x : Lane) : State := { State.reset with host := { sessions := [(0, openSess x)] } }
/-- A datagram of session 0 on lane 0 without a payload, before its HCRC: TYPE, SEQ, ACK, NAK, NFRAG; and whether N1 can buffer it. -/
def bare (type seq ack : Nat) (nak : Bool) (nfrag : Nat) (buffered : Bool) : Datagram :=
  ⟨1, 2, BitVec.ofNat 256 (1 + type * 2 ^ 8 + b2n nak * 2 ^ 18 + seq * 2 ^ 64 + ack * 2 ^ 96 + nfrag * 2 ^ 176), [], buffered, true⟩
/-- A datagram that left with TYPE 1 and `n` sendings. -/
def flown (n : Nat) : Gram := { sent := n, type := 1, msgid := 0, frag := 0, nfrag := 1, plen := 0 }
/-- Address of SR_SEED of core 0. -/
def seedAddr : Nat := bayBase + 0x700

/-- Headers of each kind are right, on session 0. -/
theorem test_hyp_headers (x : Lane) :
    ∀ d ∈ [bare 0x38 0 0 false 2 true, bare 0x38 0 0 false 2 false, bare 0x38 5 0 false 2 true, bare 0x38 0x80000000 0 false 2 true,
        bare 1 0 1 false 1 true, bare 1 0 0 true 1 true],
      ({ State.reset with host := { sessions := [(0, openSess x)] } } : State).datagramOk d.seal = true := by
  intro d hd
  have h : ∀ d ∈ [bare 0x38 0 0 false 2 true, bare 0x38 0 0 false 2 false, bare 0x38 5 0 false 2 true, bare 0x38 0x80000000 0 false 2 true,
        bare 1 0 1 false 1 true, bare 1 0 0 true 1 true],
      (fld d.hdr 0 8 = 1 && fld d.hdr 19 5 = 0 && fld d.hdr 24 8 = 0 && fld d.hdr 48 16 = 0 && fld d.hdr 208 16 = 0 &&
        d.plen = d.payload.length && d.plen ≤ ({} : HostPort).maxpl) = true ∧ d.session = 0 ∧ d.addr = 1 ∧ d.port = 2 := by
    decide +kernel
  obtain ⟨h1, h2, h3, h4⟩ := h d hd
  rw [Datagram.datagramOk_seal, Datagram.formOk_seal, h2, h3, h4]
  exact (Bool.and_eq_true _ _).mpr ⟨(Bool.and_eq_true _ _).mpr ⟨(Bool.and_eq_true _ _).mpr ⟨h1, rfl⟩, rfl⟩, rfl⟩

/-- The OPEN datagram of a session that is closed. -/
theorem test_hyp_open :
    State.reset.openOk (gramAt 0 0 2 16).seal = true ∧ (gramAt 0 0 2 16).seal.type = 2 ∧ (gramAt 0 0 2 16).seal.lane = 0 ∧
    (gramAt 0 0 2 16).seal.nfrag = 1 ∧ (gramAt 0 0 2 16).seal.frag = 0 ∧ (gramAt 0 0 2 16).seal.plen ≠ 0 ∧
    (State.reset.sess (gramAt 0 0 2 16).seal.session).isOpen = false := by
  rw [Datagram.seal_type, Datagram.seal_lane, Datagram.seal_nfrag, Datagram.seal_frag, Datagram.seal_plen, Datagram.seal_session,
    State.openOk, Datagram.formOk_seal, Datagram.seal_session]
  and_intros <;> decide +kernel

theorem test_hyp_DatagramsSessionsAndRegisterAccess :
    (let part := bare 0x38 0 0 false 2 true
     part.nak = false ∧ part.frag + 1 < part.nfrag ∧ part.buffered = true ∧ (part.seq - ((sess0 {}).laneOf 0 0).rxSeq).toNat = 0 ∧
     hostTypes.contains 0x7F = false ∧ (bare 1 0 1 false 1 true).type = 1 ∧ (bare 0x38 0 0 false 2 false).buffered = false ∧
     0 < ((bare 0x38 5 0 false 2 true).seq - ((sess0 {}).laneOf 0 0).rxSeq).toNat ∧
     ((bare 0x38 5 0 false 2 true).seq - ((sess0 {}).laneOf 0 0).rxSeq).toNat < 2 ^ 31 ∧ ((sess0 {}).laneOf 0 0).nakSent = false ∧
     2 ^ 31 ≤ ((bare 0x38 0x80000000 0 false 2 true).seq - ((sess0 {}).laneOf 0 0).rxSeq).toNat) ∧
    (let x := (sess0 { txNext := 3, flight := [flown 1, flown 7] }).laneOf 0 0
     1 ≤ ((bare 1 0 1 false 1 true).ack + 1 - (x.txNext - BitVec.ofNat 32 x.flight.length)).toNat ∧
     ((bare 1 0 1 false 1 true).ack + 1 - (x.txNext - BitVec.ofNat 32 x.flight.length)).toNat ≤ x.flight.length ∧ x.waiting = [] ∧
     ((bare 1 0 0 true 1 true).ack + 1 - (x.txNext - BitVec.ofNat 32 x.flight.length)).toNat = 0 ∧ (bare 1 0 0 true 1 true).nak = true ∧
     x.flight.head? = some (flown 1) ∧ (flown 1).sent < 8) ∧
    (let s : State := { sess0 { flight := [flown 8], rxPend := 1 } with now := 200000 }
     (s.sess 0).isOpen = true ∧ (s.laneOf 0 0).progressAt + 1000 * fld s.host.rto (16 * 0) 16 ≤ s.now ∧
     (s.laneOf 0 0).flight.head? = some (flown 8) ∧ 8 ≤ (flown 8).sent ∧ 0 < (s.laneOf 0 0).rxPend ∧ (s.laneOf 0 0).rxAt + 2000 ≤ s.now ∧
     s.laneHeld 0 = false) ∧
    (((sess0 {}).sess 0).isOpen = true ∧ ((sess0 {}).laneOf 0 0).waiting = [] ∧ ((sess0 {}).laneOf 0 0).flight.length < 256 ∧
      (sess0 {}).laneHeld 0 = false) ∧
    (0x0700, CoreReg.srSeed, 64) ∈ csrTable ∧ (sess0 {}).access seedAddr 1 = (0, [.core 0 .srSeed]) ∧
    ((sess0 {}).access 4 1).2 = [] ∧ (Reg.core 0 .mashCtl).sealable = true ∧
    ({ sess0 {} with sec := { sealed_ := true } } : State).sec.sealed_ = true := by
  and_intros <;> decide +kernel

theorem sess0_comes {e : Nat × Nat × Nat} (he : e ∈ msgs) : (sess0 {}).Message (gramOf e).seal e.1 e.2.1 e.2.2 :=
  have h1 : (sess0 {}).sess 0 = openSess {} := rfl
  have h2 : (sess0 {}).host.maxpl = ({} : HostPort).maxpl := rfl
  comes h1 h2 (fun _ h => nomatch h) he

/-- A CLOSE, a CSR_READ and a CSR_WRITE of one word come. -/
theorem test_hyp_register_messages :
    (sess0 {}).Message (gramOf (0, 0x04, 0)).seal 0 0x04 0 ∧ (sess0 {}).Message (gramOf (0, 0x10, 12)).seal 0 0x10 12 ∧
    (sess0 {}).Message (gramOf (0, 0x11, 24)).seal 0 0x11 24 :=
  ⟨sess0_comes (e := (0, 0x04, 0)) (by decide), sess0_comes (e := (0, 0x10, 12)) (by decide), sess0_comes (e := (0, 0x11, 24)) (by decide)⟩

/-- HBM holds an ingest queue table at address 0 whose queue 0 has records of 64 bytes, two of them, at address 1,024. -/
def ingestSt (e : Ingest) : State :=
  { sess0 {} with
    hbm := { page with mem := [(1, 4), (8, 64), (12, 2)] }
    host := { (sess0 {}).host with ingest := [(0, e)] } }
def query0 : LcQuery := ⟨9, 0, 0, 1000, 1, 4, true, [5]⟩
def open0 : Query :=
  { req := 9, part := 0, model := 0, answering := 0, sess := 0, arrive := 0, deadline := 1000000, outMax := 4, launched := true, fault := false,
    schedLate := false, released := false, output := none, input := [], inCrc := 0, dcrc := 0, cores := [], passed := [], rest := 0, fallback := false, dip := false,
    orphan := false }
def asked (q : Query) : State := { sess0 {} with host := { (sess0 {}).host with queries := [q] } }
/-- Partition 0 has a FIELD model. -/
def fieldSt : State := { sess0 {} with serve := [(0, { models := [(0, ⟨{ model0 with field := true }, 4, 0, 0, [], []⟩)] })] }

theorem test_hyp_LoadsIngestQueriesAndReports :
    (fld (0x01 : BitVec 8) 1 3 < 4 ∧ 4 ≤ fld (0x08 : BitVec 8) 1 3 ∧ fld (0x10 : BitVec 8) 4 4 ≠ 0) ∧
    (let s := ingestSt {}
     s.sec.recovery = false ∧ (∀ x, x ∈ sectorsOf 2048 64 → s.hbm.sysCheck x 1 = .ok) ∧ s.hbm.stoppedIn 2048 64 = none ∧
     ∀ j, j < 64 → ((s.hbm.key (2048 + j)).any (fun y => s.hbm.takes (y / stackBytes))) = true) ∧
    (let s := ingestSt { produced := 2, freed := 1 }
     let g := (s.ingEntry 0).2
     let u := (s.ingEntry 0).1.hbm
     s.hbm.sysCheck (s.host.ingTbl + 32 * 0) 32 = .ok ∧ s.hbm.badIn (s.host.ingTbl + 32 * 0) 32 = none ∧
     g.recsz = 64 ∧ g.base = 1024 ∧ 64 < 49 + 16 ∧ 48 + 16 ≤ g.recsz ∧
     (s.host.ingest.get {} 0).produced - (s.host.ingest.get {} 0).freed < g.entries ∧ u.sysCheck 1024 64 = .ok ∧ u.stoppedIn 1024 64 = none) ∧
    (let s := ingestSt { produced := 2 }
     (s.ingEntry 0).2.entries ≤ (s.host.ingest.get {} 0).produced - (s.host.ingest.get {} 0).freed) ∧
    (let m : MboxMsg := ⟨0, 5, 0, .ingest 3, some 0⟩
     ({ sess0 {} with mboxes := [m] } : State).mboxes = [] ++ m :: [] ∧ m.source = .ingest (3 : Fin 16).val ∧ m.retryAt = some 0) ∧
    (let s := run { outbound := [(2, msg [(0, 2), (32, 7)])] }
     (s.core 0).headOut 2 = some (msg [(0, 2), (32, 7)]) ∧ fld (msg [(0, 2), (32, 7)]) 0 8 = 2 ∧ fld (msg [(0, 1)]) 0 8 = 1 ∧
     fld (msg [(0, 3)]) 0 8 = 3 ∧ s.host.hostMsgs.length < 256 ∧ s.subscribers subFault = [] ∧ (sess0 {}).subscribers subFault ≠ []) ∧
    (fieldSt.query 0 9 = none ∧ fieldSt.queryBad query0 = false ∧ ((asked open0).query 0 9).isSome = true ∧ (fieldSt.schedOf 0).waiting = []) ∧
    (let s := asked open0
     s.query 0 9 = some open0 ∧ open0.fault = false ∧ s.host.lcStopped = false ∧ open0.orphan = false ∧ open0.schedLate = false ∧
     s.now < s.latePoint open0 ∧ crc32c 0 [] = 0 ∧ ([] : List Byte).length ≤ open0.outMax ∧ s.mayRelease open0 = true ∧
     s.mayRelease { open0 with launched := false } = false ∧ ({ s with now := 900000 } : State).latePoint open0 ≤ 900000) ∧
    (let k : Core := { hop := { gates := [1] } }
     k.hop.gates = 1 :: []) ∧
    (let s : State := { sess0 {} with host := { (sess0 {}).host with gates := [{ item := (0, 1), sent := false, acked := false, wait := [] }] }, now := 100000 }
     s.host.gateAt = some 0 ∧ 0 + 1000 * fld s.host.hold 16 16 ≤ s.now ∧ s.subscribers subGate ≠ [] ∧ 99999 < 0 + 1000 * fld s.host.hold 16 16) ∧
    (let r := State.reset.pkgReport 0x0206
     ({ sess0 {} with reports := [r] } : State).reports = r :: [] ∧ (sess0 {}).host.faults.length < 1024) := by
  and_intros <;> decide +kernel

theorem ingest_comes (i : Ingest) {e : Nat × Nat × Nat} (he : e ∈ msgs) : (ingestSt i).Message (gramOf e).seal e.1 e.2.1 e.2.2 :=
  have h1 : (ingestSt i).sess 0 = openSess {} := rfl
  have h2 : (ingestSt i).host.maxpl = ({} : HostPort).maxpl := rfl
  comes h1 h2 (fun _ h => nomatch h) he
theorem query_comes {e : Nat × Nat × Nat} (he : e ∈ msgs) :
    fieldSt.Message (gramOf e).seal e.1 e.2.1 e.2.2 ∧ (asked open0).Message (gramOf e).seal e.1 e.2.1 e.2.2 :=
  have h1 : fieldSt.sess 0 = openSess {} := rfl
  have h2 : fieldSt.host.maxpl = ({} : HostPort).maxpl := rfl
  have h3 : (asked open0).sess 0 = openSess {} := rfl
  have h4 : (asked open0).host.maxpl = ({} : HostPort).maxpl := rfl
  ⟨comes h1 h2 (fun _ h => nomatch h) he,
   comes h3 h4 (by decide +kernel : ∀ q, q ∈ (asked open0).host.queries → (asked open0).verdict q = none) he⟩

/-- A LOAD of 64 bytes, INGEST samples of 49 and of 48 bytes and an LC_QUERY of one byte come. -/
theorem test_hyp_load_messages (i : Ingest) :
    (ingestSt i).Message (gramOf (2, 0x20, 80)).seal 2 0x20 80 ∧ (ingestSt i).Message (gramOf (2, 0x28, 65)).seal 2 0x28 65 ∧
    (ingestSt i).Message (gramOf (2, 0x28, 64)).seal 2 0x28 64 ∧ 64 + query0.input.length = 65 ∧
    fieldSt.Message (gramOf (1, 0x30, 65)).seal 1 0x30 65 ∧ (asked open0).Message (gramOf (1, 0x30, 65)).seal 1 0x30 65 :=
  ⟨ingest_comes i (e := (2, 0x20, 80)) (by decide), ingest_comes i (e := (2, 0x28, 65)) (by decide),
   ingest_comes i (e := (2, 0x28, 64)) (by decide), rfl, (query_comes (e := (1, 0x30, 65)) (by decide)).1,
   (query_comes (e := (1, 0x30, 65)) (by decide)).2⟩

theorem test_hyp_FramesAndQueuePairsTakeEffect :
    State.reset.qpTarget 0 = none ∧ State.reset.qpTarget 0x100 = some 0 ∧
    (let s : State := { State.reset with ckpt := { fill := { state := 3, fromStore := true } } }
     s.ckpt.fill.fromStore = true ∧ s.ckpt.fill.state = 3 ∧ (s.qpTarget 0x100).isSome = true) ∧
    (let z : Ckpt := { writes := [(1, false, 9), (1, true, 2)] }
     z.writes.find? (fun w => w.2.1) = some (1, true, 2) ∧ 1 < 2 ∧ 2 ≤ 2) ∧
    ({} : Ckpt).writes.find? (fun w => w.2.1) = none := by
  and_intros <;> decide +kernel

/-! ## Witnesses: memory, safety, power, security, reset -/

/-- One mapped page whose first sector is marked as given. -/
def marked (m : Nat) : State := { State.reset with hbm := { page with bad := [(0, m)], scrub := 0x100 } }
def gen0 : Gen := ⟨1, true, false, 5, ⟨1, 0, 0, [], [], [], [], [], [], [], [], [], []⟩, []⟩

theorem test_hyp_MemoryAndFlashCommandsTakeEffect :
    (hbmReqCheck (marked 0) ⟨.n1, 0, some []⟩ = .ok ∧ (marked 0).hbm.stoppedIn 0 64 = none ∧
      ({ page with stopped := [0] } : Hbm).stoppedIn 0 64 = some 0 ∧ (marked 1).hbm.mark 0 ≠ 2 ∧ (marked 2).hbm.mark 0 = 2) ∧
    hbmReqCheck (marked 0) ⟨.n1, 4096, none⟩ = .unmapped ∧
    hbmReqCheck { State.reset with hbm := { page with dark := [0] } } ⟨.n1, 0, none⟩ = .denied ∧
    (bit (0x20000000000 : Word) 41 = true ∧ State.reset.hbm.valid 63 = false ∧ page.valid 0 = true ∧ bit (0 : Word) 41 = false) ∧
    (bit State.reset.hbm.scrub 8 = true ∧ bit ({ scrub := 0 } : Hbm).scrub 8 = false ∧ bit (marked 0).hbm.scrub 8 = true ∧
      (marked 0).hbm.moved = [] ∧ (0 ∈ ({ moved := [0] } : Hbm).moved) ∧ (marked 0).hbm.bad.get 0 (0 * stackBytes / 64 + 0) = 0 ∧ (marked 1).hbm.bad.get 0 0 = 1 ∧ (marked 2).hbm.bad.get 0 0 = 2 ∧
      999999999 < 1000000000) ∧
    (let s : State := { State.reset with ckpt := { restore := some 1 }, gens := [gen0] }
     s.ckpt.restore = some (1 : BitVec 32).toNat ∧ s.gens.find? (fun x => decide (x.step = 1)) = some gen0 ∧ (6 : BitVec 512) ≠ gen0.digest ∧
     ∀ i, i < 4 → s.flash.state i ≠ 3) ∧
    (let z : Ckpt := { writes := [(1, false, 0)] }
     z.restore ≠ some 1 ∧ (1, false, 0) ∈ z.writes ∧ State.reset.flash.stopped = false) ∧
    (let x : PausedCache := ⟨0, 7, 1, none, false, []⟩
     x ∈ [x] ∧ x.part = (0 : Fin 12).val ∧ x.req = (7 : Word).toNat) := by
  and_intros <;> decide +kernel

theorem test_hyp_SafetyMonitorsTakeEffect :
    State.reset.rst.running = [] ∧ ({ closing := false } : SafeCore).closing = false ∧
    (let s := one { safe := { closing := true } }
     (s.core 0).safe.closing = true ∧ (s.schedOf (s.partOf 0)).waiting = [] ∧ ∀ w, w ∈ (s.schedOf (s.partOf 0)).placed → w.state ≠ .saved ∧ w.state ≠ .restoring) ∧
    (let s : State := { one { seq := { kernel := some { kern with enforced := true } } } with bays := [(0, { mash := 13001 })] }
     (s.core 0).seq.kernel.any (fun r => r.enforced) = true ∧ (s.core 0).seq.faulted = none ∧ (s.core 0).seq.parked = false ∧
     (s.core 0).seq.sigMark + 13000 < s.mashOf 0) ∧
    ((State.reset.bay 11).state = .on ∧ (State.reset.bay 11).clk.getLast? = some ⟨0, 0, 0, 104, 1⟩ ∧
      outOfRange 1300000 (104 * 12500) = false ∧ outOfRange 1273999 (104 * 12500) = true ∧ outOfRange 1326001 (104 * 12500) = true ∧
      ({ state := .gated } : Bay).state ≠ .on) ∧
    (let s : State := { State.reset with now := 100000000 }
     s.safety.saddleSilent = false ∧ s.safety.lastBeat + 1000 * fld s.safety.ctl 32 16 ≤ s.now ∧ s.safety.saddleStopped = false ∧
     ({ saddleStopped := true } : SafetyRegs).saddleStopped = true ∧ s.host.lcStopped = false) ∧
    (let q : Query := { open0 with cores := [3] }
     let r : Report := { State.reset.pkgReport 5 with core := 3 }
     let s : State := { asked q with saddleReports := [r] }
     s.saddleReports = r :: [] ∧ s.names r q = true ∧ s.query q.part q.req = some q ∧ q.launched = true ∧ q.released = false ∧ q.fault = false ∧
     s.names r open0 = false) := by
  and_intros <;> decide +kernel

theorem test_hyp_PowerEventsTakeEffect :
    State.reset.rst.running = [] ∧
    (let s : State := { State.reset with flits := [flitFrom 1 4 0 0 (.flush 0)] }
     s.bayReqErr 0 1 ≠ 0) ∧
    ((State.reset.bay 0).below 0 94 = true ∧ (State.reset.bay 0).below 0 88 = true ∧ (State.reset.bay 0).below 2000 94 = false ∧
      railBelow .fab 0 94 = true ∧ railBelow .fab 0 88 = true ∧ railBelow .fab 9999 94 = false ∧ railBelow .fab 9999 88 = false ∧
      (State.reset.bay 0).state = .on) ∧
    State.reset.bayReqErr 11 2 = 0 ∧ (State.reset.bay 11).state ≠ .reset ∧
    (fld State.reset.glob.thermCtl 8 8 ≤ (255 : BitVec 8).toNat ∧ (0 : BitVec 8).toNat < fld State.reset.glob.thermCtl 8 8 ∧
      (59 : Fin 100).val < 60 ∧ 60 ≤ (60 : Fin 100).val ∧ (State.reset.bay (59 / 5)).state ≠ .reset ∧ ({ state := .reset } : Bay).state = .reset) ∧
    (State.reset.now < State.reset.glob.wattsAt + 100000 ∧ 0 + 100000 ≤ ({ State.reset with now := 100000 } : State).now ∧
      fld State.reset.glob.pkgCap 0 16 * 1 < (0xFFFF : BitVec 16).toNat) ∧
    ((State.reset.bay 0).dip = false ∧ (State.reset.bay 0).lastPlan + 86400000000000 ≤ 86400000000000 ∧ ({ planDue := true } : Bay).planDue = true) ∧
    (let x : Bay := { req := 0, state := .retention }
     x.req = 0 ∧ x.state = .retention ∧ (State.reset.schedOf 0).waiting = [] ∧ ∀ w, w ∈ (State.reset.schedOf 0).placed → w.state ≠ .saved ∧ w.state ≠ .restoring) := by
  and_intros <;> decide +kernel

/-- HBM with 16 KiB mapped at address 0 and the security block as given. -/
def secured (x : Security) (m : Memory) : State :=
  { State.reset with hbm := { rgn := [(0, 0x20000000000)], rgn2 := [(0, 4)], mem := m }, sec := x }
/-- A presence command that runs at the next low sample. -/
def pressed (op : Nat) : Security := { state := 1, pendOp := op, seenHigh := true, runMs := 999 }

theorem test_hyp_SecurityCommandsAndPresence :
    (({} : Security).state ≠ 1 ∧ ({} : Security).state ≠ 2 ∧ (secured {} []).bufOk 0 = true ∧ State.reset.bufOk 0 = false) ∧
    bytesNat (((secured {} [(4, 128)]).hbm.read 0 8).drop 4) = 128 ∧ ({} : Security).log.length < 4096 ∧ (pressed 5).state = 1 ∧
    (∀ op, op ∈ [5, 6, 7, 9] → (pressed op).state = 1 ∧ (pressed op).pendAt + 1000000 * (pressed op).samples ≤ 0 ∧ 0 ≤ (pressed op).pendAt + (secured (pressed op) []).presWindow ∧
      (pressed op).seenHigh = true ∧ 999 ≤ (pressed op).runMs ∧ (pressed op).pendOp = op) ∧
    ({} : Security).state = 0 ∧ ({ state := 1 } : Security).seenHigh = false ∧ ({ state := 1, seenHigh := true, runMs := 998 } : Security).runMs < 999 ∧
    ((List.range 4).find? (fun i => decide (({ ownerSet := 7 } : Security).ownerSet / 2 ^ i % 2 = 0)) = some 3 ∧
      ∀ i, i < 4 → ({ ownerSet := 15 } : Security).ownerSet / 2 ^ i % 2 = 1) ∧
    bytesNat ((secured (pressed 7) [(0, 4)]).hbm.read 0 1) = 4 ∧
    (let d := (secured (pressed 9) [(0, 1)]).hbm.read 0 2
     bytesNat (d.take 1) = 1 ∧ bytesNat ((d.drop 1).take 1) = 0) ∧
    (let s := secured (pressed 9) []
     s.hbm.sysCheck 0 4629 = .ok ∧ s.hbm.badIn 0 4629 = none ∧ s.hbm.sysCheck 8192 64 = .ok ∧ s.hbm.stoppedIn 8192 64 = none ∧
     bytesNat (s.hbm.read 0 1) = 0 ∧ ({ recovery := true } : Security).recovery = true) ∧
    (({} : Security).debugKey 1 = none ∧ 0 + 300000000000 ≤ ({ State.reset with now := 300000000000 } : State).now) ∧
    (let x : Security := { pressed 9 with nonce := some [] }
     x.nonce = some [] ∧ 0 < x.nonceAt + 300000000000 ∧ x.debugKey 0 = some []) := by
  and_intros <;> decide +kernel

theorem test_hyp_ResetsReinitialisationsAndGlobalBlocks :
    (State.reset.rst.phase ≠ 4 ∧ State.reset.sec.recovery = false ∧ State.reset.sec.imageGood = true ∧
      State.reset.sec.svnFuse ≤ (0 : BitVec 8).toNat ∧ ({ phase := 4 } : Reset).phase = 4 ∧ ¬ (false = true)) ∧
    (∀ f, f < 7 → State.reset.reinitErr f 0 = 0) ∧ State.reset.reinitErr 0 359 = 0 ∧
    ({ State.reset with rst := { running := [(0, 5)] } } : State).reinitErr 0 5 ≠ 0 ∧
    ((6, 11) ∉ State.reset.rst.running ∧ (6, 11) ∈ ({ running := [(6, 11)] } : Reset).running) ∧
    (let s := one { safe := { retest := true } }
     (s.core 0).safe.retest = true ∧ (∀ q, q < 12 → (s.serveOf q).reqs = []) ∧ (s.schedOf (s.partOf 0)).waiting = [] ∧ ∀ w, w ∈ (s.schedOf (s.partOf 0)).placed → w.state ≠ .saved ∧ w.state ≠ .restoring) ∧
    (State.reset.partErr [0, 11] 3 = 0 ∧ State.reset.partErr [] 3 ≠ 0) ∧ (100 < vcarbTotal 101 ∧ vcarbTotal 100 ≤ 100) ∧
    State.reset.sec.debugScope = 0 ∧ ({ dbgOpen := true, scope := 2 } : Security).debugScope ≠ 0 := by
  and_intros <;> decide +kernel

/-! ## Results taken from the spec's tables and worked examples -/

/-- The state an outcome leaves, or the state after reset. -/
def after (o : Host.Outcome State Fault Refusal) : State := match o with | .next t => t | _ => State.reset
/-- Core 0 after one instruction of its running kernel. -/
def did (i : Instr) (q : Sequencer) : Core := (after (exec i (run q))).core 0

/-- Table 4.9. -/
theorem test_boundary_conversions :
    narrowVal 1 false false (f32v 0x3F808000) = (0x3F80, { nx := true }) ∧
    narrowVal 1 false false (f32v 0x3F818000) = (0x3F82, { nx := true }) ∧
    narrowVal 2 false false (f32v 0x477FEF00) = (0x7BFF, { nx := true }) ∧
    narrowVal 2 false false (f32v 0x477FF000) = (0x7C00, { ovf := true, nx := true }) ∧
    narrowVal 2 false false (f32v 0xC77FF000) = (0xFC00, { ovf := true, nx := true }) ∧
    narrowVal 2 false false (f32v 0x33000000) = (0, { uf := true, nx := true }) ∧
    narrowVal 2 false false (f32v 0x33C00000) = (2, { uf := true, nx := true }) ∧
    narrowVal 4 false false (f32v 0x47700000) = (0x7C, { ovf := true, nx := true }) ∧
    narrowVal 3 true false (f32v 0x43E80000) = (0x7E, { nx := true }) ∧
    narrowVal 3 true false (f32v 0x43E88000) = (0x7E, { ovf := true, nx := true }) ∧
    narrowVal 3 false false (f32v 0x43E88000) = (0x7F, { nv := true, ovf := true, nx := true }) ∧
    narrowVal 3 true false (f32v 0x7F800000) = (0x7E, { ovf := true, nx := true }) ∧
    narrowVal 3 false false (f32v 0x7F800000) = (0x7F, { nv := true }) ∧
    narrowVal 1 false false (f32v 0xFFC12345) = (0x7FC0, { nv := true }) ∧
    narrowVal 7 false false (f32v 0x40E00000) = (7, { ovf := true, nx := true }) ∧
    narrowVal 7 false false (f32v 0x7FC00000) = (0, { nv := true }) := by
  and_intros <;> decide +kernel

theorem test_integer_boundary_conversions :
    convert 0 9 false false (f32v 0xC0200000) = (0xFE, { nx := true }) ∧
    convert 0 9 false false (f32v 0x43480000) = (0x7F, { nv := true }) ∧
    convert 0 9 false true (f32v 0x43480000) = (0xC8, { nv := true }) ∧
    convert 8 9 false false (elemVal 8 0xC8) = (0x7F, { ovf := true }) ∧
    convert 8 9 false true (elemVal 8 0xFFFFFF7F) = (0x7F, { ovf := true }) := by
  and_intros <;> decide +kernel

/-- The worked example of R112: 7.0, 5.0, −1.25 and 0.25 to MX FP4. -/
theorem test_mx_fp4_block :
    mxBlock 23 (([0x40E00000, 0x40A00000, 0xBFA00000, 0x3E800000] ++ List.replicate 28 0).map f32v) =
      (0x7F, [7, 6, 0xA, 0] ++ List.replicate 28 0, { uf := true, nx := true }) := by decide +kernel

/-- The worked example of R125: 3.0 in LNS8 and its square, 9.513671875 = 9742 × 2^−10. -/
theorem test_lns8_three_and_its_square :
    narrowVal 11 false false (f32v 0x40400000) = (0x0D, { nx := true }) ∧
    (Opnd.mul ⟨11, 0x0D, elemVal 11 0x0D⟩ ⟨11, 0x0D, elemVal 11 0x0D⟩).eqv (.fin false 9742 (-10)) = true := by decide +kernel

/-- The worked example of R161: (5, 300) plain and transposed. -/
theorem test_rounding_key_of_a_transposed_product :
    srKeyOf { rowOrg := 0, colOrg := 256 } 9 2 5 44 false = srKeyOf { rowOrg := 256, colOrg := 0 } 9 2 44 5 true ∧
    srKeyOf { rowOrg := 0, colOrg := 256 } 9 2 5 44 false = ⟨9, 5, 300, 2⟩ := by decide +kernel

/-- The order-free sum of 2^100, 1.0 and −2^100 (R185): V = 2^160, COUNT 3, LRREAD gives 1.0. -/
theorem test_long_register_sum_is_order_free :
    (((({} : LongReg).take (f32v 0x71800000)).1.take (f32v 0x3F800000)).1.take (f32v 0xF1800000)).1 =
      { v := 2 ^ 160, e := -160, st := 0, trunc := false, count := 3 } ∧
    (((({} : LongReg).take (f32v 0x3F800000)).1.take (f32v 0xF1800000)).1.take (f32v 0x71800000)).1 =
      { v := 2 ^ 160, e := -160, st := 0, trunc := false, count := 3 } ∧
    (lrImage { v := 2 ^ 160, e := -160, st := 0, trunc := false, count := 3 }).take 48 =
      List.replicate 20 0 ++ [1] ++ List.replicate 19 0 ++ [0x60, 0xFF, 0, 0, 3, 0, 0, 0] := by decide +kernel

/-- The worked example of R433: SPREAD region 5, and the same region NEAR on bay 2. -/
theorem test_region_placement :
    (⟨0x4000000000, true, 0, 0, false, 1000000, 1000000⟩ : Region).place 0x4001234567 = (4, 4096796007) ∧
    (⟨0x4000000000, false, 2, 0, false, 1000000, 1000000⟩ : Region).place 0x4001234567 = (4, 1002330 * 4096 + 1383) ∧
    channelOf 4096796007 = 10 := by decide +kernel

/-- The worked example of chapter 21: SAFE_CORE of core 352 at its address, and CORE_ID with bay 11 in partition 3. -/
theorem test_register_addresses :
    regOf 0x00010B0003041200 = some (.core 352 .safe) ∧ regOf 0x00010B0003040000 = some (.core 352 .id) ∧
    ({ State.reset with bays := [(11, { part := 3 })] } : State).readCoreReg 352 .id = 0x3B7560 := by decide +kernel

/-- The worked example of chapter 3: the words of a FEED's issue. -/
theorem test_words_of_the_feed_example :
    decodeWord 0 0x18201FFFF004C531 = some (.lim 0 4 false 0x1FFFF004C531) ∧
    decodeWord 0 0x3822400000000000 = some (.stream 0 4 9 0 0 0) := by decide +kernel

/-- Philox of a zero key and counter, and CRC-32C of "123456789": the published check values. -/
theorem test_philox_and_crc_check_values :
    philoxWord0 0 0 0 0 = 0x6627E8D5 ∧
    crc32c 0 [0x31, 0x32, 0x33, 0x34, 0x35, 0x36, 0x37, 0x38, 0x39] = 0xE3069283 := by decide +kernel

/-! ## Single instructions -/

theorem test_add_wraps_and_s0_keeps_nothing :
    (did (.add 0 1 2 (.imm 0xFFFFFFFF)) { s := [(2, 1)] }).s 1 = 0 ∧ (did (.add 0 0 2 (.imm 5)) { s := [(2, 1)] }).s 0 = 0 ∧
    (did (.add 0 1 2 (.imm 5)) { s := [(2, 1)] }).seq.pc = 8 := by decide +kernel

theorem test_shift_and_compare :
    (did (.sra 0 1 2 (.imm 60)) { s := [(2, 0x8000000000000000)] }).s 1 = 0xFFFFFFFFFFFFFFF8 ∧
    (did (.max 0 1 2 (.imm 1)) { s := [(2, 0xFFFFFFFFFFFFFFFF)] }).s 1 = 1 ∧
    (did (.maxu 0 1 2 (.imm 1)) { s := [(2, 0xFFFFFFFFFFFFFFFF)] }).s 1 = 0xFFFFFFFFFFFFFFFF ∧
    (did (.slt 0 1 2 (.imm 0)) { s := [(2, 0xFFFFFFFFFFFFFFFF)] }).s 1 = 1 ∧
    (did (.sltu 0 1 2 (.imm 0)) { s := [(2, 0xFFFFFFFFFFFFFFFF)] }).s 1 = 0 := by decide +kernel

theorem test_branch_and_link :
    (did (.br 0 1 2 4 0xFFFFFFFE) { pc := 32, s := [(1, 1), (2, 2)] }).seq.pc = 16 ∧
    (did (.br 0 1 2 4 0xFFFFFFFE) { pc := 32, s := [(1, 2), (2, 2)] }).seq.pc = 40 ∧
    (did (.jal 0 1 2) { pc := 32 }).seq.pc = 48 ∧ (did (.jal 0 1 2) { pc := 32 }).s 1 = 40 := by decide +kernel

theorem test_lim_extends_its_sign :
    (did (.lim 0 5 false 0x800000000000) {}).s 5 = 0xFFFF800000000000 := by decide +kernel

/-- A core whose scratchpad holds the bytes, with a1 = 8 and s2 given. -/
def withMem (m : Memory) (v : Word) : State :=
  one { seq := { kernel := some kern, regionLen := 64, a := [(1, 8)], s := [(2, v)] }, sp := { mem := m } }

/-- Eight bytes, the least significant at the lowest address. -/
theorem test_lds_and_sts_are_little_endian :
    ((after (exec (.lds 0 1 1 0) (withMem [(8, 0x11), (15, 0x22)] 0))).core 0).s 1 = 0x2200000000000011 ∧
    ((after (exec (.sts 0 2 1 8) (withMem [] 0x0300000000000004))).core 0).sp.mem = [(16, 4), (23, 3)] := by decide +kernel

theorem test_addt_overflow_faults :
    (did (.addt 0 7 (.imm 1)) { t := [(7, 0xFFFFFFFF)] }).seq.faulted = some codeTokenOvf ∧
    (did (.addt 0 7 (.imm 1)) { t := [(7, 0xFFFFFFFE)] }).tok 7 = 0xFFFFFFFF := by decide +kernel

theorem test_csrw_then_csrr :
    ((after (exec (.csrr 0 2 0x0700) (after (exec (.csrw 0 1 0x0700) (run { s := [(1, 0x0123456789ABCDEF)] }))))).core 0).s 2
      = 0x0123456789ABCDEF := by decide +kernel

/-- KETTLE ADD of FP32 1.0 in line 0 and 2.0 in line 3 into line 2. -/
theorem test_kettle_add :
    ((after (exec (.kettleAdd ⟨0, 0⟩) (strm { queued (dsc [(0, 5), (216, 1)]) with auxBase := 1, dstBase := 2 }
      { sp := { mem := [(2, 0x80), (3, 0x3F), (256, 3), (260, 0x80), (771, 0x40)] } }))).core 0).sp.mem =
      [(2, 0x80), (3, 0x3F), (256, 3), (260, 0x80), (514, 0x40), (515, 0x40), (771, 0x40)] := by decide +kernel

/-- LOAD of one FP32 element from HBM address 0 into line 2. -/
theorem test_load_copies :
    ((after (exec (.loadStream ⟨0, 0⟩) { strm { queued (dsc [(64, 1)]) with dstBase := 2 } {} with
      hbm := { page with mem := [(0, 5), (3, 7)] } })).core 0).sp.mem = [(512, 5), (515, 7)] := by decide +kernel

end Sys2Proof.Tests
end

section
/-! PROOF. O19: the CSR accesses of a core (R11, R94, R515). What a read returns does not depend on PC or on a debug step, a
setting reads as the bits of the written word it holds, and no register lies at an offset that is no multiple of 8. -/

namespace Sys2Proof.Machine

open Sys2Proof

/-! ## Words and offsets -/

theorem fld_zero_toNat (v : Word) (n : Nat) : fld v 0 n = v.toNat % 2 ^ n := rfl

/-- A register word that is one field at bit 0 reads as that field. -/
theorem pack_one_toNat {x n : Nat} (hn : n ≤ 64) (hx : x < 2 ^ n) : (pack [(0, x)]).toNat = x := by
  have h64 : x < 2 ^ 64 := hx.trans_le (Nat.pow_le_pow_right (by decide) hn)
  simpa [pack] using Nat.mod_eq_of_lt h64

/-- A register word of four fields. -/
theorem pack_four (a b c d i j l : Nat) : pack [(0, a), (i, b), (j, c), (l, d)] =
    BitVec.ofNat 64 (a * 2 ^ 0 + b * 2 ^ i + c * 2 ^ j + d * 2 ^ l) := by
  rw [pack, List.foldl_cons, List.foldl_cons, List.foldl_cons, List.foldl_cons, List.foldl_nil, Nat.zero_add]

theorem low_toNat (v : Word) {n : Nat} (hn : n ≤ 64) : (low v n).toNat = v.toNat % 2 ^ n := by
  have h64 : v.toNat % 2 ^ n < 2 ^ 64 :=
    (Nat.mod_lt _ (Nat.two_pow_pos n)).trans_le (Nat.pow_le_pow_right (by decide) hn)
  rw [low, fld_zero_toNat, BitVec.toNat_ofNat, Nat.mod_eq_of_lt h64]

/-- Registers at aligned bases and strides leave a misaligned offset empty (R515). -/
theorem coreAt_misaligned {off base stride : Nat} (n : Nat) (f : Nat → CoreReg) (h : off % 8 ≠ 0) (hb : base % 8 = 0)
    (hs : stride % 8 = 0) : coreAt off base stride n f = none := by
  have hd : ¬ ((base ≤ off && (off - base) % stride = 0 && (off - base) / stride < n) = true) := by
    intro hc
    simp only [Bool.and_eq_true, decide_eq_true_eq] at hc
    obtain ⟨⟨hle, hmod⟩, -⟩ := hc
    have h8 : 8 ∣ off - base := (Nat.dvd_of_mod_eq_zero hs).trans (Nat.dvd_of_mod_eq_zero hmod)
    omega
  rw [coreAt, regAt, if_neg hd]

theorem coreRegAt_misaligned {off : Nat} (h : off % 8 ≠ 0) : coreRegAt off = none := by
  simp [coreRegAt, coreAt_misaligned _ _ h]

/-! ## Reads -/

/-- An update of a core's PC and debug step only. -/
def Core.SameButPc (k j : Core) : Prop := j = { k with seq := { k.seq with pc := j.seq.pc, stepOne := j.seq.stepOne } }

theorem Core.sameButPc_step8 (k : Core) : k.SameButPc k.step8 := rfl
theorem Core.sameButPc_stepUsed (k : Core) : k.SameButPc k.stepUsed := rfl

theorem State.pin_modCore_pc {s : State} {c : Nat} {f : Core → Core} (h : (s.core c).SameButPc (f (s.core c))) :
    (s.modCore c f).pin c = s.pin c := by
  unfold State.pin
  rw [State.core_modCore_self, h]
  rfl

/-- No register of a core shows PC or the debug step (Table 21.2). -/
theorem State.readCoreReg_modCore_pc {s : State} {c : Nat} {f : Core → Core} (h : (s.core c).SameButPc (f (s.core c)))
    (r : CoreReg) : (s.modCore c f).readCoreReg c r = s.readCoreReg c r := by
  unfold State.readCoreReg
  rw [State.pin_modCore_pc h, State.core_modCore_self, h]
  dsimp only
  cases r <;> rfl

theorem State.readCoreReg_stepDone (s : State) (c : Nat) (r : CoreReg) :
    (s.stepDone c).readCoreReg c r = s.readCoreReg c r := State.readCoreReg_modCore_pc (Core.sameButPc_stepUsed _) r

theorem State.readCoreReg_step8 (s : State) (c : Nat) (r : CoreReg) :
    (s.modCore c (·.step8)).readCoreReg c r = s.readCoreReg c r := State.readCoreReg_modCore_pc (Core.sameButPc_step8 _) r

/-- ID holds the core number, its die, its bay and its partition (Table 21.2). -/
theorem State.readCoreReg_id (s : State) (c : Nat) : s.readCoreReg c .id =
    BitVec.ofNat 64 (c + 2 ^ 9 * (5 * (c / 30) + c % 30 / 6) + 2 ^ 16 * (c / 30) + 2 ^ 20 * s.partOf c) := by
  have hd : dieOf c = 5 * (c / 30) + c % 30 / 6 := by unfold dieOf; omega
  have hread : s.readCoreReg c .id = pack [(0, c), (9, dieOf c), (16, bayOf c), (20, s.partOf c)] := rfl
  rw [hread, pack_four, Nat.pow_zero, Nat.mul_one, hd, bayOf, Nat.mul_comm _ (2 ^ 9), Nat.mul_comm _ (2 ^ 16),
    Nat.mul_comm _ (2 ^ 20)]

/-! ## Writes -/

/-- A write of a register whose fields are all RO is ignored (R11). -/
theorem State.writeCoreReg_readOnly (s : State) (c : CoreId) {r : CoreReg} (v : Word) (h : r.readOnly = true) :
    s.writeCoreReg c r v = s := by
  cases r <;> simp [CoreReg.readOnly, State.writeCoreReg] at h ⊢

/-- A register that holds the low `n` bits of the written word: the write updates its own core only, neither the sequencer nor the
scratchpad, and a read gives these bits back. -/
def CoreReg.Holds (r : CoreReg) (n : Nat) : Prop :=
  ∀ (s : State) (c : CoreId) (v : Word), ∃ k : Core, s.writeCoreReg c r v = s.setCore c.val k ∧
    k.seq = (s.core c.val).seq ∧ k.sp = (s.core c.val).sp ∧
    ((s.setCore c.val k).readCoreReg c.val r).toNat = v.toNat % 2 ^ n

theorem CoreReg.holds_org (g : Nat) : (CoreReg.org g).Holds 64 := fun s c v =>
  ⟨_, rfl, rfl, rfl, by simpa [State.readCoreReg] using (Nat.mod_eq_of_lt v.isLt).symm⟩
theorem CoreReg.holds_srSeed : CoreReg.srSeed.Holds 64 := fun s c v =>
  ⟨_, rfl, rfl, rfl, by simpa [State.readCoreReg] using (Nat.mod_eq_of_lt v.isLt).symm⟩
theorem CoreReg.holds_kSeed : CoreReg.kSeed.Holds 64 := fun s c v =>
  ⟨_, rfl, rfl, rfl, by simpa [State.readCoreReg] using (Nat.mod_eq_of_lt v.isLt).symm⟩

/-- A 32-bit field at bit 0 that takes the low word of what is written. -/
theorem pack_setWidth (v : Word) : (pack [(0, (v.setWidth 32).toNat)]).toNat = v.toNat % 2 ^ 32 := by
  rw [pack_one_toNat (n := 32) (by decide) (BitVec.isLt _), BitVec.toNat_setWidth]

theorem CoreReg.holds_kStep : CoreReg.kStep.Holds 32 := fun s c v =>
  ⟨_, rfl, rfl, rfl, by rw [State.readCoreReg, State.core_setCore_self]; exact pack_setWidth v⟩
theorem CoreReg.holds_softStep : CoreReg.softStep.Holds 32 := fun s c v =>
  ⟨_, rfl, rfl, rfl, by rw [State.readCoreReg, State.core_setCore_self]; exact pack_setWidth v⟩
theorem CoreReg.holds_dwqForce : CoreReg.dwqForce.Holds 32 := fun s c v =>
  ⟨_, rfl, rfl, rfl, by rw [State.readCoreReg, State.core_setCore_self]; exact pack_setWidth v⟩

theorem CoreReg.holds_dwqCtl : CoreReg.dwqCtl.Holds 32 := fun s c v =>
  ⟨_, rfl, rfl, rfl, by rw [State.readCoreReg, State.core_setCore_self]; exact low_toNat v (by decide)⟩
theorem CoreReg.holds_phaseCtl : CoreReg.phaseCtl.Holds 16 := fun s c v =>
  ⟨_, rfl, rfl, rfl, by rw [State.readCoreReg, State.core_setCore_self]; exact low_toNat v (by decide)⟩
theorem CoreReg.holds_segCtl : CoreReg.segCtl.Holds 13 := fun s c v =>
  ⟨_, rfl, rfl, rfl, by rw [State.readCoreReg, State.core_setCore_self]; exact low_toNat v (by decide)⟩
theorem CoreReg.holds_bktCfg : CoreReg.bktCfg.Holds 34 := fun s c v =>
  ⟨_, rfl, rfl, rfl, by rw [State.readCoreReg, State.core_setCore_self]; exact low_toNat v (by decide)⟩

theorem Core.epoch_setEpoch_self (k : Core) (e : Nat) (f : Epoch → Epoch) : (k.setEpoch e f).epoch e = f (k.epoch e) :=
  FMap.get_set_self _ _ _ _
theorem pack_fld41 (v : Word) : (pack [(0, fld v 0 41)]).toNat = v.toNat % 2 ^ 41 :=
  pack_one_toNat (n := 41) (by decide) (Nat.mod_lt _ (by decide))

theorem CoreReg.holds_caskMbase (e : Nat) : (CoreReg.caskMbase e).Holds 41 := fun s c v =>
  ⟨_, rfl, rfl, rfl, by
    rw [State.readCoreReg, State.core_setCore_self, Core.epoch_setEpoch_self]; exact pack_fld41 v⟩
theorem CoreReg.holds_caskRlen (e : Nat) : (CoreReg.caskRlen e).Holds 41 := fun s c v =>
  ⟨_, rfl, rfl, rfl, by
    rw [State.readCoreReg, State.core_setCore_self, Core.epoch_setEpoch_self]; exact pack_fld41 v⟩

theorem csrTable_holds : ∀ e ∈ csrTable, e.2.1.Holds e.2.2 := by
  unfold csrTable
  simp only [List.forall_mem_cons]
  exact ⟨CoreReg.holds_srSeed, CoreReg.holds_kSeed, CoreReg.holds_kStep, CoreReg.holds_org 0, CoreReg.holds_org 15,
    CoreReg.holds_softStep, CoreReg.holds_dwqCtl, CoreReg.holds_dwqForce, CoreReg.holds_phaseCtl, CoreReg.holds_segCtl,
    CoreReg.holds_caskMbase 0, CoreReg.holds_caskRlen 3, CoreReg.holds_bktCfg, List.forall_mem_nil _⟩

/-- A write that takes effect at once whether or not the device is sealed: neither the push of a deferred entry, which may stall
(R235), nor the one RWL register of a core (R11, R494). -/
def CoreReg.Plain (r : CoreReg) : Prop := r ≠ .dwqPush ∧ r ≠ .mashCtl

theorem CoreReg.plain_of_readOnly {r : CoreReg} (h : r.readOnly = true) : r.Plain := by
  constructor <;> rintro rfl <;> cases h

theorem csrTable_plain : ∀ e ∈ csrTable, e.2.1.Plain ∧ coreRegAt e.1 = some e.2.1 := by
  unfold CoreReg.Plain
  decide +kernel

theorem Reg.not_sealable_of_plain (c : CoreId) {r : CoreReg} (h : r.Plain) : (Reg.core c r).sealable = false := by
  cases r with
  | mashCtl => exact absurd rfl h.2
  | _ => rfl

/-! ## CSRR and CSRW -/

theorem exec_csrr_eq (c : CoreId) (rd : BitVec 5) (off : BitVec 32) (s : State) :
    exec (.csrr c rd off) s = execCsrr c rd off s := rfl
theorem exec_csrw_eq (c : CoreId) (ra : BitVec 5) (off : BitVec 32) (s : State) :
    exec (.csrw c ra off) s = execCsrw c ra off s := rfl

section
variable {s : State} {c : CoreId} {rd ra : BitVec 5} {off : BitVec 32} {r : CoreReg}

theorem exec_csrr_reg (h : s.Ready c) (hr : coreRegAt off.toNat = some r) : exec (.csrr c rd off) s =
    .next ((s.stepDone c.val).modCore c.val (fun k => (k.setS rd.toNat (s.readCoreReg c.val r)).step8)) := by
  rw [exec_csrr_eq, execCsrr, State.seqRun_ready h, hr]
  simp only [State.readReg, State.readCoreReg_stepDone]

theorem exec_csrr_none (h : s.Ready c) (hr : coreRegAt off.toNat = none) : exec (.csrr c rd off) s =
    .next ((s.stepDone c.val).seqFault c.val codeCsrDenied 0) := by
  rw [exec_csrr_eq, execCsrr, State.seqRun_ready h, hr]

theorem exec_csrw_reg (h : s.Ready c) (hr : coreRegAt off.toNat = some r) (hp : r.Plain) : exec (.csrw c ra off) s =
    .next (((s.stepDone c.val).writeCoreReg c r ((s.core c.val).s ra.toNat)).modCore c.val (·.step8)) := by
  rw [exec_csrw_eq, execCsrw, State.seqRun_ready h, hr]
  dsimp only
  split
  · next he => exact absurd (Option.some.inj he) hp.1
  · next he =>
    cases he
    simp only [State.writeReg, Reg.not_sealable_of_plain c hp, Bool.false_and, Bool.false_eq_true, if_false,
      State.core_stepDone, Core.s_stepUsed]
  · next he => cases he

theorem exec_csrw_none (h : s.Ready c) (hr : coreRegAt off.toNat = none) : exec (.csrw c ra off) s =
    .next ((s.stepDone c.val).seqFault c.val codeCsrDenied 0) := by
  rw [exec_csrw_eq, execCsrw, State.seqRun_ready h, hr]

/-- CSRR writes what the register reads to s[RD] and changes nothing else (R94). -/
theorem exec_csrr_reads (h : s.Ready c) (hr : coreRegAt off.toNat = some r) : ∃ t, exec (.csrr c rd off) s = .next t ∧
    SetsS s t c.val rd (s.readCoreReg c.val r) ∧ WroteS s t c.val :=
  ⟨_, exec_csrr_reg h hr, wroteS_setS s c.val rd (fun _ => s.readCoreReg c.val r)⟩

/-- CSRW of a register that holds `n` bits of the written word (R94). -/
theorem exec_csrw_holds {n : Nat} (h : s.Ready c) (hr : coreRegAt off.toNat = some r) (hp : r.Plain) (hn : r.Holds n) :
    ∃ t, exec (.csrw c ra off) s = .next t ∧ OnlyCore s t c.val ∧
      (t.core c.val).seq.pc = (s.core c.val).seq.pc + 8 ∧ (t.core c.val).sp = (s.core c.val).sp ∧
      { (t.core c.val).seq with pc := (s.core c.val).seq.pc, stepOne := (s.core c.val).seq.stepOne } = (s.core c.val).seq ∧
      (t.readCoreReg c.val r).toNat = ((s.core c.val).s ra.toNat).toNat % 2 ^ n := by
  obtain ⟨k, hw, hseq, hsp, hread⟩ := hn (s.stepDone c.val) c ((s.core c.val).s ra.toNat)
  rw [State.core_stepDone] at hseq hsp
  refine ⟨_, exec_csrw_reg h hr hp, ?_⟩
  rw [hw, State.readCoreReg_step8, State.core_modCore_self, State.core_setCore_self]
  refine ⟨⟨rfl, fun d hd => ?_⟩, ?_, hsp, ?_, hread⟩
  · rw [State.core_modCore, if_neg hd, State.core_setCore, if_neg hd, State.core_stepDone_ne s hd]
  · rw [Core.step8, Core.setPc, hseq]; rfl
  · rw [Core.step8, Core.setPc, hseq]; rfl

/-- CSRW of a register whose fields are all RO goes to the next word (R11, R94). -/
theorem exec_csrw_ignored (h : s.Ready c) (hr : coreRegAt off.toNat = some r) (hro : r.readOnly = true) :
    ∃ t, exec (.csrw c ra off) s = .next t ∧ Advanced s t c.val := by
  refine ⟨_, exec_csrw_reg h hr (CoreReg.plain_of_readOnly hro), ?_⟩
  rw [State.writeCoreReg_readOnly _ _ _ hro]
  exact advanced_step8 s c.val

/-- An offset without a register denies both accesses (R94). -/
theorem exec_csr_denied (h : s.Ready c) (hr : coreRegAt off.toNat = none) :
    ∀ i ∈ [Instr.csrr c rd off, .csrw c ra off], ∃ t, exec i s = .next t ∧ SeqFaulted s t c.val codeCsrDenied := by
  simp only [List.forall_mem_cons]
  exact ⟨⟨_, exec_csrr_none h hr, seqFaulted_seqFault s c.val codeCsrDenied 0⟩,
    ⟨_, exec_csrw_none h hr, seqFaulted_seqFault s c.val codeCsrDenied 0⟩, List.forall_mem_nil _⟩

end

/-- Settles O19, by the kind of the register at the offset. -/
theorem csrAccessResults : Obligations.CsrAccessResults := by
  intro s c rd ra off h
  refine ⟨fun r hr => exec_csrr_reads h hr, ?_, ?_, fun r hr hro => exec_csrw_ignored h hr hro, ?_⟩
  · rintro rfl
    obtain ⟨t, ht, hset, hwrote⟩ := exec_csrr_reads (rd := rd) (off := 0) h (r := .id) (by decide)
    exact ⟨t, ht, hwrote, State.readCoreReg_id s c.val ▸ hset⟩
  · intro e he hoff
    obtain ⟨hp, hr⟩ := csrTable_plain e he
    exact exec_csrw_holds h (hoff ▸ hr) hp (csrTable_holds e he)
  · rintro (hmis | hnone)
    · exact exec_csr_denied h (coreRegAt_misaligned hmis)
    · exact exec_csr_denied h hnone

end Sys2Proof.Machine
end

section
/-! PROOF. O34: the events of a sequencer (chapters 2, 3 and 13). A launch record and a fetched line reach their core, a stalled
instruction goes on or counts, and a pre-emption is requested, taken at a WAITT and completed by parking. -/

namespace Sys2Proof.Machine

open Sys2Proof

/-! ## Maps and bits -/

theorem FMap.find?_erase_self {α : Type} (m : FMap α) (k : Nat) : FMap.find? (FMap.erase m k) k = none := by
  induction m with
  | nil => rfl
  | cons e m ih =>
    obtain ⟨j, v⟩ := e
    unfold FMap.erase at ih ⊢
    by_cases h : j = k
    · rw [List.filter_cons_of_neg (by simp [h]), ih]
    · rw [List.filter_cons_of_pos (by simp [h]), FMap.find?, if_neg h, ih]

/-- Consecutive registers filled from a list: those after the first `n` hold its values. -/
theorem FMap.get_fill {α : Type} (d : α) (l : List α) (r : Nat) : ∀ (n : Nat) (m : FMap α),
    FMap.get d ((l.zipIdx n).foldl (fun m p => FMap.set m (p.2 + 1) p.1) m) r =
      if n < r ∧ r ≤ n + l.length then l.getD (r - 1 - n) d else FMap.get d m r := by
  induction l with
  | nil => intro n m; rw [if_neg (by simp)]; rfl
  | cons x l ih =>
    intro n m
    rw [List.zipIdx_cons, List.foldl_cons, ih, FMap.get_set, List.length_cons]
    by_cases hr : r = n + 1
    · rw [if_neg (by omega), if_pos hr, if_pos (by omega), show r - 1 - n = 0 by omega, List.getD_cons_zero]
    · rw [if_neg hr]
      by_cases hin : n + 1 < r ∧ r ≤ n + 1 + l.length
      · rw [if_pos hin, if_pos (by omega), show r - 1 - n = (r - 1 - (n + 1)) + 1 by omega, List.getD_cons_succ]
      · rw [if_neg hin, if_neg (by omega)]

/-- Registers from 1 on filled from a list, the others being zero. -/
theorem FMap.get_fill_nil {α : Type} (d : α) (l : List α) {r : Nat} (h : r ≠ 0) :
    FMap.get d (l.zipIdx.foldl (fun m p => FMap.set m (p.2 + 1) p.1) []) r = l.getD (r - 1) d := by
  rw [FMap.get_fill]
  split
  · rfl
  · rw [List.getD_eq_default _ _ (by omega)]; rfl

theorem bit_eq_getLsbD {n : Nat} (w : BitVec n) (i : Nat) : bit w i = w.getLsbD i := by
  rw [bit, fld, BitVec.getLsbD, Nat.testBit_eq_decide_div_mod_eq, Nat.shiftRight_eq_div_pow, Nat.pow_one]

theorem mem_slotNums {n : Nat} : n ∈ Core.slotNums ↔ n < 64 := List.mem_range

/-! ## The commands -/

theorem exec_launchRecord_eq (c : CoreId) (s : State) : exec (.launchRecord c) s = execLaunchRecord c s := rfl
theorem exec_icacheFill_eq (c : CoreId) (s : State) : exec (.icacheFill c) s = execIcacheFill c s := rfl
theorem exec_stallCycle_eq (c : CoreId) (s : State) : exec (.stallCycle c) s = execStallCycle c s := rfl
theorem exec_waittPark_eq (c : CoreId) (s : State) : exec (.waittPark c) s = execWaittPark c s := rfl
theorem exec_coreParked_eq (c : CoreId) (s : State) : exec (.coreParked c) s = execCoreParked c s := rfl

/-- The sequencer of a core runs a kernel and no fault, pre-emption or halt stops it (R87). -/
def Core.Runs (k : Core) : Prop :=
  k.seq.kernel.isSome = true ∧ k.seq.faulted = none ∧ k.seq.parking = false ∧ k.seq.parked = false ∧ k.seq.halted = false

theorem Core.Runs.stalled {k : Core} (h : k.Runs) : k.stalled = true := by
  obtain ⟨hk, hf, hp, hd, hh⟩ := h
  simp [Core.stalled, hk, hf, hp, hd, hh]

/-- An update of the sequencer only. -/
theorem onlySeq_modCore {s : State} {c : Nat} {f : Core → Core}
    (h : { f (s.core c) with seq := (s.core c).seq } = s.core c) : OnlySeq s (s.modCore c f) c :=
  ⟨onlyCore_setCore s c _, by rw [State.core_modCore_self]; exact h⟩

/-! ## The fabric -/

theorem State.fabBytes_eq (s : State) (p n : Nat) : ∃ b, s.fabBytes p n = { s with fab := { s.fab with bytes := b } } := by
  unfold State.fabBytes
  split
  · exact ⟨s.fab.bytes, rfl⟩
  · exact ⟨_, rfl⟩

theorem State.across_eq (s : State) (e : Ends) (n : Nat) : ∃ b, s.across e n = { s with fab := { s.fab with bytes := b } } := by
  unfold State.across
  split
  · exact ⟨s.fab.bytes, rfl⟩
  · exact s.fabBytes_eq _ _

/-- A memory access over the fabric counts bytes there and changes nothing else (R20, R40). -/
theorem State.farAccess_eq (s : State) (c a n : Nat) : ∃ b, s.farAccess c a n = { s with fab := { s.fab with bytes := b } } := by
  unfold State.farAccess
  dsimp only
  generalize (s.farDies c a n).eraseDups = l
  generalize s.farDies c a n = far
  generalize s.partOf c = p
  induction l generalizing s with
  | nil => exact ⟨s.fab.bytes, rfl⟩
  | cons d l ih =>
    rw [List.foldl_cons]
    obtain ⟨b1, h1⟩ := s.across_eq { src := dieOf c, dst := d, ep := 7, cls := 2, part := p } (far.countP (fun x => x = d))
    obtain ⟨b2, h2⟩ := State.across_eq { s with fab := { s.fab with bytes := b1 } }
      { src := d, dst := dieOf c, ep := c % 6, cls := 3, part := p } (far.countP (fun x => x = d))
    rw [h1, h2]
    exact ih _

theorem State.inject_eq (s : State) (f : Flit) : ∃ fl b, s.inject f = { s with flits := fl, fab := { s.fab with bytes := b } } := by
  obtain ⟨b, h⟩ := s.fabBytes_eq f.part (if f.isLocal then 0 else 256)
  exact ⟨_, b, by rw [State.inject, h]⟩

/-- A flit of FC0 from a site without a partition reaches a core whose bay is ON, and no bytes are counted for it (R40, R41). -/
theorem State.cross_toCoreEnd {s : State} {c : Nat} (hc : c < 360) (hon : (s.bay (c / 30)).state = .on) (src n : Nat)
    (sender : Option (Nat × Nat × Option Nat)) (g : State → State) : s.cross (toCoreEnd src c) n sender g = g s := by
  have hcarried : s.carried (toCoreEnd src c) n = s := by
    have hacross : s.across (toCoreEnd src c) n = s := if_pos (by simp [toCoreEnd])
    have hdie : c / 6 < 84 := by omega
    rw [State.carried, hacross]
    simp [toCoreEnd, dieOf, hdie]
  have hrouter : s.atRouter (toCoreEnd src c) = .pass := by
    have hbay : c / 6 / 5 = c / 30 := by omega
    simp [State.atRouter, toCoreEnd, dieOf, hbay, hon]
  simp only [State.cross, hcarried, hrouter]

/-! ## Launch and fetch -/

theorem Core.s_launch (k : Core) (l : Launch) (mash r : Nat) : (k.launch l mash).s r =
    if r = 0 then 0 else
      ([BitVec.ofNat 64 l.inst, BitVec.ofNat 64 l.krec.width, BitVec.ofNat 64 (l.krec.addr + 128)] ++ l.krec.args).getD
        (r - 1) 0 := by
  by_cases h : r = 0
  · rw [h]; rfl
  · rw [if_neg h, ← FMap.get_fill_nil 0 _ h]
    exact if_neg h

theorem Core.a_launch (k : Core) (l : Launch) (mash r : Nat) : (k.launch l mash).a r = 0 := by
  unfold Core.a
  split <;> rfl

theorem exec_launchRecord_on {s : State} {c : CoreId} {l : Launch} (hl : s.launches.find? c.val = some l)
    (hon : (s.bay (c.val / 30)).state = .on) (hr : (s.core c.val).retired = false) (hb : (s.core c.val).safe.barred = false) :
    exec (.launchRecord c) s = .next (({ s with launches := s.launches.erase c.val } : State).modCore c.val
      (fun k => k.launch l (s.mashOf c.val))) := by
  rw [exec_launchRecord_eq, execLaunchRecord, hl]
  dsimp only
  rw [State.cross_toCoreEnd (s := { s with launches := s.launches.erase c.val }) c.isLt hon]
  have hcore : ({ s with launches := s.launches.erase c.val } : State).core c.val = s.core c.val := rfl
  simp only [State.modCore, hcore, hr, hb, Bool.or_self, Bool.false_eq_true, if_false]
  rfl

theorem exec_launchRecord_starts {s : State} {c : CoreId} {l : Launch} (hl : s.launches.find? c.val = some l)
    (hon : (s.bay (c.val / 30)).state = .on) (hr : (s.core c.val).retired = false) (hb : (s.core c.val).safe.barred = false) :
    let regs := [BitVec.ofNat 64 l.inst, BitVec.ofNat 64 l.krec.width, BitVec.ofNat 64 (l.krec.addr + 128)] ++ l.krec.args
    ∃ t, exec (.launchRecord c) s = .next t ∧ { t with cores := s.cores, launches := s.launches } = s ∧
      (∀ d, d ≠ c.val → t.core d = s.core d) ∧ t.launches.find? c.val = none ∧
      (∀ r, (t.core c.val).s r = if r = 0 then 0 else regs.getD (r - 1) 0) ∧ (∀ r, (t.core c.val).a r = 0) ∧
      (∀ r, (t.core c.val).tok r = 0) ∧ (t.core c.val).seq.pc = l.krec.entry ∧ (t.core c.val).seq.sig = 0 ∧
      (t.core c.val).seq.mbox = [] ∧ (t.core c.val).sp = (s.core c.val).sp := by
  refine ⟨_, exec_launchRecord_on hl hon hr hb, rfl, fun d hd => ?_, FMap.find?_erase_self _ _, ?_⟩
  · rw [State.core_modCore, if_neg hd]; rfl
  · rw [State.core_modCore_self]
    exact ⟨Core.s_launch _ l _, Core.a_launch _ l _, fun _ => rfl, rfl, rfl, rfl, rfl⟩

theorem Sequencer.find?_cacheLine (q : Sequencer) (a : Nat) (bs : List Byte) : (q.cacheLine a bs).icache.find? a = some bs :=
  FMap.find?_set_self _ _ _

/-- A ready core fetches a readable line into its cache (R79). -/
theorem exec_icacheFill_caches {s : State} {c : CoreId} (h : s.Ready c)
    (hok : s.hbm.checkRun (s.partOf c.val) false (s.core c.val).seq.pc.toNat 8 = .ok)
    (hgood : s.hbm.badIn ((s.core c.val).seq.pc.toNat / 256 * 256) 256 = none) :
    let line := (s.core c.val).seq.pc.toNat / 256 * 256
    ∃ t, exec (.icacheFill c) s = .next t ∧ { t with cores := s.cores, hbm := s.hbm, fab := s.fab } = s ∧
      { t.fab with bytes := s.fab.bytes } = s.fab ∧ t.hbm.mem = s.hbm.mem ∧
      (∀ d, d ≠ c.val → t.core d = s.core d) ∧
      (t.core c.val).seq.icache.find? line = some (s.hbm.read line 256) ∧
      { t.core c.val with seq := { (t.core c.val).seq with icache := (s.core c.val).seq.icache } } = s.core c.val := by
  intro line
  obtain ⟨b, hfar⟩ := s.farAccess_eq c.val line 256
  have hexec : exec (.icacheFill c) s = .next ((({ s with fab := { s.fab with bytes := b } } : State).modHbm
      (fun m => m.fix line 256)).modCore c.val (fun k => { k with seq := k.seq.cacheLine line (s.hbm.read line 256) })) := by
    rw [exec_icacheFill_eq, execIcacheFill, State.seqTry, if_pos h.1, if_pos h.2]
    simp only [hok, hgood]
    rw [hfar]
  have hmem := congrArg Hbm.mem (fix_moved s.hbm line 256).1
  refine ⟨_, hexec, rfl, rfl, hmem, fun d hd => ?_, ?_, ?_⟩
  · rw [State.core_modCore, if_neg hd]; rfl
  · rw [State.core_modCore_self]; exact Sequencer.find?_cacheLine _ _ _
  · rw [State.core_modCore_self]; rfl

/-! ## Stalls, overdue yields and requests -/

/-- The 32-bit count of a stalled WAITT stays at its largest value. -/
theorem ofNat_satAdd_one (w : BitVec 32) : BitVec.ofNat 32 (satAdd 32 w.toNat 1) = if w = 0xFFFFFFFF then w else w + 1 := by
  split
  · next h => subst h; decide
  · next h =>
    have hne : w.toNat ≠ 0xFFFFFFFF := fun e => h (BitVec.eq_of_toNat_eq e)
    have hlt := w.isLt
    have hsat : satAdd 32 w.toNat 1 = w.toNat + 1 := by unfold satAdd; omega
    rw [hsat, ← BitVec.ofNat_add_ofNat, BitVec.ofNat_toNat, BitVec.setWidth_eq]
    rfl

section
variable {s : State} {c : CoreId}

theorem exec_stallCycle_runs {w : Stall} (hr : (s.core c.val).Runs) (hw : (s.core c.val).seq.stall = some w) :
    exec (.stallCycle c) s = .next (s.stallStep c.val w) := by
  rw [exec_stallCycle_eq, execStallCycle]
  simp only [hw, hr.stalled, if_true]

/-- A stall cycle of WAITT (R87). -/
theorem exec_stallCycle_waitt {tc : BitVec 3} {v w : BitVec 32} (hr : (s.core c.val).Runs)
    (hw : (s.core c.val).seq.stall = some (.waitt tc v w)) :
    ∃ t, exec (.stallCycle c) s = .next t ∧ OnlySeq s t c.val ∧
      (if v.toNat ≤ ((s.core c.val).tok tc.toNat).toNat then
        (t.core c.val).seq.pc = (s.core c.val).seq.pc + 8 ∧ (t.core c.val).seq.stall = none
      else (t.core c.val).seq.pc = (s.core c.val).seq.pc ∧
        (t.core c.val).seq.stall = some (.waitt tc v (if w = 0xFFFFFFFF then w else w + 1))) := by
  refine ⟨_, exec_stallCycle_runs hr hw, onlySeq_modCore ?_, ?_⟩
  · split <;> rfl
  · unfold State.stallStep
    rw [State.core_modCore_self]
    split
    · exact ⟨rfl, rfl⟩
    · exact ⟨rfl, by rw [← ofNat_satAdd_one]; rfl⟩

theorem Core.not_fenced {k : Core} {mask : BitVec 8}
    (h : ∀ n, n < 64 → (k.slot n).live = true → mask.getLsbD (stationOf (kindOf (k.slot n).desc)) = false) :
    k.fenced mask = false := by
  refine List.any_eq_false.2 fun n hn => ?_
  rw [Bool.and_eq_true, bit_eq_getLsbD]
  rintro ⟨hl, hb⟩
  exact absurd hb (by rw [h n (mem_slotNums.1 hn) hl]; exact Bool.false_ne_true)

/-- A stall cycle of FENCE with no masked station busy (R87). -/
theorem exec_stallCycle_fence {mask : BitVec 8} (hr : (s.core c.val).Runs)
    (hw : (s.core c.val).seq.stall = some (.fence mask))
    (hn : ∀ n, n < 64 → ((s.core c.val).slot n).live = true →
      mask.getLsbD (stationOf (kindOf ((s.core c.val).slot n).desc)) = false) :
    ∃ t, exec (.stallCycle c) s = .next t ∧ OnlySeq s t c.val ∧ (t.core c.val).seq.pc = (s.core c.val).seq.pc + 8 ∧
      (t.core c.val).seq.stall = none := by
  have hstep : s.stallStep c.val (.fence mask) = s.modCore c.val (fun k => (k.setStall none).step8) := by
    simp only [State.stallStep, State.modCore, Core.not_fenced hn, Bool.false_eq_true, if_false]
  rw [exec_stallCycle_runs hr hw, hstep]
  exact ⟨_, rfl, onlySeq_modCore rfl, by rw [State.core_modCore_self]; rfl, by rw [State.core_modCore_self]; rfl⟩

/-- A core past its yield point is counted overdue once (R66). -/
theorem exec_yieldOverdue_counts (hk : (s.core c.val).seq.kernel.isSome = true) (hp : (s.core c.val).seq.parking = false)
    (hd : (s.core c.val).seq.parked = false) (ho : (s.core c.val).seq.overdueSeen = false)
    (hm : (s.core c.val).seq.yieldMark + 26000 < s.mashOf c.val) :
    ∃ t, exec (.yieldOverdue c) s = .next t ∧ OnlyCore s t c.val ∧ (t.core c.val).yieldOverdue = true ∧
      (t.core c.val).overdueCnt = min 0xFFFFFFFF ((s.core c.val).overdueCnt + 1) ∧ (t.core c.val).seq.overdueSeen = true := by
  refine ⟨_, congrArg Host.Outcome.next (if_pos (by simp [hk, hp, hd, ho, hm])), onlyCore_setCore s c.val _, ?_⟩
  rw [State.core_setCore_self]
  exact ⟨rfl, rfl, rfl⟩

/-- A pre-emption request is kept (R64). -/
theorem exec_preemptRequest_kept (hk : (s.core c.val).seq.kernel.isSome = true) (hs : (s.core c.val).sched = .parking)
    (hd : (s.core c.val).seq.parked = false) :
    ∃ t, exec (.preemptRequest c) s = .next t ∧ OnlySeq s t c.val ∧
      { (t.core c.val).seq with preempt := (s.core c.val).seq.preempt } = (s.core c.val).seq ∧
      (t.core c.val).seq.preempt = true := by
  refine ⟨_, congrArg Host.Outcome.next (if_pos (by simp [hk, hs, hd])), ⟨onlyCore_setCore s c.val _, ?_⟩, ?_⟩
  · rw [State.core_setCore_self]
  · rw [State.core_setCore_self]; exact ⟨rfl, rfl⟩

end

/-! ## Withdrawals (R373) -/

/-- What withdrawing SENDs and RECVs of core `c` leaves alone: the sequencer of `c`, the other cores, and of the rest everything
but the flits, the fabric and the accounts of clients. -/
structure WithdrawFrame (c : Nat) (s t : State) : Prop where
  rest : { t with cores := s.cores, flits := s.flits, fab := s.fab, glob := s.glob } = s
  glob : { t.glob with acct := s.glob.acct } = s.glob
  other : ∀ d, d ≠ c → t.core d = s.core d
  seq : (t.core c).seq = (s.core c).seq

theorem WithdrawFrame.refl (c : Nat) (s : State) : WithdrawFrame c s s := ⟨rfl, rfl, fun _ _ => rfl, rfl⟩

theorem WithdrawFrame.trans {c : Nat} {s t u : State} (h : WithdrawFrame c s t) (g : WithdrawFrame c t u) :
    WithdrawFrame c s u where
  rest := (congrArg (fun v : State => { v with cores := s.cores, flits := s.flits, fab := s.fab, glob := s.glob }) g.rest).trans
    h.rest
  glob := (congrArg (fun v : Global => { v with acct := s.glob.acct }) g.glob).trans h.glob
  other := fun d hd => (g.other d hd).trans (h.other d hd)
  seq := g.seq.trans h.seq

/-- A slot as a withdrawal leaves it. -/
def Slot.withdraw (x : Slot) (flushed : Bool) : Slot :=
  { x with state := .gated, withdrawn := true, blocked := false, flushed := flushed }

theorem State.acctEngine_eq (s : State) (c cl : Nat) (x : Slot) :
    ∃ m, s.acctEngine c cl x = { s with glob := { s.glob with acct := m } } := by
  unfold State.acctEngine
  dsimp only
  split <;> exact ⟨_, rfl⟩

/-- What the cores read after a write of one entry of the core map. -/
theorem State.core_of_cores {s t : State} {c : Nat} {k : Core} (h : t.cores = s.cores.set c k) (d : Nat) :
    t.core d = if d = c then k else s.core d := by
  rw [State.core, h, FMap.get_set]
  rfl

/-- A withdrawal writes the slot and the flush marks of its core, charges the engine time and may send a flush flit. -/
theorem State.withdraw_eq (s : State) (c n : Nat) : ∃ came marks m fl b, s.withdraw c n =
    { s with
      cores := s.cores.set c ({ s.core c with welt := { (s.core c).welt with flushes := marks } }.setSlot n
        (((s.core c).slot n).withdraw came))
      glob := { s.glob with acct := m }
      flits := fl
      fab := { s.fab with bytes := b } } := by
  obtain ⟨m, hm⟩ := s.acctEngine_eq c (s.core c).client ((s.core c).slot n)
  unfold State.withdraw
  dsimp only
  rw [hm]
  split
  · obtain ⟨fl, b, hf⟩ := State.inject_eq (({ s with glob := { s.glob with acct := m } } : State).modCore c _) _
    exact ⟨_, _, m, fl, b, hf⟩
  · exact ⟨_, _, m, s.flits, s.fab.bytes, rfl⟩

theorem State.withdraw_frame (s : State) (c n : Nat) : WithdrawFrame c s (s.withdraw c n) := by
  obtain ⟨came, marks, m, fl, b, h⟩ := s.withdraw_eq c n
  rw [h]
  refine ⟨rfl, rfl, fun d hd => ?_, ?_⟩
  · rw [State.core_of_cores (s := s) (c := c) rfl, if_neg hd]
  · rw [State.core_of_cores (s := s) (c := c) rfl, if_pos rfl]; rfl

theorem State.slot_withdraw (s : State) (c n j : Nat) : ∃ b, ((s.withdraw c n).core c).slot j =
    if j = n then ((s.core c).slot n).withdraw b else (s.core c).slot j := by
  obtain ⟨came, marks, m, fl, b, h⟩ := s.withdraw_eq c n
  rw [h, State.core_of_cores (s := s) (c := c) rfl, if_pos rfl]
  exact ⟨came, Core.slot_setSlot _ n j _⟩

theorem withdrawList_frame (c : Nat) (l : List Nat) (s : State) :
    WithdrawFrame c s (l.foldl (fun s n => s.withdraw c n) s) := by
  induction l generalizing s with
  | nil => exact .refl c s
  | cons n l ih => exact (s.withdraw_frame c n).trans (ih _)

/-- Each slot of a list without repetition is withdrawn once. -/
theorem slot_withdrawList (c j : Nat) {l : List Nat} (hl : l.Nodup) (s : State) :
    ∃ b, ((l.foldl (fun s n => s.withdraw c n) s).core c).slot j =
      if j ∈ l then ((s.core c).slot j).withdraw b else (s.core c).slot j := by
  induction l generalizing s with
  | nil => exact ⟨false, rfl⟩
  | cons n l ih =>
    obtain ⟨hn, hl⟩ := List.nodup_cons.1 hl
    obtain ⟨b1, h1⟩ := s.slot_withdraw c n j
    obtain ⟨b2, h2⟩ := ih hl (s.withdraw c n)
    rw [List.foldl_cons, h2, h1]
    by_cases hj : j = n
    · subst hj
      exact ⟨b1, by rw [if_neg hn, if_pos rfl, if_pos List.mem_cons_self]⟩
    · refine ⟨b2, ?_⟩
      simp only [List.mem_cons, hj, false_or, if_false]

theorem State.withdrawAll_frame (s : State) (c : Nat) (p : Nat → Bool) : WithdrawFrame c s (s.withdrawAll c p) :=
  withdrawList_frame c _ s

theorem State.slot_withdrawAll (s : State) (c : Nat) (p : Nat → Bool) {n : Nat} (hn : n < 64) :
    ∃ b, ((s.withdrawAll c p).core c).slot n = if p n = true then ((s.core c).slot n).withdraw b else (s.core c).slot n := by
  have hmem : n ∈ Core.slotNums.filter p ↔ p n = true := by simp [mem_slotNums, hn]
  have hnodup : (Core.slotNums.filter p).Nodup := List.nodup_range.filter p
  obtain ⟨b, h⟩ := slot_withdrawList c n hnodup s
  exact ⟨b, h.trans (if_congr hmem rfl rfl)⟩

theorem State.withdrawAll_none {s : State} {c : Nat} {p : Nat → Bool} (h : ∀ n, n < 64 → p n = false) :
    s.withdrawAll c p = s := by
  have hnil : Core.slotNums.filter p = [] :=
    List.filter_eq_nil_iff.2 fun n hn => by rw [h n (mem_slotNums.1 hn)]; exact Bool.false_ne_true
  rw [State.withdrawAll, hnil, List.foldl_nil]

/-! ## Pre-emption at a WAITT, and parking -/

theorem State.allRemote_of {s : State} {c : Nat}
    (h : ∀ n, n < 64 → ((s.core c).slot n).state = .active → s.remoteWait c n = true) : s.allRemote c = true := by
  refine List.all_eq_true.2 fun n hn => ?_
  by_cases ha : ((s.core c).slot n).state = .active
  · simp [h n (mem_slotNums.1 hn) ha]
  · simp [ha]

section
variable {s : State} {c : CoreId}

theorem exec_waittPark_eq_of_long {tc : BitVec 3} {v w : BitVec 32} (hr : (s.core c.val).Runs)
    (hw : (s.core c.val).seq.stall = some (.waitt tc v w)) (hlong : 1024 ≤ w.toNat) (hall : s.allRemote c.val = true) :
    exec (.waittPark c) s = .next (
      if ((s.core c.val).seq.preempt && !(s.core c.val).keeps) = true then
        (s.withdrawAll c.val (fun n => (s.core c.val).isSendRecv n && s.remoteWait c.val n)).modCore c.val (fun k =>
          { (k.atYield (s.mashOf c.val)).setStall none with
            seq := { (k.atYield (s.mashOf c.val)).seq with stall := none, parking := true } })
      else s.modCore c.val (fun k => k.atYield (s.mashOf c.val))) := by
  rw [exec_waittPark_eq, execWaittPark]
  simp only [hw, hr.stalled, hlong, hall, decide_true, Bool.and_self, Bool.not_true, Bool.false_eq_true, if_false]

/-- A WAITT that has waited 1,024 cycles for remote events only is a yield point, and takes a pending pre-emption unless the core
is pinned (R64 to R66, R202, R300, R373). -/
theorem exec_waittPark_yields {tc : BitVec 3} {v w : BitVec 32} (hr : (s.core c.val).Runs)
    (hw : (s.core c.val).seq.stall = some (.waitt tc v w)) (hlong : 1024 ≤ w.toNat)
    (hall : ∀ n, n < 64 → ((s.core c.val).slot n).state = .active → s.remoteWait c.val n = true) :
    ∃ t, exec (.waittPark c) s = .next t ∧ { t with cores := s.cores, flits := s.flits, fab := s.fab, glob := s.glob } = s ∧
      { t.glob with acct := s.glob.acct } = s.glob ∧ (∀ d, d ≠ c.val → t.core d = s.core d) ∧
      (t.core c.val).seq.pc = (s.core c.val).seq.pc ∧ (t.core c.val).seq.yieldMark = s.mashOf c.val ∧
      ((t.core c.val).seq.parking = true ↔ (s.core c.val).seq.preempt = true ∧ (s.core c.val).keeps = false) ∧
      ∀ n, n < 64 → ∃ b, (t.core c.val).slot n =
        if (s.core c.val).seq.preempt = true ∧ (s.core c.val).keeps = false ∧
            (kindOf ((s.core c.val).slot n).desc = 10 ∨ kindOf ((s.core c.val).slot n).desc = 11) ∧
            s.remoteWait c.val n = true then
          ((s.core c.val).slot n).withdraw b else (s.core c.val).slot n := by
  rw [exec_waittPark_eq_of_long hr hw hlong (State.allRemote_of hall)]
  refine ⟨_, rfl, ?_⟩
  have htakes : ((s.core c.val).seq.preempt && !(s.core c.val).keeps) = true ↔
      (s.core c.val).seq.preempt = true ∧ (s.core c.val).keeps = false := by simp
  rw [if_congr htakes rfl rfl]
  split
  · next h =>
    obtain ⟨hpre, hkeeps⟩ := h
    have hframe := s.withdrawAll_frame c.val (fun n => (s.core c.val).isSendRecv n && s.remoteWait c.val n)
    have hslot := fun n (hn : n < 64) =>
      s.slot_withdrawAll c.val (fun n => (s.core c.val).isSendRecv n && s.remoteWait c.val n) hn
    generalize s.withdrawAll c.val (fun n => (s.core c.val).isSendRecv n && s.remoteWait c.val n) = u at hframe hslot ⊢
    obtain ⟨rest, glob, other, seq⟩ := hframe
    refine ⟨rest, glob, fun d hd => ?_, ?_, ?_, ?_, fun n hn => ?_⟩
    · rw [State.core_modCore, if_neg hd, other d hd]
    · rw [State.core_modCore_self, ← seq]; rfl
    · rw [State.core_modCore_self]; rfl
    · rw [State.core_modCore_self]; exact iff_of_true rfl ⟨hpre, hkeeps⟩
    · obtain ⟨b, hb⟩ := hslot n hn
      refine ⟨b, ?_⟩
      rw [State.core_modCore_self]
      refine Eq.trans hb ?_
      simp only [hpre, hkeeps, Core.isSendRecv, Bool.and_eq_true, Bool.or_eq_true, decide_eq_true_eq, true_and]
  · next h =>
    obtain ⟨-, -, hparking, -, -⟩ := hr
    refine ⟨rfl, rfl, (onlyCore_setCore s c.val _).2, ?_⟩
    rw [State.core_modCore_self]
    refine ⟨rfl, rfl, iff_of_false (fun hp => ?_) h, fun n _ => ⟨false, ?_⟩⟩
    · exact absurd (hp.symm.trans hparking) (by decide)
    · rw [if_neg (fun hc => h ⟨hc.1, hc.2.1⟩)]; rfl

theorem State.remoteWait_of_not_live {s : State} {c n : Nat} (h : ((s.core c).slot n).live = false) :
    s.remoteWait c n = false := by
  have hstate : ((s.core c).slot n).state ≠ .active := by
    intro ha
    simp [Slot.live, ha] at h
  simp [State.remoteWait, hstate]

/-- A parking core with no live stream is parked, and its notice leaves (R64). -/
theorem exec_coreParked_parks (hp : (s.core c.val).seq.parking = true) (hd : (s.core c.val).seq.parked = false)
    (hl : ∀ n, n < 64 → ((s.core c.val).slot n).live = false) :
    ∃ t, exec (.coreParked c) s = .next t ∧ { t with cores := s.cores, parkedMsgs := s.parkedMsgs } = s ∧
      (∀ d, d ≠ c.val → t.core d = s.core d) ∧ { t.core c.val with seq := (s.core c.val).seq } = s.core c.val ∧
      (t.core c.val).seq.parked = true ∧ t.parkedMsgs = s.parkedMsgs ++ [c.val] := by
  have hnone : s.withdrawAll c.val (fun n => s.idleRemote c.val n) = s :=
    State.withdrawAll_none fun n hn => by simp [State.idleRemote, State.remoteWait_of_not_live (hl n hn)]
  have hdone : Core.slotNums.all (fun n => !((s.core c.val).slot n).live) = true :=
    List.all_eq_true.2 fun n hn => by rw [hl n (mem_slotNums.1 hn)]; rfl
  have hexec : exec (.coreParked c) s = .next
      { s.modCore c.val (fun k => { k with seq := { k.seq with parked := true, preempt := false } }) with
        parkedMsgs := s.parkedMsgs ++ [c.val] } := by
    rw [exec_coreParked_eq, execCoreParked]
    simp only [hp, hd, hnone, hdone, Bool.not_false, Bool.and_self, if_true]
  refine ⟨_, hexec, rfl, fun d hne => ?_, ?_, ?_, rfl⟩
  · rw [State.core_of_cores (s := s) (c := c.val) rfl, if_neg hne]
  · rw [State.core_of_cores (s := s) (c := c.val) rfl, if_pos rfl]
  · rw [State.core_of_cores (s := s) (c := c.val) rfl, if_pos rfl]

end

/-- Settles O34, event by event. -/
theorem sequencerEventsTakeEffect : Obligations.SequencerEventsTakeEffect := by
  intro s c
  exact ⟨fun _ hl hon hr hb => exec_launchRecord_starts hl hon hr hb,
    fun h hok hgood => exec_icacheFill_caches h hok hgood,
    fun _ _ _ hr hw => exec_stallCycle_waitt hr hw,
    fun _ hr hw hn => exec_stallCycle_fence hr hw hn,
    fun hk hp hd ho hm => exec_yieldOverdue_counts hk hp hd ho hm,
    fun hk hs hd => exec_preemptRequest_kept hk hs hd,
    fun _ _ _ hr hw hlong hall => exec_waittPark_yields hr hw hlong hall,
    fun hp hd hl => exec_coreParked_parks hp hd hl⟩

end Sys2Proof.Machine
end

section
/-! PROOF. O3: the state after reset (R37). Nothing is listed in it, so every core and every bay reads its reset value. -/

namespace Sys2Proof.Machine

open Sys2Proof

theorem State.core_reset (c : Nat) : State.reset.core c = {} := FMap.get_nil _ _
theorem State.bay_reset (b : Nat) : State.reset.bay b = {} := FMap.get_nil _ _

theorem State.canon_reset : State.reset.Canon := ⟨Memory.wf_nil, fun _ h => absurd h List.not_mem_nil⟩

theorem State.partOfBay_reset (b : Nat) : State.reset.partOfBay b = 0 := by rw [State.partOfBay, State.bay_reset]
theorem State.partOf_reset (c : Nat) : State.reset.partOf c = 0 := State.partOfBay_reset (bayOf c)

theorem Core.s_default (r : Nat) : ({} : Core).s r = 0 := ite_self 0
theorem Core.a_default (r : Nat) : ({} : Core).a r = 0 := ite_self 0
theorem Core.tok_default (r : Nat) : ({} : Core).tok r = 0 := FMap.get_nil _ _

/-- Settles O3, part by part of the reset state. -/
theorem resetLeavesPartitionsAndMemories : Obligations.ResetLeavesPartitionsAndMemories := by
  refine ⟨State.canon_reset, rfl, rfl, rfl, rfl, fun b _ => State.partOfBay_reset b, fun c _ => ⟨State.partOf_reset c, ?_⟩⟩
  rw [State.core_reset]
  exact ⟨rfl, rfl, fun r => ⟨Core.s_default r, Core.a_default r, Core.tok_default r⟩⟩

end Sys2Proof.Machine
end

section
/-! PROOF. O36: messages for a core's mailbox (R41, R93, R268, R417). -/

namespace Sys2Proof.Machine

open Sys2Proof

/-! ## The commands -/

theorem exec_mailboxMessage_eq (c : CoreId) (s : State) : exec (.mailboxMessage c) s = execMailboxMessage c s := rfl
theorem exec_cinchMboxRetry_eq (c : CoreId) (s : State) : exec (.cinchMboxRetry c) s = execCinchMboxRetry c s := rfl

/-! ## The message that is offered -/

/-- Messages that the predicate never takes are passed over. -/
theorem splitMsg_first {p : List MboxMsg → MboxMsg → Bool} {m : MboxMsg} {after : List MboxMsg} :
    ∀ {mid seen : List MboxMsg}, (∀ x ∈ mid, ∀ l, p l x = false) → p (seen ++ mid) m = true →
      splitMsg p seen (mid ++ m :: after) = some (seen ++ mid, m, after)
  | [], seen, _, h => by
    rw [List.append_nil] at h ⊢
    simp [splitMsg, h]
  | x :: mid, seen, hmid, h => by
    have hx : p seen x = false := hmid x List.mem_cons_self seen
    have hseen : seen ++ x :: mid = (seen ++ [x]) ++ mid := List.append_cons seen x mid
    rw [hseen] at h ⊢
    simp only [List.cons_append, splitMsg, hx, Bool.false_eq_true, if_false]
    exact splitMsg_first (fun y hy => hmid y (List.mem_cons_of_mem _ hy)) h

/-- With no earlier message for its core a message may be offered (R268). -/
theorem offerable_first {before : List MboxMsg} {m : MboxMsg} (h : ∀ b, b ∈ before → b.core ≠ m.core) :
    offerable before m = true := by
  unfold offerable
  split
  · exact List.all_eq_true.2 fun b hb => by simp [h b hb]
  · rfl

section
variable {s : State} {c : CoreId} {before after : List MboxMsg} {m : MboxMsg}

theorem exec_mailboxMessage_offers (hs : s.mboxes = before ++ m :: after) (hm : m.core = c.val)
    (hb : ∀ b, b ∈ before → b.core ≠ c.val) (hnew : m.retryAt = none) :
    exec (.mailboxMessage c) s = .next (s.offer (before, m, after)) := by
  rw [exec_mailboxMessage_eq, execMailboxMessage, hs, splitMsg_first (fun b h l => by simp [hb b h])
    (by simp [hm, hnew, offerable_first (hm ▸ hb)])]
  rfl

theorem exec_cinchMboxRetry_offers {w : Nat} (hs : s.mboxes = before ++ m :: after) (hm : m.core = c.val)
    (hb : ∀ b, b ∈ before → b.core ≠ c.val) (hw : m.retryAt = some w) (hsrc : m.source = .cinch) (hdue : w ≤ s.now)
    (hrun : s.safety.saddleStopped = false) : exec (.cinchMboxRetry c) s = .next (s.offer (before, m, after)) := by
  rw [exec_cinchMboxRetry_eq, execCinchMboxRetry, hrun, hs, splitMsg_first (fun b h l => by simp [hb b h])
    (by simp [hm, hw, hsrc, hdue, offerable_first (hm ▸ hb)])]
  rfl

/-! ## The offer -/

/-- A flit of FC0 to a core whose bay is not ON is discarded and counted at its die (R41). -/
theorem State.cross_toCoreEnd_off {c : Nat} (hc : c < 360) (hoff : (s.bay (c / 30)).state ≠ .on) (src n : Nat) (hsrc : 60 ≤ src)
    (g : State → State) : s.cross (toCoreEnd src c) n none g =
      s.modDie (c / 6) (fun d => { d with destReset := satAdd 16 d.destReset 1 }) := by
  have hcarried : s.carried (toCoreEnd src c) n = s := by
    have hacross : s.across (toCoreEnd src c) n = s := if_pos (by simp [toCoreEnd])
    have hdie : c / 6 < 84 := by omega
    rw [State.carried, hacross]
    simp [toCoreEnd, dieOf, hdie]
  have hrouter : s.atRouter (toCoreEnd src c) = .reset := by
    have hbay : c / 6 / 5 = c / 30 := by omega
    have hne : src ≠ c / 6 := by omega
    have hdie : ¬ 60 ≤ c / 6 := by omega
    have hep : ¬ 7 ≤ c % 6 := by omega
    simp [State.atRouter, toCoreEnd, dieOf, hbay, hoff, hne, hdie, hep]
  have hend : (6 * (c / 6) + c % 6 % 6) / 6 = c / 6 := by omega
  simp only [State.cross, hcarried, hrouter, State.resetDiscard, Option.map_none]
  simp only [toCoreEnd, dieOf, hend]

theorem MsgSource.le_site (x : MsgSource) : 60 ≤ x.site := by cases x <;> simp [MsgSource.site]

theorem Core.deliver_eq_some {k : Core} (h : k.seq.mbox.length < 4) (payload : BitVec 256) (tc : Nat) :
    k.deliver payload tc = some ({ k with seq := { k.seq with mbox := k.seq.mbox ++ [payload] } }.incTok tc) := if_pos h

theorem Core.deliver_eq_none {k : Core} (h : ¬ k.seq.mbox.length < 4) (payload : BitVec 256) (tc : Nat) :
    k.deliver payload tc = none := if_neg h

theorem State.offer_room (hc : m.core < 360) (hon : (s.bay (m.core / 30)).state = .on) (hroom : (s.core m.core).seq.mbox.length < 4) :
    s.offer (before, m, after) = ({ s with mboxes := before ++ after } : State).setCore m.core
      ({ s.core m.core with seq := { (s.core m.core).seq with mbox := (s.core m.core).seq.mbox ++ [m.payload] } }.incTok m.tc) := by
  have hdeliver := Core.deliver_eq_some hroom m.payload m.tc
  simp only [State.offer]
  rw [State.cross_toCoreEnd (s := { s with mboxes := before ++ after }) hc hon]
  rw [show ({ s with mboxes := before ++ after } : State).core m.core = s.core m.core from rfl, hdeliver]

theorem State.offer_full (hc : m.core < 360) (hon : (s.bay (m.core / 30)).state = .on)
    (hfull : ¬ (s.core m.core).seq.mbox.length < 4) : s.offer (before, m, after) = { s with
      mboxes := before ++ { m with retryAt := some (s.now + (if m.source = .cinch then 1000 else 10000)) } :: after
      cinch := if m.source = .cinch then { s.cinch with mboxWait := min 8191 (s.cinch.mboxWait + 1) } else s.cinch } := by
  have hdeliver := Core.deliver_eq_none hfull m.payload m.tc
  simp only [State.offer]
  rw [State.cross_toCoreEnd (s := { s with mboxes := before ++ after }) hc hon]
  rw [show ({ s with mboxes := before ++ after } : State).core m.core = s.core m.core from rfl, hdeliver]
  cases m.source <;> rfl

theorem State.offer_off (hc : m.core < 360) (hoff : (s.bay (m.core / 30)).state ≠ .on) : s.offer (before, m, after) =
    ({ s with mboxes := before ++ after } : State).modDie (m.core / 6) (fun d => { d with destReset := satAdd 16 d.destReset 1 }) := by
  simp only [State.offer]
  exact State.cross_toCoreEnd_off (s := { s with mboxes := before ++ after }) hc hoff _ _ m.source.le_site _

theorem Core.tok_incTok (k : Core) (tc q : Nat) :
    (k.incTok tc).tok q = if q = tc ∧ k.tok q ≠ 0xFFFFFFFF then k.tok q + 1 else k.tok q := by
  rw [Core.incTok, Core.tok_setTok, ofNat_satAdd_one]
  by_cases hq : q = tc
  · subst hq
    by_cases hfull : k.tok q = 0xFFFFFFFF <;> simp [hfull]
  · simp [hq]

end

/-- Settles O36: both commands offer the message, and an offer meets a bay that is not ON, a full mailbox, or room. -/
theorem messagesReachTheMailbox : Obligations.MessagesReachTheMailbox := by
  intro s c before after m hs hm hb k result discarded
  have hc : m.core < 360 := hm ▸ c.isLt
  have hon : (s.bay (c.val / 30)).state = .on → result (s.offer (before, m, after)) := by
    intro h
    rw [← hm] at h
    by_cases hroom : (s.core m.core).seq.mbox.length < 4
    · rw [State.offer_room hc h hroom]
      rw [hm] at hroom ⊢
      refine (if_pos hroom).mpr ⟨rfl, fun d hd => (State.core_setCore ..).trans (if_neg hd), rfl, ?_⟩
      rw [State.core_setCore_self]
      exact ⟨rfl, fun q => Core.tok_incTok _ m.tc q, rfl⟩
    · rw [State.offer_full hc h hroom]
      rw [hm] at hroom
      exact (if_neg hroom).mpr ⟨rfl, rfl, rfl⟩
  have hoff : (s.bay (c.val / 30)).state ≠ .on → discarded (s.offer (before, m, after)) := by
    intro h
    rw [← hm] at h
    rw [State.offer_off hc h, hm]
    refine ⟨rfl, rfl, ?_⟩
    rw [State.die_modDie_self]
    rfl
  exact ⟨fun hnew => ⟨_, exec_mailboxMessage_offers hs hm hb hnew, hon, hoff⟩,
    fun w hw hsrc hdue hrun => ⟨_, exec_cinchMboxRetry_offers hs hm hb hw hsrc hdue hrun, hon, hoff⟩⟩

end Sys2Proof.Machine
end

section
/-! PROOF. O51: the save of a kernel whose cores are asked to park (R374). The statement lets a core of the kernel count as gone
when it is listed in `moved`; the model counts it as gone only while the kernel is being saved. No command leaves a
kernel that is parking with a core listed there, and the statement is about every state. -/

namespace Sys2Proof.Machine

open Sys2Proof

/-- A kernel on cores 0 and 1 that is asked to park, with core 1 listed as moved. -/
def parkingMoved : Placed where
  krec := ⟨1, 1, true, false, 2, 0, 0, 0, 0, 64, [], 0, 0, 0, 0, 0, 0, 0⟩
  cores := [0, 1]
  ended := []
  order := 0
  at_ := 0
  state := .parking
  moved := [1]
  killed := false
  placeNo := 0
  marks := []
  late := []

/-- Core 0 has parked, core 1 still runs. -/
def halfParked : State :=
  { State.reset with
    cores := [(0, { sched := .parked }), (1, { sched := .running })]
    sched := [(0, { placed := [parkingMoved] })] }

theorem holder_halfParked : (halfParked.schedOf (halfParked.partOf 0)).holder 0 = some parkingMoved := by decide

theorem exec_saveStart_halfParked : exec (.saveStart 0) halfParked = .next halfParked := by
  have hwaits : parkingMoved.holds.all (fun d => (halfParked.core d).sched = .parked || (halfParked.core d).sched = .saving) = false := by
    decide
  rw [show exec (.saveStart 0) halfParked = execSaveStart 0 halfParked from rfl, execSaveStart]
  rw [show ((0 : CoreId).val) = 0 from rfl, holder_halfParked]
  simp only [hwaits, Bool.and_false, Bool.false_and, Bool.false_eq_true, if_false]

/-- Refutes O51: SAVE_START of core 0 of `halfParked` meets every condition of its clause, core 1 being listed in `moved`, and
changes nothing, because core 1 has not parked. -/
theorem not_coresAreParkedSavedAndRestored : ¬ Obligations.CoresAreParkedSavedAndRestored := by
  intro h
  obtain ⟨-, -, hsave, -, -, -⟩ := h halfParked 0 [] 0 0 0
  have hgone : ∀ d, d ∈ parkingMoved.holds →
      d ∈ parkingMoved.moved ∨ (halfParked.core d).sched = .parked ∨ (halfParked.core d).sched = .saving := by decide
  obtain ⟨t, ht, hcore, -⟩ := hsave parkingMoved holder_halfParked (.inl rfl) rfl hgone (by decide) (by decide)
  cases exec_saveStart_halfParked.symm.trans ht
  have hsched : (halfParked.core 0).sched = .saving := congrArg Core.sched hcore.1
  exact absurd hsched (by decide)

end Sys2Proof.Machine
end

section
/-! PROOF. What bringing the accounts up to date can change (R366, R381), and the scheduler with nothing to place (R364). -/

namespace Sys2Proof.Machine

open Sys2Proof

/-! ## Cores that differ in charged engine time only -/

theorem SameCore.refl (k : Core) : SameCore k k := ⟨rfl, fun _ => rfl⟩

theorem SameCore.trans {k j i : Core} (h : SameCore k j) (g : SameCore j i) : SameCore k i := by
  obtain ⟨h1, h2⟩ := h
  obtain ⟨g1, g2⟩ := g
  refine ⟨Eq.trans ?_ h1, fun n => Eq.trans ?_ (h2 n)⟩
  · exact congrArg (fun x : Core => { x with slots := k.slots }) g1
  · exact congrArg (fun x : Slot => { x with acceptedAt := (k.slot n).acceptedAt, endedAt := (k.slot n).endedAt }) (g2 n)

theorem SameCore.safe {k j : Core} (h : SameCore k j) : j.safe = k.safe :=
  (congrArg Core.safe h.1 :)

theorem sameCore_setSlot (k : Core) (n : Nat) (x : Slot)
    (h : { x with acceptedAt := (k.slot n).acceptedAt, endedAt := (k.slot n).endedAt } = k.slot n) : SameCore k (k.setSlot n x) := by
  refine ⟨rfl, fun m => ?_⟩
  rw [Core.slot_setSlot]
  split
  · next hm => rw [hm, h]
  · rfl

/-! ## Charging -/

theorem State.schedOf_modSched (s : State) (p q : Nat) (f : Sched → Sched) :
    (s.modSched p f).schedOf q = if q = p then f (s.schedOf p) else s.schedOf q := FMap.get_set _ _ _ _ _

/-- Schedulers that differ in what their clients and placed kernels have been charged only. -/
def ChargedSched (d e : Sched) : Prop :=
  { e with clients := d.clients, placed := d.placed } = d ∧
  e.placed.map (fun w => { w with marks := [] }) = d.placed.map (fun w => { w with marks := [] })

theorem ChargedSched.refl (d : Sched) : ChargedSched d d := ⟨rfl, rfl⟩

theorem ChargedSched.trans {d e f : Sched} (h : ChargedSched d e) (g : ChargedSched e f) : ChargedSched d f :=
  ⟨(congrArg (fun x : Sched => { x with clients := d.clients, placed := d.placed }) g.1).trans h.1, g.2.trans h.2⟩

theorem ChargedSched.waiting {d e : Sched} (h : ChargedSched d e) : e.waiting = d.waiting :=
  (congrArg Sched.waiting h.1 :)

theorem ChargedSched.placed_state {d e : Sched} (h : ChargedSched d e) {w : Placed} (hw : w ∈ e.placed) :
    ∃ v ∈ d.placed, v.state = w.state := by
  have hmem : ({ w with marks := [] } : Placed) ∈ d.placed.map (fun w => { w with marks := [] }) := h.2 ▸ List.mem_map_of_mem hw
  obtain ⟨v, hv, heq⟩ := List.mem_map.1 hmem
  exact ⟨v, hv, (congrArg Placed.state heq :)⟩

/-- From `s` to `t` nothing but charges has changed: accounts, virtual times, marks, and the times from which streams are charged. -/
structure Charged (s t : State) : Prop where
  rest : { t with cores := s.cores, glob := s.glob, sched := s.sched } = s
  cores : ∀ d, SameCore (s.core d) (t.core d)
  scheds : ∀ p, ChargedSched (s.schedOf p) (t.schedOf p)

theorem Charged.refl (s : State) : Charged s s := ⟨rfl, fun _ => .refl _, fun _ => .refl _⟩

theorem Charged.trans {s t u : State} (h : Charged s t) (g : Charged t u) : Charged s u :=
  ⟨(congrArg (fun x : State => { x with cores := s.cores, glob := s.glob, sched := s.sched }) g.rest).trans h.rest,
    fun d => (h.cores d).trans (g.cores d), fun p => (h.scheds p).trans (g.scheds p)⟩

theorem Charged.glob (s : State) (g : Global) : Charged s { s with glob := g } := ⟨rfl, fun _ => .refl _, fun _ => .refl _⟩

theorem Charged.foldl {α : Type} {f : State → α → State} (hf : ∀ s a, Charged s (f s a)) (l : List α) (s : State) :
    Charged s (l.foldl f s) := by
  induction l generalizing s with
  | nil => exact .refl s
  | cons a l ih => exact (hf s a).trans (ih _)

theorem charged_modSched {s : State} {p : Nat} {f : Sched → Sched} (h : ChargedSched (s.schedOf p) (f (s.schedOf p))) :
    Charged s (s.modSched p f) := by
  refine ⟨rfl, fun d => .refl _, fun q => ?_⟩
  rw [State.schedOf_modSched]
  split
  · next hq => rw [hq]; exact h
  · exact .refl _

theorem charged_chargeCore (s : State) (p : Nat) (w : Placed) (c : Nat) : Charged s (s.chargeCore p w c) := by
  unfold State.chargeCore
  dsimp only
  split
  · exact .glob _ _
  · split
    · exact (Charged.glob s _).trans (charged_modSched ⟨rfl, rfl⟩)
    · exact .glob _ _

theorem charged_chargeEngines (s : State) (client c : Nat) : Charged s (s.chargeEngines client c) := by
  refine Charged.foldl (fun s n => ?_) _ s
  dsimp only
  split
  · exact .refl s
  · obtain ⟨m, hm⟩ := s.acctEngine_eq c client ((s.core c).slot n)
    rw [hm]
    refine (Charged.glob s _).trans ⟨rfl, fun d => ?_, fun p => .refl _⟩
    rw [State.core_modCore]
    split
    · next hd => subst hd; exact sameCore_setSlot _ n _ rfl
    · exact .refl _

theorem charged_charge (s : State) (p : Nat) : Charged s (s.charge p) := by
  unfold State.charge
  dsimp only
  refine Charged.trans (Charged.foldl (fun s w => ?_) _ s) (charged_modSched ⟨rfl, ?_⟩)
  · exact Charged.foldl (fun s c => (charged_chargeCore s p w c).trans (charged_chargeEngines _ _ c)) w.holds s
  · rw [List.map_map]
    rfl

/-! ## A scheduler with nothing to place -/

/-- No kernel waits, and none is saved or on its way back. -/
def Sched.Idle (d : Sched) : Prop := d.waiting = [] ∧ ∀ w, w ∈ d.placed → w.state ≠ .saved ∧ w.state ≠ .restoring

theorem ChargedSched.idle {d e : Sched} (h : ChargedSched d e) (hd : d.Idle) : e.Idle := by
  refine ⟨h.waiting.trans hd.1, fun w hw => ?_⟩
  obtain ⟨v, hv, hstate⟩ := h.placed_state hw
  exact hstate ▸ hd.2 v hv

section
variable {s : State} {p : Nat}

theorem State.finishRestores_idle (h : (s.schedOf p).Idle) : s.finishRestores p = s := by
  have hnone : (s.schedOf p).placed.filter (fun w => w.state = .restoring && w.unended.all (fun d => w.moved.contains d)) = [] :=
    List.filter_eq_nil_iff.2 fun w hw => by simp [(h.2 w hw).2]
  rw [State.finishRestores, hnone, List.foldl_nil]

theorem State.lcHead_idle (h : (s.schedOf p).Idle) : s.lcHead p = none := by
  rw [State.lcHead, h.1, List.filter_nil, List.foldl_nil]

theorem Sched.beHead_idle {d : Sched} (h : d.Idle) : d.beHead = none := by
  have hnone : d.placed.filter (fun w => w.state = .saved) = [] := List.filter_eq_nil_iff.2 fun w hw => by simp [(h.2 w hw).1]
  rw [Sched.beHead, Sched.beWaiting, h.1, hnone]
  rfl

theorem State.scheduleLoop_idle (h : (s.schedOf p).Idle) (n : Nat) : State.scheduleLoop p n s = s := by
  have hnone : s.scheduleOnce p = none := by rw [State.scheduleOnce, State.lcHead_idle h, Sched.beHead_idle h]
  cases n with
  | zero => rfl
  | succ n => rw [State.scheduleLoop, hnone]

/-- The scheduler with nothing to place brings its accounts up to date at most. -/
theorem charged_schedule (h : (s.schedOf p).Idle) : Charged s (s.schedule p) := by
  have hidle : ((s.charge p).schedOf p).Idle := ((charged_charge s p).scheds p).idle h
  unfold State.schedule
  split
  · exact .refl s
  · simp only [State.finishRestores_idle hidle, State.scheduleLoop_idle hidle, State.lcHead_idle hidle]
    exact charged_charge s p

end

end Sys2Proof.Machine
end

section
/-! PROOF. What answering open LC queries can change at N1 (R423, R459 to R461), and when the answer of a query has to wait. -/

namespace Sys2Proof.Machine

open Sys2Proof

/-! ## Messages to the host -/

/-- A send on a lane changes its session and the output. -/
theorem State.drain_eq (s : State) (i l : Nat) : ∃ x o, s.drain i l =
    { s with host := { s.host with sessions := s.host.sessions.set i x }, out := o } := by
  unfold State.drain
  dsimp only
  exact ⟨_, _, rfl⟩

theorem State.acctHost_eq (s : State) (n : Nat) : ∃ g, s.acctHost n = { s with glob := g } := ⟨_, rfl⟩

theorem State.modSess_eq (s : State) (i : Nat) (f : Session → Session) : ∃ x, s.modSess i f =
    { s with host := { s.host with sessions := s.host.sessions.set i x } } := ⟨_, rfl⟩

/-- A message changes its session, the accounts and the output. -/
theorem State.post_eq (s : State) (i l n : Nat) (o : Out) : ∃ ss g out, s.post i l n o =
    { s with host := { s.host with sessions := ss }, glob := g, out := out } ∧ ∀ j, j ≠ i → ss.get {} j = s.sess j := by
  unfold State.post
  split
  · dsimp only
    obtain ⟨g, hg⟩ := s.acctHost_eq n
    rw [hg, State.modLane]
    obtain ⟨x, hx⟩ := State.modSess_eq { s with glob := g } i (fun x => { x with msgNo := (x.msgNo + 1) % 2 ^ 32 })
    rw [hx]
    generalize (fun x : Session => x.setLane l _) = f
    obtain ⟨y, hy⟩ := State.modSess_eq { s with host := { s.host with sessions := s.host.sessions.set i x }, glob := g } i f
    rw [hy]
    obtain ⟨z, out, hz⟩ := State.drain_eq
      { s with host := { s.host with sessions := (s.host.sessions.set i x).set i y }, glob := g } i l
    refine ⟨_, g, out, hz, fun j hj => ?_⟩
    rw [FMap.get_set_ne _ _ hj, FMap.get_set_ne _ _ hj, FMap.get_set_ne _ _ hj]
    rfl
  · exact ⟨s.host.sessions, s.glob, s.out, rfl, fun _ _ => rfl⟩

/-- A lane may send as before when the clock, its session, the pauses and the LC engine are as before. -/
theorem State.canSend_congr {s t : State} {i : Nat} (hsess : t.sess i = s.sess i) (hnow : t.now = s.now)
    (hpfc : t.host.pfc = s.host.pfc) (hqos : t.host.qos = s.host.qos) (hstop : t.host.lcStopped = s.host.lcStopped) (l : Nat) :
    t.canSend i l = s.canSend i l := by
  have hpcp : t.host.pcp l = s.host.pcp l := by rw [HostPort.pcp, hqos]; rfl
  have hheld : t.laneHeld l = s.laneHeld l := by rw [State.laneHeld, hnow, hpfc, hpcp, hstop]; rfl
  rw [State.canSend, hheld, hsess]
  rfl

/-! ## Finding a query -/

theorem Query.is_ne {a r p n : Nat} (h : ¬ (a = p ∧ r = n)) {q : Query} (hq : q.is a r = true) : q.is p n = false := by
  simp only [Query.is, Bool.and_eq_true, decide_eq_true_eq] at hq
  obtain ⟨ha, hr⟩ := hq
  simpa [Query.is, ha, hr] using h

theorem State.query_filter_self {s t : State} {p n : Nat} (h : t.host.queries = s.host.queries.filter (fun x => !x.is p n)) :
    t.query p n = none := by
  rw [State.query, h]
  exact List.find?_eq_none.2 fun x hx => by simpa using (List.mem_filter.1 hx).2

theorem State.query_filter_ne {s t : State} {a r p n : Nat} (hne : ¬ (a = p ∧ r = n))
    (h : t.host.queries = s.host.queries.filter (fun x => !x.is p n)) : t.query a r = s.query a r := by
  rw [State.query, h, List.find?_filter]
  refine congrArg (fun f => s.host.queries.find? f) (funext fun q => ?_)
  cases hq : q.is a r
  · exact decide_eq_false (fun h => Bool.false_ne_true h.2)
  · exact decide_eq_true ⟨by rw [Query.is_ne hne hq]; rfl, rfl⟩

theorem State.query_congr {s t : State} (h : t.host.queries = s.host.queries) (a r : Nat) : t.query a r = s.query a r := by
  rw [State.query, h]; rfl

theorem State.mem_of_query {s : State} {a r : Nat} {q : Query} (h : s.query a r = some q) :
    q ∈ s.host.queries ∧ q.part = a ∧ q.req = r := by
  have hq := List.find?_some h
  simp only [Query.is, Bool.and_eq_true, decide_eq_true_eq] at hq
  exact ⟨List.mem_of_find?_eq_some h, hq⟩

theorem Query.is_self (q : Query) : q.is q.part q.req = true := by simp [Query.is]

/-- A change of the queries of one request that keeps partition and request, at the query found. -/
theorem State.query_modQuery (s : State) (a r p n : Nat) {f : Query → Query} (hf : ∀ q, (f q).part = q.part ∧ (f q).req = q.req) :
    (s.modQuery p n f).query a r = (s.query a r).map (fun q => if q.is p n then f q else q) := by
  have hkey : (Query.is a r ∘ fun q => if q.is p n then f q else q) = Query.is a r := by
    funext q
    simp only [Function.comp]
    split
    · rw [Query.is, (hf q).1, (hf q).2]; rfl
    · rfl
  show ((s.host.queries.map _).find? _) = _
  rw [List.find?_map, hkey]
  rfl

/-! ## Responding -/

/-- The queries of a request are gone, with sessions, counters, accounts and output as given. -/
def State.answeredWith (s : State) (p n : Nat) (ss : FMap Session) (orphans faults lates : Nat) (g : Global) (out : List Out) : State :=
  { s with
    host := { s.host with queries := s.host.queries.filter (fun x => !x.is p n), lcOrphan := orphans, sessions := ss }
    safety := { s.safety with lcFaults := faults, lcLates := lates }
    glob := g
    out := out }

/-- What responding to one query does: nothing while its answer has to wait, else the queries of that request are gone, and a message
may leave on lane 1 of a session that can send (R411, R423, R458). -/
theorem State.respond_cases (s : State) (p n : Nat) :
    (s.respond p n = s ∧ ∀ q, s.query p n = some q → q.fault = true → q.orphan = false ∧ s.canSend q.sess 1 = false) ∨
    ∃ ss orphans faults lates g out, s.respond p n = s.answeredWith p n ss orphans faults lates g out ∧
      ∀ j, s.canSend j 1 = false → ss.get {} j = s.sess j := by
  unfold State.respond
  cases hq : s.query p n with
  | none => exact .inl ⟨rfl, fun q h => by cases h⟩
  | some q =>
    dsimp only
    cases hv : s.verdict q with
    | none =>
      refine .inl ⟨rfl, fun q' h hfault => ?_⟩
      cases h
      simp [State.verdict, hfault] at hv
    | some v =>
      dsimp only
      split
      · next hwait =>
        simp only [Bool.and_eq_true, Bool.not_eq_true'] at hwait
        exact .inl ⟨rfl, fun q' h _ => by cases h; exact ⟨hwait.1.2, hwait.1.1⟩⟩
      · next hgo =>
        right
        split
        · exact ⟨_, _, _, _, _, _, rfl, fun _ _ => rfl⟩
        · next hopen =>
          simp only [Bool.or_eq_true, Bool.not_eq_true', not_or, Bool.not_eq_true, Bool.not_eq_false] at hopen
          have hsend : s.canSend q.sess 1 = true := by simpa [hopen.1, hopen.2] using hgo
          obtain ⟨ss, g, out, hpost, hsess⟩ := State.post_eq (State.modSafety (s.modHost _) _) q.sess 1 _ _
          refine ⟨ss, _, _, _, g, out, hpost, fun j hj => hsess j fun e => ?_⟩
          rw [e, hsend] at hj
          cases hj

/-- The frame of an answer: outside the host port, the safety counters, the accounts and the output nothing changes; queries only
leave, and a lane 1 that may not send stays so. -/
structure Answers (s t : State) : Prop where
  rest : { t with host := s.host, safety := s.safety, glob := s.glob, out := s.out } = s
  silent : t.safety.saddleSilent = s.safety.saddleSilent
  queries : ∀ q, q ∈ t.host.queries → q ∈ s.host.queries
  held : ∀ i, s.canSend i 1 = false → t.canSend i 1 = false

theorem Answers.refl (s : State) : Answers s s := ⟨rfl, rfl, fun _ h => h, fun _ h => h⟩

theorem Answers.trans {s t u : State} (h : Answers s t) (g : Answers t u) : Answers s u where
  rest := (congrArg (fun x : State => { x with host := s.host, safety := s.safety, glob := s.glob, out := s.out }) g.rest).trans h.rest
  silent := g.silent.trans h.silent
  queries q hq := h.queries q (g.queries q hq)
  held i hi := g.held i (h.held i hi)

theorem State.respond_answers (s : State) (p n : Nat) : Answers s (s.respond p n) := by
  rcases s.respond_cases p n with ⟨h, -⟩ | ⟨ss, orphans, faults, lates, g, out, h, hsess⟩
  · rw [h]; exact .refl s
  · rw [h]
    refine ⟨rfl, rfl, fun q hm => List.mem_of_mem_filter hm, fun j hj => ?_⟩
    have hs : (s.answeredWith p n ss orphans faults lates g out).sess j = s.sess j := hsess j hj
    exact (State.canSend_congr hs rfl rfl rfl rfl 1).trans hj

/-- The queries after a response: as before, or those of the request are gone. -/
theorem State.respond_queries (s : State) (p n : Nat) : s.respond p n = s ∨
    (s.respond p n).host.queries = s.host.queries.filter (fun x => !x.is p n) := by
  rcases s.respond_cases p n with ⟨h, -⟩ | ⟨ss, orphans, faults, lates, g, out, h, -⟩
  · exact .inl h
  · exact .inr (by rw [h]; rfl)

/-! ## Queries whose FAULT has to wait -/

/-- The query of a request, if it is still open, is marked FAULT and cannot be answered now. -/
def State.FaultHeld (s : State) (a r : Nat) : Prop :=
  ∀ q, s.query a r = some q → q.fault = true ∧ q.orphan = false ∧ s.canSend q.sess 1 = false

/-- A query marked FAULT has been answered after a response, or has to wait. -/
theorem State.faultHeld_respond_self {s : State} {p n : Nat} (h : ∀ q, s.query p n = some q → q.fault = true) :
    (s.respond p n).FaultHeld p n := by
  rcases s.respond_cases p n with ⟨heq, hwait⟩ | ⟨ss, orphans, faults, lates, g, out, heq, -⟩
  · rw [heq]
    exact fun q hq => ⟨h q hq, hwait q hq (h q hq)⟩
  · have hgone : (s.respond p n).query p n = none := State.query_filter_self (s := s) (by rw [heq]; rfl)
    exact fun q hq => by rw [hgone] at hq; cases hq

theorem State.query_respond_ne (s : State) {a r p n : Nat} (hne : ¬ (a = p ∧ r = n)) : (s.respond p n).query a r = s.query a r := by
  rcases s.respond_queries p n with h | h
  · rw [h]
  · exact State.query_filter_ne hne h

/-- Another response leaves a query that waits with its FAULT waiting, or answers it. -/
theorem State.FaultHeld.respond {s : State} {a r : Nat} (h : s.FaultHeld a r) (p n : Nat) : (s.respond p n).FaultHeld a r := by
  by_cases hkey : a = p ∧ r = n
  · obtain ⟨rfl, rfl⟩ := hkey
    exact State.faultHeld_respond_self fun q hq => (h q hq).1
  · intro q hq
    rw [s.query_respond_ne hkey] at hq
    obtain ⟨hfault, horphan, hsend⟩ := h q hq
    exact ⟨hfault, horphan, (s.respond_answers p n).held _ hsend⟩

/-! ## All queries -/

/-- Responses to a list of queries, all marked FAULT: those of the list are answered or wait. -/
theorem faultHeld_respondList {a r : Nat} : ∀ (l : List Query) (s : State), (∀ q, q ∈ s.host.queries → q.fault = true) →
    (s.FaultHeld a r ∨ ∃ q ∈ l, q.part = a ∧ q.req = r) → (l.foldl (fun s q => s.respond q.part q.req) s).FaultHeld a r
  | [], _, _, h => by
    rcases h with h | ⟨q, hq, -⟩
    · exact h
    · cases hq
  | q :: l, s, hall, h => by
    have hall' : ∀ x, x ∈ (s.respond q.part q.req).host.queries → x.fault = true := fun x hx =>
      hall x ((s.respond_answers q.part q.req).queries x hx)
    refine faultHeld_respondList l _ hall' ?_
    rcases h with h | ⟨x, hx, hkey⟩
    · exact .inl (h.respond _ _)
    · rcases List.mem_cons.1 hx with rfl | hx
      · obtain ⟨rfl, rfl⟩ := hkey
        exact .inl (State.faultHeld_respond_self fun y hy => hall y (State.mem_of_query hy).1)
      · exact .inr ⟨x, hx, hkey⟩

theorem answers_respondList (l : List Query) (s : State) : Answers s (l.foldl (fun s q => s.respond q.part q.req) s) := by
  induction l generalizing s with
  | nil => exact .refl s
  | cons q l ih => exact (s.respond_answers _ _).trans (ih _)

/-- With every query marked FAULT, those still open afterwards have to wait for their lane (R456, R460). -/
theorem State.faultHeld_faultAll (s : State) (a r : Nat) : s.faultAll.FaultHeld a r := by
  unfold State.faultAll State.respondAll
  generalize hu : s.modHost (fun h => { h with queries := h.queries.map (fun q => { q with fault := true }) }) = u
  have hall : ∀ q, q ∈ u.host.queries → q.fault = true := fun q hq => by
    rw [← hu] at hq
    obtain ⟨x, -, rfl⟩ := List.mem_map.1 hq
    rfl
  refine faultHeld_respondList _ u hall ?_
  cases hq : u.query a r with
  | none => exact .inl fun q h => by rw [hq] at h; cases h
  | some q =>
    obtain ⟨hmem, hkey⟩ := State.mem_of_query hq
    exact .inr ⟨q, hmem, hkey⟩

/-- Answering FAULT to every query leaves the rest of the package alone. -/
theorem State.faultAll_rest (s : State) :
    { s.faultAll with host := s.host, safety := s.safety, glob := s.glob, out := s.out } = s ∧
    s.faultAll.safety.saddleSilent = s.safety.saddleSilent := by
  unfold State.faultAll State.respondAll
  generalize hu : s.modHost (fun h => { h with queries := h.queries.map (fun q => { q with fault := true }) }) = u
  have h := answers_respondList u.host.queries u
  have hsu : { u with host := s.host, safety := s.safety, glob := s.glob, out := s.out } = s := hu ▸ rfl
  refine ⟨(congrArg (fun x : State => { x with host := s.host, safety := s.safety, glob := s.glob, out := s.out }) h.rest).trans hsu, ?_⟩
  exact h.silent.trans (hu ▸ rfl)

/-! ## Attribution (R459, R461) -/

/-- The query of a request is launched, not released and not yet marked, so that a fault is attributed to it. -/
def Query.attributable (q : Query) : Bool := q.launched && !q.released && !q.fault

/-- Marking the query of a request FAULT, and counting it. -/
def State.markFault (s : State) (p n : Nat) : State :=
  (s.modSafety (fun x => { x with faults := satAdd 16 x.faults 1 })).modQuery p n (fun q => { q with fault := true })

/-- A fault is attributed to the query of a request, which is answered, or to none (R459, R461). -/
def State.chargeFault (s : State) (p n : Nat) : State :=
  if (s.query p n).any Query.attributable = true then (s.markFault p n).respond p n else s

theorem State.query_markFault (s : State) (a r p n : Nat) :
    (s.markFault p n).query a r = (s.query a r).map (fun q => if q.is p n then { q with fault := true } else q) :=
  State.query_modQuery _ a r p n fun _ => ⟨rfl, rfl⟩

theorem State.canSend_markFault (s : State) (p n i l : Nat) : (s.markFault p n).canSend i l = s.canSend i l :=
  State.canSend_congr (s := s) (t := s.markFault p n) rfl rfl rfl rfl rfl l

/-- A query that a fault is attributed to is answered or waits. -/
theorem State.faultHeld_chargeFault_self {s : State} {p n : Nat} {q : Query} (hq : s.query p n = some q) (ho : q.attributable = true) :
    (s.chargeFault p n).FaultHeld p n := by
  have hany : (s.query p n).any Query.attributable = true := by rw [hq]; exact ho
  rw [State.chargeFault, if_pos hany]
  refine State.faultHeld_respond_self fun y hy => ?_
  obtain ⟨-, rfl, rfl⟩ := State.mem_of_query hq
  rw [State.query_markFault, hq, Option.map_some, if_pos q.is_self] at hy
  cases hy
  rfl

theorem State.FaultHeld.chargeFault {s : State} {a r : Nat} (h : s.FaultHeld a r) (p n : Nat) : (s.chargeFault p n).FaultHeld a r := by
  rw [State.chargeFault]
  split
  · refine State.FaultHeld.respond (fun q hq => ?_) p n
    rw [State.query_markFault] at hq
    obtain ⟨x, hx, rfl⟩ := Option.map_eq_some_iff.1 hq
    obtain ⟨hfault, horphan, hsend⟩ := h x hx
    rw [State.canSend_markFault]
    split
    · exact ⟨rfl, horphan, hsend⟩
    · exact ⟨hfault, horphan, hsend⟩
  · exact h

theorem State.query_chargeFault_ne (s : State) {a r p n : Nat} (hne : ¬ (a = p ∧ r = n)) : (s.chargeFault p n).query a r = s.query a r := by
  rw [State.chargeFault]
  split
  · rw [State.query_respond_ne _ hne, State.query_markFault]
    cases hq : s.query a r with
    | none => rfl
    | some q =>
      obtain ⟨-, rfl, rfl⟩ := State.mem_of_query hq
      rw [Option.map_some, Query.is_ne hne q.is_self]
      rfl
  · rfl

/-- A fault attributed to another request leaves a query alone. -/
theorem State.mem_chargeFault {s : State} {p n : Nat} {q : Query} (hm : q ∈ s.host.queries) (hne : q.is p n = false) :
    q ∈ (s.chargeFault p n).host.queries := by
  rw [State.chargeFault]
  split
  · have hmark : q ∈ (s.markFault p n).host.queries := List.mem_map.2 ⟨q, hm, by rw [hne]; rfl⟩
    rcases (s.markFault p n).respond_queries p n with h | h
    · rw [h]; exact hmark
    · rw [h]; exact List.mem_filter.2 ⟨hmark, by rw [hne]; rfl⟩
  · exact hm

theorem State.chargeFault_rest (s : State) (p n : Nat) :
    { s.chargeFault p n with host := s.host, safety := s.safety, glob := s.glob, out := s.out } = s := by
  rw [State.chargeFault]
  split
  · exact (congrArg (fun x : State => { x with host := s.host, safety := s.safety, glob := s.glob, out := s.out })
      ((s.markFault p n).respond_answers p n).rest :)
  · rfl

/-- Faults attributed to a list of queries: one of the list that is open to it is answered or waits. -/
theorem faultHeld_chargeFaults {a r : Nat} {q : Query} (ho : q.attributable = true) : ∀ (l : List Query) (s : State),
    (s.FaultHeld a r ∨ (s.query a r = some q ∧ ∃ x ∈ l, x.part = a ∧ x.req = r)) →
      (l.foldl (fun s q => s.chargeFault q.part q.req) s).FaultHeld a r
  | [], _, h => by
    rcases h with h | ⟨-, x, hx, -⟩
    · exact h
    · cases hx
  | x :: l, s, h => by
    refine faultHeld_chargeFaults ho l _ ?_
    rcases h with h | ⟨hq, y, hy, hkey⟩
    · exact .inl (h.chargeFault _ _)
    · by_cases hx : a = x.part ∧ r = x.req
      · obtain ⟨rfl, rfl⟩ := hx
        exact .inl (State.faultHeld_chargeFault_self hq ho)
      · rcases List.mem_cons.1 hy with rfl | hy
        · exact absurd ⟨hkey.1.symm, hkey.2.symm⟩ hx
        · exact .inr ⟨(s.query_chargeFault_ne hx).trans hq, y, hy, hkey⟩

theorem chargeFaults_rest (l : List Query) (s : State) :
    { l.foldl (fun s q => s.chargeFault q.part q.req) s with host := s.host, safety := s.safety, glob := s.glob, out := s.out } = s := by
  induction l generalizing s with
  | nil => rfl
  | cons q l ih =>
    exact (congrArg (fun x : State => { x with host := s.host, safety := s.safety, glob := s.glob, out := s.out }) (ih _)).trans
      (s.chargeFault_rest _ _)

theorem mem_chargeFaults {q : Query} : ∀ {l : List Query} {s : State}, (∀ x ∈ l, q.is x.part x.req = false) →
    q ∈ s.host.queries → q ∈ (l.foldl (fun s q => s.chargeFault q.part q.req) s).host.queries
  | [], _, _, hm => hm
  | x :: l, _, h, hm => mem_chargeFaults (l := l) (fun y hy => h y (List.mem_cons_of_mem x hy))
      (State.mem_chargeFault hm (h x List.mem_cons_self))

end Sys2Proof.Machine
end

section
/-! PROOF. O57: the safety monitors (chapter 17). A test ends with its counts, the watch and the clock monitor report, and what
Saddle and N1 do about heartbeats, mismatches and reports. -/

namespace Sys2Proof.Machine

open Sys2Proof

/-! ## The commands -/

theorem exec_stiPeriodic_eq (c : CoreId) (s : State) : exec (.stiPeriodic c) s = execStiPeriodic c s := rfl
theorem exec_testInjectionDone_eq (c : CoreId) (sig : Word) (fs : BitVec 8) (fq : Bool) (s : State) :
    exec (.testInjectionDone c sig fs fq) s = execTestInjectionDone c sig fs fq s := rfl
theorem exec_closingTestDone_eq (c : CoreId) (fs : BitVec 8) (fq : Bool) (s : State) :
    exec (.closingTestDone c fs fq) s = execClosingTestDone c fs fq s := rfl
theorem exec_cfsigOverdue_eq (c : CoreId) (s : State) : exec (.cfsigOverdue c) s = execCfsigOverdue c s := rfl
theorem exec_clockMonitorWindow_eq (n : ClockName) (khz : Nat) (s : State) :
    exec (.clockMonitorWindow n khz) s = execClockMonitorWindow n khz s := rfl
theorem exec_saddleHeartbeat_eq (s : State) : exec .saddleHeartbeat s = execSaddleHeartbeat s := rfl
theorem exec_saddleSilent_eq (s : State) : exec .saddleSilent s = execSaddleSilent s := rfl
theorem exec_saddleLockstep_eq (s : State) : exec .saddleLockstep s = execSaddleLockstep s := rfl
theorem exec_saddleFaultReport_eq (s : State) : exec .saddleFaultReport s = execSaddleFaultReport s := rfl

/-! ## Reports -/

/-- While nothing is re-initialised a report reaches both queues (R506, R510). -/
theorem State.report_of_calm {s : State} (h : s.rst.running = []) (r : Report) :
    s.report r = { s with reports := s.reports ++ [r], saddleReports := s.saddleReports ++ [r] } := by
  rw [State.report, State.reinitCovers, h]
  rfl

theorem State.reports_of_calm {s : State} (h : s.rst.running = []) (r : Report) : (s.report r).reports = s.reports ++ [r] := by
  rw [State.report_of_calm h]

/-! ## Tests (R454) -/

/-- The safety registers of a core after a test. -/
def SafeCore.tested (x : SafeCore) (now : Nat) (pass : Bool) (fs : BitVec 8) (fq : Bool) : SafeCore :=
  if pass then { x with testing := false, lastTest := now, pass := satAdd 16 x.pass 1 }
  else { x with testing := false, lastTest := now, fail := satAdd 16 x.fail 1, failStn := fs, failSeq := fq, barred := true }

theorem SafeCore.tested_closing (x : SafeCore) (now : Nat) (pass : Bool) (fs : BitVec 8) (fq : Bool) :
    (x.tested now pass fs fq).closing = x.closing := by cases pass <;> rfl

/-- A test of core `c` has ended from `s` to `t`: PASS is counted, or FAIL is counted, the core barred and the failure reported. -/
def TestEnded (s t : State) (c : Nat) (fs : BitVec 8) (fq pass : Bool) : Prop :=
  (t.core c).safe.testing = false ∧ (t.core c).safe.lastTest = s.now ∧
  (if pass = true then (t.core c).safe.pass = min 65535 ((s.core c).safe.pass + 1) ∧ (t.core c).safe.fail = (s.core c).safe.fail ∧
      (t.core c).safe.barred = (s.core c).safe.barred
    else (t.core c).safe.fail = min 65535 ((s.core c).safe.fail + 1) ∧ (t.core c).safe.failStn = fs ∧
      (t.core c).safe.failSeq = fq ∧ (t.core c).safe.barred = true ∧
      (s.rst.running = [] → ∃ r, t.reports = s.reports ++ [r] ∧ r.code = codeSafetySti ∧ r.core = c))

theorem testEnded_of {s t : State} {c : Nat} {x : SafeCore} {fs : BitVec 8} {fq pass : Bool}
    (ht : (t.core c).safe = x.tested s.now pass fs fq) (hx : { x with closing := (s.core c).safe.closing } = (s.core c).safe)
    (hr : pass = false → s.rst.running = [] → ∃ r, t.reports = s.reports ++ [r] ∧ r.code = codeSafetySti ∧ r.core = c) :
    TestEnded s t c fs fq pass := by
  have hpass : x.pass = (s.core c).safe.pass := (congrArg SafeCore.pass hx :)
  have hfail : x.fail = (s.core c).safe.fail := (congrArg SafeCore.fail hx :)
  have hbar : x.barred = (s.core c).safe.barred := (congrArg SafeCore.barred hx :)
  rw [TestEnded, ht, ← hpass, ← hfail, ← hbar]
  cases pass
  · exact ⟨rfl, rfl, (if_neg Bool.false_ne_true).mpr ⟨rfl, rfl, rfl, rfl, hr rfl⟩⟩
  · exact ⟨rfl, rfl, (if_pos rfl).mpr ⟨rfl, rfl, rfl⟩⟩

section
variable (s : State) (c : Nat) (pass : Bool) (fs : BitVec 8) (fq : Bool)

theorem State.testEnd_rest :
    { s.testEnd c pass fs fq with cores := s.cores, reports := s.reports, saddleReports := s.saddleReports } = s := by
  cases pass
  · exact State.report_rest' _ s _
  · rfl

theorem State.testEnd_pass : s.testEnd c true fs fq =
    (s.modCore c (fun k => { k with safe := { k.safe with testing := false, lastTest := s.now } })).modCore c
      (fun k => { k with safe := { k.safe with pass := satAdd 16 k.safe.pass 1 } }) := rfl

theorem State.testEnd_fail : ∃ r, r.code = codeSafetySti ∧ r.core = c ∧ s.testEnd c false fs fq =
    ((s.modCore c (fun k => { k with safe := { k.safe with testing := false, lastTest := s.now } })).modCore c
      (fun k => { k with safe := { k.safe with
        fail := satAdd 16 k.safe.fail 1
        failStn := fs
        failSeq := fq
        barred := true } })).report r := ⟨_, rfl, rfl, rfl⟩

theorem State.core_testEnd : (s.testEnd c pass fs fq).core c = { s.core c with safe := (s.core c).safe.tested s.now pass fs fq } := by
  cases pass
  · obtain ⟨r, -, -, h⟩ := s.testEnd_fail c fs fq
    rw [h, State.core_report, State.core_modCore_self, State.core_modCore_self]
    rfl
  · rw [State.testEnd_pass, State.core_modCore_self, State.core_modCore_self]
    rfl

theorem State.core_testEnd_ne {d : Nat} (hd : d ≠ c) : (s.testEnd c pass fs fq).core d = s.core d := by
  cases pass
  · obtain ⟨r, -, -, h⟩ := s.testEnd_fail c fs fq
    rw [h, State.core_report, State.core_modCore, if_neg hd, State.core_modCore, if_neg hd]
  · rw [State.testEnd_pass, State.core_modCore, if_neg hd, State.core_modCore, if_neg hd]

theorem State.testEnd_reports (hcalm : s.rst.running = []) :
    ∃ r, (s.testEnd c false fs fq).reports = s.reports ++ [r] ∧ r.code = codeSafetySti ∧ r.core = c := by
  obtain ⟨r, hcode, hcore, h⟩ := s.testEnd_fail c fs fq
  refine ⟨r, ?_, hcode, hcore⟩
  rw [h]
  exact (State.reports_of_calm (by exact hcalm) r).trans rfl

end

section
variable (s : State) (c : CoreId) (fs : BitVec 8) (fq : Bool)

theorem exec_testInjectionDone_tests (sig : Word) (hon : (s.bay (bayOf c.val)).state = .on)
    (hidle : Core.slotNums.all (fun n => decide (((s.core c.val).slot n).state ≠ .active)) = true) :
    exec (.testInjectionDone c sig fs fq) s = .next (s.testEnd c.val (decide (sig = Config.romSignature)) fs fq) := by
  rw [exec_testInjectionDone_eq, execTestInjectionDone]
  exact congrArg _ (if_pos (by simp only [hon, decide_true, Bool.true_and]; exact hidle))

theorem exec_testInjectionDone_waits (sig : Word) (h : ¬ ((s.bay (bayOf c.val)).state = .on ∧
    Core.slotNums.all (fun n => decide (((s.core c.val).slot n).state ≠ .active)) = true)) :
    exec (.testInjectionDone c sig fs fq) s = .next s := by
  rw [exec_testInjectionDone_eq, execTestInjectionDone]
  exact congrArg _ (if_neg (by simpa only [Bool.and_eq_true, decide_eq_true_eq] using h))

theorem testEnded_testEnd (c : Nat) (pass : Bool) : TestEnded s (s.testEnd c pass fs fq) c fs fq pass :=
  testEnded_of (by rw [State.core_testEnd]) rfl fun hpass hcalm => hpass ▸ s.testEnd_reports c fs fq hcalm

end

/-! ## Closing tests (R454, R462) -/

theorem insertSet_self_mem (k : Nat) : ∀ l : List Nat, k ∈ insertSet k l
  | [] => List.mem_singleton_self k
  | j :: l => by
    unfold insertSet
    split
    · exact List.mem_cons_self
    · split
      · next h => exact h ▸ List.mem_cons_self
      · exact List.mem_cons_of_mem j (insertSet_self_mem k l)

/-- A passed closing test is noted for every launched query of the core that is not released. -/
theorem State.mem_passed_passedOn {s : State} {c : Nat} {q : Query} (hq : q ∈ (s.passedOn c).host.queries) (hl : q.launched = true)
    (hr : q.released = false) (hc : c ∈ q.cores) : c ∈ q.passed := by
  obtain ⟨x, -, rfl⟩ := List.mem_map.1 hq
  by_cases h : (x.launched && !x.released && x.cores.contains c) = true
  · rw [if_pos h]
    exact insertSet_self_mem c x.passed
  · rw [if_neg h] at hl hr hc
    exact absurd (by simp [hl, hr, hc]) h

/-- The state after a closing test, before the scheduler acts: the core is no longer held for the test, which has ended. -/
def State.closed (s : State) (c : Nat) (fs : BitVec 8) (fq : Bool) : State :=
  let t := (s.modCore c (fun k => { k with safe := { k.safe with closing := false } })).testEnd c (fs = 0 && !fq) fs fq
  if fs = 0 && !fq then t.passedOn c else t

theorem exec_closingTestDone_closes {s : State} {c : CoreId} (h : (s.core c.val).safe.closing = true) (fs : BitVec 8) (fq : Bool) :
    exec (.closingTestDone c fs fq) s = .next ((s.closed c.val fs fq).schedule (s.partOf c.val)) := by
  rw [exec_closingTestDone_eq, execClosingTestDone]
  exact congrArg _ (if_pos h)

theorem exec_closingTestDone_none {s : State} {c : CoreId} (h : (s.core c.val).safe.closing = false) (fs : BitVec 8) (fq : Bool) :
    exec (.closingTestDone c fs fq) s = .next s := by
  rw [exec_closingTestDone_eq, execClosingTestDone]
  exact congrArg _ (if_neg (by rw [h]; exact Bool.false_ne_true))

section
variable (s : State) (c : Nat) (fs : BitVec 8) (fq : Bool)

theorem State.closed_rest : { s.closed c fs fq with
    cores := s.cores
    reports := s.reports
    saddleReports := s.saddleReports
    host := s.host } = s := by
  have h := State.testEnd_rest (s.modCore c (fun k => { k with safe := { k.safe with closing := false } })) c (fs = 0 && !fq) fs fq
  unfold State.closed
  dsimp only
  split <;> exact congrArg (fun x : State => { x with cores := s.cores, host := s.host }) h

theorem State.core_closed : (s.closed c fs fq).core c = { s.core c with
    safe := { (s.core c).safe with closing := false }.tested s.now (fs = 0 && !fq) fs fq } := by
  have h := State.core_testEnd (s.modCore c (fun k => { k with safe := { k.safe with closing := false } })) c (fs = 0 && !fq) fs fq
  rw [State.core_modCore_self] at h
  unfold State.closed
  dsimp only
  split <;> exact h

theorem State.core_closed_ne {d : Nat} (hd : d ≠ c) : (s.closed c fs fq).core d = s.core d := by
  have h := State.core_testEnd_ne (s.modCore c (fun k => { k with safe := { k.safe with closing := false } })) c (fs = 0 && !fq) fs fq hd
  rw [State.core_modCore, if_neg hd] at h
  unfold State.closed
  dsimp only
  split <;> exact h

theorem State.closed_reports (hfail : (decide (fs = 0) && !fq) = false) (hcalm : s.rst.running = []) :
    ∃ r, (s.closed c fs fq).reports = s.reports ++ [r] ∧ r.code = codeSafetySti ∧ r.core = c := by
  rw [State.closed, hfail]
  exact State.testEnd_reports _ c fs fq hcalm

end

/-- A closing test with nothing to schedule: it ends as a test injection does, and of the other cores only charges change. -/
theorem exec_closingTestDone_ends {s : State} {c : CoreId} (h : (s.core c.val).safe.closing = true) (fs : BitVec 8) (fq : Bool)
    (hidle : (s.schedOf (s.partOf c.val)).Idle) : ∃ t, exec (.closingTestDone c fs fq) s = .next t ∧
      TestEnded s t c.val fs fq (decide (fs = 0) && !fq) ∧ (t.core c.val).safe.closing = false ∧
      SameCore { s.core c.val with safe := (t.core c.val).safe } (t.core c.val) ∧ (∀ d, d ≠ c.val → SameCore (s.core d) (t.core d)) ∧
      (fs = 0 → fq = false → ∀ q, q ∈ t.host.queries → q.launched = true → q.released = false → c.val ∈ q.cores → c.val ∈ q.passed) := by
  have hrest := s.closed_rest c.val fs fq
  have hidle' : ((s.closed c.val fs fq).schedOf (s.partOf c.val)).Idle := by
    have hsched : (s.closed c.val fs fq).sched = s.sched := (congrArg State.sched hrest :)
    rwa [State.schedOf, hsched]
  have hch := charged_schedule hidle'
  have hcore := hch.cores c.val
  have hsafe := hcore.safe
  rw [State.core_closed] at hcore hsafe
  refine ⟨_, exec_closingTestDone_closes h fs fq, testEnded_of hsafe rfl fun hfail hcalm => ?_, ?_, ?_, fun d hd => ?_, ?_⟩
  · obtain ⟨r, hr, hcode⟩ := s.closed_reports c.val fs fq hfail hcalm
    exact ⟨r, (congrArg State.reports hch.rest :).trans hr, hcode⟩
  · rw [hsafe]; exact SafeCore.tested_closing ..
  · rw [hsafe]; exact hcore
  · rw [← s.core_closed_ne c.val fs fq hd]; exact hch.cores d
  · rintro rfl rfl q hq hl hr hm
    rw [show _ = (s.closed c.val 0 false).host from (congrArg State.host hch.rest :)] at hq
    exact State.mem_passed_passedOn hq hl hr hm

/-! ## Control flow and clocks (R455, R456) -/

/-- A sequencer fault of an event is a stop of that sequencer (R95). -/
theorem seqFaulted_seqFault_now (s : State) (c code : Nat) : SeqFaulted s (s.seqFault c code 0) c code := by
  have hc : (s.seqFault c code 0).core c =
      { s.core c with seq := { (s.core c).seq with faulted := some code, stall := none } } := by
    rw [State.seqFault, State.seqFaultAt, State.core_report, State.core_setCore_self]
  refine ⟨by rw [hc], by rw [hc], by rw [hc], ⟨⟨State.report_rest' _ s _, fun d hd => ?_⟩, ?_⟩, ?_⟩
  · show (s.seqFault c code 0).core d = s.core d
    rw [State.seqFault, State.seqFaultAt, State.core_report, State.core_setCore, if_neg hd]
  · show { (s.seqFault c code 0).core c with seq := (s.core c).seq } = s.core c
    rw [hc]
  · exact ⟨_, rfl, rfl, rfl, seqReported_report s _ _ rfl rfl rfl⟩

/-- The control-flow watch of a core is overdue (R455). -/
def State.Overdue (s : State) (c : Nat) : Prop :=
  (s.core c).seq.kernel.any (fun r => r.enforced) = true ∧ (s.core c).seq.faulted = none ∧ (s.core c).seq.parked = false ∧
    (s.core c).seq.sigMark + 13000 < s.mashOf c

theorem State.overdue_iff (s : State) (c : Nat) : ((match (s.core c).seq.kernel with | some r => r.enforced | none => false) &&
    (s.core c).seq.faulted.isNone && !(s.core c).seq.parked && decide ((s.core c).seq.sigMark + 13000 < s.mashOf c)) = true ↔
      s.Overdue c := by
  rw [State.Overdue]
  cases (s.core c).seq.kernel <;> simp [and_assoc]

theorem exec_cfsigOverdue_faults {s : State} {c : CoreId} (h : s.Overdue c.val) :
    exec (.cfsigOverdue c) s = .next (s.seqFault c.val codeCfsigOverdue 0) := by
  rw [exec_cfsigOverdue_eq, execCfsigOverdue]
  exact congrArg _ (if_pos ((s.overdue_iff c.val).2 h))

theorem exec_cfsigOverdue_none {s : State} {c : CoreId} (h : ¬ s.Overdue c.val) : exec (.cfsigOverdue c) s = .next s := by
  rw [exec_cfsigOverdue_eq, execCfsigOverdue]
  exact congrArg _ (if_neg fun hw => h ((s.overdue_iff c.val).1 hw))

/-- A CLOCK_RANGE report is counted and raised (R456). -/
theorem State.clockRange_reports (s : State) (r : Report) :
    { s.clockRange r with safety := s.safety, reports := s.reports, saddleReports := s.saddleReports } = s ∧
    (s.clockRange r).safety = { s.safety with clock := min 65535 (s.safety.clock + 1) } ∧
    (s.rst.running = [] → (s.clockRange r).reports = s.reports ++ [r]) := by
  have hrest := s.report_rest r
  refine ⟨(congrArg (fun x : State => { x with safety := s.safety }) hrest :), ?_, fun h => ?_⟩
  · have hsafe : (s.report r).safety = s.safety := (congrArg State.safety hrest :)
    rw [State.clockRange, State.modSafety, hsafe]
    rfl
  · exact State.reports_of_calm h r

/-- A window of a clock whose measurement decides between a report with code and frequency and nothing. -/
theorem clockWindow {s : State} {n : ClockName} {khz f : Nat} {r : Report} (hcode : r.code = codeClockRange) (hdetail : r.detail = khz)
    (h : exec (.clockMonitorWindow n khz) s = .next (if outOfRange khz f = true then s.clockRange r else s)) :
    (outOfRange khz f = false → exec (.clockMonitorWindow n khz) s = .next s) ∧
    (outOfRange khz f = true → ∃ t, exec (.clockMonitorWindow n khz) s = .next t ∧
      { t with safety := s.safety, reports := s.reports, saddleReports := s.saddleReports } = s ∧
      t.safety = { s.safety with clock := min 65535 (s.safety.clock + 1) } ∧
      (s.rst.running = [] → ∃ r, t.reports = s.reports ++ [r] ∧ r.code = codeClockRange ∧ r.detail = khz)) := by
  obtain ⟨hrest, hsafe, hrep⟩ := s.clockRange_reports r
  refine ⟨fun hin => ?_, fun hout => ⟨_, ?_, hrest, hsafe, fun hcalm => ⟨r, hrep hcalm, hcode, hdetail⟩⟩⟩
  · rw [h, hin]; rfl
  · rw [h, hout]; rfl

theorem exec_clockMonitorWindow_mash {s : State} {bay : Fin 12} (hon : (s.bay bay.val).state = .on) (khz : Nat) :
    exec (.clockMonitorWindow (.mash bay) khz) s =
      .next (if outOfRange khz ((((s.bay bay.val).clk.getLast?.map (·.freq)).getD (s.bay bay.val).freq) * 12500) = true then
        s.clockRange { s.bayReport bay.val codeClockRange with rung := 2, detail := khz } else s) := by
  rw [exec_clockMonitorWindow_eq, execClockMonitorWindow]
  dsimp only
  rw [hon]
  cases (s.bay bay.val).clk.getLast? <;> rfl

theorem exec_clockMonitorWindow_control {s : State} {khz : Nat} (h : outOfRange khz 1000000 = true) :
    exec (.clockMonitorWindow .control khz) s = .next
      ((s.clockRange { s.pkgReport codeClockRange with site := 96, detail := khz }).faultAll.packageReset 6 s.rst.retainAuto) := by
  rw [exec_clockMonitorWindow_eq, execClockMonitorWindow]
  exact congrArg _ (if_pos h)

/-! ## Heartbeats and mismatches (R23, R460) -/

/-- Silence of Saddle is due: it is not yet noted, and HB_TMO has passed (R460). -/
def State.SilenceDue (s : State) : Prop :=
  s.safety.saddleSilent = false ∧ s.safety.lastBeat + 1000 * fld s.safety.ctl 32 16 ≤ s.now

/-- Silence is noted and reported, and every query is marked FAULT and answered where its lane can take it. -/
def State.silenced (s : State) : State :=
  ((s.modSafety (fun x => { x with saddleSilent := true })).report { s.pkgReport codeSaddleSilent with site := 99 }).faultAll

theorem exec_saddleSilent_due {s : State} (h : s.SilenceDue) : exec .saddleSilent s = .next
    (if s.safety.saddleStopped = true then s.silenced.packageReset 5 s.rst.retainAuto else s.silenced) := by
  rw [exec_saddleSilent_eq, execSaddleSilent]
  exact congrArg _ (if_pos (by simp [h.1, h.2]))

theorem exec_saddleSilent_none {s : State} (h : ¬ s.SilenceDue) : exec .saddleSilent s = .next s := by
  rw [exec_saddleSilent_eq, execSaddleSilent]
  exact congrArg _ (if_neg (by simpa [State.SilenceDue] using h))

theorem State.silenced_rest (s : State) :
    s.silenced.safety.saddleSilent = true ∧ s.silenced.cores = s.cores ∧ s.silenced.hbm = s.hbm := by
  obtain ⟨hrest, hsilent⟩ := State.faultAll_rest
    ((s.modSafety (fun x => { x with saddleSilent := true })).report { s.pkgReport codeSaddleSilent with site := 99 })
  have hrep := State.report_rest (s.modSafety (fun x => { x with saddleSilent := true })) { s.pkgReport codeSaddleSilent with site := 99 }
  refine ⟨hsilent.trans ?_, (congrArg State.cores hrest :).trans ?_, (congrArg State.hbm hrest :).trans ?_⟩
  · exact (congrArg (fun x : State => x.safety.saddleSilent) hrep :)
  · exact (congrArg State.cores hrep :)
  · exact (congrArg State.hbm hrep :)

theorem exec_saddleLockstep_stops (s : State) : ∃ t, exec .saddleLockstep s = .next t ∧
    { t with safety := s.safety, reports := s.reports, saddleReports := s.saddleReports } = s ∧
    t.safety = { s.safety with saddleStopped := true } ∧
    (s.rst.running = [] → ∃ r, t.reports = s.reports ++ [r] ∧ r.code = codeSaddleLockstep) := by
  have hrest := State.report_rest (s.modSafety (fun x => { x with saddleStopped := true }))
    { s.pkgReport codeSaddleLockstep with site := 96 }
  refine ⟨_, exec_saddleLockstep_eq s, ?_, (congrArg State.safety hrest :),
    fun hcalm => ⟨{ s.pkgReport codeSaddleLockstep with site := 96 }, ?_, rfl⟩⟩
  · exact (congrArg (fun x : State => { x with safety := s.safety }) hrest :)
  · exact (State.reports_of_calm (by exact hcalm) _).trans rfl

/-! ## Attribution (R461) -/

/-- The state `t` after a report, seen in `s`, has been attributed to the queries of `s` that it names. -/
def State.chargeNamed (s : State) (r : Report) (t : State) : State :=
  (s.host.queries.filter (fun q => s.names r q)).foldl (fun t q => t.chargeFault q.part q.req) t

theorem exec_saddleFaultReport_takes {s : State} {r : Report} {rest : List Report} (h : s.saddleReports = r :: rest) :
    exec .saddleFaultReport s = .next (s.chargeNamed r { s with saddleReports := rest }) := by
  rw [exec_saddleFaultReport_eq, execSaddleFaultReport, h]
  refine congrArg Host.Outcome.next (List.foldl_ext _ _ _ fun t q _ => ?_)
  rw [State.chargeFault]
  change (match t.query q.part q.req with
    | some y => if y.attributable then (t.markFault q.part q.req).respond q.part q.req else t
    | none => t) = _
  cases t.query q.part q.req <;> rfl

section
variable {s : State} {r : Report} {rest : List Report}

/-- A launched query that the report names is answered FAULT, or waits for its lane. -/
theorem chargeNamed_named {q : Query} (hq : s.query q.part q.req = some q) (hn : s.names r q = true) (ho : q.attributable = true) :
    (s.chargeNamed r { s with saddleReports := rest }).FaultHeld q.part q.req :=
  faultHeld_chargeFaults ho _ _
    (.inr ⟨hq, q, List.mem_filter.2 ⟨(State.mem_of_query hq).1, hn⟩, rfl, rfl⟩)

/-- A query of a request that the report does not name is as before. -/
theorem chargeNamed_unnamed {q : Query} (hm : q ∈ s.host.queries)
    (hn : ∀ y, y ∈ s.host.queries → y.part = q.part → y.req = q.req → s.names r y = false) :
    q ∈ (s.chargeNamed r { s with saddleReports := rest }).host.queries := by
  refine mem_chargeFaults (fun x hx => ?_) hm
  obtain ⟨hmem, hname⟩ := List.mem_filter.1 hx
  by_contra hkey
  rw [Bool.not_eq_false, Query.is, Bool.and_eq_true, decide_eq_true_eq, decide_eq_true_eq] at hkey
  have hnot := hn x hmem hkey.1.symm hkey.2.symm
  rw [hname] at hnot
  exact absurd hnot (by decide)

theorem chargeNamed_none (hn : ∀ q, q ∈ s.host.queries → s.names r q = false) :
    s.chargeNamed r { s with saddleReports := rest } = { s with saddleReports := rest } := by
  have hnil : s.host.queries.filter (fun q => s.names r q) = [] :=
    List.filter_eq_nil_iff.2 fun q hq => by rw [hn q hq]; exact Bool.false_ne_true
  rw [State.chargeNamed, hnil, List.foldl_nil]

end

theorem exec_stiPeriodic_due {s : State} {c : CoreId} (hon : (s.bay (bayOf c.val)).state = .on)
    (hdue : (s.core c.val).safe.lastTest + 500000 ≤ s.now) : exec (.stiPeriodic c) s =
      .next (s.modCore c.val (fun k => { k with safe := { k.safe with testing := true } })) := by
  rw [exec_stiPeriodic_eq, execStiPeriodic]
  exact congrArg _ (if_pos (by simp [hon, hdue]))

theorem exec_stiPeriodic_none {s : State} {c : CoreId}
    (h : ¬ ((s.bay (bayOf c.val)).state = .on ∧ (s.core c.val).safe.lastTest + 500000 ≤ s.now)) :
    exec (.stiPeriodic c) s = .next s := by
  rw [exec_stiPeriodic_eq, execStiPeriodic]
  exact congrArg _ (if_neg (by simpa using h))

theorem exec_saddleHeartbeat_cases (s : State) : if s.safety.saddleStopped = true then exec .saddleHeartbeat s = .next s
    else exec .saddleHeartbeat s = .next { s with safety := { s.safety with lastBeat := s.now, saddleSilent := false } } := by
  split
  · next h => rw [exec_saddleHeartbeat_eq, execSaddleHeartbeat, if_pos h]
  · next h => rw [exec_saddleHeartbeat_eq, execSaddleHeartbeat, if_neg h]; rfl

/-- Settles O57, monitor by monitor. -/
theorem safetyMonitorsTakeEffect : Obligations.SafetyMonitorsTakeEffect := by
  intro s c sig fs fq bay site khz k x p on calm quiet ends watched window
  refine ⟨?_, ?_, fun h => exec_closingTestDone_none h fs fq, fun h hwait hplaced => exec_closingTestDone_ends h fs fq ⟨hwait, hplaced⟩,
    fun h => ⟨_, exec_cfsigOverdue_faults h, seqFaulted_seqFault_now s c.val _⟩, fun h => exec_cfsigOverdue_none h, ?_, ?_, ?_, ?_,
    exec_saddleHeartbeat_cases s, ?_, exec_saddleLockstep_stops s, rfl, ?_⟩
  · split
    · next h =>
      exact ⟨_, exec_stiPeriodic_due h.1 h.2, onlyCore_setCore s c.val _, State.core_setCore_self ..⟩
    · next h => exact exec_stiPeriodic_none h
  · split
    · next h =>
      refine ⟨_, exec_testInjectionDone_tests s c fs fq sig h.1 h.2, ⟨s.testEnd_rest c.val _ fs fq, fun d hd => ?_⟩, ?_, ?_⟩
      · exact s.core_testEnd_ne c.val _ fs fq hd
      · rw [State.core_testEnd]
      · exact testEnded_testEnd s fs fq c.val _
    · next h => exact exec_testInjectionDone_waits s c fs fq sig h
  · intro hon
    refine clockWindow (r := { s.bayReport bay.val codeClockRange with rung := 2, detail := khz }) rfl rfl ?_
    exact exec_clockMonitorWindow_mash hon khz
  · intro hoff
    rw [exec_clockMonitorWindow_eq, execClockMonitorWindow]
    exact congrArg _ (if_neg (by simp [x, hoff]))
  · exact clockWindow (r := { s.pkgReport codeClockRange with site := site.val, detail := khz }) rfl rfl rfl
  · split
    · next h =>
      exact ⟨_, exec_clockMonitorWindow_control h, rfl, rfl, rfl, rfl, rfl⟩
    · next h =>
      rw [exec_clockMonitorWindow_eq, execClockMonitorWindow]
      exact congrArg _ (if_neg h)
  · refine ⟨fun h => exec_saddleSilent_none h, fun h hrun => ?_, fun h hstop => ?_⟩
    · obtain ⟨hsilent, hcores, hhbm⟩ := s.silenced_rest
      refine ⟨s.silenced, ?_, hsilent, hcores, hhbm, fun a r q hq => State.faultHeld_faultAll _ a r q hq⟩
      rw [exec_saddleSilent_due h, hrun]
      rfl
    · exact ⟨_, (exec_saddleSilent_due h).trans (congrArg _ (if_pos hstop)), rfl, rfl⟩
  · intro r rest h
    have hrest := chargeFaults_rest (s.host.queries.filter (fun q => s.names r q)) { s with saddleReports := rest }
    refine ⟨_, exec_saddleFaultReport_takes h, (congrArg State.saddleReports hrest :), (congrArg State.cores hrest :),
      (congrArg State.reports hrest :), chargeNamed_none, fun q hq hn hl hr hf => ?_, fun q hm hn => chargeNamed_unnamed hm hn⟩
    have hheld := chargeNamed_named (rest := rest) hq hn (by rw [Query.attributable, hl, hr, hf]; rfl)
    split
    · trivial
    · next y hy =>
      obtain ⟨hfault, -, hsend⟩ := hheld y hy
      exact ⟨hfault, hsend⟩

end Sys2Proof.Machine
end

section
/-! PROOF. The arrival of a flit (R36, R39, R41): the oldest flit between two cores leaves the fabric, those behind it go on, and the
router of its destination lets it through. -/

namespace Sys2Proof.Machine

open Sys2Proof

/-! ## The flit that arrives -/

/-- Flits between other cores are passed over, and the first one between the two that has arrived is taken. -/
theorem takeFlit_first {src dst : Nat} {p : FlitBody → Bool} {f : Flit} {after : List Flit} (hsrc : f.src = src) (hdst : f.dst = dst)
    (harr : f.arrived = true) (hp : p f.body = true) : ∀ {before : List Flit}, (∀ b, b ∈ before → b.src ≠ src ∨ b.dst ≠ dst) →
      takeFlit src dst p [] (before ++ f :: after) = some (f, before ++ after)
  | [], _ => by
    have hf : f.src = src ∧ f.dst = dst := ⟨hsrc, hdst⟩
    simp [takeFlit, hf, harr, hp]
  | b :: before, h => by
    have hb : ¬ (b.src = src ∧ b.dst = dst) := fun e => (h b List.mem_cons_self).elim (· e.1) (· e.2)
    have ih := takeFlit_first (after := after) hsrc hdst harr hp fun x hx => h x (List.mem_cons_of_mem b hx)
    rw [List.cons_append, takeFlit, if_neg hb, ih]
    rfl

/-- The router lets a flit through that stays on its die, or whose bay is ON and whose partition is right (R39, R41). -/
theorem State.routerStops_none {s : State} {f : Flit} (h : dieOf f.src = dieOf f.dst ∨
    ((s.bay (bayOf f.dst)).state = .on ∧ (f.part = 15 ∨ f.part = s.partOf f.dst))) : s.routerStops f = none := by
  have hpass : s.atRouter f.ends = .pass := by
    rcases h with hdie | ⟨hon, hpart⟩
    · simp [State.atRouter, Flit.ends, hdie]
    · have hbay : f.dst / 6 / 5 = f.dst / 30 := by omega
      have hp : ¬ (f.part ≠ 15 ∧ f.part ≠ s.partOfBay (f.dst / 30)) := fun hn => hpart.elim hn.1 hn.2
      simp only [State.atRouter, Flit.ends, dieOf, hbay]
      rw [bayOf] at hon
      simp only [hon, ne_eq, not_true_eq_false, if_false]
      split
      · rfl
      · exact if_neg (by simp only [Bool.and_eq_true, decide_eq_true_eq]; exact fun hn => hp ⟨of_decide_eq_true hn.1.2, hn.2⟩)
  rw [State.routerStops, hpass]

/-- Flit `f` from core `src` has arrived at core `dst`: it is the oldest between the two, and the router lets it through. -/
structure Arriving (s : State) (dst src : CoreId) (before after : List Flit) (f : Flit) : Prop where
  flits : s.flits = before ++ f :: after
  src_eq : f.src = src.val
  dst_eq : f.dst = dst.val
  arrived : f.arrived = true
  oldest : ∀ b, b ∈ before → b.src ≠ src.val ∨ b.dst ≠ dst.val
  passes : dieOf src.val = dieOf dst.val ∨
    ((s.bay (bayOf dst.val)).state = .on ∧ (f.part = 15 ∨ f.part = s.partOf dst.val))

/-- The flits that stay have gone on. -/
def State.settled (s : State) (fs : List Flit) : State := { s with flits := settleFlits fs }

@[simp] theorem State.core_settled (s : State) (fs : List Flit) (c : Nat) : (s.settled fs).core c = s.core c := rfl

theorem Arriving.arrive {s : State} {dst src : CoreId} {before after : List Flit} {f : Flit} (h : Arriving s dst src before after f)
    {p : FlitBody → Bool} (hp : p f.body = true) (g : State → Flit → State) :
    s.arrive src.val dst.val p (fun s f => s.pass f (fun s => g s f)) = g (s.settled (before ++ after)) f := by
  have htake := takeFlit_first (after := after) h.src_eq h.dst_eq h.arrived hp h.oldest
  have hrouter : (s.settled (before ++ after)).routerStops f = none :=
    State.routerStops_none (by rw [h.src_eq, h.dst_eq]; exact h.passes)
  rw [State.arrive, h.flits, htake]
  exact congrArg (fun o => match o with | some s1 => s1 | none => g (s.settled (before ++ after)) f) hrouter

/-! ## What an arrival leaves alone -/

/-- From `s` to `t` a flit has left the fabric and of the cores only `dst` has changed, but for its sequencer; `fs` are the flits that
stay. -/
def FlitGone (s t : State) (dst : Nat) (fs : List Flit) : Prop :=
  { t with cores := s.cores, flits := s.flits } = s ∧ t.flits = settleFlits fs ∧ (∀ d, d ≠ dst → t.core d = s.core d) ∧
    (t.core dst).seq = (s.core dst).seq

theorem flitGone_settled (s : State) (dst : Nat) (fs : List Flit) : FlitGone s (s.settled fs) dst fs := ⟨rfl, rfl, fun _ _ => rfl, rfl⟩

theorem FlitGone.modCore {s t : State} {dst : Nat} {fs : List Flit} (h : FlitGone s t dst fs) {g : Core → Core}
    (hg : (g (t.core dst)).seq = (t.core dst).seq) : FlitGone s (t.modCore dst g) dst fs := by
  obtain ⟨hrest, hflits, hcores, hseq⟩ := h
  refine ⟨hrest, hflits, fun d hd => ?_, ?_⟩
  · rw [State.core_modCore, if_neg hd, hcores d hd]
  · rw [State.core_modCore_self, hg, hseq]

theorem flitGone_modCore (s : State) (dst : Nat) (fs : List Flit) {g : Core → Core} (hg : (g (s.core dst)).seq = (s.core dst).seq) :
    FlitGone s ((s.settled fs).modCore dst g) dst fs := (flitGone_settled s dst fs).modCore hg

theorem State.core_settled_modCore (s : State) (c : Nat) (fs : List Flit) (g : Core → Core) :
    ((s.settled fs).modCore c g).core c = g (s.core c) := State.core_modCore_self _ c g

/-! ## Scratchpad bytes -/

/-- What was written is read back (R48). -/
theorem Core.spRead_of_bytes {k : Core} {a : Nat} {bs : List Byte} (h : ∀ i, i < bs.length → memByte k.sp.mem (a + i) = bs.getD i 0) :
    k.spRead a bs.length = bs := by
  refine List.ext_getElem (by simp [Core.spRead, memRead]) fun i hi hi' => ?_
  simp only [Core.spRead, memRead, List.getElem_map, List.getElem_range]
  rw [h i hi', List.getD_eq_getElem _ _ hi']

theorem Core.spRead_of_spWrite {k j : Core} {a : Nat} {bs : List Byte} (h : j.sp.mem = (k.spWrite a bs).sp.mem) :
    j.spRead a bs.length = bs := by
  refine Core.spRead_of_bytes fun i hi => ?_
  rw [h, Core.spWrite_byte, if_pos ⟨by omega, by omega⟩, Nat.add_sub_cancel_left]

/-- A write leaves the other bytes alone. -/
theorem Core.memByte_of_spWrite {k j : Core} {a b : Nat} {bs : List Byte} (h : j.sp.mem = (k.spWrite a bs).sp.mem)
    (hb : b < a ∨ a + bs.length ≤ b) : memByte j.sp.mem b = memByte k.sp.mem b := by
  rw [h, Core.spWrite_byte, if_neg (by omega)]

end Sys2Proof.Machine
end

section
/-! PROOF. The flits of the soft-target class and flush flits at their receiver (R198, R199, R373). -/

namespace Sys2Proof.Machine

open Sys2Proof

theorem exec_softDataFlit_eq (dst src : CoreId) (s : State) : exec (.softDataFlit dst src) s = execSoftDataFlit dst src s := rfl
theorem exec_creditFlit_eq (dst src : CoreId) (s : State) : exec (.creditFlit dst src) s = execCreditFlit dst src s := rfl
theorem exec_flushFlit_eq (dst src : CoreId) (s : State) : exec (.flushFlit dst src) s = execFlushFlit dst src s := rfl

section
variable {s : State} {dst src : CoreId} {before after : List Flit} {f : Flit}

/-! ## Soft-target lines (R199) -/

/-- The channel after line `line` of tile `q` has been stored. -/
def HopChan.stored (h : HopChan) (q : Nat) (step : BitVec 32) (rows cols line : Nat) : HopChan :=
  { h with
    ring := h.ring.set (q % max 1 h.tiles) ⟨step, rows, cols, insertSet line (h.tile q).got,
      (h.tile q).bad || decide (h.lines < (rows + 1) * cdiv (cols + 1) 64)⟩
    received := h.received + (if q = h.received ∧
      (insertSet line (h.tile q).got).length = min h.lines ((rows + 1) * cdiv (cols + 1) 64) then 1 else 0) }

theorem Core.softLine_eq {k : Core} {ch line : Nat} (hline : line < (k.hopChan ch).lines) (q : Nat) (step : BitVec 32) (rows cols : Nat)
    (bs : List Byte) : k.softLine ch q step rows cols line bs =
      (k.spWrite (256 * ((k.hopChan ch).tileLine q + line)) bs).setChan ch ((k.hopChan ch).stored q step rows cols line) := by
  simp only [Core.softLine, if_pos hline, HopChan.stored]
  by_cases hq : q = (k.hopChan ch).received
  · by_cases hw : (insertSet line ((k.hopChan ch).tile q).got).length =
        min (k.hopChan ch).lines ((rows + 1) * cdiv (cols + 1) 64) <;> simp [← hq, hw]
  · simp [hq]

theorem exec_softDataFlit_stores (h : Arriving s dst src before after f) {line : List Byte} (hbody : f.body = .soft line)
    (hon : ((s.core dst.val).hopChan f.schan).on = true) (hsender : ((s.core dst.val).hopChan f.schan).sender = src.val)
    (hline : f.tline < ((s.core dst.val).hopChan f.schan).lines) : exec (.softDataFlit dst src) s =
      .next ((s.settled (before ++ after)).modCore dst.val (fun k => k.softLine f.schan
        (((s.core dst.val).hopChan f.schan).seqOf f.seq) f.step f.trows f.tcols f.tline line)) := by
  rw [exec_softDataFlit_eq, execSoftDataFlit, h.arrive (by rw [hbody])]
  simp only [State.softArrive, hbody, h.src_eq, h.dst_eq, State.core_settled, hon, hsender, Bool.not_true, Bool.false_eq_true, if_false, ne_eq,
    not_true_eq_false, if_neg (Nat.not_le.2 hline)]

/-! ## Credits (R198) -/

theorem exec_creditFlit_arrives (h : Arriving s dst src before after f) (hbody : f.body = .credit) {l : List Credit}
    (hl : creditIn (s.core dst.val).welt.credits src.val f.schan f.grant f.isFirst = some l) : exec (.creditFlit dst src) s =
      .next ((s.settled (before ++ after)).modCore dst.val (fun k => { k with welt := { k.welt with credits := l } })) := by
  rw [exec_creditFlit_eq, execCreditFlit, h.arrive (by rw [hbody])]
  simp only [State.creditArrive, h.src_eq, h.dst_eq, State.core_settled, hl]

/-- A credit entry after a grant. -/
def Credit.granted (e : Credit) (grant : Nat) (first : Bool) : Credit :=
  if first then { e with grant := grant, sent := 0 } else { e with grant := max e.grant grant }

theorem Credit.granted_key (e : Credit) (grant : Nat) (first : Bool) :
    (e.granted grant first).core = e.core ∧ (e.granted grant first).chan = e.chan := by cases first <;> exact ⟨rfl, rfl⟩

/-- The entry is that of a destination core and channel. -/
def Credit.isFor (core chan : Nat) (e : Credit) : Bool := e.core = core && e.chan = chan

theorem Core.credit_eq (k : Core) (core chan : Nat) : k.credit core chan = k.welt.credits.find? (Credit.isFor core chan) := rfl

/-- A grant for an entry that is held changes that entry. -/
theorem creditIn_held {l : List Credit} {core chan : Nat} {e : Credit} (he : l.find? (Credit.isFor core chan) = some e)
    (grant : Nat) (first : Bool) : ∃ l', creditIn l core chan grant first = some l' ∧
      l'.find? (Credit.isFor core chan) = some (e.granted grant first) := by
  have hsame : e.isFor core chan = true := List.find?_some he
  have hany : l.any (Credit.isFor core chan) = true := List.any_eq_true.2 ⟨e, List.mem_of_find?_eq_some he, hsame⟩
  have hkey : (Credit.isFor core chan ∘ fun e => if e.isFor core chan then e.granted grant first else e) = Credit.isFor core chan := by
    funext x
    simp only [Function.comp]
    split
    · rw [Credit.isFor, (x.granted_key grant first).1, (x.granted_key grant first).2]; rfl
    · rfl
  refine ⟨l.map fun e => if e.isFor core chan then e.granted grant first else e, ?_, ?_⟩
  · rw [creditIn]
    exact if_pos hany
  · rw [List.find?_map, hkey, he, Option.map_some, if_pos hsame]

/-- A first grant with a free entry makes one. -/
theorem creditIn_new {l : List Credit} {core chan : Nat} (hn : l.find? (Credit.isFor core chan) = none)
    (hroom : l.length < 16) (grant : Nat) : creditIn l core chan grant true = some (l ++ [⟨core, chan, grant, 0⟩]) ∧
      (l ++ [(⟨core, chan, grant, 0⟩ : Credit)]).find? (Credit.isFor core chan) = some ⟨core, chan, grant, 0⟩ := by
  have hany : ¬ l.any (Credit.isFor core chan) = true := by
    rw [List.any_eq_true]
    rintro ⟨x, hx, hsame⟩
    exact List.find?_eq_none.1 hn x hx hsame
  refine ⟨(if_neg hany).trans (if_pos hroom), ?_⟩
  rw [List.find?_append, hn]
  simp [Credit.isFor]

/-! ## Flush flits (R373, R374) -/

/-- A withdrawn RECV of the channel that names the source. -/
def Slot.awaitsFlush (x : Slot) (ch src : Nat) : Bool :=
  x.withdrawn && kindOf x.desc = 11 && wChan x.desc = ch && wCore x.desc = src

theorem Slot.awaitsFlush_iff {x : Slot} {ch src : Nat} : x.awaitsFlush ch src = true ↔
    x.withdrawn = true ∧ kindOf x.desc = 11 ∧ wChan x.desc = ch ∧ wCore x.desc = src := by
  simp [Slot.awaitsFlush, and_assoc]

/-- Slot `n` is marked when it waits for the flush. -/
def Core.flushSlot (k : Core) (ch src n : Nat) : Core :=
  if (k.slot n).awaitsFlush ch src then k.modSlot n (fun x => { x with flushed := true }) else k

/-- The slots of a list that wait for the flush are marked. -/
def Core.markFlushed (k : Core) (ch src : Nat) (l : List Nat) : Core := l.foldl (fun k n => k.flushSlot ch src n) k

theorem Core.flushSlot_rest (k : Core) (ch src n : Nat) : { k.flushSlot ch src n with slots := k.slots } = k := by
  unfold Core.flushSlot
  split <;> rfl

theorem Core.slot_flushSlot (k : Core) (ch src n m : Nat) : (k.flushSlot ch src n).slot m =
    if m = n ∧ (k.slot m).awaitsFlush ch src = true then { k.slot m with flushed := true } else k.slot m := by
  unfold Core.flushSlot
  by_cases hw : (k.slot n).awaitsFlush ch src = true
  · rw [if_pos hw, Core.slot_modSlot]
    by_cases hm : m = n
    · rw [if_pos hm, hm, if_pos ⟨rfl, hw⟩]
    · rw [if_neg hm, if_neg fun h => hm h.1]
  · have hno : ¬ (m = n ∧ (k.slot m).awaitsFlush ch src = true) := by rintro ⟨rfl, h⟩; exact hw h
    rw [if_neg hw, if_neg hno]

theorem Core.markFlushed_rest (ch src : Nat) (l : List Nat) (k : Core) : { k.markFlushed ch src l with slots := k.slots } = k := by
  induction l generalizing k with
  | nil => rfl
  | cons n l ih => exact (congrArg (fun x : Core => { x with slots := k.slots }) (ih _)).trans (k.flushSlot_rest ch src n)

theorem Core.slot_markFlushed (ch src m : Nat) (l : List Nat) (k : Core) : (k.markFlushed ch src l).slot m =
    if m ∈ l ∧ (k.slot m).awaitsFlush ch src = true then { k.slot m with flushed := true } else k.slot m := by
  induction l generalizing k with
  | nil => simp [Core.markFlushed]
  | cons n l ih =>
    refine (ih (k.flushSlot ch src n)).trans ?_
    have hmark : ({ k.slot m with flushed := true } : Slot).awaitsFlush ch src = (k.slot m).awaitsFlush ch src := rfl
    by_cases hm : m = n
    · by_cases hw : (k.slot m).awaitsFlush ch src = true <;> simp [Core.slot_flushSlot, hm ▸ hw, hm, hm ▸ hmark]
    · simp [Core.slot_flushSlot, hm]

/-- The core after a flush flit. -/
def Core.flushSeen (k : Core) (ch src : Nat) : Core :=
  if Core.slotNums.any (fun n => (k.slot n).awaitsFlush ch src) then k.markFlushed ch src Core.slotNums
  else { k with welt := { k.welt with flushes := k.welt.flushes ++ [(ch, src)] } }

theorem exec_flushFlit_arrives (h : Arriving s dst src before after f) {ch : Nat} (hbody : f.body = .flush ch) :
    exec (.flushFlit dst src) s = .next ((s.settled (before ++ after)).modCore dst.val (fun k => k.flushSeen ch src.val)) := by
  rw [exec_flushFlit_eq, execFlushFlit, h.arrive (by rw [hbody])]
  simp only [State.flushArrive, hbody, h.src_eq, h.dst_eq]
  rfl

theorem Core.flushSeen_rest (k : Core) (ch src : Nat) : (k.flushSeen ch src).seq = k.seq ∧ (k.flushSeen ch src).sp = k.sp := by
  unfold Core.flushSeen
  generalize Core.slotNums = l
  have h := Core.markFlushed_rest ch src l k
  split
  · exact ⟨(congrArg Core.seq h :), (congrArg Core.sp h :)⟩
  · exact ⟨rfl, rfl⟩

theorem Core.slot_flushSeen (k : Core) (ch src : Nat) {n : Nat} (hn : n < 64) : (k.flushSeen ch src).slot n =
    if (k.slot n).awaitsFlush ch src = true then { k.slot n with flushed := true } else k.slot n := by
  unfold Core.flushSeen
  split
  · rw [Core.slot_markFlushed]
    exact if_congr (and_iff_right (mem_slotNums.2 hn)) rfl rfl
  · next h =>
    have hno : ¬ (k.slot n).awaitsFlush ch src = true := fun hm => h (List.any_eq_true.2 ⟨n, mem_slotNums.2 hn, hm⟩)
    exact (if_neg hno).symm

theorem Core.flushSeen_kept {k : Core} {ch src : Nat} (h : ∀ n, n < 64 → ¬ (k.slot n).awaitsFlush ch src = true) :
    (k.flushSeen ch src).welt.flushes = k.welt.flushes ++ [(ch, src)] := by
  have hnone : ¬ Core.slotNums.any (fun n => (k.slot n).awaitsFlush ch src) = true := fun hany => by
    obtain ⟨n, hn, hm⟩ := List.any_eq_true.1 hany
    exact h n (mem_slotNums.1 hn) hm
  rw [Core.flushSeen, if_neg hnone]

end

end Sys2Proof.Machine
end

section
/-! PROOF. A Welt line at its RECV (R57, R60, R61): it is written into the region, and the position it fills is filled. -/

namespace Sys2Proof.Machine

open Sys2Proof

theorem exec_weltFlitArrive_eq (dst src : CoreId) (s : State) : exec (.weltFlitArrive dst src) s = execWeltFlitArrive dst src s := rfl

/-! ## Flush flits that came early -/

/-- A line takes away the flush marks of its channel and source that came before it (R373). -/
def Core.dropFlushes (k : Core) (e : Nat × Nat) : Core :=
  { k with welt := { k.welt with flushes := k.welt.flushes.filter (· ≠ e) } }

def State.dropFlushes (s : State) (c : Nat) (e : Nat × Nat) : State :=
  if (s.core c).welt.flushes.isEmpty then s else s.modCore c (fun k => k.dropFlushes e)

theorem State.core_dropFlushes (s : State) (c : Nat) (e : Nat × Nat) : (s.dropFlushes c e).core c = (s.core c).dropFlushes e := by
  unfold State.dropFlushes
  split
  · next h =>
    have hnil : (s.core c).welt.flushes = [] := List.isEmpty_iff.1 h
    rw [Core.dropFlushes, hnil, List.filter_nil, ← hnil]
  · exact State.core_modCore_self s c _

theorem FlitGone.dropFlushes {s t : State} {dst : Nat} {fs : List Flit} (h : FlitGone s t dst fs) (e : Nat × Nat) :
    FlitGone s (t.dropFlushes dst e) dst fs := by
  unfold State.dropFlushes
  split
  · exact h
  · exact h.modCore rfl

/-! ## Accessible lines -/

/-- Lines are accessible as before when the kernel, the Hopback channels, the partition and the reserve region are as before (R42,
R201, R368). -/
theorem State.runFault_congr {s t : State} {c : Nat} (hseq : (t.core c).seq = (s.core c).seq) (hhop : (t.core c).hop = (s.core c).hop)
    (hbays : t.bays = s.bays) (hsched : t.sched = s.sched) (own : List Nat) (a n : Nat) :
    t.runFault c own a n = s.runFault c own a n := by
  have hpart : t.partOf c = s.partOf c := by rw [State.partOf, State.partOfBay, State.bay, hbays]; rfl
  have hresv : t.resvLines (t.partOf c) = s.resvLines (s.partOf c) := by
    rw [hpart, State.resvLines, State.schedOf, hsched]; rfl
  have hguard : ∀ l, (t.core c).guarded own l = (s.core c).guarded own l := fun l => by
    simp only [Core.guarded, Core.hopChan, hhop]
  have hhot : ∀ l, t.hotLine c l = s.hotLine c l := fun l => by rw [State.hotLine, hseq, hresv]; rfl
  have hline : t.lineFault c own = s.lineFault c own := funext fun l => by rw [State.lineFault, hhot, hguard]; rfl
  rw [State.runFault, hline]
  rfl

/-! ## The frontier of a channel -/

theorem le_advance (chan : Nat) : ∀ n p l, p ≤ (advance chan n p l).1
  | 0, p, _ => Nat.le_refl p
  | n + 1, p, l => by
    unfold advance
    split
    · exact Nat.le_of_succ_le (le_advance chan n (p + 1) _)
    · exact Nat.le_refl p

theorem Core.lt_next_fill (k : Core) {ch p : Nat} (h : p = k.welt.next.get 0 ch) : p < (k.fill ch p).welt.next.get 0 ch := by
  rw [Core.fill, if_pos h, Core.frontier]
  dsimp only
  rw [FMap.get_set_self]
  exact le_advance ch _ (p + 1) _

/-- Filling a position changes the state of Welt only. -/
theorem Core.fill_rest (k : Core) (ch p : Nat) : { k.fill ch p with welt := k.welt } = k := by
  unfold Core.fill
  split
  · rfl
  · split <;> rfl

/-! ## One line -/

/-- Byte address at which line `i` of a RECV is written (R60). -/
def Slot.recvAddr (x : Slot) (i : Nat) : Nat := 256 * (x.dstBase + wRow x.desc i * dDstr x.desc + wCol x.desc i)

/-- The slot of a RECV with one line more. -/
def Slot.lineMoved (x : Slot) (mash : Nat) (bad : Bool) : Slot :=
  { x with
    moved := x.moved + 1
    movedAt := mash
    done := (x.state = .active && wLines x.desc ≤ x.moved + 1 && !bad)
    blocked := (x.moved + 1 < wLines x.desc) }

/-- The core after a line whose position was open: its bytes are written, and the position is filled. -/
def Core.lineIn (k : Core) (ch n p mash : Nat) (bs : List Byte) : Core :=
  let a := (k.slot n).recvAddr (p - (k.slot n).start)
  let j := (k.spWrite a bs).setLive (linesOf a bs.length)
  (j.modSlot n (fun x => x.lineMoved mash (j.welt.inputBad.contains n))).fill ch p

theorem Core.lineIn_rest (k : Core) (ch n p mash : Nat) (bs : List Byte) :
    { k.lineIn ch n p mash bs with slots := k.slots, sp := k.sp, welt := k.welt } = k :=
  (congrArg (fun x : Core => { x with slots := k.slots, sp := k.sp }) (Core.fill_rest _ ch p) :)

theorem Core.lineIn_mem (k : Core) (ch n p mash : Nat) (bs : List Byte) :
    (k.lineIn ch n p mash bs).sp.mem = (k.spWrite ((k.slot n).recvAddr (p - (k.slot n).start)) bs).sp.mem :=
  (congrArg (fun x : Core => x.sp.mem) (Core.fill_rest _ ch p) :)

theorem Core.slot_lineIn (k : Core) (ch n p mash m : Nat) (bs : List Byte) : (k.lineIn ch n p mash bs).slot m =
    if m = n then (k.slot n).lineMoved mash (k.welt.inputBad.contains n) else k.slot m := by
  have hslots := (congrArg (fun x : Core => x.slot m) (Core.fill_rest (((k.spWrite ((k.slot n).recvAddr (p - (k.slot n).start)) bs).setLive
    (linesOf ((k.slot n).recvAddr (p - (k.slot n).start)) bs.length)).modSlot n
      (fun x => x.lineMoved mash (k.welt.inputBad.contains n))) ch p) :)
  exact hslots.trans (Core.slot_modSlot _ n m _)

/-- The bytes of a line that a RECV takes. -/
theorem State.recvWrite_ok {s : State} {c n i : Nat} {bs : List Byte} (hlen : wBytes ((s.core c).slot n).desc i ≤ bs.length)
    (hok : s.runFault c [] (((s.core c).slot n).recvAddr i) (wBytes ((s.core c).slot n).desc i) = none) :
    s.recvWrite c n i bs = { s := s.modCore c (fun k =>
      (k.spWrite (((s.core c).slot n).recvAddr i) (bs.take (wBytes ((s.core c).slot n).desc i))).setLive
        (linesOf (((s.core c).slot n).recvAddr i) (bs.take (wBytes ((s.core c).slot n).desc i)).length)) } := by
  have htake : (bs.take (wBytes ((s.core c).slot n).desc i)).length = wBytes ((s.core c).slot n).desc i := List.length_take_of_le hlen
  have hnone : natBytes (wBytes ((s.core c).slot n).desc i - bs.length) 0 = [] := by rw [Nat.sub_eq_zero_of_le hlen]; rfl
  unfold State.recvWrite
  dsimp only
  rw [if_neg (Nat.not_lt.2 hlen), hnone, List.append_nil]
  unfold Mv.writeSp Mv.andThen
  dsimp only
  rw [htake]
  rw [Slot.recvAddr] at hok
  rw [hok]
  rfl

/-- A line for an open position of a RECV is taken into its core. -/
theorem State.recvLine_ok {s : State} {c ch n p : Nat} {bs : List Byte}
    (hlen : wBytes ((s.core c).slot n).desc (p - ((s.core c).slot n).start) ≤ bs.length)
    (hok : s.runFault c [] (((s.core c).slot n).recvAddr (p - ((s.core c).slot n).start))
      (wBytes ((s.core c).slot n).desc (p - ((s.core c).slot n).start)) = none)
    (hopen : (s.core c).filled ch p = false) : ∃ g1 g2, s.recvLine c ch n p bs = (s.modCore c g1).modCore c g2 ∧
      (g1 (s.core c)).seq = (s.core c).seq ∧ g2 (g1 (s.core c)) = (s.core c).lineIn ch n p (s.mashOf c)
        (bs.take (wBytes ((s.core c).slot n).desc (p - ((s.core c).slot n).start))) := by
  unfold State.recvLine
  dsimp only
  rw [State.recvWrite_ok hlen hok]
  dsimp only
  refine ⟨_, _, rfl, ?_, ?_⟩
  · rfl
  · exact if_neg (fun h => Bool.false_ne_true (hopen.symm.trans h))

/-! ## Arrival -/

/-- A line meets its channel once the flush marks that came before it are gone. -/
def State.weltLine (s : State) (f : Flit) (ch : Nat) (line : List Byte) : State :=
  let k := s.core f.dst
  let p := k.welt.next.get 0 ch
  match k.recvAt ch p with
  | some n =>
    if wRemote (k.slot n).desc || wCore (k.slot n).desc ≠ f.src then s.weltRefuse f p else s.recvLine f.dst ch n p line
  | none => s.weltRefuse f p

theorem State.weltArrive_eq {s : State} {f : Flit} {ch : Nat} {line : List Byte} (hbody : f.body = .data ch line) :
    s.weltArrive f = (s.dropFlushes f.dst (ch, f.src)).weltLine f ch line := by
  rw [State.weltArrive, hbody]
  rfl

theorem State.weltLine_recv {s : State} {f : Flit} {ch n : Nat} {line : List Byte}
    (hrecv : (s.core f.dst).recvAt ch ((s.core f.dst).welt.next.get 0 ch) = some n)
    (hremote : wRemote ((s.core f.dst).slot n).desc = false) (hsrc : wCore ((s.core f.dst).slot n).desc = f.src) :
    s.weltLine f ch line = s.recvLine f.dst ch n ((s.core f.dst).welt.next.get 0 ch) line := by
  simp only [State.weltLine, hrecv, hremote, hsrc]
  exact if_neg (by simp)

/-- A line of the core that a RECV names, for the open position at the frontier of its channel, fills its line and nothing else. -/
theorem exec_weltFlitArrive_fills {s : State} {dst src : CoreId} {before after : List Flit} {f : Flit}
    (h : Arriving s dst src before after f) {ch m : Nat} {line : List Byte} (hbody : f.body = .data ch line)
    (hrecv : (s.core dst.val).recvAt ch ((s.core dst.val).welt.next.get 0 ch) = some m)
    (hopen : (s.core dst.val).welt.ahead.contains (ch, (s.core dst.val).welt.next.get 0 ch) = false)
    (hremote : wRemote ((s.core dst.val).slot m).desc = false) (hsrc : wCore ((s.core dst.val).slot m).desc = src.val)
    {i : Nat} (hi : i = (s.core dst.val).welt.next.get 0 ch - ((s.core dst.val).slot m).start)
    (hlen : wBytes ((s.core dst.val).slot m).desc i ≤ line.length)
    (hok : s.runFault dst.val [] (((s.core dst.val).slot m).recvAddr i) (wBytes ((s.core dst.val).slot m).desc i) = none) :
    ∃ t, exec (.weltFlitArrive dst src) s = .next t ∧ FlitGone s t dst.val (before ++ after) ∧
      t.core dst.val = ((s.core dst.val).dropFlushes (ch, src.val)).lineIn ch m ((s.core dst.val).welt.next.get 0 ch)
        (s.mashOf dst.val) (line.take (wBytes ((s.core dst.val).slot m).desc i)) := by
  subst hi
  have hgone := (flitGone_settled s dst.val (before ++ after)).dropFlushes (ch, src.val)
  have hcore := (s.settled (before ++ after)).core_dropFlushes dst.val (ch, src.val)
  generalize hu : (s.settled (before ++ after)).dropFlushes dst.val (ch, src.val) = u at hgone hcore
  have hbays : u.bays = s.bays := (congrArg State.bays hgone.1 :)
  have hmash : u.mashOf dst.val = s.mashOf dst.val := by rw [State.mashOf, State.bay, hbays]; rfl
  have hfault := State.runFault_congr (s := s) (t := u) (c := dst.val) (by rw [hcore]; rfl) (by rw [hcore]; rfl) hbays
    (congrArg State.sched hgone.1 :) []
  obtain ⟨g1, g2, hline, hseq, hlineIn⟩ := State.recvLine_ok (s := u) (c := dst.val) (ch := ch) (n := m)
    (p := (s.core dst.val).welt.next.get 0 ch) (bs := line) (by rw [hcore]; exact hlen) (by rw [hcore, hfault]; exact hok)
    (by rw [hcore]; simpa [Core.filled, Core.dropFlushes] using hopen)
  have hexec : exec (.weltFlitArrive dst src) s = .next ((u.modCore dst.val g1).modCore dst.val g2) := by
    rw [exec_weltFlitArrive_eq, execWeltFlitArrive, h.arrive (by rw [hbody]), ← hline]
    have hw := State.weltLine_recv (s := u) (f := f) (ch := ch) (n := m) (line := line)
    rw [h.dst_eq, h.src_eq, hcore] at hw
    rw [State.weltArrive_eq hbody, h.dst_eq, h.src_eq, hu]
    exact congrArg _ (hw hrecv hremote hsrc)
  refine ⟨_, hexec, (hgone.modCore hseq).modCore ?_, ?_⟩
  · rw [State.core_modCore_self, hlineIn, hseq]
    exact (congrArg Core.seq (Core.lineIn_rest _ ch m _ _ _) :)
  · rw [State.core_modCore_self, State.core_modCore_self, hlineIn, hcore, hmash]
    rfl

end Sys2Proof.Machine
end

section
/-! PROOF. Headers at the routers (R18, R32, R39, R41): which are discarded, what that changes, and which reach a service port. -/

namespace Sys2Proof.Machine

open Sys2Proof

theorem exec_flitArrive_eq (hdr : BitVec 32) (who : Option StreamRef) (s : State) :
    exec (.flitArrive hdr who) s = execFlitArrive hdr who s := rfl

/-! ## The notice to the SEND of a discarded flit -/

/-- From `s` to `t` only cores and the report queues have changed. -/
def ReportsAndCores (s t : State) : Prop := ∃ k r q, t = { s with cores := k, reports := r, saddleReports := q }

theorem ReportsAndCores.trans {s t u : State} (h : ReportsAndCores s t) (h' : ReportsAndCores t u) : ReportsAndCores s u := by
  obtain ⟨_, _, _, rfl⟩ := h
  obtain ⟨k, r, q, rfl⟩ := h'
  exact ⟨k, r, q, rfl⟩

theorem reportsAndCores_refl (s : State) : ReportsAndCores s s := ⟨_, _, _, rfl⟩

theorem reportsAndCores_modCore (s : State) (c : Nat) (g : Core → Core) : ReportsAndCores s (s.modCore c g) := ⟨_, _, _, rfl⟩

theorem reportsAndCores_report (s : State) (r : Report) : ReportsAndCores s (s.report r) := by
  unfold State.report
  split
  · exact reportsAndCores_refl s
  · exact ⟨_, _, _, rfl⟩

theorem State.sendNotice_eq_or (s : State) (c n : Nat) (o : Option Nat) (code a : Nat) :
    s.sendNotice c n o code a = (s.tilesAtFault c n 0).streamFault c n code a ∨ s.sendNotice c n o code a = s := ite_eq_or_eq _ _ _

/-- A notice to a SEND changes cores and report queues only. -/
theorem reportsAndCores_sendNotice (s : State) (c n : Nat) (o : Option Nat) (code a : Nat) :
    ReportsAndCores s (s.sendNotice c n o code a) := by
  have htiles : ReportsAndCores s (s.tilesAtFault c n 0) := by
    unfold State.tilesAtFault
    dsimp only
    split
    · exact reportsAndCores_modCore s c _
    · exact reportsAndCores_refl s
  have hfault : ReportsAndCores s ((s.tilesAtFault c n 0).streamFault c n code a) :=
    htiles.trans ((reportsAndCores_modCore _ c _).trans (reportsAndCores_report _ _))
  rcases s.sendNotice_eq_or c n o code a with h | h
  · rw [h]; exact hfault
  · rw [h]; exact reportsAndCores_refl s

theorem State.state_streamFault (s : State) (c n code a : Nat) : (((s.streamFault c n code a).core c).slot n).state = .faulted := by
  rw [State.streamFault]
  dsimp only
  rw [State.core_report, State.core_modCore_self, Core.slot_setSlot_self]

/-- A live SEND that a notice names stops (R39). -/
theorem State.sendNotice_faults {s : State} {c n : Nat} {o : Option Nat} (hkind : kindOf ((s.core c).slot n).desc = 10)
    (hlive : ((s.core c).slot n).live = true) (ho : ∀ i, o = some i → i = ((s.core c).slot n).order) (code a : Nat) :
    (((s.sendNotice c n o code a).core c).slot n).state = .faulted := by
  have hif : s.sendNotice c n o code a = (s.tilesAtFault c n 0).streamFault c n code a := by
    refine if_pos ?_
    cases o with
    | none => simp [hkind, hlive]
    | some i => simp [hkind, hlive, ho i rfl]
  rw [hif]
  exact State.state_streamFault (s.tilesAtFault c n 0) c n code a

/-! ## Discards -/

/-- The counters of a die after one discard more of each kind (R18, R32, R39, R41). -/
def Die.noSite (d : Die) : Die := { d with addrDiscard := satAdd 16 d.addrDiscard 1 }
def Die.fc4Refused (d : Die) : Die := { d with fc4Discard := satAdd 16 d.fc4Discard 1 }
def Die.notOn (d : Die) : Die := { d with destReset := satAdd 16 d.destReset 1 }
def Die.otherPart (d : Die) : Die := { d with partDiscard := satAdd 16 d.partDiscard 1 }

/-- From `s` to `t` only cores, the counters of die `d` and the report queues have changed, and that die has `k`. -/
def DieCounts (s t : State) (d : Nat) (k : Die) : Prop :=
  (∃ cs ds r q, t = { s with cores := cs, dies := ds, reports := r, saddleReports := q }) ∧ t.die d = k

theorem DieCounts.of_reports {s t : State} {d : Nat} {g : Die → Die} (h : ReportsAndCores (s.modDie d g) t) :
    DieCounts s t d (g (s.die d)) := by
  obtain ⟨_, _, _, rfl⟩ := h
  exact ⟨⟨_, _, _, _, rfl⟩, (State.die_modDie_self s d g :)⟩

theorem dieCounts_resetDiscard (s : State) (dst : Nat) (sender : Option (Nat × Nat)) :
    DieCounts s (s.resetDiscard dst sender) (dieOf dst) (s.die (dieOf dst)).notOn := by
  refine DieCounts.of_reports (g := Die.notOn) ?_
  cases sender with
  | none => exact reportsAndCores_refl _
  | some x => exact ⟨_, _, _, rfl⟩

/-- A flit of another partition is counted at its destination die and reported, and its SEND is told (R39). -/
theorem dieCounts_partDiscard (s : State) (dst src : Nat) (sender : Option (Nat × Nat × Option Nat)) :
    DieCounts s (s.partDiscard dst src sender) dst (s.die dst).otherPart := by
  refine DieCounts.of_reports (g := Die.otherPart) ?_
  have hreport := reportsAndCores_report (s.modDie dst Die.otherPart)
    { (s.modDie dst Die.otherPart).pkgReport codeFabricDiscard with site := dst, detail := src }
  cases sender with
  | none => exact hreport
  | some x => exact hreport.trans (reportsAndCores_sendNotice _ x.1 x.2.1 x.2.2 _ _)

theorem State.partDiscard_faults {s : State} {c n : Nat} {o : Option Nat} (hkind : kindOf ((s.core c).slot n).desc = 10)
    (hlive : ((s.core c).slot n).live = true) (ho : ∀ i, o = some i → i = ((s.core c).slot n).order) (dst src : Nat) :
    (((s.partDiscard dst src (some (c, n, o))).core c).slot n).state = .faulted := by
  generalize hu : (s.modDie dst Die.otherPart).report
    { (s.modDie dst Die.otherPart).pkgReport codeFabricDiscard with
      site := dst, detail := src } = u
  have hcore : u.core c = s.core c := by rw [← hu, State.core_report]; rfl
  have hd : s.partDiscard dst src (some (c, n, o)) = u.sendNotice c n o codePartRefused ((u.core c).slot n).moved := by
    rw [← hu]; rfl
  rw [hd]
  exact State.sendNotice_faults (by rw [hcore]; exact hkind) (by rw [hcore]; exact hlive) (by rw [hcore]; exact ho) _ _

/-! ## The header (R18, R32, R39, R41) -/

/-- The flit a header names, with the flits that stay. -/
def State.namedBy (s : State) (hdr : BitVec 32) (who : Option StreamRef) : Option (Flit × List Flit) :=
  who.bind (fun r => s.flitOf hdr r.core.val)

/-- The flits that stay once a discarded header's flit has left. -/
def State.flitsLeft (s : State) (hdr : BitVec 32) (who : Option StreamRef) : List Flit :=
  match s.namedBy hdr who with
  | some q => settleFlits q.2
  | none => s.flits

theorem State.dropNamed_eq (s : State) (hdr : BitVec 32) (who : Option StreamRef) :
    s.dropNamed hdr who = { s with flits := s.flitsLeft hdr who } := by
  unfold State.dropNamed State.flitsLeft State.namedBy
  cases who.bind (fun r => s.flitOf hdr r.core.val) <;> rfl

/-- The sender as a router names it: core, slot and the order of its flit. -/
def State.senderOf (s : State) (hdr : BitVec 32) (who : Option StreamRef) : Option (Nat × Nat × Option Nat) :=
  who.map (fun r => (r.core.val, r.slot.val, (s.namedBy hdr who).map (fun q => q.1.order)))

/-- From `s` to `t` a header has been discarded: its flit has left, and die `d` has `k`. -/
structure HeaderDropped (s t : State) (hdr : BitVec 32) (who : Option StreamRef) (d : Nat) (k : Die) : Prop where
  rest : { t with
    cores := s.cores
    dies := s.dies
    flits := s.flits
    fab := s.fab
    reports := s.reports
    saddleReports := s.saddleReports } = s
  fab : t.fab = s.fab
  flits : t.flits = s.flitsLeft hdr who
  die : t.die d = k

/-- A discard counted at a die once the named flit has left. -/
theorem DieCounts.dropped {s t : State} {hdr : BitVec 32} {who : Option StreamRef} {d : Nat} {k : Die}
    (h : DieCounts (s.dropNamed hdr who) t d k) : HeaderDropped s t hdr who d k := by
  rw [State.dropNamed_eq] at h
  obtain ⟨⟨_, _, _, _, rfl⟩, hdie⟩ := h
  exact ⟨rfl, rfl, rfl, hdie⟩

theorem State.die_dropNamed (s : State) (hdr : BitVec 32) (who : Option StreamRef) (d : Nat) : (s.dropNamed hdr who).die d = s.die d := by
  rw [State.dropNamed_eq]
  rfl

theorem State.core_dropNamed (s : State) (hdr : BitVec 32) (who : Option StreamRef) (c : Nat) :
    (s.dropNamed hdr who).core c = s.core c := by
  rw [State.dropNamed_eq]
  rfl

/-- The report of a header that the router of its source discards. -/
def State.sourceReport (s : State) (hdr : BitVec 32) (who : Option StreamRef) : Report :=
  { s.pkgReport codeFabricDiscard with
    site := fld hdr 7 7
    core := (match who with | some r => r.core.val | none => 0xFFFF)
    detail := fld hdr 0 7 }

/-- The router of its source discards a header and counts it by `g` (R18, R32). -/
def State.sourceDiscard (s : State) (hdr : BitVec 32) (who : Option StreamRef) (g : Die → Die) : State :=
  ((s.dropNamed hdr who).modDie (fld hdr 7 7) g).report (((s.dropNamed hdr who).modDie (fld hdr 7 7) g).sourceReport hdr who)

/-- What the routers do with a header, in the order in which they look. -/
theorem exec_flitArrive_routes (hdr : BitVec 32) (who : Option StreamRef) (s : State) : exec (.flitArrive hdr who) s = .next (
    if 100 ≤ fld hdr 0 7 then s.sourceDiscard hdr who Die.noSite
    else if fld hdr 19 3 = 4 ∧ (60 ≤ fld hdr 0 7 ∨ 6 ≤ fld hdr 14 5) then
      s.sourceDiscard hdr who Die.fc4Refused
    else if fld hdr 0 7 < 60 ∧ fld hdr 14 5 ≤ 6 ∧ (s.bay (fld hdr 0 7 / 5)).state ≠ .on then
      (s.dropNamed hdr who).resetDiscard (6 * fld hdr 0 7 + fld hdr 14 5 % 6) (who.map (fun r => (r.core.val, r.slot.val)))
    else if fld hdr 0 7 < 60 ∧ fld hdr 7 7 < 60 ∧ fld hdr 23 4 ≠ 15 ∧ fld hdr 23 4 ≠ s.partOfBay (fld hdr 0 7 / 5) then
      (s.dropNamed hdr who).partDiscard (fld hdr 0 7) (fld hdr 7 7) (s.senderOf hdr who)
    else if 84 ≤ fld hdr 0 7 then s.present (fld hdr 0 7) else s) := by
  rw [exec_flitArrive_eq, execFlitArrive.eq_def]
  simp only [Bool.and_eq_true, Bool.or_eq_true, decide_eq_true_eq, and_assoc]
  rfl

theorem headerDropped_source (s : State) (hdr : BitVec 32) (who : Option StreamRef) (g : Die → Die) :
    HeaderDropped s (s.sourceDiscard hdr who g) hdr who (fld hdr 7 7) (g (s.die (fld hdr 7 7))) := by
  rw [← s.die_dropNamed hdr who]
  exact (DieCounts.of_reports (reportsAndCores_report _ _)).dropped

/-- A header for a bay that is not ON is counted at its destination die (R41). -/
theorem headerDropped_reset (s : State) (hdr : BitVec 32) (who : Option StreamRef) (site ep : Nat) (x : Option (Nat × Nat)) :
    HeaderDropped s ((s.dropNamed hdr who).resetDiscard (6 * site + ep % 6) x) hdr who site
      (s.die site).notOn := by
  have hsite : dieOf (6 * site + ep % 6) = site := by unfold dieOf; omega
  have h := dieCounts_resetDiscard (s.dropNamed hdr who) (6 * site + ep % 6) x
  rw [hsite, s.die_dropNamed hdr who] at h
  exact h.dropped

theorem headerDropped_part (s : State) (hdr : BitVec 32) (who : Option StreamRef) (dst src : Nat) (x : Option (Nat × Nat × Option Nat)) :
    HeaderDropped s ((s.dropNamed hdr who).partDiscard dst src x) hdr who dst
      (s.die dst).otherPart := by
  rw [← s.die_dropNamed hdr who]
  exact (dieCounts_partDiscard _ _ _ _).dropped

/-- The live SEND that a discarded header of another partition names stops (R39). -/
theorem State.partDiscard_stops {s : State} {hdr : BitVec 32} {r : StreamRef}
    (hkind : kindOf ((s.core r.core.val).slot r.slot.val).desc = 10) (hlive : ((s.core r.core.val).slot r.slot.val).live = true)
    (horder : ∀ q, s.namedBy hdr (some r) = some q → q.1.order = ((s.core r.core.val).slot r.slot.val).order) (dst src : Nat) :
    ((((s.dropNamed hdr (some r)).partDiscard dst src (s.senderOf hdr (some r))).core r.core.val).slot r.slot.val).state = .faulted := by
  refine State.partDiscard_faults ?_ ?_ ?_ dst src
  · rw [State.core_dropNamed]; exact hkind
  · rw [State.core_dropNamed]; exact hlive
  · intro i hi
    obtain ⟨q, hq, rfl⟩ := Option.map_eq_some_iff.1 hi
    rw [State.core_dropNamed]
    exact horder q hq

/-! ## The obligation -/

/-- What the routers do with a header is what FLIT_ARRIVE does (R18, R32, R39, R41). -/
theorem exec_flitArrive_headers (s : State) (hdr : BitVec 32) (who : Option StreamRef) :
    ∃ t, exec (.flitArrive hdr who) s = .next t ∧
      { t with cores := s.cores, dies := s.dies, flits := s.flits, fab := s.fab, reports := s.reports, saddleReports := s.saddleReports } = s ∧
      (if 100 ≤ fld hdr 0 7 then HeaderDropped s t hdr who (fld hdr 7 7) (s.die (fld hdr 7 7)).noSite
        else if fld hdr 19 3 = 4 ∧ (60 ≤ fld hdr 0 7 ∨ 6 ≤ fld hdr 14 5) then
          HeaderDropped s t hdr who (fld hdr 7 7) (s.die (fld hdr 7 7)).fc4Refused
        else if fld hdr 0 7 < 60 ∧ fld hdr 14 5 ≤ 6 ∧ (s.bay (fld hdr 0 7 / 5)).state ≠ .on then
          HeaderDropped s t hdr who (fld hdr 0 7) (s.die (fld hdr 0 7)).notOn
        else if fld hdr 0 7 < 60 ∧ fld hdr 7 7 < 60 ∧ fld hdr 23 4 ≠ 15 ∧ fld hdr 23 4 ≠ s.partOfBay (fld hdr 0 7 / 5) then
          HeaderDropped s t hdr who (fld hdr 0 7) (s.die (fld hdr 0 7)).otherPart ∧
          t = (s.dropNamed hdr who).partDiscard (fld hdr 0 7) (fld hdr 7 7) (s.senderOf hdr who)
        else if 84 ≤ fld hdr 0 7 then t = s.present (fld hdr 0 7) else t = s) := by
  rw [exec_flitArrive_routes]
  refine ⟨_, rfl, ?_⟩
  split
  · have h := headerDropped_source s hdr who Die.noSite
    exact ⟨h.rest, h⟩
  · split
    · have h := headerDropped_source s hdr who Die.fc4Refused
      exact ⟨h.rest, h⟩
    · split
      · have h := headerDropped_reset s hdr who (fld hdr 0 7) (fld hdr 14 5) (who.map (fun r => (r.core.val, r.slot.val)))
        exact ⟨h.rest, h⟩
      · split
        · have h := headerDropped_part s hdr who (fld hdr 0 7) (fld hdr 7 7) (s.senderOf hdr who)
          exact ⟨h.rest, h, rfl⟩
        · split
          · exact ⟨rfl, rfl⟩
          · exact ⟨rfl, rfl⟩

end Sys2Proof.Machine
end

section
/-! PROOF. What an arrived flit leaves at its receiver, flit by flit. -/

namespace Sys2Proof.Machine

open Sys2Proof

section
variable {s : State} {dst src : CoreId} {before after : List Flit} {f : Flit}

/-- A Welt line in the terms of its receiver: its bytes are there, no other byte and no other slot has changed, and the frontier of the
channel has moved on (R57, R60, R61). -/
theorem Core.lineIn_taken {k j : Core} {e : Nat × Nat} {ch m p n mash : Nat} {line : List Byte} (hp : p = k.welt.next.get 0 ch)
    (hlen : n ≤ line.length) (hj : j = (k.dropFlushes e).lineIn ch m p mash (line.take n)) :
    let a := (k.slot m).recvAddr (p - (k.slot m).start)
    j.spRead a n = line.take n ∧ (∀ b, b < a ∨ a + n ≤ b → memByte j.sp.mem b = memByte k.sp.mem b) ∧
      (j.slot m).moved = (k.slot m).moved + 1 ∧ (∀ i, i ≠ m → j.slot i = k.slot i) ∧ p < j.welt.next.get 0 ch := by
  intro a
  have hmem : j.sp.mem = (k.spWrite a (line.take n)).sp.mem := by rw [hj, Core.lineIn_mem]; rfl
  have htake : (line.take n).length = n := List.length_take_of_le hlen
  have hslot : ∀ i, j.slot i = if i = m then (k.slot m).lineMoved mash (k.welt.inputBad.contains m) else k.slot i := fun i => by
    rw [hj, Core.slot_lineIn]; rfl
  refine ⟨?_, fun b hb => Core.memByte_of_spWrite hmem (by rwa [htake]), ?_, fun i hi => ?_, ?_⟩
  · have hread := Core.spRead_of_spWrite hmem
    rwa [htake] at hread
  · rw [hslot, if_pos rfl]; rfl
  · rw [hslot, if_neg hi]
  · rw [hj]
    exact Core.lt_next_fill _ hp

/-- The configuration of a channel is not its ring (R199). -/
theorem HopChan.stored_cfg (h : HopChan) (q : Nat) (step : BitVec 32) (rows cols line : Nat) :
    (h.stored q step rows cols line).cfg = h.cfg := rfl

/-- A soft-target line in the terms of its receiver (R199). -/
theorem Core.softLine_taken {k : Core} {ch q line rows cols : Nat} {step : BitVec 32} {bs : List Byte}
    (hline : line < (k.hopChan ch).lines) :
    let a := 256 * ((k.hopChan ch).tileLine q + line)
    let j := k.softLine ch q step rows cols line bs
    j.spRead a bs.length = bs ∧ (∀ b, b < a ∨ a + bs.length ≤ b → memByte j.sp.mem b = memByte k.sp.mem b) ∧ j.slots = k.slots ∧
      j.hopChan ch = (k.hopChan ch).stored q step rows cols line := by
  intro a j
  have hj : j = (k.spWrite a bs).setChan ch ((k.hopChan ch).stored q step rows cols line) := Core.softLine_eq hline q step rows cols bs
  have hmem : j.sp.mem = (k.spWrite a bs).sp.mem := by rw [hj]; rfl
  refine ⟨Core.spRead_of_spWrite hmem, fun b hb => Core.memByte_of_spWrite hmem hb, by rw [hj]; rfl, ?_⟩
  rw [hj]
  exact FMap.get_set_self _ _ _ _

/-- A credit whose grant leaves `e` in the table (R198). -/
theorem exec_creditFlit_leaves (h : Arriving s dst src before after f) (hbody : f.body = .credit) {l : List Credit} {e : Credit}
    (hl : creditIn (s.core dst.val).welt.credits src.val f.schan f.grant f.isFirst = some l)
    (he : l.find? (Credit.isFor src.val f.schan) = some e) : ∃ t, exec (.creditFlit dst src) s = .next t ∧
      FlitGone s t dst.val (before ++ after) ∧ (t.core dst.val).sp = (s.core dst.val).sp ∧
      (t.core dst.val).slots = (s.core dst.val).slots ∧ (t.core dst.val).credit src.val f.schan = some e := by
  refine ⟨_, exec_creditFlit_arrives h hbody hl, flitGone_modCore s dst.val _ rfl, ?_⟩
  rw [State.core_settled_modCore]
  exact ⟨rfl, rfl, he⟩

/-- A flush flit marks the withdrawn RECVs of its channel and sender; with none it is kept (R373). -/
theorem exec_flushFlit_marks (h : Arriving s dst src before after f) {ch : Nat} (hbody : f.body = .flush ch) :
    ∃ t, exec (.flushFlit dst src) s = .next t ∧ FlitGone s t dst.val (before ++ after) ∧
      (t.core dst.val).sp = (s.core dst.val).sp ∧
      (∀ n, n < 64 → (t.core dst.val).slot n = if ((s.core dst.val).slot n).awaitsFlush ch src.val = true then
        { (s.core dst.val).slot n with flushed := true } else (s.core dst.val).slot n) ∧
      ((∀ n, n < 64 → ¬ ((s.core dst.val).slot n).awaitsFlush ch src.val = true) →
        (t.core dst.val).welt.flushes = (s.core dst.val).welt.flushes ++ [(ch, src.val)]) := by
  obtain ⟨hseq, hsp⟩ := Core.flushSeen_rest (s.core dst.val) ch src.val
  refine ⟨_, exec_flushFlit_arrives h hbody, flitGone_modCore s dst.val _ hseq, ?_⟩
  rw [State.core_settled_modCore]
  exact ⟨hsp, fun n hn => Core.slot_flushSeen _ ch src.val hn, Core.flushSeen_kept⟩

end

theorem satAdd_16_one (v : Nat) : satAdd 16 v 1 = min 65535 (v + 1) := by simp [satAdd]

/-- Settles O38, flit by flit: an arrival takes the oldest flit between its two cores and hands it to its receiver, and the routers look
at a header in one order. -/
theorem flitsArriveAtTheirCore : Obligations.FlitsArriveAtTheirCore := by
  intro s dst src before after f hflits hsrc hdst harr hold k hpass gone
  have h : Arriving s dst src before after f := ⟨hflits, hsrc, hdst, harr, hold, hpass⟩
  refine ⟨?welt, ?soft, ?held, ?new, ?flush, ?header⟩
  case welt =>
    intro ch line m hbody hrecv hopen x d i a hremote hfrom hlen hok
    obtain ⟨t, ht, hgone, hcore⟩ := exec_weltFlitArrive_fills h hbody hrecv hopen hremote hfrom rfl hlen hok
    exact ⟨t, ht, hgone, Core.lineIn_taken rfl hlen hcore⟩
  case soft =>
    intro line hbody ch c q a hon hsender hline
    obtain ⟨hread, hother, hslots, hchan⟩ := Core.softLine_taken (q := q) (step := f.step) (rows := f.trows) (cols := f.tcols)
      (bs := line) hline
    refine ⟨_, exec_softDataFlit_stores h hbody hon hsender hline, flitGone_modCore s dst.val _ ?_, ?_⟩
    · rw [Core.softLine_eq hline]; rfl
    · rw [State.core_settled_modCore]
      have hcfg := (congrArg HopChan.cfg hchan).trans (HopChan.stored_cfg _ q f.step f.trows f.tcols f.tline)
      exact ⟨hread, hother, hslots, hcfg, (congrArg HopChan.received hchan :)⟩
  case held =>
    intro e hbody he
    obtain ⟨l, hl, hfound⟩ := creditIn_held he f.grant f.isFirst
    exact exec_creditFlit_leaves h hbody hl hfound
  case new =>
    intro hbody hfirst hnone hroom
    obtain ⟨hl, hfound⟩ := creditIn_new hnone hroom f.grant
    exact exec_creditFlit_leaves h hbody (hfirst ▸ hl) hfound
  case flush =>
    intro ch hbody
    obtain ⟨t, ht, hgone, hsp, hmark, hkept⟩ := exec_flushFlit_marks h hbody
    refine ⟨t, ht, hgone, hsp, fun n hn => ⟨fun hnames => ?_, fun hnames => ?_⟩, fun hnone => hkept fun n hn hw => ?_⟩
    · rw [hmark n hn, if_pos (Slot.awaitsFlush_iff.2 hnames)]
    · rw [hmark n hn, if_neg (mt Slot.awaitsFlush_iff.1 hnames)]
    · exact hnone n hn (Slot.awaitsFlush_iff.1 hw)
  case header =>
    intro hdr who site frm ep named dropped
    obtain ⟨t, ht, hrest, hroute⟩ := exec_flitArrive_headers s hdr who
    have hdrop : ∀ {d : Nat} {c : Die}, HeaderDropped s t hdr who d c → dropped t := fun hd => ⟨hd.fab, hd.flits⟩
    refine ⟨t, ht, hrest, ?_⟩
    split at hroute
    · next h1 => rw [if_pos h1]; exact ⟨hdrop hroute, (congrArg Die.addrDiscard hroute.die).trans (satAdd_16_one _)⟩
    next h1 =>
    rw [if_neg h1]
    split at hroute
    · next h2 => rw [if_pos h2]; exact ⟨hdrop hroute, (congrArg Die.fc4Discard hroute.die).trans (satAdd_16_one _)⟩
    next h2 =>
    rw [if_neg h2]
    split at hroute
    · next h3 => rw [if_pos h3]; exact ⟨hdrop hroute, (congrArg Die.destReset hroute.die).trans (satAdd_16_one _)⟩
    next h3 =>
    rw [if_neg h3]
    split at hroute
    · next h4 =>
      rw [if_pos h4]
      obtain ⟨hd, hpart⟩ := hroute
      refine ⟨hdrop hd, (congrArg Die.partDiscard hd.die).trans (satAdd_16_one _), ?_⟩
      rintro r rfl hkind hlive horder
      rw [hpart]
      exact State.partDiscard_stops hkind hlive horder _ _
    next h4 =>
    rw [if_neg h4]
    exact hroute

end Sys2Proof.Machine
end

section
/-! PROOF. O15: the token instructions (R58, R87, R91). -/

namespace Sys2Proof.Machine

open Sys2Proof

theorem exec_sett_eq (c : CoreId) (tc : BitVec 3) (y : Op2) (s : State) : exec (.sett c tc y) s = execSett c tc y s := rfl
theorem exec_rdt_eq (c : CoreId) (rd : BitVec 5) (tc : BitVec 3) (s : State) : exec (.rdt c rd tc) s = execRdt c rd tc s := rfl
theorem exec_addt_eq (c : CoreId) (tc : BitVec 3) (y : Op2) (s : State) : exec (.addt c tc y) s = execAddt c tc y s := rfl
theorem exec_waitt_eq (c : CoreId) (tc : BitVec 3) (y : Op2) (s : State) : exec (.waitt c tc y) s = execWaitt c tc y s := rfl

/-- The low half of a word is its truncation, so "value" of format T reads the same either way. -/
theorem Core.tval_eq (k : Core) (y : Op2) :
    k.tval y = (match y with | .reg ra => (k.s ra.toNat).extractLsb' 0 32 | .imm i => i) := by
  cases y with
  | reg ra => exact BitVec.setWidth_eq_extractLsb' (by decide)
  | imm i => rfl

/-- Setting a token counter of a core and going on changes nothing else. -/
theorem wroteT_setTok (s : State) (c : Nat) (tc : BitVec 3) (v : Core → BitVec 32) :
    SetsT s ((s.stepDone c).modCore c (fun k => (k.setTok tc.toNat (v k)).step8)) c tc (v (s.core c).stepUsed) ∧
    WroteT s ((s.stepDone c).modCore c (fun k => (k.setTok tc.toNat (v k)).step8)) c := by
  refine ⟨fun r => ?_, ⟨onlyCore_modCore _ _ _, ?_⟩, ?_, ?_⟩
  · rw [State.core_stepDone_modCore, Core.tok_step8, Core.tok_setTok, Core.tok_stepUsed]
  all_goals rw [State.core_stepDone_modCore]; rfl

/-- The second of two writes of one key is the one that counts. -/
theorem FMap.set_set {α : Type} (m : FMap α) (k : Nat) (v w : α) : FMap.set (FMap.set m k v) k w = FMap.set m k w := by
  induction m with
  | nil => simp [FMap.set]
  | cons e m ih =>
    obtain ⟨j, u⟩ := e
    by_cases hlt : k < j
    · simp [FMap.set, hlt]
    · by_cases heq : j = k
      · simp [FMap.set, heq]
      · simp [FMap.set, hlt, heq, ih]

/-- Two updates of one core are one. -/
theorem State.modCore_twice (s : State) (c : Nat) (f g : Core → Core) :
    (s.modCore c f).modCore c g = s.modCore c (fun k => g (f k)) := by
  rw [State.modCore, State.core_modCore_self, State.setCore, State.modCore, State.setCore, State.modCore, State.setCore, FMap.set_set]

/-- A fault of a sequencer as its token counter is set: the debug step may be used up before or after. -/
theorem seqFaulted_setTok (s : State) (c tc code : Nat) (v : BitVec 32) :
    SeqFaulted (s.modCore c (·.setTok tc v)) (((s.stepDone c).modCore c (·.setTok tc v)).seqFault c code 0) c code := by
  have hcomm : (s.stepDone c).modCore c (·.setTok tc v) = (s.modCore c (·.setTok tc v)).stepDone c := by
    rw [State.stepDone, State.stepDone, State.modCore_twice, State.modCore_twice]
    rfl
  rw [hcomm]
  exact seqFaulted_seqFault _ c code 0

section
variable {s : State} {c : CoreId} {tc : BitVec 3} {y : Op2}

theorem exec_addt_fits (h : s.Ready c) (hfit : ((s.core c.val).tok tc.toNat).toNat + ((s.core c.val).tval y).toNat < 2 ^ 32) :
    exec (.addt c tc y) s = .next ((s.stepDone c.val).modCore c.val
      (fun k => (k.setTok tc.toNat (k.tok tc.toNat + k.tval y)).step8)) := by
  rw [exec_addt_eq, execAddt, State.seqRun_ready h]
  dsimp only
  rw [State.core_stepDone, Core.tok_stepUsed, Core.tval_stepUsed, if_pos hfit]

theorem exec_addt_overflows (h : s.Ready c) (hover : 2 ^ 32 ≤ ((s.core c.val).tok tc.toNat).toNat + ((s.core c.val).tval y).toNat) :
    exec (.addt c tc y) s = .next (((s.stepDone c.val).modCore c.val (·.setTok tc.toNat 0xFFFFFFFF)).seqFault c.val codeTokenOvf 0) := by
  rw [exec_addt_eq, execAddt, State.seqRun_ready h]
  dsimp only
  rw [State.core_stepDone, Core.tok_stepUsed, Core.tval_stepUsed, if_neg (Nat.not_lt.2 hover)]

/-- A counter that would pass its largest value stays there, and the sequencer stops (R91). -/
theorem exec_addt_saturates (h : s.Ready c) (hover : 2 ^ 32 ≤ ((s.core c.val).tok tc.toNat).toNat + ((s.core c.val).tval y).toNat) :
    ∃ t, exec (.addt c tc y) s = .next t ∧ SetsT s t c.val tc 0xFFFFFFFF ∧
      SeqFaulted (s.modCore c.val (fun k => k.setTok tc.toNat 0xFFFFFFFF)) t c.val codeTokenOvf := by
  refine ⟨_, exec_addt_overflows h hover, fun r => ?_, seqFaulted_setTok s c.val tc.toNat codeTokenOvf 0xFFFFFFFF⟩
  rw [State.seqFault, State.seqFaultAt, State.core_report, State.core_setCore_self, State.core_stepDone_modCore]
  show ((s.core c.val).stepUsed.setTok tc.toNat 0xFFFFFFFF).tok r = _
  rw [Core.tok_setTok, Core.tok_stepUsed]

theorem exec_waitt_goes (h : s.Ready c) (hle : ((s.core c.val).tval y).toNat ≤ ((s.core c.val).tok tc.toNat).toNat) :
    exec (.waitt c tc y) s = .next ((s.stepDone c.val).modCore c.val (·.step8)) := by
  rw [exec_waitt_eq, execWaitt, State.seqRun_ready h, State.modCore, State.modCore, State.core_stepDone]
  rw [Core.tok_stepUsed, Core.tval_stepUsed, if_pos hle]

theorem exec_waitt_stalls (h : s.Ready c) (hlt : ((s.core c.val).tok tc.toNat).toNat < ((s.core c.val).tval y).toNat) :
    exec (.waitt c tc y) s = .next ((s.stepDone c.val).modCore c.val (·.setStall (some (.waitt tc ((s.core c.val).tval y) 0)))) := by
  rw [exec_waitt_eq, execWaitt, State.seqRun_ready h, State.modCore, State.modCore, State.core_stepDone]
  rw [Core.tok_stepUsed, Core.tval_stepUsed, if_neg (Nat.not_le.2 hlt)]

end

/-- Settles O15, instruction by instruction. -/
theorem tokenInstructionResults : Obligations.TokenInstructionResults := by
  intro s c rd tc y h
  have hrdt : exec (.rdt c rd tc) s =
      .next ((s.stepDone c.val).modCore c.val (fun k => (k.setS rd.toNat ((k.tok tc.toNat).setWidth 64)).step8)) := by
    rw [exec_rdt_eq, execRdt, State.scalar, State.scalarOp_ready h]
  have hsett : exec (.sett c tc y) s =
      .next ((s.stepDone c.val).modCore c.val (fun k => (k.setTok tc.toNat (k.tval y)).step8)) := by
    rw [exec_sett_eq, execSett, State.scalarOp_ready h]
  refine ⟨Core.tval_eq _ y, ⟨_, hsett, ?_⟩, ⟨_, hrdt, ?_⟩, fun hfit => ⟨_, exec_addt_fits h hfit, ?_⟩, exec_addt_saturates h,
    fun hle => ⟨_, exec_waitt_goes h hle, advanced_step8 s c.val⟩, fun hlt => ⟨_, exec_waitt_stalls h hlt, stalls_setStall s c.val _⟩⟩
  · simpa using wroteT_setTok s c.val tc (fun k => k.tval y)
  · exact wroteS_setS s c.val rd (fun k => (k.tok tc.toNat).setWidth 64)
  · simpa using wroteT_setTok s c.val tc (fun k => k.tok tc.toNat + k.tval y)

end Sys2Proof.Machine
end

section
/-! PROOF. O17: FENCE, SLOTQ, RDCYC, NOP and YIELD (R64, R66, R86, R87). -/

namespace Sys2Proof.Machine

open Sys2Proof

theorem exec_fence_eq (c : CoreId) (mask : BitVec 8) (s : State) : exec (.fence c mask) s = execFence c mask s := rfl
theorem exec_slotq_eq (c : CoreId) (rd ra : BitVec 5) (s : State) : exec (.slotq c rd ra) s = execSlotq c rd ra s := rfl
theorem exec_rdcyc_eq (c : CoreId) (rd : BitVec 5) (s : State) : exec (.rdcyc c rd) s = execRdcyc c rd s := rfl
theorem exec_nop_eq (c : CoreId) (s : State) : exec (.nop c) s = execNop c s := rfl
theorem exec_yield_eq (c : CoreId) (s : State) : exec (.yield c) s = execYield c s := rfl

/-- A stream holds a FENCE back when it is QUEUED or ACTIVE and its first station is in the mask. -/
theorem Core.fenced_iff {k : Core} {mask : BitVec 8} : k.fenced mask = true ↔
    ∃ n, n < 64 ∧ (k.slot n).live = true ∧ mask.getLsbD (stationOf (kindOf (k.slot n).desc)) = true := by
  simp only [Core.fenced, List.any_eq_true, mem_slotNums, Bool.and_eq_true, bit_eq_getLsbD]

section
variable {s : State} {c : CoreId}

theorem exec_fence_goes {mask : BitVec 8} (h : s.Ready c) (hf : (s.core c.val).fenced mask = false) :
    exec (.fence c mask) s = .next ((s.stepDone c.val).modCore c.val (·.step8)) := by
  have hf' : (s.core c.val).stepUsed.fenced mask = false := hf
  rw [exec_fence_eq, execFence, State.seqRun_ready h, State.modCore, State.modCore, State.core_stepDone, hf']
  rfl

theorem exec_fence_stalls {mask : BitVec 8} (h : s.Ready c) (hf : (s.core c.val).fenced mask = true) :
    exec (.fence c mask) s = .next ((s.stepDone c.val).modCore c.val (·.setStall (some (.fence mask)))) := by
  have hf' : (s.core c.val).stepUsed.fenced mask = true := hf
  rw [exec_fence_eq, execFence, State.seqRun_ready h, State.modCore, State.modCore, State.core_stepDone, hf']
  rfl

/-- What a YIELD leaves in its core: PC at the next word, the count since the last yield point at its start, and the core parking
when a pre-emption is requested and nothing pins it (R64, R66, R202, R300). -/
def Core.yielded (k : Core) (mash : Nat) : Core :=
  { k with seq := { k.seq with
    pc := k.seq.pc + 8
    yieldMark := mash
    overdueSeen := false
    parking := k.seq.preempt && !k.keeps } }

/-- A core that can issue is not parking. -/
theorem Core.parking_of_canIssue {k : Core} (h : k.canIssue = true) : k.seq.parking = false := by
  simp only [Core.canIssue, Bool.and_eq_true, Bool.not_eq_true'] at h
  obtain ⟨⟨⟨⟨-, hparking⟩, -⟩, -⟩, -⟩ := h
  exact hparking

/-- A parking core can run no instruction. -/
theorem Core.not_canIssue_of_parking {k : Core} (h : k.seq.parking = true) : k.canIssue = false := by
  simp [Core.canIssue, h]

theorem exec_yield_ready (h : s.Ready c) :
    exec (.yield c) s = .next ((s.stepDone c.val).modCore c.val (·.yielded (s.mashOf c.val))) := by
  have hpark : (s.core c.val).stepUsed.seq.parking = false := Core.parking_of_canIssue (k := s.core c.val) h.1
  rw [exec_yield_eq, execYield, State.seqRun_ready h, State.modCore, State.modCore, State.core_stepDone]
  generalize (s.core c.val).stepUsed = k at hpark
  have hmash : (s.stepDone c.val).mashOf c.val = s.mashOf c.val := rfl
  cases hk : k.seq.preempt && !k.keeps <;>
    simp [Core.yielded, Core.atYield, Core.step8, Core.setPc, hk, hmash, hpark]

end

/-- Settles O17, instruction by instruction: each but YIELD either goes to the next word with at most one s register written, or
stalls; YIELD is `Core.yielded`. -/
theorem fenceSlotqRdcycNopYieldResults : Obligations.FenceSlotqRdcycNopYieldResults := by
  intro s c rd ra mask h k waits state pinned
  have hslotq : exec (.slotq c rd ra) s = .next ((s.stepDone c.val).modCore c.val (fun k =>
      (k.setS rd.toNat (BitVec.ofNat 64 (k.slot ((k.s ra.toNat).toNat % 64)).state.code)).step8)) := by
    rw [exec_slotq_eq, execSlotq, State.scalar, State.scalarOp_ready h]
  have hrdcyc : exec (.rdcyc c rd) s = .next ((s.stepDone c.val).modCore c.val (fun k =>
      (k.setS rd.toNat (BitVec.ofNat 64 (s.mashOf c.val))).step8)) := by
    rw [exec_rdcyc_eq, execRdcyc, State.scalar, State.scalarOp_ready h]
  have hnop : exec (.nop c) s = .next ((s.stepDone c.val).modCore c.val (·.step8)) := by
    rw [exec_nop_eq, execNop, State.scalarOp_ready h]
    rfl
  refine ⟨fun hw => ⟨_, exec_fence_goes h (Bool.eq_false_iff.2 (mt Core.fenced_iff.1 hw)), advanced_step8 s c.val⟩,
    fun hw => ⟨_, exec_fence_stalls h (Core.fenced_iff.2 hw), stalls_setStall s c.val _⟩, ⟨_, hslotq, ?_⟩,
    ⟨_, hrdcyc, wroteS_setS s c.val rd (fun _ => _)⟩, ⟨_, hnop, advanced_step8 s c.val⟩, ⟨_, exec_yield_ready h, ?_⟩⟩
  · have hstate : state = (k.slot ((k.s ra.toNat).toNat % 64)).state.code := by
      cases hst : (k.slot ((k.s ra.toNat).toNat % 64)).state <;> simp only [state, hst] <;> rfl
    rw [hstate]
    exact wroteS_setS s c.val rd (fun k => BitVec.ofNat 64 (k.slot ((k.s ra.toNat).toNat % 64)).state.code)
  · refine ⟨⟨onlyCore_modCore _ _ _, ?_⟩, ?_, ?_, Core.not_canIssue_of_parking, ?_, ?_⟩ <;> rw [State.core_stepDone_modCore] <;> rfl

end Sys2Proof.Machine
end

section
/-! PROOF. O21: the issue of a stream (R51 to R53, R87, R98). -/

namespace Sys2Proof.Machine

open Sys2Proof

theorem exec_stream_eq (c : CoreId) (rs rd : BitVec 5) (ax ay az : BitVec 4) (s : State) :
    exec (.stream c rs rd ax ay az) s = execStream c rs rd ax ay az s := rfl

/-! ## The lowest free slot -/

theorem Core.lowestFree_eq_none {k : Core} : k.lowestFree = none ↔ ∀ m, m < 64 → (k.slot m).state ≠ .free := by
  simp only [Core.lowestFree, List.find?_eq_none, mem_slotNums, decide_eq_true_eq, ne_eq]

theorem Core.lowestFree_eq_some {k : Core} {n : Nat} (hn : n < 64) (hfree : (k.slot n).state = .free)
    (hleast : ∀ m, m < n → (k.slot m).state ≠ .free) : k.lowestFree = some n := by
  rw [Core.lowestFree, Core.slotNums, List.find?_range_eq_some]
  exact ⟨by simpa using hfree, List.mem_range.2 hn, by simpa using hleast⟩

/-! ## A stream that faults -/

/-- A FEED that ends changes the time from which Mash idles and nothing else (R233). -/
theorem Core.feedEnds_rest (k : Core) (n mash : Nat) : { k.feedEnds n mash with dwq := k.dwq } = k := by
  unfold Core.feedEnds
  dsimp only
  split <;> rfl

@[simp] theorem Core.seq_feedEnds (k : Core) (n mash : Nat) : (k.feedEnds n mash).seq = k.seq :=
  (congrArg Core.seq (k.feedEnds_rest n mash) :)
@[simp] theorem Core.sp_feedEnds (k : Core) (n mash : Nat) : (k.feedEnds n mash).sp = k.sp :=
  (congrArg Core.sp (k.feedEnds_rest n mash) :)
@[simp] theorem Core.slot_feedEnds (k : Core) (n mash m : Nat) : (k.feedEnds n mash).slot m = k.slot m :=
  Core.slot_congr (congrArg Core.slots (k.feedEnds_rest n mash) :) m

/-- A stream fault changes cores and report queues only. -/
theorem reportsAndCores_streamFault (s : State) (c n code a : Nat) : ReportsAndCores s (s.streamFault c n code a) :=
  (reportsAndCores_modCore _ c _).trans (reportsAndCores_report _ _)

theorem State.core_streamFault (s : State) (c n code a : Nat) : (s.streamFault c n code a).core c =
    ((s.core c).feedEnds n (s.mashOf c)).setSlot n { (s.core c).slot n with
      state := .faulted
      done := false
      blocked := false
      endedAt := if ((s.core c).slot n).state = .active then some (s.mashOf c) else ((s.core c).slot n).endedAt } := by
  rw [State.streamFault]
  dsimp only
  rw [State.core_report, State.core_modCore_self]

theorem State.core_streamFault_ne (s : State) {c d : Nat} (h : d ≠ c) (n code a : Nat) : (s.streamFault c n code a).core d = s.core d := by
  rw [State.streamFault]
  dsimp only
  rw [State.core_report, State.core_modCore, if_neg h]

/-! ## Issue -/

/-- From `s` to `t` a stream has been put into slot `n` of core `c`: what it captured, and what else stays. -/
structure Issued (c n : Nat) (x : Slot) (s t : State) : Prop where
  mem : t.hbm.mem = s.hbm.mem
  other : ∀ e, e ≠ c → t.core e = s.core e
  seq : (t.core c).seq = (s.core c).seq
  sp : (t.core c).sp = (s.core c).sp
  slot : ∀ m, m ≠ n → (t.core c).slot m = (s.core c).slot m
  captured : { (t.core c).slot n with
    state := x.state
    done := x.done
    blocked := x.blocked
    endedAt := x.endedAt } = x
  state : ((t.core c).slot n).state = .faulted ∨ ((t.core c).slot n).state = x.state

/-- The stream is put in its slot, whatever becomes of its checks. -/
theorem issued_setCore (s : State) (c n : Nat) (x : Slot) (o : Nat) :
    Issued c n x s (s.setCore c { (s.core c).setSlot n x with nextOrder := o }) where
  mem := rfl
  other e he := by rw [State.core_setCore, if_neg he]
  seq := by rw [State.core_setCore_self]; rfl
  sp := by rw [State.core_setCore_self]; rfl
  slot m hm := by
    rw [State.core_setCore_self]
    exact (Core.slot_setSlot _ n m x).trans (if_neg hm)
  captured := by
    rw [State.core_setCore_self]
    have hslot : ({ (s.core c).setSlot n x with nextOrder := o } : Core).slot n = x := Core.slot_setSlot_self _ n x
    rw [hslot]
  state := .inr (by
    rw [State.core_setCore_self]
    exact congrArg Slot.state (Core.slot_setSlot_self (s.core c) n x))

/-- A check that refuses the stream leaves what it captured. -/
theorem Issued.streamFault {c n : Nat} {x : Slot} {s t : State} (h : Issued c n x s t) (code a : Nat) :
    Issued c n x s (t.streamFault c n code a) := by
  obtain ⟨cs, r, q, heq⟩ := reportsAndCores_streamFault t c n code a
  have hcore := State.core_streamFault t c n code a
  refine ⟨?_, fun e he => (State.core_streamFault_ne t he n code a).trans (h.other e he), ?_, ?_, fun m hm => ?_, ?_,
    .inl (State.state_streamFault t c n code a)⟩
  · rw [heq]; exact h.mem
  all_goals rw [hcore]
  · exact (Core.seq_feedEnds _ _ _).trans h.seq
  · exact (Core.sp_feedEnds _ _ _).trans h.sp
  · rw [Core.slot_setSlot, if_neg hm, Core.slot_feedEnds]
    exact h.slot m hm
  · rw [Core.slot_setSlot_self]
    exact h.captured

/-- Changes outside the cores that keep the bytes of the HBM. -/
theorem Issued.modHbm {c n : Nat} {x : Slot} {s t : State} (h : Issued c n x s t) {f : Hbm → Hbm} (hf : ∀ b, (f b).mem = b.mem) :
    Issued c n x s (t.modHbm f) := ⟨(hf _).trans h.mem, h.other, h.seq, h.sp, h.slot, h.captured, h.state⟩

theorem issued_issueAt (s : State) (c n : Nat) (d : BitVec 256) (ax ay az : Word) (o : Origin) :
    Issued c n (slotOf d ax ay az (s.core c).nextOrder o) s (s.issueAt c n d ax ay az o).1 := by
  have hput := issued_setCore s c n (slotOf d ax ay az (s.core c).nextOrder o) ((s.core c).nextOrder + 1)
  unfold State.issueAt
  dsimp only
  generalize s.setCore c _ = s1 at hput ⊢
  split
  · next code a _ =>
    refine Issued.streamFault ?_ code a
    split
    · exact hput.modHbm (fun _ => rfl)
    · split
      · exact hput.modHbm (fun _ => rfl)
      · exact hput
  · refine ⟨hput.mem, fun e he => ?_, ?_, ?_, fun m hm => ?_, ?_, ?_⟩
    · rw [State.core_modCore, if_neg he]; exact hput.other e he
    all_goals rw [State.core_modCore_self]
    · exact hput.seq
    · exact hput.sp
    · exact hput.slot m hm
    · exact hput.captured
    · exact hput.state

/-! ## STREAM -/

section
variable {s : State} {c : CoreId} {rs rd : BitVec 5} {ax ay az : BitVec 4}

theorem exec_stream_ready (h : s.Ready c) (hg : groupOk rs = true) : exec (.stream c rs rd ax ay az) s =
    .next ((s.stepDone c.val).streamInto c.val rs.toNat rd.toNat ax.toNat ay.toNat az.toNat) := by
  rw [exec_stream_eq, execStream, State.groupRun, State.seqRun_ready h, if_pos hg]

theorem exec_stream_reserved (h : s.Ready c) (hg : groupOk rs = true) (hk : 13 ≤ kindOf ((s.core c.val).quad rs.toNat)) :
    exec (.stream c rs rd ax ay az) s =
      .next (((s.stepDone c.val).kindFault c.val ((s.core c.val).quad rs.toNat)).modCore c.val
        (fun k => ((k.setS rd.toNat (BitVec.allOnes 64)).setStall none).step8)) := by
  rw [exec_stream_ready h hg, State.streamInto]
  rw [State.core_stepDone, Core.quad_stepUsed, if_pos hk]

theorem exec_stream_waits (h : s.Ready c) (hg : groupOk rs = true) (hk : kindOf ((s.core c.val).quad rs.toNat) < 13)
    (hfull : (s.core c.val).lowestFree = none) : exec (.stream c rs rd ax ay az) s =
      .next ((s.stepDone c.val).modCore c.val (·.setStall (some (.stream rs rd ax ay az)))) := by
  have hfull' : (s.core c.val).stepUsed.lowestFree = none := hfull
  rw [exec_stream_ready h hg, State.streamInto]
  rw [State.core_stepDone, Core.quad_stepUsed, if_neg (Nat.not_le.2 hk), hfull']
  simp only [BitVec.ofNat_toNat, BitVec.setWidth_eq]

theorem exec_stream_issues {n : Nat} (h : s.Ready c) (hg : groupOk rs = true) (hk : kindOf ((s.core c.val).quad rs.toNat) < 13)
    (hfree : (s.core c.val).lowestFree = some n) : exec (.stream c rs rd ax ay az) s =
      .next (((s.stepDone c.val).issueAt c.val n ((s.core c.val).quad rs.toNat) ((s.core c.val).a ax.toNat) ((s.core c.val).a ay.toNat)
        ((s.core c.val).a az.toNat) .seq).1.modCore c.val
          (fun k => ((k.setS rd.toNat (BitVec.ofNat 64 n)).setStall none).step8)) := by
  have hfree' : (s.core c.val).stepUsed.lowestFree = some n := hfree
  rw [exec_stream_ready h hg, State.streamInto]
  rw [State.core_stepDone, Core.quad_stepUsed, if_neg (Nat.not_le.2 hk), hfree']
  rfl

end

/-- Writing an s register and going on past a stall. -/
theorem setsS_step8 {s t : State} {c : Nat} (rd : BitVec 5) (v : Word) (hs : ∀ r, (t.core c).s r = (s.core c).s r) :
    SetsS s (t.modCore c (fun k => ((k.setS rd.toNat v).setStall none).step8)) c rd v := by
  intro r
  rw [State.core_modCore_self, Core.s_step8]
  show ((t.core c).setS rd.toNat v).s r = _
  rw [Core.s_setS, hs]
  by_cases h : r = rd.toNat <;> simp [h]

/-- What a write of an s register and going on past a stall leave of a core. -/
theorem Core.setS_step8_rest (k : Core) (r : Nat) (v : Word) :
    (((k.setS r v).setStall none).step8).slots = k.slots ∧ (((k.setS r v).setStall none).step8).sp = k.sp ∧
    (((k.setS r v).setStall none).step8).seq.pc = k.seq.pc + 8 := by
  obtain ⟨m, hm⟩ := Core.setS_eq k r v
  rw [hm]
  exact ⟨rfl, rfl, rfl⟩

/-- Settles O21: a reserved KIND, no free slot, and the issue into the lowest free slot. -/
theorem streamIssueTakesTheLowestFreeSlot : Obligations.StreamIssueTakesTheLowestFreeSlot := by
  intro s c rs rd ax ay az h hg k d
  refine ⟨fun hres => ⟨_, exec_stream_reserved h hg hres, ?_⟩,
    fun hk hfull => ⟨_, exec_stream_waits h hg hk (Core.lowestFree_eq_none.2 hfull), stalls_setStall s c.val _⟩,
    fun n hk hn hfree hleast => ⟨_, exec_stream_issues h hg hk (Core.lowestFree_eq_some hn hfree hleast), ?_⟩⟩
  · have hcore : ((s.stepDone c.val).kindFault c.val ((s.core c.val).quad rs.toNat)).core c.val = k.stepUsed := by
      rw [State.kindFault, State.core_report, State.core_stepDone]
    obtain ⟨hslots, -, hpc⟩ := k.stepUsed.setS_step8_rest rd.toNat (BitVec.allOnes 64)
    refine ⟨setsS_step8 rd _ (fun r => by rw [hcore, Core.s_stepUsed]), ?_, ?_⟩ <;> rw [State.core_modCore_self, hcore]
    · exact hslots
    · exact hpc
  · have hi := issued_issueAt (s.stepDone c.val) c.val n d (k.a ax.toNat) (k.a ay.toNat) (k.a az.toNat) .seq
    generalize ((s.stepDone c.val).issueAt c.val n d (k.a ax.toNat) (k.a ay.toNat) (k.a az.toNat) .seq).1 = t at hi ⊢
    obtain ⟨hmem, hother, hseq, hsp, hslot, hcap, hstate⟩ := hi
    rw [State.core_stepDone] at hseq hsp hslot
    obtain ⟨hslots, hsp', hpc⟩ := (t.core c.val).setS_step8_rest rd.toNat (BitVec.ofNat 64 n)
    have hslots' : ∀ m, ((((t.core c.val).setS rd.toNat (BitVec.ofNat 64 n)).setStall none).step8).slot m = (t.core c.val).slot m :=
      Core.slot_congr hslots
    refine ⟨setsS_step8 rd _ (fun r => ?_), ?_, fun m hm => ?_, ?_, hmem, fun e he => ?_, ?_⟩
    · rw [Core.s, Core.s, hseq]; rfl
    · rw [State.core_modCore_self, hpc, hseq]; rfl
    · rw [State.core_modCore_self, hslots']; exact hslot m hm
    · rw [State.core_modCore_self, hsp']; exact hsp
    · rw [State.core_modCore, if_neg he, hother e he, State.core_stepDone_ne s he]
    · rw [State.core_modCore_self, hslots']
      refine ⟨congrArg Slot.desc hcap, congrArg Slot.auxBase hcap, fun h3 => ?_, fun h3 => ?_, hstate⟩
      · exact (congrArg Slot.srcBase hcap :).trans (if_neg h3)
      · exact (congrArg Slot.dstBase hcap :).trans (if_neg h3)

end Sys2Proof.Machine
end

section
/-! PROOF. O35: gates, counted tiles, completion, and the freeing of slots (R50, R53, R57 to R59, R372, R381). -/

namespace Sys2Proof.Machine

open Sys2Proof

theorem exec_gateOpen_eq (r : StreamRef) (s : State) : exec (.gateOpen r) s = execGateOpen r s := rfl
theorem exec_streamTileWritten_eq (r : StreamRef) (s : State) : exec (.streamTileWritten r) s = execStreamTileWritten r s := rfl
theorem exec_streamComplete_eq (r : StreamRef) (s : State) : exec (.streamComplete r) s = execStreamComplete r s := rfl
theorem exec_slotFreed_eq (r : StreamRef) (s : State) : exec (.slotFreed r) s = execSlotFreed r s := rfl

/-! ## A counter below its largest value -/

theorem Core.tokFull_eq_false {k : Core} {t : Nat} (h : (k.tok t).toNat ≠ 0xFFFFFFFF) : k.tokFull t = false := decide_eq_false h

theorem Core.tok_incTok_below {k : Core} {t : Nat} (h : (k.tok t).toNat ≠ 0xFFFFFFFF) (q : Nat) :
    (k.incTok t).tok q = if q = t then k.tok q + 1 else k.tok q := by
  rw [Core.tok_incTok]
  by_cases hq : q = t
  · subst hq
    have hne : k.tok q ≠ 0xFFFFFFFF := fun he => h (congrArg BitVec.toNat he)
    rw [if_pos ⟨rfl, hne⟩, if_pos rfl]
  · simp [hq]

theorem Core.tok_congr {k j : Core} (h : j.seq = k.seq) (q : Nat) : j.tok q = k.tok q := by rw [Core.tok, Core.tok, h]

/-! ## Aborts that waited (R156) -/

/-- A core differs in Mash, and in the bytes and marks of its scratchpad, at most in what a group's closing touches. -/
def ClosedGroups (k j : Core) : Prop :=
  { j with mash := k.mash, sp := { j.sp with liveRows := k.sp.liveRows } } = k

theorem ClosedGroups.refl (k : Core) : ClosedGroups k k := rfl

theorem ClosedGroups.trans {k j i : Core} (h : ClosedGroups k j) (g : ClosedGroups j i) : ClosedGroups k i := by
  have e := congrArg (fun x : Core => { x with mash := k.mash, sp := { x.sp with liveRows := k.sp.liveRows } }) g
  exact e.trans h

theorem closedGroups_settleAborts (k : Core) : ClosedGroups k k.settleAborts := by
  unfold Core.settleAborts
  induction List.range 16 generalizing k with
  | nil => exact .refl k
  | cons g l ih =>
    rw [List.foldl_cons]
    refine ClosedGroups.trans ?_ (ih _)
    split
    · exact rfl
    · exact .refl k

/-! ## A slot given back -/

/-- A slot of the sequencer given back: it is FREE, and what else of the core stays. -/
theorem Core.freeSlot_seq {k : Core} {n : Nat} (ho : (k.slot n).origin = .seq) (bad : Bool) :
    ClosedGroups (k.setSlot n {}) (k.freeSlot n bad) := by
  have hdrop : k.dwqDrop (k.slot n) n bad = k := by rw [Core.dwqDrop, ho]
  rw [Core.freeSlot, hdrop]
  exact closedGroups_settleAborts _

/-- What giving back a slot leaves of its core. -/
theorem ClosedGroups.freed {k j : Core} {n : Nat} (h : ClosedGroups (k.setSlot n {}) j) :
    (∀ m, m ≠ n → j.slot m = k.slot m) ∧ j.slot n = {} ∧ j.seq = k.seq ∧ j.sp.mem = k.sp.mem := by
  have hslots : j.slots = (k.setSlot n {}).slots := (congrArg Core.slots h :)
  refine ⟨fun m hm => ?_, ?_, (congrArg Core.seq h :), (congrArg (fun i : Core => i.sp.mem) h :)⟩
  · rw [Core.slot_congr hslots, Core.slot_setSlot, if_neg hm]
  · rw [Core.slot_congr hslots, Core.slot_setSlot_self]

/-- Charging engine time and updating one core leave everything else but the accounts alone. -/
theorem acctEngine_modCore (s : State) (c cl : Nat) (x : Slot) (f : Core → Core) :
    { (s.acctEngine c cl x).modCore c f with cores := s.cores, glob := s.glob } = s ∧
    { ((s.acctEngine c cl x).modCore c f).glob with acct := s.glob.acct } = s.glob ∧
    (∀ e, e ≠ c → ((s.acctEngine c cl x).modCore c f).core e = s.core e) ∧
    ((s.acctEngine c cl x).modCore c f).core c = f (s.core c) := by
  obtain ⟨m, hm⟩ := s.acctEngine_eq c cl x
  rw [hm]
  refine ⟨rfl, rfl, fun e he => ?_, ?_⟩
  · rw [State.core_modCore, if_neg he]; rfl
  · rw [State.core_modCore_self]; rfl

/-! ## The commands -/

section
variable {s : State} {r : StreamRef}

theorem exec_gateOpen_opens (hst : ((s.core r.core.val).slot r.slot.val).state = .gated) (hp : (s.core r.core.val).seq.parked = false)
    (hw : ((s.core r.core.val).slot r.slot.val).withdrawn = false)
    (hv : dGatev ((s.core r.core.val).slot r.slot.val).desc ≤
      ((s.core r.core.val).tok (dGatet ((s.core r.core.val).slot r.slot.val).desc)).toNat) :
    exec (.gateOpen r) s = .next (s.setCore r.core.val ((s.core r.core.val).setSlot r.slot.val
      { (s.core r.core.val).slot r.slot.val with state := .queued })) := by
  rw [exec_gateOpen_eq, execGateOpen]
  simp [hst, hp, hw, hv, Core.gatesLive, Core.gateOpens]

theorem exec_streamTileWritten_counts (hst : ((s.core r.core.val).slot r.slot.val).state = .active)
    (hc : ((s.core r.core.val).slot r.slot.val).countsTiles = true)
    (ht : ((s.core r.core.val).slot r.slot.val).tiles < ((s.core r.core.val).slot r.slot.val).tilesWritten)
    (hv : ((s.core r.core.val).tok (dTokt ((s.core r.core.val).slot r.slot.val).desc)).toNat ≠ 0xFFFFFFFF) :
    exec (.streamTileWritten r) s = .next (s.setCore r.core.val (((s.core r.core.val).setSlot r.slot.val
      { (s.core r.core.val).slot r.slot.val with tiles := ((s.core r.core.val).slot r.slot.val).tiles + 1 }).incTok
        (dTokt ((s.core r.core.val).slot r.slot.val).desc))) := by
  rw [exec_streamTileWritten_eq, execStreamTileWritten]
  simp [hst, hc, ht, Core.tokFull_eq_false hv]

/-- The core as a stream that completes leaves it, before its slot is given back. -/
def Core.counted (k : Core) (n mash : Nat) : Core :=
  (if dTken (k.slot n).desc && !dTkev (k.slot n).desc then k.incTok (dTokt (k.slot n).desc) else k).feedEnds n mash

theorem exec_streamComplete_frees (hc : (s.core r.core.val).completable ((s.core r.core.val).slot r.slot.val) = true)
    (hv : dTken ((s.core r.core.val).slot r.slot.val).desc = true → dTkev ((s.core r.core.val).slot r.slot.val).desc = false →
      ((s.core r.core.val).tok (dTokt ((s.core r.core.val).slot r.slot.val).desc)).toNat ≠ 0xFFFFFFFF) :
    exec (.streamComplete r) s = .next ((s.acctEngine r.core.val (s.core r.core.val).client
      ((s.core r.core.val).slot r.slot.val)).modCore r.core.val
        (fun _ => ((s.core r.core.val).counted r.slot.val (s.mashOf r.core.val)).freeSlot r.slot.val false)) := by
  have hfull : (dTken ((s.core r.core.val).slot r.slot.val).desc && !dTkev ((s.core r.core.val).slot r.slot.val).desc &&
      (s.core r.core.val).tokFull (dTokt ((s.core r.core.val).slot r.slot.val).desc)) = false := by
    cases hken : dTken ((s.core r.core.val).slot r.slot.val).desc
    · rfl
    · cases hkev : dTkev ((s.core r.core.val).slot r.slot.val).desc
      · rw [Core.tokFull_eq_false (hv hken hkev)]; rfl
      · rfl
  have hcore : (s.acctEngine r.core.val (s.core r.core.val).client ((s.core r.core.val).slot r.slot.val)).core r.core.val =
      s.core r.core.val := by
    obtain ⟨m, hm⟩ := s.acctEngine_eq r.core.val (s.core r.core.val).client ((s.core r.core.val).slot r.slot.val)
    rw [hm]; rfl
  rw [exec_streamComplete_eq, execStreamComplete]
  dsimp only
  rw [if_pos hc, hfull, if_neg Bool.false_ne_true, State.modCore, State.modCore, hcore, Core.counted]

theorem exec_slotFreed_frees (hst : ((s.core r.core.val).slot r.slot.val).state = .faulted)
    (ht : ((s.core r.core.val).slot r.slot.val).taken = true) :
    exec (.slotFreed r) s = .next ((s.acctEngine r.core.val (s.core r.core.val).client
      ((s.core r.core.val).slot r.slot.val)).modCore r.core.val (fun k => k.freeSlot r.slot.val true)) := by
  rw [exec_slotFreed_eq, execSlotFreed]
  simp [hst, ht]

end

/-- The counters, the slots and the rest of the sequencer as a stream completes. -/
theorem Core.counted_rest (k : Core) (n mash : Nat) : (∀ m, (k.counted n mash).slot m = k.slot m) ∧
    { (k.counted n mash).seq with t := k.seq.t } = k.seq ∧ (k.counted n mash).sp = k.sp := by
  unfold Core.counted
  split
  · refine ⟨fun m => ?_, ?_, ?_⟩
    · rw [Core.slot_feedEnds]; rfl
    · rw [Core.seq_feedEnds]; rfl
    · rw [Core.sp_feedEnds]; rfl
  · refine ⟨fun m => ?_, ?_, ?_⟩
    · rw [Core.slot_feedEnds]
    · rw [Core.seq_feedEnds]
    · rw [Core.sp_feedEnds]

theorem Core.tok_counted (k : Core) (n mash q : Nat)
    (hv : dTken (k.slot n).desc = true → dTkev (k.slot n).desc = false → (k.tok (dTokt (k.slot n).desc)).toNat ≠ 0xFFFFFFFF) :
    (k.counted n mash).tok q =
      if q = dTokt (k.slot n).desc ∧ dTken (k.slot n).desc = true ∧ dTkev (k.slot n).desc = false then k.tok q + 1 else k.tok q := by
  have hfeed : ∀ (j : Core), (j.feedEnds n mash).tok q = j.tok q := fun j => Core.tok_congr (j.seq_feedEnds n mash) q
  unfold Core.counted
  rw [hfeed]
  by_cases hinc : (dTken (k.slot n).desc && !dTkev (k.slot n).desc) = true
  · obtain ⟨hken, hkev⟩ : dTken (k.slot n).desc = true ∧ dTkev (k.slot n).desc = false := by simpa using hinc
    rw [if_pos hinc, Core.tok_incTok_below (hv hken hkev)]
    simp [hken, hkev]
  · rw [if_neg hinc, if_neg (fun h => hinc (by simp [h.2.1, h.2.2]))]

/-- Settles O35, event by event. -/
theorem slotEventsTakeEffect : Obligations.SlotEventsTakeEffect := by
  intro s r c n k x d others
  refine ⟨fun hst hp hw hv => ⟨_, exec_gateOpen_opens hst hp hw hv, onlyCore_setCore s c _, ?_, fun m hm => ?_, ?_⟩,
    fun hst hken hkev ht hv => ⟨_, exec_streamTileWritten_counts hst (Bool.and_eq_true_iff.2 ⟨hken, hkev⟩) ht hv,
      onlyCore_setCore s c _, fun m hm => ?_, ?_, fun q => ?_, ?_, ?_⟩,
    fun hc ho hv => ⟨_, exec_streamComplete_frees hc hv, ?_⟩, fun hst ht ho => ⟨_, exec_slotFreed_frees hst ht, ?_⟩⟩
  · rw [State.core_setCore_self]; rfl
  · rw [State.core_setCore_self, Core.slot_setSlot, if_neg hm]
  · rw [State.core_setCore_self, Core.slot_setSlot_self]
  · rw [State.core_setCore_self]
    exact (Core.slot_setSlot _ _ _ _).trans (if_neg hm)
  · rw [State.core_setCore_self]
    exact Core.slot_setSlot_self _ _ _
  · rw [State.core_setCore_self]
    exact Core.tok_incTok_below (k := k.setSlot n _) hv q
  · rw [State.core_setCore_self]; rfl
  · rw [State.core_setCore_self]; rfl
  · obtain ⟨hrest, hacct, hother, hcore⟩ := acctEngine_modCore s c k.client x
      (fun _ => (k.counted n (s.mashOf c)).freeSlot n false)
    obtain ⟨hslot, hseq, hsp⟩ := k.counted_rest n (s.mashOf c)
    obtain ⟨hfslot, hfree, hfseq, hfmem⟩ := (Core.freeSlot_seq (k := k.counted n (s.mashOf c)) (n := n) ((congrArg Slot.origin (hslot n)).trans ho) false).freed
    refine ⟨hrest, hacct, hother, fun m hm => ?_, ?_, fun q => ?_, ?_, ?_⟩ <;> rw [hcore]
    · exact (hfslot m hm).trans (hslot m)
    · exact hfree
    · rw [Core.tok_congr hfseq q]; exact k.tok_counted n (s.mashOf c) q hv
    · rw [hfseq]; exact hseq
    · exact hfmem.trans (congrArg Scratch.mem hsp)
  · obtain ⟨hrest, hacct, hother, hcore⟩ := acctEngine_modCore s c k.client x (fun k => k.freeSlot n true)
    obtain ⟨hfslot, hfree, hfseq, hfmem⟩ := (Core.freeSlot_seq (k := k) (n := n) ho true).freed
    refine ⟨hrest, hacct, hother, fun m hm => ?_, ?_, ?_, ?_⟩ <;> rw [hcore]
    · exact hfslot m hm
    · exact hfree
    · exact hfseq
    · rw [show s.core c = k from rfl]; exact hfmem

end Sys2Proof.Machine
end

section
/-! PROOF. O31: a stationary FEED of an enforced kernel. The clause on ROLE 0 does not exclude a kernel of an enforced model that
runs with RESCHK 0, whose streams Mash faults with SAFETY_MODE as it accepts them (R452); the clause on ROLE 1 excludes it with
the acceptance checks of R154. -/

namespace Sys2Proof.Machine

open Sys2Proof

/-- Core 0 runs a kernel of an enforced model with residue checking off, and a ROLE 0 FEED of one FP32 element waits in slot 0. -/
def uncheckedFeed : State :=
  { State.reset with cores := [(0, {
      seq := { kernel := some { part := 0, kid := 1, inst := 0, width := 1, resv := false, enforced := true, client := 1 } }
      slots := [(0, { state := .queued, desc := 1 })]
      mash := { resChk := false } })] }

theorem uncheckedFeed_taken : uncheckedFeed.Taken 0 0 1 := ⟨by decide, by decide, fun e he => absurd he List.not_mem_nil⟩

theorem uncheckedFeed_source : uncheckedFeed.OperandOk 0 0 false 0 0 0 1 1 0 0 := by
  intro i hi
  obtain rfl : i = 0 := by omega
  exact ⟨by show uncheckedFeed.runFault 0 [] _ _ = none; decide, fun h => absurd h (by decide)⟩

theorem exec_stationaryFeed_faults :
    ∃ t, exec (.stationaryFeed ⟨0, 0⟩) uncheckedFeed = .next t ∧ ((t.core 0).slot 0).state = .faulted :=
  ⟨_, rfl, by decide⟩

/-- Refutes O31 with `uncheckedFeed`: every condition of the clause on ROLE 0 holds, and the stream is FAULTED. -/
theorem not_feedsRunToTheirEnd : ¬ Obligations.FeedsRunToTheirEnd := by
  intro h
  obtain ⟨hstat, -⟩ := h uncheckedFeed ⟨0, 0⟩ uncheckedFeed_taken (by decide) (fun ht => absurd ht (by decide))
  obtain ⟨t, st, ht, ⟨hs, -⟩, -⟩ := hstat (by decide) uncheckedFeed_source
  obtain ⟨u, hu, hfault⟩ := exec_stationaryFeed_faults
  cases hu.symm.trans ht
  obtain ⟨-, -, -, -, -, hactive, -⟩ := hs
  cases hfault.symm.trans hactive

end Sys2Proof.Machine
end

section
/-! PROOF. O29: STORE and UNSTASH (R97, R241, R245, R433). -/

namespace Sys2Proof.Machine

open Sys2Proof

theorem exec_store_eq (r : StreamRef) (s : State) : exec (.store r) s = execStore r s := rfl
theorem exec_unstash_eq (r : StreamRef) (s : State) : exec (.unstash r) s = execUnstash r s := rfl

/-! ## Rows -/

@[simp] theorem codesOf_length (fmt n : Nat) (bs : List Byte) : (codesOf fmt n bs).length = n := by simp [codesOf]

@[simp] theorem rowVals_length (fmt : Nat) (cs scales : List Nat) : (rowVals fmt cs scales).length = cs.length := by
  unfold rowVals
  split <;> simp

@[simp] theorem Mv.readRow_length (m : Mv) (c space : Nat) (own : List Nat) (last : Bool) (a fmt n : Nat) :
    (m.readRow c space own last a fmt n).2.length = n := codesOf_length _ _ _

/-- A row read with its scales has its codes, whatever becomes of the read. -/
@[simp] theorem Mv.readRowMx_length (m : Mv) (c space : Nat) (own : List Nat) (last : Bool) (a fmt n sa : Nat) :
    (m.readRowMx c space own last a fmt n sa).2.1.length = n := by
  unfold Mv.readRowMx
  split <;> exact codesOf_length _ _ _

/-- A row written to an accessible run of HBM whose bytes lie in `q`. -/
theorem Good.writeRowHbm {c n : Nat} {P q : Nat → Prop} {s : State} {m : Mv} (h : Good c n P (some q) s m) {own : List Nat} {a fmt : Nat}
    {cs : List Nat} (ok : s.HbmOk c true a (rowBytes fmt cs.length)) (hq : ∀ i, i < rowBytes fmt cs.length → q (a + i)) :
    Good c n P (some q) s (m.writeRow c 1 own a fmt cs) := by
  unfold Mv.writeRow Mv.write
  rw [if_neg Nat.one_ne_zero]
  refine h.writeHbm ?_ (fun i hi => hq i ?_)
  · rw [bytesOf_length]; exact ok
  · rwa [bytesOf_length] at hi

/-! ## Acceptance -/

/-- The state in which the station of slot `n` has accepted its stream (R381). -/
def State.accepted (s : State) (c n : Nat) : State :=
  s.modCore c (fun k => k.setSlot n { (s.core c).slot n with acceptedAt := s.mashOf c })

theorem State.accepted_frame (s : State) (c n : Nat) (P : Nat → Prop) (Q : Option (Nat → Prop)) : Frame c n P Q s (s.accepted c n) :=
  accept_frame s c n P Q

theorem State.core_accepted (s : State) (c n : Nat) :
    (s.accepted c n).core c = (s.core c).setSlot n { (s.core c).slot n with acceptedAt := s.mashOf c } := State.core_modCore_self s c _

/-- A stream of the row's kind that its station can take is accepted. -/
theorem State.accept_eq {s : State} {c n : Nat} {mine : BitVec 256 → Bool} (hm : mine ((s.core c).slot n).desc = true)
    (ha : (s.core c).acceptable n = true) (f : State → Slot → State) :
    s.accept c n mine f = f (s.accepted c n) ((s.core c).slot n) := accept_runs hm ha f

theorem Good.accepted (s : State) (c n : Nat) (P : Nat → Prop) (Q : Option (Nat → Prop)) : Good c n P Q s { s := s.accepted c n } :=
  ⟨rfl, s.accepted_frame c n P Q⟩

/-- A stream that faults as it is accepted has moved nothing (R74). A FEED that ends also restarts the idle time of Mash. -/
theorem streamStopped_accepted {s : State} {c n : Nat} (hk : kindOf ((s.core c).slot n).desc ≠ 1) (code a : Nat) :
    StreamStopped s ((s.accepted c n).streamFault c n code a) c n code := by
  have hcore := (s.accepted c n).core_streamFault c n code a
  have hdesc : ((s.accepted c n).core c).slot n = { (s.core c).slot n with acceptedAt := s.mashOf c } := by
    rw [State.core_accepted, Core.slot_setSlot_self]
  have hends : ∀ mash, ((s.accepted c n).core c).feedEnds n mash = (s.accepted c n).core c := fun mash => by
    rw [Core.feedEnds]
    simp [hdesc, hk]
  rw [hends] at hcore
  refine ⟨State.state_streamFault _ c n code a, ⟨_, rfl, rfl, rfl, seqReported_report s _ _ rfl rfl rfl⟩, fun m hm => ?_, ?_, ⟨?_, fun d hd => ?_⟩⟩
  · rw [hcore, Core.slot_setSlot, if_neg hm, State.core_accepted, Core.slot_setSlot, if_neg hm]
  · rw [hcore, State.core_accepted]; rfl
  · exact State.report_rest' _ s _
  · exact (State.core_streamFault_ne _ hd n code a).trans ((s.accepted_frame c n (fun _ => False) none).other d hd)

/-! ## The movements -/

section
variable {c n : Nat} {P q : Nat → Prop} {s t : State} {x : Slot}

/-- A STORE moves all its rows. -/
theorem storeMove_good (ht : Frame c n P (some q) s t) (hs : s.SpSound c)
    (hsrc : s.RowsOk c [] x.srcBase (dSstr x.desc) (rowBytes (dSfmt x.desc) (dCols x.desc)) (dTiles x.desc * dRows x.desc))
    (hdst : ∀ i, i < dTiles x.desc * dRows x.desc →
      s.HbmOk c true (rowAddr 1 x.dstBase (dDstr x.desc) i) (rowBytes (dDfmt x.desc) (dCols x.desc)))
    (hq : ∀ i j, i < dTiles x.desc * dRows x.desc → j < rowBytes (dDfmt x.desc) (dCols x.desc) →
      q (rowAddr 1 x.dstBase (dDstr x.desc) i + j)) : Good c n P (some q) s (t.storeMove c x) := by
  refine Good.foldl ⟨rfl, ht⟩ (fun m i hi hm => ?_)
  have hi' := List.mem_range.1 hi
  have hread := (hm.readRow hs (hsrc i hi') (dLast x.desc)).1
  refine (hread.writeRowHbm ?_ (fun j hj => hq i j hi' ?_)).rowDone x.desc i
  · rw [Mv.readRow_length]; exact hdst i hi'
  · rwa [Mv.readRow_length] at hj

/-- An UNSTASH moves all its rows. -/
theorem unstashMove_good (ht : Frame c n P (some q) s t) (hs : s.SpSound c)
    (hsrc : s.OperandOk c 1 false x.srcBase (dSstr x.desc) (dSfmt x.desc) (dCols x.desc) (dTiles x.desc * dRows x.desc) x.auxBase
      (sScstr x.desc))
    (hdst : s.RowsOk c [] x.dstBase (dDstr x.desc) (rowBytes (dDfmt x.desc) (dCols x.desc)) (dTiles x.desc * dRows x.desc))
    (hP : ∀ a, InRows x.dstBase (dDstr x.desc) (rowBytes (dDfmt x.desc) (dCols x.desc)) (dTiles x.desc * dRows x.desc) a → P a) :
    Good c n P (some q) s (t.unstashMove c x) := by
  refine Good.foldl ⟨rfl, ht⟩ (fun m i hi hm => ?_)
  have hi' := List.mem_range.1 hi
  have hread := hm.readRowMx hs hsrc hi' false
  refine ((hread.raise 6 _).writeRow ?_ (fun a ha => hP a ⟨i, hi', ?_⟩)).rowDone x.desc i
  · rw [List.length_map, apply_ite List.length]
    simpa using hdst i hi'
  · rw [List.length_map, apply_ite List.length] at ha
    simpa using ha

end

/-- Settles O29: STORE and UNSTASH move row by row inside the frame of their destination; a read of discarded bytes of a spilled epoch
stops UNSTASH before its first row. -/
theorem storeAndUnstashRunToTheirEnd : Obligations.StoreAndUnstashRunToTheirEnd := by
  intro s r c n x d rows
  have hepoch : ((s.accepted c n).core c).curEpoch = (s.core c).curEpoch := by rw [State.core_accepted]; rfl
  refine ⟨fun ⟨hk, ha, hs⟩ hfmt hsrc hdst => ⟨_, ?_, Good.finishH (storeMove_good (s.accepted_frame c n _ _) hs hsrc hdst ?_)⟩,
    fun ⟨hk, ha, hs⟩ hspill hsrc hdst => ⟨_, ?_, Good.finishH (unstashMove_good (s.accepted_frame c n _ _) hs hsrc hdst (fun _ h => h))⟩,
    fun ⟨hk, ha, hs⟩ hspill => ⟨_, ?_, streamStopped_accepted (fun h1 => by rw [h1] at hk; cases hk) _ x.srcBase⟩⟩
  · rw [exec_store_eq, execStore, State.accept_eq (decide_eq_true hk) ha]
  · exact fun i j hi hj => ⟨i, hi, Nat.le_add_right _ _, Nat.add_lt_add_left hj _⟩
  · rw [exec_unstash_eq, execUnstash, State.accept_eq (decide_eq_true hk) ha, hepoch, if_neg (by rw [hspill]; exact Bool.false_ne_true)]
  · rw [exec_unstash_eq, execUnstash, State.accept_eq (decide_eq_true hk) ha, hepoch, if_pos hspill]

end Sys2Proof.Machine
end

section
/-! PROOF. LOAD (R67, R69, R97, R543): what a movement that only reads leaves as it was, the tiles it delivers, and their rows. -/

namespace Sys2Proof.Machine

open Sys2Proof

theorem exec_loadStream_eq (r : StreamRef) (s : State) : exec (.loadStream r) s = execLoadStream r s := rfl

/-! ## Frames -/

/-- A movement that may write more is in the frame of one that may write less. -/
theorem Frame.mono {c n : Nat} {P P' q q' : Nat → Prop} {s t : State} (h : Frame c n P (some q) s t) (hP : ∀ a, P a → P' a)
    (hq : ∀ a, q a → q' a) : Frame c n P' (some q') s t where
  rest := h.rest
  hbm := by
    obtain ⟨hrest, hmarks, hmem, hglob, hfab⟩ := h.hbm
    exact ⟨hrest, hmarks, fun a ha => hmem a (fun b hb => ha b (hq b hb)), hglob, hfab⟩
  other := h.other
  keep := h.keep
  slot := h.slot
  desc := h.desc
  chan := h.chan
  err := h.err
  mem := fun a ha => h.mem a (fun hp => ha (hP a hp))

/-- A movement that starts in the frame of another. -/
theorem Good.after {c n : Nat} {P : Nat → Prop} {Q : Option (Nat → Prop)} {s t : State} {m : Mv} (hm : Good c n P Q t m)
    (ht : Frame c n P Q s t) : Good c n P Q s m := ⟨hm.1, ht.trans hm.2⟩

/-- Nothing is written. -/
abbrev ReadOnly (c n : Nat) (s : State) (m : Mv) : Prop := Good c n (fun _ => False) (some (fun _ => False)) s m

theorem ReadOnly.good {c n : Nat} {P q : Nat → Prop} {s : State} {m : Mv} (h : ReadOnly c n s m) : Good c n P (some q) s m :=
  ⟨h.1, h.2.mono (fun _ => False.elim) (fun _ => False.elim)⟩

theorem Frame.runOk {c n : Nat} {P q : Nat → Prop} {s t : State} (h : Frame c n P (some q) s t) {space a k : Nat} {w : Bool}
    (ok : s.RunOk c space w a k) : t.RunOk c space w a k := by
  unfold State.RunOk at ok ⊢
  split
  · next h0 => rw [if_pos h0] at ok; rw [h.runFault]; exact ok
  · next h0 => rw [if_neg h0] at ok; exact h.hbmOk ok

theorem Frame.operandOk {c n : Nat} {P q : Nat → Prop} {s t : State} (h : Frame c n P (some q) s t)
    {space base str fmt cols rows aux scStr : Nat} {w : Bool} (ok : s.OperandOk c space w base str fmt cols rows aux scStr) :
    t.OperandOk c space w base str fmt cols rows aux scStr :=
  fun i hi => ⟨h.runOk (ok i hi).1, fun hm => h.runOk ((ok i hi).2 hm)⟩

/-- Bytes read as they stand are the same after a movement that only reads. -/
theorem Frame.peek {c n : Nat} {s t : State} (h : Frame c n (fun _ => False) (some (fun _ => False)) s t) (space a k : Nat) :
    t.peek c space a k = s.peek c space a k := by
  have hsp : ∀ x, memByte (t.core c).sp.mem x = memByte (s.core c).sp.mem x := fun x => h.mem x id
  have hhbm : ∀ x, t.hbm.byte x = s.hbm.byte x := fun x => by
    obtain ⟨-, -, hmem, -, -⟩ := h.hbm
    rw [Hbm.byte, Hbm.byte, HbmMoved.key h.hbm]
    cases s.hbm.key x with
    | none => rfl
    | some y => exact hmem y (fun _ hb => hb.elim)
  unfold State.peek
  split
  · simp only [Core.spRead, memRead, hsp]
  · simp only [Hbm.read, hhbm]

/-- A read of an accessible run answers the bytes as they stand. -/
theorem Good.read_value {c n : Nat} {P q : Nat → Prop} {s : State} {m : Mv} (h : Good c n P (some q) s m) (hs : s.SpSound c)
    {space a k : Nat} (ok : s.RunOk c space false a k) (last : Bool) : (m.read c space [] last a k).2 = m.s.peek c space a k := by
  unfold Mv.read State.peek
  unfold State.RunOk at ok
  by_cases h0 : space = 0
  · rw [if_pos h0] at ok ⊢; rw [if_pos h0]; exact (h.readSp hs ok last).2
  · rw [if_neg h0] at ok ⊢; rw [if_neg h0]; exact (h.readHbm ok rfl).2

/-- The scales of a row read from accessible runs, by a movement that only reads. -/
theorem readRowMx_scales {c n : Nat} {s : State} {m : Mv} (h : ReadOnly c n s m) (hs : s.SpSound c)
    {space base str fmt cols rows aux scStr i : Nat} (ok : s.OperandOk c space false base str fmt cols rows aux scStr) (hi : i < rows)
    (last : Bool) (hmx : isMx fmt = true) :
    (m.readRowMx c space [] last (rowAddr space base str i) fmt cols (scaleAddr space aux scStr i)).2.2 =
      (s.peek c space (scaleAddr space aux scStr i) (cdiv cols 32)).map (·.toNat) := by
  obtain ⟨okRow, okScale⟩ := ok i hi
  have hrow : ReadOnly c n s (m.readRow c space [] last (rowAddr space base str i) fmt cols).1 := h.read hs okRow last
  unfold Mv.readRowMx
  rw [if_pos hmx]
  dsimp only
  rw [hrow.read_value hs (okScale hmx) last, hrow.2.peek]

/-! ## Delivered tiles -/

/-- Row `r` of a source tile of scales as it stands (R47). -/
def State.scaleRow (s : State) (c : Nat) (d : BitVec 256) (aux scStr row : Nat) : List Nat :=
  (s.peek c (dSspace d) (scaleAddr (dSspace d) aux scStr row) (cdiv (dCols d) 32)).map (·.toNat)

/-- The tile has `rows` rows of `cols` codes and, for an MX format, as many rows of scales (R44, R109). -/
structure Tile.Fits (t : Tile) (rows cols : Nat) (mx : Bool) : Prop where
  codes : ∀ r, r < rows → (t.rows.getD r []).length = cols
  scales : mx = true → ∀ r, r < rows → (t.scales.getD r []).length = cdiv cols 32

/-- A source tile is read whole: its rows, and for an MX format its scales. -/
theorem readTile_reads {c n : Nat} {s : State} {m : Mv} (h : ReadOnly c n s m) (hs : s.SpSound c) {d : BitVec 256}
    {base aux scStr i : Nat} (hi : i < dTiles d)
    (ok : s.OperandOk c (dSspace d) false base (dSstr d) (dSfmt d) (dCols d) (dTiles d * dRows d) aux scStr) (last : Bool) :
    ReadOnly c n s (m.readTile c [] last d base aux scStr i).1 ∧
    (m.readTile c [] last d base aux scStr i).2.rows.map List.length = List.replicate (dRows d) (dCols d) ∧
    (m.readTile c [] last d base aux scStr i).2.scales =
      if isMx (dSfmt d) then (List.range (dRows d)).map (fun r => s.scaleRow c d aux scStr (i * dRows d + r)) else [] := by
  unfold Mv.readTile
  suffices key : ∀ k, k ≤ dRows d →
      let q := (List.range k).foldl (fun (acc : Mv × Tile) r =>
        let row := i * dRows d + r
        let q := acc.1.readRowMx c (dSspace d) [] last (rowAddr (dSspace d) base (dSstr d) row) (dSfmt d) (dCols d)
          (scaleAddr (dSspace d) aux scStr row)
        (q.1, (⟨acc.2.rows ++ [q.2.1], if isMx (dSfmt d) then acc.2.scales ++ [q.2.2] else []⟩ : Tile))) (m, {})
      ReadOnly c n s q.1 ∧ q.2.rows.map List.length = List.replicate k (dCols d) ∧
        q.2.scales = if isMx (dSfmt d) then (List.range k).map (fun r => s.scaleRow c d aux scStr (i * dRows d + r)) else [] from
    key _ (Nat.le_refl _)
  intro k
  induction k with
  | zero => exact fun _ => ⟨h, rfl, by simp⟩
  | succ k ih =>
    intro hk
    have hrow : i * dRows d + k < dTiles d * dRows d :=
      Nat.lt_of_lt_of_le (by rw [Nat.succ_mul]; omega : i * dRows d + k < (i + 1) * dRows d) (Nat.mul_le_mul_right _ hi)
    obtain ⟨hgood, hrows, hscales⟩ := ih (by omega)
    rw [List.range_succ, List.foldl_append, List.foldl_cons, List.foldl_nil]
    generalize List.foldl _ (m, ({} : Tile)) (List.range k) = q at hgood hrows hscales ⊢
    refine ⟨hgood.readRowMx hs ok hrow last, ?_, ?_⟩
    · simp [hrows, List.replicate_succ']
    · by_cases hmx : isMx (dSfmt d) = true
      · simp only [hmx, if_true] at hscales ⊢
        rw [hscales, readRowMx_scales hgood hs ok hrow last hmx]
        simp [State.scaleRow]
      · simp [hmx]


/-- What a fallible map over a list gives: as many results, each that of its element. -/
theorem mapM_eq_some {α β : Type} {f : α → Option β} {l : List α} {u : List β} (h : l.mapM f = some u) :
    u.length = l.length ∧ ∀ y ∈ u, ∃ x ∈ l, f x = some y := by
  induction l generalizing u with
  | nil =>
    obtain rfl : u = [] := by simpa using h.symm
    simp
  | cons x l ih =>
    simp only [List.mapM_cons, Option.pure_def, Option.bind_eq_bind, Option.bind_eq_some_iff, Option.some.injEq] at h
    obtain ⟨y, hy, v, hv, rfl⟩ := h
    obtain ⟨hlen, hall⟩ := ih hv
    refine ⟨by simp [hlen], fun z hz => ?_⟩
    rcases List.mem_cons.1 hz with rfl | hz
    · exact ⟨x, by simp, hy⟩
    · obtain ⟨w, hw, hf⟩ := hall z hz
      exact ⟨w, by simp [hw], hf⟩

/-- Scales regrouped: a row of one scale per 32 source rows for each source column (R69). -/
theorem regroup_lengths {nR nC : Nat} {sc u : List (List Nat)} (h : regroup nR nC sc = some u) :
    u.length = nC ∧ ∀ row ∈ u, row.length = cdiv nR 32 := by
  obtain ⟨hlen, hall⟩ := mapM_eq_some h
  refine ⟨by simpa using hlen, fun row hrow => ?_⟩
  obtain ⟨j, -, hj⟩ := hall row hrow
  simpa using (mapM_eq_some hj).1

/-- An element of a list by its place. -/
theorem getD_mem {α : Type} {l : List α} {r : Nat} (d : α) (h : r < l.length) : l.getD r d ∈ l := by
  rw [List.getD_eq_getElem _ _ h]
  exact List.getElem_mem h

/-- Lauter delivers a whole tile, unless it is a transposed MX tile without uniform scale groups (R67, R69). -/
theorem deliverTile_fits {trans : Bool} {fmt nR nC : Nat} {t : Tile} (hrows : t.rows.map List.length = List.replicate nR nC)
    (hscales : isMx fmt = true → t.scales.length = nR ∧ ∀ row ∈ t.scales, row.length = cdiv nC 32)
    (hgroups : trans = true → isMx fmt = true → (regroup nR nC t.scales).isSome = true) :
    ∃ u, deliverTile trans fmt nR nC t = some u ∧
      u.Fits (if trans then nC else nR) (if trans then nR else nC) (isMx fmt) := by
  have hlen : t.rows.length = nR := by simpa using congrArg List.length hrows
  cases trans with
  | false =>
    refine ⟨t, rfl, fun r hr => ?_, fun hmx r hr => ?_⟩
    · have hmem : (t.rows.getD r []).length ∈ t.rows.map List.length :=
        List.mem_map.2 ⟨_, getD_mem [] (by rw [hlen]; exact hr), rfl⟩
      rw [hrows] at hmem
      exact List.eq_of_mem_replicate hmem
    · obtain ⟨hl, hall⟩ := hscales hmx
      exact hall _ (getD_mem [] (by rw [hl]; exact hr))
  | true =>
    have hcodes : ∀ r, r < nC → ((transposeRows nC t.rows).getD r []).length = nR := fun r hr => by
      have hr' : r < (transposeRows nC t.rows).length := by simpa [transposeRows] using hr
      rw [List.getD_eq_getElem _ _ hr']
      simp [transposeRows, hlen]
    by_cases hmx : isMx fmt = true
    · obtain ⟨u, hu⟩ := Option.isSome_iff_exists.1 (hgroups rfl hmx)
      obtain ⟨hl, hall⟩ := regroup_lengths hu
      refine ⟨⟨transposeRows nC t.rows, u⟩, by simp [deliverTile, hmx, hu], hcodes, fun _ r hr => ?_⟩
      exact hall _ (getD_mem [] (by rw [hl]; exact hr))
    · exact ⟨⟨transposeRows nC t.rows, []⟩, by simp [deliverTile, hmx], hcodes, fun h => absurd h hmx⟩

/-- Uniform scale groups at issue, told of the rows that the stream reads. -/
theorem State.regroup_of_scaleBad {s : State} {c : Nat} {d : BitVec 256} {aux i : Nat} (h : s.scaleBad c d aux = false)
    (hk : kindOf d = 0) (hi : i < dTiles d) (ht : dTrans d = true) (hmx : isMx (dSfmt d) = true) :
    (regroup (dRows d) (dCols d) ((List.range (dRows d)).map (fun r =>
      s.scaleRow c d aux (fld d 216 10) (i * dRows d + r)))).isSome = true := by
  simp only [State.scaleBad, ht, hmx, Bool.and_self, Bool.true_and, List.any_eq_false, List.mem_range, hk, if_true] at h
  simpa [State.scaleRow, Option.isSome_iff_ne_none] using h i hi

theorem Frame.scaleBad {c n : Nat} {s t : State} (h : Frame c n (fun _ => False) (some (fun _ => False)) s t) (d : BitVec 256) (aux : Nat) :
    t.scaleBad c d aux = s.scaleBad c d aux := by
  unfold State.scaleBad
  simp only [h.peek]

/-! ## The tiles of a LOAD -/

section
variable {c n : Nat} {s : State} {m : Mv} {x : Slot}

/-- A tile of a LOAD is read and delivered. -/
theorem loadTile_delivers (h : ReadOnly c n s m) (hs : s.SpSound c) (hk : kindOf x.desc = 0) {i : Nat} (hi : i < dTiles x.desc)
    (ok : s.OperandOk c (dSspace x.desc) false x.srcBase (dSstr x.desc) (dSfmt x.desc) (dCols x.desc)
      (dTiles x.desc * dRows x.desc) x.auxBase (fld x.desc 216 10)) (hsc : s.scaleBad c x.desc x.auxBase = false) :
    ReadOnly c n s (m.loadTile c x i).1 ∧ (m.loadTile c x i).2.Fits (loadRows x.desc) (loadCols x.desc) (isMx (dSfmt x.desc)) := by
  obtain ⟨hgood, hrows, hscales⟩ := readTile_reads h hs hi ok (dLast x.desc)
  obtain ⟨u, hu, hfits⟩ := deliverTile_fits (trans := dTrans x.desc) (fmt := dSfmt x.desc) hrows
    (fun hmx => by rw [hscales, if_pos hmx]; simp [State.scaleRow, State.peek, apply_ite List.length, Core.spRead, memRead, Hbm.read])
    (fun ht hmx => by rw [hscales, if_pos hmx]; exact State.regroup_of_scaleBad hsc hk hi ht hmx)
  have hload : m.loadTile c x i = ((m.readTile c [] (dLast x.desc) x.desc x.srcBase x.auxBase (fld x.desc 216 10) i).1, u) := by
    unfold Mv.loadTile
    dsimp only
    rw [hu]
  rw [hload]
  exact ⟨hgood, hfits⟩

theorem Good.tile {P : Nat → Prop} {Q : Option (Nat → Prop)} (h : Good c n P Q s m) : Good c n P Q s m.tile := by
  obtain ⟨hstop, hframe⟩ := h
  unfold Mv.tile
  rw [hstop]
  exact ⟨rfl, hframe⟩

/-- A row with its scale row written to accessible scratchpad lines inside `P`. -/
theorem Good.writeRowMx {P : Nat → Prop} {Q : Option (Nat → Prop)} (h : Good c n P Q s m) {a fmt sa : Nat} {cs scales : List Nat}
    (hr : s.runFault c [] a (rowBytes fmt cs.length) = none) (hP : ∀ y, y / 256 ∈ linesOf a (rowBytes fmt cs.length) → P y)
    (hrs : isMx fmt = true → s.runFault c [] sa scales.length = none)
    (hPs : isMx fmt = true → ∀ y, y / 256 ∈ linesOf sa scales.length → P y) :
    Good c n P Q s (m.writeRowMx c 0 [] a fmt cs sa scales) := by
  have hrow := h.writeRow hr hP
  unfold Mv.writeRowMx
  split
  · next hmx =>
    unfold Mv.write
    rw [if_pos rfl]
    refine hrow.writeSp (by rw [List.length_map]; exact hrs hmx) (fun y h1 h2 => hPs hmx y (mem_linesOf h1 ?_))
    rwa [List.length_map] at h2
  · exact hrow

end

/-- The first byte of the scale tile of a LOAD is that of a line (R543). -/
theorem loadScaleBase_line (d : BitVec 256) (base : Nat) : 256 * (loadScaleBase d base / 256) = loadScaleBase d base := by
  rw [loadScaleBase, Nat.mul_div_cancel_left _ (by decide)]

/-- A delivered tile of a LOAD is written. -/
theorem Good.putTile {c n : Nat} {P : Nat → Prop} {Q : Option (Nat → Prop)} {s : State} {m : Mv} (h : Good c n P Q s m) {x : Slot} {i : Nat} {t : Tile} (hi : i < dTiles x.desc)
    (ht : t.Fits (loadRows x.desc) (loadCols x.desc) (isMx (dDfmt x.desc))) (hd : dDspace x.desc = 0)
    (ok : s.OperandOk c 0 true x.dstBase (dDstr x.desc) (dDfmt x.desc) (loadCols x.desc) (dTiles x.desc * loadRows x.desc)
      (loadScaleBase x.desc x.dstBase / 256) (fld x.desc 226 10))
    (hP : ∀ a, InOperand x.dstBase (dDstr x.desc) (dDfmt x.desc) (loadCols x.desc) (dTiles x.desc * loadRows x.desc)
      (loadScaleBase x.desc x.dstBase / 256) (fld x.desc 226 10) a → P a) :
    Good c n P Q s (m.putTile c x i t) := by
  unfold Mv.putTile Mv.writeTile
  dsimp only
  rw [hd]
  refine Good.tile (h.each (fun u r hr hu => ?_))
  have hr' := List.mem_range.1 hr
  have hrow : i * loadRows x.desc + r < dTiles x.desc * loadRows x.desc :=
    Nat.lt_of_lt_of_le (by rw [Nat.succ_mul]; omega : i * loadRows x.desc + r < (i + 1) * loadRows x.desc) (Nat.mul_le_mul_right _ hi)
  obtain ⟨okRow, okScale⟩ := ok _ hrow
  have haddr : loadScaleBase x.desc x.dstBase + (i * loadRows x.desc + r) * fld x.desc 226 10 =
      scaleAddr 0 (loadScaleBase x.desc x.dstBase / 256) (fld x.desc 226 10) (i * loadRows x.desc + r) := by
    rw [scaleAddr, unitAddr, if_pos rfl, loadScaleBase_line]
  have hu' : Good c n P Q s { s := u } := ⟨rfl, hu⟩
  refine hu'.writeRowMx ?_ (fun y hy => hP y (.inl ⟨_, hrow, ?_⟩)) (fun hmx => ?_) (fun hmx y hy => hP y (.inr ⟨hmx, _, hrow, ?_⟩))
  · rw [ht.codes r hr']; exact okRow
  · rwa [ht.codes r hr'] at hy
  · rw [ht.scales hmx r hr', haddr]; exact okScale hmx
  · rwa [ht.scales hmx r hr', haddr] at hy

/-! ## The movement of a LOAD -/

/-- A walk over the numbers below `k`, the first of them from where the movement stands. -/
theorem Good.eachRange {c n : Nat} {P : Nat → Prop} {Q : Option (Nat → Prop)} {s : State} {m : Mv} (h : Good c n P Q s m) {k : Nat}
    {f : State → Nat → Mv} (hf : ∀ t i, i < k → Frame c n P Q s t → (i = 0 → t = m.s) → Good c n P Q s (f t i)) :
    Good c n P Q s (m.each (List.range k) f) := by
  cases k with
  | zero => exact h
  | succ k =>
    rw [List.range_succ_eq_map]
    have hstop := h.1
    have hfirst : Good c n P Q s (m.andThen (fun t => f t 0)) := by
      unfold Mv.andThen
      rw [hstop]
      exact hf m.s 0 (by omega) h.2 (fun _ => rfl)
    refine hfirst.each (fun t i hi ht => ?_)
    obtain ⟨j, hj, rfl⟩ := List.mem_map.1 hi
    exact hf t _ (Nat.succ_lt_succ (List.mem_range.1 hj)) ht (fun h0 => absurd h0 (Nat.succ_ne_zero j))

/-- Tiles are delivered one after the other, all before the first is written. -/
theorem loadTiles_deliver {c n : Nat} {s : State} {deliver : Mv → Nat → Mv × Tile} (p : Tile → Prop) (l : List Nat)
    (hl : ∀ m i, i ∈ l → ReadOnly c n s m → ReadOnly c n s (deliver m i).1 ∧ p (deliver m i).2) (a : Mv × List Tile)
    (ha : ReadOnly c n s a.1) (hp : ∀ t ∈ a.2, p t) :
    let q := l.foldl (fun (a : Mv × List Tile) i =>
      let r := deliver a.1 i
      if r.1.stop.isSome then (r.1, a.2) else (r.1, a.2 ++ [r.2])) a
    ReadOnly c n s q.1 ∧ (∀ t ∈ q.2, p t) ∧ q.2.length = a.2.length + l.length := by
  induction l generalizing a with
  | nil => exact ⟨ha, hp, rfl⟩
  | cons i l ih =>
    obtain ⟨hgood, hfits⟩ := hl a.1 i (by simp) ha
    have hgo : (deliver a.1 i).1.stop.isSome = false := by rw [hgood.1]; rfl
    simp only [List.foldl_cons, hgo, Bool.false_eq_true, if_false]
    obtain ⟨hq, hqp, hlen⟩ := ih (fun m j hj => hl m j (List.mem_cons_of_mem _ hj)) ((deliver a.1 i).1, a.2 ++ [(deliver a.1 i).2]) hgood
      (fun t ht => by
        rcases List.mem_append.1 ht with ht | ht
        · exact hp t ht
        · rw [List.mem_singleton.1 ht]; exact hfits)
    refine ⟨hq, hqp, hlen.trans ?_⟩
    simp only [List.length_append, List.length_cons, List.length_nil]
    omega

/-- A line that is destination and source of a LOAD is a line of its destination rows. -/
theorem inRows_of_loadOverlap {d : BitVec 256} {src dst a : Nat} (h : a / 256 ∈ loadOverlap d src dst) :
    InRows dst (dDstr d) (rowBytes (dDfmt d) (loadCols d)) (dTiles d * loadRows d) a := by
  unfold loadOverlap at h
  split at h
  · obtain ⟨i, hi, hline⟩ := List.mem_flatMap.1 (List.mem_filter.1 h).1
    refine ⟨i, by rw [Nat.mul_comm]; exact List.mem_range.1 hi, ?_⟩
    have haddr : rowAddr 0 dst (dDstr d) i = 256 * (dst + i * dDstr d) := by
      unfold rowAddr unitAddr unitStride
      simp only [if_true]
      ring
    rw [haddr]
    exact hline
  · cases h

section
variable {c n : Nat} {P q : Nat → Prop} {s : State} {x : Slot}

/-- A LOAD moves all its tiles: one after the other, or all read before the first is written. -/
theorem loadMove_good (hs : s.SpSound c) (hk : kindOf x.desc = 0) (hd : dDspace x.desc = 0) (hfmt : dDfmt x.desc = dSfmt x.desc)
    (hgroups : dTrans x.desc = true → isMx (dSfmt x.desc) = true → dTiles x.desc = 1 ∧ s.scaleBad c x.desc x.auxBase = false)
    (hsrc : s.OperandOk c (dSspace x.desc) false x.srcBase (dSstr x.desc) (dSfmt x.desc) (dCols x.desc)
      (dTiles x.desc * dRows x.desc) x.auxBase (fld x.desc 216 10))
    (hdst : s.OperandOk c 0 true x.dstBase (dDstr x.desc) (dDfmt x.desc) (loadCols x.desc) (dTiles x.desc * loadRows x.desc)
      (loadScaleBase x.desc x.dstBase / 256) (fld x.desc 226 10))
    (hP : ∀ a, InOperand x.dstBase (dDstr x.desc) (dDfmt x.desc) (loadCols x.desc) (dTiles x.desc * loadRows x.desc)
      (loadScaleBase x.desc x.dstBase / 256) (fld x.desc 226 10) a → P a) :
    Good c n P (some q) s (s.loadMove c x) := by
  have hscale : ∀ (t : State) i, i < dTiles x.desc → (i = 0 → t = s) → t.scaleBad c x.desc x.auxBase = false := by
    intro t i hi h0
    by_cases hmx : dTrans x.desc = true ∧ isMx (dSfmt x.desc) = true
    · obtain ⟨hone, hgood⟩ := hgroups hmx.1 hmx.2
      rw [h0 (by omega)]
      exact hgood
    · have hno : (dTrans x.desc && isMx (dSfmt x.desc)) = false := by simpa using hmx
      simp [State.scaleBad, hno]
  have hput : ∀ {m : Mv} {i : Nat} {t : Tile}, Good c n P (some q) s m → i < dTiles x.desc →
      t.Fits (loadRows x.desc) (loadCols x.desc) (isMx (dSfmt x.desc)) → Good c n P (some q) s (m.putTile c x i t) :=
    fun hm hi ht => hm.putTile hi (by rw [hfmt]; exact ht) hd hdst hP
  unfold State.loadMove
  dsimp only
  suffices hmove : ∀ m : Mv, Good c n P (some q) s m → ∀ keep : Nat → Bool, Good c n P (some q) s
      { m with s := m.s.scramble c ((loadOverlap x.desc x.srcBase x.dstBase).filter keep) } by
    refine hmove _ ?_ _
    split
    · refine (Good.start c n P (some q) s).eachRange (fun t i hi ht h0 => ?_)
      obtain ⟨hgood, hfits⟩ := loadTile_delivers (m := { s := t }) (Good.start c n _ _ t) (ht.sound hs) hk hi (ht.operandOk hsrc)
        (hscale t i hi h0)
      rw [if_neg (by rw [hgood.1]; exact Bool.false_ne_true)]
      exact hput (Good.after hgood.good ht) hi hfits
    · obtain ⟨hgood, hfits, hlen⟩ := loadTiles_deliver (deliver := fun m i => m.loadTile c x i)
        (·.Fits (loadRows x.desc) (loadCols x.desc) (isMx (dSfmt x.desc))) (List.range (dTiles x.desc))
        (fun m i hi hm => loadTile_delivers hm hs hk (List.mem_range.1 hi) hsrc (hscale s 0 (by unfold dTiles; omega) (fun _ => rfl)))
        ({ s := s }, []) (Good.start c n _ _ s) (by simp)
      dsimp only at hgood hfits hlen
      generalize List.foldl _ (({ s := s } : Mv), ([] : List Tile)) (List.range (dTiles x.desc)) = r at hgood hfits hlen ⊢
      have hwrite : Good c n P (some q) s ((r.2.zipIdx).foldl (fun m p => m.putTile c x p.2 p.1) { r.1 with stop := none }) := by
        refine Good.foldl ⟨rfl, hgood.good.2⟩ (fun m p hp hm => ?_)
        obtain ⟨hi, ht⟩ := List.mem_zipIdx' hp
        refine hput hm (by simpa [hlen] using hi) (hfits _ ?_)
        rw [ht]
        exact List.getElem_mem _
      generalize List.foldl _ _ r.2.zipIdx = w at hwrite ⊢
      rw [hwrite.1]
      exact ⟨hgood.1, hwrite.2⟩
  intro m hm keep
  exact ⟨hm.1, hm.2.trans (scramble_frame _ (fun y hy => hP y (.inl (inRows_of_loadOverlap (List.mem_filter.1 hy).1))) _)⟩

end

/-- A LOAD that its station can take runs to its end. -/
theorem exec_loadStream_runs {s : State} {r : StreamRef} :
    let c := r.core.val
    let n := r.slot.val
    let x := (s.core c).slot n
    let d := x.desc
    s.Taken c n 0 → dDspace d = 0 → dDfmt d = dSfmt d →
      (dTrans d = true → isMx (dSfmt d) = true → dTiles d = 1 ∧ s.scaleBad c d x.auxBase = false) →
      s.OperandOk c (dSspace d) false x.srcBase (dSstr d) (dSfmt d) (dCols d) (dTiles d * dRows d) x.auxBase (fld d 216 10) →
      s.OperandOk c 0 true x.dstBase (dDstr d) (dDfmt d) (loadCols d) (dTiles d * loadRows d) (loadScaleBase d x.dstBase / 256)
        (fld d 226 10) →
      ∃ t, exec (.loadStream r) s = .next t ∧ StreamedH s t c n (InOperand x.dstBase (dDstr d) (dDfmt d) (loadCols d)
        (dTiles d * loadRows d) (loadScaleBase d x.dstBase / 256) (fld d 226 10)) (fun _ => False) := by
  intro c n x d ⟨hk, ha, hs⟩ hd hfmt hgroups hsrc hdst
  have hacc := s.accepted_frame c n (fun _ => False) (some (fun _ => False))
  have hmove := loadMove_good (s := s.accepted c n) (n := n) (q := fun _ => False) (hacc.sound hs) hk hd hfmt
    (fun ht hmx => by rw [hacc.scaleBad]; exact hgroups ht hmx) (hacc.operandOk hsrc) (hacc.operandOk hdst) (fun _ h => h)
  refine ⟨_, ?_, (Good.after hmove (s.accepted_frame c n _ _)).finishH⟩
  rw [exec_loadStream_eq, execLoadStream, State.accept_eq (decide_eq_true hk) ha]

end Sys2Proof.Machine
end

section
/-! PROOF. Direct paths (R50, R99, R546): what the stream that a path feeds can take does not depend on what a feeder moves, so a feeder
whose consumer can take all its elements moves all its rows. -/

namespace Sys2Proof.Machine

open Sys2Proof

/-! ## A feeder's movement beside its consumer -/

/-- The movement of slot `n` of core `c`, which feeds station `stn`, leaves alone what a consumer goes by: every other slot, the
state, order and descriptor of its own, soft-target channels and the Welt endpoint, and the paths into stations other than `stn` and
that into Skive. -/
structure Beside (c n stn : Nat) (s t : State) : Prop where
  rest : t = { s with cores := t.cores, free := t.free, hbm := t.hbm, glob := t.glob, fab := t.fab }
  other : ∀ d, d ≠ c → t.core d = s.core d
  safe : (t.core c).safe = (s.core c).safe
  bkt : (t.core c).bkt = (s.core c).bkt
  hop : (t.core c).hop = (s.core c).hop
  welt : (t.core c).welt = (s.core c).welt
  slot : ∀ m, m ≠ n → (t.core c).slot m = (s.core c).slot m
  state : ((t.core c).slot n).state = ((s.core c).slot n).state
  order : ((t.core c).slot n).order = ((s.core c).slot n).order
  done : ((t.core c).slot n).done = ((s.core c).slot n).done
  desc : ((t.core c).slot n).desc = ((s.core c).slot n).desc
  path : ∀ st, st ≠ stn → st ≠ 3 → (t.core c).path st = (s.core c).path st

/-- What a stream goes by of every slot of the core. -/
theorem Beside.slots {c n stn : Nat} {s t : State} (h : Beside c n stn s t) (m : Nat) :
    ((t.core c).slot m).state = ((s.core c).slot m).state ∧ ((t.core c).slot m).order = ((s.core c).slot m).order ∧
    ((t.core c).slot m).done = ((s.core c).slot m).done ∧ ((t.core c).slot m).desc = ((s.core c).slot m).desc := by
  by_cases hm : m = n
  · rw [hm]; exact ⟨h.state, h.order, h.done, h.desc⟩
  · rw [h.slot m hm]; exact ⟨rfl, rfl, rfl, rfl⟩

theorem Beside.consumer {c n stn : Nat} {s t : State} (h : Beside c n stn s t) (st : Nat) :
    (t.core c).consumer st = (s.core c).consumer st := by
  have hstate := fun m => (h.slots m).1
  have horder := fun m => (h.slots m).2.1
  have hdone := fun m => (h.slots m).2.2.1
  have hdesc := fun m => (h.slots m).2.2.2
  simp only [Core.consumer, Core.consumers, Slot.takesPath, Slot.live, Core.acceptable, Slot.reading, hstate, horder, hdone, hdesc,
    h.safe]
  rfl

/-- The stream that a path feeds takes from it. -/
theorem Core.takesPath_of_consumer {k : Core} {stn m : Nat} (h : k.consumer stn = some m) :
    stationOf (kindOf (k.slot m).desc) = stn ∧ dSspace (k.slot m).desc = 3 := by
  have hfold : ∀ (l : List Nat) (b : Option Nat), (∀ x ∈ l, (k.slot x).takesPath stn = true) →
      (∀ x, b = some x → (k.slot x).takesPath stn = true) → ∀ x, l.foldl (fun (b : Option Nat) n =>
        match b with
        | some m => if (k.slot m).order ≤ (k.slot n).order then b else some n
        | none => some n) b = some x → (k.slot x).takesPath stn = true := by
    intro l
    induction l with
    | nil => exact fun b _ hb x hx => hb x hx
    | cons y l ih =>
      intro b hl hb x hx
      refine ih _ (fun z hz => hl z (by simp [hz])) (fun z hz => ?_) x hx
      cases b with
      | none => cases hz; exact hl y (by simp)
      | some w =>
        dsimp only at hz
        split at hz
        · exact hb z hz
        · cases hz; exact hl y (by simp)
  unfold Core.consumer at h
  split at h
  · cases h
  · next y hy =>
    split at h
    · cases h
      have htakes := hfold _ none (fun x hx => (List.mem_filter.1 hx).2) (fun x hx => by cases hx) m hy
      simp only [Slot.takesPath, Bool.and_eq_true, decide_eq_true_eq] at htakes
      obtain ⟨⟨-, hstn⟩, hspace⟩ := htakes
      exact ⟨hstn, hspace⟩
    · cases h

section
variable {c n stn : Nat} {s t : State}

/-- A feeder is not one of the streams behind it. -/
theorem Core.consumer_ne {k : Core} {m st : Nat} (hst : stationOf (kindOf (k.slot n).desc) ≠ st) (h : k.consumer st = some m) : m ≠ n := by
  rintro rfl
  exact hst (Core.takesPath_of_consumer h).1

/-- The Welt endpoint and the buckets of every core are as before. -/
theorem Beside.welt_all (h : Beside c n stn s t) (d : Nat) : (t.core d).welt = (s.core d).welt := by
  by_cases hd : d = c
  · rw [hd]; exact h.welt
  · rw [h.other d hd]
theorem Beside.bkt_all (h : Beside c n stn s t) (d : Nat) : (t.core d).bkt = (s.core d).bkt := by
  by_cases hd : d = c
  · rw [hd]; exact h.bkt
  · rw [h.other d hd]

/-- The fabric's flits and the links are as before. -/
theorem Beside.flits (h : Beside c n stn s t) : t.flits = s.flits := by rw [h.rest]
theorem Beside.linkRoom (h : Beside c n stn s t) (d : BitVec 256) : t.linkRoom d = s.linkRoom d := by rw [h.rest]; rfl
theorem Beside.newFlit (h : Beside c n stn s t) (src dst cls more slot order : Nat) (body : FlitBody) :
    t.newFlit src dst cls more slot order body = s.newFlit src dst cls more slot order body := by rw [h.rest]; rfl
theorem Beside.ownPkg (h : Beside c n stn s t) : t.ownPkg = s.ownPkg := by rw [h.rest]; rfl

/-- A SEND behind a feeder may send as many lines as before. -/
theorem Beside.sendRoom (h : Beside c n stn s t) (hn : kindOf ((s.core c).slot n).desc ≠ 10) {m : Nat} (hm : m ≠ n) :
    t.sendRoom c m = s.sendRoom c m := by
  have hbusy : ∀ d, (t.core c).bucketBusy m d = (s.core c).bucketBusy m d := fun d => by
    unfold Core.bucketBusy
    congr 1
    funext i
    by_cases hi : i = n
    · subst hi
      have hno : isBucket ((s.core c).slot i).desc = false := by simp [isBucket, isSend, hn]
      simp [h.desc, hno]
    · rw [h.slot i hi]
  have hwaits : ∀ d, t.bucketWaits c m d = s.bucketWaits c m d := fun d => by
    rw [State.bucketWaits, State.bucketWaits, h.ownPkg, h.bkt_all]
  have hremote : ∀ x, t.remoteRoom c m x = s.remoteRoom c m x := fun x => by
    simp only [State.remoteRoom, hwaits, hbusy, h.ownPkg, Core.grantOf, h.welt]
  have hlet : t.sendLet c m = s.sendLet c m := by
    simp only [State.sendLet, h.slot m hm, hremote, Core.credit, h.welt_all, State.inFlight, h.flits]
  simp only [State.sendRoom, State.wayRoom, hlet, h.slot m hm, h.linkRoom, h.newFlit, h.flits]

/-- The format that a path's consumer takes is as before, where what stands on the path is. -/
theorem Beside.pathFits (h : Beside c n stn s t) {st : Nat} (hpath : (t.core c).path st = (s.core c).path st) (fmt : Nat) :
    t.pathFits c st fmt = s.pathFits c st fmt := by
  have hdesc := fun m => (h.slots m).2.2.2
  simp only [State.pathFits, h.consumer, hdesc, Core.pathMismatch, Core.pathFree, hpath]

/-- The stream behind a NARROW lets it go on as before. -/
theorem Beside.rowsOnward (h : Beside c n 3 s t) (hn : stationOf (kindOf ((s.core c).slot n).desc) < 3) (fmt cols : Nat) :
    t.rowsOnward c 6 fmt cols = s.rowsOnward c 6 fmt cols := by
  have hpath := h.path 6 (by decide) (by decide)
  cases hy : (s.core c).consumer 6 with
  | none => simp only [State.rowsOnward, h.consumer, hy]
  | some y => simp only [State.rowsOnward, h.consumer, hy, h.pathFits hpath, hpath, h.slot y (Core.consumer_ne (by omega) hy)]

/-- Streams behind a feeder take as much as before, whatever it moves. -/
theorem Beside.takes (h : Beside c n stn s t) (hn : stationOf (kindOf ((s.core c).slot n).desc) < min stn 4) {m : Nat}
    (hm : (s.core c).consumer stn = some m) : t.takes c m = s.takes c m := by
  have hmn := Core.consumer_ne (n := n) (by omega) hm
  obtain ⟨hstn, -⟩ := Core.takesPath_of_consumer hm
  have hten : kindOf ((s.core c).slot n).desc ≠ 10 := fun h10 => by
    have h7 : stationOf 10 = 7 := rfl
    rw [h10] at hn
    omega
  unfold State.takes
  dsimp only
  rw [h.slot m hmn]
  split
  · next h4 =>
    rw [h4] at hstn
    obtain rfl : stn = 3 := hstn.symm
    rw [h.rowsOnward (by omega)]
  · simp only [Core.hopChan, h.hop]
  · rw [h.sendRoom hten hmn]
  · rfl

/-! ## What the path takes -/

theorem State.PathTakes.wants {fmt k : Nat} (h : s.PathTakes c stn fmt (k + 1)) : s.pathWants c stn = true := by
  obtain ⟨m, hm, hroom, -⟩ := h
  simp only [State.pathWants, hm, decide_eq_true_eq]
  omega

theorem State.PathTakes.fits {fmt k : Nat} (h : s.PathTakes c stn fmt k) : s.pathFits c stn fmt = true := by
  obtain ⟨m, hm, -, hfmt⟩ := h
  simp only [State.pathFits, hm]
  cases hc : checksFeeder ((s.core c).slot m).desc with
  | false => rfl
  | true =>
    obtain ⟨hf, hno⟩ := hfmt hc
    simp [hf, hno]

/-- A consumer that suits its feeder is not refused. -/
theorem State.PathTakes.offer {fmt k : Nat} (h : s.PathTakes c stn fmt k) (fuel : Nat) : s.pathOffer c stn fmt fuel = s := by
  obtain ⟨m, hm, -, hfmt⟩ := h
  cases fuel with
  | zero => rfl
  | succ fuel =>
    simp only [State.pathOffer, hm]
    cases hc : checksFeeder ((s.core c).slot m).desc with
    | false => simp
    | true =>
      obtain ⟨hf, hno⟩ := hfmt hc
      simp [hf, hno]

/-- Nothing put on the path: its consumer takes what it could. -/
theorem State.PathTakes.beside {fmt k : Nat} (h : s.PathTakes c stn fmt k) (hb : Beside c n stn s t)
    (hn : stationOf (kindOf ((s.core c).slot n).desc) < min stn 4) (hpath : (t.core c).path stn = (s.core c).path stn) :
    t.PathTakes c stn fmt k := by
  obtain ⟨m, hm, hroom, hfmt⟩ := h
  have hdesc := (hb.slots m).2.2.2
  refine ⟨m, by rw [hb.consumer]; exact hm, by rw [hb.takes hn hm, hpath]; exact hroom, fun hc => ?_⟩
  rw [hdesc] at hc ⊢
  rw [Core.pathMismatch, Core.pathFree, hpath]
  exact hfmt hc

/-- Elements put on the path: its consumer takes so many fewer. -/
theorem State.PathTakes.feed {fmt k rest : Nat} {es : List Nat} (h : s.PathTakes c stn fmt (k + rest)) (hb : Beside c n stn s t)
    (hn : stationOf (kindOf ((s.core c).slot n).desc) < min stn 4) (hlen : es.length = k)
    (hpath : (t.core c).path stn = ⟨fmt, ((s.core c).path stn).elems ++ es⟩) : t.PathTakes c stn fmt rest := by
  obtain ⟨m, hm, hroom, hfmt⟩ := h
  have hdesc := (hb.slots m).2.2.2
  refine ⟨m, by rw [hb.consumer]; exact hm, ?_, fun hc => ?_⟩
  · rw [hb.takes hn hm, hpath, List.length_append, hlen]; omega
  · rw [hdesc] at hc ⊢
    obtain ⟨hf, -⟩ := hfmt hc
    refine ⟨hf, ?_⟩
    rw [Core.pathMismatch, hpath, ← hf]
    simp

end

end Sys2Proof.Machine
end

section
/-! PROOF. Streams that move row by row (R50): a stream whose rows can all move moves them, and is done. -/

namespace Sys2Proof.Machine

open Sys2Proof

section
variable {c n : Nat} {P : Nat → Prop} {Q : Option (Nat → Prop)} {s : State} {m : Mv}

/-- A row more has moved. -/
def State.rowMoved (s : State) (c n i : Nat) : State := s.modCore c (fun k => k.modSlot n (fun x => { x with moved := i }))

/-- The slot of the stream changed, but for its descriptor. -/
theorem Frame.modSlot (s : State) {f : Slot → Slot} (hdesc : (f ((s.core c).slot n)).desc = ((s.core c).slot n).desc) :
    Frame c n P Q s (s.modCore c (fun k => k.modSlot n f)) :=
  Frame.modCore rfl (fun j hj => by rw [Core.slot_modSlot, if_neg hj]) (by rw [Core.slot_modSlot_self]; exact hdesc) (fun _ => rfl)
    (fun _ h => h) (fun _ _ => rfl)

theorem Frame.rowMoved (c n : Nat) (P : Nat → Prop) (Q : Option (Nat → Prop)) (s : State) (i : Nat) : Frame c n P Q s (s.rowMoved c n i) :=
  Frame.modSlot s rfl

theorem State.slot_rowMoved (s : State) (c n i : Nat) :
    ((s.rowMoved c n i).core c).slot n = { (s.core c).slot n with moved := i } := by
  rw [State.rowMoved, State.core_modCore_self, Core.slot_modSlot_self]

/-- What the movement of rows `i` on needs of the state is there, and each row leaves what the next one needs. -/
structure RowsMove (c n rows : Nat) (P : Nat → Prop) (Q : Option (Nat → Prop)) (s : State) (g : RowGate) (row : Mv → Nat → Mv)
    (X : Nat → State → Prop) : Prop where
  offer : ∀ t i, i < rows → Frame c n P Q s t → X i t → g.offer t c = t
  ready : ∀ t i, i < rows → Frame c n P Q s t → X i t → g.ready t c = true
  row : ∀ (m : Mv) i, i < rows → m.stop = none → Frame c n P Q s m.s → X i m.s →
    Good c n P Q m.s (row m i) ∧ X (i + 1) ((row m i).s.rowMoved c n (i + 1))

/-- Rows move until the last. -/
theorem RowsMove.loop {rows : Nat} {g : RowGate} {row : Mv → Nat → Mv} {X : Nat → State → Prop} (h : RowsMove c n rows P Q s g row X) :
    ∀ (fuel i : Nat) (m : Mv), i + fuel = rows → Good c n P Q s m → ((m.s.core c).slot n).moved = i → X i m.s →
      Good c n P Q s (Mv.rowLoop c n rows g row fuel m) ∧ (((Mv.rowLoop c n rows g row fuel m).s.core c).slot n).moved = rows ∧
      X rows (Mv.rowLoop c n rows g row fuel m).s := by
  intro fuel
  induction fuel with
  | zero =>
    rintro i m rfl hm hi hx
    exact ⟨hm, hi, hx⟩
  | succ fuel ih =>
    intro i m hrows ⟨hstop, hframe⟩ hi hx
    have hlt : i < rows := by omega
    have hsame : m.mod (fun s => g.offer s c) = m := by
      unfold Mv.mod
      rw [hstop]
      dsimp only
      rw [h.offer m.s i hlt hframe hx]
      cases m
      cases hstop
      rfl
    obtain ⟨hgood, hnext⟩ := h.row m i hlt hstop hframe hx
    have hmod : ((row m i).mod (fun s => s.rowMoved c n (i + 1))).s = (row m i).s.rowMoved c n (i + 1) := by
      unfold Mv.mod
      rw [hgood.1]
    rw [Mv.rowLoop, hstop]
    dsimp only
    rw [hi, if_neg (by omega), hsame, if_pos (h.ready m.s i hlt hframe hx)]
    refine ih (i + 1) _ (by omega) ((hgood.after hframe).mod (Frame.rowMoved c n P Q _ (i + 1))) ?_ ?_
    · show ((((row m i).mod (fun s => s.rowMoved c n (i + 1))).s.core c).slot n).moved = i + 1
      rw [hmod, State.slot_rowMoved]
    · show X (i + 1) ((row m i).mod (fun s => s.rowMoved c n (i + 1))).s
      rw [hmod]
      exact hnext

/-- A movement whose rows have all moved is at its end. -/
theorem Good.rowEnd {rows : Nat} (h : Good c n P Q s m) (hmoved : ((m.s.core c).slot n).moved = rows) :
    m.rowEnd c n rows = m.finish c n := by
  unfold Mv.rowEnd Mv.finish
  rw [h.1]
  dsimp only
  rw [if_pos (by omega)]

end

/-- A QUEUED stream is not ACTIVE yet. -/
theorem Core.state_of_acceptable {k : Core} {n : Nat} (h : k.acceptable n = true) : (k.slot n).state = .queued := by
  simp only [Core.acceptable, Bool.and_eq_true, decide_eq_true_eq] at h
  exact h.1.1

/-- The slot of a row-by-row stream that its station has accepted, and whose state `start` has set up. -/
def State.rowSlot (s : State) (c n : Nat) (start : State → Slot → Mv) : Slot :=
  ((((start (s.accepted c n) ((s.core c).slot n)).mod (fun s => s.rowMoved c n 0)).s.core c).slot n)

theorem State.rowSlot_of_start {s : State} {c n : Nat} {start : State → Slot → Mv}
    (h : start (s.accepted c n) ((s.core c).slot n) = { s := s.accepted c n }) :
    s.rowSlot c n start = { { (s.core c).slot n with acceptedAt := s.mashOf c } with moved := 0 } := by
  unfold State.rowSlot
  rw [h]
  show (((s.accepted c n).rowMoved c n 0).core c).slot n = _
  rw [State.slot_rowMoved, State.core_accepted, Core.slot_setSlot_self]

/-- The movement with which a row-by-row stream begins, once its station has accepted it. -/
def State.rowStart {α : Type} (s : State) (c n : Nat) (start : State → Slot → Mv) (pre : Mv → Slot → Mv × α) : Mv × α :=
  pre ((start (s.accepted c n) ((s.core c).slot n)).mod (fun s => s.rowMoved c n 0)) (s.rowSlot c n start)

/-- A row-by-row stream that its station can take, and that does not fault as it begins, moves its rows from the first. -/
theorem State.rowRun_eq {α : Type} {s : State} {r : StreamRef} {mine : BitVec 256 → Bool} {rows : BitVec 256 → Nat}
    {g : BitVec 256 → RowGate} {start : State → Slot → Mv} {pre : Mv → Slot → Mv × α} {row : Slot → α → Mv → Nat → Mv}
    (hm : mine ((s.core r.core.val).slot r.slot.val).desc = true) (ha : (s.core r.core.val).acceptable r.slot.val = true)
    (hstart : (start (s.accepted r.core.val r.slot.val) ((s.core r.core.val).slot r.slot.val)).stop = none) :
    let c := r.core.val
    let n := r.slot.val
    let x := s.rowSlot c n start
    s.rowRun r mine rows g start pre row = ((s.rowStart c n start pre).1.rowLoop c n (rows x.desc) (g x.desc)
      (row x (s.rowStart c n start pre).2) (rows x.desc)).rowEnd c n (rows x.desc) := by
  have hqueued := Core.state_of_acceptable ha
  unfold State.rowRun
  dsimp only
  rw [if_neg (by simp [hqueued]), State.accept_eq hm ha, hstart]
  rfl

/-- A row-by-row stream all of whose rows can move moves them, and its movement is at its end. -/
theorem RowsMove.rowRun {α : Type} {s : State} {r : StreamRef} {mine : BitVec 256 → Bool} {rows : BitVec 256 → Nat}
    {g : BitVec 256 → RowGate} {start : State → Slot → Mv} {pre : Mv → Slot → Mv × α} {row : Slot → α → Mv → Nat → Mv}
    {P : Nat → Prop} {Q : Option (Nat → Prop)} {X : Nat → State → Prop}
    (hm : mine ((s.core r.core.val).slot r.slot.val).desc = true) (ha : (s.core r.core.val).acceptable r.slot.val = true)
    (hstart : (start (s.accepted r.core.val r.slot.val) ((s.core r.core.val).slot r.slot.val)).stop = none)
    (hpre : Good r.core.val r.slot.val P Q s (s.rowStart r.core.val r.slot.val start pre).1)
    (hmoved : (((s.rowStart r.core.val r.slot.val start pre).1.s.core r.core.val).slot r.slot.val).moved = 0)
    (h : RowsMove r.core.val r.slot.val (rows (s.rowSlot r.core.val r.slot.val start).desc) P Q s
      (g (s.rowSlot r.core.val r.slot.val start).desc)
      (row (s.rowSlot r.core.val r.slot.val start) (s.rowStart r.core.val r.slot.val start pre).2) X)
    (hx : X 0 (s.rowStart r.core.val r.slot.val start pre).1.s) :
    ∃ m, s.rowRun r mine rows g start pre row = m.finish r.core.val r.slot.val ∧ Good r.core.val r.slot.val P Q s m ∧
      X (rows (s.rowSlot r.core.val r.slot.val start).desc) m.s := by
  obtain ⟨hgood, hall, hlast⟩ := h.loop _ 0 _ (Nat.zero_add _) hpre hmoved hx
  exact ⟨_, (State.rowRun_eq hm ha hstart).trans (hgood.rowEnd hall), hgood, hlast⟩

end Sys2Proof.Machine
end

section
/-! PROOF. GATHER (R70 to R73, R545): its elements read line by line, its rows written, and its lines fed to a direct path. -/

namespace Sys2Proof.Machine

open Sys2Proof

theorem exec_gather_eq (r : StreamRef) (s : State) : exec (.gather r) s = execGather r s := rfl

/-! ## What a read leaves of the paths -/

/-- The slots, the direct paths, the soft-target channels and the Welt endpoint of core `c` are as before. -/
structure PathsKept (c : Nat) (s t : State) : Prop where
  slots : (t.core c).slots = (s.core c).slots
  direct : (t.core c).direct = (s.core c).direct
  hop : (t.core c).hop = (s.core c).hop
  welt : (t.core c).welt = (s.core c).welt

section
variable {c n : Nat} {P : Nat → Prop} {Q : Option (Nat → Prop)} {s t u : State}

theorem PathsKept.refl (c : Nat) (s : State) : PathsKept c s s := ⟨rfl, rfl, rfl, rfl⟩

theorem PathsKept.trans (h : PathsKept c s t) (g : PathsKept c t u) : PathsKept c s u :=
  ⟨g.slots.trans h.slots, g.direct.trans h.direct, g.hop.trans h.hop, g.welt.trans h.welt⟩

theorem PathsKept.of_core (h : t.core c = s.core c) : PathsKept c s t := by
  constructor <;> rw [h]

theorem PathsKept.modCore {f : Core → Core} (hs : (f (s.core c)).slots = (s.core c).slots) (hd : (f (s.core c)).direct = (s.core c).direct)
    (hh : (f (s.core c)).hop = (s.core c).hop) (hw : (f (s.core c)).welt = (s.core c).welt) : PathsKept c s (s.modCore c f) := by
  constructor <;> rw [State.core_modCore_self] <;> assumption

theorem PathsKept.path (h : PathsKept c s t) (st : Nat) : (t.core c).path st = (s.core c).path st := by
  rw [Core.path, Core.path, h.direct]

/-- A fault of a movement leaves the state. -/
theorem Mv.s_halt (m : Mv) (code a : Nat) : (m.halt code a).s = m.s := by
  unfold Mv.halt
  split <;> rfl

theorem PathsKept.readSp (m : Mv) (c : Nat) (own : List Nat) (last : Bool) (a k : Nat) : PathsKept c m.s (m.readSp c own last a k).1.s := by
  have hfix : ∀ j : Core, (j.spFix a k).slots = j.slots ∧ (j.spFix a k).direct = j.direct ∧ (j.spFix a k).hop = j.hop ∧
      (j.spFix a k).welt = j.welt := fun j => by
    unfold Core.spFix
    dsimp only
    split <;> exact ⟨rfl, rfl, rfl, rfl⟩
  obtain ⟨hslots, hdirect, hhop, hwelt⟩ := hfix (m.s.core c)
  unfold Mv.readSp
  split
  · exact PathsKept.refl ..
  · split
    · rw [Mv.s_halt]
      exact PathsKept.refl ..
    · split
      · rw [Mv.s_halt]
        exact PathsKept.modCore (f := fun k' => k'.spUeCount a k) rfl rfl rfl rfl
      · cases last
        · exact PathsKept.modCore (f := fun k' => k'.spFix a k) hslots hdirect hhop hwelt
        · exact PathsKept.modCore (f := fun k' => (k'.spFix a k).clearLive (linesOf a k)) hslots hdirect hhop hwelt

/-- A movement inside a frame that leaves the paths alone is beside any consumer. -/
theorem Frame.beside (h : Frame c n P Q s t) (hc : PathsKept c s t) (stn : Nat) : Beside c n stn s t where
  rest := by
    have hrest := congrArg (fun v : State => { v with cores := t.cores, free := t.free, hbm := t.hbm, glob := t.glob, fab := t.fab }) h.rest
    exact hrest
  other := h.other
  safe := by have hsafe := congrArg Core.safe h.keep; exact hsafe
  bkt := by have hbkt := congrArg Core.bkt h.keep; exact hbkt
  hop := hc.hop
  welt := hc.welt
  slot := h.slot
  state := by rw [Core.slot_congr hc.slots]
  order := by rw [Core.slot_congr hc.slots]
  done := by rw [Core.slot_congr hc.slots]
  desc := h.desc
  path := fun st _ _ => hc.path st

theorem Beside.trans {stn : Nat} (h : Beside c n stn s t) (g : Beside c n stn t u) : Beside c n stn s u where
  rest := by rw [g.rest, h.rest]
  other := fun d hd => (g.other d hd).trans (h.other d hd)
  safe := g.safe.trans h.safe
  bkt := g.bkt.trans h.bkt
  hop := g.hop.trans h.hop
  welt := g.welt.trans h.welt
  slot := fun m hm => (g.slot m hm).trans (h.slot m hm)
  state := g.state.trans h.state
  order := g.order.trans h.order
  done := g.done.trans h.done
  desc := g.desc.trans h.desc
  path := fun st h1 h3 => (g.path st h1 h3).trans (h.path st h1 h3)

/-- An update of the core that keeps what a consumer goes by. -/
theorem Beside.modCore {stn : Nat} {f : Core → Core} (safe : (f (s.core c)).safe = (s.core c).safe)
    (bkt : (f (s.core c)).bkt = (s.core c).bkt) (hop : (f (s.core c)).hop = (s.core c).hop)
    (welt : (f (s.core c)).welt = (s.core c).welt) (slot : ∀ m, m ≠ n → (f (s.core c)).slot m = (s.core c).slot m)
    (own : ∃ x : Slot, (f (s.core c)).slot n = x ∧ x.state = ((s.core c).slot n).state ∧ x.order = ((s.core c).slot n).order ∧
      x.done = ((s.core c).slot n).done ∧ x.desc = ((s.core c).slot n).desc)
    (path : ∀ st, st ≠ stn → st ≠ 3 → (f (s.core c)).path st = (s.core c).path st) : Beside c n stn s (s.modCore c f) := by
  obtain ⟨x, rfl, state, order, done, desc⟩ := own
  constructor
  case rest => rfl
  case other => exact fun d hd => by rw [State.core_modCore, if_neg hd]
  all_goals
    rw [State.core_modCore_self]
    assumption

/-- Elements put on the path of the station that the stream feeds. -/
theorem Beside.feed (s : State) (c n stn fmt : Nat) (es : List Nat) : Beside c n stn s (s.modCore c (fun k => k.feed stn fmt es)) :=
  Beside.modCore rfl rfl rfl rfl (fun _ _ => rfl) ⟨_, rfl, rfl, rfl, rfl, rfl⟩ (fun _ hst _ => FMap.get_set_ne _ _ hst _)

/-- A row more counted as moved. -/
theorem Beside.rowMoved (s : State) (c n stn i : Nat) : Beside c n stn s (s.rowMoved c n i) :=
  Beside.modCore rfl rfl rfl rfl (fun m hm => by rw [Core.slot_modSlot, if_neg hm]) ⟨_, Core.slot_modSlot_self .., rfl, rfl, rfl, rfl⟩
    (fun _ _ _ => rfl)

/-- Acceptance notes the time. -/
theorem Beside.accepted (s : State) (c n stn : Nat) : Beside c n stn s (s.accepted c n) :=
  Beside.modCore rfl rfl rfl rfl (fun m hm => by rw [Core.slot_setSlot, if_neg hm]) ⟨_, Core.slot_setSlot_self .., rfl, rfl, rfl, rfl⟩
    (fun _ _ _ => rfl)

theorem State.path_feed (s : State) (c stn fmt : Nat) (es : List Nat) :
    ((s.modCore c (fun k => k.feed stn fmt es)).core c).path stn = ⟨fmt, ((s.core c).path stn).elems ++ es⟩ := by
  rw [State.core_modCore_self, Core.path, Core.feed]
  exact FMap.get_set_self ..

theorem State.path_rowMoved (s : State) (c n i st : Nat) : ((s.rowMoved c n i).core c).path st = (s.core c).path st := by
  rw [State.rowMoved, State.core_modCore_self]
  rfl

/-- A path fed is a part of the core that the frame leaves open. -/
theorem Frame.feed (s : State) (stn fmt : Nat) (es : List Nat) : Frame c n P Q s (s.modCore c (fun k => k.feed stn fmt es)) :=
  Frame.quiet rfl rfl rfl rfl rfl

/-- After a row fed to its path the consumer takes so many elements fewer. -/
theorem State.PathTakes.fedRow {stn fmt k rest i : Nat} {es : List Nat} (h : s.PathTakes c stn fmt (k + rest))
    (hb : Beside c n stn s t) (hpath : (t.core c).path stn = (s.core c).path stn)
    (hn : stationOf (kindOf ((s.core c).slot n).desc) < min stn 4) (hlen : es.length = k) :
    ((t.modCore c (fun k => k.feed stn fmt es)).rowMoved c n i).PathTakes c stn fmt rest := by
  refine h.feed ((hb.trans (Beside.feed ..)).trans (Beside.rowMoved ..)) hn hlen ?_
  rw [State.path_rowMoved, State.path_feed, hpath]

end

/-! ## Elements read from HBM -/

section
variable {c n : Nat} {P q : Nat → Prop} {s : State} {m : Mv}

theorem Frame.hbmFix (s : State) (a k : Nat) : Frame c n P (some q) s (s.modHbm (fun h => h.fix a k)) where
  rest := rfl
  hbm := by
    obtain ⟨hfix, hmarks⟩ := fix_moved s.hbm a k
    have hrest := congrArg (fun y : Hbm => { y with mem := s.hbm.mem, home := s.hbm.home, moved := s.hbm.moved }) hfix
    have hmoved := congrArg Hbm.moved hfix
    have hmem := congrArg Hbm.mem hfix
    exact ⟨hrest, ⟨hmarks, fun j hj => by rwa [show (s.modHbm (fun h => h.fix a k)).hbm.moved = _ from hmoved] at hj⟩,
      fun x _ => congrArg (fun y : Memory => memByte y x) hmem, rfl, rfl⟩
  other := fun _ _ => rfl
  keep := StationsOnly.refl _
  slot := fun _ _ => rfl
  desc := rfl
  chan := fun _ => rfl
  err := fun _ h => h
  mem := fun _ _ => rfl

/-- An HBM read of an accessible run, not yet counted, corrects its sectors and no more. -/
theorem Good.readHbmRaw (h : Good c n P (some q) s m) {a k : Nat} (ok : s.HbmOk c false a k) :
    Good c n P (some q) s (m.readHbmRaw c a k).1 ∧ PathsKept c m.s (m.readHbmRaw c a k).1.s := by
  obtain ⟨hstop, hframe⟩ := h
  obtain ⟨hrun, hbad, -⟩ := hframe.hbmOk ok
  unfold Mv.readHbmRaw
  rw [hstop]
  dsimp only
  rw [hrun]
  dsimp only
  rw [hbad]
  exact ⟨⟨rfl, hframe.trans (Frame.hbmFix ..)⟩, PathsKept.of_core rfl⟩

/-! ## The elements of a GATHER -/

/-- The bytes of every SLIM source element are accessible. -/
def State.GatherOk (s : State) (c : Nat) (x : Slot) : Prop :=
  ∀ i, i < gSlim x.desc → s.RunOk c (dSspace x.desc) false
    (unitAddr (dSspace x.desc) x.srcBase + fmtBits (dSfmt x.desc) * i / 8)
    ((fmtBits (dSfmt x.desc) * i % 8 + fmtBits (dSfmt x.desc) + 7) / 8)

theorem gatherOne_good (h : Good c n P (some q) s m) (hs : s.SpSound c) {x : Slot} (ok : s.GatherOk c x) (idx : Int) :
    Good c n P (some q) s (m.gatherOne c x idx).1 ∧ PathsKept c m.s (m.gatherOne c x idx).1.s := by
  unfold Mv.gatherOne
  dsimp only
  split
  · next hidx =>
    have hrun := ok idx.toNat (by omega)
    unfold State.RunOk at hrun
    split
    · next h0 =>
      rw [if_pos h0] at hrun
      exact ⟨(h.readSp hs hrun (dLast x.desc)).1, PathsKept.readSp ..⟩
    · next h0 =>
      rw [if_neg h0] at hrun
      exact h.readHbmRaw hrun
  · refine ⟨h.mod (Frame.quiet rfl rfl rfl rfl rfl), ?_⟩
    unfold Mv.mod
    rw [h.1]
    exact PathsKept.modCore rfl rfl rfl rfl

theorem gatherSec_frame (s : State) (sec : List Nat) (k : Nat) :
    Frame c n P (some q) s (sec.foldl (fun s a => s.farAccess c a 64) (s.acctHbm c k)) ∧
    PathsKept c s (sec.foldl (fun s a => s.farAccess c a 64) (s.acctHbm c k)) := by
  suffices key : ∀ (l : List Nat) (t : State), Frame c n P (some q) s t → PathsKept c s t →
      Frame c n P (some q) s (l.foldl (fun s a => s.farAccess c a 64) t) ∧ PathsKept c s (l.foldl (fun s a => s.farAccess c a 64) t) from
    key sec _ (Frame.acctHbm ..) (PathsKept.of_core rfl)
  intro l
  induction l with
  | nil => exact fun t ht hc => ⟨ht, hc⟩
  | cons a l ih =>
    intro t ht hc
    refine ih _ (ht.trans (Frame.farAccess ..)) (hc.trans ?_)
    obtain ⟨b, hfar⟩ := t.farAccess_eq c a 64
    refine PathsKept.of_core ?_
    dsimp only
    rw [hfar]
    rfl

/-- An index line of a GATHER is read: as many elements as it has indices. -/
theorem gatherLine_good (h : Good c n P (some q) s m) (hs : s.SpSound c) {x : Slot} (ok : s.GatherOk c x) {line k : Nat}
    (hline : s.runFault c [] (256 * (x.auxBase + line)) (4 * k) = none) :
    Good c n P (some q) s (m.gatherLine c x line k).1 ∧ PathsKept c m.s (m.gatherLine c x line k).1.s ∧
    (m.gatherLine c x line k).2.length = k := by
  have hread := (h.readSp hs hline false).1
  have hcalm := PathsKept.readSp m c [] false (256 * (x.auxBase + line)) (4 * k)
  unfold Mv.gatherLine
  dsimp only
  generalize hidx : (codesOf 8 k (m.readSp c [] false (256 * (x.auxBase + line)) (4 * k)).2).map (toSigned 32) = idx
  have hlen : idx.length = k := by rw [← hidx, List.length_map, codesOf_length]
  generalize (m.readSp c [] false (256 * (x.auxBase + line)) (4 * k)).1 = m1 at hread hcalm ⊢
  suffices key : ∀ (l : List Int) (a : Mv × List Nat), Good c n P (some q) s a.1 → PathsKept c m.s a.1.s →
      let r := l.foldl (fun (a : Mv × List Nat) i => let e := a.1.gatherOne c x i; (e.1, a.2 ++ [e.2])) a
      Good c n P (some q) s r.1 ∧ PathsKept c m.s r.1.s ∧ r.2.length = a.2.length + l.length by
    obtain ⟨hgood, hquiet, hcount⟩ := key idx (m1, []) hread hcalm
    generalize List.foldl _ (m1, ([] : List Nat)) idx = r at hgood hquiet hcount ⊢
    refine ⟨?_, ?_, by rw [hcount]; simp [hlen]⟩
    · refine hgood.mod ?_
      split
      · exact (gatherSec_frame ..).1
      · exact Frame.refl ..
    · unfold Mv.mod
      rw [hgood.1]
      dsimp only
      split
      · exact hquiet.trans (gatherSec_frame (n := n) (P := P) (q := q) ..).2
      · exact hquiet
  intro l
  induction l with
  | nil => exact fun a ha hc => ⟨ha, hc, rfl⟩
  | cons i l ih =>
    intro a ha hc
    obtain ⟨hone, honeCalm⟩ := gatherOne_good ha hs ok i
    obtain ⟨hgood, hquiet, hcount⟩ := ih ((a.1.gatherOne c x i).1, a.2 ++ [(a.1.gatherOne c x i).2]) hone (hc.trans honeCalm)
    refine ⟨hgood, hquiet, hcount.trans ?_⟩
    simp only [List.length_append, List.length_cons, List.length_nil]
    omega

/-- The index lines of a GATHER are accessible. -/
def State.GatherLinesOk (s : State) (c : Nat) (x : Slot) : Prop :=
  ∀ l, l < gatherLines x.desc → s.runFault c [] (256 * (x.auxBase + l)) (4 * gatherCount x.desc l) = none

/-- All index lines of a GATHER are read: all its elements. -/
theorem gatherAll_good (h : Good c n P (some q) s m) (hs : s.SpSound c) {x : Slot} (ok : s.GatherOk c x) (hlines : s.GatherLinesOk c x) :
    Good c n P (some q) s (m.gatherAll c x).1 ∧ (m.gatherAll c x).2.length = dElems x.desc := by
  unfold Mv.gatherAll
  suffices key : ∀ k, k ≤ gatherLines x.desc →
      let r := (List.range k).foldl (fun (a : Mv × List Nat) l =>
        let e := a.1.gatherLine c x l (gatherCount x.desc l); (e.1, a.2 ++ e.2)) (m, [])
      Good c n P (some q) s r.1 ∧ r.2.length = min (64 * k) (dElems x.desc) by
    obtain ⟨hgood, hlen⟩ := key _ (Nat.le_refl _)
    refine ⟨hgood, hlen.trans ?_⟩
    unfold gatherLines cdiv
    omega
  intro k
  induction k with
  | zero => exact fun _ => ⟨h, by simp⟩
  | succ k ih =>
    intro hk
    obtain ⟨hgood, hlen⟩ := ih (by omega)
    rw [List.range_succ, List.foldl_append, List.foldl_cons, List.foldl_nil]
    generalize List.foldl _ (m, ([] : List Nat)) (List.range k) = a at hgood hlen ⊢
    obtain ⟨hline, -, hcount⟩ := gatherLine_good hgood hs ok (hlines k (by omega))
    refine ⟨hline, ?_⟩
    dsimp only
    rw [List.length_append, hcount, hlen]
    unfold gatherCount
    omega

/-- A GATHER to scratchpad rows reads all its elements and writes its rows. -/
theorem gatherMove_good (hs : s.SpSound c) {x : Slot} (ok : s.GatherOk c x) (hlines : s.GatherLinesOk c x)
    (hrows : s.RowsOk c [] x.dstBase (dDstr x.desc) (rowBytes (dDfmt x.desc) (dCols x.desc)) (dTiles x.desc * dRows x.desc))
    (hP : ∀ a, InRows x.dstBase (dDstr x.desc) (rowBytes (dDfmt x.desc) (dCols x.desc)) (dTiles x.desc * dRows x.desc) a → P a) :
    Good c n P (some q) s (s.gatherMove c x) := by
  obtain ⟨hgood, hlen⟩ := gatherAll_good (Good.start c n P (some q) s) hs ok hlines
  unfold State.gatherMove
  dsimp only
  refine hgood.each (fun t i hi ht => ?_)
  have hrow := List.mem_range.1 hi
  have hchunk : (i + 1) * dCols x.desc ≤ dElems x.desc := by
    have hmul : (i + 1) * dCols x.desc ≤ dTiles x.desc * dRows x.desc * dCols x.desc := Nat.mul_le_mul_right _ hrow
    have helems : dElems x.desc = dTiles x.desc * dRows x.desc * dCols x.desc := by unfold dElems; ring
    omega
  have hcols : ((((({ s := s } : Mv).gatherAll c x).2).drop (i * dCols x.desc)).take (dCols x.desc)).length = dCols x.desc := by
    rw [List.length_take, List.length_drop, hlen]
    rw [Nat.succ_mul] at hchunk
    omega
  have hstart : Good c n P (some q) s { s := t } := ⟨rfl, ht⟩
  refine (hstart.writeRow ?_ (fun a ha => hP a ⟨i, hrow, ?_⟩)).rowDone _ _
  · rw [hcols]; exact hrows i hrow
  · rwa [hcols] at ha

/-- The station that a GATHER feeds is not its own, nor Skive. -/
theorem gatherStation_after (d : BitVec 256) : stationOf 2 < min (gatherStation d) 4 := by
  unfold gatherStation
  split <;> decide

/-- One index line fed to the direct path: its consumer takes what is left of the GATHER. -/
theorem gatherFeed_good (h : m.stop = none) (hs : m.s.SpSound c) {x : Slot} (ok : m.s.GatherOk c x) (hlines : m.s.GatherLinesOk c x)
    {i : Nat} (hi : i < gatherLines x.desc) (hk : kindOf ((m.s.core c).slot n).desc = 2)
    (htakes : m.s.PathTakes c (gatherStation x.desc) (dSfmt x.desc) (dElems x.desc - 64 * i)) :
    Good c n P (some q) m.s (m.gatherFeed c x i) ∧
    ((m.gatherFeed c x i).s.rowMoved c n (i + 1)).PathTakes c (gatherStation x.desc) (dSfmt x.desc) (dElems x.desc - 64 * (i + 1)) := by
  have hstart : Good c n P (some q) m.s m := ⟨h, Frame.refl ..⟩
  obtain ⟨hgood, hcalm, hcount⟩ := gatherLine_good hstart hs ok (hlines i hi)
  unfold Mv.gatherFeed
  dsimp only
  generalize m.gatherLine c x i (gatherCount x.desc i) = e at hgood hcalm hcount ⊢
  refine ⟨hgood.mod (Frame.feed ..), ?_⟩
  unfold Mv.mod
  rw [hgood.1]
  have hleft : dElems x.desc - 64 * i = gatherCount x.desc i + (dElems x.desc - 64 * (i + 1)) := by
    unfold gatherCount
    omega
  rw [hleft] at htakes
  refine htakes.fedRow (hgood.2.beside hcalm _) (hcalm.path _) ?_ hcount
  rw [hk]
  exact gatherStation_after x.desc

theorem Frame.gatherOk {t : State} (h : Frame c n P (some q) s t) {x : Slot} (ok : s.GatherOk c x) : t.GatherOk c x :=
  fun i hi => h.runOk (ok i hi)

theorem Frame.gatherLinesOk {t : State} (h : Frame c n P (some q) s t) {x : Slot} (ok : s.GatherLinesOk c x) : t.GatherLinesOk c x :=
  fun l hl => by rw [h.runFault]; exact ok l hl

end

/-! ## GATHER -/

section
variable {s : State} {r : StreamRef}

/-- A GATHER to scratchpad that its station can take runs to its end. -/
theorem exec_gather_rows :
    let c := r.core.val
    let n := r.slot.val
    let x := (s.core c).slot n
    let d := x.desc
    s.Taken c n 2 → gDst d = 0 → s.GatherOk c x → s.GatherLinesOk c x →
      s.RowsOk c [] x.dstBase (dDstr d) (rowBytes (dDfmt d) (dCols d)) (dTiles d * dRows d) →
      ∃ t, exec (.gather r) s = .next t ∧
        StreamedH s t c n (InRows x.dstBase (dDstr d) (rowBytes (dDfmt d) (dCols d)) (dTiles d * dRows d)) (fun _ => False) := by
  intro c n x d ⟨hk, ha, hs⟩ hdst ok hlines hrows
  have hacc := s.accepted_frame c n (fun _ => False) (some (fun _ => False))
  have hmove := gatherMove_good (s := s.accepted c n) (n := n) (q := fun _ => False) (hacc.sound hs) (hacc.gatherOk ok)
    (hacc.gatherLinesOk hlines) (fun i hi => by rw [hacc.runFault]; exact hrows i hi) (fun _ h => h)
  refine ⟨_, ?_, (Good.after hmove (s.accepted_frame c n _ _)).finishH⟩
  rw [exec_gather_eq, execGather, if_pos hdst, State.accept_eq (decide_eq_true hk) ha]

/-- A GATHER onto a direct path whose consumer can take all its elements runs to its end. -/
theorem exec_gather_feeds :
    let c := r.core.val
    let n := r.slot.val
    let x := (s.core c).slot n
    let d := x.desc
    s.Taken c n 2 → gDst d ≠ 0 → s.PathTakes c (gatherStation d) (dSfmt d) (dElems d) → s.GatherOk c x → s.GatherLinesOk c x →
      ∃ t, exec (.gather r) s = .next t ∧ StreamedH s t c n (fun _ => False) (fun _ => False) := by
  intro c n x d ⟨hk, ha, hs⟩ hdst htakes ok hlines
  have hacc : Frame c n (fun _ => False) (some (fun _ => False)) s ((s.accepted c n).rowMoved c n 0) :=
    (s.accepted_frame c n _ _).trans (Frame.rowMoved ..)
  have hslot : s.rowSlot c n (fun s _ => { s := s }) = { { x with acceptedAt := s.mashOf c } with moved := 0 } :=
    State.rowSlot_of_start rfl
  have hdesc : (s.rowSlot c n (fun s _ => { s := s })).desc = d := by rw [hslot]
  have hok : s.GatherOk c (s.rowSlot c n (fun s _ => { s := s })) := by
    unfold State.GatherOk
    rw [hdesc, show (s.rowSlot c n (fun s _ => { s := s })).srcBase = x.srcBase by rw [hslot]]
    exact ok
  have hlinesOk : s.GatherLinesOk c (s.rowSlot c n (fun s _ => { s := s })) := by
    unfold State.GatherLinesOk
    rw [hdesc, show (s.rowSlot c n (fun s _ => { s := s })).auxBase = x.auxBase by rw [hslot]]
    exact hlines
  have hmoved : (((s.accepted c n).rowMoved c n 0).core c |>.slot n).moved = 0 := congrArg Slot.moved hslot
  have hrows : RowsMove c n (gatherLines d) (fun _ => False) (some (fun _ => False)) s
      ⟨none, some (gatherStation d, dSfmt d)⟩ (fun m l => m.gatherFeed c (s.rowSlot c n (fun s _ => { s := s })) l)
      (fun i t => t.PathTakes c (gatherStation d) (dSfmt d) (dElems d - 64 * i)) := by
    have hleft : ∀ i, i < gatherLines d → ∃ k, dElems d - 64 * i = k + 1 := fun i hi => ⟨dElems d - 64 * i - 1, by
      unfold gatherLines cdiv at hi
      omega⟩
    refine ⟨fun t i _ _ hx => State.PathTakes.offer hx _, fun t i hi _ hx => ?_, fun m i hi hstop hframe hx => ?_⟩
    · obtain ⟨k, hk⟩ := hleft i hi
      have hwants := State.PathTakes.wants (hk ▸ hx)
      simp [RowGate.ready, hwants, State.PathTakes.fits hx]
    · generalize s.rowSlot c n (fun s _ => { s := s }) = y at hdesc hok hlinesOk ⊢
      rw [← hdesc] at hi hx ⊢
      exact gatherFeed_good hstop (hframe.sound hs) (hframe.gatherOk hok) (hframe.gatherLinesOk hlinesOk) hi
        (by rw [hframe.desc]; exact hk) hx
  obtain ⟨m, hrun, hgood, -⟩ := RowsMove.rowRun (s := s) (r := r) (mine := fun d => kindOf d = 2) (rows := gatherLines)
    (g := fun d => ⟨none, some (gatherStation d, dSfmt d)⟩) (start := fun s _ => { s := s }) (pre := fun m _ => (m, ()))
    (row := fun x _ m l => m.gatherFeed c x l) (decide_eq_true hk) ha rfl ⟨rfl, hacc⟩ hmoved (by rw [hdesc]; exact hrows)
    (htakes.beside ((Beside.accepted ..).trans (Beside.rowMoved ..)) (by rw [hk]; exact gatherStation_after d)
      ((State.path_rowMoved _ c n 0 _).trans (by rw [State.core_accepted]; rfl)))
  refine ⟨_, ?_, hgood.finishH⟩
  rw [exec_gather_eq, execGather, if_neg hdst]
  exact congrArg _ hrun

end

/-- Settles O28: a LOAD reads and delivers tile by tile and writes rows of the delivered shape; a GATHER reads line by line and writes
its rows, or feeds its path a line at a time, whose consumer takes what is left of it. -/
theorem loadAndGatherRunToTheirEnd : Obligations.LoadAndGatherRunToTheirEnd := by
  intro s r
  refine ⟨fun ht _ hd hfmt hgroups hsrc hdst => exec_loadStream_runs ht hd hfmt hgroups hsrc hdst,
    fun ht _ _ _ htakes hlines helems hrows => ?_⟩
  by_cases hdst : gDst ((s.core r.core.val).slot r.slot.val).desc = 0
  · simp only [hdst, true_and]
    exact exec_gather_rows ht hdst helems hlines (hrows hdst)
  · simp only [hdst, false_and]
    exact exec_gather_feeds ht hdst (htakes hdst) helems hlines

end Sys2Proof.Machine
end

section
/-! PROOF. What reading accumulator rows leaves of them (R140, R141, R167, R168): their sums, and so the answer of every later read. -/

namespace Sys2Proof.Machine

open Sys2Proof

/-! ## Reads of accumulator entries -/

/-- The sums, their checks and the uncorrectable errors among them are the same. -/
structure Mash.SameSums (a b : Mash) : Prop where
  acc : b.acc = a.acc
  resChk : b.resChk = a.resChk
  cc : b.cc = a.cc
  mb : b.mb = a.mb
  cr : b.cr = a.cr
  adds : b.adds = a.adds
  err : ∀ key, b.err.get 0 key = 2 ↔ a.err.get 0 key = 2

theorem Mash.SameSums.refl (a : Mash) : a.SameSums a := ⟨rfl, rfl, rfl, rfl, rfl, rfl, fun _ => Iff.rfl⟩
theorem Mash.SameSums.symm {a b : Mash} (h : a.SameSums b) : b.SameSums a :=
  ⟨h.acc.symm, h.resChk.symm, h.cc.symm, h.mb.symm, h.cr.symm, h.adds.symm, fun key => (h.err key).symm⟩
theorem Mash.SameSums.trans {a b e : Mash} (h : a.SameSums b) (g : b.SameSums e) : a.SameSums e :=
  ⟨g.acc.trans h.acc, g.resChk.trans h.resChk, g.cc.trans h.cc, g.mb.trans h.mb, g.cr.trans h.cr, g.adds.trans h.adds,
    fun key => (g.err key).trans (h.err key)⟩

/-- Core `j` comes from `k` by reads of its accumulator: errors corrected and checks counted. -/
structure Core.ReadsOf (k j : Core) : Prop where
  rest : j = { k with mash := j.mash }
  groups : j.mash.groups = k.mash.groups
  sums : k.mash.SameSums j.mash

theorem Core.ReadsOf.refl (k : Core) : k.ReadsOf k := ⟨rfl, rfl, Mash.SameSums.refl _⟩
theorem Core.ReadsOf.trans {k j l : Core} (h : k.ReadsOf j) (g : j.ReadsOf l) : k.ReadsOf l :=
  ⟨by rw [g.rest, h.rest], g.groups.trans h.groups, h.sums.trans g.sums⟩

/-- Corrected errors are gone; the others stand. -/
theorem err_corrected (row : Nat) (cols : List Nat) (e : FMap Nat) (key : Nat) :
    (cols.foldl (fun e j => if e.get 0 (row * 256 + j) = 1 then e.erase (row * 256 + j) else e) e).get 0 key = 2 ↔ e.get 0 key = 2 := by
  induction cols generalizing e with
  | nil => rfl
  | cons j cols ih =>
    rw [List.foldl_cons, ih]
    split
    · next h1 =>
      rw [FMap.get_erase]
      split
      · next hkey => rw [hkey, h1]; decide
      · rfl
    · rfl

section
variable {k j : Core} {g h : Group} {gi row n : Nat} {exact : Bool}

/-- Errors of a row corrected and counted. -/
theorem Core.corrected_reads (k : Core) (row ce ces res : Nat) (cols : List Nat) : k.ReadsOf (k.modMash (fun m => { m with
    accCe := ces
    err := if ce = 0 then m.err else cols.foldl (fun e j => if e.get 0 (row * 256 + j) = 1 then e.erase (row * 256 + j) else e) m.err
    resFail := res })) := by
  refine ⟨rfl, rfl, rfl, rfl, rfl, rfl, rfl, rfl, fun key => ?_⟩
  show (ite _ _ _ : FMap Nat).get 0 key = 2 ↔ _
  split
  · rfl
  · exact err_corrected ..

theorem Core.readCheck_reads (k : Core) (exact : Bool) (row n : Nat) : k.ReadsOf (k.readCheck exact row n).1 := by
  unfold Core.readCheck
  dsimp only
  split
  · exact Core.corrected_reads ..
  · split <;> exact Core.corrected_reads ..

/-- The fault of a read depends on the sums only. -/
theorem Core.readCheck_congr (hs : k.mash.SameSums j.mash) : (j.readCheck exact row n).2 = (k.readCheck exact row n).2 := by
  have hacc : ∀ col, j.acc row col = k.acc row col := fun col => by rw [Core.acc, Core.acc, hs.acc]
  have herr : ∀ col, decide (j.accErr row col = 2) = decide (k.accErr row col = 2) := fun col =>
    decide_eq_decide.2 (hs.err _)
  unfold Core.readCheck
  simp only [hacc, herr, hs.resChk]
  split
  · rfl
  · split <;> rfl

/-! ## Comparisons with the checksums -/

theorem Core.chkSkip_reads (k : Core) : k.ReadsOf k.chkSkip := ⟨rfl, rfl, rfl, rfl, rfl, rfl, rfl, rfl, fun _ => Iff.rfl⟩
theorem Core.chkFail_reads (k : Core) : k.ReadsOf k.chkFail := ⟨rfl, rfl, rfl, rfl, rfl, rfl, rfl, rfl, fun _ => Iff.rfl⟩

theorem Core.compareRow_reads (k : Core) (g : Group) (row : Nat) : k.ReadsOf (k.compareRow g row).1 := by
  have hread := k.readCheck_reads (g.mode = 0 && !g.mx) row 256
  unfold Core.compareRow
  split
  · dsimp only
    split
    · exact hread
    · split
      · exact hread.trans (Core.chkSkip_reads _)
      · split
        · exact hread
        · exact hread.trans (Core.chkFail_reads _)
  · exact Core.ReadsOf.refl k

/-- The groups differ at most in what opens, releases and closes them. -/
structure Group.Alike (g h : Group) : Prop where
  base : h.base = g.base
  mode : h.mode = g.mode
  mx : h.mx = g.mx
  chk : h.chk = g.chk
  fmt : h.fmt = g.fmt

theorem Group.Alike.refl (g : Group) : g.Alike g := ⟨rfl, rfl, rfl, rfl, rfl⟩
theorem Group.Alike.trans {g h i : Group} (a : g.Alike h) (b : h.Alike i) : g.Alike i :=
  ⟨b.base.trans a.base, b.mode.trans a.mode, b.mx.trans a.mx, b.chk.trans a.chk, b.fmt.trans a.fmt⟩

theorem Group.Alike.entryVal (a : g.Alike h) (x : AccEntry) : entryVal h x = entryVal g x := by
  unfold Machine.entryVal
  rw [a.mode, a.mx, a.fmt]

/-- The outcome of a row comparison depends on the sums and the mode of the group only. -/
theorem Core.compareRow_congr (hs : k.mash.SameSums j.mash) (a : g.Alike h) : (j.compareRow h row).2 = (k.compareRow g row).2 := by
  have hread := Core.readCheck_congr (exact := (g.mode = 0 && !g.mx)) (row := row) (n := 256) hs
  have hsums : (k.readCheck (g.mode = 0 && !g.mx) row 256).1.mash.SameSums (j.readCheck (g.mode = 0 && !g.mx) row 256).1.mash :=
    (Core.readCheck_reads ..).sums.symm.trans (hs.trans (Core.readCheck_reads ..).sums)
  unfold Core.compareRow
  rw [a.chk, a.mode, a.mx]
  split
  · dsimp only
    rw [hread]
    split
    · rfl
    · generalize (k.readCheck (g.mode = 0 && !g.mx) row 256).1 = k1 at hsums ⊢
      generalize (j.readCheck (g.mode = 0 && !g.mx) row 256).1 = j1 at hsums ⊢
      have hacc : ∀ col, j1.acc row col = k1.acc row col := fun col => by rw [Core.acc, Core.acc, hsums.acc]
      have htol : j1.rowTol h row = k1.rowTol g row := by
        unfold Core.rowTol
        rw [a.mode, a.mx, a.fmt, hsums.mb, hsums.adds]
      simp only [hacc, htol, hsums.cc, a.entryVal]
      split
      · rfl
      · split <;> rfl
  · rfl

/-- Rows of a group read one after the other: the first fault depends on the sums only. -/
theorem Core.readRows_reads (k : Core) (g : Group) : k.ReadsOf (k.readRows g).1 := by
  unfold Core.readRows
  suffices key : ∀ (l : List Nat) (a : Core × Option (Nat × Nat)), k.ReadsOf a.1 → k.ReadsOf (l.foldl (fun (a : Core × Option (Nat × Nat)) i =>
      let q := a.1.readCheck (g.mode = 0 && !g.mx) (g.base + i) 256
      (q.1, a.2.or (q.2.map (fun code => (code, g.base + i))))) a).1 from key _ _ (Core.ReadsOf.refl k)
  intro l
  induction l with
  | nil => exact fun _ ha => ha
  | cons i l ih => exact fun a ha => ih _ (ha.trans (Core.readCheck_reads ..))

theorem Core.readRows_congr (hs : k.mash.SameSums j.mash) (a : g.Alike h) (hcount : h.count = g.count) :
    (j.readRows h).2 = (k.readRows g).2 := by
  unfold Core.readRows
  rw [hcount, a.base, a.mode, a.mx]
  suffices key : ∀ (l : List Nat) (p q : Core × Option (Nat × Nat)), p.1.mash.SameSums q.1.mash → q.2 = p.2 →
      (l.foldl (fun (a : Core × Option (Nat × Nat)) i =>
        let q := a.1.readCheck (g.mode = 0 && !g.mx) (g.base + i) 256
        (q.1, a.2.or (q.2.map (fun code => (code, g.base + i))))) q).2 =
      (l.foldl (fun (a : Core × Option (Nat × Nat)) i =>
        let q := a.1.readCheck (g.mode = 0 && !g.mx) (g.base + i) 256
        (q.1, a.2.or (q.2.map (fun code => (code, g.base + i))))) p).2 from key _ (k, none) (j, none) hs rfl
  intro l
  induction l with
  | nil => exact fun _ _ _ he => he
  | cons i l ih =>
    intro p q hpq he
    refine ih _ _ ((Core.readCheck_reads ..).sums.symm.trans (hpq.trans (Core.readCheck_reads ..).sums)) ?_
    dsimp only
    rw [he, Core.readCheck_congr hpq]

theorem Core.compareCol_congr (hs : k.mash.SameSums j.mash) (a : g.Alike h) (hcount : h.count = g.count) (col : Nat) :
    j.compareCol gi h col = k.compareCol gi g col := by
  have hacc : ∀ row, j.acc row col = k.acc row col := fun row => by rw [Core.acc, Core.acc, hs.acc]
  unfold Core.compareCol
  simp only [hacc, hs.cr, a.entryVal, a.base, hcount]

/-- Columns compared and counted: what they leave, and the first failing one. -/
theorem Core.compareCols_fold (check : Nat → Option Bool) (l : List Nat) (a : Core × Option (Nat × Nat)) :
    let r := l.foldl (fun (a : Core × Option (Nat × Nat)) j =>
      match check j with
      | none => (a.1.chkSkip, a.2)
      | some ok => if ok then a else (a.1.chkFail, a.2.or (some (codeMashChecksum, j)))) a
    a.1.ReadsOf r.1 ∧ r.2 = a.2.or ((l.find? (fun j => check j = some false)).map (fun j => (codeMashChecksum, j))) := by
  induction l generalizing a with
  | nil => exact ⟨Core.ReadsOf.refl _, by simp⟩
  | cons j l ih =>
    rw [List.foldl_cons]
    cases hj : check j with
    | none =>
      obtain ⟨hreads, hfault⟩ := ih (a.1.chkSkip, a.2)
      exact ⟨(Core.chkSkip_reads _).trans hreads, by simpa [hj] using hfault⟩
    | some ok =>
      cases ok with
      | true =>
        obtain ⟨hreads, hfault⟩ := ih a
        exact ⟨hreads, by simpa [hj] using hfault⟩
      | false =>
        obtain ⟨hreads, hfault⟩ := ih (a.1.chkFail, a.2.or (some (codeMashChecksum, j)))
        exact ⟨(Core.chkFail_reads _).trans hreads, hfault.trans (by simp [hj])⟩

/-- The column comparisons leave the sums, and their outcome depends on these and the shape of the group only. -/
theorem Core.compareCols_reads (k : Core) (gi : Nat) (g : Group) : k.ReadsOf (k.compareCols gi g).1 := by
  have hread := k.readRows_reads g
  unfold Core.compareCols
  split
  · dsimp only
    split
    · exact hread
    · exact hread.trans (Core.compareCols_fold ((k.readRows g).1.compareCol gi g) (List.range 256) ((k.readRows g).1, none)).1
  · exact Core.ReadsOf.refl k

theorem Core.compareCols_congr (hs : k.mash.SameSums j.mash) (a : g.Alike h) (hcount : h.count = g.count) :
    (j.compareCols gi h).2 = (k.compareCols gi g).2 := by
  have hrows := Core.readRows_congr hs a hcount
  have hcol : (j.readRows h).1.compareCol gi h = (k.readRows g).1.compareCol gi g := funext (Core.compareCol_congr
    ((Core.readRows_reads k g).sums.symm.trans (hs.trans (Core.readRows_reads j h).sums)) a hcount)
  unfold Core.compareCols
  rw [a.chk, a.mode, a.mx]
  split
  · dsimp only
    rw [hrows]
    split
    · rfl
    · obtain ⟨-, hj⟩ := Core.compareCols_fold ((j.readRows h).1.compareCol gi h) (List.range 256) ((j.readRows h).1, none)
      obtain ⟨-, hk⟩ := Core.compareCols_fold ((k.readRows g).1.compareCol gi g) (List.range 256) ((k.readRows g).1, none)
      rw [hcol] at hj ⊢
      exact hj.trans hk.symm
  · rfl

/-! ## Releases -/

/-- What draining rows of group `gi` keeps of Mash: the sums, and the group but for what it has released; it may close. -/
structure Mash.Drained (gi : Nat) (a b : Mash) : Prop where
  sums : a.SameSums b
  alike : (a.groups.get {} gi).Alike (b.groups.get {} gi)
  count : (b.groups.get {} gi).count = (a.groups.get {} gi).count ∨ (b.groups.get {} gi).count = 0

theorem Mash.Drained.refl (gi : Nat) (a : Mash) : a.Drained gi a := ⟨.refl a, .refl _, .inl rfl⟩
theorem Mash.Drained.trans {a b e : Mash} (h : a.Drained gi b) (i : b.Drained gi e) : a.Drained gi e := by
  refine ⟨h.sums.trans i.sums, h.alike.trans i.alike, ?_⟩
  rcases i.count with hi | hi
  · rw [hi]; exact h.count
  · exact .inr hi

/-- What draining rows of group `gi` changes of a core: Mash, the liveness bits of accumulator rows, and the flags. -/
structure Core.DrainsTo (gi : Nat) (k j : Core) : Prop where
  rest : j = { k with mash := j.mash, sp := { k.sp with liveRows := j.sp.liveRows }, fpflags := j.fpflags }
  kept : k.mash.Drained gi j.mash

theorem Core.DrainsTo.trans {k j l : Core} (h : k.DrainsTo gi j) (i : j.DrainsTo gi l) : k.DrainsTo gi l :=
  ⟨by rw [i.rest, h.rest], h.kept.trans i.kept⟩
theorem Core.ReadsOf.drains (gi : Nat) (h : k.ReadsOf j) : k.DrainsTo gi j :=
  ⟨by rw [h.rest], h.sums, by rw [h.groups]; exact .refl _, .inl (by rw [h.groups])⟩
theorem Core.raise_drains (gi : Nat) (k : Core) (stn : Nat) (f : Flags) : k.DrainsTo gi (k.raise stn f) := ⟨rfl, .refl gi _⟩

theorem Core.setGroup_drains (k : Core) {gi : Nat} {x : Group} (a : (k.group gi).Alike x)
    (hcount : x.count = (k.group gi).count ∨ x.count = 0) : k.DrainsTo gi (k.setGroup gi x) := by
  have hget : (k.setGroup gi x).mash.groups.get {} gi = x := FMap.get_set_self ..
  exact ⟨rfl, ⟨rfl, rfl, rfl, rfl, rfl, rfl, fun _ => Iff.rfl⟩, by rw [hget]; exact a, by rw [hget]; exact hcount⟩

theorem Core.clearRowLive_drains (gi : Nat) (k : Core) (p : Nat → Bool) : k.DrainsTo gi (k.clearRowLive p) := ⟨rfl, .refl gi _⟩

theorem Core.closeGroup_drains (k : Core) (gi : Nat) : k.DrainsTo gi (k.closeGroup gi) :=
  (Core.clearRowLive_drains gi k _).trans (Core.setGroup_drains _ ⟨rfl, rfl, rfl, rfl, rfl⟩ (.inr rfl))

/-- A row released: with the last of its group the columns are compared, and when they pass the group closes. -/
theorem Core.releaseRow_passes (hcols : (k.group gi).count ≠ 0 → (k.compareCols gi (k.group gi)).2 = none) (row : Nat) :
    (k.releaseRow gi row).2 = none ∧ k.DrainsTo gi (k.releaseRow gi row).1 := by
  unfold Core.releaseRow
  dsimp only
  split
  · next hlast =>
    have hcount : (k.group gi).count ≠ 0 := by
      rw [← hlast]
      exact fun h0 => List.ne_nil_of_mem (insertSet_self_mem row _) (List.length_eq_zero_iff.1 h0)
    rw [hcols hcount]
    have hreads := k.compareCols_reads gi (k.group gi)
    have hgroup : (k.compareCols gi (k.group gi)).1.group gi = k.group gi := by rw [Core.group, hreads.groups]; rfl
    refine ⟨rfl, (hreads.drains gi).trans (Core.DrainsTo.trans (Core.setGroup_drains _ ?_ ?_) (Core.closeGroup_drains ..))⟩
    · rw [hgroup]; exact ⟨rfl, rfl, rfl, rfl, rfl⟩
    · rw [hgroup]; exact .inl rfl
  · exact ⟨rfl, (Core.clearRowLive_drains gi k _).trans (Core.setGroup_drains _ ⟨rfl, rfl, rfl, rfl, rfl⟩ (.inl rfl))⟩

end

end Sys2Proof.Machine
end

section
/-! PROOF. DRAIN (R50, R155 to R170): its rows leave the sums as they are, so that each is drained as it stood. -/

namespace Sys2Proof.Machine

open Sys2Proof

theorem exec_drain_eq (r : StreamRef) (s : State) : exec (.drain r) s = execDrain r s := rfl

/-! ## What Mash keeps while a stream reads or writes scratchpad -/

theorem Mv.mash_readSp (m : Mv) (c : Nat) (own : List Nat) (last : Bool) (a k : Nat) :
    ((m.readSp c own last a k).1.s.core c).mash = (m.s.core c).mash := by
  have hfix : ∀ j : Core, (j.spFix a k).mash = j.mash := fun j => by
    unfold Core.spFix
    dsimp only
    split <;> rfl
  unfold Mv.readSp
  split
  · rfl
  · split
    · rw [Mv.s_halt]
    · split
      · rw [Mv.s_halt, State.core_modCore_self]
        rfl
      · rw [State.core_modCore_self]
        split
        · exact hfix _
        · exact hfix _

theorem Mv.mash_writeSp (m : Mv) (c : Nat) (own : List Nat) (a : Nat) (bs : List Byte) :
    ((m.writeSp c own a bs).s.core c).mash = (m.s.core c).mash := by
  unfold Mv.writeSp Mv.andThen
  split
  · rfl
  · dsimp only
    split
    · rw [Mv.s_halt]
    · rw [State.core_modCore_self]
      rfl

/-! ## A row of a DRAIN -/

/-- A drained row goes to scratchpad, or onto its direct path (R155). -/
def State.drainOut (s : State) (c : Nat) (x : Slot) (i : Nat) (cs : List Nat) : Mv :=
  if dDspace x.desc = 0 then
    ({ s := s } : Mv).writeRow c 0 [] (rowAddr 0 x.dstBase (dDstr x.desc) i) (dDfmt x.desc) cs
  else { s := s.modCore c (fun k => k.feed (drStation x.desc) 0 cs) }

/-- A drained row is compared, and released if the DRAIN releases its rows (R155, R167). -/
def State.drainCheck (s : State) (c : Nat) (d : BitVec 256) (g : Group) (row : Nat) : Mv :=
  let u := (s.core c).compareRow g row
  match u.2 with
  | some code => { s := s.setCore c u.1, stop := some (code, row) }
  | none =>
    if drRelease d then
      let v := u.1.releaseRow (drGroup d) row
      { s := s.setCore c v.1, stop := v.2 }
    else { s := s.setCore c u.1 }

/-- The codes of a drained row with their flags. -/
def Core.drainCodes (k : Core) (d : BitVec 256) (g : Group) (bias : List Nat) (row : Nat) : List (Nat × Flags) :=
  (List.range (dCols d)).map (fun j => epilogue d (g.mode = 0 && !g.mx) (entryVal g (k.acc row j)) (f32v (bias.getD j 0)))

theorem Mv.drainRow_eq (m : Mv) (c : Nat) (x : Slot) (bias : List Nat) (i : Nat) : m.drainRow c x bias i = m.andThen (fun s =>
    let row := x.srcBase + i * dSstr x.desc
    let g := (s.core c).group (drGroup x.desc)
    let q := (s.core c).readCheck (g.mode = 0 && !g.mx) row (dCols x.desc)
    match q.2 with
    | some code => { s := s.setCore c q.1, stop := some (code, row) }
    | none =>
      let rs := q.1.drainCodes x.desc g bias row
      ((s.setCore c (q.1.raise 2 (rs.foldl (fun a r => a.or r.2) {}))).drainOut c x i (rs.map (·.1))).andThen
        (fun s => s.drainCheck c x.desc g row)) := rfl

section
variable {c n : Nat} {P : Nat → Prop} {Q : Option (Nat → Prop)} {s : State} {x : Slot} {k j : Core} {gi : Nat}

theorem Core.DrainsTo.frame (h : (s.core c).DrainsTo gi j) : Frame c n P Q s (s.setCore c j) :=
  Frame.quiet (f := fun _ => j) (by rw [h.rest]; rfl) (by rw [h.rest]) (by rw [h.rest]) (by rw [h.rest]) (by rw [h.rest])

theorem Core.DrainsTo.calm (h : (s.core c).DrainsTo gi j) : PathsKept c s (s.setCore c j) := by
  constructor <;> rw [State.core_setCore_self, h.rest]

/-- A drained row finds its place. -/
theorem drainOut_good {i : Nat} {cs : List Nat} (hlen : cs.length = dCols x.desc)
    (hdst : dDspace x.desc = 0 →
      s.runFault c [] (rowAddr 0 x.dstBase (dDstr x.desc) i) (rowBytes (dDfmt x.desc) (dCols x.desc)) = none ∧
      ∀ a, a / 256 ∈ linesOf (rowAddr 0 x.dstBase (dDstr x.desc) i) (rowBytes (dDfmt x.desc) (dCols x.desc)) → P a) :
    Good c n P Q s (s.drainOut c x i cs) ∧ ((s.drainOut c x i cs).s.core c).mash = (s.core c).mash := by
  unfold State.drainOut
  split
  · next h0 =>
    obtain ⟨hrun, hin⟩ := hdst h0
    exact ⟨(Good.start ..).writeRow (by rw [hlen]; exact hrun) (by rw [hlen]; exact hin), by
      unfold Mv.writeRow Mv.write
      rw [if_pos rfl]
      exact Mv.mash_writeSp ..⟩
  · exact ⟨⟨rfl, Frame.feed ..⟩, by rw [State.core_modCore_self]; rfl⟩

/-- A row whose comparison and release pass. -/
theorem drainCheck_good {g : Group} {row : Nat} {d : BitVec 256} (hrow : ((s.core c).compareRow g row).2 = none)
    (hcols : drRelease d = true → ((s.core c).group (drGroup d)).count ≠ 0 →
      ((s.core c).compareCols (drGroup d) ((s.core c).group (drGroup d))).2 = none) :
    Good c n P Q s (s.drainCheck c d g row) ∧ PathsKept c s (s.drainCheck c d g row).s ∧
    (s.core c).mash.Drained (drGroup d) ((s.drainCheck c d g row).s.core c).mash := by
  have hreads := (s.core c).compareRow_reads g row
  have hgroup : ((s.core c).compareRow g row).1.group (drGroup d) = (s.core c).group (drGroup d) := by
    rw [Core.group, hreads.groups]
    rfl
  suffices key : (s.drainCheck c d g row).stop = none ∧ ∃ j, (s.drainCheck c d g row).s = s.setCore c j ∧
      (s.core c).DrainsTo (drGroup d) j by
    obtain ⟨hstop, j, hs, hj⟩ := key
    unfold Good
    rw [hs, State.core_setCore_self]
    exact ⟨⟨hstop, hj.frame⟩, hj.calm, hj.kept⟩
  unfold State.drainCheck
  dsimp only
  rw [hrow]
  by_cases hrel : drRelease d = true
  · obtain ⟨hpass, hdrains⟩ := Core.releaseRow_passes (k := ((s.core c).compareRow g row).1) (gi := drGroup d) (fun h0 => by
      rw [hgroup] at h0 ⊢
      rw [Core.compareCols_congr hreads.sums (.refl _) rfl]
      exact hcols hrel h0) row
    dsimp only
    rw [if_pos hrel]
    exact ⟨hpass, _, rfl, (hreads.drains _).trans hdrains⟩
  · dsimp only
    rw [if_neg hrel]
    exact ⟨rfl, _, rfl, hreads.drains _⟩

/-- The rows of a DRAIN read and compare without a fault, and so do the columns of its group when it releases them. -/
structure Core.DrainOk (k : Core) (x : Slot) : Prop where
  read : ∀ i, i < dAllRows x.desc →
    (k.readCheck ((k.group (drGroup x.desc)).mode = 0 && !(k.group (drGroup x.desc)).mx) (x.srcBase + i * dSstr x.desc)
      (dCols x.desc)).2 = none
  compare : ∀ i, i < dAllRows x.desc → (k.compareRow (k.group (drGroup x.desc)) (x.srcBase + i * dSstr x.desc)).2 = none
  cols : drRelease x.desc = true → (k.compareCols (drGroup x.desc) (k.group (drGroup x.desc))).2 = none

/-- The destination rows of a DRAIN into scratchpad are accessible and inside `P`. -/
def State.DrainTo (s : State) (c : Nat) (x : Slot) (P : Nat → Prop) : Prop :=
  ∀ i, i < dAllRows x.desc → dDspace x.desc = 0 →
    s.runFault c [] (rowAddr 0 x.dstBase (dDstr x.desc) i) (rowBytes (dDfmt x.desc) (dCols x.desc)) = none ∧
    ∀ a, a / 256 ∈ linesOf (rowAddr 0 x.dstBase (dDstr x.desc) i) (rowBytes (dDfmt x.desc) (dCols x.desc)) → P a

/-- What is left of a DRAIN before row `i`: the sums, and on a direct path a stream that can take its rows. -/
structure State.DrainLeft (s : State) (c : Nat) (k : Core) (d : BitVec 256) (i : Nat) : Prop where
  kept : k.mash.Drained (drGroup d) (s.core c).mash
  takes : dDspace d ≠ 0 → s.PathTakes c (drStation d) 0 ((dAllRows d - i) * dCols d)

/-- The stations that a DRAIN feeds come after its own. -/
theorem drStation_after (d : BitVec 256) : stationOf 3 < min (drStation d) 4 := by
  unfold drStation
  split <;> decide

/-- A movement that has not stopped goes on from its state. -/
theorem Mv.andThen_s {m : Mv} (h : m.stop = none) (f : State → Mv) : (m.andThen f).s = (f m.s).s := by
  unfold Mv.andThen
  rw [h]
theorem Mv.good_andThen {m : Mv} (h : m.stop = none) (f : State → Mv) :
    Good c n P Q s (m.andThen f) ↔ Good c n P Q s (f m.s) := by
  unfold Mv.andThen
  rw [h]
  rfl

/-- What a row puts on the direct path before it is compared and released, its consumer takes. -/
theorem State.PathTakes.drained {s1 s2 t : State} {stn rest i : Nat} {cs : List Nat}
    (h : s.PathTakes c stn 0 (cs.length + rest)) (hn : stationOf (kindOf ((s.core c).slot n).desc) < min stn 4)
    (h1 : Frame c n P Q s s1) (c1 : PathsKept c s s1) (h2 : s2 = s1.modCore c (fun k => k.feed stn 0 cs))
    (h3 : Frame c n P Q s2 t) (c3 : PathsKept c s2 t) : (t.rowMoved c n i).PathTakes c stn 0 rest := by
  subst h2
  refine h.feed ((((h1.beside c1 stn).trans (Beside.feed ..)).trans (h3.beside c3 stn)).trans (Beside.rowMoved ..)) hn rfl ?_
  rw [State.path_rowMoved, c3.path, State.path_feed, c1.path]

/-- A row drains, as the DRAIN's first would have. -/
theorem drainRow_good {m : Mv} {i : Nat} {bias : List Nat} (hstop : m.stop = none) (hok : k.DrainOk x) (hi : i < dAllRows x.desc)
    (hdst : m.s.DrainTo c x P) (hk : kindOf ((m.s.core c).slot n).desc = 3) (hleft : m.s.DrainLeft c k x.desc i) :
    Good c n P Q m.s (m.drainRow c x bias i) ∧ ((m.drainRow c x bias i).s.rowMoved c n (i + 1)).DrainLeft c k x.desc (i + 1) := by
  obtain ⟨hkept, htakes⟩ := hleft
  rw [Mv.drainRow_eq, Mv.good_andThen hstop, Mv.andThen_s hstop]
  dsimp only
  generalize hg : (m.s.core c).group (drGroup x.desc) = g
  have halike : (k.group (drGroup x.desc)).Alike g := by rw [← hg]; exact hkept.alike
  generalize hrow : x.srcBase + i * dSstr x.desc = row
  have hread : ((m.s.core c).readCheck (g.mode = 0 && !g.mx) row (dCols x.desc)).2 = none := by
    rw [Core.readCheck_congr hkept.sums, halike.mode, halike.mx, ← hrow]
    exact hok.read i hi
  have hreads := (m.s.core c).readCheck_reads (g.mode = 0 && !g.mx) row (dCols x.desc)
  rw [hread]
  dsimp only
  generalize ((m.s.core c).readCheck (g.mode = 0 && !g.mx) row (dCols x.desc)).1 = j at hreads ⊢
  have hlen : ((j.drainCodes x.desc g bias row).map (·.1)).length = dCols x.desc := by simp [Core.drainCodes]
  generalize (j.drainCodes x.desc g bias row).map (·.1) = cs at hlen ⊢
  have hraised := (hreads.drains (drGroup x.desc)).trans
    (Core.raise_drains (drGroup x.desc) j 2 ((j.drainCodes x.desc g bias row).foldl (fun a r => a.or r.2) {}))
  generalize j.raise 2 _ = j1 at hraised ⊢
  have hframe1 : Frame c n P Q m.s (m.s.setCore c j1) := hraised.frame
  obtain ⟨hout, hmash⟩ := drainOut_good (n := n) (Q := Q) (s := m.s.setCore c j1) (cs := cs) hlen
    (fun h0 => by rw [hframe1.runFault]; exact hdst i hi h0)
  have hkept1 : k.mash.Drained (drGroup x.desc) (((m.s.setCore c j1).drainOut c x i cs).s.core c).mash := by
    rw [hmash, State.core_setCore_self]
    exact hkept.trans hraised.kept
  rw [Mv.good_andThen hout.1, Mv.andThen_s hout.1]
  obtain ⟨hcheck, hcalm, hkept2⟩ := drainCheck_good (c := c) (n := n) (P := P) (Q := Q) (g := g) (row := row) (d := x.desc)
    (s := ((m.s.setCore c j1).drainOut c x i cs).s)
    (by rw [Core.compareRow_congr hkept1.sums halike, ← hrow]; exact hok.compare i hi)
    (fun hrel hcount => (Core.compareCols_congr hkept1.sums hkept1.alike (hkept1.count.resolve_right hcount)).trans (hok.cols hrel))
  refine ⟨hcheck.after (hframe1.trans hout.2), ⟨?_, fun hpath => ?_⟩⟩
  · rw [State.rowMoved, State.core_modCore_self, Core.modSlot_mash]
    exact hkept1.trans hkept2
  · have hrest : (dAllRows x.desc - i) * dCols x.desc = cs.length + (dAllRows x.desc - (i + 1)) * dCols x.desc := by
      rw [hlen, show dAllRows x.desc - i = dAllRows x.desc - (i + 1) + 1 by omega, Nat.succ_mul, Nat.add_comm]
    refine State.PathTakes.drained (hrest ▸ htakes hpath) (by rw [hk]; exact drStation_after _) hframe1 hraised.calm ?_ hcheck.2 hcalm
    unfold State.drainOut
    rw [if_neg hpath]

/-- The bias row of a DRAIN is read. -/
theorem drainBias_good (hs : s.SpSound c) (m : Mv) (h : Good c n P Q s m)
    (hbias : drBias x.desc = true → s.runFault c [] (256 * x.auxBase) (rowBytes 0 (dCols x.desc)) = none) :
    Good c n P Q s (m.drainBias c x).1 ∧ PathsKept c m.s (m.drainBias c x).1.s ∧
    ((m.drainBias c x).1.s.core c).mash = (m.s.core c).mash := by
  unfold Mv.drainBias
  split
  · next hb =>
    refine ⟨(h.readRow hs (hbias hb) false).1, ?_, ?_⟩
    · exact PathsKept.readSp ..
    · exact Mv.mash_readSp ..
  · exact ⟨h, PathsKept.refl .., rfl⟩

end

/-! ## DRAIN -/

section
variable {s : State} {r : StreamRef}

/-- With what a DRAIN begins once it is accepted: the faults of R155. -/
def drainStart (c : Nat) (s : State) (x : Slot) : Mv :=
  match (s.core c).drainFault x with | some code => { s := s, stop := some (code, x.srcBase) } | none => { s := s }

theorem execDrain_eq (r : StreamRef) (s : State) : execDrain r s = .next ((s.rowRun r (fun d => kindOf d = 3) dAllRows
    (fun d => ⟨none, if dDspace d = 0 then none else some (drStation d, 0)⟩) (drainStart r.core.val)
    (fun m x => m.drainBias r.core.val x) (fun x bias m i => m.drainRow r.core.val x bias i)).abortsDue r.core.val r.slot.val) := rfl

theorem drainStart_accepted {c n : Nat} (h : (s.core c).drainFault ((s.core c).slot n) = none) :
    drainStart c (s.accepted c n) ((s.core c).slot n) = { s := s.accepted c n } := by
  unfold drainStart
  rw [State.core_accepted, show ∀ y, ((s.core c).setSlot n y).drainFault ((s.core c).slot n) = (s.core c).drainFault ((s.core c).slot n)
    from fun _ => rfl, h]

/-- A slot that has not faulted has no aborts waiting for it. -/
theorem State.abortsDue_of_not_faulted {s : State} {c n : Nat} (h : ((s.core c).slot n).state ≠ .faulted) : s.abortsDue c n = s := by
  unfold State.abortsDue
  rw [if_neg (by simp [h])]

/-- The rows of a DRAIN move one after the other. -/
theorem drain_rowsMove {c n : Nat} {P : Nat → Prop} {Q : Option (Nat → Prop)} {k : Core} {x : Slot} {bias : List Nat}
    (hk : kindOf ((s.core c).slot n).desc = 3) (hok : k.DrainOk x) (hto : s.DrainTo c x P) :
    RowsMove c n (dAllRows x.desc) P Q s ⟨none, if dDspace x.desc = 0 then none else some (drStation x.desc, 0)⟩
      (fun m i => m.drainRow c x bias i) (fun i t => t.DrainLeft c k x.desc i) := by
  refine ⟨fun t i _ _ hx => ?_, fun t i hi _ hx => ?_, fun m i hi hstop hframe hx => ?_⟩
  · unfold RowGate.offer
    by_cases h0 : dDspace x.desc = 0
    · simp [h0]
    · simp only [h0, if_false]
      exact (hx.takes h0).offer _
  · unfold RowGate.ready
    by_cases h0 : dDspace x.desc = 0
    · simp [h0]
    · have htakes := hx.takes h0
      obtain ⟨j, hj⟩ : ∃ j, (dAllRows x.desc - i) * dCols x.desc = j + 1 :=
        Nat.exists_eq_succ_of_ne_zero (Nat.mul_ne_zero (by omega) (by unfold dCols; omega))
      simp [h0, htakes.fits, (hj ▸ htakes).wants]
  · exact drainRow_good hstop hok hi (fun i hi h0 => by rw [hframe.runFault]; exact hto i hi h0) (by rw [hframe.desc]; exact hk) hx

/-- A DRAIN whose rows pass runs to its end, and leaves the accumulator values. -/
theorem exec_drain_runs :
    let c := r.core.val
    let n := r.slot.val
    let k := s.core c
    let x := k.slot n
    let d := x.desc
    s.Taken c n 3 → (dDspace d = 0 ∨ s.PathTakes c (drStation d) 0 (dElems d)) → k.drainFault x = none →
      (drBias d = true → s.runFault c [] (256 * x.auxBase) (rowBytes 0 (dCols d)) = none) → k.DrainOk x →
      (dDspace d = 0 → s.RowsOk c [] x.dstBase (dDstr d) (rowBytes (dDfmt d) (dCols d)) (dAllRows d)) →
      ∃ t, exec (.drain r) s = .next t ∧
        Streamed s t c n (fun a => dDspace d = 0 ∧ InRows x.dstBase (dDstr d) (rowBytes (dDfmt d) (dCols d)) (dAllRows d) a) ∧
        (t.core c).mash.acc = k.mash.acc := by
  intro c n k x d ⟨hk, ha, hs⟩ hpath hfault hbias hok hrows
  have hstart := drainStart_accepted hfault
  have hslot := State.rowSlot_of_start hstart
  have hdesc : (s.rowSlot c n (drainStart c)).desc = d := by rw [hslot]
  have hsrc : (s.rowSlot c n (drainStart c)).srcBase = x.srcBase := by rw [hslot]
  have hdst : (s.rowSlot c n (drainStart c)).dstBase = x.dstBase := by rw [hslot]
  have haux : (s.rowSlot c n (drainStart c)).auxBase = x.auxBase := by rw [hslot]
  have hmoved : (s.rowSlot c n (drainStart c)).moved = 0 := by rw [hslot]
  have hok' : k.DrainOk (s.rowSlot c n (drainStart c)) := by
    constructor
    · rw [hdesc, hsrc]; exact hok.read
    · rw [hdesc, hsrc]; exact hok.compare
    · rw [hdesc]; exact hok.cols
  have hto : s.DrainTo c (s.rowSlot c n (drainStart c))
      (fun a => dDspace d = 0 ∧ InRows x.dstBase (dDstr d) (rowBytes (dDfmt d) (dCols d)) (dAllRows d) a) := by
    unfold State.DrainTo
    rw [hdesc, hdst]
    exact fun i hi h0 => ⟨hrows h0 i hi, fun a ha => ⟨h0, i, hi, ha⟩⟩
  have hbegin : s.rowStart c n (drainStart c) (fun m x => m.drainBias c x) =
      (({ s := (s.accepted c n).rowMoved c n 0 } : Mv)).drainBias c (s.rowSlot c n (drainStart c)) := by
    unfold State.rowStart
    rw [hstart]
    rfl
  have hacc : Frame c n (fun a => dDspace d = 0 ∧ InRows x.dstBase (dDstr d) (rowBytes (dDfmt d) (dCols d)) (dAllRows d) a) none s
      ((s.accepted c n).rowMoved c n 0) := (s.accepted_frame c n _ _).trans (Frame.rowMoved ..)
  obtain ⟨hgood, hquiet, hmash⟩ := drainBias_good (x := s.rowSlot c n (drainStart c)) (hacc.sound hs) { s := (s.accepted c n).rowMoved c n 0 }
    (Good.start c n (fun a => dDspace d = 0 ∧ InRows x.dstBase (dDstr d) (rowBytes (dDfmt d) (dCols d)) (dAllRows d) a) none _)
    (by rw [hdesc, haux, hacc.runFault]; exact hbias)
  rw [← hbegin] at hgood hquiet hmash
  have hmash' : (((s.rowStart c n (drainStart c) (fun m x => m.drainBias c x)).1.s.core c)).mash = k.mash := hmash.trans (by
    show (((s.accepted c n).rowMoved c n 0).core c).mash = _
    rw [State.rowMoved, State.core_modCore_self, Core.modSlot_mash, State.core_accepted, Core.setSlot_mash])
  obtain ⟨m, hrun, hend, hlast⟩ := RowsMove.rowRun (s := s) (r := r) (mine := fun d => kindOf d = 3) (rows := dAllRows)
    (g := fun d => ⟨none, if dDspace d = 0 then none else some (drStation d, 0)⟩) (start := drainStart c)
    (pre := fun m x => m.drainBias c x) (row := fun x bias m i => m.drainRow c x bias i) (decide_eq_true hk) ha
    (congrArg Mv.stop hstart) (hgood.after hacc)
    ((congrArg Slot.moved (Core.slot_congr hquiet.slots n)).trans (congrArg Slot.moved (State.slot_rowMoved ..)))
    (drain_rowsMove hk hok' hto) (by
      rw [hdesc]
      refine ⟨by rw [hmash']; exact .refl _ _, fun h0 => ?_⟩
      have hbeside := ((Beside.accepted s c n (drStation d)).trans (Beside.rowMoved _ c n _ 0)).trans (hgood.2.beside hquiet _)
      have helems : (dAllRows d - 0) * dCols d = dElems d := by unfold dAllRows dElems; rw [Nat.sub_zero]; ring
      rw [helems]
      refine (hpath.resolve_left h0).beside hbeside (by rw [hk]; exact drStation_after d) ((hquiet.path _).trans ?_)
      exact (State.path_rowMoved _ c n 0 _).trans (by rw [State.core_accepted]; rfl))
  have hdone := hend.finish
  obtain ⟨-, -, -, -, -, hactive, -⟩ := hdone
  refine ⟨_, ?_, hend.finish, ?_⟩
  · rw [exec_drain_eq, execDrain_eq, hrun, State.abortsDue_of_not_faulted (by rw [hactive]; decide)]
  · unfold Mv.finish
    rw [hend.1, State.doneSlot, State.core_modCore_self]
    exact hlast.kept.sums.acc

/-- A row-by-row stream onto a path with no consumer moves no row and stays ACTIVE (R50, R99). -/
theorem rowLoop_stalls {c n rows stn fmt fuel : Nat} {row : Mv → Nat → Mv} (hnone : (s.core c).consumer stn = none)
    (hmoved : ((s.core c).slot n).moved < rows) :
    (Mv.rowLoop c n rows ⟨none, some (stn, fmt)⟩ row fuel { s := s }).rowEnd c n rows =
      s.modCore c (fun k => k.modSlot n (fun x => { x with state := .active })) := by
  have hloop : Mv.rowLoop c n rows ⟨none, some (stn, fmt)⟩ row fuel { s := s } = { s := s } := by
    cases fuel with
    | zero => rfl
    | succ fuel =>
      have hoffer : (⟨none, some (stn, fmt)⟩ : RowGate).offer s c = s := by
        show s.pathOffer c stn fmt 64 = s
        unfold State.pathOffer
        simp [hnone]
      have hready : (⟨none, some (stn, fmt)⟩ : RowGate).ready s c = false := by simp [RowGate.ready, State.pathWants, hnone]
      have hmod : ({ s := s } : Mv).mod (fun s => (⟨none, some (stn, fmt)⟩ : RowGate).offer s c) = { s := s } := by
        unfold Mv.mod
        dsimp only
        rw [hoffer]
      rw [Mv.rowLoop]
      dsimp only
      rw [if_neg (by omega), hmod, hready, if_neg Bool.false_ne_true]
  rw [hloop]
  unfold Mv.rowEnd
  dsimp only
  rw [if_neg (by omega)]

/-- A DRAIN onto a path with no consumer stays ACTIVE and moves no row. -/
theorem exec_drain_stalls :
    let c := r.core.val
    let n := r.slot.val
    let k := s.core c
    let x := k.slot n
    let d := x.desc
    s.Taken c n 3 → dDspace d ≠ 0 → k.drainFault x = none → drBias d = false → k.consumer (drStation d) = none →
      ∃ t, exec (.drain r) s = .next t ∧ ((t.core c).slot n).state = .active ∧
        (t.core c).path (drStation d) = k.path (drStation d) ∧ (t.core c).mash = k.mash ∧ (t.core c).sp = k.sp := by
  intro c n k x d ⟨hk, ha, hs⟩ hd hfault hbias hnone
  have hstart := drainStart_accepted hfault
  have hslot := State.rowSlot_of_start hstart
  have hdesc : (s.rowSlot c n (drainStart c)).desc = d := by rw [hslot]
  have hbegin : s.rowStart c n (drainStart c) (fun m x => m.drainBias c x) = ({ s := (s.accepted c n).rowMoved c n 0 }, []) := by
    unfold State.rowStart Mv.drainBias
    dsimp only
    rw [hstart, hdesc, if_neg (by simp [hbias])]
    rfl
  have hnone' : (((s.accepted c n).rowMoved c n 0).core c).consumer (drStation d) = none :=
    (((Beside.accepted s c n 0).trans (Beside.rowMoved ..)).consumer _).trans hnone
  have hmoved : ((((s.accepted c n).rowMoved c n 0).core c).slot n).moved < dAllRows d := by
    rw [State.slot_rowMoved]
    exact Nat.mul_pos (by unfold dTiles; omega) (by unfold dRows; omega)
  have hrun := State.rowRun_eq (s := s) (r := r) (mine := fun d => kindOf d = 3) (rows := dAllRows)
    (g := fun d => ⟨none, if dDspace d = 0 then none else some (drStation d, 0)⟩) (start := drainStart c)
    (pre := fun m x => m.drainBias c x) (row := fun x bias m i => m.drainRow c x bias i) (decide_eq_true hk) ha
    (congrArg Mv.stop hstart)
  dsimp only at hrun
  rw [hbegin, hdesc, if_neg hd, rowLoop_stalls hnone' hmoved] at hrun
  have hactive : ((((s.accepted c n).rowMoved c n 0).modCore c (fun k => k.modSlot n (fun x => { x with state := .active }))).core c
      |>.slot n).state = .active := by rw [State.core_modCore_self, Core.slot_modSlot_self]
  refine ⟨_, ?_, hactive, ?_, ?_, ?_⟩
  · rw [exec_drain_eq, execDrain_eq, hrun, State.abortsDue_of_not_faulted (by rw [hactive]; decide)]
  · rw [State.core_modCore_self]
    exact (State.path_rowMoved _ c n 0 _).trans (by rw [State.core_accepted]; rfl)
  · rw [State.core_modCore_self, Core.modSlot_mash, State.rowMoved, State.core_modCore_self, Core.modSlot_mash, State.core_accepted,
      Core.setSlot_mash]
  · rw [State.core_modCore_self, State.rowMoved, State.core_modCore_self, State.core_accepted]
    rfl

end
end Sys2Proof.Machine
end

section
/-! PROOF. NARROW (R119 to R131): each row comes from scratchpad or Skive's path, and goes to scratchpad or onto the path into Cask. -/

namespace Sys2Proof.Machine

open Sys2Proof

theorem exec_narrow_eq (r : StreamRef) (s : State) : exec (.narrow r) s = execNarrow r s := rfl

/-! ## Narrowed rows -/

/-- Blocks of a row hold all its elements. -/
theorem blocksOf_flatten {α : Type} (k : Nat) (xs : List α) : (blocksOf k xs).flatten = xs.take (32 * k) := by
  induction k generalizing xs with
  | zero => simp [blocksOf]
  | succ k ih => rw [blocksOf, List.flatten_cons, ih, Nat.mul_succ, Nat.add_comm, List.take_add]

theorem blocksOf_length {α : Type} (k : Nat) (xs : List α) : (blocksOf k xs).length = k := by
  induction k generalizing xs with
  | zero => rfl
  | succ k ih => rw [blocksOf, List.length_cons, ih]

theorem mxBlock_codes_length (f : Nat) (xs : List XVal) : (mxBlock f xs).2.1.length = xs.length := by
  unfold mxBlock
  split <;> simp

/-- A row narrowed to an MX format: a code for each element, a scale for each block. -/
theorem mxRow_lengths (f : Nat) (xs : List XVal) : (mxRow f xs).1.length = xs.length ∧ (mxRow f xs).2.1.length = cdiv xs.length 32 := by
  unfold mxRow
  dsimp only
  refine ⟨?_, by rw [List.length_map, List.length_map, blocksOf_length]⟩
  have hall : xs.take (32 * cdiv xs.length 32) = xs := List.take_of_length_le (by unfold cdiv; omega)
  have hlen := congrArg List.length ((blocksOf_flatten (cdiv xs.length 32) xs).trans hall)
  rw [List.length_flatten] at hlen
  rw [List.length_flatMap, List.map_map]
  refine Eq.trans (congrArg List.sum (List.map_congr_left fun b _ => ?_)) hlen
  exact mxBlock_codes_length f b

/-- A narrowed row: a code for each element, and for an MX format a scale for each 32 of them. -/
theorem narrowRow_lengths (d : BitVec 256) (xs : List XVal) : (narrowRow d xs).1.length = xs.length ∧
    (isMx (dDfmt d) = true → (narrowRow d xs).2.1.length = cdiv xs.length 32) := by
  unfold narrowRow
  dsimp only
  split
  · exact ⟨(mxRow_lengths _ xs).1, fun _ => (mxRow_lengths _ xs).2⟩
  · next hno => exact ⟨by simp, fun hmx => absurd hmx hno⟩

theorem withScales_length (fmt : Nat) (cs scales : List Nat) : (withScales fmt cs scales).length = cs.length := by
  unfold withScales
  split
  · rw [List.length_map, List.length_zipIdx]
  · rfl

/-! ## What a write leaves of the paths -/

theorem PathsKept.writeSp (m : Mv) (c : Nat) (own : List Nat) (a : Nat) (bs : List Byte) : PathsKept c m.s (m.writeSp c own a bs).s := by
  unfold Mv.writeSp Mv.andThen
  split
  · exact PathsKept.refl ..
  · dsimp only
    split
    · rw [Mv.s_halt]
      exact PathsKept.refl ..
    · exact PathsKept.modCore (f := fun k => (k.spWrite a bs).setLive (linesOf a bs.length)) rfl rfl rfl rfl

theorem PathsKept.writeRowMx (m : Mv) (c a fmt sa : Nat) (cs scales : List Nat) :
    PathsKept c m.s (m.writeRowMx c 0 [] a fmt cs sa scales).s := by
  have hrow : PathsKept c m.s (m.writeRow c 0 [] a fmt cs).s := by
    unfold Mv.writeRow Mv.write
    rw [if_pos rfl]
    exact PathsKept.writeSp ..
  unfold Mv.writeRowMx
  split
  · refine hrow.trans ?_
    unfold Mv.write
    rw [if_pos rfl]
    exact PathsKept.writeSp ..
  · exact hrow

section
variable {c n : Nat} {P : Nat → Prop} {Q : Option (Nat → Prop)} {s : State} {m : Mv} {x : Slot}

/-! ## A row of a NARROW -/

/-- The next row of a NARROW's source. -/
def Mv.narrowIn (m : Mv) (c : Nat) (x : Slot) (i : Nat) : Mv × List Nat :=
  if dSspace x.desc = 3 then
    (m.mod (fun s => s.setCore c ((s.core c).takePath 3 (dCols x.desc)).1), ((m.s.core c).takePath 3 (dCols x.desc)).2)
  else m.readRow c 0 [] (dLast x.desc) (rowAddr 0 x.srcBase (dSstr x.desc) i) (dSfmt x.desc) (dCols x.desc)

/-- A narrowed row goes to scratchpad, or onto the path into Cask. -/
def Mv.narrowOut (m : Mv) (c : Nat) (x : Slot) (i : Nat) (cs scales : List Nat) : Mv :=
  if dDspace x.desc = 0 then
    m.writeRowMx c 0 [] (rowAddr 0 x.dstBase (dDstr x.desc) i) (dDfmt x.desc) cs (scaleAddr 0 x.auxBase (fld x.desc 226 10) i) scales
  else m.mod (fun s => s.modCore c (fun k => k.feed 6 (dDfmt x.desc) (withScales (dDfmt x.desc) cs scales)))

/-- What a NARROW notes of a row: the histogram, when it counts one, and the flags (R128, R131). -/
def Core.narrowNote (k : Core) (x : Slot) (codes : List Nat) (f : Flags) : Core :=
  ({ k with vec := if bit x.desc 216 then
    k.vec.histRow x.expBase (dSfmt x.desc) codes (codes.map (elemVal (dSfmt x.desc))) else k.vec }).raise 3 f

theorem Mv.narrowOne_eq (m : Mv) (c : Nat) (x : Slot) (i : Nat) : m.narrowOne c x i =
    let q := m.narrowIn c x i
    let r := narrowRow x.desc (q.2.map (elemVal (dSfmt x.desc)))
    (q.1.mod (fun s => s.modCore c (fun k => k.narrowNote x q.2 r.2.2))).narrowOut c x i r.1 r.2.1 := rfl

/-- The source rows of a NARROW are accessible, unless they come from its path. -/
def State.NarrowFrom (s : State) (c : Nat) (x : Slot) : Prop :=
  dSspace x.desc ≠ 3 → s.RowsOk c [] x.srcBase (dSstr x.desc) (rowBytes (dSfmt x.desc) (dCols x.desc)) (dAllRows x.desc)

/-- The destination rows of a NARROW into scratchpad are accessible and inside `P`. -/
def State.NarrowTo (s : State) (c : Nat) (x : Slot) (P : Nat → Prop) : Prop :=
  dDspace x.desc = 0 →
    s.OperandOk c 0 true x.dstBase (dDstr x.desc) (dDfmt x.desc) (dCols x.desc) (dAllRows x.desc) x.auxBase (fld x.desc 226 10) ∧
    ∀ a, InOperand x.dstBase (dDstr x.desc) (dDfmt x.desc) (dCols x.desc) (dAllRows x.desc) x.auxBase (fld x.desc 226 10) a → P a

/-- What is left of a NARROW before row `i`: its rows on its path, and on the path into Cask a stream that can take them. -/
structure State.NarrowLeft (s : State) (c : Nat) (d : BitVec 256) (i : Nat) : Prop where
  has : dSspace d = 3 → (dAllRows d - i) * dCols d ≤ ((s.core c).path 3).elems.length
  takes : dDspace d ≠ 0 → s.PathTakes c 6 (dDfmt d) ((dAllRows d - i) * dCols d)

theorem narrowLeft_succ {d : BitVec 256} {i : Nat} (hi : i < dAllRows d) :
    (dAllRows d - i) * dCols d = dCols d + (dAllRows d - (i + 1)) * dCols d := by
  rw [show dAllRows d - i = dAllRows d - (i + 1) + 1 by omega, Nat.succ_mul, Nat.add_comm]

/-- Elements taken from Skive's path. -/
theorem Beside.takePath (s : State) (c n w : Nat) : Beside c n 6 s (s.modCore c (fun k => (k.takePath 3 w).1)) :=
  Beside.modCore rfl rfl rfl rfl (fun _ _ => rfl) ⟨_, rfl, rfl, rfl, rfl, rfl⟩ (fun _ _ h3 => FMap.get_set_ne _ _ h3 _)

theorem State.path_takePath (s : State) (c w : Nat) :
    ((s.modCore c (fun k => (k.takePath 3 w).1)).core c).path 3 =
      ⟨((s.core c).path 3).fmt, ((s.core c).path 3).elems.drop w⟩ := by
  rw [State.core_modCore_self, Core.path, Core.takePath]
  exact FMap.get_set_self ..

/-- A row comes from the source: the other paths are as before, and its own has so many elements fewer. -/
theorem narrowIn_good (hstop : m.stop = none) (hs : m.s.SpSound c) {i : Nat} (hi : i < dAllRows x.desc) (hfrom : m.s.NarrowFrom c x)
    (hhas : dSspace x.desc = 3 → dCols x.desc ≤ ((m.s.core c).path 3).elems.length) :
    Good c n P Q m.s (m.narrowIn c x i).1 ∧ Beside c n 6 m.s (m.narrowIn c x i).1.s ∧ (m.narrowIn c x i).2.length = dCols x.desc ∧
    ((m.narrowIn c x i).1.s.core c).path 6 = (m.s.core c).path 6 ∧
    (dSspace x.desc = 3 → (((m.narrowIn c x i).1.s.core c).path 3).elems.length =
      ((m.s.core c).path 3).elems.length - dCols x.desc) := by
  have hstart : Good c n P Q m.s m := ⟨hstop, Frame.refl ..⟩
  unfold Mv.narrowIn
  split
  · have htake : (m.mod (fun s => s.setCore c ((s.core c).takePath 3 (dCols x.desc)).1)).s =
        m.s.modCore c (fun k => (k.takePath 3 (dCols x.desc)).1) := by
      unfold Mv.mod
      rw [hstop]
      rfl
    have hbeside : Beside c n 6 m.s (m.mod (fun s => s.setCore c ((s.core c).takePath 3 (dCols x.desc)).1)).s := by
      rw [htake]
      exact Beside.takePath ..
    refine ⟨hstart.mod (Frame.quiet (f := fun k => (k.takePath 3 (dCols x.desc)).1) rfl rfl rfl rfl rfl), hbeside, ?_, ?_, fun _ => ?_⟩
    · exact List.length_take_of_le (hhas (by assumption))
    · dsimp only
      rw [htake, State.core_modCore_self]
      exact FMap.get_set_ne _ _ (by decide) _
    · dsimp only
      rw [htake, State.path_takePath, List.length_drop]
  · next h3 =>
    have hread := hstart.readRow hs (hfrom h3 i hi) (dLast x.desc)
    have hkept : PathsKept c m.s (m.readRow c 0 [] (dLast x.desc) (rowAddr 0 x.srcBase (dSstr x.desc) i) (dSfmt x.desc) (dCols x.desc)).1.s :=
      PathsKept.readSp ..
    exact ⟨hread.1, hread.1.2.beside hkept 6, by rw [hread.2, codesOf_length], hkept.path 6, fun h => absurd h h3⟩

/-- A narrowed row finds its place. -/
theorem narrowOut_good (h : Good c n P Q s m) {i : Nat} (hi : i < dAllRows x.desc) {cs scales : List Nat}
    (hlen : cs.length = dCols x.desc) (hscales : isMx (dDfmt x.desc) = true → scales.length = cdiv (dCols x.desc) 32)
    (hto : s.NarrowTo c x P) : Good c n P Q s (m.narrowOut c x i cs scales) := by
  unfold Mv.narrowOut
  split
  · next h0 =>
    obtain ⟨hok, hP⟩ := hto h0
    obtain ⟨hrow, hscale⟩ := hok i hi
    refine h.writeRowMx ?_ (fun y hy => hP y (.inl ⟨i, hi, ?_⟩)) (fun hmx => ?_) (fun hmx y hy => hP y (.inr ⟨hmx, i, hi, ?_⟩))
    · rw [hlen]; exact hrow
    · rwa [hlen] at hy
    · rw [hscales hmx]; exact hscale hmx
    · rwa [hscales hmx] at hy
  · exact h.mod (Frame.feed ..)

theorem Mv.narrowOut_feeds (hstop : m.stop = none) (hd : dDspace x.desc ≠ 0) (i : Nat) (cs scales : List Nat) :
    (m.narrowOut c x i cs scales).s =
      m.s.modCore c (fun k => k.feed 6 (dDfmt x.desc) (withScales (dDfmt x.desc) cs scales)) := by
  unfold Mv.narrowOut Mv.mod
  rw [if_neg hd, hstop]

/-- A narrowed row leaves what is still to come on Skive's path. -/
theorem Mv.narrowOut_source (hstop : m.stop = none) (i : Nat) (cs scales : List Nat) :
    ((m.narrowOut c x i cs scales).s.core c).path 3 = (m.s.core c).path 3 := by
  by_cases hd : dDspace x.desc = 0
  · unfold Mv.narrowOut
    rw [if_pos hd]
    exact (PathsKept.writeRowMx ..).path 3
  · rw [Mv.narrowOut_feeds hstop hd, State.core_modCore_self, Core.path, Core.path, Core.feed]
    exact FMap.get_set_ne _ _ (by decide) _

/-- A row is narrowed: what is left of the stream has its source and its taker. -/
theorem narrowOne_good (hstop : m.stop = none) (hs : m.s.SpSound c) {i : Nat} (hi : i < dAllRows x.desc)
    (hk : kindOf ((m.s.core c).slot n).desc = 4) (hfrom : m.s.NarrowFrom c x) (hto : m.s.NarrowTo c x P)
    (hleft : m.s.NarrowLeft c x.desc i) :
    Good c n P Q m.s (m.narrowOne c x i) ∧ ((m.narrowOne c x i).s.rowMoved c n (i + 1)).NarrowLeft c x.desc (i + 1) := by
  have hsucc := narrowLeft_succ hi
  obtain ⟨hin, hbeside, hlen, hsix, hthree⟩ := narrowIn_good (n := n) (P := P) (Q := Q) hstop hs hi hfrom
    (fun h3 => by have hhas := hleft.has h3; omega)
  rw [Mv.narrowOne_eq]
  dsimp only
  generalize m.narrowIn c x i = q at hin hbeside hlen hsix hthree ⊢
  obtain ⟨hcodes, hscales⟩ := narrowRow_lengths x.desc (q.2.map (elemVal (dSfmt x.desc)))
  rw [List.length_map, hlen] at hcodes hscales
  generalize narrowRow x.desc (q.2.map (elemVal (dSfmt x.desc))) = r at hcodes hscales ⊢
  generalize hmid : q.1.mod _ = m1
  have hs1 : m1.s = q.1.s.modCore c (fun k => k.narrowNote x q.2 r.2.2) := by
    rw [← hmid]
    unfold Mv.mod
    rw [hin.1]
  have hframe1 : Frame c n P Q q.1.s m1.s := by rw [hs1]; exact Frame.quiet rfl rfl rfl rfl rfl
  have hkept1 : PathsKept c q.1.s m1.s := by rw [hs1]; exact PathsKept.modCore rfl rfl rfl rfl
  have hgood1 : Good c n P Q m.s m1 := by rw [← hmid]; exact hin.mod (Frame.quiet rfl rfl rfl rfl rfl)
  refine ⟨narrowOut_good hgood1 hi hcodes hscales hto, ⟨fun h3 => ?_, fun hd => ?_⟩⟩
  · rw [State.path_rowMoved, Mv.narrowOut_source hgood1.1, hkept1.path, hthree h3]
    have hhas := hleft.has h3
    omega
  · refine State.PathTakes.feed (es := withScales (dDfmt x.desc) r.1 r.2.1) (hsucc ▸ hleft.takes hd)
      (((hbeside.trans (hframe1.beside hkept1 6)).trans ?_).trans (Beside.rowMoved ..)) (by rw [hk]; decide)
      ((withScales_length ..).trans hcodes) ?_
    · rw [Mv.narrowOut_feeds hgood1.1 hd]
      exact Beside.feed ..
    · rw [State.path_rowMoved, Mv.narrowOut_feeds hgood1.1 hd, State.path_feed, hkept1.path, hsix]

/-- The rows of a NARROW move one after the other. -/
theorem narrow_rowsMove (hs : s.SpSound c) (hk : kindOf ((s.core c).slot n).desc = 4) (hfrom : s.NarrowFrom c x) (hto : s.NarrowTo c x P) :
    RowsMove c n (dAllRows x.desc) P Q s
      ⟨if dSspace x.desc = 3 then some (3, dCols x.desc) else none, if dDspace x.desc = 0 then none else some (6, dDfmt x.desc)⟩
      (fun m i => m.narrowOne c x i) (fun i t => t.NarrowLeft c x.desc i) := by
  refine ⟨fun t i _ _ hx => ?_, fun t i hi _ hx => ?_, fun m i hi hstop hframe hx => ?_⟩
  · unfold RowGate.offer
    by_cases h0 : dDspace x.desc = 0
    · simp [h0]
    · simp only [h0, if_false]
      exact (hx.takes h0).offer _
  · have hsucc := narrowLeft_succ hi
    have hsrc : (match (if dSspace x.desc = 3 then some (3, dCols x.desc) else none : Option (Nat × Nat)) with
        | some (stn, e) => (t.core c).pathHas stn e | none => true) = true := by
      by_cases h3 : dSspace x.desc = 3
      · have hhas := hx.has h3
        simp only [h3, if_true, Core.pathHas, decide_eq_true_eq]
        omega
      · simp [h3]
    have hdst : (match (if dDspace x.desc = 0 then none else some (6, dDfmt x.desc) : Option (Nat × Nat)) with
        | some (stn, f) => t.pathWants c stn && t.pathFits c stn f | none => true) = true := by
      by_cases h0 : dDspace x.desc = 0
      · simp [h0]
      · have htakes := hx.takes h0
        obtain ⟨j, hj⟩ : ∃ j, (dAllRows x.desc - i) * dCols x.desc = j + 1 :=
          Nat.exists_eq_succ_of_ne_zero (Nat.mul_ne_zero (by omega) (by unfold dCols; omega))
        simp [h0, htakes.fits, (hj ▸ htakes).wants]
    exact Bool.and_eq_true_iff.2 ⟨hsrc, hdst⟩
  · exact narrowOne_good hstop (hframe.sound hs) hi (by rw [hframe.desc]; exact hk)
      (fun h3 i hi => by rw [hframe.runFault]; exact hfrom h3 i hi)
      (fun h0 => ⟨fun i hi => ⟨(hframe.runFault ..).trans ((hto h0).1 i hi).1, fun hmx => (hframe.runFault ..).trans (((hto h0).1 i hi).2 hmx)⟩,
        (hto h0).2⟩) hx

end

/-! ## NARROW -/

/-- What a NARROW sets up once it is accepted: the histogram it clears, and its window (R131). -/
def Core.narrowOpen (k : Core) (n : Nat) (d : BitVec 256) : Core :=
  { k with vec := k.vec.histStart d }.modSlot n (fun y => { y with expBase := (k.vec.histStart d).expBase })

theorem Core.slot_narrowOpen (k : Core) (n : Nat) (d : BitVec 256) :
    (k.narrowOpen n d).slot n = { k.slot n with expBase := (k.vec.histStart d).expBase } := Core.slot_modSlot_self ..

theorem Core.slot_narrowOpen_ne (k : Core) {n m : Nat} (d : BitVec 256) (hm : m ≠ n) : (k.narrowOpen n d).slot m = k.slot m := by
  rw [Core.narrowOpen, Core.slot_modSlot, if_neg hm]
  rfl

theorem execNarrow_eq (r : StreamRef) (s : State) : execNarrow r s = .next (s.rowRun r (fun d => kindOf d = 4) dAllRows
    (fun d => ⟨if dSspace d = 3 then some (3, dCols d) else none, if dDspace d = 0 then none else some (6, dDfmt d)⟩)
    (fun s x => { s := s.modCore r.core.val (fun k => k.narrowOpen r.slot.val x.desc) })
    (fun m _ => (m, ())) (fun x _ m i => m.narrowOne r.core.val x i)) := rfl

/-- The state in which a NARROW moves its first row. -/
def State.narrowBegun (s : State) (c n : Nat) : State :=
  ((s.accepted c n).modCore c (fun k => k.narrowOpen n ((s.core c).slot n).desc)).rowMoved c n 0

section
variable {c n : Nat} {P : Nat → Prop} {Q : Option (Nat → Prop)} {s : State}

theorem State.narrowBegun_frame : Frame c n P Q s (s.narrowBegun c n) := by
  refine ((s.accepted_frame c n _ _).trans (Frame.modCore ?_ (fun m hm => Core.slot_narrowOpen_ne _ _ hm) ?_ ?_ ?_ ?_)).trans
    (Frame.rowMoved ..)
  · rfl
  · rw [Core.slot_narrowOpen]
  · exact fun _ => rfl
  · exact fun _ h => h
  · exact fun _ _ => rfl

theorem State.narrowBegun_beside : Beside c n 6 s (s.narrowBegun c n) := by
  refine ((Beside.accepted ..).trans (Beside.modCore ?_ ?_ ?_ ?_ (fun m hm => Core.slot_narrowOpen_ne _ _ hm)
    ?_ ?_)).trans (Beside.rowMoved ..)
  · rfl
  · rfl
  · rfl
  · rfl
  · exact ⟨_, Core.slot_narrowOpen .., rfl, rfl, rfl, rfl⟩
  · exact fun _ _ _ => rfl

theorem State.path_narrowBegun (st : Nat) : ((s.narrowBegun c n).core c).path st = (s.core c).path st := by
  rw [State.narrowBegun, State.path_rowMoved, State.core_modCore_self, State.core_accepted]
  rfl

theorem State.slot_narrowBegun : ((s.narrowBegun c n).core c).slot n = { (s.core c).slot n with
    acceptedAt := s.mashOf c
    expBase := ((s.core c).vec.histStart ((s.core c).slot n).desc).expBase
    moved := 0 } := by
  rw [State.narrowBegun, State.slot_rowMoved, State.core_modCore_self, Core.slot_narrowOpen, State.core_accepted, Core.slot_setSlot_self]
  rfl

end

section
variable {s : State} {r : StreamRef}

/-- A NARROW that has its rows and a taker for them runs to its end. -/
theorem exec_narrow_runs :
    let c := r.core.val
    let n := r.slot.val
    let k := s.core c
    let x := k.slot n
    let d := x.desc
    s.Taken c n 4 →
      ((dSspace d ≠ 3 ∧ s.RowsOk c [] x.srcBase (dSstr d) (rowBytes (dSfmt d) (dCols d)) (dAllRows d)) ∨
        (dSspace d = 3 ∧ k.pathHas 3 (dElems d) = true)) →
      (dDspace d = 0 ∨ s.PathTakes c 6 (dDfmt d) (dElems d)) →
      (dDspace d = 0 → s.OperandOk c 0 true x.dstBase (dDstr d) (dDfmt d) (dCols d) (dAllRows d) x.auxBase (fld d 226 10)) →
      ∃ t, exec (.narrow r) s = .next t ∧
        Streamed s t c n (fun a => dDspace d = 0 ∧
          InOperand x.dstBase (dDstr d) (dDfmt d) (dCols d) (dAllRows d) x.auxBase (fld d 226 10) a) := by
  intro c n k x d ⟨hk, ha, hs⟩ hsrc htakes hdst
  have hslot : s.rowSlot c n (fun s x => { s := s.modCore c (fun k => k.narrowOpen n x.desc) }) = { x with
      acceptedAt := s.mashOf c
      expBase := (k.vec.histStart d).expBase
      moved := 0 } := State.slot_narrowBegun
  generalize hy : s.rowSlot c n (fun s x => { s := s.modCore c (fun k => k.narrowOpen n x.desc) }) = y at hslot
  have hdesc : y.desc = d := by rw [hslot]
  have hsrcBase : y.srcBase = x.srcBase := by rw [hslot]
  have hdstBase : y.dstBase = x.dstBase := by rw [hslot]
  have hauxBase : y.auxBase = x.auxBase := by rw [hslot]
  have hfrom : s.NarrowFrom c y := by
    unfold State.NarrowFrom
    rw [hdesc, hsrcBase]
    exact fun h3 => (hsrc.resolve_right (fun h => h3 h.1)).2
  have hto : s.NarrowTo c y (fun a => dDspace d = 0 ∧
      InOperand x.dstBase (dDstr d) (dDfmt d) (dCols d) (dAllRows d) x.auxBase (fld d 226 10) a) := by
    unfold State.NarrowTo
    rw [hdesc, hdstBase, hauxBase]
    exact fun h0 => ⟨hdst h0, fun a ha => ⟨h0, ha⟩⟩
  have helems : (dAllRows d - 0) * dCols d = dElems d := by unfold dAllRows dElems; rw [Nat.sub_zero]; ring
  have hleft : (s.narrowBegun c n).NarrowLeft c y.desc 0 := by
    rw [hdesc]
    constructor
    · rw [helems, State.path_narrowBegun]
      exact fun h3 => of_decide_eq_true (hsrc.resolve_left (fun h => h.1 h3)).2
    · rw [helems]
      exact fun h0 => (htakes.resolve_left h0).beside State.narrowBegun_beside (by rw [hk]; decide) (State.path_narrowBegun 6)
  obtain ⟨m, hrun, hend, -⟩ := RowsMove.rowRun (s := s) (r := r) (mine := fun d => kindOf d = 4) (rows := dAllRows)
    (g := fun d => ⟨if dSspace d = 3 then some (3, dCols d) else none, if dDspace d = 0 then none else some (6, dDfmt d)⟩)
    (start := fun s x => { s := s.modCore c (fun k => k.narrowOpen n x.desc) }) (pre := fun m _ => (m, ()))
    (row := fun x _ m i => m.narrowOne c x i) (X := fun i t => t.NarrowLeft c y.desc i) (Q := none) (decide_eq_true hk) ha rfl
    ⟨rfl, State.narrowBegun_frame⟩ (congrArg Slot.moved State.slot_narrowBegun) (by rw [hy]; exact narrow_rowsMove hs hk hfrom hto) hleft
  exact ⟨_, by rw [exec_narrow_eq, execNarrow_eq]; exact congrArg _ hrun, hend.finish⟩

end

/-- Settles O32: each row of a DRAIN finds the sums as its first row did, and each row of a NARROW its source and its taker; a path
without a consumer takes no row. -/
theorem drainAndNarrowRunToTheirEnd : Obligations.DrainAndNarrowRunToTheirEnd := by
  intro s r
  refine ⟨fun ht hpath hfault hbias hok hcols hrows => ?_, fun ht hd hfault hbias hnone => exec_drain_stalls ht hd hfault hbias hnone,
    fun ht hsrc htakes hdst => exec_narrow_runs ht hsrc htakes hdst⟩
  exact exec_drain_runs ht hpath hfault hbias ⟨fun i hi => (hok i hi).1, fun i hi => (hok i hi).2, hcols⟩ hrows

end Sys2Proof.Machine
end

section
/-! PROOF. O49: a token line of a Tap whose bay is in no partition. The clause on discarded token lines takes a RECV for one of its
line's partition only; at the router a header with PART 15 is let through (R39), and the line lands in the RECV all the same. -/

namespace Sys2Proof.Machine

open Sys2Proof

/-- A token line from die 5, in bay 1, for channel 0 of core 0. -/
def neutralLine : TokenLine := { core := 0, chan := 0, group := 0, row0 := 0, die := 5, entries := [8] }

/-- Bay 1 has PART 15; slot 0 of core 0 holds an ACTIVE RECV of one byte on channel 0 that names Tap. -/
def neutralTap : State :=
  { State.reset with
    bays := [(1, { part := 15 })]
    tapLines := [neutralLine]
    cores := [(0, { slots := [(0, { state := .active, desc := 11 + 0x1FE * 2 ^ 229 })] })] }

theorem exec_tokenLine_neutral :
    ∃ t, exec (.tokenLine 0 0) neutralTap = .next t ∧ ((t.core 0).slot 0).moved = 1 :=
  ⟨_, rfl, by decide +kernel⟩

/-- Refutes O49 with `neutralTap`: no RECV of the line's partition lacks it, and it lands. -/
theorem not_tokensReachTheirRing : ¬ Obligations.TokensReachTheirRing := by
  intro h
  obtain ⟨-, hline, -⟩ := h neutralTap 0 0 0 0
  obtain ⟨hgone, -⟩ := hline [] [] neutralLine rfl rfl rfl (by simp)
  obtain ⟨t, ht, -, hcores, -⟩ := hgone rfl (.inl (by decide +kernel))
  obtain ⟨u, hu, hmoved⟩ := exec_tokenLine_neutral
  cases hu.symm.trans ht
  have hsame : ((t.core 0).slot 0).moved = ((neutralTap.core 0).slot 0).moved := by
    rw [State.core, State.core, hcores]
  rw [hmoved] at hsame
  exact absurd hsame (by decide)

end Sys2Proof.Machine
end

section
/-! PROOF. SEND within the package (R57, R60, R62): each line is read as it stood and posted, and the flits go to the fabric in order. -/

namespace Sys2Proof.Machine

open Sys2Proof

theorem exec_send_eq (r : StreamRef) (s : State) : exec (.send r) s = execSend r s := rfl

/-- What a read of scratchpad bytes leaves of the core: single-bit errors corrected, and with `last` no liveness (R48, R441). -/
def Core.spReadDone (k : Core) (last : Bool) (a n : Nat) : Core := if last then (k.spFix a n).clearLive (linesOf a n) else k.spFix a n

theorem Core.spReadDone_rest (k : Core) (last : Bool) (a n : Nat) :
    (k.spReadDone last a n).slots = k.slots ∧ (k.spReadDone last a n).welt = k.welt ∧ (k.spReadDone last a n).sp.mem = k.sp.mem := by
  have hfix : (k.spFix a n).slots = k.slots ∧ (k.spFix a n).welt = k.welt ∧ (k.spFix a n).sp.mem = k.sp.mem := by
    unfold Core.spFix
    dsimp only
    split <;> exact ⟨rfl, rfl, rfl⟩
  unfold Core.spReadDone
  split
  · exact hfix
  · exact hfix

/-- A scratchpad read of accessible lines: what it does, and what it answers. -/
theorem Mv.readSp_ok {m : Mv} {c : Nat} {own : List Nat} {last : Bool} {a k : Nat} (hstop : m.stop = none)
    (hr : m.s.runFault c own a k = none) (hs : m.s.SpSound c) : m.readSp c own last a k =
      ({ m with s := m.s.modCore c (fun j => j.spReadDone last a k) }, (m.s.core c).spRead a k) := by
  unfold Mv.readSp
  rw [hstop]
  dsimp only
  rw [hr]
  dsimp only
  rw [if_neg (by rw [hs.spBad]; simp)]
  rfl

/-! ## Flits -/

/-- A flit keeps what it carries, and for whom, wherever it goes. -/
theorem Flit.advance_same (others : List Flit) : ∀ (k : Nat) (f : Flit), (f.advance others k).src = f.src ∧
    (f.advance others k).slot = f.slot ∧ (f.advance others k).dst = f.dst ∧ (f.advance others k).body = f.body
  | 0, _ => ⟨rfl, rfl, rfl, rfl⟩
  | k + 1, f => by
    unfold Flit.advance
    split
    · exact ⟨rfl, rfl, rfl, rfl⟩
    · split
      · exact Flit.advance_same others k _
      · exact ⟨rfl, rfl, rfl, rfl⟩

/-- What a line of a SEND shows on the fabric: its sender, its receiver and its bytes. -/
def Flit.shown (f : Flit) : Nat × Nat × Nat × FlitBody := (f.src, f.slot, f.dst, f.body)

theorem Flit.shown_advance (others : List Flit) (k : Nat) (f : Flit) : (f.advance others k).shown = f.shown := by
  obtain ⟨hsrc, hslot, hdst, hbody⟩ := Flit.advance_same others k f
  rw [Flit.shown, hsrc, hslot, hdst, hbody]
  rfl

theorem State.shown_newFlit (s : State) (src dst cls more slot order : Nat) (body : FlitBody) :
    (s.newFlit src dst cls more slot order body).shown = (src, slot, dst, body) := rfl

/-- The state with the fabric of another. -/
def State.fabricOf (u s : State) : State := { u with flits := s.flits, fab := s.fab }

theorem State.inject_at (s : State) (f : Flit) : ∃ b, s.inject f =
    { s with flits := s.flits ++ [f.advance s.flits pathMost], fab := { s.fab with bytes := b } } := by
  unfold State.inject State.fabBytes
  split
  · exact ⟨s.fab.bytes, rfl⟩
  · exact ⟨_, rfl⟩

/-! ## The lines of a SEND -/

section
variable {s : State} {c n : Nat}

/-- First byte of line `i` of a SEND. -/
def Slot.lineAt (x : Slot) (i : Nat) : Nat := 256 * (x.srcBase + wRow x.desc i * dSstr x.desc + wCol x.desc i)

/-- Line `i` of a SEND as the fabric shows it. -/
def Core.lineShown (k : Core) (c n i : Nat) : Nat × Nat × Nat × FlitBody :=
  (c, n, wCore (k.slot n).desc,
    .data (wChan (k.slot n).desc) (k.spRead ((k.slot n).lineAt i) (wBytes (k.slot n).desc i)))

/-- The movement of a SEND whose first `i` lines are on the fabric. -/
structure SendAt (s : State) (c n i : Nat) (m : Mv) : Prop where
  stop : m.stop = none
  frame : Frame c n (fun _ => False) none s (m.s.fabricOf s)
  welt : (m.s.core c).welt = (s.core c).welt
  state : ((m.s.core c).slot n).state = .active
  base : ((m.s.core c).slot n).srcBase = ((s.core c).slot n).srcBase
  moved : ((m.s.core c).slot n).moved = i
  flits : ∃ fs, m.s.flits = s.flits ++ fs ∧ fs.map Flit.shown = (List.range i).map ((s.core c).lineShown c n)

/-- What a SEND within the package needs, to send all its lines (R60, R62). -/
structure SendOk (s : State) (c n : Nat) : Prop where
  sound : s.SpSound c
  space : dSspace ((s.core c).slot n).desc = 0
  lines : ∀ i, i < wLines ((s.core c).slot n).desc →
    s.runFault c [] (((s.core c).slot n).lineAt i) (wBytes ((s.core c).slot n).desc i) = none
  posted : (s.core (wCore ((s.core c).slot n).desc)).welt.next.get 0 (wChan ((s.core c).slot n).desc) +
      s.inFlight (wCore ((s.core c).slot n).desc) (wChan ((s.core c).slot n).desc) + wLines ((s.core c).slot n).desc ≤
    (s.core (wCore ((s.core c).slot n).desc)).welt.posted.get 0 (wChan ((s.core c).slot n).desc)
  room : dieOf c = dieOf (wCore ((s.core c).slot n).desc) ∨ (wLines ((s.core c).slot n).desc ≤ 64 ∧
    ∀ f ∈ s.flits, f.cls = wClass ((s.core c).slot n).desc → f.isLocal = false → f.place ≠ .queue c)

variable {i : Nat} {m : Mv}

theorem SendAt.desc (h : SendAt s c n i m) : ((m.s.core c).slot n).desc = ((s.core c).slot n).desc := h.frame.desc

theorem SendAt.welt_all (h : SendAt s c n i m) (d : Nat) : (m.s.core d).welt = (s.core d).welt := by
  by_cases hd : d = c
  · rw [hd]; exact h.welt
  · exact congrArg Core.welt (h.frame.other d hd)

/-- A line more is posted beyond those on their way. -/
theorem SendAt.postedFor (h : SendAt s c n i m) (ok : SendOk s c n) (hi : i < wLines ((s.core c).slot n).desc) :
    m.s.postedFor (wCore ((s.core c).slot n).desc) (wChan ((s.core c).slot n).desc) = true := by
  obtain ⟨fs, hflits, hshown⟩ := h.flits
  have hlen : fs.length = i := by simpa using congrArg List.length hshown
  have hposted := ok.posted
  have hin : m.s.inFlight (wCore ((s.core c).slot n).desc) (wChan ((s.core c).slot n).desc) ≤
      s.inFlight (wCore ((s.core c).slot n).desc) (wChan ((s.core c).slot n).desc) + i := by
    unfold State.inFlight
    rw [hflits, List.filter_append, List.length_append]
    exact Nat.add_le_add_left (hlen ▸ List.length_filter_le _ fs) _
  unfold State.postedFor
  dsimp only
  rw [h.welt_all]
  exact decide_eq_true (by omega)

/-- The sender's endpoint has room for a line more. -/
theorem SendAt.queueRoom (h : SendAt s c n i m) (ok : SendOk s c n) (hi : i < wLines ((s.core c).slot n).desc) :
    m.s.queueRoom c (wCore ((s.core c).slot n).desc) (wClass ((s.core c).slot n).desc) = true := by
  obtain ⟨fs, hflits, hshown⟩ := h.flits
  have hlen : fs.length = i := by simpa using congrArg List.length hshown
  unfold State.queueRoom
  rcases ok.room with hdie | ⟨hmost, hnone⟩
  · simp [hdie]
  · refine Bool.or_eq_true_iff.2 (.inr ?_)
    unfold roomAt
    rw [hflits, List.filter_append, List.length_append, List.filter_eq_nil_iff.2 (fun f hf => ?_)]
    · have hle := List.length_filter_le (fun g : Flit => decide (g.cls = wClass ((s.core c).slot n).desc) && !g.isLocal &&
        decide (g.place = .queue c)) fs
      exact decide_eq_true (Nat.lt_of_le_of_lt (by simpa using hle) (by show fs.length < 64; omega))
    · simp only [Bool.and_eq_true, decide_eq_true_eq, Bool.not_eq_true', not_and]
      exact fun ⟨hcls, hlocal⟩ => hnone f hf hcls hlocal

theorem Frame.sendMoved {P : Nat → Prop} {Q : Option (Nat → Prop)} (s : State) (c n k : Nat) : Frame c n P Q s (s.sendMoved c n k) :=
  Frame.modSlot s rfl

theorem State.slot_sendMoved (s : State) (c n k : Nat) : ((s.sendMoved c n k).core c).slot n =
    { (s.core c).slot n with moved := ((s.core c).slot n).moved + k, movedAt := s.mashOf c } := by
  rw [State.sendMoved, State.core_modCore_self, Core.slot_modSlot_self]

/-- What a line of a SEND does when it is sent (R48, R57, R60). -/
def lineSent (c n : Nat) (x : Slot) (line : Mv × List Byte) : Mv :=
  line.1.mod (fun s =>
    (s.sendMoved c n 1).inject (s.newFlit c (wCore x.desc) (wClass x.desc) 0 n x.order (.data (wChan x.desc) line.2)))

theorem SendAt.spRead (h : SendAt s c n i m) (a k : Nat) : (m.s.core c).spRead a k = (s.core c).spRead a k := by
  have hmem : ∀ y, memByte (m.s.core c).sp.mem y = memByte (s.core c).sp.mem y := fun y => h.frame.mem y id
  simp only [Core.spRead, memRead, hmem]

/-- The next line of a SEND is read and sent. -/
theorem SendAt.next (h : SendAt s c n i m) (ok : SendOk s c n) (hi : i < wLines ((s.core c).slot n).desc) :
    SendAt s c n (i + 1) (lineSent c n ((m.s.core c).slot n) (m.sendLine c ((m.s.core c).slot n) i)) := by
  generalize hx : (m.s.core c).slot n = x
  have hdesc : x.desc = ((s.core c).slot n).desc := by rw [← hx]; exact h.desc
  have hline : x.lineAt i = ((s.core c).slot n).lineAt i := by
    unfold Slot.lineAt
    rw [hdesc, ← hx, h.base]
  have hrun : (m.s.fabricOf s).runFault c [] (x.lineAt i) (wBytes x.desc i) = none := by
    rw [h.frame.runFault, hline, hdesc]
    exact ok.lines i hi
  have hread : m.sendLine c x i = m.readSp c [] (dLast x.desc) (x.lineAt i) (wBytes x.desc i) := by
    unfold Mv.sendLine
    rw [if_neg (by rw [hdesc, ok.space]; decide)]
    rfl
  have hsound : (m.s.fabricOf s).SpSound c := h.frame.sound ok.sound
  have hgood := (Good.start c n (fun _ => False) none (m.s.fabricOf s)).readSp hsound hrun (dLast x.desc)
  rw [Mv.readSp_ok (m := { s := m.s.fabricOf s }) rfl hrun hsound] at hgood
  obtain ⟨⟨-, hframe⟩, -⟩ := hgood
  rw [hread, Mv.readSp_ok h.stop hrun hsound, h.spRead]
  obtain ⟨hslots, hwelt, -⟩ := (m.s.core c).spReadDone_rest (dLast x.desc) (x.lineAt i) (wBytes x.desc i)
  generalize hu : m.s.modCore c (fun j => j.spReadDone (dLast x.desc) (x.lineAt i) (wBytes x.desc i)) = u
  have hcore : u.core c = (m.s.core c).spReadDone (dLast x.desc) (x.lineAt i) (wBytes x.desc i) := by
    rw [← hu, State.core_modCore_self]
  have huframe : Frame c n (fun _ => False) none s (u.fabricOf s) := by rw [← hu]; exact h.frame.trans hframe
  have huslot : (u.core c).slot n = x := by rw [hcore, Core.slot_congr hslots, hx]
  have huflits : u.flits = m.s.flits := by rw [← hu]; rfl
  generalize hline' : ({ m with s := u }, (s.core c).spRead (x.lineAt i) (wBytes x.desc i)) = line
  have hsent : (lineSent c n x line).stop = none ∧ (lineSent c n x line).s = (u.sendMoved c n 1).inject
      (u.newFlit c (wCore x.desc) (wClass x.desc) 0 n x.order (.data (wChan x.desc) ((s.core c).spRead (x.lineAt i) (wBytes x.desc i)))) := by
    rw [← hline']
    unfold lineSent Mv.mod
    dsimp only
    rw [h.stop]
    exact ⟨rfl, rfl⟩
  obtain ⟨hstop, hs⟩ := hsent
  obtain ⟨b, hinject⟩ := (u.sendMoved c n 1).inject_at
    (u.newFlit c (wCore x.desc) (wClass x.desc) 0 n x.order (.data (wChan x.desc) ((s.core c).spRead (x.lineAt i) (wBytes x.desc i))))
  rw [hinject] at hs
  have hslot : ((lineSent c n x line).s.core c).slot n = { x with moved := x.moved + 1, movedAt := u.mashOf c } := by
    rw [hs]
    exact (State.slot_sendMoved u c n 1).trans (by rw [huslot])
  constructor
  · exact hstop
  · rw [hs]
    exact huframe.trans (Frame.sendMoved (u.fabricOf s) c n 1)
  · rw [hs]
    show (((u.sendMoved c n 1).core c)).welt = _
    rw [State.sendMoved, State.core_modCore_self, ← h.welt, ← hwelt, ← hcore]
    rfl
  · rw [hslot, ← hx]; exact h.state
  · rw [hslot, ← hx]; exact h.base
  · rw [hslot, ← hx]; exact congrArg (· + 1) h.moved
  · obtain ⟨fs, hflits, hshown⟩ := h.flits
    rw [hs]
    refine ⟨fs ++ [_], (show u.flits ++ [_] = _ by rw [huflits, hflits, List.append_assoc]), ?_⟩
    rw [List.map_append, List.map_cons, List.map_nil, Flit.shown_advance, State.shown_newFlit, hshown, List.range_succ, List.map_append,
      List.map_cons, List.map_nil, Core.lineShown, ← hline, ← hdesc]

/-- A SEND moves its lines until the last. -/
theorem SendAt.all (ok : SendOk s c n) : ∀ (fuel i : Nat) (m : Mv), i + fuel = wLines ((s.core c).slot n).desc → SendAt s c n i m →
    SendAt s c n (wLines ((s.core c).slot n).desc) (m.sendLocal c n fuel) := by
  intro fuel
  induction fuel with
  | zero =>
    rintro i m hrows hm
    obtain rfl : i = _ := hrows
    exact hm
  | succ fuel ih =>
    intro i m hrows hm
    have hi : i < wLines ((s.core c).slot n).desc := by omega
    have hgo : (wLines ((m.s.core c).slot n).desc ≤ ((m.s.core c).slot n).moved ||
        !m.s.postedFor (wCore ((m.s.core c).slot n).desc) (wChan ((m.s.core c).slot n).desc) ||
        !(m.s.core c).lineReady ((m.s.core c).slot n).desc ((m.s.core c).slot n).moved ||
        !m.s.queueRoom c (wCore ((m.s.core c).slot n).desc) (wClass ((m.s.core c).slot n).desc)) = false := by
      have hready : (m.s.core c).lineReady ((s.core c).slot n).desc i = true := by simp [Core.lineReady, ok.space]
      rw [hm.desc, hm.moved, hm.postedFor ok hi, hm.queueRoom ok hi, hready]
      simpa using hi
    have hnext := hm.next ok hi
    rw [Mv.sendLocal, hm.stop]
    dsimp only
    rw [hgo, if_neg Bool.false_ne_true, hm.moved]
    exact ih (i + 1) _ (by omega) hnext

/-- The state in which a SEND that its station has accepted sends its first line. -/
def State.sendBegun (s : State) (c n : Nat) : State :=
  (s.accepted c n).modCore c (fun k => k.modSlot n (fun x =>
    { x with state := .active, withdrawn := false, softStep := k.hop.softStep, movedAt := (s.accepted c n).mashOf c }))

theorem State.slot_sendBegun (s : State) (c n : Nat) : ((s.sendBegun c n).core c).slot n = { (s.core c).slot n with
    state := .active
    withdrawn := false
    softStep := (s.core c).hop.softStep
    movedAt := s.mashOf c
    acceptedAt := s.mashOf c } := by
  rw [State.sendBegun, State.core_modCore_self, Core.slot_modSlot_self, State.core_accepted, Core.slot_setSlot_self]
  rfl

theorem State.sendBegun_frame (s : State) (c n : Nat) (P : Nat → Prop) (Q : Option (Nat → Prop)) : Frame c n P Q s (s.sendBegun c n) := by
  refine (s.accepted_frame c n P Q).trans ?_
  unfold State.sendBegun
  generalize (s.accepted c n).mashOf c = mash
  exact Frame.modCore rfl (fun j hj => by rw [Core.slot_modSlot, if_neg hj]) (by rw [Core.slot_modSlot_self]) (fun _ => rfl)
    (fun _ h => h) (fun _ _ => rfl)

theorem SendAt.first (hmoved : ((s.core c).slot n).moved = 0) : SendAt s c n 0 { s := s.sendBegun c n } := by
  have hslot := s.slot_sendBegun c n
  constructor
  · rfl
  · exact s.sendBegun_frame c n _ _
  · show ((s.sendBegun c n).core c).welt = _
    rw [State.sendBegun, State.core_modCore_self, State.core_accepted]
    rfl
  · exact congrArg Slot.state hslot
  · show (((s.sendBegun c n).core c).slot n).srcBase = _
    rw [hslot]
  · exact (congrArg Slot.moved hslot).trans hmoved
  · exact ⟨[], (List.append_nil _).symm, rfl⟩

/-- A stream whose movement stays in the frame, and that is ACTIVE and done. -/
theorem Frame.streamed {P : Nat → Prop} {t : State} (h : Frame c n P none s t) (hactive : ((t.core c).slot n).state = .active)
    (hdone : ((t.core c).slot n).done = true) : Streamed s t c n P := by
  obtain ⟨hhbm, hglob, hfab⟩ := h.hbm
  refine ⟨?_, h.other, h.keep, h.slot, h.desc, hactive, hdone, h.mem⟩
  have hrest := h.rest
  rw [← hhbm, ← hglob, ← hfab] at hrest
  exact hrest

/-- The slot of a SEND after it has moved as far as it can. -/
def State.sendEnded (s : State) (c n : Nat) (x : Slot) : Slot :=
  if x.state ≠ .active then x
  else
    let held := isBucket x.desc && s.bucketWaits c n x.desc
    { x with done := (wLines x.desc ≤ x.moved && !held), blocked := (x.moved < wLines x.desc || held) }

theorem State.sendEnd_eq (h : m.stop = none) : State.sendEnd m c n = m.s.modCore c (fun k => k.modSlot n (m.s.sendEnded c n)) := by
  unfold State.sendEnd
  rw [h]
  rfl

/-- A SEND within the package that has sent its last line is done. -/
theorem SendAt.sendEnd (h : SendAt s c n i m) (hall : wLines ((s.core c).slot n).desc ≤ i) (hremote : wRemote ((s.core c).slot n).desc = false) :
    Streamed s ((State.sendEnd m c n).fabricOf s) c n (fun _ => False) ∧ (((State.sendEnd m c n).core c).slot n).moved = i ∧
    (State.sendEnd m c n).flits = m.s.flits := by
  have hbucket : isBucket ((m.s.core c).slot n).desc = false := by simp [isBucket, h.desc, hremote]
  have hend := State.sendEnd_eq (c := c) (n := n) h.stop
  have hslot : ((State.sendEnd m c n).core c).slot n = { (m.s.core c).slot n with
      done := true
      blocked := false } := by
    have hlast : wLines ((m.s.core c).slot n).desc ≤ ((m.s.core c).slot n).moved := by rw [h.desc, h.moved]; exact hall
    rw [hend, State.core_modCore_self, Core.slot_modSlot_self, State.sendEnded, if_neg (by simp [h.state])]
    simp [hbucket, hlast]
  have hframe : Frame c n (fun _ => False) none s ((State.sendEnd m c n).fabricOf s) := by
    rw [hend]
    refine h.frame.trans (Frame.modSlot (m.s.fabricOf s) (f := m.s.sendEnded c n) ?_)
    unfold State.sendEnded
    split <;> rfl
  refine ⟨hframe.streamed ?_ ?_, ?_, ?_⟩
  · show (((State.sendEnd m c n).core c).slot n).state = _
    rw [hslot]; exact h.state
  · show (((State.sendEnd m c n).core c).slot n).done = _
    rw [hslot]
  · rw [hslot]; exact h.moved
  · rw [hend]; rfl

end

/-- An accepted SEND within the package sends its lines and is done. -/
theorem exec_send_runs {s : State} {r : StreamRef} :
    let c := r.core.val
    let n := r.slot.val
    let k := s.core c
    let x := k.slot n
    let d := x.desc
    s.Taken c n 10 → wRemote d = false → wSoft d = false → x.moved = 0 → SendOk s c n →
      ∃ t fs, exec (.send r) s = .next t ∧ Streamed s { t with flits := s.flits, fab := s.fab } c n (fun _ => False) ∧
        ((t.core c).slot n).moved = wLines d ∧ t.flits = s.flits ++ fs ∧
        fs.map Flit.shown = (List.range (wLines d)).map (k.lineShown c n) := by
  intro c n k x d ht hremote hsoft hmoved ok
  obtain ⟨hk, ha, -⟩ := ht
  have hqueued : ((s.core r.core.val).slot r.slot.val).state = .queued := Core.state_of_acceptable ha
  have hall := SendAt.all ok (wLines d) 0 _ (Nat.zero_add _) (SendAt.first hmoved)
  obtain ⟨hstreamed, hend, hflits⟩ := hall.sendEnd (Nat.le_refl _) hremote
  obtain ⟨fs, hfs, hshown⟩ := hall.flits
  refine ⟨_, fs, ?_, hstreamed, hend, hflits.trans hfs, hshown⟩
  have hdesc : (((s.sendBegun c n).core c).slot n).desc = d := by
    rw [State.slot_sendBegun]
  have hmove : ({ s := s.sendBegun c n } : Mv).sendMove c n = ({ s := s.sendBegun c n } : Mv).sendLocal c n (wLines d) := by
    unfold Mv.sendMove
    dsimp only
    rw [hdesc, hremote, if_neg Bool.false_ne_true, hsoft, if_neg Bool.false_ne_true]
  rw [exec_send_eq, execSend]
  dsimp only
  rw [if_neg (by simp [hqueued]), State.accept_eq (decide_eq_true hk) ha]
  exact congrArg (fun m => Host.Outcome.next (State.sendEnd m c n)) hmove

end Sys2Proof.Machine
end

section
/-! PROOF. RECV and SAMPLE as their station accepts them (R55, R60, R63). -/

namespace Sys2Proof.Machine

open Sys2Proof

theorem exec_recv_eq (r : StreamRef) (s : State) : exec (.recv r) s = execRecv r s := rfl
theorem exec_sample_eq (r : StreamRef) (s : State) : exec (.sample r) s = execSample r s := rfl

/-- The slot of a RECV that posts its lines behind `old` posted ones. -/
def Slot.recvPosted (old mash : Nat) (x : Slot) : Slot :=
  { x with
    state := .active
    start := old - x.moved
    withdrawn := false
    flushed := false
    movedAt := mash
    done := (wLines x.desc ≤ x.moved)
    blocked := (x.moved < wLines x.desc) }

/-- The core in which a RECV has posted its lines (R60). -/
def Core.recvPosted (k : Core) (n mash : Nat) : Core :=
  let x := k.slot n
  let old := k.welt.posted.get 0 (wChan x.desc)
  { k.modSlot n (Slot.recvPosted old mash) with
    welt := { k.welt with posted := k.welt.posted.set (wChan x.desc) (old + (wLines x.desc - x.moved)) } }

theorem State.recvPost_eq {s : State} {c n : Nat} (h : wRemote ((s.core c).slot n).desc = false) :
    s.recvPost c n = s.setCore c ((s.core c).recvPosted n (s.mashOf c)) := by
  unfold State.recvPost
  dsimp only
  rw [h, if_neg Bool.false_ne_true]
  rfl

theorem Core.slot_recvPosted (k : Core) (n mash : Nat) :
    (k.recvPosted n mash).slot n = (k.slot n).recvPosted (k.welt.posted.get 0 (wChan (k.slot n).desc)) mash :=
  Core.slot_modSlot_self k n (Slot.recvPosted (k.welt.posted.get 0 (wChan (k.slot n).desc)) mash)

theorem Core.slot_recvPosted_ne (k : Core) {n m : Nat} (mash : Nat) (hm : m ≠ n) : (k.recvPosted n mash).slot m = k.slot m :=
  (Core.slot_modSlot k n m (Slot.recvPosted (k.welt.posted.get 0 (wChan (k.slot n).desc)) mash)).trans (if_neg hm)

theorem Core.posted_recvPosted (k : Core) (n mash ch : Nat) : (k.recvPosted n mash).welt.posted.get 0 ch =
    k.welt.posted.get 0 ch + (if ch = wChan (k.slot n).desc then wLines (k.slot n).desc - (k.slot n).moved else 0) := by
  refine (FMap.get_set 0 k.welt.posted _ ch _).trans ?_
  split
  · next h => rw [h]
  · rfl

/-- An accepted RECV that is not REMOTE posts its lines. -/
theorem exec_recv_posts {s : State} {r : StreamRef} :
    let c := r.core.val
    let n := r.slot.val
    let k := s.core c
    let x := k.slot n
    let d := x.desc
    s.Taken c n 11 → wRemote d = false → ∃ t, exec (.recv r) s = .next t ∧ OnlyCore s t c ∧ (t.core c).seq = k.seq ∧
      (t.core c).sp = k.sp ∧ (∀ m, m ≠ n → (t.core c).slot m = k.slot m) ∧ ((t.core c).slot n).state = .active ∧
      ((t.core c).slot n).desc = d ∧ ((t.core c).slot n).moved = x.moved ∧
      ((t.core c).slot n).start = k.welt.posted.get 0 (wChan d) - x.moved ∧
      ∀ ch, (t.core c).welt.posted.get 0 ch = k.welt.posted.get 0 ch + (if ch = wChan d then wLines d - x.moved else 0) := by
  intro c n k x d ht hremote
  obtain ⟨hk, ha, -⟩ := ht
  have hslot : ((s.accepted c n).core c).slot n = { x with acceptedAt := s.mashOf c } := by
    rw [State.core_accepted, Core.slot_setSlot_self]
  have hpost := State.recvPost_eq (s := s.accepted c n) (c := c) (n := n) (by rw [hslot]; exact hremote)
  have hj : ((s.accepted c n).recvPost c n).core c = (k.setSlot n { x with acceptedAt := s.mashOf c }).recvPosted n (s.mashOf c) := by
    rw [hpost, State.core_setCore_self, State.core_accepted]
    rfl
  refine ⟨(s.accepted c n).recvPost c n, ?_, ?_, ?_⟩
  · rw [exec_recv_eq, execRecv, State.accept_eq (decide_eq_true hk) ha]
  · rw [hpost]
    refine ⟨rfl, fun e he => ?_⟩
    rw [State.core_setCore, if_neg he, State.accepted, State.core_modCore, if_neg he]
  · rw [hj, Core.slot_recvPosted, Core.slot_setSlot_self]
    refine ⟨rfl, rfl, fun m hm => ?_, rfl, rfl, rfl, rfl, fun ch => ?_⟩
    · rw [Core.slot_recvPosted_ne _ _ hm, Core.slot_setSlot, if_neg hm]
    · rw [Core.posted_recvPosted, Core.slot_setSlot_self]
      rfl

/-- An accepted SAMPLE is ACTIVE. -/
theorem exec_sample_accepted {s : State} {r : StreamRef} :
    let c := r.core.val
    let n := r.slot.val
    let k := s.core c
    let x := k.slot n
    s.Taken c n 12 → ∃ t, exec (.sample r) s = .next t ∧ OnlyCore s t c ∧ { t.core c with slots := k.slots } = k ∧
      (∀ m, m ≠ n → (t.core c).slot m = k.slot m) ∧
      (t.core c).slot n = { x with state := .active, acceptedAt := s.mashOf c } := by
  intro c n k x ht
  obtain ⟨hk, ha, -⟩ := ht
  refine ⟨(s.accepted c n).modCore c (fun k => k.modSlot n (fun x => { x with state := .active })), ?_, ⟨rfl, fun e he => ?_⟩, ?_,
    fun m hm => ?_, ?_⟩
  · rw [exec_sample_eq, execSample, State.accept_eq (decide_eq_true hk) ha]
  · rw [State.core_modCore, if_neg he, State.accepted, State.core_modCore, if_neg he]
  · rw [State.core_modCore_self, State.core_accepted]
    rfl
  · rw [State.core_modCore_self, State.core_accepted, Core.slot_modSlot, if_neg hm, Core.slot_setSlot, if_neg hm]
  · rw [State.core_modCore_self, State.core_accepted, Core.slot_modSlot_self, Core.slot_setSlot_self]

end Sys2Proof.Machine
end

section
/-! PROOF. TAP_TILE (R63, R335 to R348): what Tap does with a sampled row leaves the values of every row, the rows of every pass and
the cores. -/

namespace Sys2Proof.Machine

open Sys2Proof

theorem exec_tapTile_eq (r : StreamRef) (s : State) : exec (.tapTile r) s = execTapTile r s := rfl

/-! ## Passes -/

/-- The rows and the model of every pass are the same. -/
structure Serve.SamePasses (v w : Serve) : Prop where
  rows : ∀ m j, w.passRows m j = v.passRows m j
  model : ∀ m j, w.passModel m j = v.passModel m j

theorem Serve.SamePasses.refl (v : Serve) : v.SamePasses v := ⟨fun _ _ => rfl, fun _ _ => rfl⟩
theorem Serve.SamePasses.trans {u v w : Serve} (h : u.SamePasses v) (g : v.SamePasses w) : u.SamePasses w :=
  ⟨fun m j => (g.rows m j).trans (h.rows m j), fun m j => (g.model m j).trans (h.model m j)⟩

/-- A request's slot, record and rows of this step: what its rows in the passes depend on. -/
def Request.packing (r : Request) : JoinRec × Option Nat × Nat × Nat := (r.jrec, r.slot, r.kNow, r.rowsNow)

theorem Request.rowsIn_congr {r q : Request} (h : q.packing = r.packing) (j : Nat) : q.rowsIn j = r.rowsIn j := by
  simp only [Request.packing, Prod.mk.injEq] at h
  obtain ⟨-, -, hk, hrows⟩ := h
  unfold Request.rowsIn
  rw [hk, hrows]

theorem Request.id_congr {r q : Request} (h : q.packing = r.packing) : q.id = r.id := by
  simp only [Request.packing, Prod.mk.injEq] at h
  rw [Request.id, Request.id, h.1]

/-- Requests changed in what no pass depends on. -/
theorem Serve.samePasses_of_reqs (v : Serve) (g : Request → Request) (hg : ∀ r, (g r).packing = r.packing) :
    v.SamePasses { v with reqs := v.reqs.map g } := by
  refine ⟨fun m j => ?_, fun _ _ => rfl⟩
  have hslot : ∀ n, ({ v with reqs := v.reqs.map g } : Serve).reqs.find? (fun r => r.slot = some n && r.jrec.model = m) =
      (v.reqs.find? (fun r => r.slot = some n && r.jrec.model = m)).map g := fun n => by
    rw [List.find?_map]
    congr 2
    funext r
    have hr := hg r
    simp only [Request.packing, Prod.mk.injEq] at hr
    simp [hr]
  have hslotted : ({ v with reqs := v.reqs.map g } : Serve).slotted m = (v.slotted m).map g := by
    unfold Serve.slotted
    simp only [hslot, List.map_filterMap]
  unfold Serve.passRows
  rw [hslotted, List.flatMap_map]
  refine List.flatMap_congr (fun r _ => ?_)
  rw [Request.rowsIn_congr (hg r), Request.id_congr (hg r)]

theorem find?_map_values {α : Type} (m : FMap α) (g : Nat → α → α) (k : Nat) :
    FMap.find? (m.map (fun e => (e.1, g e.1 e.2))) k = (FMap.find? m k).map (g k) := by
  induction m with
  | nil => rfl
  | cons e m ih =>
    obtain ⟨j, v⟩ := e
    rw [List.map_cons, FMap.find?, FMap.find?, ih]
    split
    · next h => rw [h]; rfl
    · rfl

/-- Models changed in what no pass depends on. -/
theorem Serve.samePasses_of_models (v : Serve) (g : Nat → Model → Model) (hg : ∀ m x, (g m x).mrec = x.mrec) :
    v.SamePasses { v with models := v.models.map (fun e => (e.1, g e.1 e.2)) } := by
  refine ⟨fun _ _ => rfl, fun m j => ?_⟩
  have hmodel : ∀ k, ({ v with models := v.models.map (fun e => (e.1, g e.1 e.2)) } : Serve).model k = (v.model k).map (g k) :=
    fun k => find?_map_values v.models g k
  unfold Serve.passModel
  simp only [hmodel]
  cases v.model m with
  | none => rfl
  | some x =>
    simp only [Option.map_some, hg, Option.map_map]
    split
    · rfl
    · congr 1
      funext y
      exact hg _ y

/-! ## What Tap's work on a pass keeps -/

/-- Tap works on partition `p`: no core differs, the passes of the partition are the same, no row loses a value, and a sampled row
stays one. -/
structure TapKeeps (p : Nat) (s t : State) : Prop where
  cores : t.cores = s.cores
  passes : (s.serveOf p).SamePasses (t.serveOf p)
  vals : ∀ d key, ((t.die d).rows.get {} key).vals = ((s.die d).rows.get {} key).vals
  sampled : ∀ d key, ((s.die d).rows.get {} key).sampled = true → ((t.die d).rows.get {} key).sampled = true

section
variable {p : Nat} {s t u : State}

theorem TapKeeps.refl (p : Nat) (s : State) : TapKeeps p s s := ⟨rfl, .refl _, fun _ _ => rfl, fun _ _ h => h⟩
theorem TapKeeps.trans (h : TapKeeps p s t) (g : TapKeeps p t u) : TapKeeps p s u :=
  ⟨g.cores.trans h.cores, h.passes.trans g.passes, fun d key => (g.vals d key).trans (h.vals d key),
    fun d key hs => g.sampled d key (h.sampled d key hs)⟩

theorem TapKeeps.of_eq (hc : t.cores = s.cores) (hv : t.serve = s.serve) (hd : t.dies = s.dies) : TapKeeps p s t := by
  refine ⟨hc, ?_, fun d key => ?_, fun d key h => ?_⟩
  · rw [State.serveOf, State.serveOf, hv]; exact .refl _
  · rw [State.die, State.die, hd]
  · rw [State.die, hd]; exact h

theorem TapKeeps.foldl {α : Type} {l : List α} {f : State → α → State} (h : TapKeeps p s t) (hf : ∀ u x, TapKeeps p u (f u x)) :
    TapKeeps p s (l.foldl f t) := by
  induction l generalizing t with
  | nil => exact h
  | cons x l ih => exact ih (h.trans (hf t x))

theorem TapKeeps.modServe {f : Serve → Serve} (h : TapKeeps p s t) (hf : (t.serveOf p).SamePasses (f (t.serveOf p))) :
    TapKeeps p s (t.modServe p f) :=
  h.trans ⟨rfl, by rw [State.serveOf_modServe_self]; exact hf, fun _ _ => rfl, fun _ _ h => h⟩

theorem TapKeeps.modReq {f : Request → Request} (h : TapKeeps p s t) (id : Nat) (hf : ∀ r, (f r).packing = r.packing) :
    TapKeeps p s (t.modReq p id f) := by
  refine h.modServe (Serve.samePasses_of_reqs _ _ (fun r => ?_))
  split
  · exact hf r
  · rfl

theorem TapKeeps.modModel {f : Model → Model} (h : TapKeeps p s t) (m : Nat) (hf : ∀ x, (f x).mrec = x.mrec) :
    TapKeeps p s (t.modModel p m f) := by
  have hsame := Serve.samePasses_of_models (t.serveOf p) (fun k x => if k = m then f x else x) (fun k x => by
    split
    · exact hf x
    · rfl)
  have hmap : (t.serveOf p).models.map (fun e => if e.1 = m then (e.1, f e.2) else e) =
      (t.serveOf p).models.map (fun e => (e.1, if e.1 = m then f e.2 else e.2)) :=
    List.map_congr_left (fun e _ => by split <;> rfl)
  refine h.modServe ?_
  rw [hmap]
  exact hsame

theorem State.die_modDie (s : State) (d e : Nat) (f : Die → Die) : (s.modDie d f).die e = if e = d then f (s.die d) else s.die e :=
  FMap.get_set ..

/-- A die changed in what the values of no row and no completed row depend on. -/
theorem TapKeeps.modDie {f : Die → Die} (h : TapKeeps p s t) (d : Nat)
    (hf : ∀ key, ((f (t.die d)).rows.get {} key).vals = ((t.die d).rows.get {} key).vals ∧
      (((t.die d).rows.get {} key).sampled = true → ((f (t.die d)).rows.get {} key).sampled = true)) : TapKeeps p s (t.modDie d f) := by
  refine h.trans ⟨rfl, .refl _, fun e key => ?_, fun e key hs => ?_⟩
  · rw [State.die_modDie]
    split
    · next he => rw [he]; exact (hf key).1
    · rfl
  · rw [State.die_modDie]
    split
    · next he => rw [he] at hs; exact (hf key).2 hs
    · exact hs

/-- A die changed in its counts only. -/
theorem TapKeeps.dieCount {f : Die → Die} (h : TapKeeps p s t) (d : Nat) (hf : (f (t.die d)).rows = (t.die d).rows) :
    TapKeeps p s (t.modDie d f) := h.modDie d (fun key => by rw [hf]; exact ⟨rfl, id⟩)

/-- A row changed in its token only. -/
theorem TapKeeps.modTapRow {f : TapRow → TapRow} (h : TapKeeps p s t) (m j row : Nat) (hv : ∀ x, (f x).vals = x.vals)
    (hs : ∀ x, x.sampled = true → (f x).sampled = true) : TapKeeps p s (t.modTapRow p m j row f) := by
  unfold State.modTapRow
  dsimp only
  split
  · refine h.modDie _ (fun key => ?_)
    dsimp only
    rw [FMap.get_set]
    split
    · next hkey => rw [hkey]; exact ⟨hv _, hs _⟩
    · exact ⟨rfl, id⟩
  · exact h

theorem TapKeeps.settleRow (h : TapKeeps p s t) (m j row : Nat) (tok : Option Nat) : TapKeeps p s (t.settleRow p m j row tok) :=
  h.modTapRow m j row (fun _ => rfl) (fun _ hs => hs)

theorem TapKeeps.draw (h : TapKeeps p s t) (w : Nat) : TapKeeps p s (t.draw w).2 := h.trans (TapKeeps.of_eq rfl rfl rfl)
theorem TapKeeps.acctAdd (h : TapKeeps p s t) (client w n : Nat) : TapKeeps p s (t.acctAdd client w n) :=
  h.trans (TapKeeps.of_eq rfl rfl rfl)
theorem TapKeeps.tapLines (h : TapKeeps p s t) (l : List TokenLine) : TapKeeps p s { t with tapLines := l } :=
  h.trans (TapKeeps.of_eq rfl rfl rfl)

theorem TapKeeps.cands (h : TapKeeps p s t) (classes : Nat) (y : List (Nat × BitVec 32)) (j : JoinRec) :
    TapKeeps p s (t.cands classes y j).1 := by
  unfold State.cands
  split
  · exact h
  · exact h.draw 20

theorem TapKeeps.emitTokens (h : TapKeeps p s t) (id die : Nat) (toks : List (Nat × Bool)) :
    TapKeeps p s (t.emitTokens p id die toks).1 := by
  unfold State.emitTokens
  dsimp only
  split
  · exact h
  · split
    · exact h
    · exact h.modReq id (fun _ => rfl)

/-- The candidates of the target rows of a request, drawn one after the other (R344). -/
theorem TapKeeps.targetCands (h : TapKeeps p s t) (m classes : Nat) (j : JoinRec) (l : List Nat) (cs : List Cands) :
    TapKeeps p s (l.foldl (fun (a : State × List Cands) w =>
      let e := a.1.cands classes (a.1.tapRow p m 0 w).vals j; (e.1, a.2 ++ [e.2])) (t, cs)).1 := by
  induction l generalizing t cs with
  | nil => exact h
  | cons w l ih => exact ih (h.cands classes _ j) _

theorem TapKeeps.verify (h : TapKeeps p s t) (id : Nat) : TapKeeps p s (t.verify p id) := by
  unfold State.verify
  dsimp only
  split
  · exact h
  · split
    · refine TapKeeps.foldl (TapKeeps.emitTokens (TapKeeps.modReq (h.targetCands ..) id ?_) ..) (fun u w => ?_)
      · exact fun _ => rfl
      · exact (TapKeeps.refl p u).settleRow ..
    · exact h

theorem TapKeeps.sendLines (h : TapKeeps p s t) (m j : Nat) : TapKeeps p s (t.sendLines p m j) := by
  refine TapKeeps.foldl h (fun u g => ?_)
  split
  · exact TapKeeps.refl ..
  · split
    · exact TapKeeps.refl ..
    · split
      · exact TapKeeps.refl ..
      · refine TapKeeps.tapLines (TapKeeps.modModel ((TapKeeps.refl p u).draw _) m ?_) _
        exact fun _ => rfl

/-- A completed row is sampled: the values stay, and the row is marked. -/
theorem TapKeeps.sampleRow (s : State) (m j row die cl : Nat) :
    TapKeeps p (s.modTapRow p m j row (fun t => { t with sampled := true })) (s.sampleRow p m j row die cl) := by
  unfold State.sampleRow
  dsimp only
  generalize s.modTapRow p m j row (fun t => { t with sampled := true }) = u
  have hu := TapKeeps.refl p u
  split
  · split
    · exact hu
    · split
      · exact (hu.settleRow ..).dieCount _ rfl
      · split
        · split
          · exact (hu.settleRow ..).dieCount _ rfl
          · refine TapKeeps.foldl (TapKeeps.modReq (TapKeeps.draw (TapKeeps.dieCount (hu.settleRow ..) _ ?_) _) _ ?_)
              (fun a jj => TapKeeps.foldl (TapKeeps.refl ..) (fun b i => ?_))
            · rfl
            · exact fun _ => rfl
            · split
              · exact (TapKeeps.refl p b).settleRow ..
              · exact TapKeeps.refl ..
        · split
          · exact hu.settleRow ..
          · split
            · refine TapKeeps.settleRow (TapKeeps.modReq ((hu.acctAdd cl 9 1).cands ..) _ ?_) ..
              exact fun _ => rfl
            · split
              · exact (((hu.acctAdd cl 9 1).cands ..).emitTokens ..).settleRow ..
              · exact (hu.acctAdd cl 9 1).verify _
  · exact hu

/-! ## Rows at their Tap -/

theorem TapKeeps.tapRow (h : TapKeeps p s t) (m j row : Nat) : (t.tapRow p m j row).vals = (s.tapRow p m j row).vals ∧
    ((s.tapRow p m j row).sampled = true → (t.tapRow p m j row).sampled = true) := by
  unfold State.tapRow
  dsimp only
  rw [h.passes.model, h.passes.rows]
  split
  · exact ⟨h.vals _ _, h.sampled _ _⟩
  · exact ⟨rfl, id⟩

theorem State.modTapRow_rest (s : State) (m j row : Nat) (f : TapRow → TapRow) : (s.modTapRow p m j row f).cores = s.cores ∧
    (s.modTapRow p m j row f).serve = s.serve := by
  unfold State.modTapRow
  dsimp only
  split <;> exact ⟨rfl, rfl⟩

theorem State.tapRow_modTapRow_self {m j row : Nat} {y : ModelRec} (hy : (s.serveOf p).passModel m j = some y) (f : TapRow → TapRow) :
    (s.modTapRow p m j row f).tapRow p m j row = f (s.tapRow p m j row) := by
  have hserve : (s.modTapRow p m j row f).serveOf p = s.serveOf p := by
    rw [State.serveOf, State.serveOf, (s.modTapRow_rest m j row f).2]
  unfold State.tapRow
  dsimp only
  rw [hserve, hy]
  unfold State.modTapRow
  dsimp only
  rw [hy]
  dsimp only
  rw [State.die_modDie_self, FMap.get_set_self]

theorem State.tapRow_modTapRow_ne {m j row other : Nat} (hne : other ≠ row) (f : TapRow → TapRow) :
    (s.modTapRow p m j row f).tapRow p m j other = s.tapRow p m j other := by
  have hserve : (s.modTapRow p m j row f).serveOf p = s.serveOf p := by
    rw [State.serveOf, State.serveOf, (s.modTapRow_rest m j row f).2]
  unfold State.tapRow
  dsimp only
  rw [hserve]
  unfold State.modTapRow
  dsimp only
  cases hy : (s.serveOf p).passModel m j with
  | none => rfl
  | some y =>
    dsimp only
    rw [State.die_modDie]
    split
    · next hd =>
      dsimp only
      rw [FMap.get_set_ne _ _ (by unfold rowKey; omega), hd]
    · rfl

/-- The values of a row of a SAMPLE, with their classes. -/
def classed (cls0 : Nat) (r : List (BitVec 32)) : List (Nat × BitVec 32) := r.zipIdx.map (fun z => (cls0 + z.2, z.1))

/-- Tap takes the row of a tile for row `row` of a pass: its values, and with all classes the row is sampled (R337). -/
def State.tapValue (s : State) (p m j die cl cls0 classes row : Nat) (r : List (BitVec 32)) : State :=
  let t := s.modTapRow p m j row (fun t => { t with vals := t.vals ++ classed cls0 r })
  if (t.tapRow p m j row).vals.length = classes then t.sampleRow p m j row die cl else t

/-- What Tap takes of a tile, row `row` of pass `j` of model `m` apart: no core and no pass differs, no other row has other values. -/
structure TapTook (p m j : Nat) (here : Nat → Prop) (s t : State) : Prop where
  cores : t.cores = s.cores
  passes : (s.serveOf p).SamePasses (t.serveOf p)
  other : ∀ row, ¬ here row → (t.tapRow p m j row).vals = (s.tapRow p m j row).vals ∧
    ((s.tapRow p m j row).sampled = true → (t.tapRow p m j row).sampled = true)

theorem TapKeeps.took {m j : Nat} {here : Nat → Prop} (h : TapKeeps p s t) : TapTook p m j here s t :=
  ⟨h.cores, h.passes, fun row _ => h.tapRow m j row⟩

theorem TapTook.trans {m j : Nat} {here there : Nat → Prop} (h : TapTook p m j here s t) (g : TapTook p m j there t u) :
    TapTook p m j (fun row => here row ∨ there row) s u := by
  refine ⟨g.cores.trans h.cores, h.passes.trans g.passes, fun row hrow => ?_⟩
  obtain ⟨hhere, hthere⟩ := not_or.1 hrow
  exact ⟨(g.other row hthere).1.trans (h.other row hhere).1, fun hs => (g.other row hthere).2 ((h.other row hhere).2 hs)⟩

theorem tapValue_takes {m j die cl cls0 row : Nat} {y : ModelRec} {r : List (BitVec 32)} (hy : (s.serveOf p).passModel m j = some y) :
    let t := s.tapValue p m j die cl cls0 y.classes row r
    TapTook p m j (fun o => o = row) s t ∧ (t.tapRow p m j row).vals = (s.tapRow p m j row).vals ++ classed cls0 r ∧
    ((s.tapRow p m j row).vals.length + r.length = y.classes → (t.tapRow p m j row).sampled = true) := by
  have hself := State.tapRow_modTapRow_self (row := row) hy (fun t => { t with vals := t.vals ++ classed cls0 r })
  have hother := fun o (ho : o ≠ row) => State.tapRow_modTapRow_ne (s := s) (p := p) (m := m) (j := j) ho
    (fun t => { t with vals := t.vals ++ classed cls0 r })
  have hrest := s.modTapRow_rest (p := p) m j row (fun t => { t with vals := t.vals ++ classed cls0 r })
  unfold State.tapValue
  dsimp only
  generalize s.modTapRow p m j row (fun t => { t with vals := t.vals ++ classed cls0 r }) = u at hself hother hrest
  obtain ⟨hcores, hserve⟩ := hrest
  have hsame : u.serveOf p = s.serveOf p := by rw [State.serveOf, State.serveOf, hserve]
  have hlen : (u.tapRow p m j row).vals.length = (s.tapRow p m j row).vals.length + r.length := by
    rw [hself]
    simp [classed]
  split
  · have hmark : TapKeeps p u (u.modTapRow p m j row (fun t => { t with sampled := true })) :=
      (TapKeeps.refl p u).modTapRow m j row (fun _ => rfl) (fun _ _ => rfl)
    have hkeeps := TapKeeps.sampleRow (p := p) u m j row die cl
    have hall := hmark.trans hkeeps
    refine ⟨⟨hall.cores.trans hcores, by rw [← hsame]; exact hall.passes, fun o ho => ?_⟩, ?_, fun _ => ?_⟩
    · rw [← hother o ho]; exact hall.tapRow m j o
    · rw [(hall.tapRow m j row).1, hself]
    · refine (hkeeps.tapRow m j row).2 ?_
      rw [State.tapRow_modTapRow_self (by rw [hsame]; exact hy)]
  · next hno =>
    refine ⟨⟨hcores, by rw [hsame]; exact .refl _, fun o ho => by rw [hother o ho]; exact ⟨rfl, id⟩⟩, by rw [hself], fun hfull => ?_⟩
    exact absurd (hlen.trans hfull) hno

/-- Tap takes the rows of a tile one after the other, each for a row of its own. -/
theorem tapValues_take {m j die cl cls0 row0 : Nat} {y : ModelRec} : ∀ (l : List (List (BitVec 32) × Nat)) (s : State),
    (l.map (·.2)).Nodup → (s.serveOf p).passModel m j = some y →
    let t := l.foldl (fun s e => s.tapValue p m j die cl cls0 y.classes (row0 + e.2) e.1) s
    TapTook p m j (fun o => ∃ e ∈ l, o = row0 + e.2) s t ∧
    ∀ e ∈ l, (t.tapRow p m j (row0 + e.2)).vals = (s.tapRow p m j (row0 + e.2)).vals ++ classed cls0 e.1 ∧
      ((s.tapRow p m j (row0 + e.2)).vals.length + e.1.length = y.classes → (t.tapRow p m j (row0 + e.2)).sampled = true) := by
  intro l
  induction l with
  | nil => exact fun s _ _ => ⟨(TapKeeps.refl p s).took, by simp⟩
  | cons e l ih =>
    intro s hnodup hy
    obtain ⟨hnew, hnodup⟩ := List.nodup_cons.1 hnodup
    obtain ⟨hfirst, hvals, hsampled⟩ := tapValue_takes (die := die) (cl := cl) (cls0 := cls0) (row := row0 + e.2) (r := e.1) hy
    obtain ⟨hrest, hall⟩ := ih (s.tapValue p m j die cl cls0 y.classes (row0 + e.2) e.1) hnodup (by rw [hfirst.passes.model]; exact hy)
    have hnot : ¬ ∃ f ∈ l, row0 + e.2 = row0 + f.2 := fun ⟨f, hf, he⟩ =>
      hnew (List.mem_map.2 ⟨f, hf, (Nat.add_left_cancel he).symm⟩)
    refine ⟨⟨hrest.cores.trans hfirst.cores, hfirst.passes.trans hrest.passes, fun o ho => ?_⟩, fun f hf => ?_⟩
    · exact (hfirst.trans hrest).other o (fun h => ho (h.elim (fun h => ⟨e, by simp, h⟩) (fun ⟨f, hf, h⟩ => ⟨f, by simp [hf], h⟩)))
    · rcases List.mem_cons.1 hf with rfl | hf
      · exact ⟨(hrest.other _ hnot).1.trans hvals, fun hfull => (hrest.other _ hnot).2 (hsampled hfull)⟩
      · have hne : row0 + f.2 ≠ row0 + e.2 := fun h => hnot ⟨f, hf, h.symm⟩
        obtain ⟨hv, hsm⟩ := hall f hf
        have hbefore := (hfirst.other _ hne).1
        rw [hbefore] at hv hsm
        exact ⟨hv, hsm⟩

end

/-! ## The tile as it is read -/

section
variable {c n : Nat} {P : Nat → Prop} {Q : Option (Nat → Prop)} {s : State} {x : Slot}

theorem Mv.mem_readSp (m : Mv) (c : Nat) (own : List Nat) (last : Bool) (a k : Nat) :
    ((m.readSp c own last a k).1.s.core c).sp.mem = (m.s.core c).sp.mem := by
  unfold Mv.readSp
  split
  · rfl
  · split
    · rw [Mv.s_halt]
    · split
      · rw [Mv.s_halt, State.core_modCore_self]
        rfl
      · rw [State.core_modCore_self]
        exact ((m.s.core c).spReadDone_rest last a k).2.2

/-- The rows of the next tile of a SAMPLE are read: as many as the tile has, of its width. -/
theorem sampleRows_reads (hs : s.SpSound c) (hr : ∀ i, i < dRows x.desc →
    s.runFault c [] (rowAddr 0 x.srcBase (dSstr x.desc) (x.moved * dRows x.desc + i)) (rowBytes (dSfmt x.desc) (dCols x.desc)) = none) :
    Good c n P Q s (s.sampleRows c x).1 ∧ PathsKept c s (s.sampleRows c x).1.s ∧
    ((s.sampleRows c x).1.s.core c).sp.mem = (s.core c).sp.mem ∧
    (s.sampleRows c x).2.map List.length = List.replicate (dRows x.desc) (dCols x.desc) := by
  unfold State.sampleRows
  dsimp only
  suffices key : ∀ k, k ≤ dRows x.desc →
      let q := (List.range k).foldl (fun (a : Mv × List (List (BitVec 32))) i =>
        let q := a.1.readRow c 0 [] (dLast x.desc) (rowAddr 0 x.srcBase (dSstr x.desc) (x.moved * dRows x.desc + i)) (dSfmt x.desc)
          (dCols x.desc)
        (q.1, a.2 ++ [q.2.map (fun e => BitVec.ofNat 32 (if dSfmt x.desc = 1 then e * 65536 else e))])) ({ s := s }, [])
      Good c n P Q s q.1 ∧ PathsKept c s q.1.s ∧ (q.1.s.core c).sp.mem = (s.core c).sp.mem ∧
        q.2.map List.length = List.replicate k (dCols x.desc) from key _ (Nat.le_refl _)
  intro k
  induction k with
  | zero => exact fun _ => ⟨Good.start .., PathsKept.refl .., rfl, rfl⟩
  | succ k ih =>
    intro hk
    obtain ⟨hgood, hkept, hmem, hlens⟩ := ih (by omega)
    rw [List.range_succ, List.foldl_append, List.foldl_cons, List.foldl_nil]
    generalize List.foldl _ (({ s := s } : Mv), ([] : List (List (BitVec 32)))) (List.range k) = q at hgood hkept hmem hlens ⊢
    obtain ⟨hread, hcodes⟩ := hgood.readRow hs (hr k hk) (dLast x.desc)
    refine ⟨hread, hkept.trans (PathsKept.readSp ..), (Mv.mem_readSp ..).trans hmem, ?_⟩
    simp [hlens, hcodes, codesOf_length, List.replicate_succ']

end

/-! ## TAP_TILE -/

/-- The pass of a SAMPLE, and the first packed row of its next tile (R336, R337). -/
def samplePass (d : BitVec 256) : Nat := if bit d 243 then fld d 244 4 + 1 else 0
def Slot.sampleRow0 (x : Slot) : Nat := fld x.desc 228 15 + x.moved * dRows x.desc

/-- The rows of a tile that the Tap of core `c` may take: of a pass of a model, of that die, and within the classes (R337). -/
structure TapOk (s : State) (c : Nat) (x : Slot) (m : Nat) (y : ModelRec) : Prop where
  model : (s.serveOf (s.partOf c)).tapModel (dieOf c) (samplePass x.desc) = some m
  pass : (s.serveOf (s.partOf c)).passModel m (samplePass x.desc) = some y
  rows : x.sampleRow0 + dRows x.desc ≤ ((s.serveOf (s.partOf c)).passRows m (samplePass x.desc)).length
  classes : 256 * fld x.desc 216 12 + dCols x.desc ≤ y.classes
  row : ∀ i, i < dRows x.desc →
    samplingDie y ((s.serveOf (s.partOf c)).passRows m (samplePass x.desc)).length (x.sampleRow0 + i) = dieOf c ∧
    (s.tapRow (s.partOf c) m (samplePass x.desc) (x.sampleRow0 + i)).vals.length + dCols x.desc ≤ y.classes

/-- The slot of a SAMPLE after its next tile. -/
def Slot.tileTaken (tiles moved mash : Nat) (x : Slot) : Slot := { x with moved := x.moved + 1, movedAt := mash, done := tiles ≤ moved + 1 }

/-- The tile that Tap takes when no check of R337 fails. -/
theorem State.tapTake_eq {s : State} {c n m : Nat} {x : Slot} {rows : List (List (BitVec 32))} {y : ModelRec} (h : TapOk s c x m y) :
    ∃ (f : Model → Model) (cl : Nat), (∀ z, (f z).mrec = z.mrec) ∧ s.tapTake c n x rows =
      ((((rows.zipIdx.foldl (fun u e => u.tapValue (s.partOf c) m (samplePass x.desc) (dieOf c) cl (256 * fld x.desc 216 12) y.classes
          (x.sampleRow0 + e.2) e.1) (s.modModel (s.partOf c) m f)).sendLines (s.partOf c) m (samplePass x.desc)).sendLines (s.partOf c) m
        0).modCore c (fun k => k.modSlot n (Slot.tileTaken (dTiles x.desc) x.moved (s.mashOf c)))) := by
  have hbad : (decide (((s.serveOf (s.partOf c)).passRows m (samplePass x.desc)).length < x.sampleRow0 + dRows x.desc) ||
      decide (y.classes < 256 * fld x.desc 216 12 + dCols x.desc) ||
      (List.range (dRows x.desc)).any (fun i =>
        decide (samplingDie y ((s.serveOf (s.partOf c)).passRows m (samplePass x.desc)).length (x.sampleRow0 + i) ≠ dieOf c) ||
        decide (y.classes < (s.tapRow (s.partOf c) m (samplePass x.desc) (x.sampleRow0 + i)).vals.length + dCols x.desc))) = false := by
    have hrows := h.rows
    have hclasses := h.classes
    simp only [Bool.or_eq_false_iff, decide_eq_false_iff_not, List.any_eq_false, List.mem_range]
    refine ⟨⟨by omega, by omega⟩, fun i hi => ?_⟩
    obtain ⟨hdie, hvals⟩ := h.row i hi
    simp [hdie]
    omega
  refine ⟨fun z => { z with row0 := z.row0.set (samplePass x.desc) (match z.row0.find? (samplePass x.desc) with
    | some r => min r (fld x.desc 228 15)
    | none => fld x.desc 228 15) }, (s.core c).client, fun _ => rfl, ?_⟩
  have hm := h.model
  have hy := h.pass
  unfold samplePass at hm hy hbad
  unfold Slot.sampleRow0 at hbad
  unfold State.tapTake
  dsimp only
  rw [hm]
  dsimp only
  rw [hy]
  dsimp only
  rw [if_neg (Bool.eq_false_iff.1 hbad)]
  rfl

/-- A movement in a frame leaves what Tap goes by. -/
theorem Frame.tapRow {c n : Nat} {P : Nat → Prop} {Q : Option (Nat → Prop)} {s u : State} (h : Frame c n P Q s u) :
    u.partOf c = s.partOf c ∧ (∀ p, u.serveOf p = s.serveOf p) ∧ ∀ p m j row, u.tapRow p m j row = s.tapRow p m j row := by
  have hbays : u.bays = s.bays := by have hrest := congrArg State.bays h.rest; exact hrest
  have hserve : u.serve = s.serve := by have hrest := congrArg State.serve h.rest; exact hrest
  have hdies : u.dies = s.dies := by have hrest := congrArg State.dies h.rest; exact hrest
  refine ⟨by simp only [State.partOf, State.partOfBay, State.bay, hbays], fun p => by rw [State.serveOf, State.serveOf, hserve],
    fun p m j row => ?_⟩
  unfold State.tapRow State.serveOf State.die
  rw [hserve, hdies]

theorem Frame.tapOk {c n : Nat} {P : Nat → Prop} {Q : Option (Nat → Prop)} {s u : State} (h : Frame c n P Q s u) {x : Slot} {m : Nat}
    {y : ModelRec} (ok : TapOk s c x m y) : TapOk u c x m y := by
  obtain ⟨hpart, hserve, hrow⟩ := h.tapRow
  constructor
  · rw [hpart, hserve]; exact ok.model
  · rw [hpart, hserve]; exact ok.pass
  · rw [hpart, hserve]; exact ok.rows
  · exact ok.classes
  · rw [hpart, hserve]
    simp only [hrow]
    exact ok.row

/-- What a tile that Tap takes leaves: the slot one tile on, the cores otherwise as they were, and the values of its rows. -/
theorem tapTake_takes {s : State} {c n m : Nat} {x : Slot} {rows : List (List (BitVec 32))} {y : ModelRec} (ok : TapOk s c x m y)
    (hrows : rows.map List.length = List.replicate (dRows x.desc) (dCols x.desc)) :
    (∃ mash, (s.tapTake c n x rows).core c = (s.core c).modSlot n (Slot.tileTaken (dTiles x.desc) x.moved mash)) ∧
    ∀ i, i < dRows x.desc →
      ((s.tapTake c n x rows).tapRow (s.partOf c) m (samplePass x.desc) (x.sampleRow0 + i)).vals =
        (s.tapRow (s.partOf c) m (samplePass x.desc) (x.sampleRow0 + i)).vals ++ classed (256 * fld x.desc 216 12) (rows.getD i []) ∧
      ((s.tapRow (s.partOf c) m (samplePass x.desc) (x.sampleRow0 + i)).vals.length + dCols x.desc = y.classes →
        ((s.tapTake c n x rows).tapRow (s.partOf c) m (samplePass x.desc) (x.sampleRow0 + i)).sampled = true) := by
  obtain ⟨f, cl, hf, htake⟩ := State.tapTake_eq (n := n) (rows := rows) ok
  rw [htake]
  have hlen : rows.length = dRows x.desc := by simpa using congrArg List.length hrows
  have hfirst := (TapKeeps.refl (s.partOf c) s).modModel m hf
  obtain ⟨htook, hvals⟩ := tapValues_take (die := dieOf c) (cl := cl) (cls0 := 256 * fld x.desc 216 12) (row0 := x.sampleRow0)
    rows.zipIdx (s.modModel (s.partOf c) m f) (by rw [List.zipIdx_map_snd]; exact List.nodup_range' ..)
    (by rw [hfirst.passes.model]; exact ok.pass)
  generalize List.foldl _ (s.modModel (s.partOf c) m f) rows.zipIdx = w at htook hvals ⊢
  have hlines := ((TapKeeps.refl (s.partOf c) w).sendLines m (samplePass x.desc)).sendLines m 0
  generalize (w.sendLines (s.partOf c) m (samplePass x.desc)).sendLines (s.partOf c) m 0 = v at hlines ⊢
  have hcores : v.cores = s.cores := hlines.cores.trans (htook.cores.trans hfirst.cores)
  refine ⟨⟨s.mashOf c, by rw [State.core_modCore_self, State.core, State.core, hcores]⟩, fun i hi => ?_⟩
  have hmem : (rows.getD i [], i) ∈ rows.zipIdx := by
    rw [List.getD_eq_getElem _ _ (by omega)]
    exact List.mk_mem_zipIdx_iff_getElem?.2 (List.getElem?_eq_getElem (by omega))
  obtain ⟨hv, hsm⟩ := hvals _ hmem
  obtain ⟨hlv, hls⟩ := hlines.tapRow m (samplePass x.desc) (x.sampleRow0 + i)
  obtain ⟨hfv, -⟩ := hfirst.tapRow m (samplePass x.desc) (x.sampleRow0 + i)
  have hwide : (rows.getD i []).length = dCols x.desc := by
    have hin : (rows.getD i []).length ∈ rows.map List.length := List.mem_map.2 ⟨_, getD_mem [] (by omega), rfl⟩
    rw [hrows] at hin
    exact List.eq_of_mem_replicate hin
  rw [hfv] at hv hsm
  refine ⟨hlv.trans hv, fun hfull => hls (hsm ?_)⟩
  rw [hwide]
  exact hfull

/-- A tile of an ACTIVE SAMPLE reaches its Tap. -/
theorem exec_tapTile_takes {s : State} {r : StreamRef} {m : Nat} {y : ModelRec} :
    let c := r.core.val
    let n := r.slot.val
    let k := s.core c
    let x := k.slot n
    let d := x.desc
    kindOf d = 12 → x.state = .active → x.done = false → s.SpSound c →
      (∀ i, i < dRows d → s.runFault c [] (rowAddr 0 x.srcBase (dSstr d) (x.moved * dRows d + i)) (rowBytes (dSfmt d) (dCols d)) = none) →
      TapOk s c x m y →
      ∃ t, exec (.tapTile r) s = .next t ∧ ((t.core c).slot n).moved = x.moved + 1 ∧ ((t.core c).slot n).state = .active ∧
        (((t.core c).slot n).done = true ↔ dTiles d ≤ x.moved + 1) ∧ (t.core c).sp.mem = k.sp.mem ∧
        ∀ i, i < dRows d →
          (t.tapRow (s.partOf c) m (samplePass d) (x.sampleRow0 + i)).vals =
            (s.tapRow (s.partOf c) m (samplePass d) (x.sampleRow0 + i)).vals ++
              classed (256 * fld d 216 12) ((s.sampleRows c x).2.getD i []) ∧
          ((s.tapRow (s.partOf c) m (samplePass d) (x.sampleRow0 + i)).vals.length + dCols d = y.classes →
            (t.tapRow (s.partOf c) m (samplePass d) (x.sampleRow0 + i)).sampled = true) := by
  intro c n k x d hk hactive hdone hs hr ok
  obtain ⟨hgood, hkept, hmem, hlens⟩ := sampleRows_reads (n := n) (P := fun _ => False) (Q := none) hs hr
  obtain ⟨hpart, -, hrow⟩ := hgood.2.tapRow
  obtain ⟨⟨mash, hcore⟩, hvals⟩ := tapTake_takes (n := n) (hgood.2.tapOk ok) hlens
  have hslot : ((s.sampleRows c x).1.s.core c).slot n = x := Core.slot_congr hkept.slots n
  have hexec : exec (.tapTile r) s = .next ((s.sampleRows c x).1.s.tapTake c n x (s.sampleRows c x).2) := by
    rw [exec_tapTile_eq, execTapTile]
    dsimp only
    rw [if_pos (by
      have hk' : kindOf ((s.core r.core.val).slot r.slot.val).desc = 12 := hk
      have hactive' : ((s.core r.core.val).slot r.slot.val).state = .active := hactive
      have hdone' : ((s.core r.core.val).slot r.slot.val).done = false := hdone
      simp [hk', hactive', hdone'])]
    show Host.Outcome.next (match (s.sampleRows c x).1.stop with
      | some e => _
      | none => _) = _
    rw [hgood.1]
  rw [hpart] at hvals
  simp only [hrow] at hvals
  refine ⟨_, hexec, ?_, ?_, ?_, ?_, hvals⟩
  · rw [hcore, Core.slot_modSlot_self, hslot]; rfl
  · rw [hcore, Core.slot_modSlot_self, hslot]; exact hactive
  · rw [hcore, Core.slot_modSlot_self, hslot]; exact decide_eq_true_iff
  · rw [hcore]; exact hmem

/-- Settles O37: a SEND finds its lines posted and its endpoint free as long as it has lines, a RECV and a SAMPLE are accepted, and what
Tap does with the rows of a tile leaves their values. -/
theorem sendRecvSampleTakeEffect : Obligations.SendRecvSampleTakeEffect := by
  intro s r
  refine ⟨fun ht hremote hsoft hspace hmoved hlines hposted hroom => ?_, fun ht hremote => exec_recv_posts ht hremote,
    fun ht => exec_sample_accepted ht, fun m y hk hactive hdone hs hr hm hy hrows hclasses hrow => ?_⟩
  · have ⟨_, _, hs⟩ := ht
    exact exec_send_runs ht hremote hsoft hmoved ⟨hs, hspace, hlines, hposted, hroom⟩
  · exact exec_tapTile_takes hk hactive hdone hs hr ⟨hm, hy, hrows, hclasses, hrow⟩

end Sys2Proof.Machine
end

section
/-! PROOF. O5: decoding the word of an instruction (R82 to R84, Tables 3.3 and 3.4). What the fields of each format read in a word of
that format, what the decoder makes of such a word, and from these the 44 instructions. -/

namespace Sys2Proof.Machine

open Sys2Proof

/-! ## Fields of a word of a format -/

/-- A run of bits on both sides of a boundary is zero when its two parts are. -/
theorem extractLsb'_append_eq_zero {v m s n : Nat} {x : BitVec v} {y : BitVec m} (hs : s < m) (hn : m < s + n) :
    (x ++ y).extractLsb' s n = 0 ↔ y.extractLsb' s (m - s) = 0 ∧ x.extractLsb' 0 (s + n - m) = 0 := by
  simp only [BitVec.eq_of_getLsbD_eq_iff, BitVec.getLsbD_extractLsb', BitVec.getLsbD_append]
  constructor
  · refine fun h => ⟨fun j hj => ?_, fun j hj => ?_⟩
    · simpa [hj, show s + j < m by omega, show j < n by omega] using h j (by omega)
    · simpa [hj, show s + (m - s + j) = m + j by omega, show m - s + j < n by omega] using h (m - s + j) (by omega)
  · rintro ⟨hlow, hhigh⟩ j hj
    by_cases hm : s + j < m
    · simpa [hm, hj, show j < m - s by omega] using hlow j (by omega)
    · simpa [hm, hj, show s + j - m < s + n - m by omega] using hhigh (s + j - m) (by omega)

/-- The opcode of a word is its top byte. -/
theorem opcode_wordOf (opc : BitVec 8) (low : BitVec 56) : (wordOf opc low).extractLsb' 56 8 = opc := by
  rw [wordOf, BitVec.extractLsb'_append_eq_of_le (by omega)]
  exact BitVec.extractLsb'_eq_self

section
variable (opc : BitVec 8)

theorem opcode_encA (rd ra : BitVec 5) (y : Op2) : (encA opc rd ra y).extractLsb' 56 8 = opc := by
  cases y with
  | reg rb => exact opcode_wordOf opc _
  | imm v => exact opcode_wordOf opc _

theorem opcode_encT (tc : BitVec 3) (y : Op2) : (encT opc tc y).extractLsb' 56 8 = opc := by
  cases y with
  | reg ra => exact opcode_wordOf opc _
  | imm v => exact opcode_wordOf opc _

theorem opcode_encM (rd : BitVec 5) (an : BitVec 4) (imm : BitVec 32) : (encM opc rd an imm).extractLsb' 56 8 = opc :=
  opcode_wordOf opc _
theorem opcode_encB (ra rb : BitVec 5) (cond : BitVec 3) (off : BitVec 32) : (encB opc ra rb cond off).extractLsb' 56 8 = opc :=
  opcode_wordOf opc _
theorem opcode_encC (rd ra : BitVec 5) (sel : BitVec 4) (imm : BitVec 32) : (encC opc rd ra sel imm).extractLsb' 56 8 = opc :=
  opcode_wordOf opc _
theorem opcode_encL (rd : BitVec 5) (rda : Bool) (imm : BitVec 48) : (encL opc rd rda imm).extractLsb' 56 8 = opc :=
  opcode_wordOf opc _

theorem fields_encA (rd ra : BitVec 5) (y : Op2) : (encA opc rd ra y).extractLsb' 51 5 = rd ∧
    (encA opc rd ra y).extractLsb' 46 5 = ra ∧ opA (encA opc rd ra y) = some y := by
  cases y <;> refine ⟨?_, ?_, ?_⟩ <;>
    simp (disch := omega) only [encA, opA, wordOf, BitVec.extractLsb'_append_eq_of_le, BitVec.extractLsb'_append_eq_of_add_le,
      Nat.reduceSub, BitVec.extractLsb'_eq_self] <;> rfl

theorem zero_encA (rd ra : BitVec 5) : (encA opc rd ra (.reg 0)).extractLsb' 0 46 = 0 := by
  simp (disch := omega) only [encA, wordOf, BitVec.extractLsb'_append_eq_of_add_le, extractLsb'_append_eq_zero]
  decide

theorem fields_encT (tc : BitVec 3) (y : Op2) : (encT opc tc y).extractLsb' 40 3 = tc ∧ opT (encT opc tc y) = some y := by
  cases y <;> refine ⟨?_, ?_⟩ <;>
    simp (disch := omega) only [encT, opT, wordOf, BitVec.extractLsb'_append_eq_of_le, BitVec.extractLsb'_append_eq_of_add_le,
      Nat.reduceSub, BitVec.extractLsb'_eq_self] <;> rfl

theorem fields_encM (rd : BitVec 5) (an : BitVec 4) (imm : BitVec 32) : (encM opc rd an imm).extractLsb' 51 5 = rd ∧
    (encM opc rd an imm).extractLsb' 47 4 = an ∧ (encM opc rd an imm).extractLsb' 32 15 = 0 ∧
    (encM opc rd an imm).extractLsb' 0 32 = imm := by
  refine ⟨?_, ?_, ?_, ?_⟩ <;>
    simp (disch := omega) only [encM, wordOf, BitVec.extractLsb'_append_eq_of_le, BitVec.extractLsb'_append_eq_of_add_le,
      Nat.reduceSub, BitVec.extractLsb'_eq_self]

theorem fields_encB (ra rb : BitVec 5) (cond : BitVec 3) (off : BitVec 32) : (encB opc ra rb cond off).extractLsb' 51 5 = ra ∧
    (encB opc ra rb cond off).extractLsb' 46 5 = rb ∧ (encB opc ra rb cond off).extractLsb' 43 3 = cond ∧
    (encB opc ra rb cond off).extractLsb' 32 11 = 0 ∧ (encB opc ra rb cond off).extractLsb' 0 32 = off := by
  refine ⟨?_, ?_, ?_, ?_, ?_⟩ <;>
    simp (disch := omega) only [encB, wordOf, BitVec.extractLsb'_append_eq_of_le, BitVec.extractLsb'_append_eq_of_add_le,
      Nat.reduceSub, BitVec.extractLsb'_eq_self]

theorem zero_encB_jal (rd : BitVec 5) (off : BitVec 32) : (encB opc rd 0 0 off).extractLsb' 32 19 = 0 := by
  simp (disch := omega) only [encB, wordOf, BitVec.extractLsb'_append_eq_of_le, BitVec.extractLsb'_append_eq_of_add_le,
    extractLsb'_append_eq_zero, Nat.reduceSub]
  decide

theorem zero_encB_jr (ra : BitVec 5) : (encB opc ra 0 0 0).extractLsb' 0 51 = 0 := by
  simp (disch := omega) only [encB, wordOf, BitVec.extractLsb'_append_eq_of_add_le, extractLsb'_append_eq_zero]
  decide

theorem fields_encC (rd ra : BitVec 5) (sel : BitVec 4) (imm : BitVec 32) : (encC opc rd ra sel imm).extractLsb' 51 5 = rd ∧
    (encC opc rd ra sel imm).extractLsb' 46 5 = ra ∧ (encC opc rd ra sel imm).extractLsb' 36 10 = 0 ∧
    (encC opc rd ra sel imm).extractLsb' 32 4 = sel ∧ (encC opc rd ra sel imm).extractLsb' 0 32 = imm := by
  refine ⟨?_, ?_, ?_, ?_, ?_⟩ <;>
    simp (disch := omega) only [encC, wordOf, BitVec.extractLsb'_append_eq_of_le, BitVec.extractLsb'_append_eq_of_add_le,
      Nat.reduceSub, BitVec.extractLsb'_eq_self]

theorem zero_encC_rd (rd : BitVec 5) : (encC opc rd 0 0 0).extractLsb' 0 51 = 0 := by
  simp (disch := omega) only [encC, wordOf, BitVec.extractLsb'_append_eq_of_add_le, extractLsb'_append_eq_zero]
  decide

theorem zero_encC_rd_ra (rd ra : BitVec 5) : (encC opc rd ra 0 0).extractLsb' 0 46 = 0 := by
  simp (disch := omega) only [encC, wordOf, BitVec.extractLsb'_append_eq_of_add_le, extractLsb'_append_eq_zero]
  decide

theorem zero_encC_imm (imm : BitVec 32) : (encC opc 0 0 0 imm).extractLsb' 32 24 = 0 := by
  simp (disch := omega) only [encC, wordOf, BitVec.extractLsb'_append_eq_of_le, BitVec.extractLsb'_append_eq_of_add_le,
    extractLsb'_append_eq_zero, Nat.reduceSub]
  decide

theorem fields_encC_mask (mask : BitVec 8) : (encC opc 0 0 0 ((0 : BitVec 24) ++ mask)).extractLsb' 0 8 = mask ∧
    (encC opc 0 0 0 ((0 : BitVec 24) ++ mask)).extractLsb' 8 48 = 0 := by
  constructor
  · simp (disch := omega) only [encC, wordOf, BitVec.extractLsb'_append_eq_of_add_le, BitVec.extractLsb'_eq_self]
  · simp (disch := omega) only [encC, wordOf, BitVec.extractLsb'_append_eq_of_le, BitVec.extractLsb'_append_eq_of_add_le,
      extractLsb'_append_eq_zero]
    decide

theorem fields_encC_code (code : BitVec 16) : (encC opc 0 0 0 ((0 : BitVec 16) ++ code)).extractLsb' 0 16 = code ∧
    (encC opc 0 0 0 ((0 : BitVec 16) ++ code)).extractLsb' 16 40 = 0 := by
  constructor
  · simp (disch := omega) only [encC, wordOf, BitVec.extractLsb'_append_eq_of_add_le, BitVec.extractLsb'_eq_self]
  · simp (disch := omega) only [encC, wordOf, BitVec.extractLsb'_append_eq_of_le, BitVec.extractLsb'_append_eq_of_add_le,
      extractLsb'_append_eq_zero]
    decide

theorem fields_encL (rd : BitVec 5) (rda : Bool) (imm : BitVec 48) : (encL opc rd rda imm).extractLsb' 51 5 = rd ∧
    (encL opc rd rda imm).extractLsb' 50 1 = BitVec.ofBool rda ∧ (encL opc rd rda imm).extractLsb' 48 2 = 0 ∧
    (encL opc rd rda imm).extractLsb' 0 48 = imm := by
  refine ⟨?_, ?_, ?_, ?_⟩ <;>
    simp (disch := omega) only [encL, wordOf, BitVec.extractLsb'_append_eq_of_le, BitVec.extractLsb'_append_eq_of_add_le,
      Nat.reduceSub, BitVec.extractLsb'_eq_self]

theorem fields_encL_high (rd : BitVec 5) (rda : Bool) (imm : BitVec 16) :
    (encL opc rd rda ((0 : BitVec 32) ++ imm)).extractLsb' 0 16 = imm ∧
    (encL opc rd rda ((0 : BitVec 32) ++ imm)).extractLsb' 16 34 = 0 := by
  constructor
  · simp (disch := omega) only [encL, wordOf, BitVec.extractLsb'_append_eq_of_add_le, BitVec.extractLsb'_eq_self]
  · simp (disch := omega) only [encL, wordOf, BitVec.extractLsb'_append_eq_of_le, BitVec.extractLsb'_append_eq_of_add_le,
      extractLsb'_append_eq_zero]
    decide

end

/-- The word of a STREAM (Table 3.3, format S). -/
theorem fields_stream (rs rd : BitVec 5) (ax ay az : BitVec 4) :
    let w := wordOf 0x38 (rs ++ rd ++ ax ++ ay ++ az ++ (0 : BitVec 34))
    w.extractLsb' 51 5 = rs ∧ w.extractLsb' 46 5 = rd ∧ w.extractLsb' 42 4 = ax ∧ w.extractLsb' 38 4 = ay ∧ w.extractLsb' 34 4 = az ∧
      w.extractLsb' 0 34 = 0 := by
  refine ⟨?_, ?_, ?_, ?_, ?_, ?_⟩ <;>
    simp (disch := omega) only [wordOf, BitVec.extractLsb'_append_eq_of_le, BitVec.extractLsb'_append_eq_of_add_le,
      Nat.reduceSub, BitVec.extractLsb'_eq_self]

/-- The word of an RDT. -/
theorem fields_rdt (rd : BitVec 5) (tc : BitVec 3) :
    let w := wordOf 0x33 (rd ++ (0 : BitVec 8) ++ tc ++ (0 : BitVec 40))
    w.extractLsb' 51 5 = rd ∧ w.extractLsb' 43 8 = 0 ∧ w.extractLsb' 40 3 = tc ∧ w.extractLsb' 0 40 = 0 := by
  refine ⟨?_, ?_, ?_, ?_⟩ <;>
    simp (disch := omega) only [wordOf, BitVec.extractLsb'_append_eq_of_le, BitVec.extractLsb'_append_eq_of_add_le,
      Nat.reduceSub, BitVec.extractLsb'_eq_self]

/-! ## Decoding the word of a format -/

theorem decodeWord_encA {c : CoreId} {opc : BitVec 8} {f : BitVec 5 → BitVec 5 → Op2 → Instr}
    (h : ∀ w : BitVec 64, w.extractLsb' 56 8 = opc → decodeWord c w = (opA w).map (f (w.extractLsb' 51 5) (w.extractLsb' 46 5)))
    (rd ra : BitVec 5) (y : Op2) : decodeWord c (encA opc rd ra y) = some (f rd ra y) := by
  obtain ⟨hrd, hra, hy⟩ := fields_encA opc rd ra y
  rw [h _ (opcode_encA opc rd ra y), hrd, hra, hy]
  rfl

theorem decodeWord_encT {c : CoreId} {opc : BitVec 8} {f : BitVec 3 → Op2 → Instr}
    (h : ∀ w : BitVec 64, w.extractLsb' 56 8 = opc → decodeWord c w = (opT w).map (f (w.extractLsb' 40 3)))
    (tc : BitVec 3) (y : Op2) : decodeWord c (encT opc tc y) = some (f tc y) := by
  obtain ⟨htc, hy⟩ := fields_encT opc tc y
  rw [h _ (opcode_encT opc tc y), htc, hy]
  rfl

theorem decodeWord_encM {c : CoreId} {opc : BitVec 8} {f : BitVec 5 → BitVec 4 → BitVec 32 → Instr}
    (h : ∀ w : BitVec 64, w.extractLsb' 56 8 = opc → decodeWord c w =
      keepIf (w.extractLsb' 32 15 = 0) (f (w.extractLsb' 51 5) (w.extractLsb' 47 4) (w.extractLsb' 0 32)))
    (rd : BitVec 5) (an : BitVec 4) (imm : BitVec 32) : decodeWord c (encM opc rd an imm) = some (f rd an imm) := by
  obtain ⟨hrd, han, hzero, himm⟩ := fields_encM opc rd an imm
  rw [h _ (opcode_encM opc rd an imm), hrd, han, hzero, himm]
  rfl

theorem keepIf_true {p : Bool} (h : p = true) (i : Instr) : keepIf p i = some i := if_pos h

section
variable (c : CoreId)

theorem decodeWord_aadd {rd ra : BitVec 5} (y : Op2) (h : (aRegOk rd && aRegOk ra) = true) :
    decodeWord c (encA 0x10 rd ra y) = some (.aadd c rd ra y) := by
  obtain ⟨hrd, hra, hy⟩ := fields_encA 0x10 rd ra y
  rw [decodeWord, opcode_encA]
  show (opA _).bind _ = _
  rw [hrd, hra, hy]
  exact keepIf_true h _

theorem decodeWord_mova {rd : BitVec 5} (ra : BitVec 5) (h : aRegOk rd = true) :
    decodeWord c (encA 0x11 rd ra (.reg 0)) = some (.mova c rd ra) := by
  obtain ⟨hrd, hra, -⟩ := fields_encA 0x11 rd ra (.reg 0)
  rw [decodeWord, opcode_encA]
  show keepIf _ _ = _
  rw [hrd, hra, zero_encA]
  exact keepIf_true h _

theorem decodeWord_movs (rd : BitVec 5) {ra : BitVec 5} (h : aRegOk ra = true) :
    decodeWord c (encA 0x12 rd ra (.reg 0)) = some (.movs c rd ra) := by
  obtain ⟨hrd, hra, -⟩ := fields_encA 0x12 rd ra (.reg 0)
  rw [decodeWord, opcode_encA]
  show keepIf _ _ = _
  rw [hrd, hra, zero_encA]
  exact keepIf_true h _

theorem decodeWord_lim {rd : BitVec 5} {rda : Bool} (imm : BitVec 48) (h : (!rda || aRegOk rd) = true) :
    decodeWord c (encL 0x18 rd rda imm) = some (.lim c rd rda imm) := by
  obtain ⟨hrd, hrda, hzero, himm⟩ := fields_encL 0x18 rd rda imm
  rw [decodeWord, opcode_encL]
  show keepIf _ _ = _
  rw [hrd, hrda, hzero, himm]
  cases rda with
  | false => rfl
  | true => exact keepIf_true h _

theorem decodeWord_lih {rd : BitVec 5} {rda : Bool} (imm : BitVec 16) (h : (!rda || aRegOk rd) = true) :
    decodeWord c (encL 0x19 rd rda ((0 : BitVec 32) ++ imm)) = some (.lih c rd rda imm) := by
  obtain ⟨hrd, hrda, -, -⟩ := fields_encL 0x19 rd rda ((0 : BitVec 32) ++ imm)
  obtain ⟨himm, hzero⟩ := fields_encL_high 0x19 rd rda imm
  rw [decodeWord, opcode_encL]
  show keepIf _ _ = _
  rw [hrd, hrda, hzero, himm]
  cases rda with
  | false => rfl
  | true => exact keepIf_true h _

theorem decodeWord_br (ra rb : BitVec 5) {cond : BitVec 3} (off : BitVec 32) (h : cond.toNat ≠ 7) :
    decodeWord c (encB 0x20 ra rb cond off) = some (.br c ra rb cond off) := by
  obtain ⟨hra, hrb, hcond, hzero, hoff⟩ := fields_encB 0x20 ra rb cond off
  rw [decodeWord, opcode_encB]
  show keepIf _ _ = _
  rw [hra, hrb, hcond, hzero, hoff]
  have hne : cond ≠ 7 := fun he => h (congrArg BitVec.toNat he)
  exact keepIf_true (by simpa using hne) _

theorem decodeWord_jal (rd : BitVec 5) (off : BitVec 32) : decodeWord c (encB 0x21 rd 0 0 off) = some (.jal c rd off) := by
  obtain ⟨hrd, -, -, -, hoff⟩ := fields_encB 0x21 rd 0 0 off
  rw [decodeWord, opcode_encB]
  show keepIf _ _ = _
  rw [hrd, zero_encB_jal, hoff]
  rfl

theorem decodeWord_jr (ra : BitVec 5) : decodeWord c (encB 0x22 ra 0 0 0) = some (.jr c ra) := by
  obtain ⟨hra, -⟩ := fields_encB 0x22 ra 0 0 0
  rw [decodeWord, opcode_encB]
  show keepIf _ _ = _
  rw [hra, zero_encB_jr]
  rfl

/-- The instructions that name one register and nothing else. -/
theorem decodeWord_encC_rd {opc : BitVec 8} {f : BitVec 5 → Instr}
    (h : ∀ w : BitVec 64, w.extractLsb' 56 8 = opc → decodeWord c w = keepIf (w.extractLsb' 0 51 = 0) (f (w.extractLsb' 51 5)))
    (rd : BitVec 5) : decodeWord c (encC opc rd 0 0 0) = some (f rd) := by
  obtain ⟨hrd, -⟩ := fields_encC opc rd 0 0 0
  rw [h _ (opcode_encC opc rd 0 0 0), hrd, zero_encC_rd]
  rfl

theorem decodeWord_rdt (rd : BitVec 5) (tc : BitVec 3) :
    decodeWord c (wordOf 0x33 (rd ++ (0 : BitVec 8) ++ tc ++ (0 : BitVec 40))) = some (.rdt c rd tc) := by
  obtain ⟨hrd, hhigh, htc, hlow⟩ := fields_rdt rd tc
  rw [decodeWord, opcode_wordOf]
  show keepIf _ _ = _
  rw [hrd, hhigh, htc, hlow]
  rfl

theorem decodeWord_fence (mask : BitVec 8) :
    decodeWord c (encC 0x34 0 0 0 ((0 : BitVec 24) ++ mask)) = some (.fence c mask) := by
  obtain ⟨hmask, hzero⟩ := fields_encC_mask 0x34 mask
  rw [decodeWord, opcode_encC]
  show keepIf _ _ = _
  rw [hmask, hzero]
  rfl

theorem decodeWord_slotq (rd ra : BitVec 5) : decodeWord c (encC 0x35 rd ra 0 0) = some (.slotq c rd ra) := by
  obtain ⟨hrd, hra, -⟩ := fields_encC 0x35 rd ra 0 0
  rw [decodeWord, opcode_encC]
  show keepIf _ _ = _
  rw [hrd, hra, zero_encC_rd_ra]
  rfl

theorem decodeWord_stream (rs rd : BitVec 5) (ax ay az : BitVec 4) :
    decodeWord c (wordOf 0x38 (rs ++ rd ++ ax ++ ay ++ az ++ (0 : BitVec 34))) = some (.stream c rs rd ax ay az) := by
  obtain ⟨hrs, hrd, hax, hay, haz, hzero⟩ := fields_stream rs rd ax ay az
  rw [decodeWord, opcode_wordOf]
  show keepIf _ _ = _
  rw [hrs, hrd, hax, hay, haz, hzero]
  rfl

theorem decodeWord_raise (code : BitVec 16) :
    decodeWord c (encC 0x3A 0 0 0 ((0 : BitVec 16) ++ code)) = some (.raise c code) := by
  obtain ⟨hcode, hzero⟩ := fields_encC_code 0x3A code
  rw [decodeWord, opcode_encC]
  show keepIf _ _ = _
  rw [hcode, hzero]
  rfl

theorem decodeWord_csrr (rd : BitVec 5) (off : BitVec 32) : decodeWord c (encC 0x3C rd 0 0 off) = some (.csrr c rd off) := by
  obtain ⟨hrd, hra, hzero, hsel, hoff⟩ := fields_encC 0x3C rd 0 0 off
  rw [decodeWord, opcode_encC]
  show keepIf _ _ = _
  rw [hrd, hra, hzero, hsel, hoff]
  rfl

theorem decodeWord_csrw (ra : BitVec 5) (off : BitVec 32) : decodeWord c (encC 0x3D 0 ra 0 off) = some (.csrw c ra off) := by
  obtain ⟨hrd, hra, hzero, hsel, hoff⟩ := fields_encC 0x3D 0 ra 0 off
  rw [decodeWord, opcode_encC]
  show keepIf _ _ = _
  rw [hrd, hra, hzero, hsel, hoff]
  rfl

theorem decodeWord_msg (rs : BitVec 5) {sel : BitVec 4} (h : sel.toNat < 3) :
    decodeWord c (encC 0x3E rs 0 sel 0) = some (.msg c rs sel) := by
  obtain ⟨hrs, hra, hzero, hsel, himm⟩ := fields_encC 0x3E rs 0 sel 0
  rw [decodeWord, opcode_encC]
  show keepIf _ _ = _
  rw [hrs, hra, hzero, hsel, himm]
  exact keepIf_true (decide_eq_true h) _

theorem decodeWord_sigchk (expect : BitVec 32) : decodeWord c (encC 0x3F 0 0 0 expect) = some (.sigchk c expect) := by
  obtain ⟨-, -, -, -, himm⟩ := fields_encC 0x3F 0 0 0 expect
  rw [decodeWord, opcode_encC]
  show keepIf _ _ = _
  rw [zero_encC_imm, himm]
  rfl

end

/-- Settles O5, instruction by instruction. -/
theorem decodeOfEncodeIsTheInstruction : Obligations.DecodeOfEncodeIsTheInstruction := by
  intro i w hwf hw c hc
  cases i with
  | add _ rd ra y | sub _ rd ra y | mul _ rd ra y | and _ rd ra y | or _ rd ra y | xor _ rd ra y | shl _ rd ra y | shr _ rd ra y
  | sra _ rd ra y | min _ rd ra y | max _ rd ra y | minu _ rd ra y | maxu _ rd ra y | slt _ rd ra y | sltu _ rd ra y =>
    cases hw; cases hc
    exact decodeWord_encA (fun w h => by rw [decodeWord, h]; rfl) rd ra y
  | aadd _ rd ra y => cases hw; cases hc; exact decodeWord_aadd c y hwf
  | mova _ rd ra => cases hw; cases hc; exact decodeWord_mova c ra hwf
  | movs _ rd ra => cases hw; cases hc; exact decodeWord_movs c rd hwf
  | lim _ rd rda imm => cases hw; cases hc; exact decodeWord_lim c imm hwf
  | lih _ rd rda imm => cases hw; cases hc; exact decodeWord_lih c imm hwf
  | br _ ra rb cond off => cases hw; cases hc; exact decodeWord_br c ra rb off (of_decide_eq_true hwf)
  | jal _ rd off => cases hw; cases hc; exact decodeWord_jal c rd off
  | jr _ ra => cases hw; cases hc; exact decodeWord_jr c ra
  | lds _ rd an imm | sts _ rd an imm | ldd _ rd an imm | std _ rd an imm =>
    cases hw; cases hc
    exact decodeWord_encM (fun w h => by rw [decodeWord, h]; rfl) rd an imm
  | mboxr _ rd | rdcyc _ rd => cases hw; cases hc; exact decodeWord_encC_rd c (fun w h => by rw [decodeWord, h]; rfl) rd
  | waitt _ tc y | sett _ tc y | addt _ tc y =>
    cases hw; cases hc
    exact decodeWord_encT (fun w h => by rw [decodeWord, h]; rfl) tc y
  | rdt _ rd tc => cases hw; cases hc; exact decodeWord_rdt c rd tc
  | fence _ mask => cases hw; cases hc; exact decodeWord_fence c mask
  | slotq _ rd ra => cases hw; cases hc; exact decodeWord_slotq c rd ra
  | stream _ rs rd ax ay az => cases hw; cases hc; exact decodeWord_stream c rs rd ax ay az
  | yield _ | nop _ | kend _ => cases hw; cases hc; rfl
  | raise _ code => cases hw; cases hc; exact decodeWord_raise c code
  | csrr _ rd off => cases hw; cases hc; exact decodeWord_csrr c rd off
  | csrw _ ra off => cases hw; cases hc; exact decodeWord_csrw c ra off
  | msg _ rs sel => cases hw; cases hc; exact decodeWord_msg c rs (of_decide_eq_true hwf)
  | sigchk _ expect => cases hw; cases hc; exact decodeWord_sigchk c expect
  | _ => cases hw

end Sys2Proof.Machine
end

section
/-! PROOF. O7: the fifteen scalar arithmetic instructions (R75, R81). -/

namespace Sys2Proof.Machine

open Sys2Proof

/-- An instruction that writes one s register with a value of its core and goes on. -/
theorem scalar_result {s : State} {c : CoreId} (h : s.Ready c) (rd : BitVec 5) (v : Core → Word) :
    SetsS s (s.scalar c rd v) c.val rd (v (s.core c.val).stepUsed) ∧ WroteS s (s.scalar c rd v) c.val := by
  rw [State.scalar, State.scalarOp_ready h]
  exact wroteS_setS s c.val rd v

/-- Each instruction of the table writes what the table says of s[RA] and op2. -/
theorem exec_alu : ∀ e ∈ aluTable, ∀ (c : CoreId) (rd ra : BitVec 5) (y : Op2) (s : State),
    exec (e.1 c rd ra y) s = .next (s.scalar c rd (fun k => e.2 (k.s ra.toNat) (k.op2 y))) := by
  have hslt : ∀ (x y a b : Word), (if x.slt y then a else b) = if x.toInt < y.toInt then a else b := fun x y a b => by
    simp only [BitVec.slt, decide_eq_true_eq]
  have hult : ∀ (x y a b : Word), (if x.ult y then a else b) = if x.toNat < y.toNat then a else b := fun x y a b => by
    simp only [BitVec.ult, decide_eq_true_eq]
  simp only [aluTable, List.forall_mem_cons, List.not_mem_nil, false_implies, implies_true, and_true, ← hslt, ← hult]
  and_intros <;> intros <;> rfl

/-- Settles O7: one table entry for each instruction. -/
theorem scalarArithmeticResult : Obligations.ScalarArithmeticResult := by
  intro e he s c rd ra y h
  refine ⟨_, exec_alu e he c rd ra y s, ?_⟩
  simpa only [Core.s_stepUsed, Core.op2_stepUsed] using scalar_result h rd (fun k => e.2 (k.s ra.toNat) (k.op2 y))

end Sys2Proof.Machine
end

section
/-! PROOF. O8: AADD, MOVA, MOVS, LIM and LIH (R75, R82). -/

namespace Sys2Proof.Machine

open Sys2Proof

theorem exec_aadd_eq (c : CoreId) (rd ra : BitVec 5) (y : Op2) (s : State) : exec (.aadd c rd ra y) s = execAadd c rd ra y s := rfl
theorem exec_mova_eq (c : CoreId) (rd ra : BitVec 5) (s : State) : exec (.mova c rd ra) s = execMova c rd ra s := rfl
theorem exec_movs_eq (c : CoreId) (rd ra : BitVec 5) (s : State) : exec (.movs c rd ra) s = execMovs c rd ra s := rfl
theorem exec_lim_eq (c : CoreId) (rd : BitVec 5) (rda : Bool) (imm : BitVec 48) (s : State) :
    exec (.lim c rd rda imm) s = execLim c rd rda imm s := rfl
theorem exec_lih_eq (c : CoreId) (rd : BitVec 5) (rda : Bool) (imm : BitVec 16) (s : State) :
    exec (.lih c rd rda imm) s = execLih c rd rda imm s := rfl

/-- An instruction whose a-register fields are in order runs (R82). -/
theorem State.aRegRun_ready {s : State} {c : CoreId} {ok : Bool} (h : s.Ready c) (hok : ok = true) (f : State → State) :
    s.aRegRun c ok f = f (s.stepDone c.val) := by
  rw [State.aRegRun, State.seqRun_ready h, if_pos hok]

/-- A write of an a register changes the a registers only. -/
theorem Core.setA_eq (k : Core) (r : Nat) (v : Word) : ∃ m, k.setA r v = { k with seq := { k.seq with a := m } } := by
  unfold Core.setA
  split
  · exact ⟨k.seq.a, rfl⟩
  · exact ⟨_, rfl⟩

/-- Writing one a register and going on changes nothing else. -/
theorem wroteA_setA (s : State) (c : Nat) (rd : BitVec 5) (v : Core → Word) :
    SetsA s ((s.stepDone c).modCore c (fun k => (k.setA rd.toNat (v k)).step8)) c rd (v (s.core c).stepUsed) ∧
    WroteA s ((s.stepDone c).modCore c (fun k => (k.setA rd.toNat (v k)).step8)) c := by
  obtain ⟨m, hm⟩ := Core.setA_eq (s.core c).stepUsed rd.toNat (v (s.core c).stepUsed)
  refine ⟨?_, ⟨onlyCore_modCore _ _ _, ?_⟩, ?_, ?_⟩
  · intro r
    rw [State.core_stepDone_modCore, Core.a_step8, Core.a_setA, Core.a_stepUsed]
    by_cases h : r = rd.toNat <;> simp [h]
  all_goals rw [State.core_stepDone_modCore, hm]; rfl

/-- Settles O8: each instruction writes one a register or one s register and goes on. -/
theorem addressRegisterAndImmediateResult : Obligations.AddressRegisterAndImmediateResult := by
  intro s c rd ra h
  have hlow : ∀ v : Word, v.setWidth 48 = v.extractLsb' 0 48 := fun v => BitVec.setWidth_eq_extractLsb' (by decide)
  refine ⟨fun y hd ha => ?_, fun hd => ?_, fun ha => ?_, fun imm => ?_, fun imm hd => ?_, fun imm => ?_, fun imm hd => ?_⟩
  · rw [exec_aadd_eq, execAadd, State.aRegRun_ready h (by rw [hd, ha]; rfl)]
    exact ⟨_, rfl, by simpa using wroteA_setA s c.val rd (fun k => k.a ra.toNat + k.op2 y)⟩
  · rw [exec_mova_eq, execMova, State.aRegRun_ready h hd]
    exact ⟨_, rfl, wroteA_setA s c.val rd (fun k => k.s ra.toNat)⟩
  · rw [exec_movs_eq, execMovs, State.aRegRun_ready h ha]
    exact ⟨_, rfl, wroteS_setS s c.val rd (fun k => k.a ra.toNat)⟩
  · rw [exec_lim_eq, execLim, State.aRegRun_ready (ok := !false || aRegOk rd) h rfl]
    exact ⟨_, rfl, wroteS_setS s c.val rd (fun _ => imm.signExtend 64)⟩
  · rw [exec_lim_eq, execLim, State.aRegRun_ready (ok := !true || aRegOk rd) h hd]
    exact ⟨_, rfl, wroteA_setA s c.val rd (fun _ => imm.signExtend 64)⟩
  · rw [exec_lih_eq, execLih, State.aRegRun_ready (ok := !false || aRegOk rd) h rfl, ← hlow]
    exact ⟨_, rfl, wroteS_setS s c.val rd (fun k => imm ++ (k.s rd.toNat).setWidth 48)⟩
  · rw [exec_lih_eq, execLih, State.aRegRun_ready (ok := !true || aRegOk rd) h hd, ← hlow]
    exact ⟨_, rfl, wroteA_setA s c.val rd (fun k => imm ++ (k.a rd.toNat).setWidth 48)⟩

end Sys2Proof.Machine
end

section
/-! PROOF. O9 and O10: BR, JAL and JR (R83, R84, R90). A BR is the jump to its target when its condition holds and the next word
otherwise; JAL and JR are jumps. -/

namespace Sys2Proof.Machine

open Sys2Proof

theorem exec_br_eq (c : CoreId) (ra rb : BitVec 5) (cond : BitVec 3) (off : BitVec 32) (s : State) :
    exec (.br c ra rb cond off) s = execBr c ra rb cond off s := rfl
theorem exec_jal_eq (c : CoreId) (rd : BitVec 5) (off : BitVec 32) (s : State) : exec (.jal c rd off) s = execJal c rd off s := rfl
theorem exec_jr_eq (c : CoreId) (ra : BitVec 5) (s : State) : exec (.jr c ra) s = execJr c ra s := rfl

/-- The condition that COND names, of s[RA] and s[RB] (R83). -/
def Taken (cond : BitVec 3) (x y : Word) : Prop :=
  match cond.toNat with
  | 0 => x = y
  | 1 => x ≠ y
  | 2 => x.toInt < y.toInt
  | 3 => y.toInt ≤ x.toInt
  | 4 => x.toNat < y.toNat
  | 5 => y.toNat ≤ x.toNat
  | _ => True

theorem condHolds_iff {cond : BitVec 3} {x y : Word} : condHolds cond x y = true ↔ Taken cond x y := by
  unfold condHolds Taken
  generalize cond.toNat = n
  rcases n with _ | _ | _ | _ | _ | _ | n <;> simp [BitVec.slt, BitVec.ult]

/-- The low 32 bits of a target, as four bytes. -/
theorem toNat_low (v : Word) : (v.setWidth 32).toNat = v.toNat % 2 ^ 32 := BitVec.toNat_setWidth 32 v

/-- Core `c` has gone to `v` and folded it into SIG (R90). -/
def Jumped (s t : State) (c : Nat) (v : Word) : Prop :=
  (t.core c).seq.pc = v ∧ (t.core c).seq.sig = crc32c (s.core c).seq.sig (natBytes 4 (v.toNat % 2 ^ 32))

/-- In core `c` and outside it, nothing but PC, SIG and the debug step differs. -/
def OnlyPcSig (s t : State) (c : Nat) : Prop :=
  OnlySeq s t c ∧
  { (t.core c).seq with pc := (s.core c).seq.pc, sig := (s.core c).seq.sig, stepOne := (s.core c).seq.stepOne } = (s.core c).seq

section
variable {s : State} {c : CoreId}

theorem exec_br_taken {cond : BitVec 3} {ra rb : BitVec 5} (h : s.Ready c) (off : BitVec 32) (hc : cond.toNat ≠ 7)
    (hp : condHolds cond ((s.core c.val).s ra.toNat) ((s.core c.val).s rb.toNat) = true) : exec (.br c ra rb cond off) s =
      .next ((s.stepDone c.val).modCore c.val (·.jumpTo ((s.core c.val).seq.pc + 8 * off.signExtend 64))) := by
  have hp' : condHolds cond ((s.core c.val).stepUsed.s ra.toNat) ((s.core c.val).stepUsed.s rb.toNat) = true := hp
  rw [exec_br_eq, execBr, State.aRegRun_ready h (decide_eq_true hc), State.modCore, State.modCore, State.core_stepDone, if_pos hp']
  rfl

theorem exec_br_not_taken {cond : BitVec 3} {ra rb : BitVec 5} (h : s.Ready c) (off : BitVec 32) (hc : cond.toNat ≠ 7)
    (hp : ¬ condHolds cond ((s.core c.val).s ra.toNat) ((s.core c.val).s rb.toNat) = true) : exec (.br c ra rb cond off) s =
      .next ((s.stepDone c.val).modCore c.val (·.step8)) := by
  have hp' : ¬ condHolds cond ((s.core c.val).stepUsed.s ra.toNat) ((s.core c.val).stepUsed.s rb.toNat) = true := hp
  rw [exec_br_eq, execBr, State.aRegRun_ready h (decide_eq_true hc), State.modCore, State.modCore, State.core_stepDone, if_neg hp']

/-- A jump of core `c` to a target, or the next word. -/
theorem jumped_jumpTo (s : State) (c : Nat) (v : Word) :
    OnlyPcSig s ((s.stepDone c).modCore c (·.jumpTo v)) c ∧ Jumped s ((s.stepDone c).modCore c (·.jumpTo v)) c v := by
  refine ⟨⟨⟨onlyCore_modCore _ _ _, ?_⟩, ?_⟩, ?_, ?_⟩ <;> rw [State.core_stepDone_modCore]
  · rfl
  · rfl
  · rfl
  · rw [← toNat_low]; rfl

theorem onlyPcSig_step8 (s : State) (c : Nat) : OnlyPcSig s ((s.stepDone c).modCore c (·.step8)) c := by
  refine ⟨⟨onlyCore_modCore _ _ _, ?_⟩, ?_⟩ <;> rw [State.core_stepDone_modCore] <;> rfl

/-- What a BR does: the jump when its condition holds, else the next word. -/
theorem exec_br_goes {cond : BitVec 3} (h : s.Ready c) (ra rb : BitVec 5) (off : BitVec 32) (hc : cond.toNat ≠ 7) :
    ∃ t, exec (.br c ra rb cond off) s = .next t ∧ OnlyPcSig s t c.val ∧
      (Taken cond ((s.core c.val).s ra.toNat) ((s.core c.val).s rb.toNat) →
        Jumped s t c.val ((s.core c.val).seq.pc + 8 * off.signExtend 64)) ∧
      (¬ Taken cond ((s.core c.val).s ra.toNat) ((s.core c.val).s rb.toNat) →
        (t.core c.val).seq.pc = (s.core c.val).seq.pc + 8 ∧ (t.core c.val).seq.sig = (s.core c.val).seq.sig) := by
  rw [← condHolds_iff]
  by_cases hp : condHolds cond ((s.core c.val).s ra.toNat) ((s.core c.val).s rb.toNat) = true
  · obtain ⟨hkeeps, hgoes⟩ := jumped_jumpTo s c.val ((s.core c.val).seq.pc + 8 * off.signExtend 64)
    exact ⟨_, exec_br_taken h off hc hp, hkeeps, fun _ => hgoes, fun hn => absurd hp hn⟩
  · refine ⟨_, exec_br_not_taken h off hc hp, onlyPcSig_step8 s c.val, fun hy => absurd hy hp, fun _ => ?_⟩
    rw [State.core_stepDone_modCore]
    exact ⟨rfl, rfl⟩

theorem exec_br_reserved {cond : BitVec 3} (h : s.Ready c) (ra rb : BitVec 5) (off : BitVec 32) (hc : cond.toNat = 7) :
    ∃ t, exec (.br c ra rb cond off) s = .next t ∧ SeqFaulted s t c.val codeIllegalOp := by
  refine ⟨_, ?_, seqFaulted_seqFault s c.val codeIllegalOp 0⟩
  rw [exec_br_eq, execBr, State.aRegRun, State.seqRun_ready h, if_neg (by simp [hc])]

theorem exec_jr_goes (h : s.Ready c) (ra : BitVec 5) : ∃ t, exec (.jr c ra) s = .next t ∧ OnlyPcSig s t c.val ∧
    Jumped s t c.val ((s.core c.val).s ra.toNat) := by
  have hexec : exec (.jr c ra) s = .next ((s.stepDone c.val).modCore c.val (·.jumpTo ((s.core c.val).s ra.toNat))) := by
    rw [exec_jr_eq, execJr, State.seqRun_ready h, State.modCore, State.modCore, State.core_stepDone, Core.s_stepUsed]
  exact ⟨_, hexec, jumped_jumpTo s c.val _⟩

/-- A JAL writes the next word's address to s[RD] and jumps. -/
theorem exec_jal_goes (h : s.Ready c) (rd : BitVec 5) (off : BitVec 32) : ∃ t, exec (.jal c rd off) s = .next t ∧
    Jumped s t c.val ((s.core c.val).seq.pc + 8 * off.signExtend 64) ∧ SetsS s t c.val rd ((s.core c.val).seq.pc + 8) ∧
    OnlySeq s t c.val ∧ { (t.core c.val).seq with
      s := (s.core c.val).seq.s
      pc := (s.core c.val).seq.pc
      sig := (s.core c.val).seq.sig
      stepOne := (s.core c.val).seq.stepOne } = (s.core c.val).seq := by
  have hexec : exec (.jal c rd off) s = .next ((s.stepDone c.val).modCore c.val (fun k =>
      (k.setS rd.toNat (k.seq.pc + 8)).jumpTo (branchTarget k.seq.pc off))) := by
    rw [exec_jal_eq, execJal, State.seqRun_ready h]
  obtain ⟨m, hm⟩ := Core.setS_eq (s.core c.val).stepUsed rd.toNat ((s.core c.val).stepUsed.seq.pc + 8)
  refine ⟨_, hexec, ⟨?_, ?_⟩, fun r => ?_, ⟨onlyCore_modCore _ _ _, ?_⟩, ?_⟩ <;> rw [State.core_stepDone_modCore]
  · rfl
  · rw [hm, ← toNat_low]; rfl
  · show ((s.core c.val).stepUsed.setS rd.toNat ((s.core c.val).seq.pc + 8)).s r = _
    rw [Core.s_setS, Core.s_stepUsed]
    by_cases hr : r = rd.toNat <;> simp [hr]
  all_goals rw [hm]; rfl

end

/-- Settles O10. -/
theorem takenBranchesFoldTheirTargetIntoSig : Obligations.TakenBranchesFoldTheirTargetIntoSig := by
  intro s c ra rb cond off h
  exact ⟨fun hc => exec_br_goes h ra rb off hc, exec_jr_goes h ra, exec_jal_goes h ra off⟩

/-- Settles O9, from what a BR does in general: each of the seven conditions is `Taken` of its code. -/
theorem branchTargetAndConditions : Obligations.BranchTargetAndConditions := by
  intro s c ra rb off h k x y goes
  have hgoes : ∀ cond : BitVec 3, cond.toNat ≠ 7 → goes cond (Taken cond x y) := fun cond hc => by
    obtain ⟨t, hexec, -, hjump, hnext⟩ := exec_br_goes h ra rb off hc
    exact ⟨t, hexec, fun hp => (hjump hp).1, fun hp => (hnext hp).1⟩
  obtain ⟨t, hexec, ⟨hpc, -⟩, hs, -⟩ := exec_jal_goes h ra off
  exact ⟨hgoes 0 (by decide), hgoes 1 (by decide), hgoes 2 (by decide), hgoes 3 (by decide), hgoes 4 (by decide), hgoes 5 (by decide),
    hgoes 6 (by decide), exec_br_reserved h ra rb off rfl, t, hexec, hpc, hs⟩

end Sys2Proof.Machine
end

section
/-! PROOF. Little-endian numbers and register groups: parts of a run of bytes, and the four registers that a group of 256 bits fills. -/

namespace Sys2Proof.Machine

open Sys2Proof

/-! ## Numbers from bytes -/

theorem bytesNat_append (l m : List Byte) : bytesNat (l ++ m) = bytesNat l + 256 ^ l.length * bytesNat m := by
  induction l with
  | nil => simp [bytesNat]
  | cons b l ih => rw [List.cons_append, bytesNat, bytesNat, ih, List.length_cons, Nat.pow_succ]; ring

theorem bytesNat_lt (l : List Byte) : bytesNat l < 256 ^ l.length := by
  induction l with
  | nil => exact Nat.one_pos
  | cons b l ih =>
    rw [bytesNat, List.length_cons, Nat.pow_succ]
    have := b.isLt
    omega

/-- The part of a number that a run of its bytes gives. -/
theorem bytesNat_part (l m r : List Byte) : bytesNat (l ++ m ++ r) / 256 ^ l.length % 256 ^ m.length = bytesNat m := by
  rw [List.append_assoc, bytesNat_append, Nat.add_mul_div_left _ _ (Nat.pow_pos (by decide)), Nat.div_eq_of_lt (bytesNat_lt l),
    Nat.zero_add, bytesNat_append, Nat.add_mul_mod_self_left, Nat.mod_eq_of_lt (bytesNat_lt m)]

theorem memRead_length (m : Memory) (a n : Nat) : (memRead m a n).length = n := by simp [memRead]

theorem memRead_add (m : Memory) (a n j : Nat) : memRead m a (n + j) = memRead m a n ++ memRead m (a + n) j := by
  simp [memRead, List.range_add, Function.comp_def, Nat.add_assoc]

/-- A word is eight bytes. -/
theorem pow_words (i : Nat) : 256 ^ (8 * i) = 2 ^ (64 * i) := by
  rw [Nat.pow_mul, Nat.pow_mul]

/-- The `i`-th word of a run of bytes read as one number of `w` bits. -/
theorem leWord_word (m : Memory) (a w : Nat) {i n : Nat} (hi : 8 * i + 8 ≤ n) (hw : 8 * n ≤ w) :
    (leWord w (memRead m a n)).extractLsb' (64 * i) 64 = BitVec.ofNat 64 (bytesNat (memRead m (a + 8 * i) 8)) := by
  obtain ⟨j, rfl⟩ := Nat.exists_eq_add_of_le hi
  have hlt : bytesNat (memRead m a (8 * i + 8 + j)) < 2 ^ w := by
    have hlt := bytesNat_lt (memRead m a (8 * i + 8 + j))
    rw [memRead_length, show 256 = 2 ^ 8 from rfl, ← Nat.pow_mul] at hlt
    exact Nat.lt_of_lt_of_le hlt (Nat.pow_le_pow_right (by decide) hw)
  have hpart := bytesNat_part (memRead m a (8 * i)) (memRead m (a + 8 * i) 8) (memRead m (a + (8 * i + 8)) j)
  rw [← memRead_add, ← memRead_add, memRead_length, memRead_length] at hpart
  apply BitVec.eq_of_toNat_eq
  rw [BitVec.extractLsb'_toNat, leWord, BitVec.toNat_ofNat, BitVec.toNat_ofNat, Nat.mod_eq_of_lt hlt, Nat.shiftRight_eq_div_pow, ← hpart, pow_words]
  exact (Nat.mod_mod _ _).symm

/-! ## Bytes of numbers -/

theorem natBytes_mod (n v : Nat) : natBytes n (v % 256 ^ n) = natBytes n v := by
  induction n generalizing v with
  | zero => rfl
  | succ n ih =>
    have hlow : BitVec.ofNat 8 (v % 256 ^ (n + 1)) = BitVec.ofNat 8 v :=
      BitVec.eq_of_toNat_eq (Nat.mod_mod_of_dvd v (Dvd.intro_left (256 ^ n) rfl))
    have hhigh : v % 256 ^ (n + 1) / 256 = v / 256 % 256 ^ n := by
      rw [Nat.pow_succ, Nat.mul_comm, Nat.mod_mul_right_div_self]
    rw [natBytes, natBytes, hlow, hhigh, ih]

theorem natBytes_add (n j v : Nat) : natBytes (n + j) v = natBytes n v ++ natBytes j (v / 256 ^ n) := by
  induction n generalizing v with
  | zero => simp [natBytes]
  | succ n ih =>
    rw [Nat.succ_add, natBytes, natBytes, ih, List.cons_append, Nat.div_div_eq_div_mul, Nat.pow_succ, Nat.mul_comm 256]

/-- A number of `n` words as bytes: those of its words in turn. -/
theorem natBytes_words (n v : Nat) : natBytes (8 * n) v = (List.range n).flatMap (fun i => natBytes 8 (v / 256 ^ (8 * i))) := by
  induction n with
  | zero => rfl
  | succ n ih => rw [Nat.mul_succ, natBytes_add, ih, List.range_succ, List.flatMap_append, List.flatMap_singleton]

/-! ## Register groups -/

/-- A group of four registers is one of s4, s8, … s28 (R85). -/
theorem groupOk_iff {r : BitVec 5} : groupOk r = true ↔ r.toNat = 4 ∨ r.toNat = 8 ∨ r.toNat = 12 ∨ r.toNat = 16 ∨ r.toNat = 20 ∨
    r.toNat = 24 ∨ r.toNat = 28 := by
  have := r.isLt
  simp only [groupOk, Bool.and_eq_true, decide_eq_true_eq]
  omega

/-- The registers of a group, lowest first. -/
theorem Core.quad_word (k : Core) (r : Nat) {i : Nat} (hi : i < 4) : (k.quad r).extractLsb' (64 * i) 64 = k.s (r + i) := by
  rcases (by omega : i = 0 ∨ i = 1 ∨ i = 2 ∨ i = 3) with rfl | rfl | rfl | rfl <;>
    simp (disch := omega) only [Core.quad, BitVec.extractLsb'_append_eq_of_le, BitVec.extractLsb'_append_eq_of_add_le,
      Nat.reduceMul, Nat.reduceSub, BitVec.extractLsb'_eq_self, Nat.add_zero]

/-- A group as bytes: those of its registers in turn. -/
theorem Core.natBytes_quad (k : Core) (r : Nat) :
    natBytes 32 (k.quad r).toNat = (List.range 4).flatMap (fun i => natBytes 8 (k.s (r + i)).toNat) := by
  rw [natBytes_words 4]
  refine List.flatMap_congr fun i hi => ?_
  rw [← Core.quad_word k r (List.mem_range.1 hi), BitVec.extractLsb'_toNat, Nat.shiftRight_eq_div_pow, ← pow_words, ← natBytes_mod]
  rfl

/-- Writing a group changes the s registers only. -/
theorem Core.setQuad_eq (k : Core) (r : Nat) (v : BitVec 256) : ∃ m, k.setQuad r v = { k with seq := { k.seq with s := m } } := by
  unfold Core.setQuad
  obtain ⟨m0, h0⟩ := k.setS_eq r (v.setWidth 64)
  rw [h0]
  obtain ⟨m1, h1⟩ := Core.setS_eq { k with seq := { k.seq with s := m0 } } (r + 1) ((v >>> 64).setWidth 64)
  rw [h1]
  obtain ⟨m2, h2⟩ := Core.setS_eq { k with seq := { k.seq with s := m1 } } (r + 2) ((v >>> 128).setWidth 64)
  rw [h2]
  exact Core.setS_eq _ _ _

/-- An s register after a group has been written: its word of the group, lowest first, or what it held. -/
theorem Core.s_setQuad (k : Core) {r : Nat} (hr : r ≠ 0) (v : BitVec 256) (j : Nat) : (k.setQuad r v).s j =
    if r ≤ j ∧ j < r + 4 then v.extractLsb' (64 * (j - r)) 64 else k.s j := by
  have hword : ∀ n, (v >>> n).setWidth 64 = v.extractLsb' n 64 := fun n => by
    apply BitVec.eq_of_toNat_eq
    rw [BitVec.toNat_setWidth, BitVec.toNat_ushiftRight, BitVec.extractLsb'_toNat]
  have h0 := hword 0
  rw [BitVec.ushiftRight_zero] at h0
  rw [Core.setQuad, hword, hword, hword, h0, Core.s_setS, Core.s_setS, Core.s_setS, Core.s_setS]
  by_cases hj : r ≤ j ∧ j < r + 4
  · rcases (by omega : j = r ∨ j = r + 1 ∨ j = r + 2 ∨ j = r + 3) with rfl | rfl | rfl | rfl <;> simp [hr]
  · rw [if_neg (by omega), if_neg (by omega), if_neg (by omega), if_neg (by omega), if_neg hj]

end Sys2Proof.Machine
end

section
/-! PROOF. O11 to O13: the scratchpad accesses of a sequencer (R84, R86, R95, R201, R368). -/

namespace Sys2Proof.Machine

open Sys2Proof

theorem exec_lds_eq (c : CoreId) (rd : BitVec 5) (an : BitVec 4) (imm : BitVec 32) (s : State) :
    exec (.lds c rd an imm) s = execLds c rd an imm s := rfl
theorem exec_sts_eq (c : CoreId) (rd : BitVec 5) (an : BitVec 4) (imm : BitVec 32) (s : State) :
    exec (.sts c rd an imm) s = execSts c rd an imm s := rfl
theorem exec_ldd_eq (c : CoreId) (rd : BitVec 5) (an : BitVec 4) (imm : BitVec 32) (s : State) :
    exec (.ldd c rd an imm) s = execLdd c rd an imm s := rfl
theorem exec_std_eq (c : CoreId) (rd : BitVec 5) (an : BitVec 4) (imm : BitVec 32) (s : State) :
    exec (.std c rd an imm) s = execStd c rd an imm s := rfl

/-- An instruction with a group that is in order runs (R85). -/
theorem State.groupRun_ready {s : State} {c : CoreId} {r : BitVec 5} (h : s.Ready c) (hg : groupOk r = true) (f : State → State) :
    s.groupRun c r f = f (s.stepDone c.val) := by
  rw [State.groupRun, State.seqRun_ready h, if_pos hg]

theorem Core.s_congr {k j : Core} (h : j.seq = k.seq) (r : Nat) : j.s r = k.s r := by rw [Core.s, Core.s, h]

/-! ## The address -/

@[simp] theorem Core.spAddr_stepUsed (k : Core) (an : BitVec 4) (imm : BitVec 32) : k.stepUsed.spAddr an imm = k.spAddr an imm := rfl

/-- Whether an address is refused does not depend on the debug step. -/
theorem State.spRefused_stepDone (s : State) (c size a : Nat) : (s.stepDone c).spRefused c size a = s.spRefused c size a := by
  rw [State.spRefused, State.hotLine, State.core_stepDone]
  rfl

/-- An address that a sequencer access of `size` bytes takes (R86, R368). -/
theorem State.spRefused_eq_false {s : State} {c size a : Nat} (hal : a % size = 0) (hlt : a < 33554432)
    (hhot : s.hotLine c (a / 256) = false) : s.spRefused c size a = false := by
  simp [State.spRefused, spBytes, hal, hhot, Nat.not_le.2 hlt]

theorem State.spRefused_eq_true {s : State} {c size a : Nat} (h : 33554432 ≤ a ∨ a % size ≠ 0) : s.spRefused c size a = true := by
  rcases h with h | h <;> simp [State.spRefused, spBytes, h]

/-! ## Loads and stores after the debug step -/

section
variable {s : State} {c size a : Nat}

theorem State.spLoad_refused (put : Core → List Byte → Core) (h : s.spRefused c size a = true) :
    (s.stepDone c).spLoad c size a put = (s.stepDone c).seqFault c codeSpRange 0 := by
  rw [State.spLoad, State.spRefused_stepDone, if_pos h]

theorem State.spStore_refused (bs : Core → List Byte) (h : s.spRefused c size a = true) :
    (s.stepDone c).spStore c size a bs = (s.stepDone c).seqFault c codeSpRange 0 := by
  rw [State.spStore, State.spRefused_stepDone, if_pos h]

/-- A load from a sound, unguarded place reads the bytes there. -/
theorem State.spLoad_clean (put : Core → List Byte → Core) (h : s.spRefused c size a = false)
    (hg : (s.core c).guarded [] (a / 256) = false) (hb : (s.core c).spBad a size = false) : (s.stepDone c).spLoad c size a put =
      (s.stepDone c).modCore c (fun k => (put (k.spFix a size) (k.spRead a size)).step8) := by
  have hg' : (s.core c).stepUsed.guarded [] (a / 256) = false := hg
  have hb' : (s.core c).stepUsed.spBad a size = false := hb
  rw [State.spLoad, State.spRefused_stepDone, h, State.core_stepDone, hg', hb']
  rfl

/-- A store to an unguarded place writes its bytes. -/
theorem State.spStore_clean (bs : Core → List Byte) (h : s.spRefused c size a = false)
    (hg : (s.core c).guarded [] (a / 256) = false) : (s.stepDone c).spStore c size a bs =
      (s.stepDone c).modCore c (fun k => (k.spWrite a (bs k)).step8) := by
  have hg' : (s.core c).stepUsed.guarded [] (a / 256) = false := hg
  rw [State.spStore, State.spRefused_stepDone, h, State.core_stepDone, hg']
  rfl

/-- A load that writes s registers with what it read changes no byte of memory and goes to the next word. -/
theorem spLoad_keeps {put : Core → List Byte → Core} (s : State) (c size a : Nat)
    (hput : ∀ k bs, ∃ m, put k bs = { k with seq := { k.seq with s := m } }) :
    let t := (s.stepDone c).modCore c (fun k => (put (k.spFix a size) (k.spRead a size)).step8)
    OnlyCore s t c ∧ t.hbm = s.hbm ∧ (t.core c).seq.pc = (s.core c).seq.pc + 8 ∧
      ∀ x, memByte (t.core c).sp.mem x = memByte (s.core c).sp.mem x := by
  obtain ⟨hfix, -, -, hmem, -⟩ := spFix_frame (s.core c).stepUsed a size
  obtain ⟨m, hm⟩ := hput ((s.core c).stepUsed.spFix a size) ((s.core c).stepUsed.spRead a size)
  refine ⟨onlyCore_modCore _ _ _, rfl, ?_, fun x => ?_⟩ <;> rw [State.core_stepDone_modCore, hm]
  · show ((s.core c).stepUsed.spFix a size).seq.pc + 8 = _
    rw [hfix.seq]
    rfl
  · show memByte ((s.core c).stepUsed.spFix a size).sp.mem x = _
    rw [hmem]
    rfl

/-- The s registers as a load begins to write them. -/
theorem Core.s_spFix (k : Core) (a n r : Nat) : (k.spFix a n).s r = k.s r := Core.s_congr (spFix_frame k a n).1.seq r

end

section
variable {s : State} {c : CoreId} {rd : BitVec 5}

theorem exec_lds_ready (h : s.Ready c) (an : BitVec 4) (imm : BitVec 32) : exec (.lds c rd an imm) s =
    .next ((s.stepDone c.val).spLoad c.val 8 ((s.core c.val).spAddr an imm) (fun k bs => k.setS rd.toNat (leWord 64 bs))) := by
  rw [exec_lds_eq, execLds, State.seqRun_ready h, State.core_stepDone, Core.spAddr_stepUsed]

theorem exec_sts_ready (h : s.Ready c) (an : BitVec 4) (imm : BitVec 32) : exec (.sts c rd an imm) s =
    .next ((s.stepDone c.val).spStore c.val 8 ((s.core c.val).spAddr an imm) (fun k => natBytes 8 (k.s rd.toNat).toNat)) := by
  rw [exec_sts_eq, execSts, State.seqRun_ready h, State.core_stepDone, Core.spAddr_stepUsed]

theorem exec_ldd_ready (h : s.Ready c) (hg : groupOk rd = true) (an : BitVec 4) (imm : BitVec 32) : exec (.ldd c rd an imm) s =
    .next ((s.stepDone c.val).spLoad c.val 32 ((s.core c.val).spAddr an imm) (fun k bs => k.setQuad rd.toNat (leWord 256 bs))) := by
  rw [exec_ldd_eq, execLdd, State.groupRun_ready h hg, State.core_stepDone, Core.spAddr_stepUsed]

theorem exec_std_ready (h : s.Ready c) (hg : groupOk rd = true) (an : BitVec 4) (imm : BitVec 32) : exec (.std c rd an imm) s =
    .next ((s.stepDone c.val).spStore c.val 32 ((s.core c.val).spAddr an imm) (fun k => natBytes 32 (k.quad rd.toNat).toNat)) := by
  rw [exec_std_eq, execStd, State.groupRun_ready h hg, State.core_stepDone, Core.spAddr_stepUsed]

end

/-- Settles O11: LDS and LDD from a place that no check refuses. -/
theorem scratchpadLoadsReadTheirBytes : Obligations.ScratchpadLoadsReadTheirBytes := by
  intro s c rd an imm h k a clean keeps word
  refine ⟨fun ⟨hal, hlt, hhot, hg, hb⟩ => ?_, fun ⟨hal, hlt, hhot, hg, hb⟩ hgroup => ?_⟩
  · have hexec : exec (.lds c rd an imm) s = .next ((s.stepDone c.val).modCore c.val (fun k =>
        ((k.spFix a 8).setS rd.toNat (leWord 64 (k.spRead a 8))).step8)) := by
      rw [exec_lds_ready h]
      exact congrArg _ (State.spLoad_clean _ (State.spRefused_eq_false hal hlt hhot) hg hb)
    refine ⟨_, hexec, spLoad_keeps s c.val 8 a (fun k bs => k.setS_eq rd.toNat (leWord 64 bs)), fun r => ?_⟩
    rw [State.core_stepDone_modCore, Core.s_step8, Core.s_setS, Core.s_spFix, Core.s_stepUsed]
    by_cases hr : r = rd.toNat
    · simp only [hr]; rfl
    · simp [hr]
  · have hexec : exec (.ldd c rd an imm) s = .next ((s.stepDone c.val).modCore c.val (fun k =>
        ((k.spFix a 32).setQuad rd.toNat (leWord 256 (k.spRead a 32))).step8)) := by
      rw [exec_ldd_ready h hgroup]
      exact congrArg _ (State.spLoad_clean _ (State.spRefused_eq_false hal hlt hhot) hg hb)
    refine ⟨_, hexec, spLoad_keeps s c.val 32 a (fun k bs => k.setQuad_eq rd.toNat (leWord 256 bs)), fun r => ?_⟩
    have hne : rd.toNat ≠ 0 := by have := groupOk_iff.1 hgroup; omega
    rw [State.core_stepDone_modCore, Core.s_step8, Core.s_setQuad _ hne, Core.s_spFix, Core.s_stepUsed]
    by_cases hr : rd.toNat ≤ r ∧ r < rd.toNat + 4
    · rw [if_pos hr, if_pos hr]
      exact leWord_word k.sp.mem a 256 (by omega) (by decide)
    · rw [if_neg hr, if_neg hr]

/-- Settles O12: STS and STD to a place that no check refuses. -/
theorem scratchpadStoresWriteOnlyTheirBytes : Obligations.ScratchpadStoresWriteOnlyTheirBytes := by
  intro s c rd an imm h k a clean stores
  have hstores : ∀ (bs : Core → List Byte) (l : List Byte), bs k.stepUsed = l →
      stores ((s.stepDone c.val).modCore c.val (fun k => (k.spWrite a (bs k)).step8)) l := fun bs l hbs => by
    refine ⟨onlyCore_modCore _ _ _, ?_, ?_, fun x => ?_⟩ <;> rw [State.core_stepDone_modCore]
    · rfl
    · rfl
    · exact (Core.spWrite_byte _ a x _).trans (by rw [hbs]; rfl)
  refine ⟨fun ⟨hal, hlt, hhot, hg⟩ => ?_, fun ⟨hal, hlt, hhot, hg⟩ hgroup => ?_⟩
  · refine ⟨_, ?_, hstores (fun k => natBytes 8 (k.s rd.toNat).toNat) _ rfl⟩
    rw [exec_sts_ready h]
    exact congrArg _ (State.spStore_clean _ (State.spRefused_eq_false hal hlt hhot) hg)
  · refine ⟨_, ?_, hstores (fun k => natBytes 32 (k.quad rd.toNat).toNat) _ (Core.natBytes_quad k rd.toNat)⟩
    rw [exec_std_ready h hgroup]
    exact congrArg _ (State.spStore_clean _ (State.spRefused_eq_false hal hlt hhot) hg)

/-- A fault of a sequencer leaves memory and registers as they were (R95). -/
theorem SeqFaulted.keeps {s t : State} {c code : Nat} (h : SeqFaulted s t c code) :
    t.hbm = s.hbm ∧ (t.core c).sp = (s.core c).sp ∧ ∀ r, (t.core c).s r = (s.core c).s r := by
  obtain ⟨-, -, hseq, ⟨⟨hrest, -⟩, hcore⟩, -⟩ := h
  refine ⟨(congrArg State.hbm hrest :), (congrArg Core.sp hcore :), fun r => ?_⟩
  have hs : (t.core c).seq.s = (s.core c).seq.s := (congrArg Sequencer.s hseq :)
  rw [Core.s, Core.s, hs]

/-- Settles O13: each of the four faults where its address is refused. -/
theorem refusedScratchpadAddressFaults : Obligations.RefusedScratchpadAddressFaults := by
  intro s c rd an imm h a faults
  have hfaults : ∀ i, exec i s = .next ((s.stepDone c.val).seqFault c.val codeSpRange 0) → faults i := fun i hi =>
    have hfault := seqFaulted_seqFault s c.val codeSpRange 0
    ⟨_, hi, hfault, hfault.keeps⟩
  refine ⟨fun hbad => ⟨hfaults _ ?_, hfaults _ ?_⟩, fun hbad hgroup => ⟨hfaults _ ?_, hfaults _ ?_⟩⟩
  · rw [exec_lds_ready h]
    exact congrArg _ (State.spLoad_refused _ (State.spRefused_eq_true hbad))
  · rw [exec_sts_ready h]
    exact congrArg _ (State.spStore_refused _ (State.spRefused_eq_true hbad))
  · rw [exec_ldd_ready h hgroup]
    exact congrArg _ (State.spLoad_refused _ (State.spRefused_eq_true hbad))
  · rw [exec_std_ready h hgroup]
    exact congrArg _ (State.spStore_refused _ (State.spRefused_eq_true hbad))

end Sys2Proof.Machine
end

section
/-! PROOF. O16: MBOXR (R85, R93). -/

namespace Sys2Proof.Machine

open Sys2Proof

theorem exec_mboxr_eq (c : CoreId) (rd : BitVec 5) (s : State) : exec (.mboxr c rd) s = execMboxr c rd s := rfl

section
variable {s : State} {c : CoreId} {rd : BitVec 5}

theorem exec_mboxr_takes {m : BitVec 256} {ms : List (BitVec 256)} (h : s.Ready c) (hg : groupOk rd = true)
    (hm : (s.core c.val).seq.mbox = m :: ms) : exec (.mboxr c rd) s = .next ((s.stepDone c.val).modCore c.val (fun k =>
      ({ k with seq := { k.seq with mbox := ms } }.setQuad rd.toNat m).step8)) := by
  have hm' : (s.core c.val).stepUsed.seq.mbox = m :: ms := hm
  rw [exec_mboxr_eq, execMboxr, State.groupRun_ready h hg, State.core_stepDone, hm']

theorem exec_mboxr_empty (h : s.Ready c) (hg : groupOk rd = true) (hm : (s.core c.val).seq.mbox = []) :
    exec (.mboxr c rd) s = .next ((s.stepDone c.val).seqFault c.val codeMboxEmpty 0) := by
  have hm' : (s.core c.val).stepUsed.seq.mbox = [] := hm
  rw [exec_mboxr_eq, execMboxr, State.groupRun_ready h hg, State.core_stepDone, hm']

end

/-- Settles O16: a message waiting, and none. -/
theorem mailboxReadTakesTheHead : Obligations.MailboxReadTakesTheHead := by
  intro s c rd h hg k
  refine ⟨fun m ms hm => ⟨_, exec_mboxr_takes h hg hm, ?_⟩,
    fun hm => ⟨_, exec_mboxr_empty h hg hm, seqFaulted_seqFault s c.val codeMboxEmpty 0⟩⟩
  have hne : rd.toNat ≠ 0 := by have := groupOk_iff.1 hg; omega
  obtain ⟨q, hq⟩ := Core.setQuad_eq { k.stepUsed with seq := { k.stepUsed.seq with mbox := ms } } rd.toNat m
  refine ⟨⟨onlyCore_modCore _ _ _, ?_⟩, ?_, ?_, ?_, fun r => ?_⟩ <;> rw [State.core_stepDone_modCore]
  · rw [hq]; rfl
  · rw [hq]; rfl
  · rw [hq]; rfl
  · rw [hq]; rfl
  · rw [Core.s_step8, Core.s_setQuad _ hne]
    rfl

end Sys2Proof.Machine
end

section
/-! PROOF. O18: RAISE, SIGCHK, MSG and a word that no format defines (R82, R87, R92, R95). -/

namespace Sys2Proof.Machine

open Sys2Proof

theorem exec_raise_eq (c : CoreId) (code : BitVec 16) (s : State) : exec (.raise c code) s = execRaise c code s := rfl
theorem exec_sigchk_eq (c : CoreId) (expect : BitVec 32) (s : State) : exec (.sigchk c expect) s = execSigchk c expect s := rfl
theorem exec_msg_eq (c : CoreId) (rs : BitVec 5) (dest : BitVec 4) (s : State) : exec (.msg c rs dest) s = execMsg c rs dest s := rfl
theorem exec_illegalOp_eq (c : CoreId) (w : Word) (s : State) : exec (.illegalOp c w) s = execIllegalOp c w s := rfl

/-- A core that can issue has no fault. -/
theorem Core.faulted_of_canIssue {k : Core} (h : k.canIssue = true) : k.seq.faulted = none := by
  simp only [Core.canIssue, Bool.and_eq_true, Option.isNone_iff_eq_none] at h
  obtain ⟨⟨⟨⟨⟨-, hfaulted⟩, -⟩, -⟩, -⟩, -⟩ := h
  exact hfaulted

/-- The report of a sequencer fault after the debug step, with no function being re-initialised. -/
theorem reports_seqFault {s : State} (hcalm : s.rst.running = []) (c code detail : Nat) :
    ∃ r : Report, ((s.stepDone c).seqFault c code detail).reports = s.reports ++ [r] ∧ r.code = code ∧ r.core = c ∧
      r.pc = (s.core c).seq.pc.toNat ∧ r.detail = detail := by
  refine ⟨{ (s.stepDone c).coreReport c code with pc := ((s.stepDone c).core c).seq.pc.toNat, detail := detail }, ?_, rfl, rfl, ?_, rfl⟩
  · exact State.reports_of_calm (s := (s.stepDone c).setCore c _) hcalm _
  · rw [State.core_stepDone]
    rfl

section
variable {s : State} {c : CoreId} {rs : BitVec 5} {sel : BitVec 4}

theorem exec_raise_ready (h : s.Ready c) (code : BitVec 16) :
    exec (.raise c code) s = .next ((s.stepDone c.val).seqFault c.val codeSwRaise code.toNat) := by
  rw [exec_raise_eq, execRaise, State.seqRun_ready h]

theorem exec_sigchk_equal (h : s.Ready c) {expect : BitVec 32} (he : (s.core c.val).seq.sig = expect) : exec (.sigchk c expect) s =
    .next ((s.stepDone c.val).modCore c.val (fun k => { k with seq := { k.seq with sig := 0, sigMark := s.mashOf c.val } }.step8)) := by
  have he' : (s.core c.val).stepUsed.seq.sig = expect := he
  rw [exec_sigchk_eq, execSigchk, State.seqRun_ready h, State.core_stepDone, if_pos he']
  rfl

theorem exec_sigchk_differs (h : s.Ready c) {expect : BitVec 32} (he : (s.core c.val).seq.sig ≠ expect) :
    exec (.sigchk c expect) s = .next ((s.stepDone c.val).seqFault c.val codeCfsig 0) := by
  have he' : (s.core c.val).stepUsed.seq.sig ≠ expect := he
  rw [exec_sigchk_eq, execSigchk, State.seqRun_ready h, State.core_stepDone, if_neg he']

theorem exec_msg_ready (h : s.Ready c) (hsel : sel.toNat < 3) (hg : groupOk rs = true) :
    exec (.msg c rs sel) s = .next ((s.stepDone c.val).modCore c.val (·.sendMsg rs sel)) := by
  rw [exec_msg_eq, execMsg, State.seqRun_ready h, if_neg (Nat.not_le.2 hsel), if_pos hg]

theorem exec_msg_sends (h : s.Ready c) (hsel : sel.toNat < 3) (hg : groupOk rs = true)
    (hroom : (s.core c.val).seq.outbound.length < 8) : exec (.msg c rs sel) s = .next ((s.stepDone c.val).modCore c.val (fun k =>
      { k with seq := { k.seq with outbound := k.seq.outbound ++ [(sel.toNat, k.quad rs.toNat)] } }.step8)) := by
  have hroom' : (s.core c.val).stepUsed.seq.outbound.length < 8 := hroom
  rw [exec_msg_ready h hsel hg, State.modCore, State.modCore, State.core_stepDone, Core.sendMsg, if_pos hroom']

theorem exec_msg_stalls (h : s.Ready c) (hsel : sel.toNat < 3) (hg : groupOk rs = true)
    (hfull : 8 ≤ (s.core c.val).seq.outbound.length) : exec (.msg c rs sel) s =
      .next ((s.stepDone c.val).modCore c.val (·.setStall (some (.msg rs sel)))) := by
  have hfull' : ¬ (s.core c.val).stepUsed.seq.outbound.length < 8 := Nat.not_lt.2 hfull
  rw [exec_msg_ready h hsel hg, State.modCore, State.modCore, State.core_stepDone, Core.sendMsg, if_neg hfull']

theorem exec_msg_reserved (h : s.Ready c) (hsel : 3 ≤ sel.toNat) :
    exec (.msg c rs sel) s = .next ((s.stepDone c.val).seqFault c.val codeIllegalOp 0) := by
  rw [exec_msg_eq, execMsg, State.seqRun_ready h, if_pos hsel]

theorem exec_illegalOp_ready (h : s.Ready c) {w : Word} (hw : decodeWord c w = none) :
    exec (.illegalOp c w) s = .next ((s.stepDone c.val).seqFault c.val codeIllegalOp 0) := by
  rw [exec_illegalOp_eq, execIllegalOp, State.seqRun_ready h, hw]
  rfl

end

/-- Settles O18, instruction by instruction. -/
theorem raiseSigchkMsgResults : Obligations.RaiseSigchkMsgResults := by
  intro s c code expect rs sel w h k
  refine ⟨⟨_, exec_raise_ready h code, seqFaulted_seqFault s c.val _ _, fun hcalm => reports_seqFault hcalm c.val _ _⟩,
    fun he => ⟨_, exec_sigchk_equal h he, ?_⟩,
    fun he => ⟨_, exec_sigchk_differs h he, seqFaulted_seqFault s c.val _ _⟩,
    fun hsel hg hroom => ⟨_, exec_msg_sends h hsel hg hroom, ?_⟩,
    fun hsel hg hfull => ⟨_, exec_msg_stalls h hsel hg hfull, stalls_setStall s c.val _⟩,
    fun hsel => ⟨_, exec_msg_reserved h hsel, seqFaulted_seqFault s c.val _ _⟩,
    fun hw => ⟨_, exec_illegalOp_ready h hw, seqFaulted_seqFault s c.val _ _⟩⟩
  · refine ⟨⟨onlyCore_modCore _ _ _, ?_⟩, ?_, ?_, ?_⟩ <;> rw [State.core_stepDone_modCore]
    · rfl
    · rfl
    · rfl
    · exact Core.faulted_of_canIssue (k := k) h.1
  · refine ⟨⟨onlyCore_modCore _ _ _, ?_⟩, ?_, ?_⟩ <;> rw [State.core_stepDone_modCore] <;> rfl

end Sys2Proof.Machine
end

section
/-! PROOF. O14: the five instructions that name a group of four registers (R85). A group out of order is REG_ALIGN; with one in order
none of the five writes REG_ALIGN into the sequencer. -/

namespace Sys2Proof.Machine

open Sys2Proof

theorem faulted_seqFaultAt (s : State) (c code detail addr : Nat) :
    ((s.seqFaultAt c code detail addr).core c).seq.faulted = some code := by
  rw [State.seqFaultAt, State.core_report, State.core_setCore_self]

theorem State.groupRun_misaligned {s : State} {c : CoreId} {r : BitVec 5} (h : s.Ready c) (hg : groupOk r = false) (f : State → State) :
    s.groupRun c r f = (s.stepDone c.val).seqFault c.val codeRegAlign 0 := by
  rw [State.groupRun, State.seqRun_ready h, hg]
  rfl

/-- A load faults with SP_RANGE or MEM_UNCORR, or leaves no fault where `put` writes none. -/
theorem faulted_spLoad {s : State} {c : Nat} (size a : Nat) {put : Core → List Byte → Core}
    (hput : ∀ k bs, (put k bs).seq.faulted = k.seq.faulted) (hnone : (s.core c).seq.faulted = none) :
    ((s.spLoad c size a put).core c).seq.faulted ≠ some codeRegAlign := by
  unfold State.spLoad
  split
  · rw [State.seqFault, faulted_seqFaultAt]
    decide
  · split
    · rw [State.core_modCore_self]
      show (put _ _).seq.faulted ≠ _
      rw [hput, Core.guardCount, hnone]
      exact nofun
    · split
      · rw [faulted_seqFaultAt]
        decide
      · rw [State.core_modCore_self]
        show (put _ _).seq.faulted ≠ _
        rw [hput, (spFix_frame _ _ _).1.seq, hnone]
        exact nofun

theorem faulted_spStore {s : State} {c : Nat} (size a : Nat) (bs : Core → List Byte) (hnone : (s.core c).seq.faulted = none) :
    ((s.spStore c size a bs).core c).seq.faulted ≠ some codeRegAlign := by
  have hkept : ∀ j : Core, j.seq.faulted = (s.core c).seq.faulted → j.seq.faulted ≠ some codeRegAlign := fun j hj => by
    rw [hj, hnone]
    exact nofun
  unfold State.spStore
  split
  · rw [State.seqFault, faulted_seqFaultAt]
    decide
  · split <;> rw [State.core_modCore_self] <;> exact hkept _ rfl

/-- An issue leaves the sequencer free of faults, whatever becomes of the stream. -/
theorem faulted_streamInto {s : State} {c : Nat} (rs rd ax ay az : Nat) (hnone : (s.core c).seq.faulted = none) :
    ((s.streamInto c rs rd ax ay az).core c).seq.faulted = none := by
  have hwrite : ∀ (j : Core) (v : Word), j.seq.faulted = none → (((j.setS rd v).setStall none).step8).seq.faulted = none := fun j v hj =>
    (Core.setS_seq_faulted j rd v).trans hj
  unfold State.streamInto
  dsimp only
  split
  · rw [State.core_modCore_self]
    exact hwrite _ _ (by rw [State.kindFault, State.core_report]; exact hnone)
  · split
    · rw [State.core_modCore_self]
      exact hnone
    · rw [State.core_modCore_self]
      exact hwrite _ _ (by rw [(issued_issueAt ..).seq]; exact hnone)

/-- The five instructions with a group that is out of order. -/
theorem exec_group_misaligned {s : State} {c : CoreId} {r : BitVec 5} (h : s.Ready c) (hg : groupOk r = false) (rd : BitVec 5)
    (an ax ay az : BitVec 4) {dest : BitVec 4} (hd : dest.toNat < 3) (imm : BitVec 32) :
    ∀ i ∈ [Instr.ldd c r an imm, .std c r an imm, .mboxr c r, .stream c r rd ax ay az, .msg c r dest],
      exec i s = .next ((s.stepDone c.val).seqFault c.val codeRegAlign 0) := by
  simp only [List.forall_mem_cons, List.not_mem_nil, false_implies, implies_true, and_true]
  refine ⟨?_, ?_, ?_, ?_, ?_⟩
  · rw [exec_ldd_eq, execLdd, State.groupRun_misaligned h hg]
  · rw [exec_std_eq, execStd, State.groupRun_misaligned h hg]
  · rw [exec_mboxr_eq, execMboxr, State.groupRun_misaligned h hg]
  · rw [exec_stream_eq, execStream, State.groupRun_misaligned h hg]
  · rw [exec_msg_eq, execMsg, State.seqRun_ready h, if_neg (Nat.not_le.2 hd), hg]
    rfl

/-- The five instructions with a group that is in order. -/
theorem exec_group_aligned {s : State} {c : CoreId} {r : BitVec 5} (h : s.Ready c) (hg : groupOk r = true) (rd : BitVec 5)
    (an ax ay az : BitVec 4) {dest : BitVec 4} (hd : dest.toNat < 3) (imm : BitVec 32) :
    ∀ i ∈ [Instr.ldd c r an imm, .std c r an imm, .mboxr c r, .stream c r rd ax ay az, .msg c r dest],
      ∃ t, exec i s = .next t ∧ (t.core c.val).seq.faulted ≠ some codeRegAlign := by
  have hnone : ((s.stepDone c.val).core c.val).seq.faulted = none := by
    rw [State.core_stepDone]
    exact Core.faulted_of_canIssue (k := s.core c.val) h.1
  have hquad : ∀ (k : Core) (v : BitVec 256), (k.setQuad r.toNat v).seq.faulted = k.seq.faulted := fun k v => by
    obtain ⟨m, hm⟩ := k.setQuad_eq r.toNat v
    rw [hm]
  have hbox : ∀ (k : Core) (m : BitVec 256) (ms : List (BitVec 256)),
      (({ k with seq := { k.seq with mbox := ms } }.setQuad r.toNat m).step8).seq.faulted = k.seq.faulted := fun k m ms =>
    (Core.step8_seq_faulted _).trans (hquad _ m)
  simp only [List.forall_mem_cons, List.not_mem_nil, false_implies, implies_true, and_true]
  refine ⟨⟨_, exec_ldd_ready h hg an imm, faulted_spLoad _ _ (fun k _ => hquad k _) hnone⟩,
    ⟨_, exec_std_ready h hg an imm, faulted_spStore _ _ _ hnone⟩, ?_,
    ⟨_, exec_stream_ready h hg, by rw [faulted_streamInto _ _ _ _ _ hnone]; exact nofun⟩,
    ⟨_, exec_msg_ready h hd hg, ?_⟩⟩
  · cases hm : (s.core c.val).seq.mbox with
    | nil =>
      refine ⟨_, exec_mboxr_empty h hg hm, ?_⟩
      rw [State.seqFault, faulted_seqFaultAt]
      decide
    | cons m ms =>
      refine ⟨_, exec_mboxr_takes h hg hm, ?_⟩
      rw [State.core_modCore_self, hbox, hnone]
      exact nofun
  · have hsend : ∀ k : Core, (k.sendMsg r dest).seq.faulted = k.seq.faulted := fun k => by
      unfold Core.sendMsg
      split <;> rfl
    rw [State.core_modCore_self, hsend, hnone]
    exact nofun

/-- Settles O14. -/
theorem registerGroupsAreAligned : Obligations.RegisterGroupsAreAligned := by
  intro s c r rd an ax ay az dest imm h hd named i hi
  cases hg : groupOk r with
  | false =>
    exact ⟨_, exec_group_misaligned h hg rd an ax ay az hd imm i hi, fun _ => seqFaulted_seqFault s c.val codeRegAlign 0,
      fun hn => absurd (groupOk_iff.2 hn) (by simp [hg])⟩
  | true =>
    obtain ⟨t, hexec, hne⟩ := exec_group_aligned h hg rd an ax ay az hd imm i hi
    exact ⟨t, hexec, fun hn => absurd (groupOk_iff.1 hg) hn, fun _ => hne⟩

end Sys2Proof.Machine
end

section
/-! PROOF. The deferred entries of a core as they finish, and a slot given back whoever issued its stream (R53, R156, R236). -/

namespace Sys2Proof.Machine

open Sys2Proof

/-- Token counters of a core may differ, nothing else. -/
def OnlyTok (k j : Core) : Prop := { j with seq := { j.seq with t := k.seq.t } } = k

theorem OnlyTok.foldl_incTok (p : DwqEntry → Bool) (l : List DwqEntry) (k : Core) :
    OnlyTok k (l.foldl (fun k e => if p e then k.incTok e.tc else k) k) := by
  induction l generalizing k with
  | nil => exact rfl
  | cons e l ih =>
    rw [List.foldl_cons]
    have hrest := ih (if p e then k.incTok e.tc else k)
    have hone : OnlyTok k (if p e then k.incTok e.tc else k) := by split <;> exact rfl
    exact (congrArg (fun j : Core => { j with seq := { j.seq with t := k.seq.t } }) hrest :).trans hone

/-- Settling the entries that have finished changes token counters and the list of running entries only (R236). -/
theorem Core.dwqSettle_rest (k : Core) :
    OnlyTok { k with dwq := { k.dwq with running := k.dwq.running.filter (fun e => !e.finished) } } k.dwqSettle :=
  OnlyTok.foldl_incTok (fun e => e.tken && !e.bad) _ _

/-- A core differs at most in its slots, its token counters, the deferred queue, Mash and the accumulator rows that are live. -/
def SlotsFreed (k j : Core) : Prop :=
  { j with
    slots := k.slots
    dwq := k.dwq
    mash := k.mash
    seq := { j.seq with t := k.seq.t }
    sp := { j.sp with liveRows := k.sp.liveRows } } = k

theorem SlotsFreed.refl (k : Core) : SlotsFreed k k := rfl

theorem SlotsFreed.trans {k j i : Core} (h : SlotsFreed k j) (g : SlotsFreed j i) : SlotsFreed k i := by
  have e := congrArg (fun x : Core => { x with
    slots := k.slots
    dwq := k.dwq
    mash := k.mash
    seq := { x.seq with t := k.seq.t }
    sp := { x.sp with liveRows := k.sp.liveRows } }) g
  exact e.trans h

theorem SlotsFreed.hop {k j : Core} (h : SlotsFreed k j) : j.hop = k.hop := (congrArg Core.hop h :)
theorem SlotsFreed.mem {k j : Core} (h : SlotsFreed k j) : j.sp.mem = k.sp.mem := (congrArg (fun i : Core => i.sp.mem) h :)

/-- Token counters and the deferred queue are among what a slot given back may change. -/
theorem SlotsFreed.of_tok {k j : Core} {d : Dwq} (h : OnlyTok { k with dwq := d } j) : SlotsFreed k j ∧ j.slots = k.slots :=
  ⟨(congrArg (fun x : Core => { x with
    slots := k.slots
    dwq := k.dwq
    mash := k.mash
    sp := { x.sp with liveRows := k.sp.liveRows } }) h :), (congrArg Core.slots h :)⟩

/-- An entry that loses a stream keeps its core's slots. -/
theorem Core.dwqDrop_rest (k : Core) (x : Slot) (n : Nat) (bad : Bool) :
    SlotsFreed k (k.dwqDrop x n bad) ∧ (k.dwqDrop x n bad).slots = k.slots := by
  unfold Core.dwqDrop
  split
  next => exact ⟨.refl k, rfl⟩
  next i _ =>
    exact SlotsFreed.of_tok (Core.dwqSettle_rest { k with dwq := { k.dwq with
      started := k.dwq.started.map (fun e => if e.n = i then e.drop n bad else e)
      running := k.dwq.running.map (fun e => if e.n = i then e.drop n bad else e) } })

/-- What a closed group leaves, of a slot given back. -/
theorem SlotsFreed.of_closed {k j : Core} {n : Nat} (h : ClosedGroups (k.setSlot n {}) j) : SlotsFreed k j :=
  (congrArg (fun i : Core => { i with slots := k.slots, dwq := k.dwq, seq := { i.seq with t := k.seq.t } }) h :)

/-- A slot given back is FREE, and every other slot is as before. -/
theorem Core.freeSlot_rest (k : Core) (n : Nat) (bad : Bool) : SlotsFreed k (k.freeSlot n bad) ∧
    ∀ m, (k.freeSlot n bad).slot m = if m = n then {} else k.slot m := by
  rw [Core.freeSlot]
  obtain ⟨hdrop, hslots⟩ := k.dwqDrop_rest (k.slot n) n bad
  generalize k.dwqDrop (k.slot n) n bad = k1 at hdrop hslots ⊢
  have hclosed := closedGroups_settleAborts (k1.setSlot n {})
  generalize (k1.setSlot n {}).settleAborts = k2 at hclosed ⊢
  obtain ⟨hother, hself, -, -⟩ := hclosed.freed
  refine ⟨hdrop.trans (.of_closed hclosed), fun m => ?_⟩
  split
  next hm => rw [hm, hself]
  next hm => rw [hother m hm, Core.slot_congr hslots]

/-- Slots given back one after the other. -/
theorem freeSlots_rest (bad : Bool) (l : List Nat) (k : Core) : SlotsFreed k (l.foldl (fun k n => k.freeSlot n bad) k) ∧
    ∀ m, (l.foldl (fun k n => k.freeSlot n bad) k).slot m = if m ∈ l then {} else k.slot m := by
  induction l generalizing k with
  | nil => exact ⟨.refl k, fun m => by simp⟩
  | cons n l ih =>
    obtain ⟨hrest, hslot⟩ := ih (k.freeSlot n bad)
    obtain ⟨hone, honeSlot⟩ := k.freeSlot_rest n bad
    rw [List.foldl_cons]
    refine ⟨hone.trans hrest, fun m => ?_⟩
    rw [hslot, honeSlot]
    by_cases hl : m ∈ l <;> by_cases hn : m = n <;> simp [hl, hn]

end Sys2Proof.Machine
end

section
/-! PROOF. O20: END (R87, R89, R203). GATED slots are given back, then the soft-target channels are disabled one after the other, each
with its ring zeroed. -/

namespace Sys2Proof.Machine

open Sys2Proof

theorem exec_kend_eq (c : CoreId) (s : State) : exec (.kend c) s = execKend c s := rfl

/-! ## Channels disabled -/

/-- A byte of an enabled channel's ring, by its line. -/
def Core.inRing (k : Core) (x ch : Nat) : Bool := (k.hopChan ch).on && (k.hopChan ch).has (x / 256)

theorem Core.chanOff_slots (k : Core) (ch : Nat) : (k.chanOff ch).slots = k.slots := by
  unfold Core.chanOff
  dsimp only
  split <;> rfl

theorem Core.hopChan_chanOff (k : Core) {ch d : Nat} (h : d ≠ ch) : (k.chanOff ch).hopChan d = k.hopChan d := by
  unfold Core.chanOff
  dsimp only
  split
  · exact FMap.get_set_ne _ _ h _
  · rfl

/-- A line is in a run of lines when its bytes are in the run's bytes. -/
theorem HopChan.has_iff {h : HopChan} {x : Nat} : h.has (x / 256) = true ↔
    256 * h.base ≤ x ∧ x < 256 * h.base + 256 * (h.tiles * h.lines) := by
  simp only [HopChan.has, Bool.and_eq_true, decide_eq_true_eq]
  generalize h.tiles * h.lines = n
  omega

/-- A disabled channel's ring reads zero; every other byte is as before (R203). -/
theorem Core.memByte_chanOff (k : Core) (ch x : Nat) :
    memByte (k.chanOff ch).sp.mem x = if k.inRing x ch then 0 else memByte k.sp.mem x := by
  unfold Core.chanOff Core.inRing
  dsimp only
  cases hon : (k.hopChan ch).on with
  | false => rfl
  | true =>
    have hbyte := Core.spWrite_byte (k.modHop (fun p => { p with
      discarded := satAdd 16 p.discarded ((k.hopChan ch).received - (k.hopChan ch).released) })) (256 * (k.hopChan ch).base) x
      (List.replicate (256 * ((k.hopChan ch).tiles * (k.hopChan ch).lines)) 0)
    simp only [List.length_replicate, ← HopChan.has_iff] at hbyte
    rw [Bool.true_and]
    refine hbyte.trans ?_
    split
    · rw [List.getD_eq_getElem?_getD, List.getElem?_getD_replicate_default_eq]
    · rfl

/-- Channels disabled one after the other. -/
theorem chansOff_rest {l : List Nat} (hl : l.Nodup) (k : Core) : (l.foldl (fun k ch => k.chanOff ch) k).slots = k.slots ∧
    ∀ x, memByte (l.foldl (fun k ch => k.chanOff ch) k).sp.mem x = if l.any (k.inRing x) then 0 else memByte k.sp.mem x := by
  induction l generalizing k with
  | nil => exact ⟨rfl, fun x => rfl⟩
  | cons ch l ih =>
    obtain ⟨hch, hl⟩ := List.nodup_cons.1 hl
    obtain ⟨hslots, hmem⟩ := ih hl (k.chanOff ch)
    refine ⟨hslots.trans (k.chanOff_slots ch), fun x => ?_⟩
    have hother : l.any ((k.chanOff ch).inRing x) = l.any (k.inRing x) := by
      have hring : ∀ d ∈ l, (k.chanOff ch).inRing x d = k.inRing x d := fun d hd => by
        have hne : d ≠ ch := fun he => hch (he ▸ hd)
        rw [Core.inRing, Core.inRing, Core.hopChan_chanOff k hne]
      rw [List.any_eq, List.any_eq]
      exact decide_eq_decide.2 (exists_congr fun d => and_congr_right fun hd => by rw [hring d hd])
    rw [List.foldl_cons, hmem, hother, Core.memByte_chanOff, List.any_cons]
    cases k.inRing x ch <;> cases l.any (k.inRing x) <;> rfl

/-! ## The end of a kernel -/

/-- What END leaves of the slots and the scratchpad of its core. -/
theorem Core.endCore_rest (k : Core) : k.endCore.seq.kernel = none ∧
    (∀ n, n < 64 → k.endCore.slot n = if (k.slot n).state = .gated then {} else k.slot n) ∧
    ∀ x, memByte k.endCore.sp.mem x = if (List.range 4).any (k.inRing x) then 0 else memByte k.sp.mem x := by
  obtain ⟨hfreed, hslot⟩ := freeSlots_rest true (Core.slotNums.filter (fun n => (k.slot n).state = .gated)) k
  generalize hk1 : (Core.slotNums.filter (fun n => (k.slot n).state = .gated)).foldl (fun k n => k.freeSlot n true) k = k1
    at hfreed hslot
  obtain ⟨hslots, hmem⟩ := chansOff_rest (List.nodup_range (n := 4)) k1
  have hring : ∀ x, k1.inRing x = k.inRing x := fun x => funext fun ch => by
    rw [Core.inRing, Core.inRing, Core.hopChan_congr hfreed.hop]
  refine ⟨rfl, fun n hn => ?_, fun x => ?_⟩
  · have hend : k.endCore.slot n = k1.slot n := by
      rw [← Core.slot_congr hslots, ← hk1]
      rfl
    rw [hend, hslot]
    simp [mem_slotNums, hn]
  · have hend : k.endCore.sp.mem = ((List.range 4).foldl (fun k ch => k.chanOff ch) k1).sp.mem := by
      rw [← hk1]
      rfl
    rw [hend, hmem, hring, hfreed.mem]

section
variable {s : State} {c : CoreId}

theorem exec_kend_stalls (h : s.Ready c) (hlive : (s.core c.val).anyLive = true) :
    exec (.kend c) s = .next ((s.stepDone c.val).modCore c.val (·.setStall (some .kend))) := by
  have hlive' : (s.core c.val).stepUsed.anyLive = true := hlive
  rw [exec_kend_eq, execKend, State.seqRun_ready h, State.tryEnd, State.core_stepDone, if_pos hlive']

theorem exec_kend_ends (h : s.Ready c) (hlive : (s.core c.val).anyLive = false) :
    exec (.kend c) s = .next ((s.stepDone c.val).endKernel c.val) := by
  have hlive' : (s.core c.val).stepUsed.anyLive = false := hlive
  rw [exec_kend_eq, execKend, State.seqRun_ready h, State.tryEnd, State.core_stepDone, hlive']
  rfl

end

/-- Settles O20: END with a stream still running, and without one. -/
theorem endFreesGatedStreamsAndReports : Obligations.EndFreesGatedStreamsAndReports := by
  intro s c h k
  refine ⟨fun hlive => ⟨_, exec_kend_stalls h hlive, stalls_setStall s c.val _⟩, fun hlive =>
    ⟨_, (s.stepDone c.val).endReport c.val false, exec_kend_ends h hlive, ?_⟩⟩
  have hcore : ((s.stepDone c.val).endKernel c.val).core c.val = k.stepUsed.endCore := State.core_stepDone_modCore s c.val _
  obtain ⟨hkernel, hslot, hmem⟩ := k.stepUsed.endCore_rest
  rw [hcore]
  refine ⟨hkernel, hslot, FMap.find?_set_self _ _ _, rfl, ?_, ?_, rfl, fun d hd => ?_, hmem⟩
  · rw [State.endReport, State.core_stepDone]
    rfl
  · rw [State.endReport, State.core_stepDone]
    rfl
  · exact ((onlyCore_modCore s c.val (·.endCore)).2 d hd :)

end Sys2Proof.Machine
end

section
/-! PROOF. O39: the deferred work queue: a push, the head entry as it starts, and a descriptor issued (R231 to R235). -/

namespace Sys2Proof.Machine

open Sys2Proof

theorem exec_dwqPush_eq (c : CoreId) (s : State) : exec (.dwqPush c) s = execDwqPush c s := rfl
theorem exec_dwqEntryStart_eq (c : CoreId) (s : State) : exec (.dwqEntryStart c) s = execDwqEntryStart c s := rfl
theorem exec_dwqForcedStart_eq (c : CoreId) (s : State) : exec (.dwqForcedStart c) s = execDwqForcedStart c s := rfl
theorem exec_dwqDescIssue_eq (c : CoreId) (s : State) : exec (.dwqDescIssue c) s = execDwqDescIssue c s := rfl

/-! ## A push -/

section
variable {s : State} {c : CoreId}

theorem exec_dwqPush_ready (h : s.Ready c) : exec (.dwqPush c) s = .next ((s.stepDone c.val).modCore c.val (·.pushWrite)) := by
  rw [exec_dwqPush_eq, execDwqPush, State.seqRun_ready h]

end

theorem Core.pushWrite_room {k : Core} (h : k.dwq.heldCount < 64) : k.pushWrite = k.pushOne.step8 := if_pos h

theorem Core.pushWrite_full {k : Core} (h : 64 ≤ k.dwq.heldCount) : k.pushWrite =
    (k.forceHead.modDwq (fun q => { q with fullStall := satAdd 16 q.fullStall 1 })).setStall (some .dwqPush) :=
  if_neg (Nat.not_lt.2 h)

/-! ## The issuer's read of accessible lines -/

/-- Correctable words of the scratchpad may be corrected and counted; nothing else of the core differs. -/
def Corrected (k j : Core) : Prop := { j with spCe := k.spCe, sp := { j.sp with err := k.sp.err } } = k

theorem corrected_spReadDone (k : Core) (a n : Nat) : Corrected k (k.spReadDone false a n) := by
  unfold Core.spReadDone Core.spFix
  dsimp only
  split
  · contradiction
  · split <;> exact rfl

section
variable {k j : Core} (h : Corrected k j)
include h

theorem Corrected.seq : j.seq = k.seq := (congrArg Core.seq h :)
theorem Corrected.slots : j.slots = k.slots := (congrArg Core.slots h :)
theorem Corrected.nextOrder : j.nextOrder = k.nextOrder := (congrArg Core.nextOrder h :)
theorem Corrected.mash : j.mash = k.mash := (congrArg Core.mash h :)
theorem Corrected.hop : j.hop = k.hop := (congrArg Core.hop h :)
theorem Corrected.cask : j.cask = k.cask := (congrArg Core.cask h :)
theorem Corrected.dwq : j.dwq = k.dwq := (congrArg Core.dwq h :)
theorem Corrected.mem : j.sp.mem = k.sp.mem := (congrArg (fun i : Core => i.sp.mem) h :)

end

/-! ## The head entry starts -/

/-- The core as the entry `e`, read at byte `a`, is started. -/
def Core.entryStarted (k : Core) (a : Nat) (e : DwqEntry) : Core :=
  (k.spReadDone false a 64).modDwq (fun q => { q with started := some e })

theorem Core.entryStarted_rest {k : Core} (hnone : k.dwq.started = none) (a : Nat) (e : DwqEntry) :
    { (k.entryStarted a e).dwq with started := none } = k.dwq ∧ (k.entryStarted a e).dwq.started = some e ∧
    (k.entryStarted a e).slots = k.slots ∧ (k.entryStarted a e).sp.mem = k.sp.mem ∧ (k.entryStarted a e).seq = k.seq := by
  have hread := corrected_spReadDone k a 64
  refine ⟨?_, rfl, hread.slots, hread.mem, hread.seq⟩
  rw [Core.entryStarted, Core.modDwq, hread.dwq, ← hnone]

/-- A head entry waits: a kernel runs whose issuer may act, and no entry is started. -/
theorem Core.entryWaits_of {k : Core} (hkernel : k.seq.kernel.isSome = true) (hparking : k.seq.parking = false)
    (hparked : k.seq.parked = false) (hend : k.seq.stall ≠ some .kend) (hnone : k.dwq.started = none)
    (hheld : k.dwq.head < k.dwq.pushed) : k.entryWaits = true := by
  simp [Core.entryWaits, Core.issuerLive, Dwq.heldCount, hkernel, hparking, hparked, hend, hnone, hheld]

section
variable {s : State} {c : CoreId} {forced : Bool} {may : State → DwqEntry → Bool}

/-- The address of the head entry in the ring. -/
def Core.headAddr (k : Core) : Nat := k.dwq.entryAddr k.dwq.head

/-- The head entry, as the issuer reads it. -/
def Core.headEntry (k : Core) (forced : Bool) : EntryIn := entryOf k.dwq.head (k.spRead k.headAddr 64) forced

/-- A well-formed head entry in accessible lines starts once it may. -/
theorem State.entryStart_ok (hsound : s.SpSound c.val) (hrun : s.runFault c.val [] (s.core c.val).headAddr 64 = none)
    (hok : ((s.core c.val).headEntry forced).ok = true)
    (hmay : may (s.modCore c.val (fun k => k.spReadDone false (s.core c.val).headAddr 64)) ((s.core c.val).headEntry forced).e = true) :
    s.entryStart c.val forced may =
      s.modCore c.val (fun k => k.entryStarted (s.core c.val).headAddr ((s.core c.val).headEntry forced).e) := by
  have hread := Mv.readSp_ok (m := { s := s }) (last := false) rfl hrun hsound
  rw [Core.headEntry] at hok hmay ⊢
  rw [State.entryStart, ← Core.headAddr, hread]
  dsimp only
  rw [if_neg (by rw [hok]; decide), if_pos hmay, State.modCore_twice]
  rfl

/-- What the start of the head entry leaves. -/
theorem State.entryStart_rest (hnone : (s.core c.val).dwq.started = none) (hsound : s.SpSound c.val)
    (hrun : s.runFault c.val [] (s.core c.val).headAddr 64 = none) (hok : ((s.core c.val).headEntry forced).ok = true)
    (hmay : may (s.modCore c.val (fun k => k.spReadDone false (s.core c.val).headAddr 64)) ((s.core c.val).headEntry forced).e = true) :
    OnlyCore s (s.entryStart c.val forced may) c.val ∧
    { ((s.entryStart c.val forced may).core c.val).dwq with started := none } = (s.core c.val).dwq ∧
    ((s.entryStart c.val forced may).core c.val).dwq.started = some ((s.core c.val).headEntry forced).e ∧
    ((s.entryStart c.val forced may).core c.val).slots = (s.core c.val).slots ∧
    ((s.entryStart c.val forced may).core c.val).sp.mem = (s.core c.val).sp.mem ∧
    ((s.entryStart c.val forced may).core c.val).seq = (s.core c.val).seq := by
  rw [State.entryStart_ok hsound hrun hok hmay]
  refine ⟨onlyCore_setCore s c.val _, ?_⟩
  rw [State.core_modCore_self]
  exact Core.entryStarted_rest hnone _ _

theorem exec_dwqEntryStart_unforced (hwaits : (s.core c.val).entryWaits = true)
    (hforced : (s.core c.val).dwq.forced (s.core c.val).dwq.head = false) (henable : (s.core c.val).dwq.enable = true)
    (hkeep : (s.core c.val).dwq.keep < (s.core c.val).freeSlots) (hlive : (s.core c.val).unforcedLive = false) :
    exec (.dwqEntryStart c) s =
      .next (s.entryStart c.val false (fun s e => (s.core c.val).firstKind e ≠ 1 || s.idleLong c.val)) := by
  rw [exec_dwqEntryStart_eq, execDwqEntryStart]
  exact congrArg _ (if_pos (by simp [hwaits, hforced, henable, hkeep, hlive]))

theorem exec_dwqForcedStart_forced (hwaits : (s.core c.val).entryWaits = true)
    (hforced : (s.core c.val).dwq.forced (s.core c.val).dwq.head = true) :
    exec (.dwqForcedStart c) s = .next (s.entryStart c.val true (fun _ _ => true)) := by
  rw [exec_dwqForcedStart_eq, execDwqForcedStart]
  exact congrArg _ (if_pos (by rw [hwaits, hforced]; rfl))

/-- Mash's idle time and the kind of an entry's first descriptor do not hang on corrected words. -/
theorem mayStart_spReadDone (s : State) (c : Nat) (a n : Nat) (e : DwqEntry) :
    ((s.modCore c (fun k => k.spReadDone false a n)).core c).firstKind e = (s.core c).firstKind e ∧
    (s.modCore c (fun k => k.spReadDone false a n)).idleLong c = s.idleLong c := by
  have hread := corrected_spReadDone (s.core c) a n
  have hslot : ((s.core c).spReadDone false a n).slot = (s.core c).slot := funext (Core.slot_congr hread.slots)
  have hidle : ((s.core c).spReadDone false a n).mashIdle = (s.core c).mashIdle := by rw [Core.mashIdle, hread.mash, hslot]; rfl
  constructor
  · rw [State.core_modCore_self, Core.firstKind, Core.firstKind, Core.spRead, Core.spRead, hread.mem]
  · rw [State.idleLong, State.idleLong, State.core_modCore_self, State.mashOf_modCore, hidle, hread.dwq]

end

/-! ## A descriptor is issued -/

/-- The issue checks look at the scratchpad's bytes, the kernel, the Hopback channels and the stash regions of their core, and at
what is common to the cores (R98). -/
theorem State.issueCheck_congr {s t : State} {c : Nat} (hrest : { t with cores := s.cores } = s)
    (hmem : (t.core c).sp.mem = (s.core c).sp.mem) (hseq : (t.core c).seq = (s.core c).seq) (hhop : (t.core c).hop = (s.core c).hop)
    (hcask : (t.core c).cask = (s.core c).cask) (x : Slot) : t.issueCheck c x = s.issueCheck c x := by
  have hhbm : t.hbm = s.hbm := (congrArg State.hbm hrest :)
  have hbays : t.bays = s.bays := (congrArg State.bays hrest :)
  have hsched : t.sched = s.sched := (congrArg State.sched hrest :)
  have hpart : t.partOf c = s.partOf c := by rw [State.partOf, State.partOfBay, State.bay, hbays]; rfl
  have hpeek : ∀ space a n, t.peek c space a n = s.peek c space a n := fun space a n => by
    rw [State.peek, State.peek, Core.spRead, Core.spRead, hmem, hhbm]
  have hscale : ∀ d aux, t.scaleBad c d aux = s.scaleBad c d aux := fun d aux => by simp only [State.scaleBad, hpeek]
  have hstash : ∀ d base, t.stashTrans c d base = s.stashTrans c d base := fun d base => by
    simp only [State.stashTrans, Core.epoch, hcask]
  have hfmt : ∀ d base aux, t.fmtBad c d base aux = s.fmtBad c d base aux := fun d base aux => by
    simp only [State.fmtBad, hscale, hstash]
  have hshown : ∀ l, t.hbmShown c l = s.hbmShown c l := fun l => by simp only [State.hbmShown, hhbm, hpart]
  have hresv : t.resvLines (t.partOf c) = s.resvLines (s.partOf c) := by
    rw [hpart, State.resvLines, State.schedOf, hsched]; rfl
  have hhot : ∀ n, t.hotLine c n = s.hotLine c n := fun n => by rw [State.hotLine, hseq, hresv]; rfl
  have hguarded : ∀ own n, (t.core c).guarded own n = (s.core c).guarded own n := fun own n => by
    simp only [Core.guarded, Core.hopChan, hhop]
  have hguard : t.guardShown c x = s.guardShown c x := by simp only [State.guardShown, hhot, hguarded]
  simp only [State.issueCheck, hfmt, hshown, hguard]

/-- The core as stream `x` is put into slot `n`. -/
def Core.enqueued (k : Core) (n : Nat) (x : Slot) : Core := { k.setSlot n x with nextOrder := k.nextOrder + 1 }

/-- The core as stream `x` is issued into slot `n`, no check refusing it. -/
def Core.issued (k : Core) (n : Nat) (x : Slot) : Core :=
  { k.enqueued n x with welt := { k.welt with softSent := k.welt.softSent || (isSend x.desc && wSoft x.desc) } }

/-- The slot of a stream of deferred entry `e` with descriptor `d`. -/
def DwqEntry.slot (e : DwqEntry) (d : BitVec 256) (order : Nat) : Slot := slotOf d e.ax e.ay e.az order (.dwq e.n)

theorem State.issueAt_accepted {s : State} {c n : Nat} {d : BitVec 256} {e : DwqEntry}
    (h : s.issueCheck c (e.slot d (s.core c).nextOrder) = none) : s.issueAt c n d e.ax e.ay e.az (.dwq e.n) =
      (s.modCore c (fun k => k.issued n (e.slot d k.nextOrder)), true) := by
  have hcore := State.core_modCore_self s c (fun k => k.enqueued n (e.slot d k.nextOrder))
  have hcheck : (s.modCore c (fun k => k.enqueued n (e.slot d k.nextOrder))).issueCheck c (e.slot d (s.core c).nextOrder) = none := by
    rw [← h]
    apply State.issueCheck_congr rfl <;> rw [hcore] <;> rfl
  have htwice := State.modCore_twice s c (fun k => k.enqueued n (e.slot d k.nextOrder)) (fun k => { k with
    welt := { k.welt with softSent := k.welt.softSent || (isSend d && wSoft d) } })
  rw [State.issueAt]
  dsimp only
  split
  next code a hrefused => exact absurd (hrefused.symm.trans hcheck) (Option.some_ne_none _)
  next => exact congrArg (·, true) htwice

/-- The core as the next descriptor of a started entry, read at byte `a`, is issued into slot `n`. -/
def Core.descIssued (k : Core) (e : DwqEntry) (n a : Nat) (d : BitVec 256) : Core :=
  ((k.spReadDone false a 32).issued n (e.slot d k.nextOrder)).descDone e n

/-- The next descriptor of an entry: its bytes. -/
def Core.nextDesc (k : Core) (e : DwqEntry) : BitVec 256 := BitVec.ofNat 256 (bytesNat (k.spRead (256 * e.line + 32 * e.idx) 32))

section
variable {s : State} {c : CoreId} {e : DwqEntry} {n : Nat}

/-- A descriptor of an accessible line that no check refuses is issued. -/
theorem State.descIssue_ok (hsound : s.SpSound c.val) (hrun : s.runFault c.val [] (256 * e.line + 32 * e.idx) 32 = none)
    (hkind : kindOf ((s.core c.val).nextDesc e) < 13)
    (hcheck : s.issueCheck c.val (e.slot ((s.core c.val).nextDesc e) (s.core c.val).nextOrder) = none) : s.descIssue c.val e n =
      s.modCore c.val (fun k => k.descIssued e n (256 * e.line + 32 * e.idx) (k.nextDesc e)) := by
  have hread := Mv.readSp_ok (m := { s := s }) (last := false) rfl hrun hsound
  have hfixed := corrected_spReadDone (s.core c.val) (256 * e.line + 32 * e.idx) 32
  have hcore := State.core_modCore_self s c.val (fun k => k.spReadDone false (256 * e.line + 32 * e.idx) 32)
  have hcheck' : (s.modCore c.val (fun k => k.spReadDone false (256 * e.line + 32 * e.idx) 32)).issueCheck c.val
      (e.slot ((s.core c.val).nextDesc e)
        ((s.modCore c.val (fun k => k.spReadDone false (256 * e.line + 32 * e.idx) 32)).core c.val).nextOrder) = none := by
    rw [hcore, hfixed.nextOrder, ← hcheck]
    apply State.issueCheck_congr rfl <;> rw [hcore]
    exacts [hfixed.mem, hfixed.seq, hfixed.hop, hfixed.cask]
  rw [Core.nextDesc] at hkind hcheck'
  rw [State.descIssue, hread]
  dsimp only
  rw [if_neg (Nat.not_le.2 hkind), State.issueAt_accepted hcheck', if_pos rfl, State.modCore_twice, State.modCore_twice]
  rw [State.modCore, State.modCore, Core.descIssued, ← hfixed.nextOrder]
  rfl

theorem exec_dwqDescIssue_ready (hstarted : (s.core c.val).dwq.started = some e) (hfree : (s.core c.val).lowestFree = some n)
    (hmay : (s.core c.val).descMay e = true) : exec (.dwqDescIssue c) s = .next (s.descIssue c.val e n) := by
  rw [exec_dwqDescIssue_eq, execDwqDescIssue, hstarted, hfree]
  exact congrArg _ (if_pos hmay)

end

/-- Token counters apart, a core is the same: so are these parts of it. -/
theorem OnlyTok.same {k j : Core} (h : OnlyTok k j) : j.slots = k.slots ∧ j.nextOrder = k.nextOrder ∧ j.sp = k.sp ∧
    j.seq.pc = k.seq.pc ∧ j.dwq = k.dwq :=
  ⟨(congrArg Core.slots h :), (congrArg Core.nextOrder h :), (congrArg Core.sp h :), (congrArg (fun i : Core => i.seq.pc) h :),
    (congrArg Core.dwq h :)⟩

/-- An entry with its next descriptor issued into slot `n`. -/
def DwqEntry.issuedInto (e : DwqEntry) (n : Nat) : DwqEntry := { e with idx := e.idx + 1, open_ := e.open_ ++ [n] }

/-- A started entry leaves the queue; slots, scratchpad and PC stay (R235). -/
theorem Core.entryLeaves_rest (k : Core) : k.entryLeaves.slots = k.slots ∧ k.entryLeaves.nextOrder = k.nextOrder ∧
    k.entryLeaves.sp = k.sp ∧ k.entryLeaves.seq.pc = k.seq.pc ∧ k.entryLeaves.dwq.started = none ∧
    k.entryLeaves.dwq.head = k.dwq.head + 1 := by
  rw [Core.entryLeaves]
  obtain ⟨hslots, horder, hsp, hpc, hdwq⟩ := (Core.dwqSettle_rest (k.modDwq (fun q => { q with
    head := q.head + 1
    started := none
    running := (match q.started with
      | some e => q.running ++ [{ e with count := e.idx, forced := q.forced e.n }]
      | none => q.running)
    fullForce := if q.fullForce = some q.head then none else q.fullForce }))).same
  exact ⟨hslots, horder, hsp, hpc, congrArg Dwq.started hdwq, congrArg Dwq.head hdwq⟩

/-- A descriptor counted: the entry goes on to the next one, or leaves the queue with its last (R235). -/
theorem Core.descDone_rest (k : Core) (e : DwqEntry) (n : Nat) : (k.descDone e n).slots = k.slots ∧
    (k.descDone e n).nextOrder = k.nextOrder ∧ (k.descDone e n).sp = k.sp ∧ (k.descDone e n).seq.pc = k.seq.pc ∧
    if e.idx + 1 < e.count then (k.descDone e n).dwq.started = some (e.issuedInto n)
    else (k.descDone e n).dwq.started = none ∧ (k.descDone e n).dwq.head = k.dwq.head + 1 := by
  rw [Core.descDone]
  split
  · exact ⟨rfl, rfl, rfl, rfl, rfl⟩
  · exact Core.entryLeaves_rest (k.modDwq (fun q => { q with started := some (e.issuedInto n) }))

/-- What the issue of a descriptor leaves of its core. -/
theorem Core.descIssued_rest (k : Core) (e : DwqEntry) (n a : Nat) (d : BitVec 256) :
    (k.descIssued e n a d).slot n = e.slot d k.nextOrder ∧ (∀ m, m ≠ n → (k.descIssued e n a d).slot m = k.slot m) ∧
    (k.descIssued e n a d).nextOrder = k.nextOrder + 1 ∧ (k.descIssued e n a d).sp.mem = k.sp.mem ∧
    (k.descIssued e n a d).seq.pc = k.seq.pc ∧
    if e.idx + 1 < e.count then (k.descIssued e n a d).dwq.started = some (e.issuedInto n)
    else (k.descIssued e n a d).dwq.started = none ∧ (k.descIssued e n a d).dwq.head = k.dwq.head + 1 := by
  have hfixed := corrected_spReadDone k a 32
  rw [Core.descIssued]
  generalize k.spReadDone false a 32 = k1 at hfixed ⊢
  obtain ⟨hslots, horder, hsp, hpc, hdwq⟩ := (k1.issued n (e.slot d k.nextOrder)).descDone_rest e n
  have hslot : ∀ m, ((k1.issued n (e.slot d k.nextOrder)).descDone e n).slot m = if m = n then e.slot d k.nextOrder else k.slot m :=
    fun m => by
      rw [Core.slot_congr hslots, ← Core.slot_congr hfixed.slots]
      exact Core.slot_setSlot k1 n m _
  refine ⟨by rw [hslot, if_pos rfl], fun m hm => by rw [hslot, if_neg hm], ?_, ?_, ?_, ?_⟩
  · rw [horder, ← hfixed.nextOrder]; rfl
  · rw [hsp, ← hfixed.mem]; rfl
  · rw [hpc, ← hfixed.seq]; rfl
  · rw [← hfixed.dwq]
    exact hdwq

/-- Settles O39: a push with room and without, the head entry started in either way, and a descriptor issued. -/
theorem deferredQueueIssuesInOrder : Obligations.DeferredQueueIssuesInOrder := by
  intro s c k q i starts
  refine ⟨fun h hroom => ?_, fun h hfull => ?_, ?_, ?_, ?_⟩
  · have hroom' : k.stepUsed.dwq.heldCount < 64 := hroom
    refine ⟨_, exec_dwqPush_ready h, onlyCore_modCore s c.val _, ?_⟩
    rw [State.core_stepDone_modCore, Core.pushWrite_room hroom']
    exact ⟨rfl, rfl, rfl, rfl⟩
  · have hfull' : 64 ≤ k.stepUsed.dwq.heldCount := hfull
    refine ⟨_, exec_dwqPush_ready h, onlyCore_modCore s c.val _, ?_⟩
    rw [State.core_stepDone_modCore, Core.pushWrite_full hfull']
    exact ⟨rfl, rfl, satAdd_16_one _, rfl, rfl⟩
  · rintro ⟨hkernel, hparking, hparked, hend, hnone, hheld, hsound, hrun⟩ hforced henable hkeep hlive hok hidle
    have hwaits := Core.entryWaits_of hkernel hparking hparked hend hnone hheld
    refine ⟨_, exec_dwqEntryStart_unforced hwaits hforced henable hkeep hlive, State.entryStart_rest hnone hsound hrun hok ?_⟩
    obtain ⟨hkind, hlong⟩ := mayStart_spReadDone s c.val k.headAddr 64 (k.headEntry false).e
    rw [hkind, hlong, Bool.or_eq_true, decide_eq_true_iff]
    exact hidle
  · rintro ⟨hkernel, hparking, hparked, hend, hnone, hheld, hsound, hrun⟩ hforced hok
    have hwaits := Core.entryWaits_of hkernel hparking hparked hend hnone hheld
    exact ⟨_, exec_dwqForcedStart_forced hwaits hforced, State.entryStart_rest hnone hsound hrun hok rfl⟩
  · intro e n hstarted hfree hmay hsound hrun d x hkind hcheck
    refine ⟨_, exec_dwqDescIssue_ready hstarted hfree hmay, ?_⟩
    rw [State.descIssue_ok hsound hrun hkind hcheck]
    refine ⟨onlyCore_setCore s c.val _, ?_⟩
    rw [State.core_modCore_self]
    exact k.descIssued_rest e n _ _

end Sys2Proof.Machine
end

section
/-! PROOF. O33: the first credit of an enabled channel. The statement is about every state, also one in which a bay's partition
number has more than the four bits of PART in a flit header (R39): such a number runs over CHAN of the credit flit. PART_SET writes
no such number. -/

namespace Sys2Proof.Machine

open Sys2Proof

/-- Bay 0 is in partition 1,024: counted from bit 23 of a flit header, where PART begins, its one bit falls on bit 33, where CHAN
begins. -/
def widePart : State := { State.reset with bays := [(0, { part := 1024 })] }

/-- HOP_CHAN of a channel that core 0 feeds, with a ring of one tile of one line at line 0. -/
def oneLineRing : Word := 2 ^ 17 + 2 ^ 24

/-- Channel 0 is enabled, and its credit flit names channel 1. -/
theorem exec_channelEnable_widePart :
    ∃ t f, exec (.channelEnable 0 0 oneLineRing) widePart = .next t ∧ t.flits = widePart.flits ++ [f] ∧ f.schan = 1 :=
  ⟨_, _, rfl, rfl, by decide +kernel⟩

/-- Refutes O33 with `widePart`: the ring is acceptable and meets no other, and the credit flit that is sent names another channel
than the one enabled. -/
theorem not_coreRegisterWriteResults : ¬ Obligations.CoreRegisterWriteResults := by
  intro h
  obtain ⟨-, -, henable, -, -⟩ := h widePart 0 0 0 oneLineRing
  obtain ⟨t, ht, -, -, -, haccepted⟩ := henable rfl
  obtain ⟨-, -, f, hsent, -, -, -, -, hchan, -, -⟩ := haccepted (by decide +kernel) (by decide +kernel)
  obtain ⟨u, f', hu, hsent', hchan'⟩ := exec_channelEnable_widePart
  cases hu.symm.trans ht
  obtain rfl : f' = f := by simpa using hsent'.symm.trans hsent
  exact absurd (hchan.symm.trans hchan') (by decide)

end Sys2Proof.Machine
end

section
/-! PROOF. O22: the element-wise VECTORs (R173 to R177). Each is one movement of rows from A, O1 and O2 into D, and an overlap with an
input leaves lines of D unspecified, no others (R175). -/

namespace Sys2Proof.Machine

open Sys2Proof

/-- Each command of the table runs its operation. -/
theorem exec_elemTable_eq : ∀ e ∈ elemTable, ∀ (r : StreamRef) (s : State),
    exec (e.cmd r) s = .next (s.kettleElem r e.kop e.ra e.o1 e.o2 e.f) := by
  simp only [elemTable, List.forall_mem_cons]
  and_intros
  case refine_2 => exact fun _ h => absurd h List.not_mem_nil
  all_goals exact fun _ _ => rfl

theorem elemTable_kop_lt : ∀ e ∈ elemTable, e.kop < 0x60 := by decide

/-! ## Lines that an overlap leaves unspecified -/

/-- Only the update kernels have O outputs (Tables 6.3, 9.2). -/
theorem kNeeds_inputs {kop : Nat} (h : kop < 0x60) : ∀ e ∈ kNeeds kop, e.1 = false := by
  unfold kNeeds
  split <;> simp at h ⊢

theorem oRegions_out_eq_nil {kop : Nat} (h : kop < 0x60) (b : KBlock) (cols : Nat) : oRegions kop b cols true = [] := by
  rw [oRegions, List.filterMap_eq_nil_iff]
  intro p hp
  rw [if_neg (by rw [kNeeds_inputs h p.1 (List.of_mem_zip hp).1]; exact Bool.false_ne_true)]

/-- An overlapping line is one of the lines of an output. -/
theorem mem_lines_of_mem_overlapLines {wrote rows l : Nat} {outs ins : List KRegion} (h : l ∈ overlapLines wrote rows outs ins) :
    ∃ o ∈ outs, l ∈ o.lines wrote := by
  rw [overlapLines, List.mem_dedup] at h
  obtain ⟨o, ho, h⟩ := List.mem_flatMap.1 h
  obtain ⟨i, -, h⟩ := List.mem_flatMap.1 h
  split at h
  · cases h
  · exact ⟨o, ho, (List.mem_filter.1 h).1⟩

/-- With D the only output, a line that an overlap leaves unspecified is one of D. -/
theorem inRows_of_overlap {kop : Nat} (hk : kop < 0x60) {o : KRegion} {b : KBlock} {cols rows a : Nat} {ins : List KRegion}
    (h : a / 256 ∈ overlapLines rows rows ([o] ++ oRegions kop b cols true) ins) : InRows o.base o.str o.bytes rows a := by
  rw [oRegions_out_eq_nil hk, List.append_nil] at h
  obtain ⟨o', ho, hl⟩ := mem_lines_of_mem_overlapLines h
  obtain rfl := List.mem_singleton.1 ho
  exact mem_regionLines hl

/-! ## The obligation -/

/-- Input A of a VECTOR that Kettle takes is on the direct path or in accessible rows. -/
theorem State.KettleReady.inputA {s : State} {c n kop bytes : Nat} (h : s.KettleReady c n kop bytes) :
    dSspace ((s.core c).slot n).desc = 3 ∨ s.RowsOk c [] ((s.core c).slot n).srcBase (dSstr ((s.core c).slot n).desc) bytes
      (dTiles ((s.core c).slot n).desc * dRows ((s.core c).slot n).desc) := by
  obtain ⟨-, -, -, -, hA, -⟩ := h
  exact (hA.imp And.right And.left).symm

theorem State.KettleReady.sound {s : State} {c n kop bytes : Nat} (h : s.KettleReady c n kop bytes) : s.SpSound c := by
  obtain ⟨-, -, -, hs, -, -⟩ := h
  exact hs

/-- Settles O22: the movement of an element-wise operation stays in the lines of D. -/
theorem elementwiseVectorsRunToTheirEnd : Obligations.ElementwiseVectorsRunToTheirEnd := by
  intro e he s r c n x d rows b hready h1 h2 hD
  have hk := elemTable_kop_lt e he
  refine ⟨_, exec_elemTable_eq e he r s, kettleRun_ok hready (fun h => absurd h (Nat.not_le_of_lt hk)) (fun t ht => ?_)
    (fun a ha => inRows_of_overlap hk ha)⟩
  exact elemMove_ok ht hready.sound e.f hready.inputA h1 h2 hD (fun _ h => h)

end Sys2Proof.Machine
end

section
/-! PROOF. O23: I64ACC, MAXEXP, LWIDEN and LNARROW (R175, R176, R185). What each writes lies in the rows of D, entry by entry for the
long tiles, and a part of an accessible run is accessible. -/

namespace Sys2Proof.Machine

open Sys2Proof

theorem exec_i64acc_eq (r : StreamRef) (s : State) : exec (.i64acc r) s = execI64acc r s := rfl
theorem exec_maxexp_eq (r : StreamRef) (s : State) : exec (.maxexp r) s = execMaxexp r s := rfl
theorem exec_lwiden_eq (r : StreamRef) (s : State) : exec (.lwiden r) s = execLwiden r s := rfl
theorem exec_lnarrow_eq (r : StreamRef) (s : State) : exec (.lnarrow r) s = execLnarrow r s := rfl

/-! ## Parts of a run -/

/-- The lines of a part of a run are lines of the run. -/
theorem linesOf_part {a n b k l : Nat} (hab : a ≤ b) (hend : b + k ≤ a + n) (h : l ∈ linesOf b k) : l ∈ linesOf a n := by
  unfold linesOf at h
  split at h
  · cases h
  · obtain ⟨i, hi, rfl⟩ := List.mem_map.1 h
    have hi' := List.mem_range.1 hi
    rw [linesOf, if_neg (by omega)]
    exact List.mem_map.2 ⟨b / 256 + i - a / 256, List.mem_range.2 (by omega), by omega⟩

/-- A part of an accessible run is accessible. -/
theorem State.runFault_part {s : State} {c a n b k : Nat} {own : List Nat} (hr : s.runFault c own a n = none) (hab : a ≤ b)
    (hend : b + k ≤ a + n) : s.runFault c own b k = none := by
  rw [State.runFault, List.findSome?_eq_none_iff] at hr ⊢
  exact fun l hl => hr l (linesOf_part hab hend hl)

/-- Row 0 of a region lies at its base. -/
theorem rowAddr_zero (base str : Nat) : rowAddr 0 base str 0 = 256 * base := by
  rw [rowAddr, unitAddr, if_pos rfl, Nat.zero_mul, Nat.add_zero]

theorem State.RowsOk.run {s : State} {c base str bytes : Nat} {own : List Nat} (h : s.RowsOk c own base str bytes 1) :
    s.runFault c own (256 * base) bytes = none := by
  have hr := h 0 Nat.one_pos
  rwa [rowAddr_zero] at hr

theorem inRows_one {base str bytes a : Nat} (h : a / 256 ∈ linesOf (256 * base) bytes) : InRows base str bytes 1 a :=
  ⟨0, Nat.one_pos, by rwa [rowAddr_zero]⟩

/-- The 40 bytes of entry `j` of a long-tile row lie in that row (R185). -/
theorem longAddr_in_row (row : Nat) {j cols : Nat} (h : j < cols) : row ≤ longAddr row j ∧ longAddr row j + 40 ≤ row + longBytes cols := by
  unfold longAddr longBytes cdiv
  omega

/-! ## The movements -/

section
variable {c n : Nat} {P : Nat → Prop} {s t : State} {x : Slot} {m : Mv} {i : Nat}

/-- A row of input A has at most as many codes as it has columns. -/
theorem Mv.readA_length_le (m : Mv) (c : Nat) (x : Slot) (i : Nat) : (m.readA c x i).2.length ≤ dCols x.desc := by
  unfold Mv.readA
  dsimp only
  split
  · exact List.length_take_le _ _
  · exact (Mv.readRow_length ..).le

theorem i64Move_good (ht : Frame c n P none s t) (hs : s.SpSound c)
    (hA : dSspace x.desc = 3 ∨
      s.RowsOk c [] x.srcBase (dSstr x.desc) (rowBytes (dSfmt x.desc) (dCols x.desc)) (dTiles x.desc * dRows x.desc))
    (hD : s.RowsOk c [] x.dstBase (dDstr x.desc) (8 * dCols x.desc) (dTiles x.desc * dRows x.desc))
    (hP : ∀ a, InRows x.dstBase (dDstr x.desc) (8 * dCols x.desc) (dTiles x.desc * dRows x.desc) a → P a) :
    Good c n P none s (t.i64Move c x) := by
  refine Good.rowsThen (fun _ => True) ⟨rfl, ht⟩ (fun m i hi hm => ⟨hm.readA hs (hA.imp_right (· i hi)), trivial⟩)
    (fun m i as hi _ hm => ?_)
  have hlen : ∀ g : Nat → Nat, ((List.range (dCols x.desc)).flatMap (fun j => natBytes 8 (g j))).length = 8 * dCols x.desc := fun g => by
    simp [List.length_flatMap, natBytes_length, Nat.mul_comm]
  refine (hm.readSp hs (hD i hi) false).1.writeSp (by rw [hlen]; exact hD i hi) (fun y h1 h2 => hP y ⟨i, hi, mem_linesOf h1 ?_⟩)
  rwa [hlen] at h2

theorem maxexpMove_good (ht : Frame c n P none s t) (hs : s.SpSound c)
    (hA : dSspace x.desc = 3 ∨
      s.RowsOk c [] x.srcBase (dSstr x.desc) (rowBytes (dSfmt x.desc) (dCols x.desc)) (dTiles x.desc * dRows x.desc))
    (hD : s.RowsOk c [] x.dstBase 0 4 1) (hP : ∀ a, InRows x.dstBase 0 4 1 a → P a) : Good c n P none s (t.maxexpMove c x) := by
  refine Good.writeSp (Good.foldl2 (a := (({ s := t } : Mv), none)) ⟨rfl, ht⟩ (fun a i hi ha => ?_)) ?_ (fun y h1 h2 => ?_)
  · exact ha.readA hs (hA.imp_right (· i (List.mem_range.1 hi)))
  · rw [natBytes_length]; exact hD.run
  · rw [natBytes_length] at h2
    exact hP y (inRows_one (mem_linesOf h1 h2))

/-- One entry of a long-tile row is read, and written where the element is finite. -/
theorem lwidenEntry_good (hm : Good c n P none s m) (hs : s.SpSound c) {row j : Nat} (hj : j < dCols x.desc)
    (hD : s.runFault c [] row (longBytes (dCols x.desc)) = none)
    (hP : ∀ a, a / 256 ∈ linesOf row (longBytes (dCols x.desc)) → P a) (v : XVal) :
    Good c n P none s (let q := m.readSp c [] false (longAddr row j) 40
      if v.isFin then q.1.writeSp c [] (longAddr row j) (natBytes 40 (ofSigned 320 (toSigned 320 (bytesNat q.2) + v.toUnits (-160))))
      else q.1.mod (fun s => s.raise c 4 { nv := true, ovf := v.isInf })) := by
  obtain ⟨hlo, hhi⟩ := longAddr_in_row row hj
  have hr : s.runFault c [] (longAddr row j) 40 = none := State.runFault_part hD hlo hhi
  have hread := (hm.readSp hs hr false).1
  dsimp only
  split
  · refine hread.writeSp (by rw [natBytes_length]; exact hr) (fun y h1 h2 => hP y (mem_linesOf (hlo.trans h1) ?_))
    rw [natBytes_length] at h2
    exact Nat.lt_of_lt_of_le h2 hhi
  · exact hread.raise 4 _

theorem lwidenMove_good (ht : Frame c n P none s t) (hs : s.SpSound c)
    (hA : dSspace x.desc = 3 ∨
      s.RowsOk c [] x.srcBase (dSstr x.desc) (rowBytes (dSfmt x.desc) (dCols x.desc)) (dTiles x.desc * dRows x.desc))
    (hD : s.RowsOk c [] x.dstBase (dDstr x.desc) (longBytes (dCols x.desc)) (dTiles x.desc * dRows x.desc))
    (hP : ∀ a, InRows x.dstBase (dDstr x.desc) (longBytes (dCols x.desc)) (dTiles x.desc * dRows x.desc) a → P a) :
    Good c n P none s (t.lwidenMove c x) := by
  refine Good.rowsThen (fun es => es.length ≤ dCols x.desc) ⟨rfl, ht⟩
    (fun m i hi hm => ⟨hm.readA hs (hA.imp_right (· i hi)), m.readA_length_le c x i⟩) (fun m i es hi hes hm => ?_)
  refine hm.foldl (fun m e he hm => lwidenEntry_good hm hs (Nat.lt_of_lt_of_le ?_ hes) (hD i hi) (fun a ha => hP a ⟨i, hi, ha⟩) _)
  exact (List.mem_zipIdx' he).1

theorem lnarrowMove_good (ht : Frame c n P none s t) (hs : s.SpSound c)
    (hA : s.RowsOk c [] x.srcBase (dSstr x.desc) (longBytes (dCols x.desc)) (dTiles x.desc * dRows x.desc))
    (hD : s.RowsOk c [] x.dstBase (dDstr x.desc) (rowBytes (dDfmt x.desc) (dCols x.desc)) (dTiles x.desc * dRows x.desc))
    (hP : ∀ a, InRows x.dstBase (dDstr x.desc) (rowBytes (dDfmt x.desc) (dCols x.desc)) (dTiles x.desc * dRows x.desc) a → P a) :
    Good c n P none s (t.lnarrowMove c x) := by
  refine Good.rowsThen (fun rs => rs.length = dCols x.desc) ⟨rfl, ht⟩
    (fun m i hi hm => ⟨(hm.readSp hs (hA i hi) _).1, by simp⟩) (fun m i rs hi hl hm => ?_)
  refine (hm.raise 4 _).writeD ?_ (fun a ha => hP a ⟨i, hi, ?_⟩)
  · rw [List.length_map, hl]; exact hD i hi
  · rwa [List.length_map, hl] at ha

end

/-- The line that MAXEXP's result takes is the only one that an overlap can leave unspecified. -/
theorem inRows_of_overlap_first {kop : Nat} (hk : kop < 0x60) {o : KRegion} (hf : o.first = true) {b : KBlock} {cols rows a : Nat}
    {ins : List KRegion} (h : a / 256 ∈ overlapLines rows rows ([o] ++ oRegions kop b cols true) ins) :
    InRows o.base 0 o.bytes 1 a := by
  rw [oRegions_out_eq_nil hk, List.append_nil] at h
  obtain ⟨o', ho, hl⟩ := mem_lines_of_mem_overlapLines h
  obtain rfl := List.mem_singleton.1 ho
  rw [KRegion.lines, if_pos hf] at hl
  obtain ⟨i, hi, hl⟩ := List.mem_flatMap.1 hl
  obtain rfl : i = 0 := by have := List.mem_range.1 hi; omega
  exact inRows_one (by rwa [Nat.zero_mul, Nat.add_zero] at hl)

/-- Settles O23, operation by operation. -/
theorem integerAndLongTileVectorsRunToTheirEnd : Obligations.IntegerAndLongTileVectorsRunToTheirEnd := by
  intro s r c n x d rows runs
  refine ⟨fun h hD => ⟨_, exec_i64acc_eq r s, kettleRun_ok h (by omega) (fun t ht => ?_) (fun a ha => ?_)⟩,
    fun h hD => ⟨_, exec_maxexp_eq r s, kettleRun_ok h (by omega) (fun t ht => ?_) (fun a ha => ?_)⟩,
    fun h hD => ⟨_, exec_lwiden_eq r s, kettleRun_ok h (by omega) (fun t ht => ?_) (fun a ha => ?_)⟩,
    fun h h3 hD => ⟨_, exec_lnarrow_eq r s, kettleRun_ok h (by omega) (fun t ht => ?_) (fun a ha => ?_)⟩⟩
  · exact i64Move_good ht h.sound h.inputA hD (fun _ h => h)
  · exact inRows_of_overlap (by decide) ha
  · exact maxexpMove_good ht h.sound h.inputA hD (fun _ h => h)
  · exact inRows_of_overlap_first (by decide) rfl ha
  · exact lwidenMove_good ht h.sound h.inputA hD (fun _ h => h)
  · exact inRows_of_overlap (by decide) ha
  · exact lnarrowMove_good ht h.sound (h.inputA.resolve_left h3) hD (fun _ h => h)
  · exact inRows_of_overlap (by decide) ha

end Sys2Proof.Machine
end

section
/-! PROOF. O27: the update kernels (R258, R259). The three are one movement, which writes w′ to D, one or two state values per element to
O3 and the BF16 weight to O4. -/

namespace Sys2Proof.Machine

open Sys2Proof

/-- The state values that an update kernel keeps per element (R258). -/
def stateCount (two : Bool) : Nat := if two then 2 else 1

/-- A stream of update kernel `kop`, which makes of an element's gradient, weight and state what `f` says. -/
def State.kettleUpdate (s : State) (r : StreamRef) (kop : Nat) (two : Bool) (f : KBlock → XVal → XVal → List XVal → Upd) : State :=
  s.kettleRun r kop outD inA (fun s x b => s.updMove r.core.val x b two (f b))

theorem exec_adamw_eq (r : StreamRef) (s : State) : exec (.adamw r) s =
    .next (s.kettleUpdate r 0x60 true (fun b g w st => adamw b g w (st.getD 0 .nan) (st.getD 1 .nan))) := rfl
theorem exec_lion_eq (r : StreamRef) (s : State) : exec (.lion r) s =
    .next (s.kettleUpdate r 0x61 false (fun b g w st => lion b g w (st.getD 0 .nan))) := rfl
theorem exec_sgdm_eq (r : StreamRef) (s : State) : exec (.sgdm r) s =
    .next (s.kettleUpdate r 0x62 false (fun b g w st => sgdm b g w (st.getD 0 .nan))) := rfl

/-! ## The outputs -/

/-- An operand block has its four O entries (Table 6.2). -/
theorem blockOf_entries (bs : List Byte) :
    (blockOf bs).o = [(blockOf bs).entry 0, (blockOf bs).entry 1, (blockOf bs).entry 2, (blockOf bs).entry 3] := rfl

/-- The O outputs of an update kernel are O3, with its state values, and O4 (Table 9.2). -/
theorem oRegions_update {kop w : Nat} (h : (kop, w) ∈ [(0x60, 2), (0x61, 1), (0x62, 1)]) (bs : List Byte) (cols : Nat) :
    oRegions kop (blockOf bs) cols true =
      [tileRegion ((blockOf bs).entry 2).line ((blockOf bs).entry 2).str ((blockOf bs).entry 2).fmt (w * cols),
       tileRegion ((blockOf bs).entry 3).line ((blockOf bs).entry 3).str ((blockOf bs).entry 3).fmt cols] := by
  rw [oRegions, blockOf_entries, Nat.mul_comm]
  simp only [List.mem_cons, List.not_mem_nil, or_false, Prod.mk.injEq] at h
  obtain ⟨rfl, rfl⟩ | ⟨rfl, rfl⟩ | ⟨rfl, rfl⟩ := h <;> simp [kNeeds]

/-! ## The movement -/

/-- The rows of each element's update: as many state values as the kernel keeps. -/
structure UpdRow (cols k : Nat) (us : List Upd) : Prop where
  length : us.length = cols
  state : ∀ u ∈ us, u.st.length = k

theorem UpdRow.state_length {cols k : Nat} {us : List Upd} (h : UpdRow cols k us) : (us.flatMap (·.st)).length = k * cols := by
  rw [List.length_flatMap, List.map_congr_left h.state, List.map_const', List.sum_replicate, h.length, Nat.nsmul_eq_mul, Nat.mul_comm]

theorem updMove_good {c n : Nat} {P : Nat → Prop} {s t : State} {x : Slot} {b : KBlock} {two : Bool} {f : XVal → XVal → List XVal → Upd}
    (hf : ∀ g w st, (f g w st).st.length = stateCount two) (ht : Frame c n P none s t) (hs : s.SpSound c)
    (hA : dSspace x.desc = 3 ∨
      s.RowsOk c [] x.srcBase (dSstr x.desc) (rowBytes (dSfmt x.desc) (dCols x.desc)) (dTiles x.desc * dRows x.desc))
    (h1 : s.ORowsOk c (b.entry 0) (dCols x.desc) (dTiles x.desc * dRows x.desc))
    (h2 : s.ORowsOk c (b.entry 1) (stateCount two * dCols x.desc) (dTiles x.desc * dRows x.desc))
    (h3 : s.ORowsOk c (b.entry 2) (stateCount two * dCols x.desc) (dTiles x.desc * dRows x.desc))
    (h4 : s.ORowsOk c (b.entry 3) (dCols x.desc) (dTiles x.desc * dRows x.desc))
    (hD : s.RowsOk c [] x.dstBase (dDstr x.desc) (rowBytes (dDfmt x.desc) (dCols x.desc)) (dTiles x.desc * dRows x.desc))
    (hP : ∀ a, InRows x.dstBase (dDstr x.desc) (rowBytes (dDfmt x.desc) (dCols x.desc)) (dTiles x.desc * dRows x.desc) a ∨
      InRows (b.entry 2).line (b.entry 2).str (rowBytes (b.entry 2).fmt (stateCount two * dCols x.desc)) (dTiles x.desc * dRows x.desc) a ∨
      InRows (b.entry 3).line (b.entry 3).str (rowBytes (b.entry 3).fmt (dCols x.desc)) (dTiles x.desc * dRows x.desc) a → P a) :
    Good c n P none s (t.updMove c x b two f) := by
  refine Good.rowsThen (UpdRow (dCols x.desc) (stateCount two)) ⟨rfl, ht⟩ (fun m i hi hm => ⟨?_, by simp, ?_⟩) (fun m i us hi hus hm => ?_)
  · exact ((hm.readA hs (hA.imp_right (· i hi))).readO hs hi h1).readO hs hi h2
  · intro u hu
    obtain ⟨j, -, rfl⟩ := List.mem_map.1 hu
    exact hf ..
  · refine Good.writeO (Good.writeO (Good.writeD (hm.mod (by apply Frame.quiet <;> rfl)) ?_ fun a ha => ?_) hi ?_ fun a ha => ?_) hi ?_
      fun a ha => ?_
    · rw [List.length_map, hus.length]; exact hD i hi
    · rw [List.length_map, hus.length] at ha; exact hP a (.inl ⟨i, hi, ha⟩)
    · rw [hus.state_length]; exact h3
    · rw [hus.state_length] at ha; exact hP a (.inr (.inl ha))
    · rw [List.length_map, hus.length]; exact h4
    · rw [List.length_map, hus.length] at ha; exact hP a (.inr (.inr ha))

/-- An update kernel that Kettle takes, with its operands in accessible lines, runs to its end. -/
theorem kettleUpdate_streamed {s : State} {r : StreamRef} {kop : Nat} {two : Bool} {f : KBlock → XVal → XVal → List XVal → Upd}
    (hkop : (kop, stateCount two) ∈ [(0x60, 2), (0x61, 1), (0x62, 1)]) (hf : ∀ b g w st, (f b g w st).st.length = stateCount two) :
    let c := r.core.val
    let n := r.slot.val
    let x := (s.core c).slot n
    let d := x.desc
    let rows := dTiles d * dRows d
    let o := ((s.core c).kblock kop x).entry
    s.KettleReady c n kop (rowBytes (dSfmt d) (dCols d)) → dSfmt d = 0 → s.ORowsOk c (o 0) (dCols d) rows →
    s.ORowsOk c (o 1) (stateCount two * dCols d) rows → s.ORowsOk c (o 2) (stateCount two * dCols d) rows →
    s.ORowsOk c (o 3) (dCols d) rows → s.RowsOk c [] x.dstBase (dDstr d) (rowBytes (dDfmt d) (dCols d)) rows →
    Streamed s (s.kettleUpdate r kop two f) c n (fun a => InRows x.dstBase (dDstr d) (rowBytes (dDfmt d) (dCols d)) rows a ∨
      InRows (o 2).line (o 2).str (rowBytes (o 2).fmt (stateCount two * dCols d)) rows a ∨
      InRows (o 3).line (o 3).str (rowBytes (o 3).fmt (dCols d)) rows a) := by
  intro c n x d rows o hready hfmt h1 h2 h3 h4 hD
  refine kettleRun_ok hready (fun _ => hfmt)
    (fun t ht => updMove_good (hf _) ht hready.sound hready.inputA h1 h2 h3 h4 hD (fun _ h => h)) (fun a ha => ?_)
  have huses : kUsesBlock kop = true := by
    simp only [List.mem_cons, List.not_mem_nil, or_false, Prod.mk.injEq] at hkop
    obtain ⟨rfl, -⟩ | ⟨rfl, -⟩ | ⟨rfl, -⟩ := hkop <;> rfl
  have hblock : (s.core c).kblock kop x = blockOf ((s.core c).spRead (256 * x.auxBase) 256) := if_pos huses
  obtain ⟨g, hg, hl⟩ := mem_lines_of_mem_overlapLines ha
  rw [hblock, oRegions_update hkop, ← hblock] at hg
  rcases List.mem_append.1 hg with hg | hg
  · obtain rfl := List.mem_singleton.1 hg
    exact .inl (mem_regionLines hl)
  · rcases List.mem_pair.1 hg with rfl | rfl
    · exact .inr (.inl (mem_regionLines hl))
    · exact .inr (.inr (mem_regionLines hl))

/-- Settles O27, kernel by kernel. -/
theorem updateKernelsRunToTheirEnd : Obligations.UpdateKernelsRunToTheirEnd := by
  intro s r
  simp only [List.forall_mem_cons]
  refine ⟨?_, ?_, ?_, fun _ h => absurd h List.not_mem_nil⟩ <;> intro hready hfmt h1 h2 h3 h4 hD
  · exact ⟨_, exec_adamw_eq r s, kettleUpdate_streamed (two := true) (by decide) (fun _ _ _ _ => rfl) hready hfmt h1 h2 h3 h4 hD⟩
  · exact ⟨_, exec_lion_eq r s, kettleUpdate_streamed (two := false) (by decide) (fun _ _ _ _ => rfl) hready hfmt h1 h2 h3 h4 hD⟩
  · exact ⟨_, exec_sgdm_eq r s, kettleUpdate_streamed (two := false) (by decide) (fun _ _ _ _ => rfl) hready hfmt h1 h2 h3 h4 hD⟩

end Sys2Proof.Machine
end

section
/-! PROOF. What Kettle keeps of its long registers as it accepts a VECTOR, reads and writes rows, and ends (R173, R174, R179). -/

namespace Sys2Proof.Machine

open Sys2Proof

/-! ## The state of Kettle after a read -/

theorem Core.vec_spFix (k : Core) (a n : Nat) : (k.spFix a n).vec = k.vec := by
  unfold Core.spFix
  dsimp only
  split <;> rfl

theorem Mv.vec_readSp (m : Mv) (c : Nat) (own : List Nat) (last : Bool) (a k : Nat) :
    ((m.readSp c own last a k).1.s.core c).vec = (m.s.core c).vec := by
  unfold Mv.readSp
  split
  · rfl
  · split
    · rw [Mv.s_halt]
    · split
      · rw [Mv.s_halt, State.core_modCore_self]
        rfl
      · rw [State.core_modCore_self]
        split
        · exact Core.vec_spFix ..
        · exact Core.vec_spFix ..

theorem Mv.vec_readA (m : Mv) (c : Nat) (x : Slot) (i : Nat) : ((m.readA c x i).1.s.core c).vec = (m.s.core c).vec := by
  unfold Mv.readA
  dsimp only
  split
  · unfold Mv.mod
    split
    · rfl
    · rw [State.core_setCore_self]
      rfl
  · exact Mv.vec_readSp ..

theorem Mv.vec_readO (m : Mv) (c : Nat) (b : KBlock) (j i n : Nat) : ((m.readO c b j i n).1.s.core c).vec = (m.s.core c).vec := by
  unfold Mv.readO
  split
  · exact Mv.vec_readSp ..
  · rfl

/-! ## The state after a write -/

/-- What a write to accessible lines leaves. -/
theorem Mv.s_writeSp {m : Mv} {c a : Nat} {own : List Nat} {bs : List Byte} (hstop : m.stop = none)
    (hr : m.s.runFault c own a bs.length = none) :
    (m.writeSp c own a bs).s = m.s.modCore c (fun k => (k.spWrite a bs).setLive (linesOf a bs.length)) := by
  unfold Mv.writeSp Mv.andThen
  rw [hstop]
  dsimp only
  rw [hr]

/-! ## Acceptance -/

/-- What Kettle works on once it has accepted the VECTOR of operation `kop` in slot `n`: a state in the frame of the stream, with the slot
and the operand block as they were captured and the direct path and the long registers as before. -/
structure KettleTaken (s u : State) (c n kop : Nat) : Prop where
  frame : ∀ P, Frame c n P none s u
  slot : (u.core c).slot n = (s.core c).kettleSlot (s.mashOf c) ((s.core c).slot n)
  path : (u.core c).path 4 = (s.core c).path 4
  lr : (u.core c).vec.lr = (s.core c).vec.lr
  block : (u.core c).kBlock kop = (s.core c).kblock kop ((s.core c).slot n)

/-- The operand block is read without a stop, and of Kettle's state it alone changes. -/
theorem readBlock_keeps {c n kop aux : Nat} {P : Nat → Prop} {s : State} {m : Mv} (h : Good c n P none s m) (hs : s.SpSound c)
    (hB : kUsesBlock kop = true → s.runFault c [] (256 * aux) 256 = none ∧ blockBad kop (blockOf ((m.s.core c).spRead (256 * aux) 256)) = false) :
    Good c n P none s (m.readBlock c kop aux) ∧ PathsKept c m.s (m.readBlock c kop aux).s ∧
    ∃ b, ((m.readBlock c kop aux).s.core c).vec = { (m.s.core c).vec with block := b } ∧
      (kUsesBlock kop = true → b = (m.s.core c).spRead (256 * aux) 256) := by
  obtain ⟨hgood, b, hstate, hb⟩ := readBlock_ok h hs hB
  refine ⟨hgood, ?_⟩
  rw [hstate]
  split
  · next huses =>
    refine ⟨(PathsKept.readSp m c [] false (256 * aux) 256).trans (PathsKept.modCore rfl rfl rfl rfl), b, ?_, hb⟩
    rw [State.core_modCore_self, Mv.vec_readSp]
  · next huses => exact ⟨PathsKept.refl .., _, rfl, fun h => absurd h huses⟩

/-- Kettle accepts a VECTOR that is ready without a stop. -/
theorem kettleStart_takes {s : State} {c n kop bytes : Nat} (h : s.KettleReady c n kop bytes) (hk : kop < 0x60) :
    ((s.accepted c n).kettleStart c n kop ((s.core c).slot n)).stop = none ∧
    KettleTaken s ((s.accepted c n).kettleStart c n kop ((s.core c).slot n)).s c n kop := by
  obtain ⟨-, -, -, hs, -, hB⟩ := h
  have hread : ((s.accepted c n).core c).spRead (256 * ((s.core c).slot n).auxBase) 256 =
      (s.core c).spRead (256 * ((s.core c).slot n).auxBase) 256 := accept_spRead ..
  have hblock : kUsesBlock kop = true → s.runFault c [] (256 * ((s.core c).slot n).auxBase) 256 = none ∧
      blockBad kop (blockOf (((s.accepted c n).core c).spRead (256 * ((s.core c).slot n).auxBase) 256)) = false := fun hu => by
    obtain ⟨hr, hbad⟩ := hB hu
    rw [Core.kblock, if_pos hu] at hbad
    exact ⟨hr, by rwa [hread]⟩
  have hkeeps := fun P => readBlock_keeps (Good.accepted s c n P none) hs hblock
  obtain ⟨-, hpaths, b, hvec, hb⟩ := hkeeps (fun _ => False)
  have hgood := fun P => (hkeeps P).1
  rw [kettleStart_eq (fun h => absurd h (Nat.not_le_of_lt hk))]
  generalize ({ s := s.accepted c n } : Mv).readBlock c kop ((s.core c).slot n).auxBase = m at hpaths hvec hgood ⊢
  have hstop : m.stop = none := (hgood (fun _ => False)).1
  have hcore := State.core_accepted s c n
  have hframe : ∀ P, Frame c n P none m.s (m.s.modCore c (fun k => k.modSlot n (fun y => { y with seed := k.vec.seed, kStep := k.vec.step }))) :=
    fun P => Frame.modCore rfl (fun j hj => by rw [Core.slot_modSlot, if_neg hj]) (by rw [Core.slot_modSlot_self]) (fun _ => rfl)
      (fun _ h => h) (fun _ _ => rfl)
  unfold Mv.mod
  rw [hstop]
  refine ⟨rfl, fun P => (hgood P).2.trans (hframe P), ?_, ?_, ?_, ?_⟩
  all_goals rw [State.core_modCore_self]
  · rw [Core.slot_modSlot_self, hvec, Core.slot_congr hpaths.slots, hcore, Core.slot_setSlot_self]
    rfl
  · exact (hpaths.path 4).trans (by rw [hcore]; rfl)
  · rw [Core.modSlot_vec, hvec, hcore]
    rfl
  · rw [Core.kBlock, Core.kblock, Core.modSlot_vec, hvec]
    split
    · next hu => rw [hb hu, hread]
    · rfl

/-- A VECTOR that Kettle takes begins at once with its rows. -/
theorem kettleRun_takes {s : State} {r : StreamRef} {kop bytes : Nat} (h : s.KettleReady r.core.val r.slot.val kop bytes) (hk : kop < 0x60) :
    let c := r.core.val
    let n := r.slot.val
    let y := (s.core c).kettleSlot (s.mashOf c) ((s.core c).slot n)
    let b := (s.core c).kblock kop ((s.core c).slot n)
    ∃ u, KettleTaken s u c n kop ∧ ∀ outs ins body, s.kettleRun r kop outs ins body = State.kettleEnd (body u y b) c n kop y b outs ins := by
  intro c n y b
  obtain ⟨hstop, htaken⟩ := kettleStart_takes h hk
  refine ⟨_, htaken, fun outs ins body => ?_⟩
  obtain ⟨hkind, hkop, haccept, -, hA, -⟩ := h
  have hqueued : ((s.core c).slot n).state = .queued := by
    simp only [Core.acceptable, Bool.and_eq_true, decide_eq_true_eq] at haccept
    exact haccept.1.1
  unfold State.kettleRun State.pathRun
  rw [if_neg (by simp [show ((s.core r.core.val).slot r.slot.val).state = .queued from hqueued]),
    State.accept_eq (by rw [hkind, hkop]; simp) haccept]
  dsimp only
  rw [hstop]
  dsimp only
  rw [htaken.slot, htaken.block]
  have hmatch : (((s.accepted c n).kettleStart c n kop ((s.core c).slot n)).s.core c).pathMismatch 4 y.desc = false := by
    rw [Core.pathMismatch, Core.pathFree, htaken.path]
    rcases hA with ⟨h3, -⟩ | ⟨-, -, hfmt⟩
    · simp [show dSspace y.desc ≠ 3 from h3]
    · have hfmt' : ((s.core r.core.val).path 4).fmt = dSfmt y.desc := hfmt
      simp [hfmt']
  have hinput : (decide (dSspace y.desc ≠ 3) ||
      (((s.accepted c n).kettleStart c n kop ((s.core c).slot n)).s.core c).pathHas 4 (dElems y.desc)) = true := by
    rw [Core.pathHas, htaken.path]
    rcases hA with ⟨h3, -⟩ | ⟨-, hlen, -⟩
    · simp [show dSspace y.desc ≠ 3 from h3]
    · simp [show dElems y.desc ≤ _ from hlen]
  rw [if_neg (by rw [hmatch]; exact Bool.false_ne_true), if_pos hinput]

/-! ## The end -/

section
variable {m : Mv} {c n kop : Nat} {x : Slot} {b : KBlock} {ins : BitVec 256 → Slot → List KRegion}

theorem overlapLines_nil (wrote rows : Nat) (ins : List KRegion) : overlapLines wrote rows [] ins = [] := rfl

/-- An operation on long registers has no output that R175 speaks of: no line is unspecified as it ends. -/
theorem kettleEnd_eq (hk : kop < 0x60) : State.kettleEnd m c n kop x b noRegion ins =
    (m.mod (fun s => s.countElems c (dElems x.desc))).finish c n := by
  unfold State.kettleEnd noRegion
  dsimp only
  rw [oRegions_out_eq_nil hk, List.nil_append, overlapLines_nil]
  rfl

/-- One whose movement has not stopped is done. -/
theorem kettleEnd_streamed {P : Nat → Prop} {s : State} (hk : kop < 0x60) (h : Good c n P none s m) :
    Streamed s (State.kettleEnd m c n kop x b noRegion ins) c n P := by
  rw [kettleEnd_eq hk]
  exact Good.finish (h.mod (Frame.quiet (f := fun k => k.modVec _) rfl rfl rfl rfl rfl))

/-- Of its core the end changes the count of elements and the slot. -/
theorem core_kettleEnd (hk : kop < 0x60) (hstop : m.stop = none) : (State.kettleEnd m c n kop x b noRegion ins).core c =
    ((m.s.core c).modVec (fun v => { v with elems := v.elems + dElems x.desc })).doneSlot n := by
  rw [kettleEnd_eq hk]
  unfold Mv.finish Mv.mod
  rw [hstop]
  dsimp only
  rw [State.doneSlot, State.core_modCore_self, State.countElems, State.core_modCore_self]

/-- One whose movement has stopped faults. -/
theorem kettleEnd_stopped (hk : kop < 0x60) {code a : Nat} (hstop : m.stop = some (code, a)) :
    State.kettleEnd m c n kop x b noRegion ins = (m.s.tilesAtFault c n m.tiles).streamFault c n code a := by
  rw [kettleEnd_eq hk]
  unfold Mv.finish Mv.mod
  rw [hstop]
  dsimp only
  rw [hstop]

end

/-- An operation on long registers whose movement does not stop, from the state in which Kettle has taken it, is done; of the core
the end changes the count of elements and the slot. -/
theorem kettleRun_core {s : State} {r : StreamRef} {kop bytes : Nat} (h : s.KettleReady r.core.val r.slot.val kop bytes) (hk : kop < 0x60)
    {P : Nat → Prop} {ins : BitVec 256 → Slot → List KRegion} {body : State → Slot → KBlock → Mv} :
    let c := r.core.val
    let n := r.slot.val
    let y := (s.core c).kettleSlot (s.mashOf c) ((s.core c).slot n)
    let b := (s.core c).kblock kop ((s.core c).slot n)
    (∀ u, KettleTaken s u c n kop → Good c n P none s (body u y b)) →
    ∃ u, KettleTaken s u c n kop ∧ Streamed s (s.kettleRun r kop noRegion ins body) c n P ∧ (s.kettleRun r kop noRegion ins body).core c =
      (((body u y b).s.core c).modVec (fun v => { v with elems := v.elems + dElems y.desc })).doneSlot n := by
  intro c n y b hbody
  obtain ⟨u, htaken, hrun⟩ := kettleRun_takes h hk
  have hgood := hbody u htaken
  rw [hrun]
  exact ⟨u, htaken, kettleEnd_streamed hk hgood, core_kettleEnd hk hgood.1⟩

end Sys2Proof.Machine
end

section
/-! PROOF. O24 and O25: LRCLR, LRSTORE and LRREAD (R179, R182, R183). -/

namespace Sys2Proof.Machine

open Sys2Proof

theorem exec_lrclr_eq (r : StreamRef) (s : State) : exec (.lrclr r) s = execLrclr r s := rfl
theorem exec_lrstore_eq (r : StreamRef) (s : State) : exec (.lrstore r) s = execLrstore r s := rfl
theorem exec_lrread_eq (r : StreamRef) (s : State) : exec (.lrread r) s = execLrread r s := rfl

/-! ## Long registers -/

@[simp] theorem Core.lr_setLr (k : Core) (l j : Nat) (x : LongReg) : (k.setLr l x).lr j = if j = l then x else k.lr j :=
  FMap.get_set ..

theorem Core.lr_congr {k j : Core} (h : k.vec.lr = j.vec.lr) (l : Nat) : k.lr l = j.lr l := by rw [Core.lr, Core.lr, h]

theorem KettleTaken.lr_eq {s u : State} {c n kop : Nat} (h : KettleTaken s u c n kop) (l : Nat) : (u.core c).lr l = (s.core c).lr l :=
  Core.lr_congr h.lr l

/-- An image has 64 bytes (Table 6.5). -/
theorem lrImage_length (x : LongReg) : (lrImage x).length = 64 := by simp [lrImage, natBytes_length]

/-! ## The three movements -/

/-- The movement of LRCLR. -/
def State.lrclrMove (s : State) (c : Nat) (x : Slot) (b : KBlock) : Mv :=
  { s := s.modCore c (fun k => k.setLr (vLreg x.desc) { v := 0, e := b.lre, st := 0, trunc := false, count := 0 }) }
/-- The movement of LRSTORE. -/
def State.lrstoreMove (s : State) (c : Nat) (x : Slot) : Mv :=
  ({ s := s } : Mv).writeSp c [] (256 * x.dstBase) (lrImage ((s.core c).lr (vLreg x.desc)))
/-- The movement of LRREAD. -/
def State.lrreadMove (s : State) (c : Nat) (x : Slot) : Mv :=
  ({ s := s.raise c 4 (f32 ((s.core c).lr (vLreg x.desc)).val).2 } : Mv).writeD c x 0 [(f32 ((s.core c).lr (vLreg x.desc)).val).1]

theorem execLrclr_eq (r : StreamRef) (s : State) : execLrclr r s =
    .next (s.kettleRun r 0x40 noRegion noRegion (fun s x b => s.lrclrMove r.core.val x b)) := rfl
theorem execLrstore_eq (r : StreamRef) (s : State) : execLrstore r s =
    .next (s.kettleRun r 0x45 noRegion noRegion (fun s x _ => s.lrstoreMove r.core.val x)) := rfl

section
variable {c n l : Nat} {P : Nat → Prop} {s u : State} {x : Slot}

theorem lrclrMove_good (hu : Frame c n P none s u) (b : KBlock) : Good c n P none s (u.lrclrMove c x b) :=
  ⟨rfl, hu.trans (Frame.quiet (f := fun k => k.setLr _ _) rfl rfl rfl rfl rfl)⟩

theorem lrstoreMove_good (hu : Frame c n (InRows x.dstBase 0 64 1) none s u) (hD : s.RowsOk c [] x.dstBase 0 64 1) :
    Good c n (InRows x.dstBase 0 64 1) none s (u.lrstoreMove c x) := by
  refine Good.writeSp ⟨rfl, hu⟩ ?_ (fun y h1 h2 => ?_)
  · rw [lrImage_length]; exact hD.run
  · rw [lrImage_length] at h2
    exact inRows_one (mem_linesOf h1 h2)

theorem core_lrstoreMove (hr : u.runFault c [] (256 * x.dstBase) 64 = none) : (u.lrstoreMove c x).s.core c =
    ((u.core c).spWrite (256 * x.dstBase) (lrImage ((u.core c).lr (vLreg x.desc)))).setLive (linesOf (256 * x.dstBase) 64) := by
  rw [← lrImage_length ((u.core c).lr (vLreg x.desc))] at hr
  rw [State.lrstoreMove, Mv.s_writeSp rfl hr, State.core_modCore_self, lrImage_length]

end

/-- Settles O24: LRCLR changes its register alone, LRSTORE writes the image of its register. -/
theorem longRegisterClearAndStoreResults : Obligations.LongRegisterClearAndStoreResults := by
  intro s r c n k x
  refine ⟨fun h => ?_, fun h hD => ?_⟩
  · obtain ⟨u, htaken, hdone, hcore⟩ := kettleRun_core h (by decide) (P := fun _ => False) (ins := noRegion)
      (body := fun s x b => s.lrclrMove c x b) (fun u hu => lrclrMove_good (hu.frame _) _)
    refine ⟨_, (exec_lrclr_eq r s).trans (execLrclr_eq r s), hdone, fun l => ?_⟩
    refine (congrArg (fun j : Core => j.lr l) hcore).trans ?_
    rw [State.lrclrMove, State.core_modCore_self]
    refine (Core.lr_setLr (u.core c) (vLreg x.desc) l _).trans ?_
    rw [htaken.lr_eq]
  · obtain ⟨u, htaken, hdone, hcore⟩ := kettleRun_core h (by decide) (P := InRows x.dstBase 0 64 1) (ins := noRegion)
      (body := fun s x _ => s.lrstoreMove c x) (fun u hu => lrstoreMove_good (hu.frame _) hD)
    have hmove := core_lrstoreMove (u := u) (x := (s.core c).kettleSlot (s.mashOf c) x)
      (((htaken.frame (fun _ => False)).runFault [] _ 64).trans hD.run)
    rw [hmove, htaken.lr_eq] at hcore
    refine ⟨_, (exec_lrstore_eq r s).trans (execLrstore_eq r s), hdone, fun l => ?_, ?_⟩
    · refine (congrArg (fun j : Core => j.lr l) hcore).trans ?_
      exact htaken.lr_eq l
    · have hread := Core.spRead_of_spWrite (congrArg (fun j : Core => j.sp.mem) hcore :)
      rw [lrImage_length] at hread
      exact hread

/-! ## LRREAD -/

theorem execLrread_eq (r : StreamRef) (s : State) : execLrread r s =
    .next (s.kettleRun r 0x46 noRegion noRegion (fun s x _ => s.lrreadMove r.core.val x)) := rfl

theorem bytesNat_natBytes (n v : Nat) : bytesNat (natBytes n v) = v % 256 ^ n := by
  induction n generalizing v with
  | zero => simp [natBytes, bytesNat, Nat.mod_one]
  | succ n ih => rw [natBytes, bytesNat, ih, BitVec.toNat_ofNat, show 256 ^ (n + 1) = 256 * 256 ^ n from Nat.pow_succ', Nat.mod_mul]

theorem f32Row_length (v : Nat) (old : List Byte) : (bytesOf 0 [v] old).length = 4 := by
  rw [bytesOf_length, List.length_singleton]
  rfl

/-- One FP32 code fills its four bytes, whatever they held. -/
theorem bytesNat_f32Row (v : Nat) (old : List Byte) : bytesNat (bytesOf 0 [v] old) = v % 2 ^ 32 := by
  have hbits : fmtBits 0 = 32 := rfl
  have hrow : rowBytes 0 1 = 4 := rfl
  simp only [bytesOf, packCodes, List.length_singleton, hbits, hrow, bytesNat_natBytes]
  omega

/-- An FP32 code has 32 bits (Table 4.1). -/
theorem f32_lt (v : XVal) : (f32 v).1 < 2 ^ 32 := by
  have hsign : ∀ neg, fmtF32.signBit neg ≤ 2 ^ 31 := by decide
  have hmax : fmtF32.maxCode = 2 ^ 31 - 2 ^ 23 - 1 := rfl
  unfold f32 FloatFmt.narrow
  cases v with
  | nan => decide
  | inf neg => cases neg <;> decide
  | fin neg m e =>
    have hs := hsign neg
    dsimp only
    split
    · omega
    · split
      · cases neg <;> decide
      · dsimp only
        omega

/-- A flag that is set stays set (R128). -/
theorem orFlag_bit (w : Word) (i stn j : Nat) (on : Bool) (h : w.getLsbD j = true) : (orFlag w i stn on).getLsbD j = true := by
  unfold orFlag
  split
  · simp [h]
  · exact h

theorem Core.raise_nv (k : Core) (stn : Nat) (f : Flags) (h : f.nv = true) : (k.raise stn f).fpflags.getLsbD 0 = true := by
  have hnv : (orFlag k.fpflags 0 stn f.nv).getLsbD 0 = true := by simp [orFlag, h]
  exact orFlag_bit _ _ _ _ _ (orFlag_bit _ _ _ _ _ (orFlag_bit _ _ _ _ _ hnv))

/-- The code that LRREAD writes for each STATE (R183). -/
theorem f32_lrVal (y : LongReg) : (f32 y.val).1 =
    match y.st with
    | 0 => (f32 (.ofDy y.v y.e)).1 | 1 => 0x7F800000 | 2 => 0xFF800000 | _ => 0x7FC00000 := by
  obtain ⟨v, e, st, trunc, count⟩ := y
  match st with
  | 0 | 1 | 2 | _ + 3 => rfl

theorem f32_lrVal_nv {y : LongReg} (h : 3 ≤ y.st) : (f32 y.val).2.nv = true := by
  unfold LongReg.val
  split
  · omega
  · omega
  · omega
  · rfl

section
variable {c n : Nat} {P : Nat → Prop} {s u : State} {x : Slot}

/-- The state in which LRREAD writes: the flags of its rounding are raised. -/
def State.lrRounded (s : State) (c : Nat) (x : Slot) : State := s.raise c 4 (f32 ((s.core c).lr (vLreg x.desc)).val).2

theorem lrRounded_frame (hu : Frame c n P none s u) : Frame c n P none s (u.lrRounded c x) :=
  hu.trans (Frame.quiet (f := fun k => k.raise 4 _) rfl rfl rfl rfl rfl)

/-- The first row of D lies at its base. -/
theorem Mv.writeD_zero (m : Mv) (c : Nat) (x : Slot) (cs : List Nat) : m.writeD c x 0 cs = m.writeSp c [] (256 * x.dstBase)
    (bytesOf (dDfmt x.desc) cs ((m.s.core c).spRead (256 * x.dstBase) (rowBytes (dDfmt x.desc) cs.length))) := by
  rw [Mv.writeD, rowAddr_zero]
  rfl

/-- LRREAD writes the four bytes of its code at the base of D. -/
theorem lrreadMove_eq (hfmt : dDfmt x.desc = 0) : ∃ old, u.lrreadMove c x =
    ({ s := u.lrRounded c x } : Mv).writeSp c [] (256 * x.dstBase) (bytesOf 0 [(f32 ((u.core c).lr (vLreg x.desc)).val).1] old) := by
  rw [State.lrreadMove, Mv.writeD_zero, hfmt, State.lrRounded]
  exact ⟨_, rfl⟩

theorem lrreadMove_good (hu : Frame c n (InRows x.dstBase 0 4 1) none s u) (hfmt : dDfmt x.desc = 0)
    (hD : s.RowsOk c [] x.dstBase 0 4 1) : Good c n (InRows x.dstBase 0 4 1) none s (u.lrreadMove c x) := by
  obtain ⟨old, hmove⟩ := lrreadMove_eq (u := u) (c := c) hfmt
  rw [hmove]
  refine Good.writeSp ⟨rfl, lrRounded_frame hu⟩ ?_ (fun y h1 h2 => ?_)
  · rw [f32Row_length]; exact hD.run
  · rw [f32Row_length] at h2
    exact inRows_one (mem_linesOf h1 h2)

theorem core_lrreadMove (hr : u.runFault c [] (256 * x.dstBase) 4 = none) (hfmt : dDfmt x.desc = 0) :
    ∃ old, (u.lrreadMove c x).s.core c =
      (((u.core c).raise 4 (f32 ((u.core c).lr (vLreg x.desc)).val).2).spWrite (256 * x.dstBase)
        (bytesOf 0 [(f32 ((u.core c).lr (vLreg x.desc)).val).1] old)).setLive (linesOf (256 * x.dstBase) 4) := by
  have hrun : (u.lrRounded c x).runFault c [] (256 * x.dstBase) 4 = none :=
    ((lrRounded_frame (n := 0) (P := fun _ => False) (Frame.refl ..)).runFault [] _ 4).trans hr
  obtain ⟨old, hmove⟩ := lrreadMove_eq (u := u) (c := c) hfmt
  refine ⟨old, ?_⟩
  rw [hmove, Mv.s_writeSp rfl (by rw [f32Row_length]; exact hrun), State.core_modCore_self, f32Row_length, State.lrRounded, State.raise,
    State.core_modCore_self]

end

/-- Settles O25: the value is rounded, NV raised for NaN, and its code written to the four bytes at D. -/
theorem lrreadWritesOneRoundedValue : Obligations.LrreadWritesOneRoundedValue := by
  intro s r c n k x y h hfmt hD
  obtain ⟨u, htaken, hdone, hcore⟩ := kettleRun_core h (by decide) (P := InRows x.dstBase 0 4 1) (ins := noRegion)
    (body := fun s x _ => s.lrreadMove c x) (fun u hu => lrreadMove_good (hu.frame _) hfmt hD)
  obtain ⟨old, hmove⟩ := core_lrreadMove (u := u) (x := (s.core c).kettleSlot (s.mashOf c) x)
    (((htaken.frame (fun _ => False)).runFault [] _ 4).trans hD.run) hfmt
  rw [hmove, htaken.lr_eq] at hcore
  refine ⟨_, (exec_lrread_eq r s).trans (execLrread_eq r s), hdone, fun l => ?_, ?_, fun hnan => ?_⟩
  · refine (congrArg (fun j : Core => j.lr l) hcore).trans ?_
    exact htaken.lr_eq l
  · have hread := Core.spRead_of_spWrite (congrArg (fun j : Core => j.sp.mem) hcore :)
    rw [f32Row_length] at hread
    refine (congrArg bytesNat hread).trans ?_
    rw [bytesNat_f32Row, Nat.mod_eq_of_lt (f32_lt _)]
    exact f32_lrVal y
  · rw [hcore]
    exact Core.raise_nv _ 4 _ (f32_lrVal_nv hnan)

end Sys2Proof.Machine
end

section
/-! PROOF. O26: SUM, SUMSQ, DOT and LRADD (R180 to R182). A reduction counts one contribution for each element, LRADD what each image
counts, and neither reads nor changes another register; at 2^31 the first contribution of a SUM faults. -/

namespace Sys2Proof.Machine

open Sys2Proof

theorem exec_sum_eq (r : StreamRef) (s : State) : exec (.sum r) s =
    .next (s.kettleRun r 0x41 noRegion inA (fun s x b => s.lrMove r.core.val x b false (fun a _ => a))) := rfl
theorem exec_sumsq_eq (r : StreamRef) (s : State) : exec (.sumsq r) s =
    .next (s.kettleRun r 0x42 noRegion inA (fun s x b => s.lrMove r.core.val x b false (fun a _ => a.mul a))) := rfl
theorem exec_dot_eq (r : StreamRef) (s : State) : exec (.dot r) s =
    .next (s.kettleRun r 0x43 noRegion inA (fun s x b => s.lrMove r.core.val x b true (fun a y => a.mul y))) := rfl
theorem exec_lradd_eq (r : StreamRef) (s : State) : exec (.lradd r) s =
    .next (s.kettleRun r 0x44 noRegion inA (fun s x _ => s.lraddMove r.core.val x)) := rfl

/-- A fold over the numbers below `k`, by what holds after each of them. -/
theorem foldl_range_invariant {α : Type} {f : α → Nat → α} (p : Nat → α → Prop) {a : α} (k : Nat) (h0 : p 0 a)
    (hstep : ∀ i b, i < k → p i b → p (i + 1) (f b i)) : p k ((List.range k).foldl f a) := by
  induction k with
  | zero => exact h0
  | succ k ih =>
    rw [List.range_succ, List.foldl_append, List.foldl_cons, List.foldl_nil]
    exact hstep k _ (Nat.lt_succ_self k) (ih (fun i b hi => hstep i b (Nat.lt_succ_of_lt hi)))

/-! ## One contribution -/

/-- A contribution counts one and keeps E (R180). -/
theorem LongReg.take_count (x : LongReg) (v : XVal) : (x.take v).1.count = x.count + 1 ∧ (x.take v).1.e = x.e := by
  unfold LongReg.take
  cases v with
  | nan => exact ⟨rfl, rfl⟩
  | inf n => exact ⟨rfl, rfl⟩
  | fin n m e =>
    dsimp only
    split <;> exact ⟨rfl, rfl⟩

theorem lrParse_scale {bs : List Byte} {y : LongReg} (h : lrParse bs = some y) : toSigned 16 (bytesNat ((bs.drop 40).take 2)) = y.e := by
  unfold lrParse at h
  dsimp only at h
  split at h
  · cases h
  · cases h; rfl

/-- A well-formed image with the register's E is added and what it counts is counted (R182). -/
theorem LongReg.addImage_count {x y : LongReg} {bs : List Byte} (hy : lrParse bs = some y) (he : y.e = x.e)
    (hc : x.count + y.count ≤ 2 ^ 31) :
    (x.addImage bs).2.2 = none ∧ (x.addImage bs).1.count = x.count + y.count ∧ (x.addImage bs).1.e = x.e := by
  unfold LongReg.addImage
  rw [if_neg (by rw [lrParse_scale hy]; exact not_not_intro he), hy]
  dsimp only
  rw [if_neg (Nat.not_lt_of_le hc)]
  exact ⟨rfl, rfl, rfl⟩

/-! ## Counted contributions -/

/-- A movement that has written nothing and has counted `k` in register `l`, of which it keeps E; the other registers are as in `s`. -/
structure LrCounted (s : State) (c n l k : Nat) (m : Mv) : Prop where
  good : Good c n (fun _ => False) none s m
  count : ((m.s.core c).lr l).count = ((s.core c).lr l).count + k
  scale : ((m.s.core c).lr l).e = ((s.core c).lr l).e
  other : ∀ j, j ≠ l → (m.s.core c).lr j = (s.core c).lr j

section
variable {s u : State} {c n l k j kop : Nat} {m m' : Mv} {x : Slot} {b : KBlock} {i : Nat}

theorem KettleTaken.counted (h : KettleTaken s u c n kop) : LrCounted s c n l 0 { s := u } where
  good := ⟨rfl, h.frame _⟩
  count := by rw [h.lr_eq]; rfl
  scale := by rw [h.lr_eq]
  other j _ := h.lr_eq j

/-- What leaves the long registers alone counts nothing. -/
theorem LrCounted.of_lr (h : LrCounted s c n l k m) (hgood : Good c n (fun _ => False) none s m')
    (hlr : (m'.s.core c).vec.lr = (m.s.core c).vec.lr) : LrCounted s c n l k m' where
  good := hgood
  count := by rw [Core.lr_congr hlr]; exact h.count
  scale := by rw [Core.lr_congr hlr]; exact h.scale
  other j hj := by rw [Core.lr_congr hlr]; exact h.other j hj

/-- The register takes a value that counts `j` more. -/
theorem LrCounted.setLr (h : LrCounted s c n l k m) {y : LongReg} (hcount : y.count = ((m.s.core c).lr l).count + j)
    (hscale : y.e = ((m.s.core c).lr l).e) (f : Flags) :
    LrCounted s c n l (k + j) (m.mod (fun s => s.modCore c (fun k => (k.setLr l y).raise 4 f))) := by
  have hgood := h.good.mod (f := fun s => s.modCore c (fun k => (k.setLr l y).raise 4 f))
    (Frame.quiet (f := fun k => (k.setLr l y).raise 4 f) rfl rfl rfl rfl rfl)
  have hstate : (m.mod (fun s => s.modCore c (fun k => (k.setLr l y).raise 4 f))).s.core c = ((m.s.core c).setLr l y).raise 4 f := by
    unfold Mv.mod
    rw [h.good.1, State.core_modCore_self]
  have hlr : ∀ i, ((m.mod (fun s => s.modCore c (fun k => (k.setLr l y).raise 4 f))).s.core c).lr i = if i = l then y else (m.s.core c).lr i :=
    fun i => by rw [hstate]; exact Core.lr_setLr ..
  refine ⟨hgood, ?_, ?_, fun i hi => ?_⟩
  · rw [hlr, if_pos rfl, hcount, h.count, Nat.add_assoc]
  · rw [hlr, if_pos rfl, hscale, h.scale]
  · rw [hlr, if_neg hi, h.other i hi]

/-- The count of reductions that truncated is no register. -/
theorem LrCounted.truncated (h : LrCounted s c n l k m) :
    LrCounted s c n l k { m with s := m.s.modCore c (fun k => k.modVec (fun v => { v with lrTrunc := satAdd 16 v.lrTrunc 1 })) } := by
  refine h.of_lr ⟨h.good.1, h.good.2.trans (Frame.quiet (f := fun k => k.modVec _) rfl rfl rfl rfl rfl)⟩ ?_
  rw [State.core_modCore_self]
  rfl

/-! ## SUM, SUMSQ and DOT -/

/-- The contribution of element `e` to register `l`: taken, or refused when the register has counted 2^31 (R180, R181). -/
def lrOne (c l e : Nat) (v : XVal) (a : Mv × Bool) : Mv × Bool :=
  match a.1.stop with
  | some _ => a
  | none =>
    let x := (a.1.s.core c).lr l
    if 2 ^ 31 ≤ x.count then (a.1.halt codeLrLength e, a.2)
    else (a.1.mod (fun s => s.modCore c (fun k => (k.setLr l (x.take v).1).raise 4 (x.take v).2.1)), a.2 || (x.take v).2.2)

/-- Row `i` of a reduction's operands. -/
def Mv.lrRead (m : Mv) (c : Nat) (x : Slot) (b : KBlock) (two : Bool) (i : Nat) : Mv × List Nat :=
  if two then (m.readA c x i).1.readO c b 0 i (dCols x.desc) else ((m.readA c x i).1, [])

/-- Row `i` of a reduction: it is read, and its elements contribute in order. -/
def lrRow (c : Nat) (x : Slot) (b : KBlock) (two : Bool) (f : XVal → XVal → XVal) (a : Mv × Bool) (i : Nat) : Mv × Bool :=
  (List.range (dCols x.desc)).foldl (fun a' j => lrOne c (vLreg x.desc) (i * dCols x.desc + j)
    (f (elemVal (dSfmt x.desc) ((a.1.readA c x i).2.getD j 0)) (elemVal (oFmt b 0) ((a.1.lrRead c x b two i).2.getD j 0))) a')
    ((a.1.lrRead c x b two i).1, a.2)

/-- All rows of a reduction, and whether a contribution was truncated. -/
def State.lrRows (s : State) (c : Nat) (x : Slot) (b : KBlock) (two : Bool) (f : XVal → XVal → XVal) : Mv × Bool :=
  (List.range (dTiles x.desc * dRows x.desc)).foldl (lrRow c x b two f) ({ s := s }, false)

theorem lrMove_eq (s : State) (c : Nat) (x : Slot) (b : KBlock) (two : Bool) (f : XVal → XVal → XVal) : s.lrMove c x b two f =
    if (s.lrRows c x b two f).2 then
      { (s.lrRows c x b two f).1 with s := (s.lrRows c x b two f).1.s.modCore c (fun k =>
          k.modVec (fun v => { v with lrTrunc := satAdd 16 v.lrTrunc 1 })) }
    else (s.lrRows c x b two f).1 := rfl

/-- Below the limit a contribution is counted. -/
theorem LrCounted.one {a : Mv × Bool} (h : LrCounted s c n l k a.1) (hroom : ((s.core c).lr l).count + k < 2 ^ 31) (e : Nat) (v : XVal) :
    LrCounted s c n l (k + 1) (lrOne c l e v a).1 := by
  have hbelow : ((a.1.s.core c).lr l).count < 2 ^ 31 := h.count ▸ hroom
  obtain ⟨htake, hscale⟩ := ((a.1.s.core c).lr l).take_count v
  unfold lrOne
  rw [h.good.1]
  dsimp only
  rw [if_neg (Nat.not_le_of_lt hbelow)]
  exact h.setLr htake hscale _

/-- A row of A, and for DOT one of O1, read. -/
theorem LrCounted.readRow (h : LrCounted s c n l k m) (hs : s.SpSound c)
    (hA : dSspace x.desc = 3 ∨ s.runFault c [] (rowAddr 0 x.srcBase (dSstr x.desc) i) (rowBytes (dSfmt x.desc) (dCols x.desc)) = none)
    {rows : Nat} (hi : i < rows) {two : Bool} (hO : two = true → s.ORowsOk c (b.entry 0) (dCols x.desc) rows) :
    LrCounted s c n l k (m.lrRead c x b two i).1 := by
  have hread := h.of_lr (h.good.readA hs hA) (congrArg Vec.lr (m.vec_readA c x i))
  unfold Mv.lrRead
  split
  · next h2 => exact hread.of_lr (hread.good.readO hs hi (hO h2)) (congrArg Vec.lr (Mv.vec_readO ..))
  · exact hread

/-- A reduction counts every element while COUNT stays within 2^31 (R180, R181). -/
theorem lrMove_counted (hu : LrCounted s c n (vLreg x.desc) 0 { s := u }) (hs : s.SpSound c)
    (hA : dSspace x.desc = 3 ∨
      s.RowsOk c [] x.srcBase (dSstr x.desc) (rowBytes (dSfmt x.desc) (dCols x.desc)) (dTiles x.desc * dRows x.desc))
    {two : Bool} (hO : two = true → s.ORowsOk c (b.entry 0) (dCols x.desc) (dTiles x.desc * dRows x.desc)) (f : XVal → XVal → XVal)
    (hlen : ((s.core c).lr (vLreg x.desc)).count + dTiles x.desc * dRows x.desc * dCols x.desc ≤ 2 ^ 31) :
    LrCounted s c n (vLreg x.desc) (dTiles x.desc * dRows x.desc * dCols x.desc) (u.lrMove c x b two f) := by
  have hrows : LrCounted s c n (vLreg x.desc) (dTiles x.desc * dRows x.desc * dCols x.desc) (u.lrRows c x b two f).1 := by
    refine foldl_range_invariant (fun i (a : Mv × Bool) => LrCounted s c n (vLreg x.desc) (i * dCols x.desc) a.1) _
      (by rw [Nat.zero_mul]; exact hu) (fun i a hi ha => ?_)
    have hroom : i * dCols x.desc + dCols x.desc ≤ dTiles x.desc * dRows x.desc * dCols x.desc := by
      rw [← Nat.succ_mul]
      exact Nat.mul_le_mul_right _ hi
    rw [Nat.succ_mul]
    exact foldl_range_invariant (fun j (a : Mv × Bool) => LrCounted s c n (vLreg x.desc) (i * dCols x.desc + j) a.1) _
      (ha.readRow hs (hA.imp_right (· i hi)) hi hO) (fun j a hj ha => ha.one (by omega) _ _)
  rw [lrMove_eq]
  split
  · exact hrows.truncated
  · exact hrows

/-! ## LRADD -/

/-- The image of row `i` is read and added to the register. -/
def lraddRow (c : Nat) (x : Slot) (m : Mv) (i : Nat) : Mv :=
  let q := m.readSp c [] (dLast x.desc) (rowAddr 0 x.srcBase (dSstr x.desc) i) 64
  q.1.andThen (fun s =>
    let r := ((s.core c).lr (vLreg x.desc)).addImage q.2
    match r.2.2 with
    | some code => { s := s, stop := some (code, i) }
    | none => { s := s.modCore c (fun k => (k.setLr (vLreg x.desc) r.1).raise 4 r.2.1) })

/-- All rows of an LRADD. -/
def State.lraddRows (s : State) (c : Nat) (x : Slot) : Mv :=
  (List.range (dTiles x.desc * dRows x.desc)).foldl (lraddRow c x) { s := s }

theorem lraddMove_eq (s : State) (c : Nat) (x : Slot) : s.lraddMove c x =
    if !((s.core c).lr (vLreg x.desc)).trunc && (((s.lraddRows c x).s.core c).lr (vLreg x.desc)).trunc then
      { s.lraddRows c x with s := (s.lraddRows c x).s.modCore c (fun k => k.modVec (fun v => { v with lrTrunc := satAdd 16 v.lrTrunc 1 })) }
    else s.lraddRows c x := rfl

/-- The image in row `i` of A (R182). -/
def State.imageRow (s : State) (c : Nat) (x : Slot) (i : Nat) : Option LongReg :=
  lrParse ((s.core c).spRead (rowAddr 0 x.srcBase (dSstr x.desc) i) 64)

/-- A movement that has written nothing finds the bytes as they stood. -/
theorem Frame.spRead {Q : Option (Nat → Prop)} (h : Frame c n (fun _ => False) Q s u) (a k : Nat) :
    (u.core c).spRead a k = (s.core c).spRead a k := by
  simp only [Core.spRead, memRead, h.mem _ id]

/-- A well-formed image of the register's E, within the limit, is added. -/
theorem LrCounted.addRow (h : LrCounted s c n (vLreg x.desc) k m) (hs : s.SpSound c)
    (hr : s.runFault c [] (rowAddr 0 x.srcBase (dSstr x.desc) i) 64 = none) {y : LongReg} (hy : s.imageRow c x i = some y)
    (he : y.e = ((s.core c).lr (vLreg x.desc)).e) (hroom : ((s.core c).lr (vLreg x.desc)).count + k + y.count ≤ 2 ^ 31) :
    LrCounted s c n (vLreg x.desc) (k + y.count) (lraddRow c x m i) := by
  obtain ⟨hgood, hbytes⟩ := h.good.readSp hs hr (dLast x.desc)
  have hread := h.of_lr hgood (congrArg Vec.lr (Mv.vec_readSp ..))
  unfold lraddRow
  dsimp only
  rw [hbytes, h.good.2.spRead]
  generalize (m.readSp c [] (dLast x.desc) (rowAddr 0 x.srcBase (dSstr x.desc) i) 64).1 = m' at hread ⊢
  obtain ⟨hno, hcount, hscale⟩ := LongReg.addImage_count hy (he.trans hread.scale.symm) (by rw [hread.count]; exact hroom)
  have hset := hread.setLr hcount hscale (((m'.s.core c).lr (vLreg x.desc)).addImage
    ((s.core c).spRead (rowAddr 0 x.srcBase (dSstr x.desc) i) 64)).2.1
  unfold Mv.mod at hset
  rw [hread.good.1] at hset
  unfold Mv.andThen
  rw [hread.good.1]
  dsimp only
  rw [hno]
  exact hset.of_lr ⟨rfl, hset.good.2⟩ rfl

/-- What the images of the first `k` rows count. -/
def State.imageCounts (s : State) (c : Nat) (x : Slot) (k : Nat) : Nat :=
  ((List.range k).map (fun i => match s.imageRow c x i with | some y => y.count | none => 0)).sum

theorem imageCounts_succ {y : LongReg} (hy : s.imageRow c x k = some y) : s.imageCounts c x (k + 1) = s.imageCounts c x k + y.count := by
  rw [State.imageCounts, List.range_succ, List.map_append, List.sum_append, List.map_singleton, List.sum_singleton, hy]
  rfl

theorem imageCounts_mono {j k : Nat} (h : j ≤ k) : s.imageCounts c x j ≤ s.imageCounts c x k := by
  obtain ⟨i, rfl⟩ := Nat.exists_eq_add_of_le h
  rw [State.imageCounts, State.imageCounts, List.range_add, List.map_append, List.sum_append]
  exact Nat.le_add_right _ _

/-- LRADD of well-formed images of the register's E counts what they count (R182). -/
theorem lraddMove_counted (hu : LrCounted s c n (vLreg x.desc) 0 { s := u }) (hs : s.SpSound c)
    (hA : s.RowsOk c [] x.srcBase (dSstr x.desc) 64 (dTiles x.desc * dRows x.desc))
    (himages : ∀ i, i < dTiles x.desc * dRows x.desc → ∃ y, s.imageRow c x i = some y ∧ y.e = ((s.core c).lr (vLreg x.desc)).e)
    (hlen : ((s.core c).lr (vLreg x.desc)).count + s.imageCounts c x (dTiles x.desc * dRows x.desc) ≤ 2 ^ 31) :
    LrCounted s c n (vLreg x.desc) (s.imageCounts c x (dTiles x.desc * dRows x.desc)) (u.lraddMove c x) := by
  have hrows : LrCounted s c n (vLreg x.desc) (s.imageCounts c x (dTiles x.desc * dRows x.desc)) (u.lraddRows c x) := by
    refine foldl_range_invariant (fun i m => LrCounted s c n (vLreg x.desc) (s.imageCounts c x i) m) _ hu (fun i m hi hm => ?_)
    obtain ⟨y, hy, he⟩ := himages i hi
    have hsum := imageCounts_succ hy
    have hmono := imageCounts_mono (s := s) (c := c) (x := x) (Nat.succ_le_of_lt hi)
    rw [Nat.succ_eq_add_one] at hmono
    rw [hsum]
    exact hm.addRow hs (hA i hi) hy he (by omega)
  rw [lraddMove_eq]
  split
  · exact hrows.truncated
  · exact hrows

/-! ## A register that has counted 2^31 -/

/-- A movement of a reduction into a full register: it has stopped with LR_LENGTH if at all, no register has changed, and no contribution
was truncated. -/
structure LrFull (s : State) (c n : Nat) (a : Mv × Bool) : Prop where
  stop : ∀ e, a.1.stop = some e → e.1 = codeLrLength
  frame : Frame c n (fun _ => False) none s a.1.s
  lr : ∀ l, (a.1.s.core c).lr l = (s.core c).lr l
  whole : a.2 = false

/-- No contribution is taken (R181). -/
theorem LrFull.one {a : Mv × Bool} (h : LrFull s c n a) (hfull : 2 ^ 31 ≤ ((s.core c).lr l).count) (e : Nat) (v : XVal) :
    LrFull s c n (lrOne c l e v a) ∧ (lrOne c l e v a).1.stop.isSome := by
  unfold lrOne
  cases hstop : a.1.stop with
  | some w => exact ⟨h, by rw [hstop]; rfl⟩
  | none =>
    dsimp only
    rw [h.lr, if_pos hfull]
    have hhalt : a.1.halt codeLrLength e = { a.1 with stop := some (codeLrLength, e) } := by rw [Mv.halt, hstop]
    rw [hhalt]
    exact ⟨⟨fun w hw => by cases hw; rfl, h.frame, h.lr, h.whole⟩, rfl⟩

/-- A stopped movement reads no row of A. -/
theorem Mv.readA_stopped {w : Nat × Nat} (h : m.stop = some w) : (m.readA c x i).1 = m := by
  unfold Mv.readA
  dsimp only
  split
  · rw [Mv.mod, h]
  · rw [Mv.readRow, Mv.read, if_pos rfl, Mv.readSp, h]

/-- A row of A is read while the movement has not stopped. -/
theorem LrFull.readA {a : Mv × Bool} (h : LrFull s c n a) (hs : s.SpSound c)
    (hA : dSspace x.desc = 3 ∨ s.runFault c [] (rowAddr 0 x.srcBase (dSstr x.desc) i) (rowBytes (dSfmt x.desc) (dCols x.desc)) = none) :
    LrFull s c n ((a.1.readA c x i).1, a.2) := by
  cases hstop : a.1.stop with
  | some w => rw [Mv.readA_stopped hstop]; exact h
  | none =>
    obtain ⟨hread, hframe⟩ := Good.readA ⟨hstop, h.frame⟩ hs hA
    refine ⟨fun w hw => ?_, hframe, fun l => ?_, h.whole⟩
    · rw [show (a.1.readA c x i).1.stop = some w from hw] at hread
      cases hread
    · exact (Core.lr_congr (congrArg Vec.lr (a.1.vec_readA c x i)) l).trans (h.lr l)

/-- A SUM into a full register stops at its first element (R181). -/
theorem lrMove_full (hu : KettleTaken s u c n kop) (hs : s.SpSound c)
    (hA : dSspace x.desc = 3 ∨
      s.RowsOk c [] x.srcBase (dSstr x.desc) (rowBytes (dSfmt x.desc) (dCols x.desc)) (dTiles x.desc * dRows x.desc))
    (f : XVal → XVal → XVal) (hfull : 2 ^ 31 ≤ ((s.core c).lr (vLreg x.desc)).count) :
    (∃ e, (u.lrMove c x b false f).stop = some (codeLrLength, e)) ∧ LrFull s c n (u.lrMove c x b false f, false) := by
  have hrows : LrFull s c n (u.lrRows c x b false f) ∧
      (0 < dTiles x.desc * dRows x.desc → (u.lrRows c x b false f).1.stop.isSome) := by
    refine foldl_range_invariant (fun i (a : Mv × Bool) => LrFull s c n a ∧ (0 < i → a.1.stop.isSome)) _
      ⟨⟨fun _ h => (by cases h), hu.frame _, hu.lr_eq, rfl⟩, fun h => absurd h (Nat.lt_irrefl 0)⟩ (fun i a hi ha => ?_)
    have hrow := foldl_range_invariant (fun j (a : Mv × Bool) => LrFull s c n a ∧ (0 < j → a.1.stop.isSome)) (dCols x.desc)
      (f := fun a' j => lrOne c (vLreg x.desc) (i * dCols x.desc + j) (f (elemVal (dSfmt x.desc) ((a.1.readA c x i).2.getD j 0))
        (elemVal (oFmt b 0) ((a.1.lrRead c x b false i).2.getD j 0))) a')
      ⟨ha.1.readA hs (hA.imp_right (· i hi)), fun h => absurd h (Nat.lt_irrefl 0)⟩
      (fun j a ha' h => (h.1.one hfull _ _).imp_right (fun hsome _ => hsome))
    exact ⟨hrow.1, fun _ => hrow.2 (Nat.succ_pos _)⟩
  obtain ⟨hlr, hstop⟩ := hrows
  obtain ⟨w, hw⟩ := Option.isSome_iff_exists.1 (hstop (Nat.mul_pos (Nat.succ_pos _) (Nat.succ_pos _)))
  have hmove : u.lrMove c x b false f = (u.lrRows c x b false f).1 := by rw [lrMove_eq, hlr.whole, if_neg Bool.false_ne_true]
  rw [hmove]
  refine ⟨⟨w.2, ?_⟩, hlr.stop, hlr.frame, hlr.lr, rfl⟩
  rw [hw, ← hlr.stop w hw]

/-! ## The fault -/

theorem State.tilesAtFault_vec (s : State) (c n k : Nat) : ∃ ks, s.tilesAtFault c n k = { s with cores := ks } ∧
    ((s.tilesAtFault c n k).core c).vec = (s.core c).vec := by
  have hfold : ∀ (l : List Nat) (q : Core) (t : Nat), (l.foldl (fun q _ => q.incTok t) q).vec = q.vec := fun l => by
    induction l with
    | nil => exact fun _ _ => rfl
    | cons _ l ih => exact fun q t => (ih (q.incTok t) t).trans (Core.incTok_vec q t)
  unfold State.tilesAtFault
  dsimp only
  split
  · refine ⟨_, rfl, ?_⟩
    rw [State.core_modCore_self]
    exact hfold ..
  · exact ⟨_, rfl, rfl⟩

@[simp] theorem Core.vec_feedEnds (k : Core) (n mash : Nat) : (k.feedEnds n mash).vec = k.vec :=
  (congrArg Core.vec (k.feedEnds_rest n mash) :)

/-- A stream fault changes no long register. -/
theorem lr_streamFault (s : State) (c n k code a l : Nat) :
    (((s.tilesAtFault c n k).streamFault c n code a).core c).lr l = (s.core c).lr l := by
  obtain ⟨_, -, hvec⟩ := s.tilesAtFault_vec c n k
  refine Core.lr_congr (congrArg Vec.lr ?_) l
  rw [State.core_streamFault, Core.setSlot_vec, Core.vec_feedEnds, hvec]

/-- A movement that has stopped inside its frame is reported (R74). -/
theorem streamReported_finish {P : Nat → Prop} {t : State} (h : Frame c n P none s t) (k code a : Nat) :
    StreamReported s ((t.tilesAtFault c n k).streamFault c n code a) c n code := by
  obtain ⟨ks, htiles, -⟩ := t.tilesAtFault_vec c n k
  have hrst : t.rst = s.rst := by have := congrArg State.rst h.rest; exact this
  have hreports : t.reports = s.reports := by have := congrArg State.reports h.rest; exact this
  have hsaddle : t.saddleReports = s.saddleReports := by have := congrArg State.saddleReports h.rest; exact this
  rw [htiles]
  exact ⟨_, rfl, rfl, rfl, seqReported_report s _ _ hrst hreports hsaddle⟩

end

/-! ## The obligation -/

/-- A reduction or LRADD that counts `k` contributions is done, with the count of its register raised. -/
theorem kettleRun_counts {s : State} {r : StreamRef} {kop bytes k : Nat} {ins : BitVec 256 → Slot → List KRegion}
    {body : State → Slot → KBlock → Mv} (h : s.KettleReady r.core.val r.slot.val kop bytes) (hk : kop < 0x60) :
    let c := r.core.val
    let n := r.slot.val
    let x := (s.core c).slot n
    let y := (s.core c).kettleSlot (s.mashOf c) x
    let b := (s.core c).kblock kop x
    let t := s.kettleRun r kop noRegion ins body
    (∀ u, LrCounted s c n (vLreg x.desc) 0 { s := u } → LrCounted s c n (vLreg x.desc) k (body u y b)) →
    Streamed s t c n (fun _ => False) ∧ ((t.core c).lr (vLreg x.desc)).count = ((s.core c).lr (vLreg x.desc)).count + k ∧
      ∀ j, j ≠ vLreg x.desc → (t.core c).lr j = (s.core c).lr j := by
  intro c n x y b t hbody
  obtain ⟨u, htaken, hdone, hcore⟩ := kettleRun_core h hk (ins := ins) (fun u hu => (hbody u hu.counted).good)
  have hlr : ∀ l, (t.core c).lr l = ((body u y b).s.core c).lr l := fun l => (congrArg (fun j : Core => j.lr l) hcore).trans rfl
  obtain ⟨-, hcount, -, hother⟩ := hbody u htaken.counted
  exact ⟨hdone, by rw [hlr, hcount], fun j hj => by rw [hlr, hother j hj]⟩

/-- A reduction of accessible operands, with COUNT within 2^31, counts its elements. -/
theorem reduction_counts {s : State} {r : StreamRef} {kop : Nat} {two : Bool} {f : XVal → XVal → XVal} (hk : kop < 0x60) :
    let c := r.core.val
    let n := r.slot.val
    let x := (s.core c).slot n
    let d := x.desc
    let t := s.kettleRun r kop noRegion inA (fun s x b => s.lrMove c x b two f)
    s.KettleReady c n kop (rowBytes (dSfmt d) (dCols d)) →
    (two = true → s.ORowsOk c (((s.core c).kblock kop x).entry 0) (dCols d) (dTiles d * dRows d)) →
    ((s.core c).lr (vLreg d)).count + dElems d ≤ 2 ^ 31 →
    Streamed s t c n (fun _ => False) ∧ ((t.core c).lr (vLreg d)).count = ((s.core c).lr (vLreg d)).count + dElems d ∧
      ∀ j, j ≠ vLreg d → (t.core c).lr j = (s.core c).lr j := by
  intro c n x d t h hO hlen
  have helems : dElems d = dTiles d * dRows d * dCols d := by rw [dElems, Nat.mul_comm, Nat.mul_assoc]
  rw [helems] at hlen ⊢
  exact kettleRun_counts h hk fun u hu =>
    lrMove_counted (x := (s.core c).kettleSlot (s.mashOf c) x) (b := (s.core c).kblock kop x) hu h.sound h.inputA hO f hlen

/-- LRADD of accessible, well-formed images of the register's E, with COUNT within 2^31, counts what they count. -/
theorem lradd_counts {s : State} {r : StreamRef} :
    let c := r.core.val
    let n := r.slot.val
    let x := (s.core c).slot n
    let d := x.desc
    let t := s.kettleRun r 0x44 noRegion inA (fun s x _ => s.lraddMove c x)
    s.KettleReady c n 0x44 64 → dSspace d ≠ 3 →
    (∀ i, i < dTiles d * dRows d → ∃ y, s.imageRow c x i = some y ∧ y.e = ((s.core c).lr (vLreg d)).e) →
    ((s.core c).lr (vLreg d)).count + s.imageCounts c x (dTiles d * dRows d) ≤ 2 ^ 31 →
    Streamed s t c n (fun _ => False) ∧
      ((t.core c).lr (vLreg d)).count = ((s.core c).lr (vLreg d)).count + s.imageCounts c x (dTiles d * dRows d) ∧
      ∀ j, j ≠ vLreg d → (t.core c).lr j = (s.core c).lr j := by
  intro c n x d t h h3 himages hlen
  exact kettleRun_counts h (by decide) fun u hu =>
    lraddMove_counted (x := (s.core c).kettleSlot (s.mashOf c) x) hu h.sound (h.inputA.resolve_left h3) himages hlen

/-- A SUM into a register that has counted 2^31 faults with LR_LENGTH and changes no register. -/
theorem sum_full {s : State} {r : StreamRef} :
    let c := r.core.val
    let n := r.slot.val
    let x := (s.core c).slot n
    let d := x.desc
    let t := s.kettleRun r 0x41 noRegion inA (fun s x b => s.lrMove c x b false (fun a _ => a))
    s.KettleReady c n 0x41 (rowBytes (dSfmt d) (dCols d)) → 2 ^ 31 ≤ ((s.core c).lr (vLreg d)).count →
    ((t.core c).slot n).state = .faulted ∧ StreamReported s t c n codeLrLength ∧ ∀ l, (t.core c).lr l = (s.core c).lr l := by
  intro c n x d t h hfull
  obtain ⟨u, htaken, hrun⟩ := kettleRun_takes h (by decide)
  obtain ⟨⟨e, hstop⟩, hrest⟩ := lrMove_full (x := (s.core c).kettleSlot (s.mashOf c) x) (b := (s.core c).kblock 0x41 x) htaken h.sound
    h.inputA (fun a _ => a) hfull
  have ht : t = _ := (hrun noRegion inA (fun s x b => s.lrMove c x b false (fun a _ => a))).trans (kettleEnd_stopped (by decide) hstop)
  rw [ht]
  exact ⟨State.state_streamFault .., streamReported_finish hrest.frame .., fun l => (lr_streamFault ..).trans (hrest.lr l)⟩

/-- Settles O26: what each row counts is counted, and a register that has counted 2^31 stops a SUM. -/
theorem longRegisterReductionsCountTheirContributions : Obligations.LongRegisterReductionsCountTheirContributions := by
  intro s r c n k x d lr rows image counts
  refine ⟨fun hlen => ⟨fun h => ⟨_, exec_sum_eq r s, ?_⟩, fun h => ⟨_, exec_sumsq_eq r s, ?_⟩, fun h hO => ⟨_, exec_dot_eq r s, ?_⟩⟩,
    fun h h3 himages hlen => ⟨_, exec_lradd_eq r s, ?_⟩, fun hfull h => ⟨_, exec_sum_eq r s, ?_⟩⟩
  · exact reduction_counts (by decide) h (fun h => absurd h Bool.false_ne_true) hlen
  · exact reduction_counts (by decide) h (fun h => absurd h Bool.false_ne_true) hlen
  · exact reduction_counts (by decide) h (fun _ => hO) hlen
  · exact lradd_counts h h3 himages hlen
  · exact sum_full h hfull

end Sys2Proof.Machine
end

section
/-! PROOF. O52: the last credit flit of a releasing pass TWO (R200). The statement is about every state, also one in which a bay's
partition number has more than the four bits of PART in a flit header (R39): such a number runs over CHAN of the credit flit, as it
does in that of CHANNEL_ENABLE (`widePart`). PART_SET writes no such number. -/

namespace Sys2Proof.Machine

open Sys2Proof

/-- Slot 0 of core 0 holds a QUEUED pass TWO of kind SQ over one row of one class, which takes its teacher row from channel 0 and
releases it: student row in line 0, gradient row in line 5, parameter block in line 1 with temperature 1 and the row-loss image at
line 3. Channel 0 has a ring of one tile of one line at line 32; the tile has arrived, and pass ONE has gone past it. Bay 0 is in the
partition of `widePart`. -/
def wideRelease : State :=
  { State.reset with
    bays := widePart.bays
    cores := [(0, {
      slots := [(0, {
        state := .queued
        desc := 6 + 2 * 2 ^ 216 + 2 * 2 ^ 220 + 2 ^ 227
        auxBase := 1
        dstBase := 5 })]
      sp := { mem := [(264, 3), (268, 0x80), (290, 0x80), (291, 0x3F)] }
      hop := { chans := [(0, {
        cfg := 32 + 2 ^ 17 + 2 ^ 24 + 2 ^ 44 + 2 ^ 48
        received := 1
        onePtr := 1 })] } })] }

theorem wideRelease_ready : wideRelease.LossReady 0 0 2 := by
  unfold State.LossReady State.Taken State.SpSound
  decide +kernel

/-- Kind SQ has no normaliser; the pass names and releases channel 0, and GACC is clear. -/
theorem wideRelease_desc :
    let d := ((wideRelease.core 0).slot 0).desc
    hKind d = 2 ∧ hTsrc d = 0 ∧ hChan d = 0 ∧ hNames d = true ∧ hRelease d = true ∧ hGacc d = false := by
  decide +kernel

theorem wideRelease_source :
    let x := (wideRelease.core 0).slot 0
    wideRelease.RowsOk 0 [] x.srcBase (dSstr x.desc) (rowBytes (dSfmt x.desc) (dCols x.desc)) (dTiles x.desc * dRows x.desc) := by
  unfold State.RowsOk
  decide +kernel

theorem wideRelease_gradients :
    let x := (wideRelease.core 0).slot 0
    wideRelease.RowsOk 0 [] x.dstBase (dDstr x.desc) (rowBytes (dDfmt x.desc) (dCols x.desc)) (dTiles x.desc * dRows x.desc) := by
  unfold State.RowsOk
  decide +kernel

/-- The one tile of the pass has arrived in its shape and step, and its one row is accessible. -/
theorem wideRelease_teacher (P : Nat → Prop) :
    wideRelease.TeacherOk 0 0 ((wideRelease.core 0).hopChan (hChan ((wideRelease.core 0).slot 0).desc)).twoPtr P := by
  obtain ⟨-, hring, -⟩ := wideRelease_desc
  have hone : dTiles ((wideRelease.core 0).slot 0).desc = 1 ∧ dRows ((wideRelease.core 0).slot 0).desc = 1 := by decide +kernel
  intro i hi
  obtain rfl : i = 0 := Nat.lt_one_iff.mp (hone.1 ▸ hi)
  refine ⟨fun _ => by decide +kernel, fun r hr _ => ?_⟩
  obtain rfl : r = 0 := Nat.lt_one_iff.mp (hone.2 ▸ hr)
  simp only [hring]
  decide +kernel

theorem wideRelease_rowLoss :
    wideRelease.ImagesOk 0 ((wideRelease.lossBlock 0 0).e 1).line (dRows ((wideRelease.core 0).slot 0).desc) 1 := by
  have hlines : ∀ pos, pos < 1 → ∀ r, r < dRows ((wideRelease.core 0).slot 0).desc → wideRelease.runFault 0 []
      (hImgAddr ((wideRelease.lossBlock 0 0).e 1).line (dRows ((wideRelease.core 0).slot 0).desc) pos r) 64 = none := by decide +kernel
  exact fun pos r hpos hr => hlines pos hpos r hr

/-- Pass ONE has gone past the tiles that the pass takes, and the ring has room for all of them at once. -/
theorem wideRelease_ring :
    let d := ((wideRelease.core 0).slot 0).desc
    let h := (wideRelease.core 0).hopChan (hChan d)
    h.twoPtr + dTiles d ≤ h.onePtr ∧ dTiles d ≤ h.tiles := by
  decide +kernel

/-- The pass runs, and the flit it ends with names channel 1. -/
theorem exec_passTwo_wideRelease :
    ∃ t, exec (.passTwo ⟨0, 0⟩) wideRelease = .next t ∧ t.flits.getLast?.map Flit.schan = some 1 :=
  ⟨_, rfl, by decide +kernel⟩

/-- Refutes O52 with `wideRelease`: it meets every condition of the clause on pass TWO, and the credit flit at its end names another
channel than its own. -/
theorem not_hopbackPassesRunToTheirEnd : ¬ Obligations.HopbackPassesRunToTheirEnd := by
  intro h
  obtain ⟨-, -, htwo, -, -⟩ := h wideRelease ⟨0, 0⟩
  obtain ⟨hkind, -, hzero, hnames, hrelease, hgacc⟩ := wideRelease_desc
  simp only [Fin.coe_ofNat_eq_mod, Nat.zero_mod, hnames, hrelease, and_self, if_true] at htwo
  have hnorms : hNorms (hKind ((wideRelease.core 0).slot 0).desc) ≠ true := hkind ▸ by decide
  obtain ⟨t, ht, -, -, -, f, hlast, -, -, -, -, hchan, -, -⟩ := htwo wideRelease_ready (hkind ▸ by decide) wideRelease_source
    (wideRelease_teacher _) wideRelease_gradients (fun hacc => absurd (hgacc.symm.trans hacc) Bool.false_ne_true)
    (fun _ => wideRelease_ring.1) (fun _ _ => wideRelease_ring.2)
    (fun himages => absurd himages (not_or.mpr ⟨hnorms, hkind ▸ by decide⟩)) (fun hn => absurd hn hnorms) wideRelease_rowLoss
  obtain ⟨u, hu, hother⟩ := exec_passTwo_wideRelease
  cases hu.symm.trans ht
  have hone : f.schan = 1 := by simpa [hlast] using hother
  exact absurd ((hchan.trans hzero).symm.trans hone) (by decide)

end Sys2Proof.Machine
end

section
/-! PROOF. O30: STASH, by the class of its rows in the current epoch (R241, R243, R244). -/

namespace Sys2Proof.Machine

open Sys2Proof

theorem exec_stash_eq (r : StreamRef) (s : State) : exec (.stash r) s = execStash r s := rfl

/-! ## What a row written to HBM leaves of the core -/

section
variable {c n : Nat} {P q : Nat → Prop} {s : State} {m : Mv} {own : List Nat} {a fmt sa : Nat} {cs scales : List Nat}

/-- A write to an accessible run of HBM leaves the core alone. -/
theorem Good.core_writeHbm (h : Good c n P (some q) s m) {bs : List Byte} (ok : s.HbmOk c true a bs.length) :
    (m.writeHbm c a bs).s.core c = m.s.core c := by
  obtain ⟨hrun, -, hstopped⟩ := h.2.hbmOk ok
  unfold Mv.writeHbm
  rw [Mv.andThen_s h.1, hrun]
  dsimp only
  rw [hstopped]
  dsimp only
  split
  all_goals
    dsimp only
    obtain ⟨b, hfar⟩ := State.farAccess_eq _ c a _
    rw [hfar]
    rfl

theorem Good.core_writeRowHbm (h : Good c n P (some q) s m) (ok : s.HbmOk c true a (rowBytes fmt cs.length)) :
    (m.writeRow c 1 own a fmt cs).s.core c = m.s.core c := by
  unfold Mv.writeRow Mv.write
  rw [if_neg Nat.one_ne_zero]
  exact h.core_writeHbm (by rwa [bytesOf_length])

/-- A row written, with its scales for an MX format, to accessible runs of HBM whose bytes lie in `q`. -/
theorem Good.writeRowMxHbm (h : Good c n P (some q) s m) (ok : s.HbmOk c true a (rowBytes fmt cs.length))
    (hq : ∀ i, i < rowBytes fmt cs.length → q (a + i)) (okScale : isMx fmt = true → s.HbmOk c true sa scales.length)
    (hqScale : isMx fmt = true → ∀ i, i < scales.length → q (sa + i)) :
    Good c n P (some q) s (m.writeRowMx c 1 own a fmt cs sa scales) ∧
    (m.writeRowMx c 1 own a fmt cs sa scales).s.core c = m.s.core c := by
  have hrow : Good c n P (some q) s (m.writeRow c 1 own a fmt cs) := h.writeRowHbm ok hq
  have hcore := h.core_writeRowHbm (own := own) ok
  unfold Mv.writeRowMx
  split
  · next hmx =>
    unfold Mv.write
    rw [if_neg Nat.one_ne_zero]
    have hlen : (scales.map (BitVec.ofNat 8)).length = scales.length := List.length_map _
    refine ⟨hrow.writeHbm (by rw [hlen]; exact okScale hmx) (fun i hi => hqScale hmx i (by rwa [hlen] at hi)), ?_⟩
    exact (hrow.core_writeHbm (by rw [hlen]; exact okScale hmx)).trans hcore
  · exact ⟨hrow, hcore⟩

end

/-! ## The rows of a STASH -/

/-- What Cask writes for a row: a code for each element, and for an MX format a scale for each 32 of them (Table 8.4). -/
theorem stashOut_lengths (d : BitVec 256) (es : List Nat) : (stashOut d es).1.length = es.length ∧
    (isMx (dDfmt d) = true → (stashOut d es).2.1.length = cdiv es.length 32) := by
  unfold stashOut
  split
  · exact ⟨List.length_map _, fun _ => (List.length_map _).trans List.length_range⟩
  · split
    · obtain ⟨hcodes, hscales⟩ := mxRow_lengths (dDfmt d) (es.map (elemVal (dSfmt d)))
      rw [List.length_map] at hcodes hscales
      exact ⟨hcodes, fun _ => hscales⟩
    · next hmx =>
      split
      · exact ⟨rfl, fun h => absurd h hmx⟩
      · exact ⟨(List.length_map _).trans (List.length_map _), fun h => absurd h hmx⟩

/-- A STASH has moved its rows below `i`: Cask's registers are `k`, and the elements of the other rows wait on its path, when it takes
them there. -/
structure StashMoved (s : State) (c n : Nat) (Q : Option (Nat → Prop)) (d : BitVec 256) (k : Cask) (i : Nat) (m : Mv) : Prop where
  good : Good c n (fun _ => False) Q s m
  cask : (m.s.core c).cask = k
  waits : dSspace d = 3 → (dAllRows d - i) * dCols d ≤ ((m.s.core c).path 6).elems.length

section
variable {c n i : Nat} {Q : Option (Nat → Prop)} {q : Nat → Prop} {s t : State} {m m' : Mv} {x : Slot} {k : Cask}

/-- What leaves Cask and the direct paths alone moves no row. -/
theorem StashMoved.kept {d : BitVec 256} (h : StashMoved s c n Q d k i m) (hgood : Good c n (fun _ => False) Q s m')
    (hcask : (m'.s.core c).cask = (m.s.core c).cask) (hdirect : (m'.s.core c).direct = (m.s.core c).direct) :
    StashMoved s c n Q d k i m' :=
  ⟨hgood, hcask.trans h.cask, by rw [Core.path, hdirect]; exact h.waits⟩

@[simp] theorem Core.cask_spReadDone (j : Core) (last : Bool) (a w : Nat) : (j.spReadDone last a w).cask = j.cask := by
  have hfix : (j.spFix a w).cask = j.cask := by
    unfold Core.spFix
    dsimp only
    split <;> rfl
  unfold Core.spReadDone
  split
  · exact hfix
  · exact hfix

/-- The next row is taken whole, from the direct path or from accessible lines. -/
theorem StashMoved.stashRow (h : StashMoved s c n Q x.desc k i m) (hi : i < dAllRows x.desc) (hs : s.SpSound c)
    (hfrom : dSspace x.desc ≠ 3 → s.RowsOk c [] x.srcBase (dSstr x.desc) (rowBytes (dSfmt x.desc) (dCols x.desc)) (dAllRows x.desc)) :
    StashMoved s c n Q x.desc k (i + 1) (m.stashRow c x i).1 ∧ (m.stashRow c x i).2.length = dCols x.desc := by
  obtain ⟨hgood, hcask, hwaits⟩ := h
  have hsucc := narrowLeft_succ hi
  unfold Mv.stashRow
  dsimp only
  split
  · next h3 =>
    have hlen := hwaits h3
    have htake : (m.mod (fun s => s.setCore c ((s.core c).takePath 6 (dCols x.desc)).1)).s =
        m.s.modCore c (fun k => (k.takePath 6 (dCols x.desc)).1) := by
      unfold Mv.mod
      rw [hgood.1]
      rfl
    refine ⟨⟨hgood.mod (Frame.quiet (f := fun k => (k.takePath 6 (dCols x.desc)).1) rfl rfl rfl rfl rfl), ?_, fun _ => ?_⟩,
      List.length_take_of_le (by omega)⟩
    all_goals
      dsimp only
      rw [htake, State.core_modCore_self]
    · exact hcask
    · rw [Core.path, Core.takePath, FMap.get_set_self, List.length_drop]
      omega
  · next h3 =>
    have hrun := hfrom h3 i hi
    refine ⟨⟨(hgood.readRow hs hrun (dLast x.desc)).1, ?_, fun h => absurd h h3⟩, Mv.readRow_length ..⟩
    rw [Mv.readRow, Mv.read, if_pos rfl, Mv.readSp_ok hgood.1 (by rw [hgood.2.runFault]; exact hrun) (hgood.2.sound hs)]
    dsimp only
    rw [State.core_modCore_self, Core.cask_spReadDone, hcask]

/-- A discarded STASH takes all its input and writes nothing (R244). -/
theorem stashMove_discards (h : StashMoved s c n Q x.desc k 0 { s := t }) (hs : s.SpSound c)
    (hfrom : dSspace x.desc ≠ 3 → s.RowsOk c [] x.srcBase (dSstr x.desc) (rowBytes (dSfmt x.desc) (dCols x.desc)) (dAllRows x.desc)) :
    StashMoved s c n Q x.desc k (dAllRows x.desc) (t.stashMove c x true) :=
  foldl_range_invariant (StashMoved s c n Q x.desc k) _ h (fun _ _ hi hm => (hm.stashRow hi hs hfrom).1)

theorem Mv.s_rowDone (m : Mv) (d : BitVec 256) (i : Nat) : (m.rowDone d i).s = m.s := by
  unfold Mv.rowDone Mv.tile
  split
  · split <;> rfl
  · rfl

/-- A row is written where the STASH has its place for it. -/
theorem StashMoved.writeOut (h : StashMoved s c n (some q) x.desc k (i + 1) m) (hi : i < dAllRows x.desc) {es : List Nat}
    (hlen : es.length = dCols x.desc)
    (hdst : s.OperandOk c 1 true x.dstBase (dDstr x.desc) (dDfmt x.desc) (dCols x.desc) (dAllRows x.desc) x.auxBase (sScstr x.desc))
    (hq : ∀ b, InHbm x.dstBase (dDstr x.desc) (dDfmt x.desc) (dCols x.desc) (dAllRows x.desc) x.auxBase (sScstr x.desc) b → q b) :
    StashMoved s c n (some q) x.desc k (i + 1)
      (((m.mod (fun s => s.raise c 6 (stashOut x.desc es).2.2)).writeRowMx c 1 [] (rowAddr 1 x.dstBase (dDstr x.desc) i) (dDfmt x.desc)
        (stashOut x.desc es).1 (scaleAddr 1 x.auxBase (sScstr x.desc) i) (stashOut x.desc es).2.1).rowDone x.desc i) := by
  obtain ⟨hcodes, hscales⟩ := stashOut_lengths x.desc es
  rw [hlen] at hcodes hscales
  generalize stashOut x.desc es = o at hcodes hscales ⊢
  obtain ⟨okRow, okScale⟩ := hdst i hi
  have hraise : (m.mod (fun s => s.raise c 6 o.2.2)).s.core c = (m.s.core c).raise 6 o.2.2 := by
    unfold Mv.mod
    rw [h.good.1]
    exact State.core_modCore_self ..
  obtain ⟨hgood, hcore⟩ := (h.good.raise 6 o.2.2).writeRowMxHbm (own := []) (a := rowAddr 1 x.dstBase (dDstr x.desc) i) (fmt := dDfmt x.desc)
    (sa := scaleAddr 1 x.auxBase (sScstr x.desc) i) (cs := o.1) (scales := o.2.1) (by rw [hcodes]; exact okRow)
    (fun j hj => hq _ ⟨i, hi, .inl ⟨Nat.le_add_right _ _, Nat.add_lt_add_left (hcodes ▸ hj) _⟩⟩)
    (fun hmx => by rw [hscales hmx]; exact okScale hmx)
    (fun hmx j hj => hq _ ⟨i, hi, .inr ⟨hmx, Nat.le_add_right _ _, Nat.add_lt_add_left (hscales hmx ▸ hj) _⟩⟩)
  refine h.kept (hgood.rowDone x.desc i) ?_ ?_
  all_goals
    rw [Mv.s_rowDone, hcore, hraise]
    rfl

/-- A STASH that is not discarded moves all its rows. -/
theorem stashMove_writes (h : StashMoved s c n (some q) x.desc k 0 { s := t }) (hs : s.SpSound c)
    (hfrom : dSspace x.desc ≠ 3 → s.RowsOk c [] x.srcBase (dSstr x.desc) (rowBytes (dSfmt x.desc) (dCols x.desc)) (dAllRows x.desc))
    (hdst : s.OperandOk c 1 true x.dstBase (dDstr x.desc) (dDfmt x.desc) (dCols x.desc) (dAllRows x.desc) x.auxBase (sScstr x.desc))
    (hq : ∀ b, InHbm x.dstBase (dDstr x.desc) (dDfmt x.desc) (dCols x.desc) (dAllRows x.desc) x.auxBase (sScstr x.desc) b → q b) :
    StashMoved s c n (some q) x.desc k (dAllRows x.desc) (t.stashMove c x false) :=
  foldl_range_invariant (StashMoved s c n (some q) x.desc k) _ h (fun _ _ hi hm =>
    have hrow := hm.stashRow hi hs hfrom
    hrow.1.writeOut hi hrow.2 hdst hq)

end

/-! ## A stream that takes its whole input at once (R99, R546) -/

section
variable {s : State} {c n stn : Nat} {mine : BitVec 256 → Bool} {start : State → Slot → Mv} {body : State → Slot → State}

/-- A QUEUED stream that its station can take, and that faults as it is accepted, is at its end. -/
theorem State.pathRun_stops (hm : mine ((s.core c).slot n).desc = true) (ha : (s.core c).acceptable n = true) {w : Nat × Nat}
    (hstop : (start (s.accepted c n) ((s.core c).slot n)).stop = some w) :
    s.pathRun c n stn mine start body = (start (s.accepted c n) ((s.core c).slot n)).finish c n := by
  unfold State.pathRun
  dsimp only
  rw [if_neg (by simp [Core.state_of_acceptable ha]), State.accept_eq hm ha, hstop]

/-- One that does not, and whose input is whole on its path or is not from there, moves. -/
theorem State.pathRun_runs (hm : mine ((s.core c).slot n).desc = true) (ha : (s.core c).acceptable n = true) {t : State}
    (hstart : start (s.accepted c n) ((s.core c).slot n) = { s := t }) (hdesc : ((t.core c).slot n).desc = ((s.core c).slot n).desc)
    (hpath : (t.core c).path stn = (s.core c).path stn)
    (hin : dSspace ((s.core c).slot n).desc = 3 → dElems ((s.core c).slot n).desc ≤ ((s.core c).path stn).elems.length ∧
      ((s.core c).path stn).fmt = dSfmt ((s.core c).slot n).desc) :
    s.pathRun c n stn mine start body = body t ((t.core c).slot n) := by
  unfold State.pathRun
  dsimp only
  rw [if_neg (by simp [Core.state_of_acceptable ha]), State.accept_eq hm ha, hstart]
  dsimp only
  have hmatch : (t.core c).pathMismatch stn ((s.core c).slot n).desc = false := by
    rw [Core.pathMismatch, Core.pathFree, hpath]
    by_cases h3 : dSspace ((s.core c).slot n).desc = 3
    · simp [(hin h3).2]
    · simp [h3]
  have hinput : (decide (dSspace ((s.core c).slot n).desc ≠ 3) || (t.core c).pathHas stn (dElems ((s.core c).slot n).desc)) = true := by
    rw [Core.pathHas, hpath]
    by_cases h3 : dSspace ((s.core c).slot n).desc = 3
    · simp [(hin h3).1]
    · simp [h3]
  rw [hdesc, hmatch, if_neg Bool.false_ne_true, if_pos hinput]

end

/-! ## Acceptance -/

/-- The registers of Cask with a STASH counted as discarded, in an epoch marked as spilled (R243, R244). -/
def Cask.dropped (k : Cask) (spans : List (Nat × Nat)) : Cask := (k.spill (spansLow spans)).discard (spansBytes spans)

/-- A spill marks the current epoch, if it is not marked yet. -/
theorem Cask.spill_marks (k : Cask) (addr : Nat) :
    ((k.spill addr).epochs.get {} (k.spill addr).epoch).spill = true ∧ (k.spill addr).discStreams = k.discStreams := by
  unfold Cask.spill
  dsimp only
  split
  · next hspill => exact ⟨hspill, rfl⟩
  · exact ⟨congrArg Epoch.spill (FMap.get_set_self ..), rfl⟩

/-- Cask has accepted the STASH in slot `n`, to be written or to be discarded, and its registers are `k`. -/
def State.stashBegun (s : State) (c n : Nat) (discard : Bool) (k : Cask) : State :=
  (s.accepted c n).modCore c (fun j => { j with cask := k }.modSlot n (fun y => { y with discard := discard }))

section
variable {s : State} {c n : Nat} {discard : Bool} {k : Cask} {Q : Option (Nat → Prop)}

theorem State.slot_stashBegun : ((s.stashBegun c n discard k).core c).slot n =
    { (s.core c).slot n with acceptedAt := s.mashOf c, discard := discard } := by
  have hslot : ({ (s.accepted c n).core c with cask := k } : Core).slot n = ((s.accepted c n).core c).slot n := Core.slot_congr rfl n
  rw [State.stashBegun, State.core_modCore_self, Core.slot_modSlot_self, hslot, State.core_accepted, Core.slot_setSlot_self]

theorem State.path_stashBegun (stn : Nat) : ((s.stashBegun c n discard k).core c).path stn = (s.core c).path stn := by
  rw [State.stashBegun, State.core_modCore_self, State.core_accepted]
  rfl

theorem State.stashBegun_frame {P : Nat → Prop} : Frame c n P Q s (s.stashBegun c n discard k) := by
  unfold State.stashBegun
  refine (s.accepted_frame c n _ _).trans (Frame.modCore rfl (fun m hm => ?_) ?_ (fun _ => rfl) (fun _ h => h) (fun _ _ => rfl))
  · exact (Core.slot_modSlot ..).trans (if_neg hm)
  · rw [Core.slot_modSlot_self]
    rfl

/-- Acceptance moves no row. -/
theorem stashBegun_moved {d : BitVec 256} (hin : dSspace d = 3 → dElems d ≤ ((s.core c).path 6).elems.length) :
    StashMoved s c n Q d k 0 { s := s.stashBegun c n discard k } := by
  refine ⟨⟨rfl, State.stashBegun_frame⟩, ?_, fun h3 => ?_⟩
  · dsimp only
    rw [State.stashBegun, State.core_modCore_self]
    rfl
  · have helems : (dAllRows d - 0) * dCols d = dElems d := by unfold dAllRows dElems; rw [Nat.sub_zero]; ring
    rw [helems, State.path_stashBegun]
    exact hin h3

theorem curEpoch_accepted (s : State) (c n : Nat) : ((s.accepted c n).core c).curEpoch = (s.core c).curEpoch := by
  rw [State.core_accepted]
  rfl

theorem cask_accepted (s : State) (c n : Nat) : ((s.accepted c n).core c).cask = (s.core c).cask := by
  rw [State.core_accepted]
  rfl

/-- The class of the STASH in slot `n`, in the current epoch. -/
def State.stashClassOf (s : State) (c n : Nat) : StashClass :=
  stashClass (s.core c).curEpoch ((s.core c).slot n).desc ((s.core c).slot n).dstBase ((s.core c).slot n).auxBase

/-- The HBM rows of the STASH in slot `n`. -/
def State.stashSpansOf (s : State) (c n : Nat) : List (Nat × Nat) :=
  let x := (s.core c).slot n
  stashSpans x.desc (dDfmt x.desc) x.dstBase (dDstr x.desc) x.auxBase

/-- A STASH into the reserve region, or into the main region of an epoch without a spill, is to be written (R241). -/
theorem stashStart_keeps
    (h : s.stashClassOf c n = .reserve ∨ (s.stashClassOf c n = .main ∧ (s.core c).curEpoch.spill = false)) :
    (s.accepted c n).stashStart c n ((s.core c).slot n) = { s := s.stashBegun c n false (s.core c).cask } := by
  unfold State.stashClassOf at h
  rw [State.stashBegun, ← cask_accepted s c n]
  unfold State.stashStart
  dsimp only
  rw [curEpoch_accepted]
  rcases h with h | ⟨h, hspill⟩
  · rw [h]; rfl
  · rw [h, hspill]; rfl

/-- One into the main region of a spilled epoch, or past the end of the main region, is to be discarded (R243, R244). -/
theorem stashStart_drops
    (h : s.stashClassOf c n = .spilling ∨ (s.stashClassOf c n = .main ∧ (s.core c).curEpoch.spill = true)) :
    (s.accepted c n).stashStart c n ((s.core c).slot n) =
      { s := s.stashBegun c n true ((s.core c).cask.dropped (s.stashSpansOf c n)) } := by
  unfold State.stashClassOf at h
  rw [State.stashBegun, ← cask_accepted s c n]
  unfold State.stashStart
  dsimp only
  rw [curEpoch_accepted]
  rcases h with h | ⟨h, hspill⟩
  · rw [h]; rfl
  · rw [h, hspill]; rfl

/-- One past the reserve region, or outside both, is not accepted (R241). -/
theorem stashStart_stops (h : s.stashClassOf c n = .reserveOver ∨ s.stashClassOf c n = .outside) :
    ∃ w, (s.accepted c n).stashStart c n ((s.core c).slot n) = { s := s.accepted c n, stop := some w } := by
  unfold State.stashClassOf at h
  unfold State.stashStart
  dsimp only
  rw [curEpoch_accepted]
  rcases h with h | h
  all_goals
    rw [h]
    exact ⟨_, rfl⟩

end

/-! ## A stream that faults as it is accepted -/

/-- Counting the tiles of a stream that faults changes the token counters of its core alone (R58). -/
theorem State.tilesAtFault_rest (s : State) (c n k : Nat) :
    ReportsAndCores s (s.tilesAtFault c n k) ∧ ∃ q, (s.tilesAtFault c n k).core c = { s.core c with seq := q } := by
  have hfold : ∀ (l : List Nat) (j : Core) (t : Nat), ∃ q, l.foldl (fun j _ => j.incTok t) j = { j with seq := q } := fun l => by
    induction l with
    | nil => exact fun j _ => ⟨j.seq, rfl⟩
    | cons _ l ih => exact fun j t => ih (j.incTok t) t
  unfold State.tilesAtFault
  dsimp only
  split
  · refine ⟨reportsAndCores_modCore .., ?_⟩
    rw [State.core_modCore_self]
    exact hfold ..
  · exact ⟨reportsAndCores_refl s, _, rfl⟩

@[simp] theorem Core.cask_feedEnds (k : Core) (n mash : Nat) : (k.feedEnds n mash).cask = k.cask :=
  (congrArg Core.cask (k.feedEnds_rest n mash) :)

/-- A stream fault leaves the HBM, and the scratchpad and Cask of its core, as they are. -/
theorem streamFault_moves_nothing (s : State) (c n k code a : Nat) :
    let t := (s.tilesAtFault c n k).streamFault c n code a
    t.hbm = s.hbm ∧ (t.core c).sp = (s.core c).sp ∧ (t.core c).cask = (s.core c).cask := by
  obtain ⟨htiles, q, hcore⟩ := s.tilesAtFault_rest c n k
  obtain ⟨_, _, _, hrest⟩ := htiles.trans (reportsAndCores_streamFault _ c n code a)
  refine ⟨(congrArg State.hbm hrest :), ?_, ?_⟩
  all_goals rw [State.core_streamFault]
  · rw [Core.setSlot_sp, Core.sp_feedEnds, hcore]
  · rw [Core.setSlot_cask, Core.cask_feedEnds, hcore]

/-! ## STASH -/

/-- The end of a movement that has not stopped leaves Cask alone. -/
theorem Mv.cask_finish {m : Mv} {c n : Nat} (hstop : m.stop = none) : ((m.finish c n).core c).cask = (m.s.core c).cask := by
  unfold Mv.finish
  rw [hstop]
  dsimp only
  rw [State.doneSlot, State.core_modCore_self]
  rfl

section
variable {s : State} {r : StreamRef}

/-- A STASH that Cask can take and accepts moves its rows. -/
theorem exec_stash_runs {discard : Bool} {k : Cask} :
    let c := r.core.val
    let n := r.slot.val
    let x := (s.core c).slot n
    s.Taken c n 7 →
    (dSspace x.desc = 3 → dElems x.desc ≤ ((s.core c).path 6).elems.length ∧ ((s.core c).path 6).fmt = dSfmt x.desc) →
    (s.accepted c n).stashStart c n x = { s := s.stashBegun c n discard k } →
    exec (.stash r) s = .next (((s.stashBegun c n discard k).stashMove c
      { x with acceptedAt := s.mashOf c, discard := discard } discard).finish c n) := by
  intro c n x ⟨hkind, haccept, _⟩ hin hstart
  rw [exec_stash_eq]
  refine congrArg _ ((State.pathRun_runs (decide_eq_true hkind) haccept hstart ?_ (State.path_stashBegun 6) hin).trans ?_)
  · rw [State.slot_stashBegun]
  · rw [State.slot_stashBegun]

end

/-- Settles O30: by the class of its rows a STASH is accepted to be written, accepted to be discarded, or faults. -/
theorem stashWritesSpillsOrDiscards : Obligations.StashWritesSpillsOrDiscards := by
  intro s r c n x d rows e cls ht hsrc
  have ⟨hkind, haccept, hs⟩ := ht
  have hin : dSspace d = 3 → dElems d ≤ ((s.core c).path 6).elems.length ∧ ((s.core c).path 6).fmt = dSfmt d :=
    fun h3 => (hsrc.resolve_left (fun h => h.1 h3)).2
  have hfrom : dSspace d ≠ 3 → s.RowsOk c [] x.srcBase (dSstr d) (rowBytes (dSfmt d) (dCols d)) (dAllRows d) :=
    fun h3 => (hsrc.resolve_right (fun h => h3 h.1)).2
  have hbegun : ∀ Q discard k, StashMoved s c n Q d k 0 { s := s.stashBegun c n discard k } :=
    fun _ _ _ => stashBegun_moved (fun h3 => (hin h3).1)
  refine ⟨fun hclass hdst => ?_, fun hclass => ?_, fun hclass => ?_⟩
  · have hmoved := stashMove_writes (x := { x with acceptedAt := s.mashOf c, discard := false })
      (hbegun (some (InHbm x.dstBase (dDstr d) (dDfmt d) (dCols d) rows x.auxBase (sScstr d))) false (s.core c).cask)
      hs hfrom hdst (fun _ hb => hb)
    exact ⟨_, exec_stash_runs ht hin (stashStart_keeps hclass), hmoved.good.finishH, (Mv.cask_finish hmoved.good.1).trans hmoved.cask⟩
  · have hmoved := stashMove_discards (x := { x with acceptedAt := s.mashOf c, discard := true })
      (hbegun none true ((s.core c).cask.dropped (s.stashSpansOf c n))) hs hfrom
    have hcask := (Mv.cask_finish (n := n) hmoved.good.1).trans hmoved.cask
    obtain ⟨hspill, hstreams⟩ := (s.core c).cask.spill_marks (spansLow (s.stashSpansOf c n))
    refine ⟨_, exec_stash_runs ht hin (stashStart_drops hclass), hmoved.good.finish, ?_, ?_⟩
    · rw [Core.curEpoch, Core.epoch, hcask]
      exact hspill
    · rw [hcask]
      exact congrArg (fun v => satAdd 16 v 1) hstreams
  · obtain ⟨w, hstart⟩ := stashStart_stops hclass
    have hrun : exec (.stash r) s = .next (((s.accepted c n).tilesAtFault c n 0).streamFault c n w.1 w.2) := by
      rw [exec_stash_eq]
      refine congrArg _ ((State.pathRun_stops (decide_eq_true hkind) haccept (congrArg Mv.stop hstart)).trans ?_)
      exact congrArg (fun m => Mv.finish m c n) hstart
    obtain ⟨hhbm, hsp, hcask⟩ := streamFault_moves_nothing (s.accepted c n) c n 0 w.1 w.2
    refine ⟨_, hrun, State.state_streamFault .., hhbm, hsp.trans ?_, hcask.trans (cask_accepted s c n)⟩
    rw [State.core_accepted]
    rfl

end Sys2Proof.Machine
end

section
/-! PROOF. What Cinch takes from a core, whom its group names, and what it says to its listed cores (R40, R92, R262, R268, R384). -/

namespace Sys2Proof.Machine

open Sys2Proof

/-! ## The commands -/

theorem exec_norm_eq (c : CoreId) (s : State) : exec (.norm c) s = execNorm c s := rfl
theorem exec_cinchTotalExchange_eq (pkg : BitVec 12) (step epoch : BitVec 32) (tot : NormTotal) (s : State) :
    exec (.cinchTotalExchange pkg step epoch tot) s = execCinchTotalExchange pkg step epoch tot s := rfl
theorem exec_ready_eq (c : CoreId) (s : State) : exec (.ready c) s = execReady c s := rfl
theorem exec_mirrorIn_eq (c : CoreId) (s : State) : exec (.mirrorIn c) s = execMirrorIn c s := rfl
theorem exec_mirrorHeld_eq (pkg : BitVec 12) (step epoch : BitVec 32) (s : State) :
    exec (.mirrorHeld pkg step epoch) s = execMirrorHeld pkg step epoch s := rfl
theorem exec_prepared_eq (pkg : BitVec 12) (step epoch : BitVec 32) (nf flash store : Bool) (s : State) :
    exec (.prepared pkg step epoch nf flash store) s = execPrepared pkg step epoch nf flash store s := rfl

/-! ## The message of a core -/

/-- Flits that travel change the fabric's counts only (R22, R40). -/
theorem State.carried_eq (s : State) (e : Ends) (n : Nat) : ∃ f, s.carried e n = { s with fab := f } := by
  have hacross : ∃ f, s.across e n = { s with fab := f } := by
    unfold State.across State.fabBytes
    split
    · exact ⟨s.fab, rfl⟩
    · split
      · exact ⟨s.fab, rfl⟩
      · exact ⟨_, rfl⟩
  obtain ⟨f, hf⟩ := hacross
  rw [State.carried, hf]
  exact ⟨_, rfl⟩

/-- The message that Cinch takes leaves its core, and only the fabric counts it (R40, R92). -/
theorem State.popMsg_eq (s : State) (c site : Nat) : ∃ f, s.popMsg c site = { s.modCore c (·.popOut) with fab := f } :=
  State.carried_eq _ _ _

theorem State.core_popMsg (s : State) (c site d : Nat) :
    (s.popMsg c site).core d = if d = c then (s.core c).popOut else s.core d := by
  obtain ⟨f, hf⟩ := s.popMsg_eq c site
  rw [hf]
  exact State.core_modCore s c d _

@[simp] theorem State.cinch_popMsg (s : State) (c site : Nat) : (s.popMsg c site).cinch = s.cinch := by
  obtain ⟨f, hf⟩ := s.popMsg_eq c site
  rw [hf]
  rfl

@[simp] theorem State.ckpt_popMsg (s : State) (c site : Nat) : (s.popMsg c site).ckpt = s.ckpt := by
  obtain ⟨f, hf⟩ := s.popMsg_eq c site
  rw [hf]
  rfl

@[simp] theorem State.safety_popMsg (s : State) (c site : Nat) : (s.popMsg c site).safety = s.safety := by
  obtain ⟨f, hf⟩ := s.popMsg_eq c site
  rw [hf]
  rfl

@[simp] theorem State.mboxes_popMsg (s : State) (c site : Nat) : (s.popMsg c site).mboxes = s.mboxes := by
  obtain ⟨f, hf⟩ := s.popMsg_eq c site
  rw [hf]
  rfl

theorem State.sp_popMsg (s : State) (c site d : Nat) : ((s.popMsg c site).core d).sp = (s.core d).sp := by
  rw [State.core_popMsg]
  split
  · next h => rw [h]; rfl
  · rfl

theorem State.corecinch_popMsg (s : State) (c site d : Nat) : ((s.popMsg c site).core d).cinch = (s.core d).cinch := by
  rw [State.core_popMsg]
  split
  · next h => rw [h]; rfl
  · rfl

/-- Cinch takes the head message of a core where it has the type of the row. -/
theorem State.cinchTake_of_head {s : State} {c type : Nat} {p : BitVec 256} (hhead : (s.core c).headOut 0 = some p)
    (htype : fld p 0 8 = type) (f : State → BitVec 256 → State) : s.cinchTake c type f = f (s.popMsg c 96) p := by
  unfold State.cinchTake
  rw [hhead]
  exact if_pos htype

/-- Whatever round Cinch goes on with after it has taken a message: the message has left its core, and no other core has changed. -/
theorem State.popMsg_frame (s : State) (c : Nat) (x : Cinch) :
    let t := (s.popMsg c 96).modCinch (fun _ => x)
    { t with cores := s.cores, cinch := s.cinch, fab := s.fab } = s ∧
      (t.core c).seq.outbound = (s.core c).seq.outbound.drop 1 ∧ ∀ d, d ≠ c → t.core d = s.core d := by
  refine ⟨?_, ?_, fun d hd => ?_⟩
  · obtain ⟨f, hf⟩ := s.popMsg_eq c 96
    rw [hf]
    rfl
  · exact congrArg (fun k : Core => k.seq.outbound) ((s.core_popMsg c 96 c).trans (if_pos rfl))
  · exact (s.core_popMsg c 96 d).trans (if_neg hd)

/-! ## The listed cores and the group -/

theorem Cinch.mem_listed {x : Cinch} {d : Nat} : d ∈ x.listed ↔ x.lists d = true := by
  unfold Cinch.listed allCores
  rw [List.mem_filter, List.mem_range, and_iff_right_iff_imp]
  intro h
  unfold Cinch.lists at h
  exact of_decide_eq_true (Bool.and_eq_true _ _ ▸ h).1

/-- The own parts are complete when each listed core has contributed its three (R262). -/
theorem Cinch.ownDone_iff {x : Cinch} : x.ownDone = true ↔ ∀ d, x.lists d = true → ∀ i, i < 3 → d * 4 + i ∈ x.parts := by
  have hthree : ∀ d, ([0, 1, 2].all fun k => x.parts.contains (d * 4 + k)) = true ↔ ∀ i, i < 3 → d * 4 + i ∈ x.parts := by
    intro d
    have hrange : [0, 1, 2] = List.range 3 := rfl
    simp [hrange]
  unfold Cinch.ownDone
  simp only [List.all_eq_true, hthree, Cinch.mem_listed]

theorem Cinch.allReady_iff {x : Cinch} :
    x.listed.all (fun c => x.ready.contains c) = true ↔ ∀ d, x.lists d = true → d ∈ x.ready := by
  simp only [List.all_eq_true, List.contains_iff_mem, Cinch.mem_listed]

section
variable {s : State} (h : s.cinch.members = [])
include h

/-- Without a member table the package is alone in its group (log entry 23). -/
theorem State.group_alone : s.group = [s.ownPkg] := by
  unfold State.group
  rw [h]
  rfl

theorem State.others_alone : s.others = [] := by
  unfold State.others
  rw [State.group_alone h]
  simp

theorem State.toOthers_alone (o : Nat → Out) : s.toOthers o = s := by
  unfold State.toOthers
  rw [State.others_alone h]
  rfl

theorem State.partners_alone (p : Nat) : s.partners p = [] := by
  unfold State.partners Cinch.member
  rw [h]
  rfl

end

/-! ## Messages to the listed cores (R268) -/

/-- Messages to the listed cores join the mailbox queue; a stopped Saddle sends none (R23, R268). -/
theorem State.toListed_eq (s : State) (p : Nat → BitVec 256) : ∃ m, s.toListed p = { s with mboxes := m } ∧
    (s.safety.saddleStopped = false → m.map (·.core) = s.mboxes.map (·.core) ++ s.cinch.listed) := by
  unfold State.toListed
  generalize s.cinch.listed = l
  induction l generalizing s with
  | nil => exact ⟨s.mboxes, rfl, fun _ => (List.append_nil _).symm⟩
  | cons c l ih =>
    rw [List.foldl_cons]
    unfold State.toCore
    split
    · next hstop =>
      obtain ⟨m, hm, _⟩ := ih s
      exact ⟨m, hm, fun h => absurd (h.symm.trans hstop) (by decide)⟩
    · obtain ⟨m, hm, hlist⟩ := ih { s with mboxes := s.mboxes ++ _ }
      exact ⟨m, hm, fun h => (hlist h).trans (by simp)⟩

end Sys2Proof.Machine
end

section
/-! PROOF. O43: NORM parts, totals and the decision (R260 to R263, R386). -/

namespace Sys2Proof.Machine

open Sys2Proof

/-- A message for another step or epoch only counts as stale (R262, R270). -/
theorem State.stale_counts (s : State) : { s.modCinch (·.stale) with cinch := s.cinch } = s ∧
    (s.modCinch (·.stale)).cinch = { s.cinch with staleMsg := min 65535 (s.cinch.staleMsg + 1) } := ⟨rfl, rfl⟩

/-! ## What waits -/

/-- Nothing is decided while own parts are missing (R262). -/
theorem State.tryDecide_of_missing {s : State} (h : s.cinch.ownDone = false) : s.tryDecide = s := by
  unfold State.tryDecide
  simp [h]

/-- PREPARED waits for every listed core (R267). -/
theorem State.tryPrepare_of_waiting {s : State} (h : ∃ d, s.cinch.lists d = true ∧ d ∉ s.cinch.ready) : s.tryPrepare = s := by
  obtain ⟨d, hlists, hready⟩ := h
  have hnot : s.cinch.listed.all (fun c => s.cinch.ready.contains c) = false :=
    Bool.eq_false_iff.2 fun hall => hready (Cinch.allReady_iff.1 hall d hlists)
  unfold State.tryPrepare
  simp only [hnot, Bool.and_false, Bool.false_and, Bool.false_eq_true, if_false]

/-! ## The decision -/

/-- The round with the package's own total in its sum (R262). -/
def Cinch.summed (x : Cinch) (own now : Nat) : Cinch :=
  { x with totals := x.totals ++ [own], total := normPlus x.total x.own, roundAt := now }

/-- With all its parts in and no tier read to wait for, a package alone in its group decides the step (R262, R263, R386). -/
theorem State.tryDecide_alone {s : State} (hstate : s.cinch.state = .collect) (hdone : s.cinch.ownDone = true)
    (halone : s.cinch.members = []) (htotals : s.cinch.totals = []) (htier : s.tierWaits = false) :
    s.tryDecide =
      ((s.modCinch (·.summed s.ownPkg s.now)).modCkpt (fun k => { k with waiting := false })).decideStep.tryPrepare := by
  have hsum : s.modCinch (fun x => { x with
      totals := x.totals ++ [s.ownPkg]
      total := normPlus x.total x.own
      roundAt := s.now }) = s.modCinch (·.summed s.ownPkg s.now) := rfl
  have halone' : (s.modCinch (·.summed s.ownPkg s.now)).cinch.members = [] := halone
  have hin : (s.modCinch (·.summed s.ownPkg s.now)).group.all
      (fun p => (s.modCinch (·.summed s.ownPkg s.now)).cinch.totals.contains p) = true := by
    have hlist : (s.modCinch (·.summed s.ownPkg s.now)).cinch.totals = [s.ownPkg] := congrArg (· ++ [s.ownPkg]) htotals
    have hown : (s.modCinch (·.summed s.ownPkg s.now)).ownPkg = s.ownPkg := rfl
    rw [State.group_alone halone', hlist, hown]
    simp
  have htier' : (s.modCinch (·.summed s.ownPkg s.now)).tierWaits = false := htier
  unfold State.tryDecide
  simp only [hstate, hdone, htotals, List.contains_nil, Bool.false_eq_true, if_false, decide_true, Bool.and_self, if_true]
  rw [hsum, State.toOthers_alone halone', if_pos hin, htier']
  rfl

/-- UPDATE of the decision on a sum: no part NF, the state finite and the norm below infinity (R263). -/
def Cinch.updates (x : Cinch) : Bool := !x.total.nf && x.total.state = 0 && !(f32v (f32 x.normVal).1).isInf

/-- The decision changes the round and tells every listed core, and nothing else (R263). -/
theorem State.decideStep_eq (s : State) : ∃ m g n, s.decideStep = { s with
      cinch := { s.cinch with
        state := .decided
        decision := some s.cinch.updates
        normsq := BitVec.ofNat 32 (f32 s.cinch.normVal).1
        gscale := g
        nextLs := n
        roundAt := s.now }
      mboxes := m } ∧
    (s.safety.saddleStopped = false → m.map (·.core) = s.mboxes.map (·.core) ++ s.cinch.listed) := by
  obtain ⟨m, hm, hlist⟩ := State.toListed_eq _ _
  exact ⟨m, _, _, hm, hlist⟩

/-- With all its parts in and no tier read to wait for, a package alone in its group decides the step; PREPARED waits for the cores
that are not ready yet (R262, R263, R386). -/
theorem State.tryDecide_decides {s : State} (hstate : s.cinch.state = .collect) (hdone : s.cinch.ownDone = true)
    (halone : s.cinch.members = []) (htotals : s.cinch.totals = []) (htier : s.tierWaits = false)
    (hruns : s.safety.saddleStopped = false) (hunready : ∃ d, s.cinch.lists d = true ∧ d ∉ s.cinch.ready) :
    ∃ m g n, s.tryDecide = { s with
        cinch := { s.cinch.summed s.ownPkg s.now with
          state := .decided
          decision := some (s.cinch.summed s.ownPkg s.now).updates
          normsq := BitVec.ofNat 32 (f32 (s.cinch.summed s.ownPkg s.now).normVal).1
          gscale := g
          nextLs := n }
        ckpt := { s.ckpt with waiting := false }
        mboxes := m } ∧
      m.map (·.core) = s.mboxes.map (·.core) ++ s.cinch.listed := by
  rw [State.tryDecide_alone hstate hdone halone htotals htier]
  obtain ⟨m, g, n, hdecide, hlist⟩ :=
    ((s.modCinch (·.summed s.ownPkg s.now)).modCkpt (fun k => { k with waiting := false })).decideStep_eq
  exact ⟨m, g, n, (congrArg State.tryPrepare hdecide).trans (State.tryPrepare_of_waiting hunready), hlist hruns⟩

/-! ## NORM -/

/-- The round with a NORM part of core `c` (R262). -/
def Cinch.withPart (x : Cinch) (now c : Nat) (p : BitVec 256) : Cinch :=
  { x with
    state := if x.state = .idle then .collect else x.state
    roundAt := if x.state = .idle then now else x.roundAt
    parts := x.parts ++ [c * 4 + fld p 8 2]
    own := normPlus x.own (partTotal p) }

/-- A round that has not begun or still collects goes on as collecting. -/
theorem collect_of_collecting {x : Cinch} (h : x.state = .idle ∨ x.state = .collect) :
    (if x.state = .idle then .collect else x.state) = CinchPhase.collect := by
  obtain h | h := h <;> rw [h] <;> rfl

theorem not_resolve_of_collecting {x : Cinch} (h : x.state = .idle ∨ x.state = .collect) : x.state ≠ .resolve := by
  obtain h | h := h <;> rw [h] <;> decide

/-- A part that R262 does not discard joins the round. -/
theorem State.normIn_taken {s : State} {c : Nat} {p : BitVec 256} (hstate : s.cinch.state = .idle ∨ s.cinch.state = .collect)
    (hgood : s.cinch.normBad c p = false) : s.normIn c p = (s.modCinch (·.withPart s.now c p)).tryDecide := by
  unfold State.normIn
  rw [hgood, if_neg Bool.false_ne_true, if_neg (not_resolve_of_collecting hstate)]
  rfl

theorem Cinch.ownDone_withPart_iff {x : Cinch} {now c : Nat} {p : BitVec 256} : (x.withPart now c p).ownDone = true ↔
    ∀ d, x.lists d = true → ∀ i, i < 3 → d * 4 + i ∈ x.parts ∨ d * 4 + i = c * 4 + fld p 8 2 := by
  rw [Cinch.ownDone_iff]
  simp only [Cinch.withPart, List.mem_append, List.mem_singleton]
  rfl

/-- A NORM part leaves its core, votes included, and joins the round (R261, R262). -/
theorem exec_norm_taken {s : State} {c : CoreId} {p0 : BitVec 256} (hstate : s.cinch.state = .idle ∨ s.cinch.state = .collect)
    (hhead : (s.core c.val).headOut 0 = some p0) (htype : fld p0 0 8 = 1)
    (hgood : s.cinch.normBad c.val ((s.core c.val).nfOut p0) = false) :
    exec (.norm c) s =
      .next (((s.popMsg c.val 96).modCinch (fun _ => s.cinch.withPart s.now c.val ((s.core c.val).nfOut p0))).tryDecide) := by
  rw [exec_norm_eq, execNorm, State.cinchTake_of_head hhead htype, State.normIn_taken]
  · obtain ⟨f, hf⟩ := s.popMsg_eq c.val 96
    rw [hf]
    rfl
  · rwa [State.cinch_popMsg]
  · rwa [State.cinch_popMsg]

/-- Which tier reads a decision waits for depends on the step of the round alone (R386). -/
theorem State.tierWaits_taken (s : State) (c : Nat) (x : Cinch) (h : x.committed = s.cinch.committed) :
    ((s.popMsg c 96).modCinch (fun _ => x)).tierWaits = s.tierWaits := by
  have hreads : ((s.popMsg c 96).modCinch (fun _ => x)).ckpt = s.ckpt := s.ckpt_popMsg c 96
  have hround : ((s.popMsg c 96).modCinch (fun _ => x)).cinch.round = s.cinch.round := congrArg (fun n : BitVec 32 => n.toNat + 1) h
  rw [State.tierWaits, State.tierWaits, hreads, hround]

/-! ## CINCH_TOTAL_EXCHANGE -/

/-- The round with another member's total (R262). -/
def Cinch.withTotal (x : Cinch) (now pkg : Nat) (tot : NormTotal) : Cinch :=
  { x with
    state := if x.state = .idle then .collect else x.state
    roundAt := if x.state = .idle then now else x.roundAt
    totals := x.totals ++ [pkg]
    total := normPlus x.total tot }

/-- The total of a member that has not sent its own joins the round (R262). -/
theorem exec_total_taken {s : State} {pkg : BitVec 12} {step epoch : BitVec 32} (tot : NormTotal)
    (hnow : s.cinch.current step.toNat epoch.toNat = true) (hstate : s.cinch.state = .idle ∨ s.cinch.state = .collect)
    (hother : pkg.toNat ∈ s.others) (hnew : pkg.toNat ∉ s.cinch.totals) :
    exec (.cinchTotalExchange pkg step epoch tot) s = .next ((s.modCinch (·.withTotal s.now pkg.toNat tot)).tryDecide) := by
  rw [exec_cinchTotalExchange_eq]
  unfold execCinchTotalExchange
  simp only [hnow, not_resolve_of_collecting hstate, hother, hnew, Bool.not_true, decide_false,
    Bool.or_self, Bool.false_eq_true, if_false, Bool.and_eq_true, Bool.not_eq_true', List.contains_eq_mem, decide_true, and_self,
    if_true]
  rfl

/-- A total for another step or epoch only counts as stale (R262, R270). -/
theorem exec_total_stale {s : State} {pkg : BitVec 12} {step epoch : BitVec 32} (tot : NormTotal)
    (h : s.cinch.current step.toNat epoch.toNat = false) :
    exec (.cinchTotalExchange pkg step epoch tot) s = .next (s.modCinch (·.stale)) := by
  rw [exec_cinchTotalExchange_eq]
  unfold execCinchTotalExchange
  simp only [h, Bool.not_false, Bool.true_or, if_true]

/-! ## The obligation -/

/-- Settles O43: a NORM part and a total join the round, and with the last part a package alone in its group decides the step. -/
theorem normPartsAreSummedAndDecided : Obligations.NormPartsAreSummedAndDecided := by
  intro s c p0 pkg step epoch tot x p part own sum nsq full
  refine ⟨fun hstate hhead htype hgood => ?_, fun hnow hstate hother hnew hmissing => ?_, fun hstale => ?_⟩
  · have hexec := exec_norm_taken hstate hhead htype hgood
    have hdone : (x.withPart s.now c.val p).ownDone = true ↔ full := Cinch.ownDone_withPart_iff
    refine ⟨fun hpart => ?_, fun hfull halone htotals htier hruns hunready => ?_⟩
    · have hmissing : (x.withPart s.now c.val p).ownDone = false := Bool.eq_false_iff.2 fun h => hpart (hdone.1 h)
      obtain ⟨hframe, hpop, hcores⟩ := s.popMsg_frame c.val (x.withPart s.now c.val p)
      exact ⟨_, hexec.trans (congrArg _ (State.tryDecide_of_missing hmissing)), hframe, hpop, hcores, collect_of_collecting hstate,
        rfl, rfl, rfl, rfl⟩
    · obtain ⟨m, g, n, hdecide, hlist⟩ := State.tryDecide_decides
        (s := (s.popMsg c.val 96).modCinch (fun _ => x.withPart s.now c.val p)) (collect_of_collecting hstate) (hdone.2 hfull) halone htotals
        (s.tierWaits_taken c.val (x.withPart s.now c.val p) rfl ▸ htier) (s.safety_popMsg c.val 96 ▸ hruns) hunready
      rw [hdecide] at hexec
      refine ⟨_, hexec, rfl, rfl, rfl, rfl, ?_, rfl, fun d => s.sp_popMsg c.val 96 d⟩
      exact hlist.trans (congrArg (·.map (·.core) ++ x.listed) (s.mboxes_popMsg c.val 96))
  · exact ⟨_, (exec_total_taken tot hnow hstate hother hnew).trans (congrArg _ (State.tryDecide_of_missing hmissing)), rfl,
      collect_of_collecting hstate, rfl, rfl, rfl, rfl, rfl⟩
  · obtain ⟨hframe, hcount⟩ := s.stale_counts
    exact ⟨_, exec_total_stale tot hstale, hframe, hcount⟩

end Sys2Proof.Machine
end

section
/-! PROOF. What the links do with a packet of this package (R278 to R284, R289, R290): its port, the counts, and the notice of a message
of Cinch that finds no port. -/

namespace Sys2Proof.Machine

open Sys2Proof

/-- From `s` to `t` only ports, fabric counts, accounts, report queues, outputs and the count of free values have changed. -/
def LinkSide (s t : State) : Prop := ∃ ps f g r q o n, t = { s with
  links := { s.links with ports := ps }, fab := f, glob := g, reports := r, saddleReports := q, out := o, free := n }

theorem LinkSide.refl (s : State) : LinkSide s s := ⟨_, _, _, _, _, _, _, rfl⟩

theorem LinkSide.trans {s t u : State} (h : LinkSide s t) (h' : LinkSide t u) : LinkSide s u := by
  obtain ⟨_, _, _, _, _, _, _, rfl⟩ := h
  obtain ⟨ps, f, g, r, q, o, n, rfl⟩ := h'
  exact ⟨ps, f, g, r, q, o, n, rfl⟩

theorem LinkSide.ckpt {s t : State} (h : LinkSide s t) : t.ckpt = s.ckpt := by
  obtain ⟨_, _, _, _, _, _, _, rfl⟩ := h
  rfl

theorem linkSide_modPort (s : State) (p : Nat) (f : Port → Port) : LinkSide s (s.modPort p f) := ⟨_, _, _, _, _, _, _, rfl⟩

theorem linkSide_emit (s : State) (o : Out) : LinkSide s (s.emit o) := ⟨_, _, _, _, _, _, _, rfl⟩

theorem linkSide_report (s : State) (r : Report) : LinkSide s (s.report r) := by
  unfold State.report
  split
  · exact .refl s
  · exact ⟨_, _, _, _, _, _, _, rfl⟩

theorem linkSide_carried (s : State) (e : Ends) (n : Nat) : LinkSide s (s.carried e n) := by
  obtain ⟨f, hf⟩ := s.carried_eq e n
  rw [hf]
  exact ⟨_, _, _, _, _, _, _, rfl⟩

/-! ## Ports -/

theorem linkSide_framesOut (p n : Nat) (s : State) : LinkSide s (State.framesOut p n s) := by
  induction n generalizing s with
  | zero => exact .refl s
  | succ n ih =>
    unfold State.framesOut
    split
    · exact LinkSide.trans ⟨_, _, _, _, _, _, _, rfl⟩ (ih (s.frameOut p))
    · exact .refl s

theorem linkSide_viaFreed (s : State) (via : Option (Nat × Packet)) : LinkSide s (s.viaFreed via) := by
  cases via with
  | none => exact .refl s
  | some v => exact ⟨_, _, _, _, _, _, _, rfl⟩

theorem linkSide_packetOut (s : State) (p : Nat) (o : OutPkt) : LinkSide s (s.packetOut p o) := by
  have hacct : ∀ (b : Bool) (u : State) (c n : Nat), LinkSide u (if b then u.acctLink c n else u) := by
    intro b u c n
    cases b
    · exact .refl u
    · exact ⟨_, _, _, _, _, _, _, rfl⟩
  exact ((linkSide_modPort s p _).trans (linkSide_viaFreed _ _)).trans
    ((hacct _ _ _ _).trans ((linkSide_emit _ _).trans (linkSide_framesOut _ _ _)))

theorem linkSide_portDrain (p n : Nat) (s : State) : LinkSide s (State.portDrain p n s) := by
  induction n generalizing s with
  | zero => exact .refl s
  | succ n ih =>
    unfold State.portDrain
    split
    · split
      · exact (linkSide_packetOut s p _).trans (ih _)
      · exact .refl s
    · exact .refl s

theorem linkSide_sendVia (s : State) (via : Option (Nat × Packet)) (p : Nat) (k : Packet) (data : List Byte) (slot : Nat) :
    LinkSide s (s.sendVia via p k data slot) := (linkSide_modPort s p _).trans (linkSide_portDrain _ _ _)

theorem linkSide_sendBy (s : State) (c p : Nat) (k : Packet) (data : List Byte) (slot : Nat) :
    LinkSide s (s.sendBy c p k data slot) := (linkSide_carried s _ _).trans (linkSide_sendVia _ _ _ _ _ _)

theorem linkSide_dropCount (s : State) (r : RouteOut) : LinkSide s (s.dropCount r) := by
  cases r with
  | refused p => exact ⟨_, _, _, _, _, _, _, rfl⟩
  | none_ p => exact ⟨_, _, _, _, _, _, _, rfl⟩
  | local_ => exact .refl s
  | via _ => exact .refl s
  | wait _ => exact .refl s

/-! ## Messages between Cinch units (R262, R287) -/

/-- A NOTICE to its own package: the SEND it is about may fault first, and then it may be reported (R280, R290). -/
theorem State.noticeIn_cases (s : State) (k : Packet) (n reason : Nat) :
    ∃ u, (u = s ∨ s.sendActive k n = true ∧ ∃ code a, u = s.streamFault k.score.toNat n code a) ∧
      ((∃ r, s.noticeIn k n reason = u.report r) ∨ s.noticeIn k n reason = u) := by
  refine ⟨_, ?_, (ite_eq_or_eq _ _ _).imp (fun h => ⟨_, h⟩) id⟩
  cases noticeCode reason with
  | none => exact .inl rfl
  | some code =>
    by_cases hsend : s.sendActive k n = true
    · exact .inr ⟨hsend, code, _, if_pos hsend⟩
    · exact .inl (if_neg hsend)

/-- A NOTICE that answers a message of Cinch is about no SEND: it can only be reported (R290). -/
theorem linkSide_noticeIn {s : State} {k : Packet} (h : 360 ≤ k.score.toNat) (n reason : Nat) : LinkSide s (s.noticeIn k n reason) := by
  have hsend : s.sendActive k n = false := by
    unfold State.sendActive
    simp only [decide_eq_false (Nat.not_lt.2 h), Bool.false_and]
  obtain ⟨u, hu, hend⟩ := s.noticeIn_cases k n reason
  obtain rfl : u = s := hu.resolve_right fun hfault => Bool.false_ne_true (hsend.symm.trans hfault.1)
  obtain ⟨r, hr⟩ | hr := hend
  · rw [hr]
    exact linkSide_report u r
  · rw [hr]
    exact .refl u

/-- A message of Cinch that finds no port is counted and reported (R290). -/
theorem linkSide_dropPacket {s : State} {k : Packet} (hown : k.spkg = s.links.pkg) (hkind : k.pkind = 2) (hscore : 360 ≤ k.score.toNat)
    (slot : Nat) (r : RouteOut) : LinkSide s (s.dropPacket k slot r) := by
  have hnotice : ∀ r reason, LinkSide s ((s.dropCount r).notice k slot reason) := by
    intro r reason
    obtain ⟨ps, f, g, q, q', o, n, hdrop⟩ := linkSide_dropCount s r
    have hlocal : k.spkg.toNat = (s.dropCount r).ownPkg := by rw [hdrop, hown]; rfl
    have hanswer : (s.dropCount r).notice k slot reason = (s.dropCount r).noticeIn k slot reason := by
      unfold State.notice
      rw [if_pos hlocal]
      unfold State.answered
      rw [hkind]
      rfl
    rw [hanswer]
    exact (linkSide_dropCount s r).trans (linkSide_noticeIn hscore slot reason)
  cases r with
  | refused p => exact hnotice (.refused p) 1
  | none_ p => exact hnotice (.none_ p) 0
  | local_ => exact .refl s
  | via _ => exact .refl s
  | wait _ => exact .refl s

theorem linkSide_sendCtl {s : State} {k : Packet} (hown : k.spkg = s.links.pkg) (hkind : k.pkind = 2) (hscore : 360 ≤ k.score.toNat)
    (data : List Byte) : LinkSide s (s.sendCtl k data) := by
  unfold State.sendCtl
  split
  · exact linkSide_sendBy s _ _ _ _ _
  · exact linkSide_sendBy s _ _ _ _ _
  · exact .refl s
  · exact linkSide_dropPacket hown hkind hscore 0 _

/-- A message to another Cinch leaves over the links or is reported. -/
theorem linkSide_toMember (s : State) (pkg : Nat) (o : Out) : LinkSide s (s.toMember pkg o) := by
  unfold State.toMember
  split
  · exact .refl s
  · have hsent : LinkSide s (((s.draw 256).2).sendCtl (s.header 2 0 pkg 0x1FF 0x1FF 0 0 s.cinch.epoch.toNat)
        (natBytes 32 (s.draw 256).1.toNat)) :=
      LinkSide.trans ⟨_, _, _, _, _, _, _, rfl⟩ (linkSide_sendCtl rfl rfl (show 360 ≤ (0x1FF#9).toNat by decide) _)
    dsimp only
    split
    · exact hsent.trans (linkSide_emit _ _)
    · exact hsent

theorem linkSide_toOthers (s : State) (o : Nat → Out) : LinkSide s (s.toOthers o) := by
  unfold State.toOthers
  generalize s.others = l
  induction l generalizing s with
  | nil => exact .refl s
  | cons p l ih => exact (linkSide_toMember s p (o p)).trans (ih _)

end Sys2Proof.Machine
end

section
/-! PROOF. What a commit leaves of the cores and of the round (R254, R267 to R269, R384 to R387, R427, R429, R526): LIVE flips, phase
counters are told, and the tier writes begin. -/

namespace Sys2Proof.Machine

open Sys2Proof

/-! ## Work beside the round -/

/-- From `s` to `t` cores and round are as they were, and so are the packages reported lost. -/
structure BesideRound (s t : State) : Prop where
  cores : t.cores = s.cores
  cinch : t.cinch = s.cinch
  lost : t.ckpt.lost = s.ckpt.lost

theorem BesideRound.refl (s : State) : BesideRound s s := ⟨rfl, rfl, rfl⟩

theorem BesideRound.trans {s t u : State} (h : BesideRound s t) (h' : BesideRound t u) : BesideRound s u :=
  ⟨h'.cores.trans h.cores, h'.cinch.trans h.cinch, h'.lost.trans h.lost⟩

theorem BesideRound.after {s t u : State} (h' : BesideRound t u) (h : BesideRound s t) : BesideRound s u := h.trans h'

theorem BesideRound.core {s t : State} (h : BesideRound s t) (d : Nat) : t.core d = s.core d := by
  rw [State.core, h.cores]
  rfl

theorem BesideRound.foldl {α : Type} {f : State → α → State} (hf : ∀ s a, BesideRound s (f s a)) (l : List α) (s : State) :
    BesideRound s (l.foldl f s) := by
  induction l generalizing s with
  | nil => exact .refl s
  | cons a l ih => exact (hf s a).trans (ih _)

theorem LinkSide.besideRound {s t : State} (h : LinkSide s t) : BesideRound s t := by
  obtain ⟨_, _, _, _, _, _, _, rfl⟩ := h
  exact ⟨rfl, rfl, rfl⟩

theorem besideRound_modHost (s : State) (f : HostPort → HostPort) : BesideRound s (s.modHost f) := ⟨rfl, rfl, rfl⟩

theorem besideRound_modCkpt (s : State) {f : Ckpt → Ckpt} (hf : ∀ k, (f k).lost = k.lost) : BesideRound s (s.modCkpt f) :=
  ⟨rfl, rfl, hf s.ckpt⟩

theorem besideRound_report (s : State) (r : Report) : BesideRound s (s.report r) := (linkSide_report s r).besideRound

/-! ## Telemetry (R427) -/

theorem besideRound_post (s : State) (i l bytes : Nat) (o : Out) : BesideRound s (s.post i l bytes o) := by
  obtain ⟨_, _, _, h, _⟩ := s.post_eq i l bytes o
  rw [h]
  exact ⟨rfl, rfl, rfl⟩

theorem besideRound_telemOne (s : State) (i kind domain count bytes : Nat) (data : List Nat) :
    BesideRound s (s.telemOne i kind domain count bytes data) := by
  unfold State.telemOne
  exact (besideRound_post _ _ _ _ _).after ⟨rfl, rfl, rfl⟩

theorem besideRound_telemetry (s : State) (kind domain count bytes : Nat) (data : List Nat) :
    BesideRound s (s.telemetry kind domain count bytes data) :=
  .foldl (fun u i => besideRound_telemOne u i kind domain count bytes data) _ s

/-- An entry of a sparse map after every entry has been changed. -/
theorem FMap.get_map {α : Type} (d : α) (f : α → α) (m : FMap α) (k : Nat) :
    FMap.get d (m.map (fun e => (e.1, f e.2))) k = f (FMap.get d m k) ∨
      FMap.get d (m.map (fun e => (e.1, f e.2))) k = FMap.get d m k := by
  induction m with
  | nil => exact .inr rfl
  | cons e m ih =>
    obtain ⟨j, v⟩ := e
    simp only [List.map_cons, FMap.get]
    split
    · exact .inl rfl
    · exact ih

/-- A core whose run of a best-effort kernel has been told in a STEP record (R255). -/
def Core.told (k : Core) : Core := { k with phase := { k.phase with ran := k.seq.kernel.isSome && k.phase.ran } }

/-- The STEP record is sent, and told of every core. -/
theorem State.telemStep_eq (s : State) (outcome : Nat) : ∃ u, BesideRound s u ∧
    s.telemStep outcome = { u with cores := u.cores.map (fun e => (e.1, e.2.told)) } :=
  ⟨_, besideRound_telemetry s 1 0 s.now _ _, rfl⟩

/-- With the STEP record only the phase counters of a core change (R255). -/
theorem State.telemStep_keeps (s : State) (outcome : Nat) :
    (s.telemStep outcome).cinch = s.cinch ∧ ∀ d, ∃ ph, (s.telemStep outcome).core d = { s.core d with phase := ph } := by
  obtain ⟨u, ⟨hcores, hcinch, _⟩, htold⟩ := s.telemStep_eq outcome
  rw [htold]
  refine ⟨hcinch, fun d => ?_⟩
  rw [State.core, State.core, hcores]
  obtain h | h := FMap.get_map {} Core.told s.cores d
  · exact ⟨_, h⟩
  · exact ⟨_, h⟩

/-! ## Tiers (R384 to R387, R429) -/

theorem besideRound_rdmaGo (s : State) : BesideRound s s.rdmaGo := by
  unfold State.rdmaGo
  split
  · exact .refl s
  · exact ⟨rfl, rfl, rfl⟩

theorem besideRound_rdmaOut (s : State) (o : Out) : BesideRound s (s.rdmaOut o) :=
  (besideRound_rdmaGo _).after (besideRound_modHost s _)

theorem besideRound_rdmaWrite (s : State) (t addr bytes : Nat) : BesideRound s (s.rdmaWrite t addr bytes) :=
  (besideRound_modHost s _).trans (besideRound_rdmaOut _ _)

theorem besideRound_tierFail (s : State) (step : Nat) (store : Bool) : BesideRound s (s.tierFail step store) := by
  unfold State.tierFail
  have hreport : ∀ r, BesideRound s ((s.modCkpt (fun k => { k with tierFail := satAdd 16 k.tierFail 1 })).report r) :=
    fun r => (besideRound_report _ r).after (besideRound_modCkpt s fun _ => rfl)
  dsimp only
  split
  · exact hreport _
  · exact (hreport _).trans (linkSide_toMember _ _ _).besideRound

theorem besideRound_storeBegin (s : State) (step : Nat) : BesideRound s (s.storeBegin step) := by
  have hstripe : ∀ (u : State) (n t a : Nat), BesideRound u ((u.acctHost n).rdmaWrite t a n) := fun u n t a =>
    (besideRound_rdmaWrite (u.acctHost n) t a n).after ⟨rfl, rfl, rfl⟩
  unfold State.storeBegin
  dsimp only
  split
  · exact ((besideRound_modHost s _).trans (.foldl (fun u i => hstripe u _ _ _) _ _)).trans (besideRound_modCkpt _ fun _ => rfl)
  · exact (besideRound_modHost s _).trans (besideRound_tierFail _ _ _)

/-- The flash generation of a step begins, or fails for want of room (R387, R443). -/
theorem besideRound_tierBegin (s : State) (flash store : Bool) : BesideRound s (s.tierBegin flash store) := by
  unfold State.tierBegin
  extract_lets n every partner r s1 s2 kept d src s3
  have hreads : BesideRound s s2 := by
    refine BesideRound.trans (t := s1) ⟨rfl, rfl, rfl⟩ ?_
    unfold s2
    split
    · exact ⟨rfl, rfl, rfl⟩
    · exact .refl _
  have hflash : BesideRound s s3 := by
    refine hreads.trans ?_
    unfold s3
    split
    · exact .refl _
    · split
      · exact ⟨rfl, rfl, rfl⟩
      · exact BesideRound.trans (t := { s2 with gens := kept }) ⟨rfl, rfl, rfl⟩ (besideRound_tierFail _ _ _)
  split
  · exact hflash.trans (besideRound_storeBegin _ _)
  · exact hflash

/-! ## COMMIT (R267 to R269) -/

/-- LIVE of the listed cores flips (R267). -/
theorem State.flipLive_eq {l : List Nat} (hl : l.Nodup) (s : State) :
    ∃ k, l.foldl (fun s c => s.modCore c (fun k => { k with cinch := k.cinch ^^^ 1 })) s = { s with cores := k } ∧
      ∀ d, FMap.get {} k d = if d ∈ l then { s.core d with cinch := (s.core d).cinch ^^^ 1 } else s.core d := by
  induction l generalizing s with
  | nil => exact ⟨s.cores, rfl, fun d => (if_neg List.not_mem_nil).symm⟩
  | cons c l ih =>
    obtain ⟨hc, hl⟩ := List.nodup_cons.1 hl
    obtain ⟨k, hk, hget⟩ := ih hl (s.modCore c (fun k => { k with cinch := k.cinch ^^^ 1 }))
    refine ⟨k, hk, fun d => (hget d).trans ?_⟩
    rw [State.core_modCore]
    by_cases hd : d = c
    · subst hd
      simp [hc]
    · simp [hd]

/-- The commit flips LIVE: the step was an update and no core of the group voted NF_UPD (R267, R269). -/
def Cinch.flips (x : Cinch) : Bool := decide (x.decision = some true) && !(x.nfUpd || x.groupNf)

theorem Cinch.listed_nodup (x : Cinch) : x.listed.Nodup := List.nodup_range.filter _

/-- LIVE after a commit (R267). -/
def Cinch.liveAt (x : Cinch) (d : Nat) (k : Core) : Core :=
  { k with cinch := if x.lists d = true ∧ x.flips = true then k.cinch ^^^ 1 else k.cinch }

theorem State.flipListed_eq (s : State) :
    ∃ k, (if s.cinch.flips then s.cinch.listed.foldl (fun s c => s.modCore c (fun k => { k with cinch := k.cinch ^^^ 1 })) s else s) =
      { s with cores := k } ∧ ∀ d, FMap.get {} k d = s.cinch.liveAt d (s.core d) := by
  split
  · next h =>
    obtain ⟨k, hk, hget⟩ := State.flipLive_eq s.cinch.listed_nodup s
    refine ⟨k, hk, fun d => (hget d).trans ?_⟩
    simp only [Cinch.mem_listed, Cinch.liveAt, h, and_true]
    split <;> rfl
  · next h =>
    refine ⟨s.cores, rfl, fun d => ?_⟩
    rw [Cinch.liveAt, if_neg fun hflip => h hflip.2]
    rfl

/-- Fabric settings that are pending come into force between two steps (R526). -/
theorem besideRound_fabStep (s : State) : BesideRound s (if s.glob.fabIdle then s else s.fabApply) := by
  unfold State.fabApply
  split
  · exact .refl s
  · split
    · exact ⟨rfl, rfl, rfl⟩
    · exact .refl s

/-- From `s` to `t` the step has committed: COMMITTED_STEP has risen by one, the round is over, and of a core only LIVE, where it is
listed and the step flips it, and the phase counters have changed (R267 to R269). -/
structure Committed (s t : State) : Prop where
  committed : t.cinch.committed = s.cinch.committed + 1
  state : t.cinch.state = .idle
  ready : t.cinch.ready = []
  parts : t.cinch.parts = []
  core : ∀ d, ∃ ph, t.core d = { s.cinch.liveAt d (s.core d) with phase := ph }

theorem State.commit_committed (s : State) : Committed s s.commit := by
  obtain ⟨k, hflip, hcores⟩ := s.flipListed_eq
  unfold State.commit
  extract_lets x update nf flip s1 s2 s3 src s4 s5
  have h1 : s1 = { s with cores := k } := hflip
  obtain ⟨m, h2, _⟩ := s1.toListed_eq (fun c => s1.cinchPayload 0x82 (b2n (bit (s1.core c).cinch 0) * 2 ^ 81))
  have hs2 : s2 = { s with cores := k, mboxes := m } := h2.trans (by rw [h1])
  obtain ⟨hs3, hcommitted⟩ : (∀ d, s3.core d = s.cinch.liveAt d (s.core d)) ∧ s3.cinch.committed = s.cinch.committed + 1 := by
    unfold s3
    rw [hs2]
    exact ⟨hcores, rfl⟩
  have hs4 : BesideRound s3 s4 := by
    unfold s4
    split
    · exact besideRound_report _ _
    · exact .refl _
  have hbefore := hs4.trans (besideRound_fabStep s4)
  obtain ⟨htelem, hphase⟩ := State.telemStep_keeps (if s4.glob.fabIdle then s4 else s4.fabApply)
    (if nf then 2 else if update then 0 else 1)
  have htier : BesideRound _ s5 := besideRound_tierBegin _ s4.ckpt.markFlash s4.ckpt.markStore
  refine ⟨?_, rfl, rfl, rfl, fun d => ?_⟩
  · exact (congrArg Cinch.committed (htier.cinch.trans (htelem.trans hbefore.cinch))).trans hcommitted
  · obtain ⟨ph, hph⟩ := hphase d
    rw [hbefore.core, hs3] at hph
    exact ⟨ph, (htier.core d).trans hph⟩

end Sys2Proof.Machine
end

section
/-! PROOF. O44: READY, mirrors, PREPARED and the commit of a package alone in its group (R265 to R269). -/

namespace Sys2Proof.Machine

open Sys2Proof

theorem mem_insertSet {d k : Nat} {l : List Nat} : d ∈ insertSet k l ↔ d = k ∨ d ∈ l := by
  induction l with
  | nil => simp [insertSet]
  | cons j l ih =>
    unfold insertSet
    split
    · exact List.mem_cons
    · split
      · next h => rw [h, List.mem_cons, ← or_assoc, or_self]
      · rw [List.mem_cons, ih, List.mem_cons, or_left_comm]

/-! ## The commit of a package alone in its group (R267) -/

/-- The leader's marks are in the tiers, not in the round (R384). -/
theorem State.mark_eq (s : State) : ∃ k, s.mark = { s with ckpt := k } := by
  unfold State.mark
  split
  · exact ⟨_, rfl⟩
  · exact ⟨s.ckpt, rfl⟩

/-- A package alone in its group that has all its READYs commits a decided step: by itself where it rebuilds, else as the one member
of its group that is prepared (R267, R271). -/
theorem State.tryPrepare_committed {s : State} (hstate : s.cinch.state = .decided)
    (hready : ∀ d, s.cinch.lists d = true → d ∈ s.cinch.ready) (halone : s.cinch.members = []) : Committed s s.tryPrepare := by
  unfold State.tryPrepare
  extract_lets x ready s1 lead
  have hall : ready = true := Bool.and_eq_true_iff.2 ⟨decide_eq_true hstate, Cinch.allReady_iff.2 hready⟩
  have hpartners : (s.partners s.ownPkg).all (fun p => x.mirrorHeld.contains p) = true := by
    rw [State.partners_alone halone]
    rfl
  split
  · exact { (State.commit_committed _) with }
  · rw [hall, hpartners, Bool.and_self, if_pos rfl]
    obtain ⟨k, hmark⟩ := s.mark_eq
    have hs1 : s1 = { s with
        cinch := { s.cinch with state := .prepared, preparedBy := s.cinch.preparedBy ++ [s.ownPkg], roundAt := s.now }, ckpt := k } := by
      unfold s1
      rw [hmark]
      rfl
    have halone1 : s1.cinch.members = [] := by rw [hs1]; exact halone
    have hin : s1.group.all (fun p => s1.cinch.preparedBy.contains p) = true := by
      rw [State.group_alone halone1, hs1]
      simp [State.ownPkg]
    have hprepared : s1.cinch.state = .prepared := by rw [hs1]
    have hcommit : s1.tryCommit = s1.commit := by
      rw [State.tryCommit, hin]
      exact if_pos (by rw [hprepared]; rfl)
    rw [State.toOthers_alone halone1, hcommit, hs1]
    exact { (State.commit_committed _) with }

/-! ## READY (R265) -/

/-- The round with a READY of core `c` and its NF_UPD (R265, R269). -/
def Cinch.withReady (x : Cinch) (c : Nat) (nf : Bool) : Cinch :=
  { x with
    ready := insertSet c x.ready
    nfCore := if nf && !x.nfUpd then c else x.nfCore
    nfUpd := x.nfUpd || nf }

/-- With a READY the commit flips LIVE where its core did not vote NF_UPD either (R267, R269). -/
theorem Cinch.flips_withReady {x : Cinch} {c : Nat} {nf : Bool} : (x.withReady c nf).flips = true ↔
    x.decision = some true ∧ x.nfUpd = false ∧ nf = false ∧ x.groupNf = false := by
  simp [Cinch.flips, Cinch.withReady, and_assoc]

/-- A READY of a listed core for the round joins it. -/
theorem exec_ready_taken {s : State} {c : CoreId} {p : BitVec 256} (hhead : (s.core c.val).headOut 0 = some p)
    (htype : fld p 0 8 = 2) (hnow : s.cinch.current (fld p 32 32) (fld p 64 32) = true) (hstate : s.cinch.state ≠ .resolve)
    (hlists : s.cinch.lists c.val = true) :
    exec (.ready c) s = .next ((s.popMsg c.val 96).modCinch (fun _ => s.cinch.withReady c.val (bit p 128))).tryPrepare := by
  rw [exec_ready_eq, execReady, State.cinchTake_of_head hhead htype]
  obtain ⟨f, hf⟩ := s.popMsg_eq c.val 96
  have hcinch := s.cinch_popMsg c.val 96
  simp only [hcinch, hnow, hstate, hlists, Bool.not_true, decide_false, Bool.or_self, Bool.false_eq_true, if_false, if_true]
  rw [hf]
  rfl

/-! ## Mirrors (R266) -/

/-- The round with a MIRROR_IN of core `c` for package `pkg`, and the mirrors held after it (R266). -/
def Cinch.withMirrorIn (x : Cinch) (c pkg : Nat) : Cinch :=
  { x with mirrorIn := if x.mirrorIn.contains (c, pkg) then x.mirrorIn else x.mirrorIn ++ [(c, pkg)] }

def Cinch.withMirror (x : Cinch) (pkg : Nat) : Cinch :=
  { x with mirrors := if x.mirrors.contains (pkg, x.round) then x.mirrors else x.mirrors ++ [(pkg, x.round)] }

theorem Cinch.mem_withMirrorIn {x : Cinch} {c pkg : Nat} {e : Nat × Nat} :
    e ∈ (x.withMirrorIn c pkg).mirrorIn ↔ e ∈ x.mirrorIn ∨ e = (c, pkg) := by
  unfold Cinch.withMirrorIn
  dsimp only
  split
  · next h => exact ⟨.inl, fun he => he.elim id fun he => he ▸ List.contains_iff_mem.1 h⟩
  · rw [List.mem_append, List.mem_singleton]

theorem Cinch.mem_withMirror (x : Cinch) (pkg : Nat) : (pkg, x.round) ∈ (x.withMirror pkg).mirrors := by
  unfold Cinch.withMirror
  dsimp only
  split
  · next h => exact List.contains_iff_mem.1 h
  · exact List.mem_append_right _ (List.mem_singleton_self _)

/-- Every mirror receiver for package `pkg` has sent MIRROR_IN. -/
def Cinch.MirrorsIn (x : Cinch) (pkg : Nat) : Prop := ∀ d, d < 360 → Config.mirrorReceiver pkg d = true → (d, pkg) ∈ x.mirrorIn

theorem Cinch.mirrorsIn_iff {x : Cinch} {pkg : Nat} :
    allCores.all (fun d => !Config.mirrorReceiver pkg d || x.mirrorIn.contains (d, pkg)) = true ↔ x.MirrorsIn pkg := by
  simp only [allCores, List.all_eq_true, List.mem_range, Bool.or_eq_true, Bool.not_eq_true', List.contains_iff_mem,
    Cinch.MirrorsIn, Bool.eq_false_iff, ← imp_iff_not_or]

/-- A MIRROR_IN for the round joins it; with the last one of its package the mirror is held, and the package is told (R266). -/
theorem exec_mirrorIn_taken {s : State} {c : CoreId} {p : BitVec 256} (hhead : (s.core c.val).headOut 0 = some p)
    (htype : fld p 0 8 = 3) (hnow : s.cinch.current (fld p 32 32) (fld p 64 32) = true) (hstate : s.cinch.state ≠ .resolve) :
    let y := s.cinch.withMirrorIn c.val (fld p 128 12)
    ∃ t z, exec (.mirrorIn c) s = .next t ∧ LinkSide ((s.popMsg c.val 96).modCinch (fun _ => z)) t ∧
      (z = y.withMirror (fld p 128 12) ∨ z = y ∧ ¬ y.MirrorsIn (fld p 128 12)) := by
  rw [exec_mirrorIn_eq, execMirrorIn, State.cinchTake_of_head hhead htype]
  have hcinch := s.cinch_popMsg c.val 96
  generalize s.popMsg c.val 96 = u at hcinch ⊢
  rw [← hcinch] at hnow hstate ⊢
  intro y
  simp only [hnow, hstate, Bool.not_true, decide_false, Bool.or_self, Bool.false_eq_true, if_false]
  by_cases hall : y.MirrorsIn (fld p 128 12)
  · exact ⟨_, y.withMirror (fld p 128 12), congrArg Host.Outcome.next (if_pos (Cinch.mirrorsIn_iff.2 hall)),
      linkSide_toMember _ _ _, .inl rfl⟩
  · exact ⟨_, y, congrArg Host.Outcome.next (if_neg fun h => hall (Cinch.mirrorsIn_iff.1 h)), .refl _, .inr ⟨rfl, hall⟩⟩

/-! ## MIRROR_HELD and PREPARED (R266, R267) -/

/-- A MIRROR_HELD for the round joins it (R266). -/
theorem exec_mirrorHeld_taken {s : State} {pkg : BitVec 12} {step epoch : BitVec 32}
    (hnow : s.cinch.current step.toNat epoch.toNat = true) (hstate : s.cinch.state ≠ .resolve) :
    exec (.mirrorHeld pkg step epoch) s =
      .next (s.modCinch (fun x => { x with mirrorHeld := insertSet pkg.toNat x.mirrorHeld })).tryPrepare := by
  rw [exec_mirrorHeld_eq]
  unfold execMirrorHeld
  simp only [hnow, hstate, Bool.not_true, decide_false, Bool.or_self, Bool.false_eq_true, if_false]

/-- The round with a member's PREPARED and its NF_UPD (R267, R269). -/
def Cinch.withPrepared (x : Cinch) (pkg : Nat) (nf : Bool) : Cinch :=
  { x with preparedBy := insertSet pkg x.preparedBy, groupNf := x.groupNf || nf }

/-- The tiers with the leader's marks (R384). -/
def Ckpt.marked (k : Ckpt) (now : Nat) (flash store : Bool) : Ckpt :=
  { k with
    markStore := store
    markFlash := flash || store
    lastStore := if store then now else k.lastStore
    lastFlash := if flash || store then now else k.lastFlash }

/-- Before the own PREPARED another member's only joins the round, with the leader's marks (R267, R384). -/
theorem exec_prepared_taken {s : State} {pkg : BitVec 12} {step epoch : BitVec 32} (nf flash store : Bool)
    (hnow : s.cinch.current step.toNat epoch.toNat = true) (hresolve : s.cinch.state ≠ .resolve)
    (hstate : s.cinch.state ≠ .prepared) (hother : pkg.toNat ∈ s.others) :
    exec (.prepared pkg step epoch nf flash store) s = .next { s with
      cinch := s.cinch.withPrepared pkg.toNat nf
      ckpt := if pkg.toNat = s.leader then s.ckpt.marked s.now flash store else s.ckpt } := by
  have hwaits : ∀ k, State.tryCommit { s with cinch := s.cinch.withPrepared pkg.toNat nf, ckpt := k } =
      { s with cinch := s.cinch.withPrepared pkg.toNat nf, ckpt := k } := by
    intro k
    have hnot : (s.cinch.withPrepared pkg.toNat nf).state ≠ .prepared := hstate
    unfold State.tryCommit
    simp only [hnot, decide_false, Bool.false_and, Bool.false_eq_true, if_false]
  rw [exec_prepared_eq]
  unfold execPrepared
  simp only [hnow, hresolve, Bool.not_true, decide_false, Bool.or_self, Bool.false_eq_true, if_false, List.contains_iff_mem.2 hother,
    if_true]
  split
  · exact congrArg Host.Outcome.next (hwaits _)
  · exact congrArg Host.Outcome.next (hwaits _)

/-! ## The obligation -/

/-- Settles O44: READY, MIRROR_IN, MIRROR_HELD and PREPARED join the round, and the last READY of a package alone in its group
commits the step. -/
theorem readyMirrorsAndPreparedCommitTheStep : Obligations.ReadyMirrorsAndPreparedCommitTheStep := by
  intro s c p pkg step epoch nf flash store x k now head waits popped
  refine ⟨?_, ?_, ?_, ?_, ?_⟩
  · rintro ⟨hhead, htype, hnow, hstate⟩ hlists ⟨d, hd, hne, hready⟩
    have hwait : d ∉ insertSet c.val x.ready := fun hmem => (mem_insertSet.1 hmem).elim hne hready
    obtain ⟨hframe, hpop, hcores⟩ := s.popMsg_frame c.val (x.withReady c.val (bit p 128))
    refine ⟨_, (exec_ready_taken hhead htype hnow hstate hlists).trans (congrArg _ (State.tryPrepare_of_waiting ⟨d, hd, hwait⟩)),
      hframe, hpop, hcores, rfl, rfl, rfl, rfl⟩
  · rintro ⟨hhead, htype, hnow, hstate⟩ hlists hall hdecided halone
    have hcommit : Committed ((s.popMsg c.val 96).modCinch (fun _ => x.withReady c.val (bit p 128))) _ :=
      State.tryPrepare_committed hdecided (fun d hd => mem_insertSet.2 (hall d hd)) halone
    obtain ⟨hcommitted, hidle, hready, hparts, hcore⟩ := hcommit
    obtain ⟨_, hpop, _⟩ := s.popMsg_frame c.val (x.withReady c.val (bit p 128))
    refine ⟨_, exec_ready_taken hhead htype hnow hstate hlists, ?_, hcommitted, hidle, hready, hparts, fun d => ?_, fun d => ?_⟩
    · obtain ⟨ph, hph⟩ := hcore c.val
      exact (congrArg (fun k : Core => k.seq.outbound) hph).trans hpop
    · obtain ⟨ph, hph⟩ := hcore d
      exact (congrArg Core.sp hph).trans (s.sp_popMsg c.val 96 d)
    · obtain ⟨ph, hph⟩ := hcore d
      have hlive := s.corecinch_popMsg c.val 96 d
      refine (congrArg Core.cinch hph).trans ((if_congr ?_ (congrArg (· ^^^ 1) hlive) hlive))
      exact Iff.and Iff.rfl Cinch.flips_withReady
  · rintro ⟨hhead, htype, hnow, hstate⟩
    obtain ⟨t, z, hexec, hside, hz⟩ := exec_mirrorIn_taken hhead htype hnow hstate
    have hbeside := hside.besideRound
    have hcinch : t.cinch = z := hbeside.cinch
    obtain ⟨_, hpop, _⟩ := s.popMsg_frame c.val z
    refine ⟨t, hexec, ?_, ?_⟩
    · exact (congrArg (fun k : Core => k.seq.outbound) (hbeside.core c.val)).trans hpop
    · rw [hcinch]
      have hmem : ∀ e, e ∈ z.mirrorIn ↔ e ∈ x.mirrorIn ∨ e = (c.val, fld p 128 12) := by
        obtain rfl | ⟨rfl, _⟩ := hz
        · exact fun e => Cinch.mem_withMirrorIn
        · exact fun e => Cinch.mem_withMirrorIn
      refine ⟨(hmem _).2 (.inr rfl), fun e he => (hmem e).2 (.inl he), ?_⟩
      obtain rfl | ⟨rfl, hmissing⟩ := hz
      · exact ⟨rfl, fun _ => Cinch.mem_withMirror _ _⟩
      · exact ⟨rfl, fun hall => absurd hall hmissing⟩
  · rintro ⟨hnow, hstate⟩ hwait
    exact ⟨_, (exec_mirrorHeld_taken hnow hstate).trans (congrArg _ (State.tryPrepare_of_waiting hwait)), rfl, rfl⟩
  · rintro ⟨hnow, hresolve⟩ hstate hother
    exact ⟨_, exec_prepared_taken nf flash store hnow hresolve hstate hother, rfl, rfl, rfl⟩

end Sys2Proof.Machine
end

section
/-! PROOF. What the links and the bucket endpoints leave of the round and of the packages reported lost (R266, R283, R286 to R290, R301
to R307): a packet of VC6 that lands may end a mirror, and nothing else of Cinch changes. -/

namespace Sys2Proof.Machine

open Sys2Proof

/-- From `s` to `t` the state of the round, COMMITTED_STEP and the packages reported lost are as they were. -/
structure RoundKept (s t : State) : Prop where
  state : t.cinch.state = s.cinch.state
  committed : t.cinch.committed = s.cinch.committed
  lost : t.ckpt.lost = s.ckpt.lost

theorem RoundKept.refl (s : State) : RoundKept s s := ⟨rfl, rfl, rfl⟩

theorem RoundKept.trans {s t u : State} (h : RoundKept s t) (h' : RoundKept t u) : RoundKept s u :=
  ⟨h'.state.trans h.state, h'.committed.trans h.committed, h'.lost.trans h.lost⟩

theorem RoundKept.after {s t u : State} (h' : RoundKept t u) (h : RoundKept s t) : RoundKept s u := h.trans h'

theorem BesideRound.roundKept {s t : State} (h : BesideRound s t) : RoundKept s t :=
  ⟨congrArg Cinch.state h.cinch, congrArg Cinch.committed h.cinch, h.lost⟩

theorem LinkSide.roundKept {s t : State} (h : LinkSide s t) : RoundKept s t := h.besideRound.roundKept

theorem ReportsAndCores.roundKept {s t : State} (h : ReportsAndCores s t) : RoundKept s t := by
  obtain ⟨_, _, _, rfl⟩ := h
  exact ⟨rfl, rfl, rfl⟩

theorem roundKept_modCore (s : State) (c : Nat) (f : Core → Core) : RoundKept s (s.modCore c f) := ⟨rfl, rfl, rfl⟩

theorem roundKept_setCore (s : State) (c : Nat) (k : Core) : RoundKept s (s.setCore c k) := ⟨rfl, rfl, rfl⟩

theorem roundKept_modPort (s : State) (p : Nat) (f : Port → Port) : RoundKept s (s.modPort p f) := ⟨rfl, rfl, rfl⟩

theorem roundKept_report (s : State) (r : Report) : RoundKept s (s.report r) := (linkSide_report s r).roundKept

theorem roundKept_ite {s t u : State} {p : Prop} [Decidable p] (ht : RoundKept s t) (hu : RoundKept s u) :
    RoundKept s (if p then t else u) := by
  split
  · exact ht
  · exact hu

/-- A fold whose steps keep the round and carry a flag along. -/
theorem RoundKept.foldl {α : Type} {f : State × Bool → α → State × Bool} (hf : ∀ q a, RoundKept q.1 (f q a).1) (l : List α)
    (q : State × Bool) : RoundKept q.1 (l.foldl f q).1 := by
  induction l generalizing q with
  | nil => exact .refl q.1
  | cons a l ih => exact (hf q a).trans (ih _)

/-! ## Notices (R280, R290, R303) -/

theorem roundKept_answered (s : State) (k : Packet) (slot reason : Nat) : RoundKept s (s.answered k slot reason) := by
  unfold State.answered
  refine roundKept_ite ?_ (roundKept_ite (.refl s) ?_)
  · exact (roundKept_report _ _).after (roundKept_ite (roundKept_modCore s _ _) (.refl s))
  · obtain ⟨u, hu, hend⟩ := s.noticeIn_cases k slot reason
    have hfault : RoundKept s u := by
      obtain rfl | ⟨_, code, a, rfl⟩ := hu
      · exact .refl u
      · exact (reportsAndCores_streamFault s _ _ _ _).roundKept
    obtain ⟨r, hr⟩ | hr := hend
    · rw [hr]
      exact hfault.trans (roundKept_report u r)
    · rw [hr]
      exact hfault

theorem roundKept_notice (s : State) (k : Packet) (slot reason : Nat) : RoundKept s (s.notice k slot reason) := by
  unfold State.notice
  refine roundKept_ite (roundKept_answered s k slot reason) ?_
  dsimp only
  split
  · exact roundKept_ite (linkSide_sendBy s _ _ _ _ _).roundKept (linkSide_sendVia s _ _ _ _ _).roundKept
  · exact roundKept_ite (linkSide_sendBy s _ _ _ _ _).roundKept (linkSide_sendVia s _ _ _ _ _).roundKept
  · exact (linkSide_dropCount s _).roundKept

theorem roundKept_dropPacket (s : State) (k : Packet) (slot : Nat) (r : RouteOut) : RoundKept s (s.dropPacket k slot r) := by
  have hnotice : ∀ reason, RoundKept s ((s.dropCount r).notice k slot reason) := fun reason =>
    (roundKept_notice _ k slot reason).after (linkSide_dropCount s r).roundKept
  cases r with
  | refused _ => exact hnotice 1
  | none_ _ => exact hnotice 0
  | local_ => exact .refl s
  | via _ => exact .refl s
  | wait _ => exact .refl s

/-! ## Bucket headers and lines (R301 to R304) -/

theorem roundKept_bktDrop (s : State) (c vc score slot reason : Nat) (h : BktHeader) (f : Bkt → Bkt) :
    RoundKept s (s.bktDrop c vc score slot reason h f) := by
  unfold State.bktDrop
  exact (roundKept_notice _ _ _ _).after ((roundKept_ite (.refl _) (roundKept_report _ _)).after (roundKept_modCore s c _))

theorem roundKept_bktApply {s : State} {c vc score slot : Nat} {h : BktHeader} {r : State × Bool}
    (hr : s.bktApply c vc score slot h = some r) : RoundKept s r.1 := by
  unfold State.bktApply at hr
  split at hr
  · exact absurd hr (by simp)
  · cases hr
    exact roundKept_setCore s c _
  · cases hr
    exact roundKept_setCore s c _
  all_goals
    cases hr
    exact roundKept_bktDrop s c vc score slot _ h _

theorem roundKept_viaFreed (s : State) (via : Option (Nat × Packet)) : RoundKept s (s.viaFreed via) :=
  (linkSide_viaFreed s via).roundKept

theorem roundKept_heldLeft (s : State) (x : HeldHdr) : RoundKept s (s.heldLeft x) := by
  unfold State.heldLeft
  split
  · exact roundKept_modPort s _ _
  · exact roundKept_modCore s _ _

theorem roundKept_bktLines (s : State) (c vc pkg score : Nat) (closed : Bool) (lines : List (Nat × List Byte)) :
    RoundKept s (s.bktLines c vc pkg score closed lines).1 := by
  have hline : ∀ (u : State) (line : Nat) (bs : List Byte), RoundKept u (u.bktLine c vc pkg score line bs).1 := by
    intro u line bs
    unfold State.bktLine
    split
    · exact roundKept_setCore u c _
    · exact .refl u
  refine RoundKept.foldl (fun q l => ?_) lines (s, closed)
  exact hline q.1 l.1 l.2

theorem roundKept_bktHeader (s : State) (c : Nat) (x : HeldHdr) : RoundKept s (s.bktHeader c x).1 := by
  unfold State.bktHeader
  split
  · exact ⟨rfl, rfl, rfl⟩
  · next r hr => exact (roundKept_bktLines _ _ _ _ _ _ _).after ((roundKept_heldLeft _ x).after (roundKept_bktApply hr))

theorem roundKept_reexamineOnce (s : State) (c : Nat) : RoundKept s (s.reexamineOnce c).1 := by
  refine RoundKept.foldl (fun q x => ?_) (s.core c).bkt.held (s, false)
  exact (roundKept_bktHeader _ c x).after (roundKept_modCore q.1 c _)

/-! ## Packets (R286 to R290) -/

theorem roundKept_halt (m : Mv) (code a : Nat) : RoundKept m.s (m.halt code a).s := by
  rw [Mv.s_halt]
  exact .refl m.s

theorem roundKept_writeSp (m : Mv) (c : Nat) (own : List Nat) (a : Nat) (bs : List Byte) :
    RoundKept m.s (m.writeSp c own a bs).s := by
  unfold Mv.writeSp Mv.andThen
  split
  · exact .refl m.s
  · dsimp only
    split
    · exact roundKept_halt _ _ _
    · exact ⟨rfl, rfl, rfl⟩

theorem roundKept_recvLine (s : State) (c chan n p : Nat) (bs : List Byte) : RoundKept s (s.recvLine c chan n p bs) := by
  have hwrite : ∀ i, RoundKept s (s.recvWrite c n i bs).s := by
    intro i
    unfold State.recvWrite
    refine (roundKept_writeSp _ c [] _ _).after ?_
    dsimp only
    split
    · exact ⟨rfl, rfl, rfl⟩
    · exact .refl s
  unfold State.recvLine
  dsimp only
  split
  · exact (reportsAndCores_streamFault _ _ _ _ _).roundKept.after
      ((State.tilesAtFault_rest _ _ _ _).1.roundKept.after ((roundKept_modCore _ c _).after (hwrite _)))
  · exact (roundKept_modCore _ c _).after (hwrite _)

theorem roundKept_dataLine (s : State) (k : Packet) (p : Nat) (bs : List Byte) : RoundKept s (s.dataLine k p bs).1 := by
  unfold State.dataLine
  dsimp only
  split
  · split
    · exact roundKept_recvLine s _ _ _ _ _
    · exact .refl s
  · exact .refl s

theorem roundKept_dataLines (s : State) (k : Packet) (slot : Nat) (lines : List (List Byte)) :
    RoundKept s (s.dataLines k slot lines) := by
  have hrefuse : ∀ u : State, RoundKept u (u.dataRefuse k slot) := fun u =>
    (roundKept_notice _ k slot 2).after (roundKept_report u _)
  unfold State.dataLines
  extract_lets c ch b s1 r
  have h1 : RoundKept s s1 := roundKept_ite (roundKept_modCore s _ _) (.refl s)
  have hr : RoundKept s r.1 := by
    refine h1.trans (RoundKept.foldl (fun q l => ?_) lines.zipIdx (s1, false))
    exact roundKept_dataLine q.1 k _ _
  exact roundKept_ite (hr.trans (hrefuse r.1)) hr

theorem roundKept_dataIn (s : State) (k : Packet) (slot : Nat) (via : Option (Nat × Packet)) (lines : List (List Byte)) :
    RoundKept s (s.dataIn k slot via lines).1 := by
  have hfreed := roundKept_viaFreed s via
  unfold State.dataIn
  dsimp only
  split
  · exact hfreed
  · split
    · split
      · split
        · exact hfreed
        · exact roundKept_bktHeader s _ _
      · exact hfreed.trans (roundKept_bktLines _ _ _ _ _ _ _)
    · exact hfreed.trans (roundKept_dataLines _ _ _ _)

/-- A packet of VC6 that lands may complete a partner generation and end mirrors (R266, R385). -/
theorem roundKept_partnerLand (s : State) (k : Packet) (lines : Nat) : RoundKept s (s.partnerLand k lines) := by
  unfold State.partnerLand
  dsimp only
  split
  · exact roundKept_ite ⟨rfl, rfl, rfl⟩ (.refl s)
  · exact .refl s

theorem roundKept_routeOn (s : State) (p : Nat) (k : Packet) (data : List Byte) : RoundKept s (s.routeOn p k data) := by
  have hfreed : RoundKept s (s.slotsFreed p k) := roundKept_modPort s p _
  unfold State.routeOn
  dsimp only
  refine roundKept_ite ((roundKept_notice _ k 0 4).after ((roundKept_modPort _ _ _).after hfreed)) ?_
  split
  · exact (linkSide_sendVia _ _ _ _ _ _).roundKept.after (linkSide_carried s _ _).roundKept
  · exact (linkSide_sendVia _ _ _ _ _ _).roundKept.after (linkSide_carried s _ _).roundKept
  · exact hfreed
  · exact hfreed.trans (roundKept_dropPacket _ k 0 _)

theorem roundKept_resetDiscard (s : State) (dst : Nat) : RoundKept s (s.resetDiscard dst none) := ⟨rfl, rfl, rfl⟩

theorem roundKept_packetTaken (s : State) (p : Nat) (k : Packet) (data : List Byte) : RoundKept s (s.packetTaken p k data).1 := by
  have hcarried : ∀ e n, RoundKept s (s.carried e n) := fun e n => (linkSide_carried s e n).roundKept
  unfold State.packetTaken
  dsimp only
  split
  · exact roundKept_routeOn s p k data
  · split
    · exact (roundKept_resetDiscard _ _).after ((roundKept_modPort _ p _).after (hcarried _ _))
    · split
      · exact (roundKept_notice _ k 0 3).after ((roundKept_report _ _).after ((roundKept_modPort _ p _).after
          ((roundKept_modPort _ p _).after (hcarried _ _))))
      · exact (roundKept_dataIn _ _ _ _ _).after ((roundKept_partnerLand _ _ _).after (hcarried _ _))

theorem roundKept_settle (n : Nat) (cs : List Nat) (s : State) : RoundKept s (State.settle n cs s) := by
  induction n generalizing cs s with
  | zero => exact .refl s
  | succ n ih =>
    cases cs with
    | cons c cs => exact (ih _ _).after (roundKept_reexamineOnce s c)
    | nil =>
      unfold State.settle
      split
      · exact (ih _ _).after ((roundKept_packetTaken _ _ _ _).after (roundKept_modPort s _ _))
      · exact .refl s

/-! ## Lost sources (R307) -/

/-- A link-failure notice at the bucket endpoints leaves the round as it is. -/
theorem roundKept_bktSourceLost (s : State) (pkg : Nat) : RoundKept s (s.bktSourceLost pkg) := by
  unfold State.bktSourceLost
  refine List.foldlRecOn allCores _ (motive := fun t => RoundKept s t) (.refl s) fun u hu c _ => ?_
  extract_lets r
  have hr : RoundKept s r.1 := hu.trans (RoundKept.foldl (fun q _ => roundKept_setCore q.1 c _) (u.core c).bkt.slots (u, false))
  exact roundKept_ite hu (roundKept_ite ((roundKept_settle _ [c] _).after hr) hr)

/-- With no bucket slot armed no core is touched. -/
theorem State.bktSourceLost_none {s : State} (h : ∀ c, c < 360 → (s.core c).bkt.slots = []) (pkg : Nat) : s.bktSourceLost pkg = s := by
  unfold State.bktSourceLost
  refine List.foldlRecOn allCores _ (motive := fun t => t = s) rfl fun t ht c hc => ?_
  rw [ht, h c (List.mem_range.1 hc)]
  rfl

end Sys2Proof.Machine
end

section
/-! PROOF. O45: lost members, new epochs, digests and views (R270, R293, R307, R391, R392). -/

namespace Sys2Proof.Machine

open Sys2Proof

/-! ## The commands -/

theorem exec_roundTimeout_eq (pkg : BitVec 12) (s : State) : exec (.roundTimeout pkg) s = execRoundTimeout pkg s := rfl
theorem exec_linkFailureNotice_eq (pkg : BitVec 12) (s : State) :
    exec (.linkFailureNotice pkg) s = execLinkFailureNotice pkg s := rfl
theorem exec_epochGo_eq (epoch : BitVec 16) (s : State) : exec (.epochGo epoch) s = execEpochGo epoch s := rfl
theorem exec_epochDigest_eq (pkg : BitVec 12) (digest : TableHash) (s : State) :
    exec (.epochDigest pkg digest) s = execEpochDigest pkg digest s := rfl
theorem exec_outcomeExchange_eq (epoch : BitVec 32) (view : StepView) (s : State) :
    exec (.outcomeExchange epoch view) s = execOutcomeExchange epoch view s := rfl

/-! ## RESOLVE (R270) -/

/-- The state in which Cinch has stopped the round over a lost member, not reported yet (R270). -/
def State.resolving (s : State) (pkg : Nat) : State :=
  { s with
    cinch := { s.cinch with state := .resolve, roundAt := s.now }
    ckpt := { s.ckpt with lost := insertSet pkg s.ckpt.lost, waiting := false } }

/-- Cinch stops the round and reports the member (R270). -/
theorem State.resolve_eq (s : State) (pkg : Nat) : ∃ r, s.resolve pkg = (s.resolving pkg).report r ∧
    r.code = codeMemberLost ∧ r.detail = pkg := ⟨_, rfl, rfl, rfl⟩

/-- A member that owes a message for longer than the timeout is lost (R270). -/
theorem exec_roundTimeout_late {s : State} {pkg : BitVec 12} (howes : s.owes pkg.toNat = true)
    (hlate : s.cinch.roundAt + s.cinch.tmo.toNat ≤ s.now) : exec (.roundTimeout pkg) s = .next (s.resolve pkg.toNat) := by
  rw [exec_roundTimeout_eq, execRoundTimeout, howes, decide_eq_true hlate]
  rfl

/-! ## Link-failure notices (R293, R307, R397) -/

theorem besideRound_storeReads (s : State) : BesideRound s s.storeReads := by
  have hread : ∀ (u : State) (t a n : Nat), BesideRound u (u.rdmaRead t a n) := fun u t a n =>
    (besideRound_rdmaOut (u.rdma t a n).2 _).after ⟨rfl, rfl, rfl⟩
  unfold State.storeReads
  refine BesideRound.after (.foldl (fun u i => hread u _ _ _) _ _) ?_
  exact BesideRound.trans (besideRound_modHost s _) (besideRound_modCkpt _ fun _ => rfl)

theorem besideRound_fillMoved (s : State) (old : Nat) : BesideRound s (s.fillMoved old) :=
  (besideRound_report _ _).after (besideRound_modCkpt s fun _ => rfl)

theorem besideRound_fillToStore (s : State) (target : Nat) : BesideRound s (s.fillToStore target) := by
  unfold State.fillToStore
  extract_lets f same s1
  have h1 : BesideRound s s1 := besideRound_modCkpt s fun _ => rfl
  split
  · split
    · exact h1
    · exact h1.trans (besideRound_storeReads s1)
  · exact (besideRound_storeReads _).after ((besideRound_fillMoved s1 f.source).after h1)

/-- A change of source leaves the round as it is (R397). -/
theorem besideRound_fillSwitch (s : State) : BesideRound s s.fillSwitch := by
  unfold State.fillSwitch
  extract_lets f a b other s1
  have h1 : BesideRound s s1 := besideRound_modCkpt s fun _ => rfl
  split
  · refine BesideRound.after (besideRound_fillMoved _ f.source) ?_
    exact h1.trans (besideRound_modCkpt s1 fun _ => rfl)
  · exact h1.trans (besideRound_fillToStore s1 _)

/-- What the loss of a package does to the round, to the packages reported lost, and, with no bucket slot armed, to the cores (R270,
R293, R307). -/
theorem State.pkgLost_keeps (s : State) (pkg : Nat) : (s.pkgLost pkg).ckpt.lost = insertSet pkg s.ckpt.lost ∧
    (s.pkgLost pkg).cinch.state = (if pkg ∈ s.others then .resolve else s.cinch.state) ∧
    (s.pkgLost pkg).cinch.committed = s.cinch.committed ∧
    ((∀ c, c < 360 → (s.core c).bkt.slots = []) → (s.pkgLost pkg).cores = s.cores) := by
  unfold State.pkgLost
  extract_lets s1 s2
  obtain ⟨hlost, hstate, hcommitted, hcores⟩ : s1.ckpt.lost = insertSet pkg s.ckpt.lost ∧
      s1.cinch.state = (if pkg ∈ s.others then .resolve else s.cinch.state) ∧ s1.cinch.committed = s.cinch.committed ∧
      s1.cores = s.cores := by
    unfold s1
    by_cases hmember : pkg ∈ s.others
    · obtain ⟨r, hr, _, _⟩ := s.resolve_eq pkg
      have hbeside := besideRound_report (s.resolving pkg) r
      rw [if_pos (List.contains_iff_mem.2 hmember), if_pos hmember, hr, hbeside.cinch, hbeside.lost, hbeside.cores]
      exact ⟨rfl, rfl, rfl, rfl⟩
    · rw [if_neg fun h => hmember (List.contains_iff_mem.1 h), if_neg hmember]
      exact ⟨rfl, rfl, rfl, rfl⟩
  have h2 : RoundKept s1 s2 := roundKept_bktSourceLost s1 pkg
  have h3 : BesideRound s2 (if s2.ckpt.fill.fromPkg pkg then s2.fillSwitch else s2) := by
    split
    · exact besideRound_fillSwitch s2
    · exact .refl s2
  refine ⟨(h3.lost.trans h2.lost).trans hlost, (h3.roundKept.state.trans h2.state).trans hstate,
    (h3.roundKept.committed.trans h2.committed).trans hcommitted, fun hslots => ?_⟩
  have hsame : s2 = s1 := State.bktSourceLost_none (fun c hc => by rw [State.core, hcores]; exact hslots c hc) pkg
  exact h3.cores.trans ((congrArg State.cores hsame).trans hcores)

/-- A notice that has come takes the package out of the notices, and it is lost (R293). -/
theorem exec_notice_lost {s : State} {pkg : BitVec 12} (h : pkg.toNat ∈ s.links.notices) : exec (.linkFailureNotice pkg) s =
    .next ((s.modLinks (fun l => { l with notices := l.notices.erase pkg.toNat })).pkgLost pkg.toNat) := by
  rw [exec_linkFailureNotice_eq, execLinkFailureNotice, if_pos (List.contains_iff_mem.2 h)]

theorem exec_notice_none {s : State} {pkg : BitVec 12} (h : pkg.toNat ∉ s.links.notices) :
    exec (.linkFailureNotice pkg) s = .next s := by
  rw [exec_linkFailureNotice_eq, execLinkFailureNotice, if_neg fun hin => h (List.contains_iff_mem.1 hin)]

/-! ## The table of an epoch (R391, R433, R440, R441) -/

/-- From `s` to `t` only HBM and the report queues have changed. -/
def HbmAndReports (s t : State) : Prop := ∃ h r q, t = { s with hbm := h, reports := r, saddleReports := q }

theorem HbmAndReports.refl (s : State) : HbmAndReports s s := ⟨_, _, _, rfl⟩

theorem HbmAndReports.trans {s t u : State} (h : HbmAndReports s t) (h' : HbmAndReports t u) : HbmAndReports s u := by
  obtain ⟨_, _, _, rfl⟩ := h
  obtain ⟨h, r, q, rfl⟩ := h'
  exact ⟨h, r, q, rfl⟩

theorem hbmAndReports_modHbm (s : State) (f : Hbm → Hbm) : HbmAndReports s (s.modHbm f) := ⟨_, _, _, rfl⟩

theorem hbmAndReports_report (s : State) (r : Report) : HbmAndReports s (s.report r) := by
  unfold State.report
  split
  · exact .refl s
  · exact ⟨_, _, _, rfl⟩

theorem hbmAndReports_hbmUe (s : State) (base : Report) (a : Nat) : HbmAndReports s (s.hbmUe base a) := by
  unfold State.hbmUe
  split
  · exact .refl s
  · unfold State.hbmUeAt
    extract_lets st ch named recent s1 s2
    have h2 : HbmAndReports s s2 := (hbmAndReports_modHbm s _).trans (hbmAndReports_report s1 named)
    split
    · exact hbmAndReports_report s named
    · split
      · exact h2.trans (hbmAndReports_report s2 _)
      · exact h2

theorem hbmAndReports_sysRefused (s : State) (rep : Nat → Report) (a : Nat) (c : HbmCheck) :
    HbmAndReports s (s.sysRefused rep a c) := by
  cases c with
  | ok => exact .refl s
  | unmapped => exact (hbmAndReports_modHbm s _).trans (hbmAndReports_report _ _)
  | denied => exact (hbmAndReports_modHbm s _).trans (hbmAndReports_report _ _)

theorem hbmAndReports_sysRead (s : State) (rep : Nat → Report) (a n : Nat) : HbmAndReports s (s.sysRead rep a n).1 := by
  unfold State.sysRead
  split
  · split
    · exact hbmAndReports_hbmUe s _ _
    · exact ⟨_, _, _, rfl⟩
  · exact hbmAndReports_sysRefused s rep a _

/-- Reading the member table may correct HBM, count and report, and nothing else (R391, R440). -/
theorem hbmAndReports_readTable (s : State) (epoch : Nat) : HbmAndReports s (s.readTable epoch).1 := by
  unfold State.readTable
  dsimp only
  split
  · exact .refl s
  · split
    · exact hbmAndReports_sysRead s _ _ _
    · exact (hbmAndReports_sysRead s _ _ _).trans (hbmAndReports_sysRead _ _ _ _)

theorem State.epochError_readTable (s : State) (e epoch : Nat) (t : Option TableIn) :
    (s.readTable e).1.epochError epoch t = s.epochError epoch t := by
  obtain ⟨_, _, _, h⟩ := hbmAndReports_readTable s e
  rw [h]
  rfl

/-! ## What waits for other members (R391, R392) -/

theorem State.mem_others {s : State} {p : Nat} : p ∈ s.others ↔ p ∈ s.group ∧ p ≠ s.ownPkg := by
  unfold State.others
  rw [List.mem_filter, decide_eq_true_iff]

/-- A member of the table is of the group. -/
theorem State.mem_group {s : State} {m : Member} (h : m ∈ s.cinch.members) : m.pkg ∈ s.group := by
  unfold State.group
  rw [if_neg fun hnone => List.ne_nil_of_mem h (List.isEmpty_iff.1 hnone)]
  exact List.mem_map_of_mem h

/-- The views wait for the digests of all other members (R392). -/
theorem State.tryViews_of_missing {s : State} (h : ∃ p, p ∈ s.others ∧ p ∉ s.ckpt.digests) : s.tryViews = s := by
  obtain ⟨p, hp, hmissing⟩ := h
  have hnot : s.others.all (fun p => s.ckpt.digests.contains p) = false :=
    Bool.eq_false_iff.2 fun hall => hmissing (List.contains_iff_mem.1 (List.all_eq_true.1 hall p hp))
  unfold State.tryViews
  simp only [hnot, Bool.and_false, Bool.false_eq_true, if_false]

/-- With digests that differ no view is sent (R391). -/
theorem State.tryViews_of_mismatch {s : State} (h : s.ckpt.mismatch = true) : s.tryViews = s := by
  unfold State.tryViews
  simp only [h, Bool.not_true, Bool.and_false, Bool.false_and, Bool.false_eq_true, if_false]

/-- The outcome waits for the views of all survivors (R392). -/
theorem State.tryOutcome_of_missing {s : State} (h : ∃ p, p ∈ s.survivors ∧ ∀ v, v ∈ s.ckpt.views → v.pkg ≠ p) :
    s.tryOutcome = s := by
  obtain ⟨p, hp, hmissing⟩ := h
  have hnot : s.survivors.all (fun p => s.ckpt.views.any (fun v => v.pkg = p)) = false := by
    refine Bool.eq_false_iff.2 fun hall => ?_
    obtain ⟨v, hv, heq⟩ := List.any_eq_true.1 (List.all_eq_true.1 hall p hp)
    exact hmissing v hv (of_decide_eq_true heq)
  unfold State.tryOutcome
  simp only [hnot, Bool.and_false, Bool.false_eq_true, if_false]

/-! ## EPOCH_GO (R391) -/

/-- The epoch and the members of a sound table, with which the round stops unless a package that was alone has none (R391). -/
def Cinch.newEpoch (x : Cinch) (own now : Nat) (epoch : BitVec 16) (t : TableIn) : Cinch :=
  let y : Cinch := { x with epoch := epoch, oldMembers := x.members, members := t.members, roundAt := now }
  { y with state := if x.state = .idle && x.members.isEmpty && !y.isSpare own then .idle else .resolve }

/-- The tiers as a table is loaded: digests and views are forgotten, the own digest is kept (R391). -/
def Ckpt.newEpoch (k : Ckpt) (t : TableIn) : Ckpt :=
  { k with epochErr := 0, ownDigest := t.digest, digests := [], views := [], mismatch := false, outcome := 0, waiting := false }

def State.newEpoch (s : State) (epoch : BitVec 16) (t : TableIn) : State :=
  { s with cinch := s.cinch.newEpoch s.ownPkg s.now epoch t, ckpt := s.ckpt.newEpoch t }

/-- The digests of older epochs and of this one no longer wait (R391). -/
def Ckpt.waitOn (k : Ckpt) (epoch : BitVec 16) : Ckpt := { k with early := k.early.filter (fun e => epoch.toNat < e.2.epoch.toNat) }

/-- A loaded table: the own digest goes to the other members, and theirs that have come are compared (R391). -/
def State.epochLoad (s : State) (epoch : BitVec 16) (t : TableIn) : State :=
  let s1 := (s.newEpoch epoch t).toOthers (fun p => .epochDigest p epoch.toNat t.digest)
  ((s1.ckpt.early.filter (fun e => e.2.epoch = epoch)).foldl (fun s e => s.digestIn e.1 e.2.value)
    (s1.modCkpt (·.waitOn epoch))).tryViews

theorem exec_epochGo_loads {s : State} {epoch : BitVec 16} {t : TableIn} (htable : (s.readTable epoch.toNat).2 = some t)
    (herr : s.epochError epoch.toNat (some t) = 0) :
    exec (.epochGo epoch) s = .next ((s.readTable epoch.toNat).1.epochLoad epoch t) := by
  rw [exec_epochGo_eq]
  unfold execEpochGo
  rw [← s.epochError_readTable epoch.toNat] at herr
  generalize s.readTable epoch.toNat = w at *
  obtain ⟨u, tbl⟩ := w
  obtain rfl : tbl = some t := htable
  exact congrArg Host.Outcome.next (if_pos herr)

/-- The views of a new epoch wait for the other members of its table (R392). -/
theorem State.newEpoch_waits {s u : State} {epoch : BitVec 16} {t : TableIn} (hsent : LinkSide (s.newEpoch epoch t) u)
    (hothers : ∃ m, m ∈ t.members ∧ m.pkg ≠ s.ownPkg) : (u.modCkpt (·.waitOn epoch)).tryViews = u.modCkpt (·.waitOn epoch) := by
  obtain ⟨_, _, _, _, _, _, _, rfl⟩ := hsent
  obtain ⟨m, hm, hother⟩ := hothers
  exact State.tryViews_of_missing ⟨m.pkg, State.mem_others.2 ⟨State.mem_group hm, hother⟩, List.not_mem_nil⟩

/-- With other members, none of whose digests has come, a loaded table waits for them (R391). -/
theorem State.epochLoad_eq {s : State} {epoch : BitVec 16} {t : TableIn} (hothers : ∃ m, m ∈ t.members ∧ m.pkg ≠ s.ownPkg)
    (hearly : ∀ e, e ∈ s.ckpt.early → e.2.epoch ≠ epoch) :
    ∃ u, LinkSide (s.newEpoch epoch t) u ∧ s.epochLoad epoch t = u.modCkpt (·.waitOn epoch) := by
  have hsent := linkSide_toOthers (s.newEpoch epoch t) (fun p => .epochDigest p epoch.toNat t.digest)
  refine ⟨_, hsent, ?_⟩
  unfold State.epochLoad
  generalize (s.newEpoch epoch t).toOthers (fun p => .epochDigest p epoch.toNat t.digest) = u at hsent ⊢
  have hcame : u.ckpt.early.filter (fun e => decide (e.2.epoch = epoch)) = [] := by
    refine List.filter_eq_nil_iff.2 fun e he heq => hearly e ?_ (of_decide_eq_true heq)
    obtain ⟨_, _, _, _, _, _, _, rfl⟩ := hsent
    exact he
  dsimp only
  rw [hcame]
  exact State.newEpoch_waits hsent hothers

/-- EPOCH_GO with a sound table that names other members, none of whose digests has come: the epoch and the members are taken, and no
core is touched (R391). -/
theorem exec_epochGo_taken {s : State} {epoch : BitVec 16} {t : TableIn} (htable : (s.readTable epoch.toNat).2 = some t)
    (herr : s.epochError epoch.toNat (some t) = 0) (hothers : ∃ m, m ∈ t.members ∧ m.pkg ≠ s.ownPkg)
    (hearly : ∀ e, e ∈ s.ckpt.early → e.2.epoch ≠ epoch) :
    ∃ u, exec (.epochGo epoch) s = .next u ∧ u.cores = s.cores ∧ u.cinch = s.cinch.newEpoch s.ownPkg s.now epoch t ∧
      u.ckpt = (s.ckpt.newEpoch t).waitOn epoch := by
  obtain ⟨_, _, _, hread⟩ := hbmAndReports_readTable s epoch.toNat
  obtain ⟨w, ⟨_, _, _, _, _, _, _, hsent⟩, hload⟩ := State.epochLoad_eq (s := (s.readTable epoch.toNat).1) (epoch := epoch) (t := t)
    (by rw [hread]; exact hothers) (by rw [hread]; exact hearly)
  refine ⟨_, (exec_epochGo_loads htable herr).trans (congrArg _ hload), ?_⟩
  rw [hsent, hread]
  exact ⟨rfl, rfl, rfl⟩

/-- Any other table sets EPOCH_ST.ERR only (R391). -/
theorem exec_epochGo_refused {s : State} {epoch : BitVec 16}
    (herr : s.epochError epoch.toNat (s.readTable epoch.toNat).2 ≠ 0) : exec (.epochGo epoch) s =
      .next ((s.readTable epoch.toNat).1.modCkpt (fun k => { k with
        epochErr := s.epochError epoch.toNat (s.readTable epoch.toNat).2 })) := by
  rw [exec_epochGo_eq]
  unfold execEpochGo
  rw [← s.epochError_readTable epoch.toNat] at herr ⊢
  generalize s.readTable epoch.toNat = w at *
  obtain ⟨u, tbl⟩ := w
  cases tbl with
  | none => rfl
  | some tb => exact congrArg Host.Outcome.next (if_neg herr)

/-! ## EPOCH_DIGEST and OUTCOME_EXCHANGE (R391, R392) -/

/-- A digest that differs from the own one stops the round and is reported (R391). -/
theorem State.digestIn_differs {s : State} {pkg : Nat} {digest : Word} (hother : pkg ∈ s.others) (hne : digest ≠ s.ckpt.ownDigest) :
    ∃ t r, s.digestIn pkg digest = t ∧ t.cinch = { s.cinch with state := .resolve } ∧ t.ckpt = { s.ckpt with mismatch := true } ∧
      (s.rst.running = [] → t.reports = s.reports ++ [r]) ∧ r.code = codeEpochMismatch ∧ r.detail = pkg := by
  unfold State.digestIn
  rw [List.contains_iff_mem.2 hother, Bool.not_true, if_neg Bool.false_ne_true, if_pos hne]
  extract_lets s1
  have hside : ∀ r, LinkSide s1 (s1.report r) := linkSide_report s1
  exact ⟨_, _, rfl, (hside _).besideRound.cinch, (hside _).ckpt, fun hcalm => State.reports_of_calm (s := s1) hcalm _, rfl, rfl⟩

theorem State.digestIn_agrees {s : State} {pkg : Nat} {digest : Word} (hother : pkg ∈ s.others) (heq : digest = s.ckpt.ownDigest) :
    s.digestIn pkg digest = s.modCkpt (fun k => { k with digests := insertSet pkg k.digests }) := by
  unfold State.digestIn
  rw [List.contains_iff_mem.2 hother, Bool.not_true, if_neg Bool.false_ne_true, if_neg (not_not_intro heq)]

theorem exec_epochDigest_known {s : State} {pkg : BitVec 12} {digest : TableHash} (h : digest.epoch = s.cinch.epoch) :
    exec (.epochDigest pkg digest) s = .next (s.digestIn pkg.toNat digest.value).tryViews := by
  rw [exec_epochDigest_eq, execEpochDigest, if_neg (by rw [h]; exact Nat.lt_irrefl _), if_pos h]

theorem exec_epochDigest_newer {s : State} {pkg : BitVec 12} {digest : TableHash} (h : s.cinch.epoch.toNat < digest.epoch.toNat) :
    exec (.epochDigest pkg digest) s = .next (s.modCkpt (fun k => { k with
      early := k.early.filter (fun e => e ≠ (pkg.toNat, digest)) ++ [(pkg.toNat, digest)] })) := by
  rw [exec_epochDigest_eq, execEpochDigest, if_neg (Nat.lt_asymm h), if_neg fun heq => Nat.lt_irrefl _ (heq ▸ h)]

theorem exec_epochDigest_older {s : State} {pkg : BitVec 12} {digest : TableHash} (h : digest.epoch.toNat < s.cinch.epoch.toNat) :
    exec (.epochDigest pkg digest) s = .next (s.modCinch (·.stale)) := by
  rw [exec_epochDigest_eq, execEpochDigest, if_pos h]

/-- A survivor's view for the loaded epoch takes the place of its last one (R392). -/
theorem exec_outcomeExchange_known {s : State} {epoch : BitVec 32} {view : StepView} (hepoch : epoch.toNat = s.cinch.epoch.toNat)
    (hin : view.pkg ∈ s.survivors) (hother : view.pkg ≠ s.ownPkg) : exec (.outcomeExchange epoch view) s =
      .next (s.modCkpt (fun k => { k with views := k.views.filter (fun w => w.pkg ≠ view.pkg) ++ [view] })).tryOutcome := by
  rw [exec_outcomeExchange_eq, execOutcomeExchange, if_neg (by rw [hepoch]; exact Nat.lt_irrefl _), List.contains_iff_mem.2 hin,
    decide_eq_true hepoch, decide_eq_true hother]
  rfl

theorem exec_outcomeExchange_older {s : State} {epoch : BitVec 32} {view : StepView} (h : epoch.toNat < s.cinch.epoch.toNat) :
    exec (.outcomeExchange epoch view) s = .next (s.modCinch (·.stale)) := by
  rw [exec_outcomeExchange_eq, execOutcomeExchange, if_pos h]

/-! ## The obligation -/

/-- Settles O45: lost members stop the round, a new epoch is loaded or refused, and digests and views are gathered. -/
theorem lostMembersAndNewEpochs : Obligations.LostMembersAndNewEpochs := by
  intro s pkg epoch e32 digest view x z u tbl err known
  refine ⟨fun howes hlate => ?_, fun hnone => exec_notice_none hnone, fun hin => ?_, fun tb htable herr hothers hearly => ?_,
    fun herr => ?_, fun hknown hdiffers => ?_, fun hknown hagrees hmissing => ?_, fun hnewer => ?_, fun holder => ?_,
    fun hepoch hin hother hmissing => ?_, fun holder => ?_⟩
  · obtain ⟨r, hresolve, hcode, hdetail⟩ := s.resolve_eq pkg.toNat
    have hbeside := besideRound_report (s.resolving pkg.toNat) r
    refine ⟨_, exec_roundTimeout_late howes hlate, ?_, ?_, ?_, fun hcalm => ⟨r, ?_, hcode, hdetail⟩⟩
    · rw [hresolve]
      exact congrArg (fun t : State => { t with cinch := x, ckpt := z }) ((s.resolving pkg.toNat).report_rest r)
    · rw [hresolve]
      exact hbeside.cinch
    · rw [hresolve]
      exact hbeside.lost
    · rw [hresolve]
      exact State.reports_of_calm (s := s.resolving pkg.toNat) hcalm r
  · exact ⟨_, exec_notice_lost hin, State.pkgLost_keeps _ _⟩
  · obtain ⟨t, hexec, hcores, hcinch, hckpt⟩ := exec_epochGo_taken htable (htable ▸ herr) hothers hearly
    refine ⟨t, hexec, ?_⟩
    rw [hcinch, hckpt]
    exact ⟨rfl, rfl, rfl, rfl, rfl, rfl, rfl, rfl, rfl, fun c => by rw [State.core, hcores]; rfl⟩
  · exact ⟨_, exec_epochGo_refused herr, rfl, rfl⟩
  · obtain ⟨hepoch, hother⟩ := hknown
    obtain ⟨t, r, ht, hcinch, hckpt, hreports, hcode, hdetail⟩ := State.digestIn_differs hother hdiffers
    have hstays := State.tryViews_of_mismatch (congrArg Ckpt.mismatch hckpt)
    exact ⟨t, (exec_epochDigest_known hepoch).trans (congrArg _ ((congrArg State.tryViews ht).trans hstays)), hckpt, hcinch,
      fun hcalm => ⟨r, hreports hcalm, hcode, hdetail⟩⟩
  · obtain ⟨hepoch, hother⟩ := hknown
    obtain ⟨p, hp, hne, hnot⟩ := hmissing
    have hwaits := (congrArg State.tryViews (State.digestIn_agrees hother hagrees)).trans
      (State.tryViews_of_missing ⟨p, hp, fun hmem => (mem_insertSet.1 hmem).elim hne hnot⟩)
    exact ⟨_, (exec_epochDigest_known hepoch).trans (congrArg _ hwaits), rfl, rfl⟩
  · refine ⟨_, exec_epochDigest_newer hnewer, rfl, List.mem_append_right _ (List.mem_singleton_self _), rfl, fun e he => ?_⟩
    by_cases hsame : e = (pkg.toNat, digest)
    · exact List.mem_append_right _ (List.mem_singleton.2 hsame)
    · exact List.mem_append_left _ (List.mem_filter.2 ⟨he, decide_eq_true hsame⟩)
  · obtain ⟨hframe, hcount⟩ := s.stale_counts
    exact ⟨_, exec_epochDigest_older holder, hframe, hcount⟩
  · obtain ⟨p, hp, hne, hnot⟩ := hmissing
    refine ⟨_, (exec_outcomeExchange_known hepoch hin hother).trans
      (congrArg _ (State.tryOutcome_of_missing ⟨p, hp, ?_⟩)), rfl, rfl⟩
    intro v hv
    obtain hv | hv := List.mem_append.1 hv
    · exact hnot v (List.mem_filter.1 hv).1
    · rw [List.mem_singleton.1 hv]
      exact hne.symm
  · obtain ⟨hframe, hcount⟩ := s.stale_counts
    exact ⟨_, exec_outcomeExchange_older holder, hframe, hcount⟩

end Sys2Proof.Machine
end

section
/-! PROOF. The ports, what leaves one of them, and a port at which no packet waits (R278 to R284). -/

namespace Sys2Proof.Machine

open Sys2Proof

/-! ## Ports as a map -/

@[simp] theorem State.port_setPort_self (s : State) (p : Nat) (q : Port) : (s.setPort p q).port p = q := FMap.get_set_self _ _ _ _
theorem State.port_setPort_ne (s : State) {p j : Nat} (h : j ≠ p) (q : Port) : (s.setPort p q).port j = s.port j :=
  FMap.get_set_ne _ _ h _
@[simp] theorem State.port_emit (s : State) (o : Out) (p : Nat) : (s.emit o).port p = s.port p := rfl

/-! ## What leaves one port (R278 to R284) -/

/-- From `s` to `t` only port `p` has changed, outputs have been added and free values drawn. -/
def AtPort (p : Nat) (s t : State) : Prop :=
  (∃ ps l n, t = { s with links := { s.links with ports := ps }, out := s.out ++ l, free := n }) ∧ ∀ j, j ≠ p → t.port j = s.port j

theorem AtPort.refl (p : Nat) (s : State) : AtPort p s s := ⟨⟨s.links.ports, [], s.free, by rw [List.append_nil]⟩, fun _ _ => rfl⟩

theorem AtPort.trans {p : Nat} {s t u : State} (h : AtPort p s t) (h' : AtPort p t u) : AtPort p s u := by
  obtain ⟨⟨_, l, _, rfl⟩, hother⟩ := h
  obtain ⟨⟨ps, l', n, rfl⟩, hother'⟩ := h'
  exact ⟨⟨ps, l ++ l', n, by rw [List.append_assoc]⟩, fun j hj => (hother' j hj).trans (hother j hj)⟩

theorem atPort_setPort (s : State) (p : Nat) (q : Port) : AtPort p s (s.setPort p q) :=
  ⟨⟨_, [], s.free, by rw [List.append_nil]; rfl⟩, fun _ hj => s.port_setPort_ne hj q⟩

theorem atPort_modPort (s : State) (p : Nat) (f : Port → Port) : AtPort p s (s.modPort p f) := atPort_setPort s p _

theorem AtPort.modPort {p : Nat} {s t : State} (h : AtPort p s t) (f : Port → Port) : AtPort p s (t.modPort p f) :=
  h.trans (atPort_modPort t p f)

/-- Outputs are added. -/
def State.puts (s : State) (l : List Out) : State := { s with out := s.out ++ l }

@[simp] theorem State.port_puts (s : State) (l : List Out) (p : Nat) : (s.puts l).port p = s.port p := rfl

theorem State.emit_eq_puts (s : State) (o : Out) : s.emit o = s.puts [o] := rfl

theorem State.puts_puts (s : State) (l l' : List Out) : (s.puts l).puts l' = s.puts (l ++ l') := by
  unfold State.puts
  rw [List.append_assoc]

theorem atPort_puts (s : State) (p : Nat) (l : List Out) : AtPort p s (s.puts l) :=
  ⟨⟨s.links.ports, l, s.free, rfl⟩, fun _ _ => rfl⟩

theorem atPort_free (s : State) (p n : Nat) : AtPort p s { s with free := n } :=
  ⟨⟨s.links.ports, [], n, by rw [List.append_nil]⟩, fun _ _ => rfl⟩

/-- What was put out stays. -/
theorem AtPort.mem_out {p : Nat} {s t : State} (h : AtPort p s t) {o : Out} (ho : o ∈ s.out) : o ∈ t.out := by
  obtain ⟨⟨_, l, _, rfl⟩, -⟩ := h
  exact List.mem_append_left l ho

/-- Outside the ports, the outputs and the count of free values nothing differs, and of the ports only `p`. -/
theorem AtPort.only {p : Nat} {s t : State} (h : AtPort p s t) :
    { t with free := s.free, links := s.links, out := s.out } = s ∧ { t.links with ports := s.links.ports } = s.links ∧
      ∀ j, j ≠ p → t.port j = s.port j := by
  obtain ⟨⟨_, _, _, rfl⟩, hother⟩ := h
  exact ⟨rfl, rfl, hother⟩

theorem AtPort.only_of_free {p : Nat} {s t : State} (h : AtPort p s t) (hfree : t.free = s.free) :
    { t with links := s.links, out := s.out } = s ∧ { t.links with ports := s.links.ports } = s.links ∧
      ∀ j, j ≠ p → t.port j = s.port j := by
  have hsame := h.only
  rw [← hfree] at hsame
  exact hsame

theorem atPort_frameOut (s : State) (p : Nat) : AtPort p s (s.frameOut p) := (atPort_setPort s p _).trans (atPort_puts _ p _)

theorem atPort_framesOut (p n : Nat) (s : State) : AtPort p s (State.framesOut p n s) := by
  induction n generalizing s with
  | zero => exact .refl p s
  | succ n ih =>
    unfold State.framesOut
    split
    · exact (atPort_frameOut s p).trans (ih _)
    · exact .refl p s

theorem State.idleSlots_eq (n : Nat) (s : State) : ∃ m, (State.idleSlots n s).2 = { s with free := m } := by
  induction n generalizing s with
  | zero => exact ⟨s.free, rfl⟩
  | succ n ih =>
    obtain ⟨m, hm⟩ := ih (s.draw 256).2
    exact ⟨m, hm⟩

/-- A frame time fills and sends one frame at most; the packets that wait at the port go on waiting. -/
theorem State.frameTick_cases (s : State) (p : Nat) : s.frameTick p = s ∨
    ∃ n l, s.frameTick p = (({ s with free := n } : State).modPort p (fun q => { q with tx := q.tx ++ l })).frameOut p := by
  unfold State.frameTick
  dsimp only
  split
  · obtain ⟨m, hm⟩ := State.idleSlots_eq (29 - (s.port p).tx.length) s
    rw [hm]
    exact .inr ⟨m, _, rfl⟩
  · exact .inl rfl

theorem atPort_frameTick (s : State) (p : Nat) : AtPort p s (s.frameTick p) := by
  obtain h | ⟨n, l, h⟩ := s.frameTick_cases p
  · rw [h]
    exact .refl p s
  · rw [h]
    exact ((atPort_free s p n).modPort _).trans (atPort_frameOut _ p)

theorem State.outq_frameOut (s : State) (p : Nat) : ((s.frameOut p).port p).outq = (s.port p).outq := by
  unfold State.frameOut
  simp only [State.port_emit, State.port_setPort_self]

theorem State.outq_frameTick (s : State) (p : Nat) : ((s.frameTick p).port p).outq = (s.port p).outq := by
  obtain h | ⟨n, l, h⟩ := s.frameTick_cases p
  · rw [h]
  · rw [h, State.outq_frameOut, State.port_modPort_self]
    rfl

/-! ## A port at which nothing waits -/

theorem State.drainPort_empty {s : State} {p : Nat} (h : (s.port p).outq = []) : s.drainPort p = s := by
  rw [State.drainPort, h]
  rfl

/-- A port at which no packet waits. -/
def Port.cleared (q : Port) : Port := { q with outq := [] }

theorem State.refuseOut_empty {s : State} {p : Nat} (h : (s.port p).outq = []) : s.refuseOut p = s.modPort p (·.cleared) := by
  unfold State.refuseOut
  unfold State.modPort
  simp only [h, List.filter_nil, List.foldl_nil]
  rfl

/-- The frames of the replay buffer leave, and nothing else changes (R281). -/
theorem State.resendFrames_eq (s : State) (p : Nat) :
    s.resendFrames p = s.puts ((s.port p).replay.map (fun x => .frame p x.hdr x.slots)) := by
  unfold State.resendFrames
  generalize (s.port p).replay = l
  induction l generalizing s with
  | nil => rw [List.map_nil, State.puts, List.append_nil]; rfl
  | cons x l ih => rw [List.foldl_cons, ih, State.emit_eq_puts, State.puts_puts, List.map_cons, List.singleton_append]

/-- Without undelivered GRANTs none is sent again (R547). -/
theorem State.resendGrants_none {s : State} (h : ∀ c, c < 360 → (s.core c).welt.undelivered = []) : s.resendGrants = s := by
  unfold State.resendGrants
  refine List.foldlRecOn allCores _ (motive := fun t => t = s) rfl fun t ht c hc => ?_
  rw [ht, h c (List.mem_range.1 hc)]
  rfl

/-- A packet joins those that wait at port `p`. -/
def State.queued (s : State) (p : Nat) (o : OutPkt) : State :=
  s.modPort p (fun q => { q.begins o.k.vc.toNat with outq := q.outq ++ [o] })

theorem Port.begins_eq (q : Port) (vc : Nat) : ∃ m, q.begins vc = { q with served := m } := by
  unfold Port.begins
  extract_lets waits all level least m
  clear_value least
  split
  · exact ⟨q.served, rfl⟩
  · split
    · exact ⟨_, rfl⟩
    · cases least with
      | nil => exact ⟨_, rfl⟩
      | cons x xs => exact ⟨_, rfl⟩

theorem State.port_queued (s : State) (p : Nat) (o : OutPkt) :
    ∃ m, (s.queued p o).port p = { s.port p with served := m, outq := (s.port p).outq ++ [o] } := by
  obtain ⟨m, hm⟩ := (s.port p).begins_eq o.k.vc.toNat
  refine ⟨m, ?_⟩
  rw [State.queued, State.port_modPort_self, hm]

theorem Port.nextOut_one {q : Port} {o : OutPkt} (h : q.outq = [o]) : q.nextOut = if q.mayStart o.k then some o else none := by
  unfold Port.nextOut
  rw [h]
  cases hs : q.mayStart o.k <;> simp [hs]

/-- The first packet at a port that is UP leaves at once when it may start, and waits there otherwise (R283, R284). -/
theorem State.sendVia_first {s : State} {p : Nat} (hup : (s.port p).state = .up) (hq : (s.port p).outq = [])
    (via : Option (Nat × Packet)) (k : Packet) (data : List Byte) (slot : Nat) :
    s.sendVia via p k data slot = if (s.port p).mayStart k then (s.queued p ⟨k, data, slot, via⟩).packetOut p ⟨k, data, slot, via⟩
      else s.queued p ⟨k, data, slot, via⟩ := by
  obtain ⟨m, hm⟩ := s.port_queued p ⟨k, data, slot, via⟩
  rw [hq, List.nil_append] at hm
  have hnext := Port.nextOut_one (q := (s.queued p ⟨k, data, slot, via⟩).port p) (o := ⟨k, data, slot, via⟩) (by rw [hm])
  have hmay : ((s.queued p ⟨k, data, slot, via⟩).port p).mayStart k = (s.port p).mayStart k := by rw [hm]; rfl
  have hlen : ((s.queued p ⟨k, data, slot, via⟩).port p).outq.length = 1 := by rw [hm]; rfl
  have hstate : ((s.queued p ⟨k, data, slot, via⟩).port p).state = .up := by rw [hm]; exact hup
  have hsend : s.sendVia via p k data slot = State.portDrain p 1 (s.queued p ⟨k, data, slot, via⟩) := by
    rw [← hlen]
    rfl
  rw [hsend, State.portDrain, if_pos hstate, hnext, hmay]
  cases (s.port p).mayStart k <;> rfl

end Sys2Proof.Machine
end

section
/-! PROOF. Training (R273, R275, R276, R282): enabling, retraining, and the end of an attempt. -/

namespace Sys2Proof.Machine

open Sys2Proof

/-! ## LINK_CTL (Table 10.9) -/

theorem bit_setFld_zero (v : Word) : bit (setFld v 0 1 1) 0 = true := by
  have hlow : setFld v 0 1 1 = BitVec.ofNat 64 (v.toNat - v.toNat % 2 + 1) := by simp [setFld, fld]
  rw [hlow, bit, fld, BitVec.toNat_ofNat, Nat.shiftRight_zero, decide_eq_true_eq]
  omega

/-- Setting bit 0 leaves the other bits. -/
theorem bit_setFld_succ (v : Word) (i : Nat) : bit (setFld v 0 1 1) (i + 1) = bit v (i + 1) := by
  have hlow : setFld v 0 1 1 = BitVec.ofNat 64 (v.toNat - v.toNat % 2 + 1) := by simp [setFld, fld]
  have hhalf : (v.toNat - v.toNat % 2 + 1) % 2 ^ 64 / 2 = v.toNat / 2 := by omega
  have hdiv : ∀ n, n / 2 ^ (i + 1) = n / 2 / 2 ^ i := fun n => by rw [Nat.pow_succ', Nat.div_div_eq_div_mul]
  rw [hlow, bit, bit, fld, fld, BitVec.toNat_ofNat, Nat.shiftRight_eq_div_pow, Nat.shiftRight_eq_div_pow, hdiv, hdiv, hhalf]

/-! ## Training (R273, R275, R282) -/

theorem exec_linkEnable_eq (p : Fin 16) (s : State) : exec (.linkEnable p) s = execLinkEnable p s := rfl
theorem exec_trainingAttemptEnd_eq (p : Fin 16) (pass : BitVec 17) (peer : TrainRec) (s : State) :
    exec (.trainingAttemptEnd p pass peer) s = execTrainingAttemptEnd p pass peer s := rfl

/-- A port that trains at rate `r`. -/
def Port.training (q : Port) (r : Nat) : Port :=
  { q with state := .training, trying := r, rate := 0, active := 0, spare := none, spareUsed := false, failing := [] }

/-- A port that is about to retrain with its own rate allowed. -/
def Port.retraining (q : Port) : Port :=
  { q with
    retrains := satAdd 8 q.retrains 1
    alsoRate := q.rate
    replay := q.replay.map (fun f => { f with resent := 0 })
    replayFullAt := none }

theorem State.trainStart_trains {s : State} {p most r : Nat} (hset : s.links.pkgSet = true) (hrec : s.sec.recovery = false)
    (hr : (s.port p).rateBelow (most + 1) = some r) : s.trainStart p most = s.modPort p (·.training r) := by
  simp only [State.trainStart, hset, hrec, hr]
  rfl

/-- Bits 1 to 3 of LINK_CTL and the rate kept for a retraining settle which rates are allowed. -/
theorem Port.rateBelow_enabled (q : Port) (r : Nat) : ({ q with ctl := setFld q.ctl 0 1 1 } : Port).rateBelow r = q.rateBelow r := by
  have h1 := bit_setFld_succ q.ctl 0
  have h2 := bit_setFld_succ q.ctl 1
  have h3 := bit_setFld_succ q.ctl 2
  simp only [Nat.reduceAdd] at h1 h2 h3
  simp only [Port.rateBelow, Port.allows, List.find?_cons, List.find?_nil, h1, h2, h3]

section
variable {s : State} {p : Fin 16}

theorem exec_linkEnable_trains (hset : s.links.pkgSet = true) (hrec : s.sec.recovery = false) (hdown : (s.port p.val).state = .down)
    (hrate : ((s.port p.val).rateBelow 4).isSome = true) :
    ∃ t, exec (.linkEnable p) s = .next t ∧ AtPort p.val s t ∧ t.free = s.free ∧ (t.port p.val).state = .training ∧
      bit (t.port p.val).ctl 0 = true ∧ some (t.port p.val).trying = (s.port p.val).rateBelow 4 := by
  obtain ⟨r, hr⟩ := Option.isSome_iff_exists.1 hrate
  have hstart := State.trainStart_trains (s := s.modPort p.val (fun q => { q with ctl := setFld q.ctl 0 1 1 })) (p := p.val) (most := 3)
    hset hrec (by rw [State.port_modPort_self, Port.rateBelow_enabled, hr])
  have hexec : exec (.linkEnable p) s = .next ((s.modPort p.val (fun q => { q with ctl := setFld q.ctl 0 1 1 })).modPort p.val
      (·.training r)) := by
    rw [exec_linkEnable_eq, execLinkEnable, if_pos hdown, hstart]
  refine ⟨_, hexec, (atPort_modPort s p.val _).modPort _, rfl, ?_⟩
  rw [State.port_modPort_self, State.port_modPort_self, hr]
  exact ⟨rfl, bit_setFld_zero _, rfl⟩

/-- Port `p` has begun to train at the highest rate allowed when its own one is, and the retraining is counted. -/
def Retrains (s t : State) (p : Nat) : Prop :=
  AtPort p s t ∧ t.free = s.free ∧ (t.port p).state = .training ∧
    some (t.port p).trying = ({ s.port p with alsoRate := (s.port p).rate } : Port).rateBelow 4 ∧
    (t.port p).retrains = min 255 ((s.port p).retrains + 1)

theorem retrains_retrainPort (hset : s.links.pkgSet = true) (hrec : s.sec.recovery = false)
    (hrate : (({ s.port p.val with alsoRate := (s.port p.val).rate } : Port).rateBelow 4).isSome = true) :
    Retrains s (s.retrainPort p.val) p.val := by
  obtain ⟨r, hr⟩ := Option.isSome_iff_exists.1 hrate
  have hstart : s.retrainPort p.val = (s.modPort p.val (·.retraining)).modPort p.val (·.training r) :=
    State.trainStart_trains (s := s.modPort p.val (·.retraining)) (most := 3) hset hrec (by rw [State.port_modPort_self]; exact hr)
  rw [hstart]
  refine ⟨(atPort_modPort s p.val _).modPort _, rfl, ?_⟩
  rw [State.port_modPort_self, State.port_modPort_self, hr]
  exact ⟨rfl, rfl, rfl⟩

theorem exec_retrain_trains (hset : s.links.pkgSet = true) (hrec : s.sec.recovery = false) (hon : bit (s.port p.val).ctl 0 = true)
    (hrate : (({ s.port p.val with alsoRate := (s.port p.val).rate } : Port).rateBelow 4).isSome = true) :
    ∃ t, exec (.retrain p) s = .next t ∧ Retrains s t p.val :=
  ⟨_, congrArg Host.Outcome.next (if_pos hon), retrains_retrainPort hset hrec hrate⟩

theorem exec_replayTimeout_trains (hset : s.links.pkgSet = true) (hrec : s.sec.recovery = false) (hup : (s.port p.val).state = .up)
    (hrate : (({ s.port p.val with alsoRate := (s.port p.val).rate } : Port).rateBelow 4).isSome = true)
    (hdue : (∃ x, x ∈ (s.port p.val).replay ∧ 8 ≤ x.resent) ∨ ∃ w, (s.port p.val).replayFullAt = some w ∧ w + 10000 ≤ s.now) :
    ∃ t, exec (.replayTimeout p) s = .next t ∧ Retrains s t p.val := by
  refine ⟨_, congrArg Host.Outcome.next (if_pos ?_), retrains_retrainPort hset hrec hrate⟩
  rw [hup]
  obtain ⟨x, hx, hresent⟩ | ⟨w, hw, hlate⟩ := hdue
  · have hany : (s.port p.val).replay.any (fun f => 8 ≤ f.resent) = true := List.any_eq_true.2 ⟨x, hx, decide_eq_true hresent⟩
    simp [hany]
  · simp [hw, hlate]

/-- A port that has come up at the rate tried on the lanes that passed, with the record of its peer. -/
def Port.cameUp (q : Port) (l : BitVec 17 × Option Nat) (peer : TrainRec) (now : Nat) : Port :=
  { q with
    state := .up, rate := q.trying, trying := 0, alsoRate := 0, active := l.1, spare := l.2, spareUsed := false, spareFor := 0,
    wide := (lanesOf l.1).length = 16, forceMinw0 := false, gen1 := peer.gen, trecPkg := some peer.pkg.toNat,
    replayFullAt := if 512 ≤ q.replay.length then some now else none,
    trec := [(0, trecWord peer), (1, peer.txCount), (2, BitVec.ofNat 64 now)] }

/-- What leaves as a port comes up: its record, and the frames of the replay buffer (R276, R281). -/
def State.upOuts (s : State) (p : Nat) : List Out :=
  [.trainRec p (s.ownRecord p)] ++ (s.port p).replay.map (fun x => .frame p x.hdr x.slots)

/-- With no packet waiting at the port and no GRANT undelivered, the records are exchanged and the frames sent again (R275, R276,
R282). -/
theorem State.portUp_eq (l : BitVec 17 × Option Nat) (peer : TrainRec) (hq : (s.port p.val).outq = [])
    (hgrants : ∀ c, c < 360 → (s.core c).welt.undelivered = []) : s.portUp p.val l.1 l.2 peer =
      (((s.modPort p.val (·.cameUp l peer s.now)).puts (s.upOuts p.val)).modPort p.val (·.cleared)) := by
  have hport := State.port_modPort_self s p.val (·.cameUp l peer s.now)
  have hresent : ((s.modPort p.val (·.cameUp l peer s.now)).puts [.trainRec p.val (s.ownRecord p.val)]).resendFrames p.val =
      (s.modPort p.val (·.cameUp l peer s.now)).puts (s.upOuts p.val) := by
    rw [State.resendFrames_eq, State.puts_puts, State.port_puts, hport]
    rfl
  have hup : s.portUp p.val l.1 l.2 peer = ((((((s.modPort p.val (·.cameUp l peer s.now)).puts
    [.trainRec p.val (s.ownRecord p.val)]).resendFrames p.val).refuseOut p.val).drainPort p.val).resendGrants) := rfl
  rw [hup, hresent]
  generalize hu : (s.modPort p.val (·.cameUp l peer s.now)).puts (s.upOuts p.val) = u
  have hempty : (u.port p.val).outq = [] := by
    rw [← hu, State.port_puts, hport]
    exact hq
  have hcores : u.cores = s.cores := by rw [← hu]; rfl
  rw [State.refuseOut_empty hempty, State.drainPort_empty (congrArg Port.outq (State.port_modPort_self u p.val _)),
    State.resendGrants_none]
  intro c hc
  rw [State.core, State.modPort_cores, hcores]
  exact hgrants c hc

theorem exec_trainingAttemptEnd_comesUp {pass : BitVec 17} {peer : TrainRec} {l : BitVec 17 × Option Nat}
    (htrain : (s.port p.val).state = .training) (hpeer : bit peer.rates ((s.port p.val).trying - 1) = true)
    (hlanes : laneChoice (s.port p.val).minw pass = some l) (hgrants : ∀ c, c < 360 → (s.core c).welt.undelivered = [])
    (hq : (s.port p.val).outq = []) :
    ∃ t, exec (.trainingAttemptEnd p pass peer) s = .next t ∧ AtPort p.val s t ∧ t.free = s.free ∧
      t.port p.val = ((s.port p.val).cameUp l peer s.now).cleared ∧ t.out = s.out ++ s.upOuts p.val := by
  have hexec : exec (.trainingAttemptEnd p pass peer) s = .next (s.portUp p.val l.1 l.2 peer) := by
    rw [exec_trainingAttemptEnd_eq, execTrainingAttemptEnd, if_pos htrain, if_pos hpeer, hlanes]
  refine ⟨_, hexec, ?_⟩
  rw [State.portUp_eq l peer hq hgrants]
  refine ⟨((atPort_modPort s p.val _).trans (atPort_puts _ p.val _)).modPort _, rfl, ?_, rfl⟩
  rw [State.port_modPort_self, State.port_puts, State.port_modPort_self]

theorem exec_trainingAttemptEnd_fallsBack {pass : BitVec 17} {peer : TrainRec} {r : Nat} (htrain : (s.port p.val).state = .training)
    (hlanes : laneChoice (s.port p.val).minw pass = none) (hr : (s.port p.val).rateBelow (s.port p.val).trying = some r) :
    exec (.trainingAttemptEnd p pass peer) s = .next (s.setPort p.val { s.port p.val with trying := r }) := by
  rw [exec_trainingAttemptEnd_eq, execTrainingAttemptEnd, if_pos htrain, hlanes, ite_self, hr]

end

end Sys2Proof.Machine
end

section
/-! PROOF. Frames and retry (R278, R281): what a port sends for an accepted frame, and which frames it discards. -/

namespace Sys2Proof.Machine

open Sys2Proof

/-- What sending packets and frames changes of a port. -/
def Port.Sends (q r : Port) : Prop := { r with
  outq := q.outq, tx := q.tx, served := q.served, used := q.used, freed := q.freed, txNext := q.txNext, nakDue := q.nakDue,
  ackTold := q.ackTold, freedTold := q.freedTold, replay := q.replay, replayFullAt := q.replayFullAt } = q

theorem Port.Sends.trans {q r x : Port} (h : q.Sends r) (h' : r.Sends x) : q.Sends x := by
  unfold Port.Sends at h h' ⊢
  rw [← h'] at h
  exact h

/-- From `s` to `t` packets and frames have left the ports, and the accounts have been charged for them. -/
def PortsSend (s t : State) : Prop :=
  (∃ ps o g, t = { s with links := { s.links with ports := ps }, out := o, glob := g }) ∧ ∀ j, (s.port j).Sends (t.port j)

theorem PortsSend.refl (s : State) : PortsSend s s := ⟨⟨_, _, _, rfl⟩, fun _ => rfl⟩

theorem PortsSend.trans {s t u : State} (h : PortsSend s t) (h' : PortsSend t u) : PortsSend s u := by
  obtain ⟨⟨_, _, _, rfl⟩, hports⟩ := h
  obtain ⟨⟨ps, o, g, rfl⟩, hports'⟩ := h'
  exact ⟨⟨ps, o, g, rfl⟩, fun j => (hports j).trans (hports' j)⟩

theorem PortsSend.after {s t u : State} (h' : PortsSend t u) (h : PortsSend s t) : PortsSend s u := h.trans h'

theorem portsSend_setPort {s : State} {p : Nat} {q : Port} (h : (s.port p).Sends q) : PortsSend s (s.setPort p q) := by
  refine ⟨⟨_, _, _, rfl⟩, fun j => ?_⟩
  by_cases hj : j = p
  · rw [hj, State.port_setPort_self]
    exact h
  · rw [State.port_setPort_ne s hj]
    rfl

theorem portsSend_emit (s : State) (o : Out) : PortsSend s (s.emit o) := ⟨⟨_, _, _, rfl⟩, fun _ => rfl⟩

theorem portsSend_frameOut (s : State) (p : Nat) : PortsSend s (s.frameOut p) :=
  (portsSend_emit _ _).after (portsSend_setPort rfl)

theorem portsSend_framesOut (p n : Nat) (s : State) : PortsSend s (State.framesOut p n s) := by
  induction n generalizing s with
  | zero => exact .refl s
  | succ n ih =>
    unfold State.framesOut
    split
    · exact (portsSend_frameOut s p).trans (ih _)
    · exact .refl s

theorem portsSend_viaFreed (s : State) (via : Option (Nat × Packet)) : PortsSend s (s.viaFreed via) := by
  cases via with
  | none => exact .refl s
  | some v => exact portsSend_setPort rfl

theorem portsSend_packetOut (s : State) (p : Nat) (o : OutPkt) : PortsSend s (s.packetOut p o) := by
  have hacct : ∀ (b : Bool) (u : State) (c n : Nat), PortsSend u (if b then u.acctLink c n else u) := by
    intro b u c n
    cases b
    · exact .refl u
    · exact ⟨⟨_, _, _, rfl⟩, fun _ => rfl⟩
  exact (portsSend_framesOut _ _ _).after ((portsSend_emit _ _).after ((hacct _ _ _ _).after
    ((portsSend_viaFreed _ o.via).after (portsSend_setPort rfl))))

theorem portsSend_portDrain (p n : Nat) (s : State) : PortsSend s (State.portDrain p n s) := by
  induction n generalizing s with
  | zero => exact .refl s
  | succ n ih =>
    unfold State.portDrain
    split
    · split
      · exact (portsSend_packetOut s p _).trans (ih _)
      · exact .refl s
    · exact .refl s

section
variable {s : State} {p : Fin 16} {f : FrameIn}

theorem exec_linkFrame_eq (p : Fin 16) (f : FrameIn) (s : State) : exec (.linkFrame p f) s = execLinkFrame p f s := rfl

/-- The state in which a port sends what an accepted frame lets go: a NAK has had the frames left for replay sent again. -/
def State.frameAccepted (s : State) (p : Nat) (f : FrameIn) : State :=
  if f.nak && (s.port p).state = .up then (s.setPort p ((s.port p).frameTaken f)).resendFrames p
  else s.setPort p ((s.port p).frameTaken f)

theorem exec_linkFrame_accepts (hrun : (s.port p.val).state = .up ∨ (s.port p.val).state = .sparing) (hgood : f.good = true)
    (hnext : f.fseq = (s.port p.val).rxAck + 1) : exec (.linkFrame p f) s = .next ((s.frameAccepted p.val f).drainPort p.val) := by
  rw [exec_linkFrame_eq, execLinkFrame, if_pos (by simpa using hrun), if_pos (by simp [hgood, hnext])]
  rfl

theorem exec_linkFrame_discards (hrun : (s.port p.val).state = .up ∨ (s.port p.val).state = .sparing)
    (hbad : ¬ (f.good = true ∧ f.fseq = (s.port p.val).rxAck + 1)) :
    exec (.linkFrame p f) s = .next (s.setPort p.val { s.port p.val with
      nakSent := true, nakDue := (s.port p.val).nakDue || !f.good || !(s.port p.val).nakSent }) := by
  rw [exec_linkFrame_eq, execLinkFrame, if_pos (by simpa using hrun), if_neg (by simpa using hbad)]

/-- A NAK has the frames left for replay sent again, as they were (R281). -/
theorem State.frameAccepted_eq (s : State) (p : Nat) (f : FrameIn) : s.frameAccepted p f =
    (s.setPort p ((s.port p).frameTaken f)).puts (if f.nak = true ∧ (s.port p).state = .up then
      (ackReplay (s.port p).replay f.ackseq).map (fun x => .frame p x.hdr x.slots) else []) := by
  unfold State.frameAccepted
  by_cases h : f.nak = true ∧ (s.port p).state = .up
  · rw [if_pos (by simpa using h), if_pos h, State.resendFrames_eq, State.port_setPort_self]
    simp only [Port.frameTaken, h.1, if_true, List.map_map]
    rfl
  · rw [if_neg (by simpa using h), if_neg h, State.puts, List.append_nil]

/-- The frames left for replay are those that ACKSEQ does not cover (R281). -/
theorem Port.frameTaken_replay (q : Port) (f : FrameIn) :
    (q.frameTaken f).replay.map (·.fseq) = (ackReplay q.replay f.ackseq).map (·.fseq) := by
  unfold Port.frameTaken
  cases f.nak
  · rfl
  · simp

theorem ackReplay_eq (l : List ReplayFrame) (ack : BitVec 12) :
    ackReplay l ack = l.filter (fun x => decide (2048 ≤ (ack - x.fseq).toNat)) := by
  unfold ackReplay
  congr 1
  funext x
  simp only [← Nat.not_lt, decide_not]

end

/-- An accepted frame is acknowledged, and what the drain of its port then sends leaves that and the state of the port alone. -/
theorem exec_linkFrame_takes {s : State} {p : Fin 16} {f : FrameIn} (hrun : (s.port p.val).state = .up ∨ (s.port p.val).state = .sparing)
    (hgood : f.good = true) (hnext : f.fseq = (s.port p.val).rxAck + 1) :
    ∃ t, exec (.linkFrame p f) s = .next t ∧ PortsSend (s.setPort p.val ((s.port p.val).frameTaken f)) t ∧
      ((s.port p.val).outq = [] → t = s.frameAccepted p.val f) := by
  refine ⟨_, exec_linkFrame_accepts hrun hgood hnext, (portsSend_portDrain p.val _ _).after ?_, fun hq => ?_⟩
  · rw [State.frameAccepted_eq]
    exact ⟨⟨_, _, _, rfl⟩, fun _ => rfl⟩
  · refine State.drainPort_empty ?_
    rw [State.frameAccepted_eq, State.port_puts, State.port_setPort_self]
    exact hq

end Sys2Proof.Machine
end

section
/-! PROOF. Lane sparing (R292, Table 10.7): the sets of lanes, the swap that a failing lane begins, and the spare in its place. -/

namespace Sys2Proof.Machine

open Sys2Proof

theorem exec_lanectl_eq (p : Fin 16) (lane : Fin 17) (s : State) : exec (.lanectl p lane) s = execLanectl p lane s := rfl
theorem exec_spareTrained_eq (p : Fin 16) (s : State) : exec (.spareTrained p) s = execSpareTrained p s := rfl

/-! ## Sets of lanes (R275, R292) -/

/-- A lane joins a set that lacks it. -/
theorem getLsbD_add_two_pow {a i : Nat} (j : Nat) (hi : i < 17) (ha : (BitVec.ofNat 17 a).getLsbD i = false) :
    (BitVec.ofNat 17 (a + 2 ^ i)).getLsbD j = ((BitVec.ofNat 17 a).getLsbD j || decide (j = i)) := by
  have hpow : BitVec.ofNat 17 (2 ^ i) = BitVec.twoPow 17 i := by
    apply BitVec.eq_of_toNat_eq
    rw [BitVec.toNat_twoPow, BitVec.toNat_ofNat]
  have hand : BitVec.ofNat 17 a &&& BitVec.twoPow 17 i = 0#17 := by
    rw [BitVec.and_twoPow, ha]
    rfl
  rw [BitVec.ofNat_add, hpow, BitVec.add_eq_or_of_and_eq_zero _ _ hand, BitVec.getLsbD_or, BitVec.getLsbD_twoPow]
  simp [hi, eq_comm]

theorem getLsbD_addLanes {l : List Nat} (j : Nat) : ∀ {a : Nat}, l.Nodup →
    (∀ i, i ∈ l → i < 17 ∧ (BitVec.ofNat 17 a).getLsbD i = false) →
    (BitVec.ofNat 17 (l.foldl (fun a i => a + 2 ^ i) a)).getLsbD j = ((BitVec.ofNat 17 a).getLsbD j || decide (j ∈ l)) := by
  induction l with
  | nil => intro a _ _; simp
  | cons i l ih =>
    intro a hnodup hfresh
    obtain ⟨hout, hnodup⟩ := List.nodup_cons.1 hnodup
    obtain ⟨hi, hclear⟩ := hfresh i List.mem_cons_self
    have hadd := fun n => getLsbD_add_two_pow n hi hclear
    have hrest : ∀ n, n ∈ l → n < 17 ∧ (BitVec.ofNat 17 (a + 2 ^ i)).getLsbD n = false := fun n hn => by
      obtain ⟨hn17, hn0⟩ := hfresh n (List.mem_cons_of_mem i hn)
      have hne : n ≠ i := fun h => hout (h ▸ hn)
      exact ⟨hn17, by rw [hadd, hn0, decide_eq_false hne]; rfl⟩
    rw [List.foldl_cons, ih hnodup hrest, hadd]
    simp [Bool.or_assoc]

/-- The set of some lanes holds each of them and no other. -/
theorem bit_laneSet {l : List Nat} (hnodup : l.Nodup) (hlanes : ∀ i, i ∈ l → i < 17) (j : Nat) :
    bit (laneSet l) j = decide (j ∈ l) := by
  rw [bit_eq_getLsbD, laneSet, getLsbD_addLanes j hnodup fun i hi => ⟨hlanes i hi, by simp⟩]
  simp

theorem mem_lanesOf {v : BitVec 17} {i : Nat} : i ∈ lanesOf v ↔ i < 17 ∧ bit v i = true := by
  simp [lanesOf]

/-- The lanes of a port after a swap: the spare has taken the place of the failing lane. -/
theorem bit_swapped {v : BitVec 17} {sp j : Nat} (hsp : sp < 17) (hspare : bit v sp = false) (failing : Nat) (hj : j < 17) :
    bit (laneSet ((lanesOf v).filter (fun i => i ≠ failing) ++ [sp])) j = true ↔ j = sp ∨ (bit v j = true ∧ j ≠ failing) := by
  have hnodup : ((lanesOf v).filter (fun i => i ≠ failing) ++ [sp]).Nodup := by
    refine List.Nodup.append ((List.nodup_range.filter _).filter _) (List.nodup_singleton sp) ?_
    simp [mem_lanesOf, hspare]
  have hlanes : ∀ i, i ∈ (lanesOf v).filter (fun i => i ≠ failing) ++ [sp] → i < 17 := by
    intro i hi
    obtain hi | hi := List.mem_append.1 hi
    · exact (mem_lanesOf.1 (List.mem_filter.1 hi).1).1
    · rw [List.mem_singleton.1 hi]
      exact hsp
  rw [bit_laneSet hnodup hlanes, decide_eq_true_iff]
  simp only [List.mem_append, List.mem_filter, mem_lanesOf, List.mem_singleton, decide_eq_true_eq, hj, true_and]
  exact or_comm

/-! ## The swap (Table 10.7) -/

/-- A control packet is charged to no core: as it leaves nothing but its port and the outputs changes. -/
theorem atPort_packetOut_control (s : State) (p : Nat) {o : OutPkt} (hvia : o.via = none) (hkind : o.k.pkind.toNat ≠ 0) :
    AtPort p s (s.packetOut p o) ∧ Out.packet p o.k o.data ∈ (s.packetOut p o).out := by
  unfold State.packetOut
  simp only [hvia, State.viaFreed, hkind, decide_false, Bool.false_and, Bool.false_eq_true, if_false]
  have hframes := atPort_framesOut p 8
  refine ⟨((atPort_modPort s p _).trans (atPort_puts _ p _)).trans (hframes _), (hframes _).mem_out ?_⟩
  exact List.mem_append_right _ (List.mem_singleton_self _)

/-- A control packet that is the first to wait at an UP port is sent, or it waits there. -/
theorem State.sendVia_control {s : State} {p : Nat} (hup : (s.port p).state = .up) (hq : (s.port p).outq = []) {k : Packet}
    (hkind : k.pkind.toNat ≠ 0) (data : List Byte) :
    AtPort p s (s.sendVia none p k data 0) ∧ if (s.port p).mayStart k then Out.packet p k data ∈ (s.sendVia none p k data 0).out
      else ((s.sendVia none p k data 0).port p).outq = [⟨k, data, 0, none⟩] := by
  have hqueued : AtPort p s (s.queued p ⟨k, data, 0, none⟩) := atPort_modPort s p _
  rw [State.sendVia_first hup hq]
  split
  · obtain ⟨hat, hout⟩ := atPort_packetOut_control (s.queued p ⟨k, data, 0, none⟩) p (o := ⟨k, data, 0, none⟩) rfl hkind
    exact ⟨hqueued.trans hat, hout⟩
  · obtain ⟨m, hm⟩ := s.port_queued p ⟨k, data, 0, none⟩
    exact ⟨hqueued, by rw [hm, hq]; rfl⟩

/-- A swap of lane `lane` of port `p` has begun: the port is SPARING, and a LANECTL packet on VC0 that names the lane has been sent, or
waits there. -/
def SwapBegun (s t : State) (p lane : Nat) : Prop :=
  AtPort p s t ∧ (t.port p).state = .sparing ∧ (t.port p).swapLane = lane ∧
    ∃ (k : Packet) (data : List Byte), k.pkind = 4 ∧ k.vc = 0 ∧ k.dpkg.toNat = (s.port p).trecPkg.getD 0 % 4096 ∧
      k.line.toNat = lane ∧
      if (s.port p).room 0 0 2 = true ∧ (s.port p).replayRoom 2 = true then Out.packet p k data ∈ t.out
      else (t.port p).outq.map (·.k) = [k]

/-- The data slot of the next LANECTL packet, whose content is free. -/
def State.laneCtlData (s : State) : List Byte := natBytes 32 (s.draw 256).1.toNat
/-- The LANECTL packet that names lane `lane` of port `p` (log entry 90). -/
def State.laneCtl (s : State) (p lane : Nat) : Packet :=
  (s.header 4 0 ((s.port p).trecPkg.getD 0) 0x1FF 0x1FF 0 lane 0).seal s.laneCtlData

theorem State.laneCtl_mayStart (s : State) (p lane : Nat) :
    (s.port p).mayStart (s.laneCtl p lane) = true ↔ (s.port p).room 0 0 2 = true ∧ (s.port p).replayRoom 2 = true :=
  Iff.of_eq (Bool.and_eq_true _ _)

theorem swapBegun_swapBegin {s : State} {p lane : Nat} (hup : (s.port p).state = .up) (hq : (s.port p).outq = []) (hlane : lane < 17) :
    SwapBegun s (s.swapBegin p lane) p lane := by
  obtain ⟨hsend, hleft⟩ := State.sendVia_control (s := (s.draw 256).2) (p := p) (k := s.laneCtl p lane) hup hq
    (show (4 : BitVec 4).toNat ≠ 0 by decide) s.laneCtlData
  have hswap : s.swapBegin p lane = (((s.draw 256).2.sendVia none p (s.laneCtl p lane) s.laneCtlData 0).frameTick p).modPort p
      (fun q => { q with state := .sparing, swapLane := lane }) := rfl
  rw [hswap]
  generalize (s.draw 256).2.sendVia none p (s.laneCtl p lane) s.laneCtlData 0 = u at hsend hleft
  have htick := atPort_frameTick u p
  have hat : AtPort p s (u.frameTick p) := (atPort_free s p _).trans (hsend.trans htick)
  have hport := State.port_modPort_self (u.frameTick p) p (fun q => { q with state := .sparing, swapLane := lane })
  refine ⟨hat.modPort _, by rw [hport], by rw [hport], s.laneCtl p lane, s.laneCtlData, rfl, rfl, BitVec.toNat_ofNat _ _, ?_, ?_⟩
  · exact (BitVec.toNat_ofNat _ _).trans (Nat.mod_eq_of_lt (by omega))
  · split
    · next h => exact htick.mem_out ((if_pos ((s.laneCtl_mayStart p lane).2 h)).mp hleft)
    · next h =>
      have hwaits := (if_neg (mt (s.laneCtl_mayStart p lane).1 h)).mp hleft
      have houtq : ((u.frameTick p).port p).outq.map (·.k) = [s.laneCtl p lane] := by rw [State.outq_frameTick, hwaits]; rfl
      rw [hport]
      exact houtq

/-- A failing active lane of an UP port with a spare begins a swap. -/
theorem State.laneFails_swaps {s : State} {p lane : Nat} (hup : (s.port p).state = .up) (hactive : bit (s.port p).active lane = true)
    (hspare : (s.port p).spare.isSome = true) : s.laneFails p lane = s.swapBegin p lane := by
  obtain ⟨sp, hsp⟩ := Option.isSome_iff_exists.1 hspare
  simp only [State.laneFails, hactive, hup, hsp]
  rfl

/-- The buffer slots that LANECTL frees make no difference to the swap. -/
theorem SwapBegun.of_slotsFreed {s t : State} {p lane : Nat} {k : Packet} (h : SwapBegun (s.slotsFreed p k) t p lane) :
    SwapBegun s t p lane := by
  obtain ⟨hat, hstate, hlane, k', data, hkind, hvc, hdpkg, hline, hleft⟩ := h
  have hport : (s.slotsFreed p k).port p = { s.port p with
      freed := (s.port p).freed.set k.credKey (((s.port p).freed.get 0 k.credKey + k.slots) % 256) } := State.port_modPort_self s p _
  rw [hport] at hdpkg hleft
  exact ⟨(atPort_modPort s p _).trans hat, hstate, hlane, k', data, hkind, hvc, hdpkg, hline, hleft⟩

/-! ## The commands -/

section
variable {s : State} {p : Fin 16} {lane : Fin 17} (hup : (s.port p.val).state = .up)
  (hactive : bit (s.port p.val).active lane.val = true) (hspare : (s.port p.val).spare.isSome = true)
  (hq : (s.port p.val).outq = [])
include hup hactive hspare hq

theorem exec_laneLockLoss_swaps : ∃ t, exec (.laneLockLoss p lane) s = .next t ∧ SwapBegun s t p.val lane.val :=
  ⟨_, congrArg Host.Outcome.next (State.laneFails_swaps hup hactive hspare), swapBegun_swapBegin hup hq lane.isLt⟩

theorem exec_lanectl_swaps : ∃ t, exec (.lanectl p lane) s = .next t ∧ SwapBegun s t p.val lane.val := by
  have hexec : exec (.lanectl p lane) s =
      .next ((s.slotsFreed p.val (s.header 4 0 s.ownPkg 0x1FF 0x1FF 0 lane.val 0)).swapBegin p.val lane.val) := by
    rw [exec_lanectl_eq, execLanectl]
    simp only [hup, hactive, hspare]
    rfl
  refine ⟨_, hexec, SwapBegun.of_slotsFreed (swapBegun_swapBegin ?_ ?_ lane.isLt)⟩
  · exact (congrArg Port.state (State.port_modPort_self s p.val _)).trans hup
  · exact (congrArg Port.outq (State.port_modPort_self s p.val _)).trans hq

theorem exec_laneErrorWindow_swaps {corrected : BitVec 32} (hover : fld (s.port p.val).ctl 32 32 < corrected.toNat) :
    ∃ t, exec (.laneErrorWindow p lane corrected) s = .next t ∧ SwapBegun s t p.val lane.val :=
  ⟨_, congrArg Host.Outcome.next ((if_pos hover).trans (State.laneFails_swaps hup hactive hspare)),
    swapBegun_swapBegin hup hq lane.isLt⟩

end

/-- The port after the spare `sp` has replaced the failing lane of its swap. -/
def Port.swapped (q : Port) (sp : Nat) : Port :=
  { q with
    state := .up
    active := laneSet ((lanesOf q.active).filter (fun i => i ≠ q.swapLane) ++ [sp])
    spare := none
    spareUsed := true
    spareFor := q.swapLane
    failing := []
    swaps := satAdd 8 q.swaps 1 }

theorem exec_spareTrained_swaps {s : State} {p : Fin 16} {sp : Nat} (hsparing : (s.port p.val).state = .sparing)
    (hspare : (s.port p.val).spare = some sp) (hfailing : (s.port p.val).failing = []) (hq : (s.port p.val).outq = [])
    (hgrants : ∀ c, c < 360 → (s.core c).welt.undelivered = []) : exec (.spareTrained p) s =
      .next ((s.setPort p.val ((s.port p.val).swapped sp)).puts ((s.port p.val).replay.map (fun x => .frame p.val x.hdr x.slots))) := by
  have hresent : (s.setPort p.val ((s.port p.val).swapped sp)).resendFrames p.val =
      (s.setPort p.val ((s.port p.val).swapped sp)).puts ((s.port p.val).replay.map (fun x => .frame p.val x.hdr x.slots)) := by
    rw [State.resendFrames_eq, State.port_setPort_self]
    rfl
  have hexec : exec (.spareTrained p) s =
      .next ((((s.setPort p.val ((s.port p.val).swapped sp)).resendFrames p.val).drainPort p.val).resendGrants) := by
    rw [exec_spareTrained_eq, execSpareTrained]
    simp only [hsparing, hspare, hfailing]
    rfl
  rw [hexec, hresent, State.drainPort_empty, State.resendGrants_none]
  · exact hgrants
  · rw [State.port_puts, State.port_setPort_self]
    exact hq

end Sys2Proof.Machine
end

section
/-! PROOF. O41: a port trains, comes up, takes frames in order, retries, and replaces a failing lane by its spare (R273,
R275, R276, R281, R282, R292). -/

namespace Sys2Proof.Machine

open Sys2Proof

/-- Settles O41: each command makes its update of the port, and what leaves by the port changes nothing else. -/
theorem linkPortsTrainAndRecover : Obligations.LinkPortsTrainAndRecover := by
  intro s p pass peer f lane corrected q again only mayTrain trains fails
  have hretrains : ∀ t, Retrains s t p.val → trains t := fun t ⟨hat, hfree, hport⟩ => ⟨hat.only_of_free hfree, hport⟩
  have hfails : ∀ t, SwapBegun s t p.val lane.val → fails t := fun t ⟨hat, hport⟩ => ⟨hat.only, hport⟩
  refine ⟨?_, ?_, ?_, ?_, ?_, ?_, ?_, ?_, ?_⟩
  · intro ⟨hset, hrec⟩ hdown hrate
    obtain ⟨t, ht, hat, hfree, hport⟩ := exec_linkEnable_trains hset hrec hdown hrate
    exact ⟨t, ht, hat.only_of_free hfree, hport⟩
  · intro ⟨hset, hrec⟩ hon hrate
    obtain ⟨t, ht, h⟩ := exec_retrain_trains hset hrec hon hrate
    exact ⟨t, ht, hretrains t h⟩
  · intro ⟨hset, hrec⟩ hup hrate hdue
    obtain ⟨t, ht, h⟩ := exec_replayTimeout_trains hset hrec hup hrate hdue
    exact ⟨t, ht, hretrains t h⟩
  · intro l htrain hpeer hlanes hgrants hq
    obtain ⟨t, ht, hat, hfree, hport, hout⟩ := exec_trainingAttemptEnd_comesUp htrain hpeer hlanes hgrants hq
    refine ⟨t, ht, hat.only_of_free hfree, ?_⟩
    rw [hport, hout, State.upOuts, List.append_assoc]
    exact ⟨rfl, rfl, rfl, rfl, rfl, rfl, rfl⟩
  · intro r htrain hlanes hr
    refine ⟨_, exec_trainingAttemptEnd_fallsBack htrain hlanes hr, ?_, State.port_setPort_self s p.val _⟩
    exact (atPort_setPort s p.val _).only_of_free rfl
  · intro hrun hgood hnext
    obtain ⟨t, ht, ⟨⟨ps, o, g, hrest⟩, hports⟩, hempty⟩ := exec_linkFrame_takes hrun hgood hnext
    have hport := hports p.val
    rw [State.port_setPort_self, Port.Sends] at hport
    refine ⟨t, ht, by rw [hrest]; rfl, (congrArg Port.rxAck hport :), (congrArg Port.nakSent hport :), (congrArg Port.corrSym hport :),
      (congrArg Port.state hport :), fun hq => ?_⟩
    rw [hempty hq, State.frameAccepted_eq, ← ackReplay_eq]
    refine ⟨((atPort_setPort s p.val _).trans (atPort_puts _ p.val _)).only_of_free rfl, ?_, rfl⟩
    rw [State.port_puts, State.port_setPort_self]
    exact q.frameTaken_replay f
  · intro hrun hbad
    refine ⟨_, exec_linkFrame_discards hrun hbad, ?_, State.port_setPort_self s p.val _⟩
    exact (atPort_setPort s p.val _).only_of_free rfl
  · intro hup hactive hspare hq
    have hlost := exec_laneLockLoss_swaps hup hactive hspare hq
    have hnamed := exec_lanectl_swaps hup hactive hspare hq
    refine ⟨hlost.imp fun t h => ⟨h.1, hfails t h.2⟩, hnamed.imp fun t h => ⟨h.1, hfails t h.2⟩, fun hover => ?_⟩
    exact (exec_laneErrorWindow_swaps hup hactive hspare hq hover).imp fun t h => ⟨h.1, hfails t h.2⟩
  · intro sp hsparing hspare hsp hfree hfailing hq hgrants
    refine ⟨_, exec_spareTrained_swaps hsparing hspare hfailing hq hgrants, ?_, ?_⟩
    · exact ((atPort_setPort s p.val _).trans (atPort_puts _ p.val _)).only_of_free rfl
    · rw [State.port_puts, State.port_setPort_self]
      exact ⟨rfl, rfl, rfl, rfl, fun i hi => bit_swapped hsp hfree q.swapLane hi⟩

end Sys2Proof.Machine
end

section
/-! PROOF. A packet that comes by a port with nothing waiting before it is taken at once, and one for a core of this package lands there
(R41, R280, R288, R303). -/

namespace Sys2Proof.Machine

open Sys2Proof

theorem exec_dataPacket_eq (k : Packet) (port : Fin 16) (lines : List (List Byte)) (s : State) :
    exec (.dataPacket k port lines) s = execDataPacket k port lines s := rfl

/-- A search that only one element can answer gives its answer. -/
theorem findSome?_only {α β : Type} {l : List α} {f : α → Option β} {a : α} {b : β} (ha : a ∈ l) (hf : f a = some b)
    (hne : ∀ x, x ∈ l → x ≠ a → f x = none) : l.findSome? f = some b := by
  cases h : l.findSome? f with
  | none => exact absurd (hf.symm.trans (List.findSome?_eq_none_iff.1 h a ha)) (by simp)
  | some c =>
    obtain ⟨x, hx, hxc⟩ := List.exists_of_findSome?_eq_some h
    by_cases hxa : x = a
    · rw [← hxc, hxa, hf]
    · exact absurd (hxc.symm.trans (hne x hx hxa)) (by simp)

/-- Packet `k` joins the packets that wait in the buffer of port `p`. -/
def State.buffered (s : State) (p : Nat) (k : Packet) (data : List Byte) : State :=
  s.modPort p (fun q => { q with behind := q.behind ++ [(k, data)] })

/-- Nothing waits in the buffer of port `p`. -/
def State.emptied (s : State) (p : Nat) : State := s.modPort p (fun q => { q with behind := [] })

theorem State.behind_buffered (s : State) (p j : Nat) (k : Packet) (data : List Byte) :
    ((s.buffered p k data).port j).behind = if j = p then (s.port p).behind ++ [(k, data)] else (s.port j).behind := by
  have hread : (s.buffered p k data).port j = if j = p then { s.port p with behind := (s.port p).behind ++ [(k, data)] } else s.port j :=
    FMap.get_set _ _ _ _ _
  rw [hread]
  split <;> rfl

/-- With nothing waiting at the ports, a packet whose channel no held header bars is the next to be taken (R303). -/
theorem State.nextBehind_buffered {s : State} {p j : Nat} {k : Packet} (hp : p < 16) (hj : j < 16)
    (hnone : ∀ i, i < 16 → (s.port i).behind = []) (hbar : s.barred p k.vc.toNat = false) (data : List Byte) :
    (s.buffered p k data).nextBehind j = if j = p then some ((k, data), []) else none := by
  have hsame : (s.buffered p k data).barred p k.vc.toNat = s.barred p k.vc.toNat := rfl
  unfold State.nextBehind
  rw [State.behind_buffered, hnone p hp, hnone j hj]
  by_cases h : j = p
  · subst h
    simp [hsame, hbar]
  · simp [h]

theorem State.packetIn_taken {s : State} {p : Nat} {k : Packet} (hp : p < 16) (hnone : ∀ j, j < 16 → (s.port j).behind = [])
    (hbar : s.barred p k.vc.toNat = false) (data : List Byte) :
    let r := ((s.buffered p k data).emptied p).packetTaken p k data
    s.packetIn p k data = State.settle (4 * (s.buffered p k data).heldCount + 3) (if r.2 then [k.dcore.toNat] else []) r.1 := by
  have hnext : (List.range 16).findSome? (fun j => ((s.buffered p k data).nextBehind j).map (fun e => (j, e))) =
      some (p, (k, data), []) := by
    refine findSome?_only (List.mem_range.2 hp) ?_ fun j hj hne => ?_
    · rw [State.nextBehind_buffered hp hp hnone hbar, if_pos rfl]
      rfl
    · rw [State.nextBehind_buffered hp (List.mem_range.1 hj) hnone hbar, if_neg hne]
      rfl
  intro r
  have hin : s.packetIn p k data = State.settle (4 * (s.buffered p k data).heldCount + 3 + 1) [] (s.buffered p k data) := rfl
  rw [hin, State.settle, hnext]
  rfl

/-- With nothing waiting at the ports and no core to look at again nothing moves. -/
theorem State.settle_quiet {s : State} (hnone : ∀ j, j < 16 → (s.port j).behind = []) (n : Nat) : State.settle n [] s = s := by
  have hnext : (List.range 16).findSome? (fun p => (s.nextBehind p).map (fun e => (p, e))) = none := by
    refine List.findSome?_eq_none_iff.2 fun p hp => ?_
    rw [State.nextBehind, hnone p (List.mem_range.1 hp)]
    rfl
  cases n with
  | zero => rfl
  | succ n => rw [State.settle, hnext]

/-- A packet that closes no bucket slot as it is taken is all that moves. -/
theorem State.packetIn_alone {s : State} {p : Nat} {k : Packet} {data : List Byte} (hp : p < 16)
    (hnone : ∀ j, j < 16 → (s.port j).behind = []) (hbar : s.barred p k.vc.toNat = false) {r : State × Bool}
    (htaken : ((s.buffered p k data).emptied p).packetTaken p k data = r) (hflag : r.2 = false)
    (hquiet : ∀ j, j < 16 → (r.1.port j).behind = []) : s.packetIn p k data = r.1 := by
  rw [State.packetIn_taken hp hnone hbar, htaken, hflag]
  exact State.settle_quiet hquiet _

/-- A packet without a partition crosses the fabric to a core, and no bytes are counted for it (R40). -/
theorem State.carried_toCore {k : Packet} (hc : k.dcore.toNat < 360) (s : State) (src n : Nat) : s.carried (k.toEnd src 15) n = s := by
  have hacross : s.across (k.toEnd src 15) n = s := if_pos (by simp [Packet.toEnd])
  have hdie : k.dcore.toNat / 6 < 84 := by omega
  rw [State.carried, hacross]
  simp [Packet.toEnd, coreSite, dieOf, hc, hdie]

theorem State.atRouter_toCore {s : State} {k : Packet} (hc : k.dcore.toNat < 360) (hon : (s.bay (k.dcore.toNat / 30)).state = .on)
    (src : Nat) : s.atRouter (k.toEnd src 15) = .pass := by
  have hbay : k.dcore.toNat / 6 / 5 = k.dcore.toNat / 30 := by omega
  simp [State.atRouter, Packet.toEnd, coreSite, dieOf, hc, hbay, hon]

/-- A packet with the right PCRC for a core whose bay is ON lands. -/
theorem State.packetTaken_lands {s : State} {k : Packet} {data : List Byte} (hmine : k.dpkg.toNat = s.ownPkg) (hc : k.dcore.toNat < 360)
    (hon : (s.bay (k.dcore.toNat / 30)).state = .on) (hok : k.ok data = true) (p : Nat) :
    s.packetTaken p k data = (s.partnerLand k (cdiv data.length 256)).dataIn k 0 (some (p, k)) (dataLinesOf data) := by
  unfold State.packetTaken
  dsimp only
  rw [if_neg (not_not.2 hmine), State.carried_toCore hc, State.atRouter_toCore hc hon, hok]
  rfl

/-- What a DATA packet that comes by port `p` does as it lands; the flag tells that a bucket slot has closed. -/
def State.dataLands (s : State) (p : Nat) (k : Packet) (line : List Byte) : State × Bool :=
  (((s.buffered p k line).emptied p).partnerLand k (cdiv line.length 256)).dataIn k 0 (some (p, k)) (dataLinesOf line)

theorem exec_dataPacket_lands {s : State} {k : Packet} {port : Fin 16} {line : List Byte} (hmine : k.dpkg.toNat = s.ownPkg)
    (hcomes : (∀ j, j < 16 → (s.port j).behind = []) ∧ s.barred port.val k.vc.toNat = false) (hc : k.dcore.toNat < 360)
    (hon : (s.bay (k.dcore.toNat / 30)).state = .on) (hok : k.ok line = true) (hflag : (s.dataLands port.val k line).2 = false)
    (hquiet : ∀ j, j < 16 → ((s.dataLands port.val k line).1.port j).behind = []) :
    exec (.dataPacket k port [line]) s = .next (s.dataLands port.val k line).1 := by
  have htaken := State.packetTaken_lands (s := (s.buffered port.val k line).emptied port.val) hmine hc hon hok port.val
  rw [exec_dataPacket_eq, execDataPacket, if_pos hmine, List.flatten_singleton,
    State.packetIn_alone port.isLt hcomes.1 hcomes.2 htaken hflag hquiet]
  rfl

end Sys2Proof.Machine
end

section
/-! PROOF. O42: a DATA packet of VC6 from a package that this one serves as a partner. The clause on a one-line DATA packet lets
nothing change beside the cores and the links; a line of VC6 also belongs to the partner generation of its sender, which the
checkpoint tiers keep (R383, R385; log entry 72). -/

namespace Sys2Proof.Machine

open Sys2Proof

/-- Package 0 is a partner of package 5, and slot 0 of core 0 holds an ACTIVE remote RECV of one line on channel 0 from core 2 of
package 5. -/
def partnerRecv : State :=
  { State.reset with
    cinch := { members := [⟨5, false, 0, 0xFFFF, 0, 256⟩] }
    cores := [(0, { slots := [(0, { state := .active, desc := 11 + 5 * 2 ^ 216 + 2 ^ 228 + 2 * 2 ^ 229 })] })] }

/-- A line of zeros of the partner write of package 5. -/
def partnerLine : List Byte := List.replicate 256 0

/-- The packet on VC6 that brings it from core 2 of package 5 to core 0. -/
def partnerPacket : Packet := ({
  pkind := 0, vc := 6, hops := 0, dpkg := 0, spkg := 5, dcore := 0, score := 2, chan := 0, nslot := 7, line := 0, epoch := 0, pcrc := 0
} : Packet).seal partnerLine

theorem partnerPacket_ok : partnerPacket.ok partnerLine = true := Packet.ok_seal _ _

theorem partnerRecv_comes : (∀ j, j < 16 → (partnerRecv.port j).behind = []) ∧ partnerRecv.barred (0 : Fin 16).val partnerPacket.vc.toNat = false := by
  decide +kernel

/-- The RECV of `partnerRecv` holds the open position that the packet is for, names its source, and lies in accessible lines. -/
theorem partnerRecv_open :
    let c := partnerPacket.dcore.toNat
    let k := partnerRecv.core c
    let pos := k.sendBase partnerPacket.chan.toNat partnerPacket.line.toNat + partnerPacket.line.toNat
    let x := k.slot 0
    let i := pos - x.start
    k.recvAt partnerPacket.chan.toNat pos = some 0 ∧ k.filled partnerPacket.chan.toNat pos = false ∧ wRemote x.desc = true ∧
      wPkg x.desc = partnerPacket.spkg.toNat ∧ wCore x.desc = partnerPacket.score.toNat ∧
      partnerRecv.runFault c [] (256 * (x.dstBase + wRow x.desc i * dDstr x.desc + wCol x.desc i)) (wBytes x.desc i) = none := by
  decide +kernel

/-- `partnerRecv` once the line has landed. -/
def partnerLanded : State := (partnerRecv.dataLands (0 : Fin 16).val partnerPacket partnerLine).1

theorem exec_dataPacket_partner : exec (.dataPacket partnerPacket 0 [partnerLine]) partnerRecv = .next partnerLanded :=
  exec_dataPacket_lands rfl partnerRecv_comes (by decide) rfl partnerPacket_ok (by decide +kernel) (by decide +kernel)

/-- The package keeps a partner generation that it did not keep before. -/
theorem partnerLanded_gens : partnerLanded.ckpt.partnerGens ≠ partnerRecv.ckpt.partnerGens := by decide +kernel

/-- Refutes O42 with `partnerRecv`: the packet meets every condition of its clause, and its line counts for the partner generation of
package 5 beside filling the RECV. -/
theorem not_packetsReachTheirEndpoint : ¬ Obligations.PacketsReachTheirEndpoint := by
  intro h
  obtain ⟨-, -, hdata, -⟩ := h partnerRecv partnerPacket 0 0 partnerLine [] 0 partnerPacket 0 0
  obtain ⟨hrecv, hopen, hremote, hpkg, hcore, hok⟩ := partnerRecv_open
  obtain ⟨t, ht, hrest, -⟩ := hdata 0 rfl partnerRecv_comes (fun _ => rfl) partnerPacket_ok List.length_replicate (by decide)
    (by decide) hrecv hopen hremote hpkg hcore hok
  have hckpt : t.ckpt = partnerRecv.ckpt := (congrArg State.ckpt hrest :)
  obtain rfl : partnerLanded = t := Host.Outcome.next.inj (exec_dataPacket_partner.symm.trans ht)
  exact partnerLanded_gens (congrArg Ckpt.partnerGens hckpt)

end Sys2Proof.Machine
end
